-- ==== Sys2Proof/Word.lean ====
section
/-! DEFINITION. Word.lean: the word types of the Celien 9 and their plainest abbreviations (R5, R6).
Bit-field, sign-extension and byte-order helpers are in Machine/Bits.lean. -/

namespace Sys2Proof

/-- One byte of memory, scratchpad or a record. -/
abbrev Byte := BitVec 8

/-- One 32-bit register word (R5: v and s registers). -/
abbrev Word := BitVec 32

/-- A 64-bit value: a register pair, an instruction word, a clause header or a 64-bit system register. -/
abbrev DWord := BitVec 64

/-- A set of lanes of one group, bit l for lane l (R3: a group is 32 lanes). -/
abbrev Mask := BitVec 32

end Sys2Proof
end

