-- ==== Sys2Proof/Config.lean ====
section
/-! DEFINITION. Config.lean: what an implementation fixes or leaves open. Nothing in Lean can evaluate these constants;
every claim holds whatever they are. -/

namespace Sys2Proof.Config

/-- FREE VALUE (R371): the approximation of FRCP (0), FRSQ (1), FEXP2 (2), FLOG2 (3), FSIN (4), FCOS (5) and FTANH (6)
of an FP32 input, a fixed function of the input; the model keeps it within the bound the spec states. DESIGN CHOICE, safe: log entry 7. -/
opaque approx : Nat → BitVec 32 → BitVec 32

/-- FREE VALUE (R56): how many granules the compressed and encrypted bytes of a block need, by the block's bytes that are
not zero; the model keeps it within 0 to 4 and at 0 for a block of zeros only. DESIGN CHOICE, safe: log entry 8. -/
opaque granules : List (Nat × BitVec 8) → Nat

/-- FREE VALUE: the n-th byte the spec leaves unspecified (the bytes of cancelled copy units, R247, the content of a trap
record that could not be written, R119, the order of overlapping scatter writes, R242). DESIGN CHOICE, safe: log entry 9. -/
opaque freeByte : Nat → BitVec 8

/-- FREE VALUE: the n-th choice the spec leaves unspecified (which of two candidates). DESIGN CHOICE, safe: log entry 10. -/
opaque freeChoice : Nat → Bool

/-- FREE VALUE: the n-th choice among several that the spec leaves unspecified (the core of a station block, R133).
DESIGN CHOICE, safe: log entry 10. -/
opaque freePick : Nat → Nat

/-- FREE VALUE (R436): the IA, in units of 8 bytes, of Lanmel's save handler (false) and restore handler (true); the spec
says only that they lie outside every function's segments. DESIGN CHOICE, safe: log entry 11. -/
opaque firmware : Bool → Nat

/-- FREE VALUE (R12, R14): kind-specific bits and payload of the n-th message (558 bits of a flit). DESIGN CHOICE, safe: log entry 12. -/
opaque message : Nat → BitVec 558

/-- FREE VALUE (R92): byte k of the digest of the boot ROM. DESIGN CHOICE, safe: log entry 14. -/
opaque romDigest : Nat → BitVec 8

/-- FREE VALUE (R92): byte k of the digest of the Lanmel image of a security version. DESIGN CHOICE, safe: log entry 14. -/
opaque imageDigest : Nat → Nat → BitVec 8

/-- FREE VALUE (R92): byte k of the digest of some bytes. DESIGN CHOICE, safe: log entry 14. -/
opaque digest : List (BitVec 8) → Nat → BitVec 8

/-- FREE VALUE (R92): byte k of the public key of the device identity. DESIGN CHOICE, safe: log entry 14. -/
opaque identityKey : Nat → BitVec 8

/-- FREE VALUE (R92): byte k of the signature over some bytes, by the number of the attestation. DESIGN CHOICE, safe: log entry 14. -/
opaque signature : Nat → List (BitVec 8) → Nat → BitVec 8

/-- FREE VALUE (R297): the 64-byte nonce of the n-th challenge. DESIGN CHOICE, safe: log entry 15. -/
opaque nonce : Nat → Nat

/-- FREE VALUE (R35): LASSTAT fields HOURS, TEMP and OPWR as read from module m. DESIGN CHOICE, safe: log entry 16. -/
opaque laserReading : Nat → Nat → Nat

/-- FREE VALUE (R76, R105): a byte that was encrypted under one key and is decrypted under another, by the two keys' numbers, the address
and the plaintext. DESIGN CHOICE, safe: log entry 125. -/
opaque scrambled : Nat → Nat → Nat → BitVec 8 → BitVec 8

/-- FREE VALUE (R133, R310): %nblk.x, .y and .z of a station block, which belongs to no task record. DESIGN CHOICE, safe: log entry 17. -/
opaque stationGrid : Nat → BitVec 32

/-- FREE VALUE (R215): whether a release also waits for the stores of the group's other lanes. DESIGN CHOICE, safe: log entry 18. -/
opaque releaseAll : Bool

/-- FREE VALUE (R57): firmware's limit of the overflow reserve of a context on a die, in granules. DESIGN CHOICE, safe: log entry 19. -/
opaque reserveLimit : Nat → Nat → Nat

end Sys2Proof.Config
end

