-- ==== Sys2Proof/Machine/Bits.lean ====
section
/-! DEFINITION. Machine/Bits.lean: bit-field, sign-extension, mask and byte-order helpers (R6, R327). -/

namespace Sys2Proof.Machine

/-- bits(x, hi, lo) with `n` = hi − lo + 1 bits from `lo` up (R327). -/
def bits (x lo n : Nat) : Nat := x / 2 ^ lo % 2 ^ n

/-- Whether bit `i` of a natural is set. -/
def bitAt (x i : Nat) : Bool := x / 2 ^ i % 2 == 1

/-- sext(x, n) of R327: the low n bits read as two's complement. -/
def sext (n x : Nat) : Int :=
  if x % 2 ^ n < 2 ^ (n - 1) then ((x % 2 ^ n : Nat) : Int) else ((x % 2 ^ n : Nat) : Int) - 2 ^ n

/-- An integer reduced modulo 2^n. -/
def wrap (n : Nat) (x : Int) : Nat := (x % 2 ^ n).toNat

/-- sat(x, lo, hi) of R327. -/
def sat (x lo hi : Int) : Int := if x < lo then lo else if hi < x then hi else x

/-- Bit l of a mask. -/
def lane (m : BitVec 32) (l : Nat) : Bool := m.getLsbD l

/-- The mask that holds lane l alone. -/
def bit (l : Nat) : BitVec 32 := BitVec.ofNat 32 (2 ^ l)

/-- The lanes of a mask in ascending order. -/
def lanes (m : BitVec 32) : List Nat := (List.range 32).filter fun l => m.getLsbD l

/-- The mask of the lanes below 32 that pass a test. -/
def maskOf (p : Nat → Bool) : BitVec 32 :=
  (List.range 32).foldl (fun m l => if p l then m ||| bit l else m) 0

/-- The lowest lane of a mask. -/
def lowest (m : BitVec 32) : Option Nat := (lanes m).head?

/-- The highest lane of a mask. -/
def highest (m : BitVec 32) : Option Nat := (lanes m).getLast?

/-- The number of lanes of a mask. -/
def count (m : BitVec 32) : Nat := (lanes m).length

/-- The n little-endian bytes of a value (R6). -/
def toBytes : Nat → Nat → List (BitVec 8)
  | 0, _ => []
  | n + 1, x => BitVec.ofNat 8 x :: toBytes n (x / 256)

/-- The value of little-endian bytes (R6). -/
def ofBytes : List (BitVec 8) → Nat
  | [] => 0
  | b :: bs => b.toNat + 256 * ofBytes bs

/-- The number of bits of a natural. -/
def bitLen (x : Nat) : Nat := if x = 0 then 0 else Nat.log2 x + 1

/-- The number of one bits among the low n. -/
def popcount : Nat → Nat → Nat
  | 0, _ => 0
  | n + 1, x => x % 2 + popcount n (x / 2)

/-- The low n bits reversed. -/
def reverseBits : Nat → Nat → Nat
  | 0, _ => 0
  | n + 1, x => x % 2 * 2 ^ n + reverseBits n (x / 2)

/-- The number of trailing zeros of the low n bits, n when they are all zero. -/
def trailingZeros : Nat → Nat → Nat
  | 0, _ => 0
  | n + 1, x => if x % 2 = 1 then 0 else 1 + trailingZeros n (x / 2)

/-- ceil(a / b). -/
def ceilDiv (a b : Nat) : Nat := (a + b - 1) / b

/-- Sorting by an order, by insertion: equal elements keep their order. -/
def insertBy {α : Type} (le : α → α → Bool) (x : α) : List α → List α
  | [] => [x]
  | y :: ys => if le x y then x :: y :: ys else y :: insertBy le x ys
def sortBy {α : Type} (le : α → α → Bool) (xs : List α) : List α := xs.foldr (insertBy le) []

end Sys2Proof.Machine
end

