-- ==== Sys2Proof/Syntax.lean ====
section
/-! DEFINITION. Syntax.lean: the abstract syntax, one constructor of `Instr` per row of the opcode table.
Rows that are instruction words carry their decoded fields (R305-R314 and the instruction chapters); rows that are
operations or events of the device carry the parameters that pick out the one step meant (95_what_each_step_holds). -/

namespace Sys2Proof

/-! ### Operands of instruction words -/

/-- The guard of a word (R305, R306): `pg` 0 to 11 a predicate, 12 always; `pn` negates. -/
structure Guard where
  pn : Bool
  pg : Nat
  deriving DecidableEq, Repr

/-- An operand specifier read as a source (R308): v, s, indexed v[xk+off], immediate, special source. -/
inductive Src where
  | v (n : Nat)
  | s (n : Nat)
  | idx (k off : Nat)
  | imm (i : Int)
  | spec (c : Nat)
  deriving DecidableEq, Repr

/-- An operand specifier read as a destination (R309): v, s or indexed. -/
inductive Dst where
  | v (n : Nat)
  | s (n : Nat)
  | idx (k off : Nat)
  deriving DecidableEq, Repr

/-- The integer column of R307, in ty order. -/
inductive IntTy where
  | i32 | n32 | i64 | n64 | i16 | n16 | i8 | n8
  deriving DecidableEq, Repr

/-- The float column of R307, in ty order. -/
inductive FTy where
  | f32 | f64 | f16 | bf16
  deriving DecidableEq, Repr

/-- The memory-size column of R307, in ty order. -/
inductive MemTy where
  | b8 | b16 | b32 | b64 | b128 | i8 | i16
  deriving DecidableEq, Repr

/-- The rounding modes of R255 in the code order of R372. -/
inductive RMode where
  | rn | rz | rd | ru | rna
  deriving DecidableEq, Repr

/-- The type codes 0 to 17 of CVT (R373). -/
inductive CvtTy where
  | i8 | i16 | i32 | i64 | n8 | n16 | n32 | n64 | f16 | bf16
  | f32 | f64 | e4m3 | e5m2 | e3m2 | e2m3 | e2m1 | e8m0
  deriving DecidableEq, Repr

/-- The element formats of MXSCALE, MXQ and MXDQ in ty order (R377). -/
inductive MxElt where
  | e4m3 | e5m2 | e3m2 | e2m3 | e2m1
  deriving DecidableEq, Repr

/-- The element formats of UNPK in ty order (R376). -/
inductive UnpkTy where
  | f16 | bf16 | e4m3 | e5m2 | e3m2 | e2m3 | e2m1
  deriving DecidableEq, Repr

/-- The element formats of PACK in ty order (R375). -/
inductive PackTy where
  | f16 | bf16 | e4m3 | e5m2
  deriving DecidableEq, Repr

/-- The comparison codes of ICMP (R342). -/
inductive ICc where
  | eq | ne | lt | le | gt | ge
  deriving DecidableEq, Repr

/-- The comparison codes of FCMP (R369). -/
inductive FCc where
  | eq | ne | lt | le | gt | ge | num | nan
  deriving DecidableEq, Repr

/-- The destination of FCLASS (R370): a register, or a predicate with a test mask. -/
inductive ClassDst where
  | reg (d : Dst)
  | pred (pd : Nat) (mask : Src)
  deriving DecidableEq, Repr

/-- The forms of MOVI in md order (R348). -/
inductive MoviForm where
  | b32 | lo | hi | i64 | n64
  deriving DecidableEq, Repr

/-- The six spaces of R204 in sp order. -/
inductive Space where
  | global | scratch | peer | const | stack | cell
  deriving DecidableEq, Repr

/-- The order codes of R384. -/
inductive Order where
  | rlx | acq | rel | sc | ar
  deriving DecidableEq, Repr

/-- The cache codes of R210. -/
inductive CacheOp where
  | normal | stream | nolease | last
  deriving DecidableEq, Repr

/-- The scopes of R214 in the ty order of FENCE (R384). -/
inductive Scope where
  | lane | grp | blk | clu | dev | sys
  deriving DecidableEq, Repr

/-- The operations of REDUX and SCAN in ty order (R427). -/
inductive RedOp where
  | addN32 | minI32 | maxI32 | minN32 | maxN32 | and | or | xor
  deriving DecidableEq, Repr

/-- The difference forms of QDIFF in ty order (R425). -/
inductive QDiff where
  | fh | fv | ch | cv
  deriving DecidableEq, Repr

/-- The signedness of the bytes of IDOT4 in ty order (R382): a then b. -/
inductive DotSign where
  | i8i8 | n8n8 | i8n8 | n8i8
  deriving DecidableEq, Repr

/-- The element types of MEMOP axpy, add and mul (R402). -/
inductive MemopTy where
  | f32 | f16 | bf16
  deriving DecidableEq, Repr

/-- The matrix element types in the TYPE order of R267. -/
inductive MatTy where
  | e4m3 | e5m2 | f16 | bf16 | mx8e4 | mx8e5 | mx6e3 | mx6e2 | mx4
  deriving DecidableEq, Repr

/-- The modes of an MMA (R311). -/
inductive MmaMode where
  | acc | ovr | sub
  deriving DecidableEq, Repr

/-- The A operand of an MMA (R413): a register run (A source 0) or a map record (A source 1). -/
inductive ASrc where
  | regs (a : Dst)
  | map (s : Nat)
  deriving DecidableEq, Repr

/-- The factor kinds of KSOLVE in function order (R418). -/
inductive Factor where
  | lu | ldl | chol
  deriving DecidableEq, Repr

/-! ### Parameters of operations and events -/

/-- The head of a management entry (R81): tag, target function, function-local context, and whether an unlisted
request byte was nonzero (R83). -/
structure MgmtHead where
  tag : Nat
  fn : Nat
  ctx : Nat
  extra : Bool
  deriving DecidableEq, Repr

/-- The operands of CTXNEW (R132). -/
structure CtxReq where
  stprog : Nat
  starg : Nat
  tarea : Nat
  savea : Nat
  slice : Nat
  resplit : Nat
  ceil : Nat
  heatk : Nat
  epoch : Nat
  quota : Nat
  ncell : Nat
  svunits : Nat
  deriving DecidableEq, Repr

/-- A firmware image as the boot ROM finds it (R91): its signature verifies over its digest, the digest of the verifying key is the fused
one, and its security version. -/
structure BootImage where
  signed : Bool
  keyFused : Bool
  version : Nat
  deriving DecidableEq, Repr

/-- A device reset (R86, R91, R95): a cold one or a warm one, and the images that its boot ROM finds, in the order it tries them. -/
structure Boot where
  cold : Bool
  tries : List BootImage
  deriving DecidableEq, Repr

/-- Where an uncorrectable SRAM error lies (R90). Groups and blocks by their keys in State. -/
inductive SramPlace where
  | corrected
  | group (gid : Nat)
  | block (bid : Nat)
  | l1 (line : Nat)
  | freight (gid : Nat)
  | control
  deriving DecidableEq, Repr

/-- One host access through BAR0/1 or CXL.mem (R72, R75): a write carries its bytes, a read its length. -/
structure HostReq where
  /-- The pair of BARs: 0 for BAR0/1, 2 for BAR2/3 (R74). -/
  bar : Nat := 0
  fn : Nat
  cxl : Bool
  relaxed : Bool
  va : Nat
  data : List Byte
  len : Nat
  write : Bool
  deriving DecidableEq, Repr

/-- One outcome of the daily scrub of a sector (R61). -/
inductive ScrubFind where
  | corrected | rebuilt | poisoned
  deriving DecidableEq, Repr

/-- A register without a row of its own that REGISTER_WRITE reaches (R187, R71, R100, R32). -/
inductive DevReg where
  | sysreg (gid num : Nat)
  | hbctl
  | xroot
  | chstat (index : Nat)
  /-- The size of a function's BAR0/1 window, which the PF sets (R74). -/
  | window (fn : Nat)
  deriving DecidableEq, Repr

/-- The source of a debug stop (R287): BKPT, comparator, or the port. -/
inductive StopSrc where
  | bkpt
  | cmp (i : Nat)
  | port
  deriving DecidableEq, Repr

/-- The instructions, operations and events of the opcode table: one constructor per row, in the table's order. -/
inductive Instr where
  -- integer words (chapter 13)
  | nop
  | iadd (g : Guard) (t : IntTy) (d : Dst) (a b : Src)
  | isub (g : Guard) (t : IntTy) (d : Dst) (a b : Src)
  | iadds (g : Guard) (t : IntTy) (d : Dst) (a b : Src)
  | iaddc (g : Guard) (wide : Bool) (d : Dst) (a b : Src) (cin cout : Nat)
  | imul (g : Guard) (t : IntTy) (d : Dst) (a b : Src)
  | imulhi (g : Guard) (t : IntTy) (d : Dst) (a b : Src)
  | imad (g : Guard) (t : IntTy) (d : Dst) (a b c : Src)
  | imadw (g : Guard) (t : IntTy) (d : Dst) (a b c : Src)
  | idiv (g : Guard) (t : IntTy) (d : Dst) (a b : Src)
  | irem (g : Guard) (t : IntTy) (d : Dst) (a b : Src)
  | imin (g : Guard) (t : IntTy) (d : Dst) (a b : Src)
  | imax (g : Guard) (t : IntTy) (d : Dst) (a b : Src)
  | iabs (g : Guard) (t : IntTy) (d : Dst) (a : Src)
  | ineg (g : Guard) (t : IntTy) (d : Dst) (a : Src)
  | and (g : Guard) (wide : Bool) (d : Dst) (a b : Src)
  | or (g : Guard) (wide : Bool) (d : Dst) (a b : Src)
  | xor (g : Guard) (wide : Bool) (d : Dst) (a b : Src)
  | andn (g : Guard) (wide : Bool) (d : Dst) (a b : Src)
  | not (g : Guard) (wide : Bool) (d : Dst) (a : Src)
  | iaddImm (g : Guard) (t : IntTy) (d : Dst) (a : Src) (i : Int)
  | andImm (g : Guard) (wide : Bool) (d : Dst) (a : Src) (i : Int)
  | orImm (g : Guard) (wide : Bool) (d : Dst) (a : Src) (i : Int)
  | xorImm (g : Guard) (wide : Bool) (d : Dst) (a : Src) (i : Int)
  | shl (g : Guard) (wide : Bool) (d : Dst) (a b : Src)
  | shr (g : Guard) (wide : Bool) (d : Dst) (a b : Src)
  | sar (g : Guard) (wide : Bool) (d : Dst) (a b : Src)
  | rot (g : Guard) (wide : Bool) (d : Dst) (a b : Src)
  | fsh (g : Guard) (wide : Bool) (d : Dst) (lo hi n : Src)
  | popc (g : Guard) (wide : Bool) (d : Dst) (a : Src)
  | clz (g : Guard) (wide : Bool) (d : Dst) (a : Src)
  | ctz (g : Guard) (wide : Bool) (d : Dst) (a : Src)
  | brev (g : Guard) (wide : Bool) (d : Dst) (a : Src)
  | bfx (g : Guard) (t : IntTy) (d : Dst) (a ctl : Src)
  | bfi (g : Guard) (wide : Bool) (d : Dst) (base ins ctl : Src)
  | prmt (g : Guard) (d : Dst) (a b sel : Src)
  | lea (g : Guard) (t : IntTy) (d : Dst) (a b sh : Src)
  | icmp (g : Guard) (t : IntTy) (pd : Nat) (a b : Src) (cc : ICc)
  | icmpImm (g : Guard) (t : IntTy) (pd : Nat) (a : Src) (cc : ICc) (i : Int)
  | sel (g : Guard) (wide : Bool) (d : Dst) (a b : Src) (pc : Nat)
  -- float words (chapter 14)
  | fadd (g : Guard) (t : FTy) (d : Dst) (a b : Src)
  | fsub (g : Guard) (t : FTy) (d : Dst) (a b : Src)
  | fmul (g : Guard) (t : FTy) (d : Dst) (a b : Src)
  | ffma (g : Guard) (t : FTy) (d : Dst) (a b c : Src)
  | ffms (g : Guard) (t : FTy) (d : Dst) (a b c : Src)
  | fscale (g : Guard) (t : FTy) (d : Dst) (a n : Src)
  | fdiv (g : Guard) (t : FTy) (d : Dst) (a b : Src)
  | fsqrt (g : Guard) (t : FTy) (d : Dst) (a : Src)
  | fmin (g : Guard) (t : FTy) (d : Dst) (a b : Src)
  | fmax (g : Guard) (t : FTy) (d : Dst) (a b : Src)
  | fminp (g : Guard) (t : FTy) (d : Dst) (a b : Src)
  | fmaxp (g : Guard) (t : FTy) (d : Dst) (a b : Src)
  | fabs (g : Guard) (t : FTy) (d : Dst) (a : Src)
  | fneg (g : Guard) (t : FTy) (d : Dst) (a : Src)
  | fcmp (g : Guard) (t : FTy) (pd : Nat) (a b : Src) (cc : FCc)
  | fclass (g : Guard) (t : FTy) (d : ClassDst) (a : Src)
  | frcp (g : Guard) (d : Dst) (a : Src)
  | frsq (g : Guard) (d : Dst) (a : Src)
  | fexp2 (g : Guard) (d : Dst) (a : Src)
  | flog2 (g : Guard) (d : Dst) (a : Src)
  | fsin (g : Guard) (d : Dst) (a : Src)
  | fcos (g : Guard) (d : Dst) (a : Src)
  | ftanh (g : Guard) (d : Dst) (a : Src)
  | frnd (g : Guard) (t : FTy) (d : Dst) (a : Src) (m : RMode)
  | cvt (g : Guard) (m : RMode) (nosat : Bool) (dt st : CvtTy) (d : Dst) (a : Src)
  | pack (g : Guard) (e : PackTy) (d : Dst) (a b : Src) (nosat h : Bool)
  | unpk (g : Guard) (e : UnpkTy) (d : Dst) (a : Src) (q : Nat)
  | mxscale (g : Guard) (e : MxElt) (d : Dst) (a : Src)
  | mxq (g : Guard) (e : MxElt) (d : Dst) (a scale : Src) (nosat : Bool)
  | mxdq (g : Guard) (e : MxElt) (d : Dst) (a scale : Src)
  | hfma2 (g : Guard) (bf : Bool) (d : Dst) (a b c : Src)
  | idot4 (g : Guard) (sg : DotSign) (sat : Bool) (d : Dst) (a b c : Src)
  | fdot2 (g : Guard) (bf : Bool) (d : Dst) (a b c : Src)
  -- predicates and moves (chapter 13)
  | plop (g : Guard) (pd pa pb pc lut : Nat)
  | ppack (g : Guard) (d : Dst) (q : List Nat)
  | punpack (g : Guard) (a : Src) (q : List Nat)
  | pmov (g : Guard) (pd ps : Nat)
  | pmovBit (g : Guard) (pd : Nat) (a b : Src)
  | mov (g : Guard) (wide : Bool) (d : Dst) (a : Src)
  | movToIndex (g : Guard) (k : Nat) (a : Src)
  | movFromIndex (g : Guard) (d : Dst) (k : Nat)
  | movi (g : Guard) (d : Dst) (m : MoviForm) (imm : Nat)
  | bcast (g : Guard) (vd sa n : Nat)
  | lanerd (g : Guard) (wide : Bool) (sd : Nat) (va : Src) (lane : Src)
  | lanewr (g : Guard) (wide : Bool) (vd : Nat) (a : Src) (lane : Src)
  | setxw (g : Guard) (k : Nat) (lo hi : Src)
  -- lane exchange (chapter 16)
  | qswz (g : Guard) (wide : Bool) (d : Dst) (a pat : Src)
  | qdiff (g : Guard) (m : QDiff) (d : Dst) (a : Src)
  | shflPick (g : Guard) (wide : Bool) (d : Dst) (a b : Src) (pc span : Nat)
  | shflRot (g : Guard) (wide : Bool) (d : Dst) (a b : Src) (pc span : Nat)
  | shflSlide (g : Guard) (wide : Bool) (d : Dst) (a b : Src) (pc span : Nat)
  | shflFlip (g : Guard) (wide : Bool) (d : Dst) (a b : Src) (pc span : Nat)
  | voteMask (g : Guard) (d : Dst) (ps : Nat) (m : Src) (pc : Nat)
  | voteCount (g : Guard) (d : Dst) (ps : Nat) (m : Src) (pc : Nat)
  | voteLead (g : Guard) (d : Dst) (ps : Nat) (m : Src) (pc : Nat)
  | voteAgree (g : Guard) (d : Dst) (ps : Nat) (m : Src) (pc : Nat)
  | matchLead (g : Guard) (wide : Bool) (d : Dst) (a m : Src) (pc : Nat)
  | matchMask (g : Guard) (wide : Bool) (d : Dst) (a m : Src) (pc : Nat)
  | redux (g : Guard) (op : RedOp) (d : Dst) (a m : Src) (pc : Nat)
  | scan (g : Guard) (op : RedOp) (d : Dst) (a m seg : Src)
  | join (g : Guard) (m : Src)
  -- memory, atomics, barriers, copies (chapter 15)
  | ld (g : Guard) (t : MemTy) (d : Dst) (sp : Space) (base : Src) (ord : Order) (cache : CacheOp) (off : Int)
  | st (g : Guard) (t : MemTy) (a : Src) (sp : Space) (base : Src) (ord : Order) (off : Int)
  | ldc (g : Guard) (run : Nat) (sd : Nat) (sp : Space) (base : Src) (ord : Order) (cache : CacheOp) (off : Int)
  | pref (g : Guard) (sp : Space) (base : Src) (cache : CacheOp) (off : Int)
  | cctlDrop (g : Guard) (sp : Space) (base : Src) (off : Int)
  | cctlDrop4k (g : Guard) (sp : Space) (base : Src) (off : Int)
  | cctlRenew (g : Guard) (sp : Space) (base : Src) (off : Int)
  | xclr (g : Guard) (base : Src) (rel : Bool) (off : Int)
  | memopFill (g : Guard) (rec slot : Nat)
  | memopAxpy (g : Guard) (t : MemopTy) (rec slot : Nat)
  | memopAdd (g : Guard) (t : MemopTy) (rec slot : Nat)
  | memopMul (g : Guard) (t : MemopTy) (rec slot : Nat)
  | memopReduce (g : Guard) (wide : Bool) (rec slot : Nat)
  | fence (g : Guard) (scope : Scope) (ord : Order)
  | flsig (g : Guard) (slot : Option Nat)
  | watch (g : Guard) (slot : Nat) (base : Src) (off : Int)
  | atomAdd (g : Guard) (t : IntTy) (v : Nat) (sp : Space) (base : Src) (ord : Order) (off : Int)
  | atomMin (g : Guard) (t : IntTy) (v : Nat) (sp : Space) (base : Src) (ord : Order) (off : Int)
  | atomMax (g : Guard) (t : IntTy) (v : Nat) (sp : Space) (base : Src) (ord : Order) (off : Int)
  | atomAnd (g : Guard) (t : IntTy) (v : Nat) (sp : Space) (base : Src) (ord : Order) (off : Int)
  | atomOr (g : Guard) (t : IntTy) (v : Nat) (sp : Space) (base : Src) (ord : Order) (off : Int)
  | atomXor (g : Guard) (t : IntTy) (v : Nat) (sp : Space) (base : Src) (ord : Order) (off : Int)
  | atomExch (g : Guard) (t : IntTy) (v : Nat) (sp : Space) (base : Src) (ord : Order) (off : Int)
  | atomCas (g : Guard) (t : IntTy) (v : Nat) (sp : Space) (base : Src) (ord : Order) (off : Int)
  | atomFadd (g : Guard) (wide : Bool) (v : Nat) (sp : Space) (base : Src) (ord : Order) (off : Int)
  | atomXadd (g : Guard) (wide : Bool) (v : Nat) (base : Src) (ord : Order) (off : Int)
  | redAdd (g : Guard) (t : IntTy) (a : Src) (sp : Space) (base : Src) (ord : Order) (off : Int)
  | redMin (g : Guard) (t : IntTy) (a : Src) (sp : Space) (base : Src) (ord : Order) (off : Int)
  | redMax (g : Guard) (t : IntTy) (a : Src) (sp : Space) (base : Src) (ord : Order) (off : Int)
  | redAnd (g : Guard) (t : IntTy) (a : Src) (sp : Space) (base : Src) (ord : Order) (off : Int)
  | redOr (g : Guard) (t : IntTy) (a : Src) (sp : Space) (base : Src) (ord : Order) (off : Int)
  | redXor (g : Guard) (t : IntTy) (a : Src) (sp : Space) (base : Src) (ord : Order) (off : Int)
  | redFadd (g : Guard) (wide : Bool) (a : Src) (sp : Space) (base : Src) (ord : Order) (off : Int)
  | redXadd (g : Guard) (wide : Bool) (a : Src) (base : Src) (ord : Order) (off : Int)
  | binit (g : Guard) (name : Nat) (off : Src)
  | arrive (g : Guard) (rlx : Bool) (name : Nat) (n : Option Src)
  | arriveAddress (g : Guard) (rlx : Bool) (peer : Bool) (a : Src) (n : Option Src)
  | expectOnce (g : Guard) (name : Nat) (n : Src)
  | expectEach (g : Guard) (name : Nat) (n : Src)
  | btestPa (g : Guard) (d : Dst) (name : Nat)
  | btestPb (g : Guard) (d : Dst) (name : Nat)
  | btestAll (g : Guard) (d : Dst) (name : Nat)
  | btestPassed (g : Guard) (pd : Nat) (name : Nat) (t : Src)
  | binval (g : Guard) (name : Nat)
  | cpy (g : Guard) (rec slot : Nat) (toGlobal : Bool)
  | cpym (g : Guard) (rec slot mask : Nat) (spread : Bool)
  | cpyr (g : Guard) (rec slot : Nat)
  | cpyg (g : Guard) (rec slot : Nat) (toGlobal : Bool)
  | cpyx (g : Guard) (slot : Nat)
  -- matrix words (chapter 16)
  | acfg (g : Guard) (tile : Nat) (n first : Src)
  | azero (g : Guard) (tile ver : Nat) (slot : Option Nat)
  | afence (g : Guard)
  | mma (g : Guard) (at_ : MatTy) (tile ver : Nat) (reuse : Bool) (a : ASrc) (bmap : Nat) (mode : MmaMode) (slot : Option Nat)
  | mmas (g : Guard) (at_ : MatTy) (tile ver : Nat) (reuse : Bool) (a : ASrc) (bmap : Nat) (mode : MmaMode) (slot : Option Nat)
  | ald (g : Guard) (tile ver map : Nat) (slot : Option Nat)
  | ast (g : Guard) (tile ver : Nat) (now : Bool) (map : Nat) (slot : Option Nat)
  | ard (g : Guard) (tile ver : Nat) (now : Bool) (d : Dst) (c0 n : Nat)
  | awr (g : Guard) (tile ver : Nat) (a : Dst) (c0 n : Nat)
  -- small-matrix words (chapter 16)
  | kshape (g : Guard) (wide : Bool) (kd : Nat) (base : Src) (rows cols : Nat)
  | kshapeClr (g : Guard) (kd : Nat)
  | kzero (g : Guard) (kd : Nat)
  | keye (g : Guard) (kd : Nat)
  | kadd (g : Guard) (kd ka kb fp : Nat)
  | kmul (g : Guard) (kd ka kb fp : Nat)
  | kmad (g : Guard) (kd ka kb fp : Nat)
  | ktrn (g : Guard) (kd ka fp : Nat)
  | kchol (g : Guard) (kd ka fp : Nat)
  | kldl (g : Guard) (kd ka fp : Nat)
  | klu (g : Guard) (kd ka : Nat) (piv : Dst) (fp : Nat)
  | ksolve (g : Guard) (f : Factor) (kd ka kb : Nat) (piv : Option Dst) (fp : Nat)
  | kdet (g : Guard) (d : Dst) (ka fp : Nat)
  | kinv (g : Guard) (kd ka fp : Nat)
  -- control (chapter 13)
  | bra (g : Guard) (disp : Int) (hint : Nat)
  | brx (g : Guard) (t : Dst)
  | call (g : Guard) (disp : Int)
  | callx (g : Guard) (t : Dst)
  | ret (g : Guard) (t : Dst)
  | exit (g : Guard)
  | yield (g : Guard)
  | launch (g : Guard) (sd sa pd : Nat)
  | migrate (g : Guard) (pd : Nat) (a : Src)
  | trap (g : Guard) (code : Src)
  | bkpt (g : Guard)
  -- system and debug words (chapter 17)
  | srd (g : Guard) (d : Dst) (num : Nat)
  | swr (g : Guard) (a : Src) (num : Nat)
  | ctxsaveCopy (g : Guard)
  | ctxsaveAcc (g : Guard)
  | ctxsaveGrp (g : Guard)
  | ctxsaveBlk (g : Guard)
  | ctxrestBlk (g : Guard)
  | ctxrestGrp (g : Guard)
  | ctxrestAcc (g : Guard)
  | ctxrestCopy (g : Guard)
  | eret (g : Guard)
  | hostint (g : Guard)
  | pmark (g : Guard) (a : Src)
  | logw (g : Guard) (sN tag : Nat)
  -- management operations (R82, R83)
  | ctxnew (h : MgmtHead) (r : CtxReq)
  | ctxreset (h : MgmtHead)
  | segset (h : MgmtHead) (seg : Nat) (b l o : DWord)
  | weights (h : MgmtHead) (iw aw : Nat)
  | logset (h : MgmtHead) (base n : Nat)
  | fabread (h : MgmtHead) (reg first count : Nat)
  | fabwriteLnkerr (h : MgmtHead) (index : Nat) (value : DWord)
  | fabwritePairrt (h : MgmtHead) (index : Nat) (value : DWord)
  | fabwriteRemreq (h : MgmtHead) (index : Nat) (value : DWord)
  | attest (h : MgmtHead) (nonce buf : Nat)
  | diefence (h : MgmtHead) (die : Nat)
  | farpol (h : MgmtHead) (allow : Nat)
  | expgrant (h : MgmtHead) (allow : Nat)
  -- the photonic fabric and the lasers (chapters 01 and 21)
  | flitReceive (src dst : Nat) (damage : BitVec 640)
  | ackFlitTimer (src dst : Nat)
  | nakReplay (src dst : Nat)
  | replayTimeout (src dst : Nat)
  | pauseReceive (src dst : Nat)
  | ackReceive (src dst : Nat)
  | channelDead (src dst : Nat) (chans : BitVec 16) (recovered : Bool)
  | channelState (src dst : Nat)
  | linkChangeReport (src dst : Nat)
  | channelRetrainStart (src dst : Nat) (chans : BitVec 16)
  | channelTrainingEnd (src dst : Nat) (chans : BitVec 16) (ok : Bool)
  | relayedFlitForward (via : Nat)
  | pairdownTimeout (src dst : Nat)
  | laserFail (m : Nat)
  | laserMonitorReport (m : Nat)
  | standbyCommit
  | standbyLightOn
  | moduleRemoval (m : Nat)
  | moduleInsert (m : Nat)
  | moduleWarmDone (m : Nat)
  | standbyFail
  | eventVectorHoldoffExpiry (fn vec : Nat)
  | junctionThrottle (die : Nat) (celsius : Nat)
  | powerP2Entry
  | powerP2Exit
  -- memory dies (chapter 02)
  | homeRequestAccept (home src : Nat)
  | retryResend (home src : Nat)
  | heldWritePerform (home : Nat)
  | parityAck (home : Nat)
  | parityDelta (die : Nat)
  | writeClassDecay (line : Nat)
  | leaseRenewal (home : Nat)
  | cellOperation (die : Nat)
  | cellMirrorUpdate (die : Nat)
  | memopUnit (home : Nat)
  | granuleRelease (die block : Nat)
  | heatSample (full : Bool)
  | heatEpoch (ctx : Nat)
  | dramScrub (die : Nat) (sector : Nat) (find : ScrubFind)
  | memoryDieFailure (die : Nat)
  -- host links, resets, protection (chapter 03)
  | hostLinkChange (link : Nat) (up pool : Bool)
  | hostMemoryAccess (r : HostReq)
  | uioCompletion
  | functionLevelReset (fn : Nat)
  | flrdone (fn : Nat)
  | computeDieFatal (die : Nat)
  | sramue (p : SramPlace)
  | deviceReset (b : Boot)
  | alarm (code fn : Nat)
  | loglost (fn : Nat)
  -- translation and faults (chapter 04)
  | missRecord
  | missRecordResend (die page : Nat)
  | pageWalkDone (page : Nat)
  | fillInstall (die : Nat)
  | faultReady (page : Nat)
  | faultFinal (page : Nat) (types : BitVec 5)
  | tlbInvalidation (lo hi : Nat)
  | pendingReply
  | wakeReplay
  | finalReply
  | hostFaultTimeout
  | migration (page newFrame : Nat) (far : Bool) (abortAt : Option Nat)
  -- tasks and the signal box (chapter 05)
  | launchReply
  | blockPlace (tt : Nat) (core : Nat)
  | resplitTimeout (tt core : Nat)
  | drainTimeout (core : Nat)
  | sliceExpiry (tt core : Nat)
  | backgroundPromote (tt : Nat)
  | preemptRequest (bid : Nat)
  | blockRestore (bid core : Nat)
  | blockRetire (bid : Nat)
  | taskComplete (tt : Nat)
  -- issue, freight, barriers, engines (chapters 06, 09, 10)
  | issueSelect (core platform : Nat)
  | loadComplete (gid op : Nat)
  | branchResolve (gid n : Nat)
  | renewalReply (gid : Nat)
  | storeAck (core : Nat)
  | freightRevoke (core : Nat)
  | freightClosed (core : Nat)
  | freightReopen (core : Nat)
  | joinWaitSatisfied (gid : Nat)
  | arrivalApply
  | watchFire
  | copyUnitDeliver (bid cmd unit : Nat)
  | copyAdmit (core : Nat)
  | mmaChunkEnd (gid : Nat)
  | mmaComplete (gid : Nat)
  | mmaResume (gid : Nat)
  | tileWordComplete (gid : Nat)
  | kwordComplete (gid : Nat)
  | trapEntry (gid : Nat)
  -- debug and profiling (chapter 11)
  | debugStop (bid : Nat) (src : StopSrc)
  | stopRecord (bid : Nat)
  | debugResume (bid : Nat)
  | debugIdentify
  | debugChallenge
  | debugUnlock (scope fn : Nat) (valid : Bool)
  | dbgcmpWrite (ctx i : Nat) (value : DWord)
  | sampleTick (core ctx : Nat)
  | lcrFlush
  | logbookConfigRead (ctx : Nat)
  | registerWrite (r : DevReg) (value : DWord)
  -- the rows after the table's main body
  | moduleOut (m : Nat)
  | powerLoss
  | msixTableWrite (fn vec : Nat) (masked : Bool)
  | migrateShippingDone (gid : Nat)
  deriving DecidableEq, Repr

end Sys2Proof
end

