-- ==== Sys2Proof/Machine/Float.lean ====
section
/-! DEFINITION. Machine/Float.lean: number formats, exact values, rounding, saturation and flags (R251 to R257, R367).
Every operation is computed exactly and rounded once. -/

namespace Sys2Proof.Machine

/-! ### Formats -/

/-- How a format spells infinities and NaNs (R251). -/
inductive Specials where
  | ieee | e4m3 | none
  deriving DecidableEq, Repr

/-- A floating-point format (R251): width, significand bits, bias, magnitude bits of its largest finite value. -/
structure Fmt where
  width : Nat
  m : Nat
  bias : Int
  maxMag : Nat
  sp : Specials
  deriving DecidableEq, Repr

def Fmt.f64 : Fmt := { width := 64, m := 52, bias := 1023, maxMag := 0x7FEFFFFFFFFFFFFF, sp := .ieee }
def Fmt.f32 : Fmt := { width := 32, m := 23, bias := 127, maxMag := 0x7F7FFFFF, sp := .ieee }
def Fmt.f16 : Fmt := { width := 16, m := 10, bias := 15, maxMag := 0x7BFF, sp := .ieee }
def Fmt.bf16 : Fmt := { width := 16, m := 7, bias := 127, maxMag := 0x7F7F, sp := .ieee }
def Fmt.e4m3 : Fmt := { width := 8, m := 3, bias := 7, maxMag := 0x7E, sp := .e4m3 }
def Fmt.e5m2 : Fmt := { width := 8, m := 2, bias := 15, maxMag := 0x7B, sp := .ieee }
def Fmt.e3m2 : Fmt := { width := 6, m := 2, bias := 3, maxMag := 0x1F, sp := .none }
def Fmt.e2m3 : Fmt := { width := 6, m := 3, bias := 1, maxMag := 0x1F, sp := .none }
def Fmt.e2m1 : Fmt := { width := 4, m := 1, bias := 1, maxMag := 0x7, sp := .none }

/-- The magnitude bits of infinity in an IEEE-like format. -/
def Fmt.infMag (f : Fmt) : Nat := f.maxMag + 1

/-- The canonical NaN (R254); the formats without NaN give +0 (R256). -/
def Fmt.nan (f : Fmt) : Nat :=
  match f.sp with
  | .ieee => f.infMag + 2 ^ (f.m - 1)
  | .e4m3 => 0x7F
  | .none => 0

/-- A wide format follows IEEE overflow (R255); a narrow one saturates (R256). -/
def Fmt.narrow (f : Fmt) : Bool := f.width < 16

/-- The sign bit of a format. -/
def Fmt.sign (f : Fmt) (neg : Bool) : Nat := if neg then 2 ^ (f.width - 1) else 0

/-! ### Flags (R190, R257) -/

abbrev Flags := BitVec 5

def flNV : Flags := 1
def flDZ : Flags := 2
def flOF : Flags := 4
def flUF : Flags := 8
def flNX : Flags := 16

/-! ### Exact values -/

/-- An exact result: a NaN, an infinity, or (−1)^neg × (m + ε) × 2^e with 0 < ε < 1 exactly when `sticky`. -/
inductive Ex where
  | nan
  | inf (neg : Bool)
  | fin (neg : Bool) (m : Nat) (e : Int) (sticky : Bool)
  deriving DecidableEq, Repr

def Ex.zero (neg : Bool) : Ex := .fin neg 0 0 false

/-- The exact value of an integer. -/
def Ex.ofInt (x : Int) : Ex := .fin (decide (x < 0)) x.natAbs 0 false

/-- The exact value an encoding holds (R251, R253). -/
def Fmt.read (f : Fmt) (x : Nat) : Ex :=
  let mag := x % 2 ^ (f.width - 1)
  let neg := bitAt x (f.width - 1)
  let ef := mag / 2 ^ f.m
  let fr := mag % 2 ^ f.m
  if f.maxMag < mag then
    match f.sp with
    | .ieee => if mag = f.infMag then .inf neg else .nan
    | _ => .nan
  else if ef = 0 then .fin neg fr (1 - f.bias - f.m) false
  else .fin neg (fr + 2 ^ f.m) (ef - f.bias - f.m) false

/-! ### Rounding -/

/-- Whether a magnitude is rounded up, from the kept integer, the dropped part against half, and the mode (R255). -/
def roundUp (mode : RMode) (neg : Bool) (kept : Nat) (cmp : Ordering) (inexact : Bool) : Bool :=
  match mode with
  | .rn => cmp == .gt || (cmp == .eq && kept % 2 == 1)
  | .rna => cmp == .gt || cmp == .eq
  | .rz => false
  | .rd => neg && inexact
  | .ru => !neg && inexact

/-- (m + ε) × 2^e rounded to an integer multiple of 2^q: the multiple and whether it is inexact. A sticky value has
more precision than any format keeps, so q > e for it. -/
def quantise (mode : RMode) (neg : Bool) (m : Nat) (e : Int) (sticky : Bool) (q : Int) : Nat × Bool :=
  if q ≤ e then (m * 2 ^ (e - q).toNat, sticky)
  else
    let sh := (q - e).toNat
    let kept := m / 2 ^ sh
    let rest := m % 2 ^ sh
    let half := 2 ^ (sh - 1)
    let cmp : Ordering :=
      if rest < half then .lt else if rest = half then (if sticky then .gt else .eq) else .gt
    let inexact := rest != 0 || sticky
    (if roundUp mode neg kept cmp inexact then kept + 1 else kept, inexact)

/-- The result of an overflow (R255 for wide formats and .nosat E5M2, R256 and R374 otherwise). -/
def Fmt.overflow (f : Fmt) (mode : RMode) (nosat neg : Bool) : Nat :=
  let toInf := match mode with
    | .rn | .rna => true
    | .rz => false
    | .rd => neg
    | .ru => !neg
  if f.narrow then
    match f.sp with
    | .none => f.maxMag + f.sign neg
    | .e4m3 => if nosat && toInf then 0x7F else f.maxMag + f.sign neg
    | .ieee => if nosat && toInf then f.infMag + f.sign neg else f.maxMag + f.sign neg
  else if toInf then f.infMag + f.sign neg else f.maxMag + f.sign neg

/-- round(x, fmt, mode) of R255 and R256 with the flags of R257. The operation itself sets NV for a NaN it made from
numbers; here a NaN input is one that was a NaN operand. -/
def Fmt.round (f : Fmt) (mode : RMode) (nosat : Bool) : Ex → Nat × Flags
  | .nan => (f.nan, if f.sp == .none then flNV else 0)
  | .inf neg =>
    if f.narrow then
      match f.sp with
      | .none => (f.maxMag + f.sign neg, flNV ||| flOF ||| flNX)
      | .e4m3 => (if nosat then 0x7F else f.maxMag + f.sign neg, flNV ||| flOF ||| flNX)
      | .ieee => if nosat then (f.infMag + f.sign neg, 0) else (f.maxMag + f.sign neg, flOF ||| flNX)
    else (f.infMag + f.sign neg, 0)
  | .fin neg m e sticky =>
    if m = 0 && !sticky then (f.sign neg, 0)
    else
      let top : Int := e + bitLen m - 1
      let emin : Int := 1 - f.bias
      let r := quantise mode neg m e sticky ((if top < emin then emin else top) - f.m)
      let q : Int := (if top < emin then emin else top) - f.m
      -- magnitude bits: the significand lies over an exponent field of q + m + bias − 1, or 0 at the bottom
      let mag : Nat := r.1 + (q + f.m + f.bias - 1).toNat * 2 ^ f.m
      let u := quantise mode neg m e sticky (top - f.m)
      let utop : Int := if 2 ^ (f.m + 1) ≤ u.1 then top + 1 else top
      let uf : Flags := if decide (utop < emin) && r.2 then flUF else 0
      let nx : Flags := if r.2 then flNX else 0
      if f.maxMag < mag then (f.overflow mode nosat neg, flOF ||| flNX)
      else (mag + f.sign neg, uf ||| nx)

/-! ### Operations -/

def Ex.isNan : Ex → Bool | .nan => true | _ => false
def Ex.isInf : Ex → Bool | .inf _ => true | _ => false
def Ex.isZero : Ex → Bool | .fin _ m _ s => m == 0 && !s | _ => false
def Ex.neg? : Ex → Bool | .nan => false | .inf n => n | .fin n _ _ _ => n
def Ex.neg : Ex → Ex | .nan => .nan | .inf n => .inf (!n) | .fin n m e s => .fin (!n) m e s
def Ex.abs : Ex → Ex | .nan => .nan | .inf _ => .inf false | .fin _ m e s => .fin false m e s

/-- The signed significand of a finite value at exponent e0 ≤ e. -/
def Ex.at : Ex → Int → Int
  | .fin n m e _, e0 => if n then -((m * 2 ^ (e - e0).toNat : Nat) : Int) else ((m * 2 ^ (e - e0).toNat : Nat) : Int)
  | _, _ => 0

def Ex.exp : Ex → Int | .fin _ _ e _ => e | _ => 0

/-- The exact sum of finite values; an exact zero is −0 only when both are −0 (R255, R367). -/
def Ex.addFin (x y : Ex) : Ex :=
  let e0 := if x.exp ≤ y.exp then x.exp else y.exp
  let t := x.at e0 + y.at e0
  .fin (if t = 0 then x.neg? && y.neg? else decide (t < 0)) t.natAbs e0 false

/-- x + y with its NV flag (R257, R367). -/
def Ex.add (x y : Ex) : Ex × Flags :=
  if x.isNan || y.isNan then (.nan, 0)
  else match x, y with
    | .inf a, .inf b => if a == b then (.inf a, 0) else (.nan, flNV)
    | .inf a, _ => (.inf a, 0)
    | _, .inf b => (.inf b, 0)
    | _, _ => (x.addFin y, 0)

/-- x × y with its NV flag. -/
def Ex.mul (x y : Ex) : Ex × Flags :=
  if x.isNan || y.isNan then (.nan, 0)
  else if x.isInf || y.isInf then
    if x.isZero || y.isZero then (.nan, flNV) else (.inf (x.neg? != y.neg?), 0)
  else match x, y with
    | .fin a m e _, .fin b n f _ => (.fin (a != b) (m * n) (e + f) false, 0)
    | _, _ => (.nan, 0)

/-- x × y + z with its NV flag: no NV when any operand is a NaN (R367). -/
def Ex.fma (x y z : Ex) : Ex × Flags :=
  if x.isNan || y.isNan || z.isNan then (.nan, 0)
  else
    let p := x.mul y
    if p.1.isNan then p else p.1.add z

/-- x / y, exact to more bits than any format keeps, with NV and DZ (R367). -/
def Ex.div (x y : Ex) : Ex × Flags :=
  if x.isNan || y.isNan then (.nan, 0)
  else match x, y with
    | .inf _, .inf _ => (.nan, flNV)
    | .inf a, _ => (.inf (a != y.neg?), 0)
    | _, .inf b => (.zero (x.neg? != b), 0)
    | .fin a m e _, .fin b n f _ =>
      if n = 0 then (if m = 0 then (.nan, flNV) else (.inf (a != b), flDZ))
      else if m = 0 then (.zero (a != b), 0)
      else
        let k := 64 + bitLen n
        (.fin (a != b) (m * 2 ^ k / n) (e - f - k) (m * 2 ^ k % n != 0), 0)
    | _, _ => (.nan, 0)

/-- The integer square root, by one bit of the root at a time from bit `k` down. -/
def isqrtFrom (n : Nat) : Nat → Nat → Nat
  | 0, r => r
  | k + 1, r => isqrtFrom n k (if (r + 2 ^ k) * (r + 2 ^ k) ≤ n then r + 2 ^ k else r)

def isqrt (n : Nat) : Nat := isqrtFrom n (bitLen n / 2 + 1) 0

/-- √x, exact to more bits than any format keeps, with NV (R367). -/
def Ex.sqrt : Ex → Ex × Flags
  | .nan => (.nan, 0)
  | .inf n => if n then (.nan, flNV) else (.inf false, 0)
  | .fin n m e _ =>
    if m = 0 then (.zero n, 0)
    else if n then (.nan, flNV)
    else
      let k : Nat := 128 + (e % 2).toNat
      let r := isqrt (m * 2 ^ k)
      (.fin false r ((e - (k : Int)) / 2) (r * r != m * 2 ^ k), 0)

/-- x × 2^n (FSCALE, R366). -/
def Ex.scale (x : Ex) (n : Int) : Ex :=
  match x with
  | .fin s m e t => .fin s m (e + n) t
  | o => o

/-- The order of two values that are not NaN; −0 below +0 when `signed0` (R368), equal otherwise (R369). -/
def Ex.cmp (x y : Ex) (signed0 : Bool) : Ordering :=
  match x, y with
  | .inf a, .inf b => if a == b then .eq else if a then .lt else .gt
  | .inf a, _ => if a then .lt else .gt
  | _, .inf b => if b then .gt else .lt
  | _, _ =>
    if x.isZero && y.isZero then
      (if signed0 && x.neg? != y.neg? then (if x.neg? then .lt else .gt) else .eq)
    else
      let e0 := if x.exp ≤ y.exp then x.exp else y.exp
      compare (x.at e0) (y.at e0)

/-- Rounds an operation's exact result and joins its flags. -/
def Fmt.finish (f : Fmt) (r : Ex × Flags) : Nat × Flags :=
  let o := f.round .rn false r.1
  (o.1, o.2 ||| r.2)

def fmtOf : FTy → Fmt
  | .f32 => .f32 | .f64 => .f64 | .f16 => .f16 | .bf16 => .bf16

/-- The integral value nearest to x under a mode, keeping the sign of x (R372). -/
def Ex.integral (mode : RMode) : Ex → Ex
  | .fin n m e s => .fin n (quantise mode n m e s 0).1 0 false
  | o => o

/-- floor(log2 m) of a nonzero finite magnitude. -/
def Ex.log2 : Ex → Int
  | .fin _ m e _ => e + bitLen m - 1
  | _ => 0

/-- The power of two that |x| rounds to under a mode, measured by value, and whether it is inexact (R374):
the exponent before clamping. A tie under rn goes to the even biased exponent. -/
def Ex.toPow2 (mode : RMode) : Ex → Int × Bool
  | .fin _ m e s =>
    let k : Int := e + bitLen m - 1
    let exact := m == 2 ^ (bitLen m - 1) && !s
    if exact then (k, false)
    else
      -- compare m with 1.5 × 2^(len − 1): twice m against 3 × 2^(len − 1)
      let c : Ordering :=
        if 2 * m < 3 * 2 ^ (bitLen m - 1) then .lt
        else if 2 * m = 3 * 2 ^ (bitLen m - 1) then (if s then .gt else .eq) else .gt
      let up : Bool := match mode with
        | .rn => c == .gt || (c == .eq && (k + 127) % 2 == 1)
        | .rna => c == .gt || c == .eq
        | .rz => false
        | .rd => false
        | .ru => true
      (if up then k + 1 else k, true)
  | _ => (0, false)

end Sys2Proof.Machine
end

