-- ==== Sys2Proof/Machine/Approx.lean ====
section
/-! DEFINITION. Machine/Approx.lean: the seven approximating words of R371. The special values are exact; every other
result is the free value of Config held within the bound the spec states, against the exact function computed here
to 400 fixed-point bits. -/

namespace Sys2Proof.Machine

/-- Fixed-point one, 2^400. -/
def fixOne : Int := 2 ^ 400

/-- The sum of x^(2k+1)/(2k+1) with sign s^k, over n terms, from term k: `t` is x^(2k+1) and `x2` is x², both fixed point.
With s = 1 it is atanh x, with s = −1 it is atan x. -/
def oddSeries (s : Int) (x2 : Int) : Nat → Nat → Int → Int
  | 0, _, _ => 0
  | n + 1, k, t => t / (2 * k + 1 : Nat) + s * oddSeries s x2 n (k + 1) (t * x2 / fixOne)

/-- atanh x and atan x for a fixed-point x with |x| ≤ 1/3. -/
def fixAtanh (x : Int) : Int := oddSeries 1 (x * x / fixOne) 150 0 x
def fixAtan (x : Int) : Int := oddSeries (-1) (x * x / fixOne) 150 0 x

/-- The sum of x^k / k!, over n terms from term k, with `t` = x^k / k!. -/
def expSeries (x : Int) : Nat → Nat → Int → Int
  | 0, _, _ => 0
  | n + 1, k, t => t + expSeries x n (k + 1) (t * x / fixOne / (k + 1 : Nat))

/-- e^x for a fixed-point x, |x| ≤ 20. -/
def fixExp (x : Int) : Int := expSeries x 200 0 fixOne

/-- The alternating series of sine (start k = 1, t = x) and cosine (k = 0, t = 1). -/
def trigSeries (x2 : Int) : Nat → Nat → Int → Int
  | 0, _, _ => 0
  | n + 1, k, t => t - trigSeries x2 n (k + 2) (t * x2 / fixOne / ((k + 1) * (k + 2) : Nat))

def fixLn2 : Int := 2 * fixAtanh (fixOne / 3)
def fixPi : Int := 16 * fixAtan (fixOne / 5) - 4 * fixAtan (fixOne / 239)

/-- A finite value in fixed point. -/
def Ex.fix : Ex → Int
  | .fin n m e _ =>
    let v : Int := if 0 ≤ e + 400 then ((m * 2 ^ (e + 400).toNat : Nat) : Int) else ((m / 2 ^ (-(e + 400)).toNat : Nat) : Int)
    if n then -v else v
  | _ => 0

/-- A fixed-point value as an exact one scaled by 2^k. -/
def exFix (v : Int) (k : Int) : Ex := .fin (decide (v < 0)) v.natAbs (k - 400) false

/-- x reduced modulo 2π into [−π, π], in fixed point. -/
def fixReduce (x : Int) : Int :=
  let tau := 2 * fixPi
  let r := x % tau
  if fixPi < r then r - tau else r

/-- The exact function of the word numbered as in Config.approx, to far more bits than FP32 keeps. -/
def approxExact (op : Nat) (x : Ex) : Ex :=
  match op with
  | 0 => ((Ex.ofInt 1).div x).1
  | 1 => ((Ex.ofInt 1).div x.sqrt.1).1
  | 2 =>
    let v := x.fix
    let n := v / fixOne
    exFix (fixExp ((v - n * fixOne) * fixLn2 / fixOne)) n
  | 3 =>
    match x with
    | .fin _ m e _ =>
      let l := bitLen m
      -- m / 2^(l − 1) in [1, 2): atanh of (m − 2^(l−1)) / (m + 2^(l−1))
      let r := ((m : Int) - 2 ^ (l - 1)) * fixOne / ((m : Int) + 2 ^ (l - 1))
      exFix ((e + l - 1) * fixOne + 2 * fixAtanh r * fixOne / fixLn2) 0
    | o => o
  | 4 => let r := fixReduce x.fix; exFix (trigSeries (r * r / fixOne) 150 1 r) 0
  | 5 => let r := fixReduce x.fix; exFix (trigSeries (r * r / fixOne) 150 0 fixOne) 0
  | _ => let t := fixExp (2 * x.fix); exFix ((t - fixOne) * fixOne / (t + fixOne)) 0

/-- n ulp(q) of R371. -/
def ulps (n : Nat) (q : Ex) : Ex := .fin false n ((if q.log2 < -126 then -126 else q.log2) - 23) false

/-- The error bound of the word for input x and exact result q (R371). -/
def approxBound (op : Nat) (x q : Ex) : Ex :=
  let larger (a b : Ex) : Ex := if a.cmp b false == .lt then b else a
  match op with
  | 0 => ulps 1 q
  | 3 => larger (ulps 2 q) (.fin false 1 (-22) false)
  | 4 | 5 =>
    if x.abs.cmp (exFix fixPi 0) false == .gt then .fin false 1 (-21) false
    else larger (ulps 2 q) (.fin false 1 (-24) false)
  | _ => ulps 2 q

/-- The approximated result: the free value where it lies within the bound, else the correctly rounded value (which
does). It sets NX, and UF when the result is subnormal and nonzero (R371). -/
def approxPick (op : Nat) (raw : Nat) : Nat × Flags :=
  let x := Fmt.f32.read raw
  let q := approxExact op x
  let r := (Config.approx op (BitVec.ofNat 32 raw)).toNat
  let rx := Fmt.f32.read r
  let near : Bool := match rx with
    | .fin _ _ _ _ => (rx.addFin q.neg).abs.cmp (approxBound op x q) false != .gt
    | _ => false
  let out := if near then r else (Fmt.f32.round .rn false q).1
  let mag := out % 2 ^ 31
  (out, flNX ||| (if mag != 0 && mag < 0x00800000 then flUF else 0))

/-- |x| < 2^−12 (R371). -/
def tinyArg (x : Ex) : Bool := x.abs.cmp (.fin false 1 (-12) false) false == .lt

/-- The exponent of an exact power of two. -/
def pow2Of : Ex → Option Int
  | .fin _ m e _ => if m != 0 && m == 2 ^ (bitLen m - 1) then some (e + bitLen m - 1) else none
  | _ => none

/-- The value of an integral x. -/
def intOf : Ex → Option Int
  | .fin n m e _ =>
    if m = 0 then some 0
    else if 0 ≤ e then some (if n then -((m * 2 ^ e.toNat : Nat) : Int) else ((m * 2 ^ e.toNat : Nat) : Int))
    else if m % 2 ^ (-e).toNat = 0 then
      some (if n then -((m / 2 ^ (-e).toNat : Nat) : Int) else ((m / 2 ^ (-e).toNat : Nat) : Int))
    else none
  | _ => none

/-- The result and flags of an approximating word: the special values of R371 first. DESIGN CHOICE, safe: log entry 7. -/
def approxWord (op : Nat) (raw : Nat) : Nat × Flags :=
  let f := Fmt.f32
  let x := f.read raw
  let inf (n : Bool) := f.infMag + f.sign n
  let exact (v : Ex) : Nat × Flags := ((f.round .rn false v).1, 0)
  if x.isNan then (f.nan, 0)
  else match op with
    | 0 =>
      if x.isZero then (inf x.neg?, flDZ)
      else if x.isInf then (f.sign x.neg?, 0)
      else match pow2Of x with
        | some e => if -127 ≤ e then exact (.fin x.neg? 1 (-e) false) else (inf x.neg?, flOF ||| flNX)
        | none => approxPick op raw
    | 1 =>
      if x.isZero then (inf x.neg?, flDZ)
      else if x.neg? then (f.nan, flNV)
      else if x.isInf then (0, 0)
      else approxPick op raw
    | 2 =>
      if x.isInf then (if x.neg? then 0 else inf false, 0)
      else if x.cmp (Ex.ofInt 128) false != .lt then (inf false, flOF ||| flNX)
      else if x.cmp (Ex.ofInt (-150)) false == .lt then (0, flUF ||| flNX)
      else match intOf x with
        | some n => if -149 ≤ n then exact (.fin false 1 n false) else approxPick op raw
        | none => approxPick op raw
    | 3 =>
      if x.isZero then (inf true, flDZ)
      else if x.neg? then (f.nan, flNV)
      else if x.isInf then (inf false, 0)
      else match pow2Of x with
        | some e => exact (Ex.ofInt e)
        | none => approxPick op raw
    | 4 => if x.isInf then (f.nan, flNV) else if tinyArg x then (raw % 2 ^ 32, 0) else approxPick op raw
    | 5 => if x.isInf then (f.nan, flNV) else if x.isZero then exact (Ex.ofInt 1) else approxPick op raw
    | _ =>
      if x.isInf then exact (Ex.ofInt (if x.neg? then -1 else 1))
      else if tinyArg x then (raw % 2 ^ 32, 0)
      else if x.abs.cmp (.fin false 19 (-1) false) false != .lt then exact (Ex.ofInt (if x.neg? then -1 else 1))
      else approxPick op raw

end Sys2Proof.Machine
end

