-- ==== Sys2Proof/Machine/SMap.lean ====
section
/-! DEFINITION. Machine/SMap.lean: sparse data by a natural key in one canonical form. A map is a list of
(key, value) pairs with strictly rising keys in which no value equals what an unlisted key reads as.
Memory, register files and tables of records are all such maps, so equal contents are equal lists. -/

namespace Sys2Proof.Machine

/-- Sparse data by key: strictly rising keys, no entry equal to the default of the map. -/
abbrev SMap (α : Type) := List (Nat × α)

/-- The value at key `k`; an unlisted key reads as `d`. -/
def SMap.get {α : Type} (d : α) : SMap α → Nat → α
  | [], _ => d
  | (j, v) :: rest, k => if k = j then v else if k < j then d else SMap.get d rest k

/-- Writes `v` at key `k`, keeping the canonical form: writing `d` removes the entry (and, in a list that is not canonical, what
would come out from behind it). -/
def SMap.set {α : Type} [DecidableEq α] (d : α) : SMap α → Nat → α → SMap α
  | [], k, v => if v = d then [] else [(k, v)]
  | (j, w) :: rest, k, v =>
    if k < j then (if v = d then (j, w) :: rest else (k, v) :: (j, w) :: rest)
    else if k = j then (if v = d then rest.dropWhile (fun e => decide (e.1 ≤ k)) else (k, v) :: rest)
    else (j, w) :: SMap.set d rest k v

/-- The keys of a map rise strictly and all lie above `lo`, and no listed value is the default. -/
def SMap.wfFrom {α : Type} [DecidableEq α] (d : α) : Nat → SMap α → Bool
  | _, [] => true
  | lo, (j, v) :: rest => decide (lo ≤ j) && decide (v ≠ d) && SMap.wfFrom d (j + 1) rest

/-- The canonical form. -/
def SMap.wf {α : Type} [DecidableEq α] (d : α) (m : SMap α) : Bool := SMap.wfFrom d 0 m

/-- Writes a run of values from key `k` up. -/
def SMap.setRun {α : Type} [DecidableEq α] (d : α) (m : SMap α) (k : Nat) : List α → SMap α
  | [] => m
  | v :: vs => SMap.setRun d (SMap.set d m k v) (k + 1) vs

/-- Reads `n` values from key `k` up. -/
def SMap.getRun {α : Type} (d : α) (m : SMap α) (k : Nat) : Nat → List α
  | 0 => []
  | n + 1 => SMap.get d m k :: SMap.getRun d m (k + 1) n

/-- The record at a key of a table whose unlisted keys hold nothing. -/
def SMap.find? {α : Type} (m : SMap (Option α)) (k : Nat) : Option α := SMap.get none m k

/-- Puts a record into a table. -/
def SMap.put {α : Type} [DecidableEq α] (m : SMap (Option α)) (k : Nat) (v : α) : SMap (Option α) :=
  SMap.set none m k (some v)

/-- Removes the record at a key. -/
def SMap.del {α : Type} [DecidableEq α] (m : SMap (Option α)) (k : Nat) : SMap (Option α) :=
  SMap.set none m k none

/-- Changes the record at a key, if there is one. -/
def SMap.modify {α : Type} [DecidableEq α] (m : SMap (Option α)) (k : Nat) (f : α → α) : SMap (Option α) :=
  match SMap.find? m k with
  | none => m
  | some v => SMap.put m k (f v)

/-- The records of a table with their keys, in key order. -/
def SMap.entries {α : Type} : SMap (Option α) → List (Nat × α)
  | [] => []
  | (k, some v) :: rest => (k, v) :: SMap.entries rest
  | (_, none) :: rest => SMap.entries rest

/-- The first key at or above `k` (looking at most `n` keys up) that holds no record. -/
def SMap.freeKey {α : Type} (m : SMap (Option α)) (k : Nat) : Nat → Option Nat
  | 0 => none
  | n + 1 => match SMap.find? m k with
    | none => some k
    | some _ => SMap.freeKey m (k + 1) n

/-- Drops every entry whose key fails the test. -/
def SMap.keep {α : Type} (m : SMap α) (p : Nat → Bool) : SMap α := m.filter fun e => p e.1

end Sys2Proof.Machine
end

