-- ==== Sys2Proof/Machine/FabricState.lean ====
section
/-! DEFINITION. Machine/FabricState.lean: the state of the photonic fabric and the laser modules (R9 to R40). -/

namespace Sys2Proof.Machine

/-- A flit (R12): its header fields and its 512 payload bits. `pseq` is the number of a class 0 to 2 flit in its pair, which it
takes when it first leaves its sender (R24); the header shows it on relayed flits only. -/
structure Flit where
  seq : Nat
  ack : Nat
  tc : Nat
  nak : Bool
  relay : Bool
  opsrc : Nat
  odst : Nat
  pseq : Option Nat
  kind : Nat
  info : BitVec 40
  payload : BitVec 512
  deriving DecidableEq, Repr

/-- A flit on the wire (R13): the stripe over which it was sent, the sender's beat counter at its first beat, and whether a channel
that carried a beat of it lost its light. -/
structure Sent where
  flit : Flit
  live : BitVec 16
  g : Nat
  hit : Bool
  deriving DecidableEq, Repr

/-- How a message that travels as a flit is known to have arrived (R14, R18): the pair and class, and how many flits of the class the
pair must have delivered. A message that crosses no link has number 0. -/
structure Ticket where
  src : Nat
  dst : Nat
  tc : Nat
  n : Nat
  deriving DecidableEq, Repr

/-- A message that crosses no link. -/
def Ticket.here : Ticket := { src := 0, dst := 0, tc := 0, n := 0 }

/-- One ordered pair of ports: both ends of its link, and its registers at the control die. -/
structure Link where
  /-- Sender: channels in the stripe and marked dead (R13, R20). -/
  txLive : BitVec 16
  txDead : BitVec 16
  /-- Sender: beat counter g, advanced by one per beat, 0 at a restripe (R13). -/
  txG : Nat
  /-- Sender: next sequence number, 12 bits (R15). -/
  seq : Nat
  /-- Sender: replay buffer, oldest first, each with the time it was last sent (R16). -/
  buf : List (Flit × Nat)
  /-- Sender: new flits not sent yet (buffer full, class paused or pair down). -/
  queue : List Flit
  /-- Sender: classes paused by the receiver (R17). -/
  txPause : BitVec 4
  /-- Sender: a nak taken and not yet acted on (R16). -/
  nakIn : Option Nat
  /-- Sender: an acknowledgement taken and not yet acted on (R16). -/
  ackIn : Option Nat
  /-- Flits in flight in sending order. -/
  wire : List Sent
  /-- Receiver: its own live and dead channels (R20) and beat counter (R13). -/
  rxLive : BitVec 16
  rxDead : BitVec 16
  rxG : Nat
  /-- Receiver: next expected sequence (R15). -/
  expSeq : Nat
  /-- Receiver: a nak was sent since the last accepted flit (R15). -/
  nakSent : Bool
  /-- Receiver: flits accepted since the last acknowledgement left, and when it left (R15). -/
  unacked : Nat
  ackAt : Nat
  /-- Receiver: classes for which a pause stands (R17). -/
  rxPause : BitVec 4
  /-- Receiver: accepted class 3 flits not acted on yet. -/
  ctlIn : List Flit
  /-- Flits sent and accepted per class, by which a message knows that it has arrived (R14, R18). -/
  sent : SMap Nat
  accepted : SMap Nat
  /-- Channels in training, and by channel when its training ends (R22, R29), when it is tried again after a training that failed, and
  when it was marked dead (R22). -/
  training : BitVec 16
  trainEnd : SMap Nat
  retryAt : SMap Nat
  deadAt : SMap Nat
  /-- Pair sequence at the sender and next expected at the destination (R24). -/
  pairSeq : Nat
  pairExp : Nat
  /-- Destination: flits of the pair that came ahead of the expected pair sequence over another path, kept until it arrives (R18, R24). -/
  pairHold : List Flit
  /-- The third die that carries the pair at present (R24). -/
  relayVia : Option Nat
  /-- When the window of 320 cc began in which relayed flits are counted at the die that forwards them to this destination, and how
  many it has let through (R24). -/
  shareAt : Nat
  shareN : Nat
  /-- The sender has not yet taken a stripe change of the receiver and re-sent over it (R21). -/
  stale : Bool
  /-- A stripe change not yet reported to the control die (R21): the live mask before it, and the class 3 flit that tells of it. -/
  report : Option (BitVec 16 × Ticket)
  /-- Flits re-sent since that change (R36). -/
  resent : Nat
  /-- The time at which the pair went down (R26). -/
  downAt : Option Nat
  /-- CHSTAT at the control die (R32). -/
  chLive : BitVec 16
  chDead : BitVec 16
  lowPwr : BitVec 16
  chMode : Nat
  /-- LNKERR (R33). -/
  crcFail : Nat
  replay : Nat
  /-- PAIRRT (R34). -/
  via : Nat
  minch : Nat
  act : Bool
  colact : Bool
  share : Nat
  badwr : Bool
  deriving DecidableEq, Repr

/-- A pair at reset: every register at its reset column (R32 to R34), both ends untrained. -/
def Link.reset : Link :=
  { txLive := 0, txDead := 0, txG := 0, seq := 0, buf := [], queue := [], txPause := 0, nakIn := none, ackIn := none,
    wire := [], rxLive := 0, rxDead := 0, rxG := 0, expSeq := 0, nakSent := false, unacked := 0, ackAt := 0,
    rxPause := 0, ctlIn := [], sent := [], accepted := [], training := 0, trainEnd := [], retryAt := [],
    deadAt := [], pairSeq := 0, pairExp := 0, pairHold := [], relayVia := none, shareAt := 0, shareN := 0, stale := false, report := none, resent := 0, downAt := none, chLive := 0, chDead := 0, lowPwr := 0,
    chMode := 4, crcFail := 0, replay := 0, via := 0, minch := 8, act := false, colact := false, share := 2,
    badwr := false }

/-- A pair after the training that follows device reset (R32): LIVE 0xFFFF and MODE 0. -/
def Link.trained : Link := { Link.reset with txLive := 0xFFFF, rxLive := 0xFFFF, chLive := 0xFFFF, chMode := 0 }

/-- One laser module (R35). -/
structure Laser where
  /-- LASSTAT.STATE: 0 absent, 1 warming, 2 standby, 3 active, 4 failed, 5 removing. -/
  state : Nat
  /-- LASSTAT.PLANES: the plane pair fed, 15 none. -/
  planes : Nat
  remreq : Bool
  /-- The plane pair it fed when it failed or was moved away, 15 none (R28, R31). -/
  lost : Nat
  /-- When the module failed (R30), and whether its failure has been recorded (R28). -/
  failedAt : Option Nat
  recorded : Bool
  /-- When its light last came on the planes it feeds (R22), and whether its removal has been recorded (R31). -/
  since : Nat
  out : Bool
  deriving DecidableEq, Repr

/-- A module at reset: modules 0 to 3 active on plane pair m, module 4 standby (R27, R35). -/
def Laser.reset (m : Nat) : Laser :=
  { state := if m < 4 then 3 else 2, planes := if m < 4 then m else 15, remreq := false, lost := 15, failedAt := none, recorded := false,
    since := 0, out := false }

/-- The fabric block of the control die and all links. -/
structure Fabric where
  /-- The training that follows device reset is done (R32): until then every pair reads as at reset. -/
  up : Bool
  /-- The ordered pairs, at 32 × source + destination, that differ from a trained pair. -/
  links : SMap Link
  /-- Relayed flits waiting at the die that forwards them, at its port (R24). -/
  relayIn : SMap (List Flit)
  lasers : List Laser
  /-- The module whose planes the standby is coming up for (R29, R30), and the module that does; until LASSTBY. -/
  standbyFor : Option (Nat × Nat)
  /-- The standby's light is on the planes (R29). -/
  standbyLit : Bool
  /-- Number of messages sent so far (names each message's kind, info and payload). -/
  msgs : Nat
  deriving DecidableEq, Repr

/-- The fabric at reset. -/
def Fabric.reset : Fabric :=
  { up := false, links := [], relayIn := [], lasers := [Laser.reset 0, Laser.reset 1, Laser.reset 2, Laser.reset 3,
      Laser.reset 4], standbyFor := none, standbyLit := false, msgs := 0 }

end Sys2Proof.Machine
end

