-- ==== Sys2Proof/Machine/TaskState.lean ====
section
/-! DEFINITION. Machine/TaskState.lean: tasks, blocks, barrier slots, copy commands and tiles (R124 to R148,
R227 to R250, R262). -/

namespace Sys2Proof.Machine

/-- A task record (R124) as read at LAUNCH. -/
structure TaskRec where
  prog : Nat
  args : Nat
  cwa : Nat
  stk : Nat
  gx : Nat
  gy : Nat
  gz : Nat
  bsize : Nat
  csize : Nat
  flags : Nat
  vreg : Nat
  spad : Nat
  sreg : Nat
  acc : Nat
  cunits : Nat
  sunits : Nat
  nrng : Nat
  npred : Nat
  cap : Nat
  pred0 : Nat
  pred1 : Nat
  rng : List (BitVec 64)
  deriving DecidableEq, Repr

/-- The states of a timetable entry but free (R135). -/
inductive TtState where
  | waiting | eligible | running | completing
  deriving DecidableEq, Repr

/-- A live timetable entry (R135). -/
structure Task where
  st : TtState
  ctx : Nat
  task : TaskRec
  /-- Place in the context's launch order (R131) and acceptance time (R140). -/
  order : Nat
  acceptedAt : Nat
  eligibleAt : Nat
  /-- Next linear block index never placed, blocks to be placed again from their start (R89), saved blocks. -/
  nextBlock : Nat
  again : List Nat
  saved : List Nat
  /-- Blocks retired, with a nonzero gmask or status, OR of fstat, records written (R145). -/
  retired : Nat
  nbad : Nat
  fsum : BitVec 32
  recs : Nat
  /-- A background task placed as standard (R143); a task cut short by a fence starts no further block (R89). -/
  promoted : Bool
  cut : Bool
  /-- Writes to its completion area that wait for a page: offset and bytes (R146). -/
  owed : List (Nat × List (BitVec 8))
  /-- Blocks to be run again whose exit record stands (R89, R148). -/
  redo : List Nat
  /-- Since when the blocks to be placed again wait (R142, R143). -/
  waitSince : Nat
  deriving DecidableEq, Repr

/-- A LAUNCH whose record has been read and is on its way to the signal box (R128). -/
structure LaunchMsg where
  gid : Nat
  bid : Nat
  ctx : Nat
  op : Nat
  sd : Nat
  pd : Nat
  lanes : BitVec 32
  bytes : List (BitVec 8)
  deriving DecidableEq, Repr

/-- The signal box (R124 to R148). -/
structure SignalBox where
  table : SMap (Option Task)
  gens : SMap Nat
  launches : List LaunchMsg
  /-- Cores being drained for a re-split, with the task and the time the drain began (R142). -/
  draining : SMap (Option (Nat × Nat))
  /-- Pages at which its writes to a completion area met a final answer, with the types refused (R111, R146). -/
  finals : List (Nat × BitVec 7)
  /-- Virtual core of each physical core (R4) where it differs from its own number; 64 stands for unmapped. -/
  vmap : SMap Nat
  /-- Contexts whose station block waits for a place (R133). -/
  stations : List Nat
  deriving DecidableEq, Repr

/-- The signal box at reset: an empty timetable, and every core under its own number: the spec does not say which virtual core each
physical core is at reset. DESIGN CHOICE, unsafe: log entry 136. -/
def SignalBox.reset : SignalBox := { table := [], gens := [], launches := [], draining := [], finals := [], vmap := [], stations := [] }

/-- A bound barrier slot (R227, R229). -/
structure Slot where
  off : Nat
  phase : Nat
  pendA : Nat
  expA : Nat
  pendB : Nat
  expB : Nat
  peer : Bool
  guard : Bool
  deriving DecidableEq, Repr

/-- A tile descriptor in use (R262); `busy` while a tile-writing word executes on it. -/
structure Tile where
  n : Nat
  first : Nat
  ver : Nat
  deriving DecidableEq, Repr

/-- A copy command (R239, R240, R248). -/
structure CopyCmd where
  id : Nat
  /-- 1 CPY, 2 CPYM, 3 CPYR, 4 CPYG (R248). -/
  kind : Nat
  slot : Nat
  mmask : Nat
  mode : Nat
  /-- The eight command registers and the 64 map-record bytes read at issue (R240, R241). -/
  regs : List (BitVec 32)
  map : List (BitVec 8)
  /-- Issuing group, its lowest issuing lane and its issuing lanes, clause and word. -/
  gid : Nat
  lane : Nat
  lanes : BitVec 32
  clause : Nat
  word : Nat
  /-- Total units (0 while CPYR's T is unknown), units delivered, and the bytes the command moves, once known. -/
  total : Nat
  done : List Nat
  known : Option Nat
  /-- Units under way, each with the requests that homes have not answered (R239, R242); the reads of the map record and of the list count as
  units of their own (`mapUnit`, `listUnit`). -/
  flight : List (Nat × Nat)
  /-- Answers sent and not taken: unit and flit; bytes read, at 2^40 × unit + place. -/
  replies : List (Nat × Ticket)
  got : SMap (BitVec 8)
  /-- Faults that its units have met: unit, cause, reason, VA and IA page (R62, R249). -/
  fails : List (Nat × Nat × Nat × Nat × Nat)
  /-- Row table or index list, once read (R244, R245). -/
  list : Option (List Nat)
  /-- 0 the map record is not read yet, 1 it waits to be admitted, 2 it runs, 3 a final fault has stopped it (R239, R407,
  R249); when its word became ready. -/
  stage : Nat
  ready : Nat
  deriving DecidableEq, Repr

/-- Where a block stands: running, halting for a save (R144), stopping or stopped by debug (R294), saved, being restored
(R437), or retired while its scratchpad stays in place for the rest of its cluster (R208). -/
inductive BlockPhase where
  | live | halting | stopping | stopped | saved | restoring | retired
  deriving DecidableEq, Repr

/-- A block (R3, R124, R126, R138, R181). -/
structure Block where
  ctx : Nat
  /-- Timetable entry; none for a station block (R133). -/
  tt : Option Nat
  x : Nat
  y : Nat
  z : Nat
  index : Nat
  clrank : Nat
  csize : Nat
  /-- Block keys of the cluster in rank order. -/
  cluster : List Nat
  core : Nat
  /-- Place of its split, or station number (R230). -/
  place : Nat
  places : Nat
  /-- Groups per block of the task the split was carved for: the register region holds places × that many (R138). -/
  carve : Nat
  groups : Nat
  bsize : Nat
  cls : Nat
  /-- Split: v registers, scratchpad bytes, s registers, accumulator units (R138). -/
  vcount : Nat
  spad : Nat
  scount : Nat
  acc : Nat
  prog : Nat
  args : Nat
  cunits : Nat
  sunits : Nat
  stk : Nat
  handle : Nat
  rst : Bool
  /-- Placed in a lendable place of an express split (R174). -/
  borrowed : Bool
  phase : BlockPhase
  /-- Parts of the save (bits 0 .copy, 1 .acc, 3 .blk) or restore (4 .copy, 5 .acc, 7 .blk) already performed (R437). -/
  parts : BitVec 8
  /-- The block was stopped by debug when it was saved (R299), its stop source and a pending one. -/
  stopSrc : Option Nat
  stopPending : Option Nat
  /-- Reserved save area: offset in 64 KiB units and units (R199); dump area of a stop (R294). -/
  area : Option (Nat × Nat)
  dump : Option (Nat × Nat)
  placedAt : Nat
  scratch : SMap (BitVec 8)
  /-- Accumulator words at 3,072 × unit + 96 × row + column (R262). -/
  accs : SMap (BitVec 32)
  tiles : SMap (Option Tile)
  /-- Copies of scratchpad operand bytes that the matrix units keep: the values read, by byte (R271). -/
  copies : SMap (List (BitVec 8))
  slots : SMap (Option Slot)
  cmds : List CopyCmd
  /-- Cancelled commands of which an access still waits on a page: a final answer to it is still delivered (R250). -/
  ghosts : List CopyCmd
  /-- Flits of the save's writes that have not reached their homes (R14). -/
  traffic : List Ticket
  /-- Watch and MEMOP arrivals held while the block is saved (R238, R438). -/
  heldArrivals : List (Nat × Nat × Nat × Nat × Nat)
  deriving DecidableEq, Repr

/-- The target of an arrival (R231). -/
inductive ArriveTo where
  | name (bid n : Nat)
  | address (bid off : Nat)
  deriving DecidableEq, Repr

/-- Who arrives: lanes of a group by ARRIVE, an engine for a group's lane, or a watch (R231, R232). -/
inductive Arriver where
  | group (gid : Nat) (lanes : BitVec 32)
  | engine (gid lane : Nat)
  | watch
  deriving DecidableEq, Repr

/-- An arrival request under way (R231, R234). -/
structure Arrival where
  to_ : ArriveTo
  a : Nat
  y : Nat
  by_ : Arriver
  /-- Time at which it may be applied (R234); the class 1 flit that brings one from another die (R14). -/
  due : Nat
  ticket : Ticket := Ticket.here
  deriving DecidableEq, Repr

end Sys2Proof.Machine
end

