-- ==== Sys2Proof/Machine/GroupState.lean ====
section
/-! DEFINITION. Machine/GroupState.lean: the state of a group and of a core (R149 to R203, R209 to R212, R270 to R275). -/

namespace Sys2Proof.Machine

/-- A split-table entry (R153). `clause` is the VA of the clause header. -/
structure Entry where
  clause : Nat
  word : Nat
  mask : BitVec 32
  parent : Nat
  spec : Bool
  /-- Clause and word of the predicted branch (R153). -/
  origin : Nat × Nat
  /-- Cycles since it last issued, to at most 1,024. -/
  idle : Nat
  /-- The clause as fetched: header and words (R160). -/
  code : Option (List (BitVec 64))
  /-- The header's wait is satisfied for this entry (R158, R235). -/
  waited : Bool
  deriving DecidableEq, Repr

/-- What an operand-log entry stands for (R113, R128, R225, R273). -/
inductive OpKind where
  | load | atomic | ldc | cell | launch | store | mma
  deriving DecidableEq, Repr

/-- An operand-log entry (R113, R201). -/
structure OpEntry where
  kind : OpKind
  clause : Nat
  word : Nat
  /-- The raw instruction word. -/
  raw : BitVec 64
  /-- Lanes whose data has not landed (R113). -/
  pending : BitVec 32
  vas : SMap Nat
  /-- Operands per lane, the compare value first for cas (R201). -/
  data : SMap Nat
  /-- Lanes with a final fault, and the cause, reason and IA page of each (R225). -/
  faulted : BitVec 32
  causes : SMap (Nat × Nat × Nat)
  /-- Up to two deferred words attached to this load, each with its mask (R165), and whether a speculative entry
  issued it. -/
  deferred : List (BitVec 64 × BitVec 32 × Bool)
  /-- First destination register of each lane, for an indexed destination resolved at issue (R183). -/
  dregs : SMap Nat
  /-- od of the word, and the space of its accesses (0 global, 3 constant, 4 stack, 5 cell). -/
  od : Nat
  sp : Nat
  /-- Issued speculatively (R118); lanes answered "not now". -/
  spec : Bool
  notNow : BitVec 32
  /-- Expired data in use and not yet confirmed, and the lanes (of an LDC, the parts) that use it (R212). -/
  unconfirmed : Bool
  stale : BitVec 32 := 0
  /-- Issued under line speculation (R212). -/
  line : Bool := false
  /-- Its place in the issue order of the entries that the log holds (R165). -/
  seq : Nat := 0
  /-- The class 1 flits of the replies that have been sent to it (R14). -/
  replies : List Ticket
  deriving DecidableEq, Repr

/-- A mask-prediction table entry (R166). -/
structure PredEntry where
  tag : Nat
  taken : BitVec 32
  conf : Nat
  deriving DecidableEq, Repr

/-- The shadow copies of one speculative entry, or of line speculation (R168): its lanes, v registers copied (register
and its 32 lanes) and the predicate file. -/
structure Shadow where
  lanes : BitVec 32
  vs : List (Nat × List (BitVec 32))
  ps : Option (List (BitVec 32))
  deriving DecidableEq, Repr

/-- A speculated branch not yet resolved (R167, R169): its identifier, place, masks, predicate and shadows. -/
structure Spec where
  ident : Nat
  clause : Nat
  word : Nat
  target : Nat
  fall : Nat
  mask : BitVec 32
  predicted : BitVec 32
  guard : Guard
  /-- Shadow copies of its one or two speculative entries, and FSTAT as it stood at the branch. -/
  shadows : List Shadow
  fShadow : List (BitVec 32)
  deriving DecidableEq, Repr

/-- The checkpoint of line speculation (R212). -/
structure LineSpec where
  op : Nat
  entries : List Entry
  up : SMap (Option Nat)
  /-- Shadows of what later words wrote. -/
  shadow : Shadow
  fShadow : List (BitVec 32)
  deriving DecidableEq, Repr

/-- The A latch of a group (R270): the A fields it was read with, the first register of each row, or the map record, that it was read at,
and rows of elements and scales. -/
structure ALatch where
  field : Nat
  base : List Nat
  map : List (BitVec 32)
  rows : List (List Nat)
  scales : List (List Nat)
  deriving DecidableEq, Repr

/-- An MMA in execution (R264, R265, R273). -/
structure MmaExec where
  clause : Nat
  word : Nat
  raw : BitVec 64
  tile : Nat
  ver : Nat
  rows : BitVec 32
  /-- Next chunk to perform, and the number of chunks. -/
  chunk : Nat
  chunks : Nat
  bmap : List (BitVec 32)
  amap : List (BitVec 32)
  a : List (List Nat)
  ascale : List (List Nat)
  /-- Where A was read: the first register of each row, or the map record; and whether it came from the latch (R270). -/
  abase : List Nat
  aloc : List (BitVec 32)
  latched : Bool
  /-- The scratchpad bytes of its maps as they stood at issue (R221). -/
  old : SMap (BitVec 8)
  /-- A halt has asked it to stop at the next chunk boundary (R273). -/
  halt : Bool
  deriving DecidableEq, Repr

/-- A tile word (ALD, AST, ARD) or small-matrix word whose engine part is under way (R417, R422). -/
structure EngineExec where
  clause : Nat
  word : Nat
  raw : BitVec 64
  lanes : BitVec 32
  /-- Its row map record, read at issue (R414); for a small-matrix word the shapes of its views at issue (R203). -/
  map : List (BitVec 32)
  /-- One more than the first register that its register operand names in each lane, resolved at issue (R183, R414, R418). -/
  base : SMap Nat
  deriving DecidableEq, Repr

/-- A fence in force (R217): which later words it holds. -/
structure FenceHold where
  lanes : BitVec 32
  rel : Bool
  acq : Bool
  sc : Bool
  deriving DecidableEq, Repr

/-- A fault attributed to an earlier word and delivered at a release, FLSIG, EXIT or wait (R115, R117, R249). -/
structure LateFault where
  kind : Nat
  cause : Nat
  lanes : BitVec 32
  clause : Nat
  word : Nat
  access : Nat
  reason : Nat
  od : Nat
  cmd : Nat
  ia : Nat
  vas : List (Nat × Nat)
  /-- Slot name of the command, for a copy fault (R249). -/
  slot : Option Nat
  deriving DecidableEq, Repr

/-- A trap asked for and not yet taken (R114, R273, R430): cause word and record. -/
structure TrapReq where
  cause : Nat
  /-- KIND when the cause has no record (R361). -/
  kind : Nat
  late : Bool
  /-- Lanes with the cause, and where TPC points. -/
  lanes : BitVec 32
  tclause : Nat
  tword : Nat
  record : Option LateFault
  deriving DecidableEq, Repr

/-- A comparator's hit that a group has met (R295): the comparator and the word it matched; whether that word has not issued yet, and whether
some other word has. -/
structure Hit where
  clause : Nat
  word : Nat
  cmp : Nat
  waits : Bool
  other : Bool
  deriving DecidableEq, Repr

/-- A group (R152, R181, R187). -/
structure Group where
  bid : Nat
  idx : Nat
  /-- General or freight slot number at home (R150, R188). -/
  slot : Nat
  cls : Nat
  vcount : Nat
  scount : Nat
  /-- v register r of lane l at 32 × r + l; s register i at i; predicate i as a mask; x register k of lane l at
  32 × k + l; FSTAT and KSTAT by lane (R5, R190, R191). -/
  v : SMap (BitVec 32)
  s : SMap (BitVec 32)
  p : SMap (BitVec 32)
  x : SMap (BitVec 16)
  fstat : SMap (BitVec 32)
  kstat : SMap (BitVec 32)
  fmask : BitVec 64
  mres : BitVec 64
  slim : BitVec 32
  sbase : BitVec 64
  xwin : List (BitVec 32)
  kshpa : BitVec 64
  kshpb : BitVec 64
  tvec : BitVec 64
  tpc : BitVec 64
  tcause : BitVec 32
  fw : Bool
  trap : Bool
  /-- Core and landing slot where it runs while landed (R176). -/
  landed : Option (Nat × Nat)
  /-- Lanes of the group, its helper lanes, lanes that have exited or were switched off (R126, R170, R171, R189). -/
  present : BitVec 32
  helper : BitVec 32
  exited : BitVec 32
  entries : List Entry
  /-- Live identifiers other than the root, with up[n] (R154). -/
  up : SMap (Option Nat)
  joinMember : BitVec 32
  joinArrived : BitVec 32
  oplog : SMap (Option OpEntry)
  preds : SMap (Option PredEntry)
  specs : List Spec
  lineSpec : Option LineSpec
  latch : Option ALatch
  /-- Scratchpad bytes the group has stored since its last MMA issued or AFENCE (R271). -/
  padWrote : SMap Bool
  mma : Option MmaExec
  tileWords : List EngineExec
  kwords : List EngineExec
  fences : List FenceHold
  copyCount : Nat
  late : List LateFault
  pendingTraps : List TrapReq
  /-- While GSTAT.FW = 1 `entries` holds the firmware entry alone, and this is the split table as it was at the halt
  (R436). -/
  resume : List Entry
  /-- CTXSAVE.grp and CTXREST.grp are done for this group, and it has issued the ERET that ends a restore (R437, R438). -/
  grpSaved : Bool
  grpLoaded : Bool
  released : Bool
  halted : Bool
  /-- A MIGRATE under way: destination core and landing slot, 2 standing for the group's own slot at home (R176), 3 for a
  return home that the group did not ask for (R178). -/
  migrating : Option (Nat × Nat)
  /-- The last comparator hit, until its comparator may hit anew (R295). -/
  passed : Option Hit
  /-- Time of last issue plus 1; 0 never (R161). -/
  lastIssue : Nat
  deriving DecidableEq, Repr

/-- A posted or unposted store in a core's store buffer (R113, R151, R211). -/
structure BufStore where
  id : Nat
  gid : Nat
  clause : Nat
  word : Nat
  od : Nat
  width : Nat
  /-- Lane, VA, IA and data of each lane not yet acknowledged. -/
  lanes : List (Nat × Nat × Nat × Nat)
  /-- Space: 0 global, 2 peer, 4 stack. -/
  sp : Nat
  red : Bool
  deriving DecidableEq, Repr

/-- An L1 line (R209, R211). -/
structure L1Line where
  bytes : List (BitVec 8)
  version : Nat
  leaseEnd : Nat
  /-- Its poisoned sectors: a load of one goes to the home (R62). -/
  bad : BitVec 4
  /-- Allocated at the lowest replacement priority (R210). -/
  low : Bool := false
  deriving DecidableEq, Repr

/-- The state of an issue platform (R161): the group it holds, since when, and the calendar's credits (R78). -/
structure Platform where
  held : Option Nat
  since : Nat
  /-- Lanes of the entry with which its group ended a clause at its last issue; 0 none. -/
  ended : BitVec 32
  /-- The last issue: time, group, clause and word. -/
  issued : Option (Nat × Nat × Nat × Nat)
  credits : SMap Int
  deriving DecidableEq, Repr

/-- A platform that holds no group. -/
def Platform.reset : Platform := { held := none, since := 0, ended := 0, issued := none, credits := [] }

/-- Freight states (R172). -/
inductive Freight where
  | open_ | revoking | closed
  deriving DecidableEq, Repr

/-- The lanes that one speculative issue of a group added to one cell of the lane-cycle record (R289): under a branch
identifier (0 none), under line speculation, or both. -/
structure LcrIssue where
  gid : Nat
  lanes : BitVec 32
  /-- Cell of the record (`Core.lcr`), without its class, and the class. -/
  row : Nat
  cls : Nat
  ident : Nat
  line : Bool
  deriving DecidableEq, Repr

/-- An acknowledgement on its way to a core's store buffer (R45, R49, R62): the store, its lanes done and refused by poison, the flags by
lane, and the class 1 flit that brings it. -/
structure StoreAnswer where
  id : Nat
  ok : BitVec 32
  poison : BitVec 32
  flags : List (Nat × BitVec 5)
  ticket : Ticket
  deriving DecidableEq, Repr

/-- A core (R149 to R151). -/
structure Core where
  platforms : SMap Platform
  freight : Freight
  /-- Cycle of the last express issue or readiness (R172). -/
  expressAt : Nat
  stores : List BufStore
  nextStore : Nat
  /-- Acknowledgements on their way to the store buffer. -/
  acks : List StoreAnswer
  /-- Lane-cycle counts at ((context × 17 + row) × 6 + class − 1) (R290). -/
  lcr : SMap Nat
  /-- What each speculative issue of a group added to the lane-cycle record, to be moved to class 6 if squashed (R289). -/
  lcrLog : List LcrIssue
  /-- Sampling LFSR by context plus 1 (0 none), ticks, next tick time and slot pointer (R291). -/
  sampler : SMap (Option (BitVec 16 × Nat × Nat × Nat))
  deriving DecidableEq, Repr

/-- A core at reset: OPEN, empty. -/
def Core.reset : Core :=
  { platforms := [], freight := .open_, expressAt := 0, stores := [], nextStore := 0, acks := [],
    lcr := [], lcrLog := [], sampler := [] }

end Sys2Proof.Machine
end

