-- ==== Sys2Proof/Machine/HostState.lean ====
section
/-! DEFINITION. Machine/HostState.lean: the state of the host links, functions, contexts, event logs, security and
debug port (R69 to R95, R97, R132, R283 to R299). -/

namespace Sys2Proof.Machine

/-- One segment of a context: SEGB, SEGL and SEGO (R97). -/
structure Segment where
  b : BitVec 64
  l : BitVec 64
  o : BitVec 64
  deriving DecidableEq, Repr

/-- An invalid segment, the reset value of R97. -/
def Segment.reset : Segment := { b := 0, l := 0, o := 0 }

/-- A context (R132) with its segments, cell window, heat counters, logbook and comparators. -/
structure Context where
  fn : Nat
  lctx : Nat
  req : CtxReq
  /-- First device cell of its window (R50). -/
  firstCell : Nat
  segs : SMap Segment
  /-- When its CTXNEW completed, and heat-epoch boundaries passed (R60). -/
  born : Nat
  epochs : Nat
  /-- Heat counters by 4 KiB IA page (R60). -/
  heat : SMap Nat
  /-- Save-region units of 64 KiB in use, by first unit, with their count (R199). -/
  saves : SMap Nat
  /-- Bytes of the save region whose page the table does not map: the device keeps the region resident whatever the table says (R199). -/
  kept : SMap (Option (BitVec 8))
  /-- Logbook area (R283): base VA (0 none), n, and the producer count. -/
  lbBase : Nat
  lbN : Nat
  lbProd : Nat
  /-- Settings last read from the area (R284): flags (SMP, LCR, AUTO), ibase, jbits, bins (lo, hi). -/
  lbFlags : BitVec 3
  ibase : Nat
  jbits : Nat
  bins : List (Nat × Nat)
  /-- Comparators DBGCMP0 to DBGCMP7 (R293). -/
  cmps : SMap (BitVec 64)
  /-- Next launch-order number (R131). -/
  launches : Nat
  deriving DecidableEq, Repr

/-- A function (R76): weights, key, log, MSI-X state, reset and lock-out state. -/
structure Func where
  iw : Nat
  aw : Nat
  /-- Number of its memory-encryption key; 0 none. The key itself is never readable (R76). -/
  key : Nat
  /-- Event log (R84): base VA (0 none), n, producer index, dropped records not yet reported. -/
  logBase : Nat
  logN : Nat
  logProd : Nat
  dropped : Nat
  /-- MSI-X table mask bits and pending bits by vector (R77). -/
  masked : SMap Bool
  pending : SMap Bool
  /-- Per event vector: when it was last raised (plus 1; 0 never), and a record waits for the holdoff (R37). -/
  raisedAt : SMap Nat
  holdoff : SMap Bool
  /-- Function-level reset in progress (R87): 0 none, 4 up to its step 4; 6 the same after a class B alarm, and 5 once that one's fill
  is done (R94). -/
  flr : Nat
  /-- Disabled by a class B alarm until the PF re-enables it (R94). -/
  disabled : Bool
  /-- EXPGRANT (R132). -/
  expgrant : Bool
  /-- Posted host writes not yet issued to their homes (R72), each with its context and the IA it was accepted with. -/
  posted : List (HostReq × Nat × Nat)
  /-- FRS has reported it ready (R74, R87). -/
  frs : Bool
  /-- Size of the BAR0/1 window that the PF has set (R74). -/
  window : Nat
  /-- Bytes of its MSI-X table, but for the mask bits (R74). -/
  table : SMap (BitVec 8)
  deriving DecidableEq, Repr

/-- A function with nothing assigned (R76). The spec gives no value of the weights and of the MSI-X mask bits at reset and after they are
cleared, and the model holds no MSI-X enable: the weights are 1 and no vector is masked. Nor does it give the size of the BAR0/1 window that
the PF sets, or how it sets it: the model has the largest. DESIGN CHOICE, unsafe: log entry 134. -/
def Func.reset : Func :=
  { iw := 1, aw := 1, key := 0, logBase := 0, logN := 0, logProd := 0, dropped := 0, masked := [], pending := [],
    raisedAt := [], holdoff := [], flr := 0, disabled := false, expgrant := false, posted := [], frs := false, window := 2 ^ 40,
    table := [] }

/-- One completed host read (R75): the function, the completion status and the bytes. -/
structure HostDone where
  fn : Nat
  ok : Bool
  poisoned : Bool
  data : List (BitVec 8)
  deriving DecidableEq, Repr

/-- A host access under way (R72, R117): its number, when it began, the requests not yet answered, and the bytes read so
far by offset. -/
structure HostOp where
  id : Nat
  began : Nat
  req : HostReq
  left : Nat
  got : SMap (BitVec 8)
  /-- The home of its posted write (R72). -/
  home : Nat
  deriving DecidableEq, Repr

/-! ### Configuration space (R74) -/

/-- Device ID of a function. -/
def deviceId (fn : Nat) : Nat := if fn = 0 then 0xC109 else 0xC10A
/-- Class code: processing accelerator. -/
def classCode : Nat := 0x120000
/-- TotalVFs. -/
def totalVfs : Nat := 63
/-- HDM decoders of the CXL DVSEC. -/
def hdmDecoders : Nat := 1
/-- Entries of a function's MSI-X table. -/
def msixEntries (fn : Nat) : Nat := if fn = 0 then 136 else 40
/-- Sizes that the PF may give a function's window of BAR0/1: 16 GiB to 1 TiB, a power of two as every BAR. -/
def windowOk (n : Nat) : Bool := (List.range 7).any fun k => n == 2 ^ (34 + k)

/-- An answer of a management operation (R83): tag, status and the result bytes at entry offset 8 up. -/
structure MgmtDone where
  tag : Nat
  status : Nat
  result : List (BitVec 8)
  deriving DecidableEq, Repr

/-- The host side of the control die. -/
structure HostSide where
  /-- Links up (R70) and HBCTL (R71). -/
  link0 : Bool
  link1 : Bool
  farperm : Bool
  pool0 : Bool
  l1up : Bool
  faralt : Bool
  funcs : SMap Func
  ctxs : SMap (Option Context)
  /-- Record series number (R36, R84). -/
  rseq : Nat
  /-- The management queue at offset 0 of the PF's BAR0 window (R81): the bytes of its ring, producer word and consumer word; the
  entries completed, and their completions in order. -/
  ring : SMap (BitVec 8)
  consumer : Nat
  mgmt : List MgmtDone
  /-- MSI-X messages sent to the host, oldest first: function and vector (R77). -/
  msix : List (Nat × Nat)
  /-- Answers to host reads. -/
  done : List HostDone
  nextHost : Nat
  /-- Host accesses under way, oldest first (R72, R117). -/
  ops : List HostOp
  /-- Generation counter for keys. -/
  nextKey : Nat
  /-- When the lane-cycle counts were last added on time (R290). -/
  lcrAt : Nat
  deriving DecidableEq, Repr

/-- The host side at reset (R71 reset column; links untrained until bring-up step 5). -/
def HostSide.reset : HostSide :=
  { link0 := false, link1 := false, farperm := false, pool0 := false, l1up := false, faralt := false, funcs := [],
    ctxs := [], rseq := 0, ring := [], consumer := 0, mgmt := [], msix := [], done := [], nextHost := 0, ops := [],
    nextKey := 1, lcrAt := 0 }

/-- Trust, alarms, power and debug port (R91 to R95, R39, R40, R297, R298). -/
structure Guardhouse where
  /-- Bring-up has completed (R95). -/
  up : Bool
  /-- Failed firmware verifications in this boot (R91). -/
  badVerify : Nat
  /-- The fused rollback counter, and the security version of the running image (R91). -/
  rollback : Nat
  version : Nat
  /-- The working copy of the identity signing key is there (R92, R94). -/
  identity : Bool
  /-- Debug unlock attempts without a valid token in this boot (R93). -/
  badUnlock : Nat
  /-- A class C alarm has halted all dies (R94). -/
  dead : Bool
  /-- Power state: 0 P0, 2 P2, 3 off (R40). -/
  power : Nat
  /-- Junction temperature of each compute die and the issue gate in sixteenths (R39). -/
  temp : SMap Nat
  gate : SMap Nat
  /-- Fenced compute dies (R89). -/
  fenced : BitVec 8
  /-- Challenge number, and whether it may still be used (R297). -/
  challenge : Nat
  fresh : Bool
  /-- Unlocks in force: functions by bit, and scope 1 (R298). -/
  unlocked : BitVec 64
  unlockAll : Bool
  /-- What the port has answered: (request, number). -/
  port : List (Nat × Nat)
  /-- Corrected SRAM errors counted (R90). -/
  corrected : Nat
  deriving DecidableEq, Repr

/-- At reset: bring-up not complete, P0, no alarm, no unlock. The spec gives no value of the fused rollback counter: the model has 0, which
nothing changes. DESIGN CHOICE, unsafe: log entry 150. -/
def Guardhouse.reset : Guardhouse :=
  { up := false, badVerify := 0, rollback := 0, version := 0, identity := false, badUnlock := 0, dead := false, power := 0, temp := [], gate := [], fenced := 0,
    challenge := 0, fresh := false, unlocked := 0, unlockAll := false, port := [], corrected := 0 }

end Sys2Proof.Machine
end

