-- ==== Sys2Proof/Machine/MemState.lean ====
section
/-! DEFINITION. Machine/MemState.lean: the state of the memory dies, of translation and of the requests between the
requesters and the homes (R41 to R68, R96 to R123, R204 to R226). -/

namespace Sys2Proof.Machine

/-! ### Requests -/

/-- What a home is asked to do with a unit (R44, R49, R54, R55, R236): `range` and `reduce` ask it to process a unit of a MEMOP, `elem` is the
update of one element of such a unit, and `spoil` the update of one that was computed from a poisoned source. -/
inductive ReqKind where
  | load | store | watch | renew
  | add | min | max | and | or | xor | exch | cas | fadd
  | copyRead | copyWrite
  | range | reduce | elem | spoil
  deriving DecidableEq, Repr

/-- Who sent a request (R109): a group's operand-log entry, a group's store, a unit of a copy command (by its block and the command's key), a
host access, a prefetch, or a MEMOP's unit, by the VA of its first byte. -/
inductive Requester where
  | op (gid slot : Nat)
  | store (core id : Nat)
  | copy (bid cmd unit : Nat)
  | host (id : Nat)
  | pref (die : Nat)
  | memop (id unit : Nat)
  deriving DecidableEq, Repr

/-- One lane's part of a request: its VA and IA, its operands (compare value first for cas), and its segment's CHK (R97, R222). -/
structure LaneAcc where
  lane : Nat
  va : Nat
  ia : Nat
  data : Nat
  data2 : Nat
  chk : Bool := false
  deriving DecidableEq, Repr

/-- A class 0 request to a home: the lanes of one word whose bytes lie in one 256-byte unit (R41, R59). -/
structure Req where
  /-- Request tag (R64). -/
  tag : Nat
  /-- Source compute die, 17 for the host bridge, or 18 and the number of a memory die. -/
  src : Nat
  ctx : Nat
  fn : Nat
  who : Requester
  kind : ReqKind
  /-- Signed integer type (min, max); width in bytes; word type for fadd is by the width. -/
  signed : Bool
  width : Nat
  lanes : List LaneAcc
  /-- Order and cache fields as in od (R384, R210). -/
  od : Nat
  /-- The guard phase (R223), with the group identifier of R223. -/
  phase : Nat
  rgid : Nat
  spec : Bool
  /-- Version of the expired copy, for a renewal (R48). -/
  version : Nat
  /-- Barrier slot name, block and context of a watch (R236). -/
  slot : Nat
  bid : Nat
  /-- The reply carries the whole line with a lease (R46), and L1 keeps it (R210). -/
  lease : Bool
  alloc : Bool
  /-- The class 0 flit that brings the request to its home (R14). -/
  ticket : Ticket
  /-- It has met a pending reply and waits for a wake (R114); its page. -/
  waiting : Option Nat
  /-- It was refused with a retry reply and is re-sent at this time (R44); the class 1 flit of the reply. -/
  retryAt : Option Nat
  reply : Ticket
  deriving DecidableEq, Repr

/-- A write accepted and held for the line's leases (R47), with the place of its first byte and the leaf it was translated with. -/
structure HeldWrite where
  req : Req
  pa : Nat
  leaf : BitVec 64
  deriving DecidableEq, Repr

/-- A performed write whose parity delta is under way (R45, R64): old XOR new of each byte at its stripe offset. -/
structure Delta where
  tag : Nat
  home : Nat
  /-- The parity die, physical stripe and the changed bytes (offset within the unit, XOR). -/
  pdie : Nat
  stripe : Nat
  bytes : List (Nat × BitVec 8)
  /-- The request, its old values and floating-point flags per lane for an atomic (R49). -/
  req : Req
  results : List (Nat × Nat)
  flags : List (Nat × BitVec 5)
  /-- Lanes that a poisoned sector refused (R62). -/
  poison : BitVec 32
  /-- The leaf it was written through. -/
  leaf : BitVec 64
  /-- The class 2 flit that brings the delta to the parity die, or the acknowledgement back (R14, R45). -/
  ticket : Ticket
  deriving DecidableEq, Repr

/-- A renewal reply on its way to a group's operand-log entry (R48, R212): the line's data, version and lease end, and the
lanes with their IAs. -/
structure Renewal where
  gid : Nat
  slot : Nat
  die : Nat
  ok : Bool
  line : Nat
  bytes : List (BitVec 8)
  version : Nat
  leaseEnd : Nat
  lanes : List LaneAcc
  /-- Lanes whose sector is poisoned, and the line's poisoned sectors (R62). -/
  poison : BitVec 32
  bad : BitVec 4
  /-- The class 1 flit of the reply. -/
  ticket : Ticket
  deriving DecidableEq, Repr

/-- The state a home keeps for a 128-byte line (R45 to R48). -/
structure Line where
  version : Nat
  wclass : Nat
  wclassAt : Nat
  leaseEnd : Nat
  lastWrite : Nat
  deriving DecidableEq, Repr

/-- A line nothing has read or written. -/
def Line.reset : Line := { version := 0, wclass := 0, wclassAt := 0, leaseEnd := 0, lastWrite := 0 }

/-- An armed watch (R236). -/
structure Watch where
  ia : Nat
  ctx : Nat
  bid : Nat
  slot : Nat
  /-- The compute die it was armed from (R89). -/
  die : Nat
  home : Nat
  deriving DecidableEq, Repr

/-- A cell operation on its way to or at its die (R51, R53). -/
inductive CellOp where
  | xadd (wide : Bool) (x : Nat)
  | read (wide : Bool)
  | xclr
  | partial_ (c : BitVec 4160) (nan pinf ninf : Bool)
  deriving DecidableEq, Repr

/-- A request to a cell, with the request tag, the source die and function, the requester and lane of its answer, the group whose
program order it follows, the class 0 flit that brings it, and when it is sent again after a retry reply (R44, R51). -/
structure CellReq where
  tag : Nat
  src : Nat
  fn : Nat
  order : Option Nat
  ticket : Ticket
  retryAt : Option Nat
  reply : Ticket
  cell : Nat
  ctx : Nat
  who : Requester
  lane : Nat
  op : CellOp
  deriving DecidableEq, Repr

/-- A cell operation accepted and not yet answered: an update on its way to the mirror in class 2, or applied there with its acknowledgement on
the way back, or a read that waits for the updates accepted before it, with the value it found (R53). -/
structure MirrorUp where
  req : CellReq
  value : Nat
  applied : Bool
  ticket : Ticket
  deriving DecidableEq, Repr

/-- A heat sample on its way to the control die (R60). -/
structure HeatSample where
  die : Nat
  ctx : Nat
  page : Nat
  ticket : Ticket
  deriving DecidableEq, Repr

/-- An exact-reduction cell (R50). -/
structure Cell where
  c : BitVec 4160
  nan : Bool
  pinf : Bool
  ninf : Bool
  deriving DecidableEq, Repr

/-- A cleared cell. -/
def Cell.zero : Cell := { c := 0, nan := false, pinf := false, ninf := false }

/-- Access types of requests (R110, R112): bit 0 read, 1 write, 2 execute, 3 atomic, 4 copy; for a copy bit 5 says that it
reads and bit 6 that it writes. -/
abbrev Rights := BitVec 7

/-- A unit of a MEMOP that its home has accepted (R54, R55). -/
structure RangeUnit where
  /-- VA of the first byte of the range in the unit, and how many bytes of the range it holds. -/
  va : Nat
  bytes : Nat
  /-- The home that processes it, the IA of its first byte and the leaf it was translated with. -/
  home : Nat
  ia : Nat
  leaf : BitVec 64
  /-- 0 accepted, 1 its source elements are asked for, 2 its updates or its partial are under way. -/
  stage : Nat
  /-- Requests, updates or partials not answered yet, and the flits of the answers that have been sent. -/
  left : Nat
  replies : List Ticket
  /-- Source elements that have been read, by their number, and those whose sector is poisoned (R62). -/
  got : SMap Nat
  bad : List Nat
  /-- An update met a poisoned sector (R62). -/
  poison : Bool
  deriving DecidableEq, Repr

/-- A MEMOP in progress (R54): its operation, types, operands and the units not yet processed. -/
structure Memop where
  id : Nat
  gid : Nat
  bid : Nat
  lane : Nat
  ctx : Nat
  /-- 0 fill, 1 axpy, 2 add, 3 mul, 4 reduce (R402). -/
  kind : Nat
  /-- Element type field of the word. -/
  ty : Nat
  regs : List (BitVec 32)
  slot : Nat
  /-- Units for which no request has been sent, as VAs of their first byte, with the bytes of the range in each; those whose request is on its
  way to their home; and those that their homes have accepted. -/
  units : List (Nat × Nat)
  asked : List (Nat × Nat)
  open_ : List RangeUnit
  /-- Units that met a final fault: unit, cause, reason, IA page and type of access (R117). -/
  fails : List (Nat × Nat × Nat × Nat × Rights)
  /-- Compute die of the issuing group. -/
  src : Nat
  /-- Clause and word of the issuing word, for an attributed fault (R117). -/
  clause : Nat
  word : Nat
  /-- The segments it was issued with (R98). -/
  segs : SMap Segment
  deriving DecidableEq, Repr

/-- The descriptor of a compressed block (R56): its granule numbers. -/
structure ZBlock where
  granules : List Nat
  /-- Granules it no longer needs, freed when its lines leave the slice (R57). -/
  spare : List Nat
  ctx : Nat
  deriving DecidableEq, Repr

/-! ### Translation -/

/-- A waiter of a merge entry (R109). -/
inductive Waiter where
  | group (gid : Nat)
  | copy (core : Nat)
  | memop (die : Nat)
  | host
  /-- The signal box's writes to completion areas (R146). -/
  | box
  deriving DecidableEq, Repr

/-- A merge-table entry of one die for one 4 KiB page (R109). -/
structure Merge where
  waiters : List Waiter
  types : Rights
  overflow : Bool
  ctx : Nat
  /-- Reason given by the home itself (R57, R70): 0 none, else 3 COMPRESS_SPACE or 4 far link. -/
  reason : Nat
  deriving DecidableEq, Repr

/-- A miss record on its way to the control die (R109, R110), with the device time of the miss (R112) and its class 2 flit. -/
structure MissRec where
  die : Nat
  page : Nat
  types : Rights
  waiters : Nat
  ctx : Nat
  reason : Nat
  time : Nat
  ticket : Ticket
  deriving DecidableEq, Repr

/-- A page's entry in the collapse stage (R110). -/
structure Collapse where
  dies : BitVec 18
  waiters : Nat
  overflow : Bool
  types : Rights
  ctx : Nat
  time : Nat
  reason : Nat
  /-- A walk is running or waits for a walker (R107); otherwise the fault record has been written. -/
  walking : Bool
  /-- The class 2 flits of the walk's reads (R14). -/
  reads : List Ticket
  deriving DecidableEq, Repr

/-- A page fault record in the Lanmel fault queue (R112). -/
structure FaultRec where
  ia : Nat
  entry : BitVec 64
  dies : BitVec 18
  waiters : Nat
  overflow : Bool
  access : BitVec 5
  reason : Nat
  level : Nat
  ctx : Nat
  seq : Nat
  time : Nat
  deriving DecidableEq, Repr

/-- A wake or final on its way to a requester of a page at a die (R110, R111). -/
structure Answer where
  die : Nat
  page : Nat
  waiter : Waiter
  /-- None for a wake; for a final, the mask of types and the reason. -/
  final : Option (Rights × Nat)
  /-- The class 1 flit that brings it. -/
  ticket : Ticket
  deriving DecidableEq, Repr

/-- A leaf on its way to a die's translation cache (R106, R107). -/
structure Fill where
  die : Nat
  page : Nat
  leaf : BitVec 64
  ticket : Ticket
  deriving DecidableEq, Repr

/-- An invalidation under way (R108): the dies that its class 2 flits have not reached, those that have dropped the range and still
finish requests translated with it, and the acknowledgements on their way back. -/
structure Inval where
  lo : Nat
  hi : Nat
  todo : List (Nat × Ticket)
  fin : List Nat
  acks : List Ticket
  deriving DecidableEq, Repr

/-- The page migration under way (R120, R121): its page, where it goes, the unit that is to fault, its entry's PA and value, whether
the page is live, its stage (1 W is being withdrawn, 2 units are copied, 3 the new entry is in place, 4 aborted), the next unit, and the
units that read poison with the masks of their sectors. -/
structure Migration where
  page : Nat
  newFrame : Nat
  far : Bool
  abortAt : Option Nat
  entryAt : Nat
  old : BitVec 64
  live : Bool
  stage : Nat
  unit : Nat
  bad : List (Nat × Nat)
  /-- The class 2 flit that carries the next unit (R14). -/
  flit : Option Ticket
  deriving DecidableEq, Repr

/-- Translation and fault gathering (R96 to R123). -/
structure Xlate where
  /-- XROOT: PA of the root table (R100). -/
  xroot : Nat
  /-- Translation caches: (die × 2^40 + 4 KiB IA page) holding the leaf that maps the page; die 17 is the bridge. -/
  tlb : SMap (BitVec 64)
  /-- Merge tables, keyed as the caches (R109). -/
  merge : SMap (Option Merge)
  /-- Miss records in flight to the control die. -/
  missQ : List MissRec
  /-- Miss records refused by a full collapse stage, with the delay and the time of re-sending (R110). -/
  refused : List (MissRec × Nat × Nat)
  /-- Collapse stage, by 4 KiB page, and its refusal count. -/
  collapse : SMap (Option Collapse)
  refusals : Nat
  /-- Fills on their way to a die. -/
  fills : List Fill
  /-- Pending replies on their way: die, page, requester. -/
  pendings : List (Nat × Nat × Waiter)
  /-- Wakes and finals on their way. -/
  answers : List Answer
  /-- The Lanmel fault queue and the number of its next record. -/
  faultQ : List FaultRec
  faultSeq : Nat
  /-- Entry writes that firmware makes before its next answer or invalidation: PA and value (an input). -/
  fwWrites : List (Nat × BitVec 64)
  /-- Invalidations under way, and the migration. -/
  invals : List Inval
  migration : Option Migration
  deriving DecidableEq, Repr

/-- No page table yet: firmware builds it at bring-up. -/
def Xlate.reset : Xlate :=
  { xroot := 0, tlb := [], merge := [], missQ := [], refused := [], collapse := [], refusals := 0, fills := [],
    pendings := [], answers := [], faultQ := [], faultSeq := 0, fwWrites := [],
    invals := [], migration := none }

/-- The memory dies (R41 to R68). -/
structure MemDies where
  /-- Requests sent to homes and not yet accepted, in sending order. -/
  reqs : List Req
  nextTag : Nat
  /-- Retry delay of source die to home, at 17 × source + home; 0 stands for the starting 32 cc (R44). -/
  delay : SMap Nat
  /-- Requesters of instruction fetches and of the signal box that a home has refused, and when each tries again (R44): requester, home, time. -/
  backoff : List (Waiter × Nat × Nat)
  /-- Writes held for leases (R47), oldest first. -/
  held : List HeldWrite
  /-- Lines by IA div 128, as their homes track them. -/
  lines : SMap Line
  /-- Parity deltas on the way to parity dies, and acknowledgements on the way back to homes. -/
  deltas : List Delta
  parityAcks : List Delta
  /-- Far accesses under way on a host link (R73), and renewal replies under way (R48). -/
  uio : List HeldWrite
  renewals : List Renewal
  /-- The parity die that each physical stripe was last written under: the IA stripe mod 17 (R41, R42). -/
  stripeP : SMap Nat
  /-- Tags of deltas applied, with die, time and recorded results (R64). -/
  tags : List (Nat × Nat × Nat × List (Nat × Nat))
  /-- Heat LFSR of each die (R59), samples on the way and HEATDROP (R60). -/
  lfsr : List (BitVec 32)
  heatQ : List HeatSample
  heatDrop : SMap Nat
  /-- Epoch (by context) in which a die last wrote a HEATDROP record, at 128 × die + context. -/
  heatDropAt : SMap Nat
  /-- Poisoned sectors, by place div 32: sectors of the dies' slots, data and parity alike, and far sectors from 2^47 up (R61, R62, R121). -/
  poison : SMap Bool
  /-- The key, by its number plus 1, under which each device sector was last written; 0 for one not written since bring-up (R76). -/
  keyed : SMap Nat
  /-- Failed dies, and the die retired at reset (R63, R65). -/
  failed : BitVec 17
  retired : Option Nat
  /-- Dies whose units became poisoned when a second die failed (R65); sectors of a failed die's slots that could not be rebuilt, at
  8 × stripe + sector of the slot (R61, R63); and the device sectors written whole since. -/
  lost : BitVec 17
  unbuilt : SMap Bool
  cleared : SMap Bool
  /-- Cells by device number (R50); a cell's mirror by the same number; requests and mirror updates under way. -/
  cells : SMap Cell
  mirrors : SMap Cell
  cellReqs : List CellReq
  mirrorQ : List MirrorUp
  /-- Watches armed at homes (R236) and watches that have fired and not yet sent their arrival (R237). -/
  watches : List Watch
  fired : List Watch
  memops : List Memop
  nextMemop : Nat
  /-- Compressed blocks at (physical stripe div 8) × 17 + die; granules in stock per die, next granule number;
  granules taken of the overflow reserve per context and die at 17 × context + die; counters of R58 at 3 × (17 × context + die). -/
  zblocks : SMap (Option ZBlock)
  stock : SMap Nat
  nextGranule : SMap Nat
  reserve : SMap Nat
  zcount : SMap Nat
  /-- COMPRESS_OVERFLOW records owed for writes of the device itself: die, context, granules and unit (R57, R67). -/
  overflows : List (Nat × Nat × Nat × Nat)
  /-- Shadows of checked sectors by place div 32 (R222). -/
  shadow : SMap (BitVec 64)
  /-- Corrected-error count per die (R61). -/
  corrected : SMap Nat
  deriving DecidableEq, Repr

/-- The seed of die d's heat LFSR (R59). -/
def lfsrSeed (d : Nat) : BitVec 32 := BitVec.ofNat 32 ((d + 1) * 0x01010101)

/-- The memory dies at reset. -/
def MemDies.reset : MemDies :=
  { reqs := [], nextTag := 0, delay := [], held := [], lines := [], deltas := [], parityAcks := [], uio := [], renewals := [],
    stripeP := [], tags := [], lfsr := (List.range 17).map lfsrSeed, heatQ := [], heatDrop := [], heatDropAt := [],
    poison := [], keyed := [], failed := 0, retired := none, lost := 0, unbuilt := [], cleared := [], cells := [], mirrors := [], cellReqs := [], mirrorQ := [],
    watches := [], fired := [], memops := [], nextMemop := 0, zblocks := [], stock := [], nextGranule := [],
    reserve := [], zcount := [], overflows := [], backoff := [], shadow := [], corrected := [] }

end Sys2Proof.Machine
end

