-- ==== Sys2Proof/Machine/State.lean ====
section
/-! DEFINITION. Machine/State.lean: the whole state of a Celien 9 module as plain data, the reasons a step can stop,
and the state after reset. -/

namespace Sys2Proof.Machine

/-- Why the machine stops. Both are stuck states the spec gives: only DEVICE_RESET (from the tape) leaves them. -/
inductive Fault where
  /-- Raised by the step when a class C alarm has halted all dies (R94): safe, the spec says that nothing runs. -/
  | alarmHalt
  /-- Raised by the step when the module is off (R40): safe, the spec gives no running part in that state. -/
  | powerOff
  deriving DecidableEq, Repr

/-- Why a step has no meaning here. A refusal never stands for an instruction the spec gives an effect. -/
inductive Refusal where
  /-- An arm of the dispatch that has no meaning yet; safe. -/
  | notModelled (mnemonic : String)
  /-- An instruction word executed with no group issuing it: raised by the words' shared operation; safe, a word
  only ever runs for the entry of a group that issues it (R162). -/
  | noIssuer
  /-- An event that is not pending in this state (nothing of that kind is under way): raised by the events'
  meanings; safe, the step never selects such an event itself. -/
  | notPending (event : String)
  /-- An instruction word on the tape of external and scheduling events: raised by the step; safe, the spec lets no
  agent insert a word. -/
  | notEvent
  deriving DecidableEq, Repr

/-- Memory: the canonical list of (address, byte) pairs of device memory, by place in the dies' slots: byte k of the slot of
die d in stripe t stands at 4,352 t + 256 d + k (R42); an unlisted byte reads 0, since bring-up fills memory with zero
(R86, R95). -/
abbrev Memory := List Host.Cell

/-- The state of the module. -/
structure State where
  /-- Device time base in cc (R46, R47). -/
  now : Nat
  /-- MODEL'S OWN: how many cycles each next time step takes, an input; an empty list means one cycle each. -/
  pace : List Nat
  /-- MODEL'S OWN: what happens next where several things may, an input: 0 the next platform's choice, k the k-th event that is
  due; an empty list means the first event due, else the next platform's choice. -/
  picks : List Nat
  /-- MODEL'S OWN: number of free values taken so far. -/
  free : Nat
  /-- MODEL'S OWN: events that happen next, oldest first (the outside world, firmware, and interleaving choices). -/
  inputs : List Instr
  /-- Entries selected to issue and not yet issued: group key and lowest lane of the entry (R162). -/
  issueQ : List (Nat × Nat)
  /-- The entry whose word is executing: group key and entry index. -/
  cur : Option (Nat × Nat)
  /-- MODEL'S OWN: the core and platform that chooses next, 4 × core + platform. -/
  turn : Nat
  /-- Device memory by place in the dies' slots (R42) and far memory by its own address (R96). -/
  mem : Memory
  far : SMap (BitVec 8)
  md : MemDies
  xl : Xlate
  /-- L1 lines at die × 2^45 + IA div 128 (R209). -/
  l1 : SMap (Option L1Line)
  fab : Fabric
  host : HostSide
  guard : Guardhouse
  box : SignalBox
  cores : SMap Core
  blocks : SMap (Option Block)
  nextBlock : Nat
  /-- Groups at 32 × block key + index in block. -/
  groups : SMap (Option Group)
  /-- Arrival requests under way (R231, R234). -/
  arrivals : List Arrival
  deriving DecidableEq, Repr

/-- The machine right after device reset, before bring-up (R86, R95). DESIGN CHOICE, unsafe: log entry 2; DESIGN CHOICE, unsafe: log entry 6. -/
def State.reset : State :=
  { now := 0, pace := [], picks := [], free := 0, inputs := [], issueQ := [], cur := none, turn := 0, mem := [], far := [],
    md := MemDies.reset, xl := Xlate.reset, l1 := [], fab := Fabric.reset, host := HostSide.reset,
    guard := Guardhouse.reset, box := SignalBox.reset, cores := [], blocks := [], nextBlock := 0, groups := [],
    arrivals := [] }

end Sys2Proof.Machine
end

