-- ==== Sys2Proof/Machine/Mem.lean ====
section
/-! DEFINITION. Machine/Mem.lean: device memory byte by byte, the interleave, segments, page tables and writes performed
at a home, with the compression of blocks (R41, R42, R45, R56, R57, R62, R76, R96 to R105, R237, R327). -/

namespace Sys2Proof.Machine

/-! ### Memory -/

/-- What an unlisted byte of memory reads as: bring-up fills memory with zero (R86, R95). DEDUCED, safe: log entry 5. -/
def Memory.unlisted : BitVec 8 := 0

/-- One byte of memory. -/
def Memory.read (m : Memory) (a : Nat) : BitVec 8 := SMap.get Memory.unlisted m a

/-- Writes one byte of memory. -/
def Memory.write (m : Memory) (a : Nat) (b : BitVec 8) : Memory := SMap.set Memory.unlisted m a b

/-- The canonical form of memory. -/
def Memory.wf (m : Memory) : Bool := SMap.wf Memory.unlisted m

/-- Writes a list of (address, byte) pairs in order. -/
def Memory.writeAll (m : Memory) : List (Nat × BitVec 8) → Memory
  | [] => m
  | (a, b) :: rest => Memory.writeAll (Memory.write m a b) rest

/-- The n bytes from an address, little-endian. -/
def Memory.readN (m : Memory) (a n : Nat) : Nat := ofBytes ((List.range n).map fun i => Memory.read m (a + i))

/-! ### Interleave (R41, R42, R327) -/

def parityDie (ia : Nat) : Nat := ia / 4096 % 17
def homeDie (ia : Nat) : Nat := (parityDie ia + 1 + ia / 256 % 16) % 17

/-- First byte above device memory, 3 × 2^38 (R42). -/
def deviceTop : Nat := 3 * 2 ^ 38

/-- The die that serves a unit: the home, or the parity die of its stripe when the home has failed or been retired
(R63, R65). -/
def State.servingDie (s : State) (ia : Nat) : Nat :=
  if s.md.failed.getLsbD (homeDie ia) || s.md.retired == some (homeDie ia) then parityDie ia else homeDie ia

/-! ### Slots (R42) -/

/-- Where device memory keeps byte k of die d's slot of physical stripe t (R42): the 17 slots of a stripe follow one another. Data units and
parity units lie in slots alike. -/
def slotAt (t d k : Nat) : Nat := 4352 * t + 256 * d + k

/-- Where the byte of an IA whose page lies in physical stripe t stands: in the slot of the die that serves its unit (R41, R42, R63, R65). -/
def State.unitSpot (s : State) (t ia : Nat) : Nat := slotAt t (s.servingDie ia) (ia % 256)

/-- The n bytes of a page table entry at a PA: every page that holds a table level has IA equal to PA (R100). -/
def State.entryAt (s : State) (pa : Nat) : BitVec 64 := BitVec.ofNat 64 (Memory.readN s.mem (s.unitSpot (pa / 4096) pa) 8)

/-! ### Page tables (R100 to R105) -/

/-- The result of a walk: a valid leaf, or where and why it stopped. -/
inductive Walk where
  | leaf (entry : BitVec 64)
  | stop (reason level : Nat) (entry : BitVec 64)
  deriving DecidableEq, Repr

def leafSize (e : BitVec 64) : Nat := bits e.toNat 9 3
/-- log2 of the page size of a size code (R103). -/
def sizeLog (c : Nat) : Nat :=
  match c with
  | 0 => 12 | 1 => 14 | 2 => 16 | 3 => 18 | 4 => 21 | 5 => 24 | 6 => 27 | _ => 30
/-- The level a size code stands at (R103). -/
def sizeLevel (c : Nat) : Nat := if c < 4 then 0 else if c < 7 then 1 else 2
def leafFrame (e : BitVec 64) : Nat := bits e.toNat 12 40 * 4096
def leafKey (e : BitVec 64) : Nat := bits e.toNat 52 6
def leafF (e : BitVec 64) : Bool := e.getLsbD 8
def leafO (e : BitVec 64) : Bool := e.getLsbD 7
def leafZ (e : BitVec 64) : Bool := e.getLsbD 6
def leafC (e : BitVec 64) : Bool := e.getLsbD 5
def leafX (e : BitVec 64) : Bool := e.getLsbD 4
def leafW (e : BitVec 64) : Bool := e.getLsbD 3
def leafR (e : BitVec 64) : Bool := e.getLsbD 2

/-- Whether a valid entry found at a level is malformed (R104). -/
def malformed (level : Nat) (e : BitVec 64) : Bool :=
  if e.getLsbD 1 then bits e.toNat 52 12 != 0 || bits e.toNat 2 10 != 0 || level == 0
  else
    let sz := 2 ^ sizeLog (leafSize e)
    bits e.toNat 58 6 != 0 || level != sizeLevel (leafSize e) || leafFrame e % sz != 0
      || (!leafF e && deviceTop < leafFrame e + sz) || (leafZ e && leafSize e < 2) || (leafF e && (leafC e || leafZ e))

/-- Lowest IA bit that indexes a level (R100). -/
def levelShift (level : Nat) : Nat := 12 + 9 * level

/-- Walks the page table for an IA from a level's table down (R100, R107). An entry with V = 0 at levels 0 to 2 may stand for a leaf or for a
table, which the spec does not tell apart; the model shows it as found there, and 0 at levels 3 and 4, where no leaf may stand (R112).
DESIGN CHOICE, unsafe: log entry 143. -/
def walkFrom (s : State) (ia : Nat) : Nat → Nat → Walk
  | 0, t =>
    let e := s.entryAt (t + 8 * (ia / 2 ^ 12 % 512))
    if e.getLsbD 0 = false then .stop 0 0 e else if malformed 0 e then .stop 2 0 e else .leaf e
  | l + 1, t =>
    let e := s.entryAt (t + 8 * (ia / 2 ^ levelShift (l + 1) % 512))
    if e.getLsbD 0 = false then .stop 0 (l + 1) (if l + 1 ≤ 2 then e else 0)
    else if malformed (l + 1) e then .stop 2 (l + 1) e
    else if e.getLsbD 1 then walkFrom s ia l (bits e.toNat 12 40 * 4096)
    else .leaf e

/-- Walks the table at XROOT; IA bits 51:48 index the root. -/
def State.walk (s : State) (ia : Nat) : Walk := walkFrom s (ia % 2 ^ 52) 4 s.xl.xroot

/-- The access types of R110. -/
def acRead : Rights := 1
def acWrite : Rights := 2
def acExec : Rights := 4
def acAtomic : Rights := 8
def acCopyRead : Rights := 48
def acCopyWrite : Rights := 80
/-- The access types as records show them (R112). -/
def Rights.shown (t : Rights) : BitVec 5 := t.setWidth 5

/-- Whether a leaf permits every type of a set (R105): copy reads stand with read and copy writes with write. -/
def leafPermits (e : BitVec 64) (t : Rights) : Bool :=
  (!t.getLsbD 0 || leafR e) && (!t.getLsbD 1 || leafW e) && (!t.getLsbD 2 || leafX e) && (!t.getLsbD 3 || leafW e)
    && (!t.getLsbD 5 || leafR e) && (!t.getLsbD 6 || leafW e)

/-- The physical address of an IA in a leaf's page. -/
def leafPA (e : BitVec 64) (ia : Nat) : Nat := leafFrame e + ia % 2 ^ sizeLog (leafSize e)

/-- Where the byte of an IA stands under a leaf: in a slot of device memory, or at its far address (R42, R96). -/
def State.place (s : State) (e : BitVec 64) (ia : Nat) : Nat := if leafF e then leafPA e ia else s.unitSpot (leafPA e ia / 4096) ia

/-- Translation as a walk gives it, with no cache: for agents whose pages firmware keeps resident. -/
def State.physical (s : State) (ia : Nat) (t : Rights) : Except Nat (Nat × BitVec 64) :=
  match s.walk ia with
  | .leaf e => if leafPermits e t then .ok (s.place e ia, e) else .error 1
  | .stop r _ _ => .error r

/-! ### Segments (R97 to R99) -/

def Segment.valid (g : Segment) : Bool := g.b.getLsbD 0
def Segment.base (g : Segment) : Nat := bits g.b.toNat 12 44
def Segment.limit (g : Segment) : Nat := bits g.l.toNat 0 44
def Segment.offset (g : Segment) : Nat := bits g.o.toNat 12 40
def Segment.chk (g : Segment) : Bool := g.b.getLsbD 5
def Segment.h (g : Segment) : Bool := g.b.getLsbD 4
/-- Reads, writes and atomics, fetch, and copy reads and writes need R, W, X, R and W (R99). -/
def Segment.allows (g : Segment) (t : Rights) : Bool :=
  (!t.getLsbD 0 || g.b.getLsbD 1) && (!t.getLsbD 1 || g.b.getLsbD 2) && (!t.getLsbD 2 || g.b.getLsbD 3)
    && (!t.getLsbD 3 || g.b.getLsbD 2) && (!t.getLsbD 5 || g.b.getLsbD 1) && (!t.getLsbD 6 || g.b.getLsbD 2)

/-- Whether a VA lies in a segment (R98). -/
def Segment.holds (g : Segment) (va : Nat) : Bool :=
  g.valid && decide (g.base ≤ va / 4096) && decide (va / 4096 ≤ g.base + g.limit)

/-- The IA of a VA in a segment (R98). -/
def Segment.ia (g : Segment) (va : Nat) : Nat := g.offset * 4096 + (va - g.base * 4096)

/-- The segment of a context that holds a VA. -/
def Context.seg (c : Context) (va : Nat) : Option Segment :=
  ((List.range 8).map (SMap.get Segment.reset c.segs)).find? (Segment.holds · va)

/-- The segment check of R96 and R99: the IA and whether the segment checks, or the cause SEGRANGE (0x10) or
SEGPERM (0x11). -/
def Context.translate (c : Context) (va : Nat) (t : Rights) : Except Nat (Nat × Bool) :=
  if 2 ^ 56 ≤ va then .error 0x10
  else match c.seg va with
    | none => .error 0x10
    | some g => if g.allows t then .ok (g.ia va, g.chk) else .error 0x11

/-! ### Writes performed at a home -/

/-- Reads one byte of device memory, by its slot, or of far memory, by its PA. -/
def State.readPhys (s : State) (far : Bool) (a : Nat) : BitVec 8 :=
  if far then SMap.get 0 s.far a else Memory.read s.mem a

def State.readPhysN (s : State) (far : Bool) (a n : Nat) : Nat :=
  ofBytes ((List.range n).map fun i => s.readPhys far (a + i))

/-- Where poison is kept: device sectors below, far sectors above 2^52 (R62, R121). -/
def poisonKey (far : Bool) (a : Nat) : Nat := ((if far then 2 ^ 52 else 0) + a) / 32

/-- The number of the key that a leaf names: that of its function now (R76, R105). -/
def State.leafKeyNo (s : State) (leaf : BitVec 64) : Nat := (SMap.get Func.reset s.host.funcs (leafKey leaf)).key

/-- One byte of device or far memory as a leaf reads it: bytes that were written under another key come out as free values (R76,
R105). R76 has every page encrypted, and the memory dies apply the key; the model keeps the bytes of a far page in clear. DESIGN CHOICE,
unsafe: log entry 144. -/
def State.byteAt (s : State) (leaf : BitVec 64) (a : Nat) : BitVec 8 :=
  if leafF leaf then SMap.get 0 s.far a
  else
    let k := SMap.get 0 s.md.keyed (a / 32)
    if k = 0 ∨ k = s.leafKeyNo leaf + 1 then Memory.read s.mem a
    else Config.scrambled k (s.leafKeyNo leaf) a (Memory.read s.mem a)
def State.bytesAt (s : State) (leaf : BitVec 64) (a n : Nat) : Nat := ofBytes ((List.range n).map fun i => s.byteAt leaf (a + i))

/-- Whether a sector of the unit of an IA was lost with a second memory die, or could not be rebuilt when its die failed, and was not written
whole since (R61, R63, R65). -/
def State.lostAt (s : State) (ia a : Nat) : Bool :=
  (s.md.lost.getLsbD (homeDie ia) ||
      (s.md.failed.getLsbD (homeDie ia) && SMap.get false s.md.unbuilt (8 * (a / 4352) + a / 32 % 8)))
    && !SMap.get false s.md.cleared (a / 32)

/-- Whether the 32-byte sector of a device slot or far address, reached by an IA, is poisoned (R62, R65, R121). -/
def State.poisonedAt (s : State) (far : Bool) (ia a : Nat) : Bool :=
  SMap.get false s.md.poison (poisonKey far a) || (!far && s.lostAt ia a)

/-- The write class of a line at a time: one less for each 4,096 cc without a write (R46). -/
def Line.classAt (l : Line) (now : Nat) : Nat := l.wclass - (now - l.wclassAt) / 4096

/-- A line after one performed write (R45, R46). -/
def Line.wrote (l : Line) (now : Nat) : Line :=
  { l with version := (l.version + 1) % 65536, wclass := min 4 (l.classAt now + 1), wclassAt := now, lastWrite := now }

/-- The bytes of a write that stand: a poisoned sector takes none unless all its 32 bytes are written (R62). `ia0` is the IA of
the place `pa0`. R62 speaks of a store; the model holds the writes of the copy engine, of range operations, of the host and of the device
itself to the same rule. DESIGN CHOICE, unsafe: log entry 145. -/
def State.standing (s : State) (far : Bool) (ia0 pa0 : Nat) (w : List (Nat × BitVec 8)) : List (Nat × BitVec 8) :=
  w.filter fun x => !s.poisonedAt far (ia0 + x.1 - pa0) x.1 || (List.range 32).all fun i => w.any fun y => y.1 == x.1 / 32 * 32 + i

/-- A sector comes under the key of the leaf through which it is written: what another key encrypted stays what this key reads (R76). -/
def State.rekey (s : State) (leaf : BitVec 64) (sec : Nat) : State :=
  let k := s.leafKeyNo leaf + 1
  let old := SMap.get 0 s.md.keyed sec
  if old = k then s
  else
    { s with
      mem := if old = 0 then s.mem else Memory.writeAll s.mem ((List.range 32).map fun i => (32 * sec + i, s.byteAt leaf (32 * sec + i)))
      md := { s.md with keyed := SMap.set 0 s.md.keyed sec k } }

/-- Fires the watches on the words of a list of IAs (R237): the first performed write after the arm disarms them. -/
def State.fireWatches (s : State) (ias : List Nat) : State :=
  let hit (w : Watch) := ias.any fun a => a / 8 == w.ia / 8
  { s with md := { s.md with watches := s.md.watches.filter (fun w => !hit w), fired := s.md.fired ++ s.md.watches.filter hit } }

/-- Performs a write at a home: the bytes that stand are stored under the leaf's key, poison of sectors written whole is cleared, each
128-byte line written takes one version, and watches on the IAs fire. `w` pairs places (slots, or far addresses) of one unit with bytes;
`ia0` is the IA of the place `pa0`. -/
def State.performWrite (s : State) (leaf : BitVec 64) (ia0 pa0 : Nat) (w : List (Nat × BitVec 8)) : State :=
  let far := leafF leaf
  let st := s.standing far ia0 pa0 w
  let lines := (w.map fun x => (ia0 + x.1 - pa0) / 128).eraseDups
  let clear (m : SMap Bool) : SMap Bool := st.foldl (fun m x => SMap.set false m (poisonKey far x.1) false) m
  let s1 : State :=
    if far then { s with
      far := st.foldl (fun m x => SMap.set 0 m x.1 x.2) s.far
      md := { s.md with poison := clear s.md.poison } }
    else
      let k := ((st.map fun x => x.1 / 32).eraseDups).foldl (fun (t : State) sec => t.rekey leaf sec) s
      { k with
        mem := Memory.writeAll k.mem st
        md := { k.md with
          poison := clear s.md.poison
          cleared := if s.md.failed = 0 then s.md.cleared else st.foldl (fun m x => SMap.set false m (x.1 / 32) true) s.md.cleared
          lines := lines.foldl (fun m l => SMap.set Line.reset m l ((SMap.get Line.reset m l).wrote s.now)) s.md.lines } }
  s1.fireWatches ((if far then st else w).map fun x => ia0 + x.1 - pa0)

/-- The changed bytes of a write against memory before it, as (offset in the unit, XOR) for the parity die (R42, R45): those written, and
those of a sector that the write brings under another key (R76). -/
def State.deltaBytes (s : State) (leaf : BitVec 64) (ia0 pa0 : Nat) (w : List (Nat × BitVec 8)) : List (Nat × BitVec 8) :=
  let st := s.standing false ia0 pa0 w
  let secs := (st.map fun x => x.1 / 32).eraseDups
  let k := secs.foldl (fun (t : State) sec => t.rekey leaf sec) s
  let turned := (secs.map fun sec => (List.range 32).filterMap fun i =>
    let d := Memory.read s.mem (32 * sec + i) ^^^ Memory.read k.mem (32 * sec + i)
    if d = 0 then none else some ((32 * sec + i) % 256, d)).flatten
  turned ++ st.map fun x => (x.1 % 256, Memory.read k.mem x.1 ^^^ x.2)

/-- XORs a delta into a stripe's parity unit, in the parity die's slot (R42). -/
def applyParity (m : Memory) (stripe die : Nat) (d : List (Nat × BitVec 8)) : Memory :=
  d.foldl (fun m x => Memory.write m (slotAt stripe die x.1) (Memory.read m (slotAt stripe die x.1) ^^^ x.2)) m

/-- Whether stripes keep parity: after a memory die has failed or been retired, every stripe has its parity unit on that die or uses its
parity slot for that die's unit (R63, R65). -/
def State.keepsParity (s : State) : Bool := s.md.failed == 0 && s.md.retired.isNone

/-! ### Compression (R56 to R58) -/

/-- The bytes that are not zero of a die's slots of eight physical stripes, as (place, byte): data units and parity units alike (R56). -/
def State.blockBytes (s : State) (die block : Nat) : List (Nat × BitVec 8) :=
  ((List.range 8).map fun i => (List.range 256).filterMap fun k =>
    let b := Memory.read s.mem (slotAt (8 * block + i) die k)
    if b = 0 then none else some (256 * i + k, b)).flatten

/-- Granules that a block needs: none for zeros only, else 1 to 4. -/
def State.needs (s : State) (die block : Nat) : Nat :=
  let bs := s.blockBytes die block
  if bs.isEmpty then 0 else min 4 (max 1 (Config.granules bs))

/-- Adds to a counter of R58: 0 compressed, 1 expanded, 2 refused. -/
def countZ (m : SMap Nat) (ctx die i : Nat) (d : Int) : SMap Nat :=
  let k := 3 * (17 * ctx + die) + i
  let n : Nat := SMap.get 0 m k
  SMap.set 0 m k ((n : Int) + d).toNat

/-- Fits a block after a change of its bytes: it takes granules from the context's reserve, or the answer is none when they do not
suffice and it is not forced. Answers how many granules of the reserve it took. The expanded counter of R58 counts blocks that took
reserve granules; the spec does not say whether a block that takes some again counts again: the model adds 1 at every taking. DESIGN CHOICE,
unsafe: log entry 146. -/
def State.fitBlock (s : State) (force : Bool) (ctx die block : Nat) : Option (State × Nat) :=
  let key := 17 * block + die
  let z := (SMap.find? s.md.zblocks key).getD { granules := [], spare := [], ctx := ctx }
  let need := s.needs die block
  let have_ := z.granules.length
  let fromSpare := min (need - have_) z.spare.length
  let more := need - have_ - fromSpare
  let taken := SMap.get 0 s.md.reserve (17 * z.ctx + die)
  if Config.reserveLimit z.ctx die < taken + more && !force then none
  else
    let next := SMap.get 0 s.md.nextGranule die
    let z1 : ZBlock :=
      if have_ ≤ need then
        { z with granules := z.granules ++ z.spare.take fromSpare ++ (List.range more).map (next + ·),
                 spare := z.spare.drop fromSpare }
      else { z with granules := z.granules.take need, spare := z.spare ++ z.granules.drop need }
    let small (n : Nat) : Int := if 1 ≤ n && n ≤ 3 then 1 else 0
    let md := { s.md with
      zblocks := if z1.granules = [] && z1.spare = [] then SMap.del s.md.zblocks key else SMap.put s.md.zblocks key z1
      reserve := SMap.set 0 s.md.reserve (17 * z.ctx + die) (taken + more)
      nextGranule := SMap.set 0 s.md.nextGranule die (next + more)
      zcount := countZ (countZ s.md.zcount z.ctx die 0 (small need - small have_)) z.ctx die 1 (if more = 0 then 0 else 1) }
    some ({ s with md := md }, more)

/-- The block of a place of device memory, and its die (R56). -/
def blockOf (a : Nat) : Nat := a / 34816
def dieOfPlace (a : Nat) : Nat := a % 4352 / 256

/-- The request that stands for a write of the device itself: nobody waits for its answer. -/
def deviceReq (ctx ia : Nat) (bytes : List (BitVec 8)) : Req :=
  { tag := 0, src := 99, ctx := ctx, fn := 0, who := .pref 99, kind := .store, signed := false, width := 1,
    lanes := bytes.zipIdx.map fun b => { lane := 0, va := 0, ia := ia + b.2, data := b.1.toNat, data2 := 0 },
    od := 0, phase := 0, rgid := 0, spec := false, version := 0,
    slot := 0, bid := 0, lease := false, alloc := false, ticket := Ticket.here, waiting := none, retryAt := none, reply := Ticket.here }

/-- The lines a write touches, by IA. -/
def Req.ilines (r : Req) : List Nat := (r.lanes.map fun a => a.ia / 128).eraseDups

/-- Whether some write to a line, named by its IA, is held (R47). -/
def State.lineHeld (s : State) (iline : Nat) : Bool := s.md.held.any fun h => h.req.lanes.any fun l => l.ia / 128 == iline

/-- Whether a line's writes may proceed now (R45, R47): leases ended 4 cc ago and no write within 4 cc. -/
def State.lineFree (s : State) (iline : Nat) : Bool :=
  let l := SMap.get Line.reset s.md.lines iline
  decide (l.leaseEnd + 4 ≤ s.now ∨ l.leaseEnd = 0) && decide (l.version = 0 ∧ l.lastWrite = 0 ∨ l.lastWrite + 4 ≤ s.now)

/-- Whether a write to lines may be performed now: they are free and no earlier write to them is held. -/
def State.writable (s : State) (ilines : List Nat) : Bool := ilines.all fun p => s.lineFree p && !s.lineHeld p

/-- A write of the device itself is performed at its home; its parity delta follows those of earlier writes. None when a compressed block has
no room for it (R57); the record of granules it takes is owed. -/
def State.writeNow (s : State) (ctx ia pa : Nat) (leaf : BitVec 64) (bytes : List (BitVec 8)) : Option State :=
  let w := (List.range bytes.length).map fun i => (pa + i, bytes.getD i 0)
  let s1 := s.performWrite leaf ia pa w
  if leafF leaf then some s1
  else
    let dl : Delta := { tag := s1.md.nextTag, home := s.servingDie ia, pdie := parityDie ia, stripe := pa / 4352,
                        bytes := s.deltaBytes leaf ia pa w, req := deviceReq ctx ia [], results := [], flags := [], poison := 0, leaf := leaf,
                        ticket := Ticket.here }
    let s2 := if s.keepsParity then { s1 with md := { s1.md with
        nextTag := s1.md.nextTag + 1, deltas := s1.md.deltas ++ [dl]
        stripeP := SMap.set 0 s1.md.stripeP (pa / 4352) (parityDie ia) } }
      else s1
    if leafZ leaf then
      (s2.fitBlock false ctx (dieOfPlace pa) (blockOf pa)).map fun p =>
        if p.2 = 0 then p.1
        else { p.1 with md := { p.1.md with overflows := p.1.md.overflows ++ [(dieOfPlace pa, ctx, p.2, ia / 256 * 256)] } }
    else some s2

/-- A write by the device itself (trap records, save areas, completion areas, logs) reaches its home: performed at once when the leases of
its lines have ended and no write to them is held or just done, else held like any write (R45, R47). None when a compressed block has no
room (R57). -/
def State.deviceWrite? (s : State) (ctx ia pa : Nat) (leaf : BitVec 64) (bytes : List (BitVec 8)) : Option State :=
  let r := deviceReq ctx ia bytes
  if leafF leaf || s.writable r.ilines then s.writeNow ctx ia pa leaf bytes
  else some { s with md := { s.md with held := s.md.held ++ [{ req := { r with tag := s.md.nextTag }, pa := pa, leaf := leaf }]
                                       nextTag := s.md.nextTag + 1 } }
def State.deviceWrite (s : State) (ctx ia pa : Nat) (leaf : BitVec 64) (bytes : List (BitVec 8)) : State :=
  (s.deviceWrite? ctx ia pa leaf bytes).getD s

/-- A write of firmware to a table or to a page that no program reaches: firmware goes on once it stands. -/
def State.firmwareWrite (s : State) (ctx ia pa : Nat) (leaf : BitVec 64) (bytes : List (BitVec 8)) : State :=
  (s.writeNow ctx ia pa leaf bytes).getD s

/-- A byte as the device itself reads it: what its own last write to it, if its home still holds it, will leave (R45, R47), else what stands. -/
def State.ownByte (s : State) (leaf : BitVec 64) (ia pa : Nat) : BitVec 8 :=
  match ((s.md.held.filter fun h => h.req.src == 99).reverse.findSome? fun h => h.req.lanes.find? fun l => l.ia == ia) with
  | some l => BitVec.ofNat 8 l.data
  | none => s.byteAt leaf pa

/-- Splits a run of bytes at 256-byte units of its address: (address, bytes) pieces. -/
def unitPieces : Nat → Nat → List (BitVec 8) → List (Nat × List (BitVec 8))
  | 0, _, _ => []
  | _, _, [] => []
  | fuel + 1, a, bs =>
    let n := 256 - a % 256
    (a, bs.take n) :: unitPieces fuel (a + n) (bs.drop n)

/-- A context by number. -/
def State.ctx? (s : State) (c : Nat) : Option Context := SMap.find? s.host.ctxs c

/-- Writes bytes at a VA of a context for the device itself; none when a piece cannot be written (its cause). DEDUCED, unsafe: log entry 28. -/
def State.ctxWrite (s : State) (c : Nat) (va : Nat) (bytes : List (BitVec 8)) : Except Nat State :=
  match s.ctx? c with
  | none => .error 0x10
  | some cx =>
    (unitPieces (bytes.length / 256 + 2) va bytes).foldl (fun r p =>
      match r with
      | .error e => .error e
      | .ok s1 =>
        match cx.translate p.1 acWrite with
        | .error e => .error e
        | .ok (ia, _) =>
          match s1.physical ia acWrite with
          | .error _ => .error 0x12
          | .ok (pa, leaf) =>
            if (List.range p.2.length).any (fun i => s1.poisonedAt (leafF leaf) (ia + i) (pa + i)) && p.2.length % 32 != 0 then
              .error 0x13
            else match s1.deviceWrite? c ia pa leaf p.2 with
              | some s2 => .ok s2
              | none => .error 0x14) (.ok s)

/-- The (address, length) runs of a range cut at 256-byte units. -/
def unitRuns : Nat → Nat → Nat → List (Nat × Nat)
  | 0, _, _ => []
  | _, _, 0 => []
  | fuel + 1, a, n =>
    let k := min n (256 - a % 256)
    (a, k) :: unitRuns fuel (a + k) (n - k)

/-- Reads n bytes at a VA of a context for the device itself. -/
def State.ctxRead (s : State) (c : Nat) (va n : Nat) (t : Rights) : Except Nat (List (BitVec 8)) :=
  match s.ctx? c with
  | none => .error 0x10
  | some cx =>
    (unitRuns (n / 256 + 2) va n).foldl (fun r p =>
      match r with
      | .error e => .error e
      | .ok bs =>
        match cx.translate p.1 t with
        | .error e => .error e
        | .ok (ia, _) =>
          match s.physical ia t with
          | .error _ => .error 0x12
          | .ok (pa, leaf) => .ok (bs ++ (List.range p.2).map fun i => s.ownByte leaf (ia + i) (pa + i))) (.ok [])

end Sys2Proof.Machine
end

