-- ==== Sys2Proof/Machine/Logs.lean ====
section
/-! DEFINITION. Machine/Logs.lean: MSI-X vectors, event logs and their records, and the logbook (R36, R37, R66, R67, R77, R84,
R85, R122, R283 to R287). -/

namespace Sys2Proof.Machine

/-! ### Functions and contexts -/

def State.func (s : State) (f : Nat) : Func := SMap.get Func.reset s.host.funcs f
def State.setFunc (s : State) (f : Nat) (x : Func) : State :=
  { s with host := { s.host with funcs := SMap.set Func.reset s.host.funcs f x } }
def State.modFunc (s : State) (f : Nat) (k : Func → Func) : State := s.setFunc f (k (s.func f))
def State.setCtx (s : State) (c : Nat) (x : Context) : State :=
  { s with host := { s.host with ctxs := SMap.put s.host.ctxs c x } }
def State.modCtx (s : State) (c : Nat) (k : Context → Context) : State :=
  { s with host := { s.host with ctxs := SMap.modify s.host.ctxs c k } }

/-- The segment of a function's host view that holds a VA, with its context (R98). -/
def State.hostSeg (s : State) (f va : Nat) : Option (Nat × Segment) :=
  (SMap.entries s.host.ctxs).findSome? fun c =>
    if c.2.fn = f then
      (((List.range 8).map (SMap.get Segment.reset c.2.segs)).find? fun g => g.h && g.holds va).map fun g => (c.1, g)
    else none

/-- The segment through which the control die reaches a VA of a function's memory: the named context's own, else one of the
host's view, else any of the function's contexts (R84, R283). DEDUCED, unsafe: log entry 105. -/
def State.areaSeg (s : State) (f : Nat) (c : Option Nat) (va : Nat) : Option Segment :=
  ((c.bind s.ctx?).bind fun (x : Context) => x.seg va).or (((s.hostSeg f va).map (·.2)).or
    ((SMap.entries s.host.ctxs).findSome? fun x => if x.2.fn = f then x.2.seg va else none))

/-- Reads n bytes of a function's memory for the control die; a byte that is not mapped reads as none. -/
def State.funcRead (s : State) (f : Nat) (c : Option Nat) (va n : Nat) : Option (List (BitVec 8)) :=
  (unitRuns (n / 256 + 2) va n).foldl (fun (r : Option (List (BitVec 8))) p =>
    match r, s.areaSeg f c p.1 with
    | some bs, some g =>
      (match s.physical (g.ia p.1) 0 with
       | .ok (pa, leaf) => some (bs ++ (List.range p.2).map fun i => s.ownByte leaf (g.ia p.1 + i) (pa + i))
       | .error _ => none)
    | _, _ => none) (some [])

/-- Writes bytes of a function's memory for the control die; bytes that are not mapped are lost. -/
def State.funcWrite (s : State) (f : Nat) (c : Option Nat) (va : Nat) (bytes : List (BitVec 8)) : State :=
  (unitPieces (bytes.length / 256 + 2) va bytes).foldl (fun t p =>
    match t.areaSeg f c p.1 with
    | some g =>
      (match t.physical (g.ia p.1) 0 with
       | .ok (pa, leaf) => t.deviceWrite (c.getD 0) (g.ia p.1) pa leaf p.2
       | .error _ => t)
    | none => t) s

/-! ### Vectors (R37, R77) -/

/-- Raises an MSI-X vector: while masked it stands as a pending bit; from step 1 of the function's reset on nothing is sent
(R77, R87). -/
def State.raiseVector (s : State) (f v : Nat) : State :=
  let x := s.func f
  if x.flr != 0 then s
  else if SMap.get false x.masked v then s.setFunc f { x with pending := SMap.set false x.pending v true }
  else { s with host := { s.host with msix := s.host.msix ++ [(f, v)] } }

/-- 10 µs in cc. -/
def tenMicro : Nat := 20000

/-- Raises an event-log vector under the burst rule of R37. -/
def State.raiseEvent (s : State) (f v : Nat) : State :=
  let x := s.func f
  let at_ := SMap.get 0 x.raisedAt v
  if at_ = 0 || at_ - 1 + tenMicro ≤ s.now then
    (s.setFunc f { x with raisedAt := SMap.set 0 x.raisedAt v (s.now + 1) }).raiseVector f v
  else s.setFunc f { x with holdoff := SMap.set false x.holdoff v true }

/-- EVENT_VECTOR_HOLDOFF_EXPIRY (R37). -/
def execEventVectorHoldoffExpiry (fn vec : Nat) (s : State) : Host.Outcome State Fault Refusal :=
  let x := s.func fn
  if SMap.get false x.holdoff vec && SMap.get 0 x.raisedAt vec - 1 + tenMicro ≤ s.now then
    .next ((s.setFunc fn { x with holdoff := SMap.set false x.holdoff vec false
                                  raisedAt := SMap.set 0 x.raisedAt vec (s.now + 1) }).raiseVector fn vec)
  else .refused (.notPending "EVENT_VECTOR_HOLDOFF_EXPIRY")

/-- A vector's mask bit takes a value; a pending vector is sent when it is unmasked (R77). -/
def State.maskVector (s : State) (fn vec : Nat) (masked : Bool) : State :=
  let x := s.func fn
  let x1 := { x with masked := SMap.set false x.masked vec masked }
  if !masked && SMap.get false x.pending vec then
    (s.setFunc fn { x1 with pending := SMap.set false x1.pending vec false }).raiseVector fn vec
  else s.setFunc fn x1

/-- MSIX_TABLE_WRITE (R74, R75, R77): the host masks or unmasks a vector, over link 0 (R70); a pending one is sent when it is unmasked. A
write beyond the table is discarded. -/
def execMsixTableWrite (fn vec : Nat) (masked : Bool) (s : State) : Host.Outcome State Fault Refusal :=
  if !s.host.link0 then .refused (.notPending "MSIX_TABLE_WRITE")
  else if msixEntries fn ≤ vec then .next s
  else .next (s.maskVector fn vec masked)

/-- First byte of the pending-bit array in BAR2/3. -/
def pbaOffset : Nat := 0x8000

/-- A byte of BAR2/3: the MSI-X table, with 16 bytes an entry whose byte 12 holds the mask bit, the pending-bit array, and zero elsewhere
(R74, R75). The layout is PCI Express's own, the place of the array the model's. PRESUMED, unsafe: log entry 139. -/
def Func.tableByte (x : Func) (fn a : Nat) : BitVec 8 :=
  let b := SMap.get 0 x.table a
  let bitOf (m : SMap Bool) (v i : Nat) : BitVec 8 := if SMap.get false m v then BitVec.ofNat 8 (2 ^ i) else 0
  if a / 16 < msixEntries fn then (if a % 16 = 12 then (b &&& 0xFE) ||| bitOf x.masked (a / 16) 0 else b)
  else if pbaOffset ≤ a ∧ 8 * (a - pbaOffset) < msixEntries fn then
    (List.range 8).foldl (fun y i => y ||| bitOf x.pending (8 * (a - pbaOffset) + i) i) 0
  else 0
def State.tableRead (s : State) (fn a n : Nat) : List (BitVec 8) := (List.range n).map fun k => (s.func fn).tableByte fn (a + k)

/-- A write to BAR2/3: bytes of the table stand, and a mask bit acts; the pending bits are read only. -/
def State.tableWrite (s : State) (fn a : Nat) (bytes : List (BitVec 8)) : State :=
  (bytes.zipIdx.filter fun x => decide ((a + x.2) / 16 < msixEntries fn)).foldl (fun t x =>
    let k := a + x.2
    let u := t.modFunc fn fun f => { f with table := SMap.set 0 f.table k (if k % 16 = 12 then x.1 &&& 0xFE else x.1) }
    if k % 16 = 12 then u.maskVector fn (k / 16) (x.1.getLsbD 0) else u) s

/-! ### The management queue's memory (R81) -/

/-- Size of the ring with its producer and consumer words. -/
def ringSize : Nat := 0x4010
def HostSide.ringRead (h : HostSide) (a n : Nat) : List (BitVec 8) := (List.range n).map fun k => SMap.get 0 h.ring (a + k)
def HostSide.ringWrite (h : HostSide) (a : Nat) (bytes : List (BitVec 8)) : HostSide :=
  { h with ring := bytes.zipIdx.foldl (fun m x => SMap.set 0 m (a + x.2) x.1) h.ring }
/-- The producer word: the entries that the host has placed since bring-up. DESIGN CHOICE, unsafe: log entry 138. -/
def HostSide.produced (h : HostSide) : Nat := ofBytes (h.ringRead 0x4000 8)
/-- Where the entry lies that firmware takes next. -/
def HostSide.slot (h : HostSide) : Nat := 64 * (h.consumer % 256)
/-- The entry that firmware takes next, when the producer word is ahead. -/
def HostSide.nextEntry (h : HostSide) : Option (List (BitVec 8)) :=
  if h.consumer < h.produced then some (h.ringRead h.slot 64) else none
/-- An access lies in the queue: through the PF's BAR0 window, over its first bytes. -/
def onRing (r : HostReq) (n : Nat) : Bool := r.fn == 0 && !r.cxl && r.bar == 0 && decide (r.va + n ≤ ringSize)
/-- Stands for a context among a function's posted writes where the write lies in the management queue. -/
def ringCtx : Nat := 128

/-! ### Event logs (R84) -/

/-- A 32-byte record in the form of R66 and R85. -/
def eventBytes (type sev b3 ctx cnt extra ia now rseq : Nat) : List (BitVec 8) :=
  toBytes 2 type ++ toBytes 1 sev ++ toBytes 1 b3 ++ toBytes 4 rseq ++ toBytes 8 now ++ toBytes 2 ctx ++ toBytes 2 cnt
    ++ toBytes 4 extra ++ toBytes 8 ia

/-- Takes the next rseq. -/
def State.nextRseq (s : State) : State × Nat :=
  ({ s with host := { s.host with rseq := (s.host.rseq + 1) % 2 ^ 32 } }, s.host.rseq)

/-- The consumer index that the host wrote before the ring. -/
def State.logCons (s : State) (f : Nat) : Nat :=
  ofBytes ((s.funcRead f none ((s.func f).logBase - 16) 8).getD [])

/-- Whether a function's ring has a free slot. -/
def State.logRoom (s : State) (f : Nat) : Bool :=
  let x := s.func f
  decide ((x.logProd + 2 ^ 64 - s.logCons f) % 2 ^ 64 < 2 ^ x.logN)

/-- Puts record bytes into the ring and advances the producer index. -/
def State.logPut (s : State) (f : Nat) (bytes : List (BitVec 8)) : State :=
  let x := s.func f
  let s1 := s.funcWrite f none (x.logBase + 32 * (x.logProd % 2 ^ x.logN)) bytes
  let s2 := s1.funcWrite f none (x.logBase - 8) (toBytes 8 (x.logProd + 1))
  s2.modFunc f fun y => { y with logProd := (y.logProd + 1) % 2 ^ 64 }

/-- Writes LOGLOST when records were dropped and a slot is free (R84). -/
def State.logLost (s : State) (f : Nat) : State :=
  let x := s.func f
  if x.logBase = 0 || x.dropped = 0 || !s.logRoom f then s
  else
    let r := s.nextRseq
    (r.1.logPut f (eventBytes 0x0406 1 f 0xFFFF x.dropped 0 0 s.now r.2)).modFunc f fun y => { y with dropped := 0 }

/-- EVENT_LOG_RECORD (R84): a record of a function's log, written or dropped and counted. DEDUCED, unsafe: log entry 35. -/
def State.logWrite (s : State) (f : Nat) (mk : Nat → List (BitVec 8)) : State × Bool :=
  let s1 := s.logLost f
  let r := s1.nextRseq
  let x := r.1.func f
  if x.logBase = 0 then (r.1, false)
  else if r.1.logRoom f then (r.1.logPut f (mk r.2), true)
  else (r.1.setFunc f { x with dropped := x.dropped + 1 }, false)

/-- A record and, when it is written, its vector (R84). -/
def State.logRecord (s : State) (f vec : Nat) (mk : Nat → List (BitVec 8)) : State :=
  let r := s.logWrite f mk
  if r.2 then r.1.raiseEvent f vec else r.1

/-- A record whose vector is raised though it may not be written: the rule names the interrupt by itself (R63, R89, R94). -/
def State.logAndRaise (s : State) (f vec : Nat) (mk : Nat → List (BitVec 8)) : State := (s.logWrite f mk).1.raiseEvent f vec

/-- LOGLOST (R84): as soon as one slot is free. The spec names no vector for it: the model raises vector 0. DESIGN CHOICE, unsafe: log
entry 126. -/
def execLoglost (fn : Nat) (s : State) : Host.Outcome State Fault Refusal :=
  let x := s.func fn
  if x.logBase = 0 || x.dropped = 0 || !s.logRoom fn then .refused (.notPending "LOGLOST")
  else .next ((s.logLost fn).raiseEvent fn 0)

/-- A memory event record (R66, R67): PF log, vector 2. -/
def State.memRecord (s : State) (type sev die ctx cnt ia : Nat) : State :=
  s.logRecord 0 2 (eventBytes type sev die ctx cnt 0 ia s.now)

/-- A record of R85 for a function's log, with the vector it raises. -/
def State.funcRecord (s : State) (f vec type sev b3 ctx cnt extra : Nat) : State :=
  s.logRecord f vec (eventBytes type sev b3 ctx cnt extra 0 s.now)

/-- A fabric event record (R36, R37): PF log, vector 1. -/
def State.fabRecord (s : State) (type sev laser src dst before after mode via replayed : Nat) : State :=
  s.logRecord 0 1 fun rseq =>
    toBytes 2 type ++ toBytes 1 sev ++ toBytes 1 laser ++ toBytes 4 rseq ++ toBytes 8 s.now ++ toBytes 1 src
      ++ toBytes 1 dst ++ toBytes 2 before ++ toBytes 2 after ++ toBytes 1 mode ++ toBytes 1 via ++ toBytes 4 replayed
      ++ toBytes 4 0

/-! ### The logbook (R283 to R287) -/

/-- Bytes 4 to 15 and 32 to 47 of a record of a block: its coordinates, group, core, bound names and phases (R286). -/
def State.lbWhere (s : State) (b : Block) (core grp : Nat) : List (BitVec 8) × List (BitVec 8) :=
  let bound (i : Nat) : Nat := if (SMap.find? b.slots i).isSome then 2 ^ i else 0
  (toBytes 4 b.x ++ toBytes 2 b.y ++ toBytes 2 b.z ++ toBytes 1 grp ++ toBytes 1 (SMap.get core s.box.vmap core)
    ++ toBytes 1 ((List.range 8).map bound).sum ++ toBytes 1 0,
   ((List.range 8).map fun i => toBytes 2 (((SMap.find? b.slots i).map (·.phase)).getD 0)).flatten)

/-- LOGBOOK_RECORD (R285): written in full before prod advances, or dropped and counted when the ring is full. -/
def State.lbPut (s : State) (c : Nat) (cx : Context) (bytes : List (BitVec 8)) : State :=
  if cx.lbBase = 0 then s
  else
    let cons := ofBytes ((s.funcRead cx.fn (some c) (cx.lbBase + 8) 8).getD [])
    if 2 ^ cx.lbN < (cx.lbProd + 1 + 2 ^ 64 - cons) % 2 ^ 64 then
      let lost := ofBytes ((s.funcRead cx.fn (some c) (cx.lbBase + 32) 8).getD [])
      s.funcWrite cx.fn (some c) (cx.lbBase + 32) (toBytes 8 (lost + 1))
    else
      let s1 := s.funcWrite cx.fn (some c) (cx.lbBase + 4096 + 64 * (cx.lbProd % 2 ^ cx.lbN)) bytes
      (s1.funcWrite cx.fn (some c) cx.lbBase (toBytes 8 (cx.lbProd + 1))).modCtx c fun y =>
        { y with lbProd := (y.lbProd + 1) % 2 ^ 64 }

/-- A logbook record of a block (R286, R287): AUTO governs kinds from 0x10 up, SMP governs SAMPLE. DEDUCED, unsafe: log entry 35. -/
def State.logbook (s : State) (b : Block) (core kind aux grp : Nat) (pc : Nat) (data : List (BitVec 8)) : State :=
  match s.ctx? b.ctx with
  | none => s
  | some cx =>
    if (0x10 ≤ kind && !cx.lbFlags.getLsbD 2) || (kind == 3 && !cx.lbFlags.getLsbD 0) then s
    else
      let w := s.lbWhere b core grp
      s.lbPut b.ctx cx (toBytes 2 kind ++ toBytes 2 aux ++ w.1 ++ toBytes 8 s.now ++ toBytes 8 pc ++ w.2
        ++ (data ++ List.replicate 16 0).take 16)

/-- A record of a block that names no group. -/
def State.blockLog (s : State) (b : Block) (kind aux : Nat) (data : List (BitVec 8)) : State :=
  s.logbook b b.core kind aux 0xFF 0 data

/-- The settings of an area as the control die reads them (R284): a value outside its limits reads as 0. -/
def State.lbRead (s : State) (c : Nat) : State :=
  match s.ctx? c with
  | none => s
  | some cx =>
    if cx.lbBase = 0 then s.setCtx c { cx with lbFlags := 0, ibase := 0, jbits := 0, bins := [] }
    else
      let word (o n : Nat) : Nat := ofBytes ((s.funcRead cx.fn (some c) (cx.lbBase + o) n).getD [])
      let fl := word 20 4
      let ib := word 24 4
      let jb := word 28 1
      let okI := 64 ≤ ib && ib ≤ 2 ^ 20
      s.setCtx c { cx with
        lbFlags := (if fl < 8 then BitVec.ofNat 3 fl else 0) &&& (if okI then 7 else 6)
        ibase := if okI then ib else 0
        jbits := if jb ≤ 15 then jb else 0
        bins := (List.range 16).map fun i => (word (64 + 16 * i) 8, word (72 + 16 * i) 8) }

/-- LOGBOOK_CONFIG_READ (R284). DESIGN CHOICE, safe: log entry 111. -/
def execLogbookConfigRead (ctx : Nat) (s : State) : Host.Outcome State Fault Refusal :=
  if (s.ctx? ctx).isNone then .refused (.notPending "LOGBOOK_CONFIG_READ") else .next (s.lbRead ctx)

end Sys2Proof.Machine
end

