-- ==== Sys2Proof/Decode.lean ====
section
/-! DEFINITION. Decode.lean: instruction words, clause headers and management entries from bits, total and rejecting by
name (R300 to R316, the instruction chapters, R81 to R83), and then the encoder written from the same tables. -/

namespace Sys2Proof

/-! ### The fields of a word -/

/-- The fields of an instruction word as the A format cuts it (R305, R311): every other format is a finer or coarser
cut of `d`, `a`, `b` and `c`, 12 bits each. -/
structure Fields where
  major : Nat
  pn : Bool
  pg : Nat
  ty : Nat
  d : Nat
  a : Nat
  b : Nat
  c : Nat
  deriving DecidableEq, Repr

/-- Cuts a 64-bit word into its fields. -/
def unpack (w : Nat) : Fields :=
  { major := w / 2 ^ 56 % 256, pn := w / 2 ^ 55 % 2 == 1, pg := w / 2 ^ 51 % 16, ty := w / 2 ^ 48 % 8,
    d := w / 2 ^ 36 % 4096, a := w / 2 ^ 24 % 4096, b := w / 2 ^ 12 % 4096, c := w % 4096 }

/-- Puts the fields of a word together. -/
def pack (f : Fields) : Nat :=
  f.major * 2 ^ 56 + (if f.pn then 2 ^ 55 else 0) + f.pg * 2 ^ 51 + f.ty * 2 ^ 48 + f.d * 2 ^ 36 + f.a * 2 ^ 24
    + f.b * 2 ^ 12 + f.c

/-- Every field lies within its width. -/
def Fields.ok (f : Fields) : Bool :=
  decide (f.major < 256) && decide (f.pg < 16) && decide (f.ty < 8) && decide (f.d < 4096) && decide (f.a < 4096)
    && decide (f.b < 4096) && decide (f.c < 4096)

/-- The guard of a word (R305). -/
def Fields.g (f : Fields) : Guard := { pn := f.pn, pg := f.pg }

/-- The 24-bit immediate of the I format, signed (R311). -/
def Fields.imm24 (f : Fields) : Int :=
  if f.b < 2048 then ((f.b * 4096 + f.c : Nat) : Int) else ((f.b * 4096 + f.c : Nat) : Int) - 16777216

/-- The 21-bit immediate of ICMP_IMM, signed (R342). -/
def Fields.imm21 (f : Fields) : Int :=
  if f.b % 512 < 256 then ((f.b % 512 * 4096 + f.c : Nat) : Int) else ((f.b % 512 * 4096 + f.c : Nat) : Int) - 2097152

/-- Format M (R311). -/
def Fields.sp (f : Fields) : Nat := f.b / 256
def Fields.od (f : Fields) : Nat := f.b / 16 % 16
def Fields.off16 (f : Fields) : Int :=
  if f.b % 16 < 8 then ((f.b % 16 * 4096 + f.c : Nat) : Int) else ((f.b % 16 * 4096 + f.c : Nat) : Int) - 65536

/-- Format B (R311): displacement, hint and OS. -/
def Fields.disp (f : Fields) : Int :=
  if f.d < 2048 then ((f.d * 1048576 + f.a * 256 + f.b / 16 : Nat) : Int)
  else ((f.d * 1048576 + f.a * 256 + f.b / 16 : Nat) : Int) - 4294967296
def Fields.hint (f : Fields) : Nat := f.b % 16

/-- Format L (R311). -/
def Fields.md (f : Fields) : Nat := f.a / 256
def Fields.imm32 (f : Fields) : Nat := f.a % 256 * 16777216 + f.b * 4096 + f.c

/-- Format X (R311). -/
def Fields.tile (f : Fields) : Nat := f.d / 64
def Fields.ver (f : Fields) : Nat := f.d % 64 * 4 + f.a / 1024
def Fields.reuse (f : Fields) : Nat := f.a / 512 % 2
def Fields.asrc (f : Fields) : Nat := f.a / 256 % 2
def Fields.aos (f : Fields) : Nat := f.a % 256 * 16 + f.b / 256
def Fields.map (f : Fields) : Nat := f.b % 256 * 4 + f.c / 1024
def Fields.mode2 (f : Fields) : Nat := f.c / 256 % 4
def Fields.slot (f : Fields) : Nat := f.c % 256
/-- ARD and AWR (R414): first column, run length less 1 and the low seven bits. -/
def Fields.c0 (f : Fields) : Nat := f.b % 256 * 2 + f.c / 2048
def Fields.n1 (f : Fields) : Nat := f.c / 128 % 16
def Fields.low7 (f : Fields) : Nat := f.c % 128

/-- Format K (R311). -/
def Fields.kd (f : Fields) : Nat := f.d / 512
def Fields.ka (f : Fields) : Nat := f.d / 64 % 8
def Fields.kb (f : Fields) : Nat := f.d / 8 % 8
def Fields.kc (f : Fields) : Nat := f.d % 8
def Fields.fn (f : Fields) : Nat := f.a / 256
def Fields.fp (f : Fields) : Nat := f.b / 16 % 16
/-- Bits 15:0, zero in the K format and auxiliary in the C format. -/
def Fields.low16 (f : Fields) : Nat := f.b % 16 * 4096 + f.c

/-- Format C (R311). -/
def Fields.cslot (f : Fields) : Nat := f.a / 16
def Fields.cmask (f : Fields) : Nat := f.a % 16 * 16 + f.b / 256
def Fields.cmode (f : Fields) : Nat := f.b / 16 % 16

/-! ### Operand specifiers and type tables -/

/-- An operand specifier read as a source (R308); none for the values R308 and R310 reserve. -/
def parseSrc (f : Nat) : Option Src :=
  if f / 1024 = 0 then (if f / 256 % 4 = 0 then some (.v (f % 256)) else none)
  else if f / 1024 = 1 then some (.s (f % 1024))
  else if f / 1024 = 2 then some (.idx (f / 256 % 4) (f % 256))
  else if f / 1024 = 3 then
    if f / 512 % 2 = 0 then some (.imm (if f % 512 < 256 then ((f % 512 : Nat) : Int) else ((f % 512 : Nat) : Int) - 512))
    else if f / 32 % 16 = 0 ∧ f % 32 ≤ 13 then some (.spec (f % 32)) else none
  else none

/-- An operand specifier read as a destination (R309). -/
def parseDst (f : Nat) : Option Dst :=
  match parseSrc f with
  | some (.v n) => some (.v n)
  | some (.s n) => some (.s n)
  | some (.idx k o) => some (.idx k o)
  | _ => none

/-- A destination of kind v or indexed. -/
def parseVDst (f : Nat) : Option Dst :=
  match parseSrc f with
  | some (.v n) => some (.v n)
  | some (.idx k o) => some (.idx k o)
  | _ => none

/-- A source that is a register: v, s or indexed (a base, R385). -/
def parseReg (f : Nat) : Option Src :=
  match parseSrc f with
  | some (.v n) => some (.v n)
  | some (.s n) => some (.s n)
  | some (.idx k o) => some (.idx k o)
  | _ => none

/-- A source that is a register or an immediate (R385, R411). -/
def parseRegImm (f : Nat) : Option Src :=
  match parseSrc f with
  | some (.spec _) => none
  | o => o

/-- A source of kind v or indexed. -/
def parseVSrc (f : Nat) : Option Src :=
  match parseSrc f with
  | some (.v n) => some (.v n)
  | some (.idx k o) => some (.idx k o)
  | _ => none

/-- A direct s register. -/
def parseS (f : Nat) : Option Nat :=
  match parseSrc f with
  | some (.s n) => some n
  | _ => none

/-- A direct v register. -/
def parseV (f : Nat) : Option Nat :=
  match parseSrc f with
  | some (.v n) => some n
  | _ => none

/-- A number below a bound, with every other bit zero (R309). -/
def parseNum (bound f : Nat) : Option Nat := if f < bound then some f else none

/-- A field that must be zero (R309). -/
def zero (f : Nat) : Option Unit := if f = 0 then some () else none

/-- A field that must hold one value. -/
def only (k f : Nat) : Option Unit := if f = k then some () else none

def intTy : Nat → Option IntTy
  | 0 => some .i32 | 1 => some .n32 | 2 => some .i64 | 3 => some .n64
  | 4 => some .i16 | 5 => some .n16 | 6 => some .i8 | 7 => some .n8
  | _ => none

/-- ty 0 to 3 of the integer table. -/
def intTy4 (n : Nat) : Option IntTy := if n < 4 then intTy n else none

/-- .i32 or .n32. -/
def intTy2 (n : Nat) : Option IntTy := if n < 2 then intTy n else none

/-- The signed types, for IABS (R330). -/
def intTyAbs (n : Nat) : Option IntTy := if n % 2 = 0 then intTy n else none

/-- .b32 (1) or .b64 (3). -/
def wide13 : Nat → Option Bool
  | 1 => some false | 3 => some true | _ => none

/-- .i32 (0) or .i64 (2), for SAR. -/
def wide02 : Nat → Option Bool
  | 0 => some false | 2 => some true | _ => none

/-- First or second of two. -/
def bit01 : Nat → Option Bool
  | 0 => some false | 1 => some true | _ => none

/-- .f16 (2) or .bf16 (3). -/
def half23 : Nat → Option Bool
  | 2 => some false | 3 => some true | _ => none

def fty : Nat → Option FTy
  | 0 => some .f32 | 1 => some .f64 | 2 => some .f16 | 3 => some .bf16 | _ => none

/-- .f32 or .f64. -/
def fty2 (n : Nat) : Option FTy := if n < 2 then fty n else none

def memTy : Nat → Option MemTy
  | 0 => some .b8 | 1 => some .b16 | 2 => some .b32 | 3 => some .b64 | 4 => some .b128 | 5 => some .i8 | 6 => some .i16
  | _ => none

def rmode : Nat → Option RMode
  | 0 => some .rn | 1 => some .rz | 2 => some .rd | 3 => some .ru | 4 => some .rna | _ => none

def cvtTy : Nat → Option CvtTy
  | 0 => some .i8 | 1 => some .i16 | 2 => some .i32 | 3 => some .i64 | 4 => some .n8 | 5 => some .n16
  | 6 => some .n32 | 7 => some .n64 | 8 => some .f16 | 9 => some .bf16 | 10 => some .f32 | 11 => some .f64
  | 12 => some .e4m3 | 13 => some .e5m2 | 14 => some .e3m2 | 15 => some .e2m3 | 16 => some .e2m1 | 17 => some .e8m0
  | _ => none

def mxElt : Nat → Option MxElt
  | 0 => some .e4m3 | 1 => some .e5m2 | 2 => some .e3m2 | 3 => some .e2m3 | 4 => some .e2m1 | _ => none

def unpkTy : Nat → Option UnpkTy
  | 0 => some .f16 | 1 => some .bf16 | 2 => some .e4m3 | 3 => some .e5m2 | 4 => some .e3m2 | 5 => some .e2m3
  | 6 => some .e2m1 | _ => none

def packTy : Nat → Option PackTy
  | 0 => some .f16 | 1 => some .bf16 | 2 => some .e4m3 | 3 => some .e5m2 | _ => none

def icc : Nat → Option ICc
  | 0 => some .eq | 1 => some .ne | 2 => some .lt | 3 => some .le | 4 => some .gt | 5 => some .ge | _ => none

def fcc : Nat → Option FCc
  | 0 => some .eq | 1 => some .ne | 2 => some .lt | 3 => some .le | 4 => some .gt | 5 => some .ge | 6 => some .num
  | 7 => some .nan | _ => none

def moviForm : Nat → Option MoviForm
  | 0 => some .b32 | 1 => some .lo | 2 => some .hi | 3 => some .i64 | 4 => some .n64 | _ => none

def space : Nat → Option Space
  | 0 => some .global | 1 => some .scratch | 2 => some .peer | 3 => some .const | 4 => some .stack | 5 => some .cell
  | _ => none

/-- The order of bits 17:16 of od (R311). -/
def order4 : Nat → Option Order
  | 0 => some .rlx | 1 => some .acq | 2 => some .rel | 3 => some .sc | _ => none

/-- The order code of ATOM, RED and FENCE (R384). -/
def order6 : Nat → Option Order
  | 0 => some .rlx | 1 => some .acq | 2 => some .rel | 3 => some .sc | 6 => some .ar | _ => none

def cacheOp : Nat → Option CacheOp
  | 0 => some .normal | 1 => some .stream | 2 => some .nolease | 3 => some .last | _ => none

def scope : Nat → Option Scope
  | 0 => some .lane | 1 => some .grp | 2 => some .blk | 3 => some .clu | 4 => some .dev | 5 => some .sys | _ => none

def redOp : Nat → Option RedOp
  | 0 => some .addN32 | 1 => some .minI32 | 2 => some .maxI32 | 3 => some .minN32 | 4 => some .maxN32 | 5 => some .and
  | 6 => some .or | 7 => some .xor | _ => none

def qdiffOf : Nat → Option QDiff
  | 0 => some .fh | 1 => some .fv | 2 => some .ch | 3 => some .cv | _ => none

def dotSign : Nat → Option DotSign
  | 0 => some .i8i8 | 1 => some .n8n8 | 2 => some .i8n8 | 3 => some .n8i8 | _ => none

def memopTy : Nat → Option MemopTy
  | 0 => some .f32 | 2 => some .f16 | 3 => some .bf16 | _ => none

def matTy : Nat → Option MatTy
  | 0 => some .e4m3 | 1 => some .e5m2 | 2 => some .f16 | 3 => some .bf16 | 4 => some .mx8e4 | 5 => some .mx8e5
  | 6 => some .mx6e3 | 7 => some .mx6e2 | 8 => some .mx4 | _ => none

def mmaMode : Nat → Option MmaMode
  | 0 => some .acc | 1 => some .ovr | 2 => some .sub | _ => none

/-- A completion slot: a name 0 to 127, or 255 for none (R410, R400). -/
def slotOrNone (n : Nat) : Option (Option Nat) :=
  if n < 128 then some (some n) else if n = 255 then some none else none

def isIntCvt : CvtTy → Bool
  | .i8 | .i16 | .i32 | .i64 | .n8 | .n16 | .n32 | .n64 => true
  | _ => false

/-- The combinations that CVT refuses (R373). -/
def cvtOk (m : RMode) (nosat : Bool) (dt st : CvtTy) : Bool :=
  (!nosat || dt == .e4m3 || dt == .e5m2) && (dt != .e8m0 || st == .f32) && (st != .e8m0 || dt == .f32)
    && (m == .rn || !(isIntCvt dt && isIntCvt st))

/-- The largest element number of UNPK (R376). -/
def unpkMax : UnpkTy → Nat
  | .f16 | .bf16 => 1 | .e4m3 | .e5m2 => 3 | .e3m2 | .e2m3 => 4 | .e2m1 => 7

/-! ### Words by the rows of the opcode map (R313) -/

/-- Words with d, a, b and c zero. -/
def ab3 (f : Fields) (k : Dst → Src → Src → Instr) : Option Instr := do
  zero f.c; return k (← parseDst f.d) (← parseSrc f.a) (← parseSrc f.b)

/-- Words with d, a, b and c. -/
def abc4 (f : Fields) (k : Dst → Src → Src → Src → Instr) : Option Instr := do
  return k (← parseDst f.d) (← parseSrc f.a) (← parseSrc f.b) (← parseSrc f.c)

/-- Words with d and a; b and c zero. -/
def a2 (f : Fields) (k : Dst → Src → Instr) : Option Instr := do
  zero f.b; zero f.c; return k (← parseDst f.d) (← parseSrc f.a)

def row0 (f : Fields) : Nat → Option Instr
  | 0 => some .nop
  | 1 => do ab3 f (.iadd f.g (← intTy f.ty))
  | 2 => do ab3 f (.isub f.g (← intTy f.ty))
  | 3 => do ab3 f (.iadds f.g (← intTy f.ty))
  | 4 => do
    let w ← wide13 f.ty
    let co ← parseNum 13 (f.c / 16)
    let ci ← parseNum 14 (f.c % 16)
    return .iaddc f.g w (← parseDst f.d) (← parseSrc f.a) (← parseSrc f.b) ci co
  | 5 => do ab3 f (.imul f.g (← intTy f.ty))
  | 6 => do ab3 f (.imulhi f.g (← intTy4 f.ty))
  | 7 => do abc4 f (.imad f.g (← intTy f.ty))
  | 8 => do abc4 f (.imadw f.g (← intTy2 f.ty))
  | 9 => do ab3 f (.idiv f.g (← intTy4 f.ty))
  | 10 => do ab3 f (.irem f.g (← intTy4 f.ty))
  | 11 => do ab3 f (.imin f.g (← intTy f.ty))
  | 12 => do ab3 f (.imax f.g (← intTy f.ty))
  | 13 => do a2 f (.iabs f.g (← intTyAbs f.ty))
  | 14 => do a2 f (.ineg f.g (← intTy f.ty))
  | _ => none

def row1 (f : Fields) : Nat → Option Instr
  | 0 => do ab3 f (.and f.g (← wide13 f.ty))
  | 1 => do ab3 f (.or f.g (← wide13 f.ty))
  | 2 => do ab3 f (.xor f.g (← wide13 f.ty))
  | 3 => do ab3 f (.andn f.g (← wide13 f.ty))
  | 4 => do a2 f (.not f.g (← wide13 f.ty))
  | 5 => do ab3 f (.shl f.g (← wide13 f.ty))
  | 6 => do ab3 f (.shr f.g (← wide13 f.ty))
  | 7 => do ab3 f (.sar f.g (← wide02 f.ty))
  | 8 => do ab3 f (.rot f.g (← wide13 f.ty))
  | 9 => do abc4 f (.fsh f.g (← wide13 f.ty))
  | 10 => do a2 f (.popc f.g (← wide13 f.ty))
  | 11 => do a2 f (.clz f.g (← wide13 f.ty))
  | 12 => do a2 f (.ctz f.g (← wide13 f.ty))
  | 13 => do a2 f (.brev f.g (← wide13 f.ty))
  | 14 => do ab3 f (.bfx f.g (← intTy4 f.ty))
  | 15 => do abc4 f (.bfi f.g (← wide13 f.ty))
  | _ => none

def row2 (f : Fields) : Nat → Option Instr
  | 0 => do only 1 f.ty; abc4 f (.prmt f.g)
  | 1 => do abc4 f (.lea f.g (← intTy2 f.ty))
  | 2 => do
    return .icmp f.g (← intTy f.ty) (← parseNum 12 f.d) (← parseSrc f.a) (← parseSrc f.b) (← icc f.c)
  | 3 => do
    return .sel f.g (← wide13 f.ty) (← parseDst f.d) (← parseSrc f.a) (← parseSrc f.b) (← parseNum 12 f.c)
  | 4 => do return .iaddImm f.g (← intTy f.ty) (← parseDst f.d) (← parseSrc f.a) f.imm24
  | 5 => do return .andImm f.g (← wide13 f.ty) (← parseDst f.d) (← parseSrc f.a) f.imm24
  | 6 => do return .orImm f.g (← wide13 f.ty) (← parseDst f.d) (← parseSrc f.a) f.imm24
  | 7 => do return .xorImm f.g (← wide13 f.ty) (← parseDst f.d) (← parseSrc f.a) f.imm24
  | 8 => do
    return .icmpImm f.g (← intTy f.ty) (← parseNum 12 f.d) (← parseSrc f.a) (← icc (f.b / 512)) f.imm21
  | _ => none

def row3 (f : Fields) : Nat → Option Instr
  | 0 => do ab3 f (.fadd f.g (← fty f.ty))
  | 1 => do ab3 f (.fsub f.g (← fty f.ty))
  | 2 => do ab3 f (.fmul f.g (← fty f.ty))
  | 3 => do abc4 f (.ffma f.g (← fty f.ty))
  | 4 => do abc4 f (.ffms f.g (← fty f.ty))
  | 5 => do ab3 f (.fmin f.g (← fty f.ty))
  | 6 => do ab3 f (.fmax f.g (← fty f.ty))
  | 7 => do ab3 f (.fminp f.g (← fty f.ty))
  | 8 => do ab3 f (.fmaxp f.g (← fty f.ty))
  | 9 => do a2 f (.fabs f.g (← fty f.ty))
  | 10 => do a2 f (.fneg f.g (← fty f.ty))
  | 11 => do
    return .fcmp f.g (← fty f.ty) (← parseNum 12 f.d) (← parseSrc f.a) (← parseSrc f.b) (← fcc f.c)
  | 12 => do
    let t ← fty f.ty
    let a ← parseSrc f.a
    if f.c = 0 then zero f.b; return .fclass f.g t (.reg (← parseDst f.d)) a
    else if f.c = 1 then return .fclass f.g t (.pred (← parseNum 12 f.d) (← parseSrc f.b)) a
    else none
  | 13 => do ab3 f (.fdiv f.g (← fty2 f.ty))
  | 14 => do a2 f (.fsqrt f.g (← fty2 f.ty))
  | 15 => do zero f.ty; a2 f (.frcp f.g)
  | _ => none

def row4 (f : Fields) : Nat → Option Instr
  | 0 => do zero f.ty; a2 f (.frsq f.g)
  | 1 => do zero f.ty; a2 f (.fexp2 f.g)
  | 2 => do zero f.ty; a2 f (.flog2 f.g)
  | 3 => do zero f.ty; a2 f (.fsin f.g)
  | 4 => do zero f.ty; a2 f (.fcos f.g)
  | 5 => do zero f.ty; a2 f (.ftanh f.g)
  | 6 => do ab3 f (.fscale f.g (← fty f.ty))
  | 7 => do
    zero f.b; return .frnd f.g (← fty f.ty) (← parseDst f.d) (← parseSrc f.a) (← rmode f.c)
  | _ => none

def row5 (f : Fields) : Nat → Option Instr
  | 0 => do
    let m ← rmode f.ty
    zero f.c
    let _ ← parseNum 2048 f.b
    let st ← cvtTy (f.b / 32 % 32)
    let dt ← cvtTy (f.b % 32)
    let ns := f.b / 1024 == 1
    if cvtOk m ns dt st then return .cvt f.g m ns dt st (← parseDst f.d) (← parseSrc f.a) else none
  | 1 => do
    let t ← packTy f.ty
    let _ ← parseNum (if f.ty < 2 then 1 else 4) f.c
    return .pack f.g t (← parseDst f.d) (← parseSrc f.a) (← parseSrc f.b) (f.c / 2 == 1) (f.c % 2 == 1)
  | 2 => do
    let t ← unpkTy f.ty
    zero f.b
    return .unpk f.g t (← parseDst f.d) (← parseSrc f.a) (← parseNum (unpkMax t + 1) f.c)
  | 3 => do a2 f (.mxscale f.g (← mxElt f.ty))
  | 4 => do
    let t ← mxElt f.ty
    let _ ← parseNum (if f.ty < 2 then 2 else 1) f.c
    return .mxq f.g t (← parseDst f.d) (← parseSrc f.a) (← parseSrc f.b) (f.c == 1)
  | 5 => do ab3 f (.mxdq f.g (← mxElt f.ty))
  | 6 => do abc4 f (.hfma2 f.g (← half23 f.ty))
  | 7 => do abc4 f (.idot4 f.g (← dotSign (f.ty % 4)) (f.ty / 4 == 1))
  | 8 => do abc4 f (.fdot2 f.g (← half23 f.ty))
  | _ => none

/-- The eight selectors of PPACK and PUNPACK, q0 first (R345). -/
def qList (f : Fields) : List Nat :=
  [f.a % 16, f.a / 16 % 16, f.a / 256, f.b % 16, f.b / 16 % 16, f.b / 256, f.c % 16, f.c / 16 % 16]

/-- Codes 13 to 15 are refused, and bits 11:8 of c must be zero (R345). -/
def qOk (f : Fields) : Option (List Nat) :=
  if (qList f).all (· < 13) && f.c < 256 then some (qList f) else none

def row6 (f : Fields) : Nat → Option Instr
  | 0 => do
    zero f.ty
    return .plop f.g (← parseNum 12 f.d) (← parseNum 13 f.a) (← parseNum 13 f.b) (← parseNum 13 (f.c % 16)) (f.c / 16)
  | 1 =>
    match f.ty with
    | 0 => do return .ppack f.g (← parseDst f.d) (← qOk f)
    | 1 => do return .punpack f.g (← parseSrc f.d) (← qOk f)
    | _ => none
  | 2 =>
    match f.ty with
    | 0 => do zero f.b; zero f.c; return .pmov f.g (← parseNum 12 f.d) (← parseNum 13 f.a)
    | 1 => do zero f.c; return .pmovBit f.g (← parseNum 12 f.d) (← parseSrc f.a) (← parseSrc f.b)
    | _ => none
  | 3 =>
    match f.ty with
    | 1 => a2 f (.mov f.g false)
    | 3 => a2 f (.mov f.g true)
    | 4 => do zero f.b; zero f.c; return .movToIndex f.g (← parseNum 4 f.d) (← parseSrc f.a)
    | 5 => do zero f.b; zero f.c; return .movFromIndex f.g (← parseDst f.d) (← parseNum 4 f.a)
    | _ => none
  | 4 => do zero f.ty; return .movi f.g (← parseDst f.d) (← moviForm f.md) f.imm32
  | 5 => do
    only 1 f.ty; zero f.c
    match parseSrc f.b with
    | some (.imm i) =>
      if 1 ≤ i ∧ i ≤ 16 then return .bcast f.g (← parseV f.d) (← parseS f.a) i.toNat else none
    | _ => none
  | 6 => do
    zero f.c
    match f.ty with
    | 0 => return .lanerd f.g false (← parseS f.d) (← parseVSrc f.a) (← parseSrc f.b)
    | 1 => return .lanerd f.g true (← parseS f.d) (← parseVSrc f.a) (← parseSrc f.b)
    | 2 => return .lanewr f.g false (← parseV f.d) (← parseSrc f.a) (← parseSrc f.b)
    | 3 => return .lanewr f.g true (← parseV f.d) (← parseSrc f.a) (← parseSrc f.b)
    | _ => none
  | 7 => do zero f.ty; zero f.c; return .setxw f.g (← parseNum 4 f.d) (← parseSrc f.a) (← parseSrc f.b)
  | 8 => do
    zero f.c; return .qswz f.g (← bit01 f.ty) (← parseVDst f.d) (← parseSrc f.a) (← parseSrc f.b)
  | 9 => do
    zero f.b; zero f.c; return .qdiff f.g (← qdiffOf f.ty) (← parseVDst f.d) (← parseSrc f.a)
  | 10 => do
    let sn ← parseNum 5 (f.c / 16)
    let pc ← parseNum 13 (f.c % 16)
    let w := f.ty / 4 == 1
    let d ← parseVDst f.d
    let a ← parseSrc f.a
    let b ← parseSrc f.b
    match f.ty % 4 with
    | 0 => return .shflPick f.g w d a b pc sn
    | 1 => return .shflRot f.g w d a b pc sn
    | 2 => return .shflSlide f.g w d a b pc sn
    | 3 => return .shflFlip f.g w d a b pc sn
    | _ => none
  | 11 => do
    let d ← parseDst f.d
    let ps ← parseNum 13 f.a
    let m ← parseSrc f.b
    let pc ← parseNum 13 f.c
    match f.ty with
    | 0 => return .voteMask f.g d ps m pc
    | 1 => return .voteCount f.g d ps m pc
    | 2 => return .voteLead f.g d ps m pc
    | 3 => return .voteAgree f.g d ps m pc
    | _ => none
  | 12 => do
    let d ← parseVDst f.d
    let a ← parseSrc f.a
    let m ← parseSrc f.b
    let pc ← parseNum 13 f.c
    match f.ty with
    | 0 => return .matchLead f.g false d a m pc
    | 1 => return .matchLead f.g true d a m pc
    | 2 => return .matchMask f.g false d a m pc
    | 3 => return .matchMask f.g true d a m pc
    | _ => none
  | 13 => do
    return .redux f.g (← redOp f.ty) (← parseDst f.d) (← parseSrc f.a) (← parseSrc f.b) (← parseNum 13 f.c)
  | 14 => do
    return .scan f.g (← redOp f.ty) (← parseVDst f.d) (← parseSrc f.a) (← parseSrc f.b) (← parseSrc f.c)
  | 15 => do zero f.ty; zero f.d; zero f.b; zero f.c; return .join f.g (← parseSrc f.a)
  | _ => none

/-- The spaces, orders and cache codes each M-format word admits (R384, R207). -/
def ldOk (t : MemTy) (sp : Space) (o : Order) (c : CacheOp) : Bool :=
  (o == .rlx || o == .acq || o == .sc) && (sp != .cell || t == .b32 || t == .b64)
    && (c == .normal || sp == .global || sp == .const || sp == .stack)

def stOk (t : MemTy) (sp : Space) (o : Order) : Bool :=
  (o == .rlx || o == .rel || o == .sc) && sp != .const && sp != .cell && t != .i8 && t != .i16

/-- The spaces of ATOM and RED but for xadd (R384). -/
def atomSp (sp : Space) : Bool := sp == .global || sp == .scratch || sp == .peer

def redOrd (o : Order) : Bool := o == .rlx || o == .rel || o == .sc

/-- The data register of a .b128 load is a direct v register that is a multiple of 4 (R385). -/
def ld128Ok (t : MemTy) (d : Dst) : Bool :=
  match t, d with
  | .b128, .v n => n % 4 == 0
  | .b128, _ => false
  | _, _ => true

def parseAtom (f : Fields) (k : IntTy → Nat → Space → Src → Order → Int → Instr) : Option Instr := do
  let sp ← space f.sp
  let o ← order6 f.od
  if atomSp sp then return k (← intTy4 f.ty) (← parseV f.d) sp (← parseReg f.a) o f.off16 else none

def parseRed (f : Fields) (k : IntTy → Src → Space → Src → Order → Int → Instr) : Option Instr := do
  let sp ← space f.sp
  let o ← order6 f.od
  if atomSp sp && redOrd o then return k (← intTy4 f.ty) (← parseRegImm f.d) sp (← parseReg f.a) o f.off16 else none

/-- MEMOP (R402) in format C. -/
def parseMemop (f : Fields) : Option Instr := do
  let r ← parseS f.d
  let sl ← parseNum 128 f.cslot
  zero f.cmask; zero f.low16
  match f.cmode with
  | 0 => zero f.ty; return .memopFill f.g r sl
  | 1 => return .memopAxpy f.g (← memopTy f.ty) r sl
  | 2 => return .memopAdd f.g (← memopTy f.ty) r sl
  | 3 => return .memopMul f.g (← memopTy f.ty) r sl
  | 4 => return .memopReduce f.g (← bit01 f.ty) r sl
  | _ => none

def row7 (f : Fields) : Nat → Option Instr
  | 0 => do
    let t ← memTy f.ty
    let sp ← space f.sp
    let o ← order4 (f.od % 4)
    let c ← cacheOp (f.od / 4)
    let d ← parseVDst f.d
    if ldOk t sp o c && ld128Ok t d then return .ld f.g t d sp (← parseReg f.a) o c f.off16 else none
  | 1 => do
    let t ← memTy f.ty
    let sp ← space f.sp
    let o ← order4 f.od
    if stOk t sp o then return .st f.g t (← parseRegImm f.d) sp (← parseReg f.a) o f.off16 else none
  | 2 => do
    let sp ← space f.sp
    let o ← order4 (f.od % 4)
    let c ← cacheOp (f.od / 4)
    if (sp == .global || sp == .const) && (o == .rlx || o == .acq) then
      return .ldc f.g (← parseNum 5 f.ty) (← parseS f.d) sp (.s (← parseS f.a)) o c f.off16
    else none
  | 3 => do
    zero f.ty; zero f.d
    let sp ← space f.sp
    let o ← order4 (f.od % 4)
    let c ← cacheOp (f.od / 4)
    if (sp == .global || sp == .const) && o == .rlx && (c == .normal || c == .stream) then
      return .pref f.g sp (← parseReg f.a) c f.off16
    else none
  | 4 => do
    zero f.ty; zero f.d
    let sp ← space f.sp
    let o ← order4 f.od
    if sp == .cell && (o == .rlx || o == .rel) then return .xclr f.g (← parseReg f.a) (o == .rel) f.off16 else none
  | 5 => parseMemop f
  | 6 => do
    let sc ← scope f.ty
    let o ← order6 f.od
    zero f.d; zero f.a; zero f.sp; zero (f.b % 16); zero f.c
    if o == .rlx then none else return .fence f.g sc o
  | 7 => do
    zero f.ty; zero f.d; zero f.cmask; zero f.cmode; zero f.low16
    return .flsig f.g (← slotOrNone f.cslot)
  | 8 => do
    only 3 f.ty; zero f.sp; zero f.od
    return .watch f.g (← parseNum 128 f.d) (← parseReg f.a) f.off16
  | 9 => do
    zero f.d; zero f.od
    let sp ← space f.sp
    if sp == .global || sp == .const then
      match f.ty with
      | 0 => return .cctlDrop f.g sp (← parseReg f.a) f.off16
      | 1 => return .cctlDrop4k f.g sp (← parseReg f.a) f.off16
      | 2 => return .cctlRenew f.g sp (← parseReg f.a) f.off16
      | _ => none
    else none
  | 10 => parseAtom f (.atomAdd f.g)
  | 11 => parseAtom f (.atomMin f.g)
  | 12 => parseAtom f (.atomMax f.g)
  | 13 => parseAtom f (.atomAnd f.g)
  | 14 => parseAtom f (.atomOr f.g)
  | 15 => parseAtom f (.atomXor f.g)
  | _ => none

def row8 (f : Fields) : Nat → Option Instr
  | 0 => parseAtom f (.atomExch f.g)
  | 1 => parseAtom f (.atomCas f.g)
  | 2 => do
    let sp ← space f.sp
    let o ← order6 f.od
    if atomSp sp then return .atomFadd f.g (← bit01 f.ty) (← parseV f.d) sp (← parseReg f.a) o f.off16 else none
  | 3 => do
    let sp ← space f.sp
    let o ← order6 f.od
    if sp == .cell then return .atomXadd f.g (← bit01 f.ty) (← parseV f.d) (← parseReg f.a) o f.off16 else none
  | 4 => parseRed f (.redAdd f.g)
  | 5 => parseRed f (.redMin f.g)
  | 6 => parseRed f (.redMax f.g)
  | 7 => parseRed f (.redAnd f.g)
  | 8 => parseRed f (.redOr f.g)
  | 9 => parseRed f (.redXor f.g)
  | 10 => do
    let sp ← space f.sp
    let o ← order6 f.od
    if atomSp sp && redOrd o then
      return .redFadd f.g (← bit01 f.ty) (← parseRegImm f.d) sp (← parseReg f.a) o f.off16
    else none
  | 11 => do
    let sp ← space f.sp
    let o ← order6 f.od
    if sp == .cell && redOrd o then
      return .redXadd f.g (← bit01 f.ty) (← parseRegImm f.d) (← parseReg f.a) o f.off16
    else none
  | _ => none

/-- The n operand of ARRIVE, present when ty bit 2 is set (R405). -/
def parseN (f : Fields) : Option (Option Src) :=
  if f.ty < 4 then (do zero f.c; return none) else (do return some (← parseSrc f.c))

def row9 (f : Fields) : Nat → Option Instr
  | 0 => do zero f.ty; zero f.b; zero f.c; return .binit f.g (← parseNum 128 f.d) (← parseSrc f.a)
  | 1 => do
    let n ← parseN f
    if f.ty / 2 % 2 = 0 then
      zero f.a; zero f.b
      return .arrive f.g (f.ty % 2 == 1) (← parseNum 128 f.d) n
    else
      zero f.d
      match f.b with
      | 1 => return .arriveAddress f.g (f.ty % 2 == 1) false (← parseSrc f.a) n
      | 2 => return .arriveAddress f.g (f.ty % 2 == 1) true (← parseSrc f.a) n
      | _ => none
  | 2 => do
    zero f.b; zero f.c
    match f.ty with
    | 0 => return .expectOnce f.g (← parseNum 128 f.d) (← parseSrc f.a)
    | 1 => return .expectEach f.g (← parseNum 128 f.d) (← parseSrc f.a)
    | _ => none
  | 3 => do
    zero f.c
    match f.ty with
    | 0 => zero f.b; return .btestPa f.g (← parseDst f.d) (← parseNum 128 f.a)
    | 1 => zero f.b; return .btestPb f.g (← parseDst f.d) (← parseNum 128 f.a)
    | 2 => zero f.b; return .btestAll f.g (← parseDst f.d) (← parseNum 128 f.a)
    | 3 => return .btestPassed f.g (← parseNum 12 f.d) (← parseNum 128 f.a) (← parseSrc f.b)
    | _ => none
  | 4 => do zero f.ty; zero f.a; zero f.b; zero f.c; return .binval f.g (← parseNum 128 f.d)
  | 5 => do
    zero f.ty; zero f.cmask; zero f.low16
    return .cpy f.g (← parseS f.d) (← parseNum 128 f.cslot) (← bit01 f.cmode)
  | 6 => do
    zero f.ty; zero f.low16; zero (f.cmode % 2)
    return .cpym f.g (← parseS f.d) (← parseNum 128 f.cslot) f.cmask (← bit01 (f.cmode / 2))
  | 7 => do
    zero f.ty; zero f.cmask; zero f.cmode; zero f.low16
    return .cpyr f.g (← parseS f.d) (← parseNum 128 f.cslot)
  | 8 => do
    zero f.ty; zero f.cmask; zero f.low16
    return .cpyg f.g (← parseS f.d) (← parseNum 128 f.cslot) (← bit01 f.cmode)
  | 9 => do
    zero f.ty; zero f.d; zero f.cmask; zero f.cmode; zero f.low16
    return .cpyx f.g (← parseNum 128 f.cslot)
  | _ => none

/-- The A operand of an MMA (R413, R266). -/
def parseASrc (f : Fields) : Option ASrc :=
  if f.asrc = 0 then (do return .regs (← parseVDst f.aos)) else (do return .map (← parseS f.aos))

def rowA (f : Fields) : Nat → Option Instr
  | 0 => do
    zero f.ty; zero f.c; return .acfg f.g (← parseNum 64 f.d) (← parseRegImm f.a) (← parseRegImm f.b)
  | 1 => do
    zero f.ty; zero (f.a % 1024); zero f.b; zero (f.c / 256)
    return .azero f.g f.tile f.ver (← slotOrNone f.slot)
  | 2 => do zero f.ty; zero f.d; zero f.a; zero f.b; zero f.c; return .afence f.g
  | 3 => do
    let _ ← parseNum 4 f.ty
    return .mma f.g (← matTy f.ty) f.tile f.ver (f.reuse == 1) (← parseASrc f) f.map (← mmaMode f.mode2)
      (← slotOrNone f.slot)
  | 4 => do
    return .mmas f.g (← matTy (f.ty + 4)) f.tile f.ver (f.reuse == 1) (← parseASrc f) f.map (← mmaMode f.mode2)
      (← slotOrNone f.slot)
  | 5 => do
    zero f.ty; zero (f.a % 1024); zero (f.b / 256); zero f.mode2
    return .ald f.g f.tile f.ver f.map (← slotOrNone f.slot)
  | 6 => do
    zero f.ty; zero (f.a % 512); zero (f.b / 256); zero f.mode2
    zero (f.reuse * f.ver)
    return .ast f.g f.tile f.ver (f.reuse == 1) f.map (← slotOrNone f.slot)
  | 7 => do
    zero f.ty; zero f.asrc; zero f.low7; zero (f.reuse * f.ver)
    return .ard f.g f.tile f.ver (f.reuse == 1) (← parseVDst f.aos) f.c0 (f.n1 + 1)
  | 8 => do
    zero f.ty; zero f.asrc; zero f.low7; zero f.reuse
    return .awr f.g f.tile f.ver (← parseVDst f.aos) f.c0 (f.n1 + 1)
  | _ => none

/-- A flag predicate: 0 to 11, or 12 for none (R419). -/
def flagP (f : Fields) : Option Nat := parseNum 13 f.fp

/-- Rows or columns of KSHAPE (R419). -/
def dim6 (n : Nat) : Option Nat := if 1 ≤ n ∧ n ≤ 6 then some n else none

def rowB (f : Fields) (r : Nat) : Option Instr := do
  zero f.low16; zero f.kc
  match r with
  | 0 =>
    only 12 f.fp
    match f.fn with
    | 0 => return .kshape f.g (← bit01 f.ty) f.kd (← parseRegImm f.aos) (← dim6 f.ka) (← dim6 f.kb)
    | 1 => zero f.ty; zero f.ka; zero f.kb; zero f.aos; return .kshapeClr f.g f.kd
    | _ => none
  | 1 => zero f.ty; only 12 f.fp; zero f.fn; zero f.ka; zero f.kb; zero f.aos; return .kzero f.g f.kd
  | 2 => zero f.ty; only 12 f.fp; zero f.fn; zero f.ka; zero f.kb; zero f.aos; return .keye f.g f.kd
  | 3 => zero f.ty; zero f.fn; zero f.aos; return .kadd f.g f.kd f.ka f.kb (← flagP f)
  | 4 => zero f.ty; zero f.fn; zero f.aos; return .kmul f.g f.kd f.ka f.kb (← flagP f)
  | 5 => zero f.ty; zero f.fn; zero f.aos; return .kmad f.g f.kd f.ka f.kb (← flagP f)
  | 6 => zero f.ty; zero f.fn; zero f.aos; zero f.kb; return .ktrn f.g f.kd f.ka (← flagP f)
  | 7 => zero f.ty; zero f.fn; zero f.aos; zero f.kb; return .kchol f.g f.kd f.ka (← flagP f)
  | 8 => zero f.ty; zero f.fn; zero f.aos; zero f.kb; return .kldl f.g f.kd f.ka (← flagP f)
  | 9 => zero f.ty; zero f.fn; zero f.kb; return .klu f.g f.kd f.ka (← parseVDst f.aos) (← flagP f)
  | 10 =>
    zero f.ty
    match f.fn with
    | 0 => return .ksolve f.g .lu f.kd f.ka f.kb (some (← parseVDst f.aos)) (← flagP f)
    | 1 => zero f.aos; return .ksolve f.g .ldl f.kd f.ka f.kb none (← flagP f)
    | 2 => zero f.aos; return .ksolve f.g .chol f.kd f.ka f.kb none (← flagP f)
    | _ => none
  | 11 => zero f.ty; zero f.fn; zero f.kd; zero f.kb; return .kdet f.g (← parseVDst f.aos) f.ka (← flagP f)
  | 12 => zero f.ty; zero f.fn; zero f.aos; zero f.kb; return .kinv f.g f.kd f.ka (← flagP f)
  | _ => none

/-- A displacement whose bits 2:0 are zero (R312). -/
def dispOk (f : Fields) : Option Int := if f.b / 16 % 8 = 0 then some f.disp else none

/-- The displacement field as raw bits, for words that must leave it zero. -/
def noDisp (f : Fields) : Option Unit := do zero f.d; zero f.a; zero f.b

def rowC (f : Fields) : Nat → Option Instr
  | 0 => do zero f.ty; zero f.c; return .bra f.g (← dispOk f) (← parseNum 3 f.hint)
  | 1 => do zero f.ty; noDisp f; return .brx f.g (← parseDst f.c)
  | 2 => do zero f.ty; zero f.c; zero f.hint; return .call f.g (← dispOk f)
  | 3 => do zero f.ty; noDisp f; return .callx f.g (← parseDst f.c)
  | 4 => do zero f.ty; noDisp f; return .ret f.g (← parseDst f.c)
  | 5 => do zero f.ty; noDisp f; zero f.c; return .exit f.g
  | 6 => do zero f.ty; noDisp f; zero f.c; return .yield f.g
  | 8 => do zero f.ty; zero f.c; return .launch f.g (← parseS f.d) (← parseS f.a) (← parseNum 12 f.b)
  | 9 => do zero f.ty; zero f.d; zero f.c; return .migrate f.g (← parseNum 12 f.b) (← parseSrc f.a)
  | 10 => do zero f.ty; zero f.d; zero f.b; zero f.c; return .trap f.g (← parseSrc f.a)
  | 11 => do zero f.ty; noDisp f; zero f.c; return .bkpt f.g
  | _ => none

def rowD (f : Fields) (r : Nat) : Option Instr := do
  zero f.ty
  match r with
  | 0 => zero f.a; zero f.c; return .srd f.g (← parseDst f.d) f.b
  | 1 => zero f.d; zero f.c; return .swr f.g (← parseSrc f.a) f.b
  | 2 =>
    zero f.d; zero f.a; zero f.b
    match f.c with
    | 0 => return .ctxsaveCopy f.g
    | 1 => return .ctxsaveAcc f.g
    | 2 => return .ctxsaveGrp f.g
    | 3 => return .ctxsaveBlk f.g
    | _ => none
  | 3 =>
    zero f.d; zero f.a; zero f.b
    match f.c with
    | 0 => return .ctxrestCopy f.g
    | 1 => return .ctxrestAcc f.g
    | 2 => return .ctxrestGrp f.g
    | 3 => return .ctxrestBlk f.g
    | _ => none
  | 4 => zero f.d; zero f.a; zero f.b; zero f.c; return .eret f.g
  | 5 => zero f.d; zero f.a; zero f.b; zero f.c; return .hostint f.g
  | 6 => zero f.d; zero f.b; zero f.c; return .pmark f.g (← parseSrc f.a)
  | 7 => zero f.d; zero f.b; return .logw f.g (← parseS f.a) f.c
  | _ => none

/-- The instruction of a word's fields, by the row of the opcode map (R313). -/
def parse (f : Fields) : Option Instr :=
  match f.major / 16 with
  | 0 => row0 f (f.major % 16)
  | 1 => row1 f (f.major % 16)
  | 2 => row2 f (f.major % 16)
  | 3 => row3 f (f.major % 16)
  | 4 => row4 f (f.major % 16)
  | 5 => row5 f (f.major % 16)
  | 6 => row6 f (f.major % 16)
  | 7 => row7 f (f.major % 16)
  | 8 => row8 f (f.major % 16)
  | 9 => row9 f (f.major % 16)
  | 10 => rowA f (f.major % 16)
  | 11 => rowB f (f.major % 16)
  | 12 => rowC f (f.major % 16)
  | 13 => rowD f (f.major % 16)
  | _ => none

/-- Whether a major is assigned (R313); 0xC7 is not. -/
def assigned (m : Nat) : Bool :=
  match m / 16 with
  | 0 => m % 16 < 15
  | 1 => true
  | 2 => m % 16 < 9
  | 3 => true
  | 4 => m % 16 < 8
  | 5 => m % 16 < 9
  | 6 | 7 => true
  | 8 => m % 16 < 12
  | 9 => m % 16 < 10
  | 10 => m % 16 < 9
  | 11 => m % 16 < 13
  | 12 => m % 16 < 12 && m % 16 != 7
  | 13 => m % 16 < 8
  | _ => false

/-- Why a word is not an instruction (R316). -/
inductive Reject where
  /-- An unassigned major, 0xC7 included. -/
  | unassigned
  /-- pg 13 to 15. -/
  | badGuard
  /-- A ty value, operand kind, field value or nonzero reserved bit that the major does not accept. -/
  | badField
  deriving DecidableEq, Repr

/-- Decodes an instruction word (R305, R316). NOP ignores every other bit (R314). -/
def decode (w : BitVec 64) : Except Reject Instr :=
  let f := unpack w.toNat
  if f.major = 0 then .ok .nop
  else if assigned f.major = false then .error .unassigned
  else if 12 < f.pg then .error .badGuard
  else match parse f with
    | some i => .ok i
    | none => .error .badField

/-! ### Management entries (R81 to R83) -/

/-- The little-endian value of the n bytes at an offset of an entry (R6). -/
def entryField (e : List Byte) (off n : Nat) : Nat :=
  ((e.drop off).take n).foldr (fun b acc => b.toNat + 256 * acc) 0

/-- Whether every byte of an entry outside the listed (offset, size) fields is zero (R83). -/
def entryRest (e : List Byte) (used : List (Nat × Nat)) : Bool :=
  (List.range 64).all fun i => used.any (fun u => u.1 ≤ i && i < u.1 + u.2) || e.getD i 0 == 0

/-- The head of an entry: tag, fn, ctx, and whether a byte outside the listed operands is nonzero. -/
def entryHead (e : List Byte) (used : List (Nat × Nat)) : MgmtHead :=
  { tag := entryField e 2 2, fn := entryField e 4 1, ctx := entryField e 5 1,
    extra := !entryRest e ([(0, 2), (2, 2), (4, 1), (5, 1), (6, 2)] ++ used) }

/-- The operation of a 64-byte management entry; none for an op that R82 does not list (status 1). -/
def decodeEntry (e : List Byte) : Option Instr :=
  match entryField e 0 2 with
  | 1 => some (.ctxnew (entryHead e [(8, 54)])
      { stprog := entryField e 8 8, starg := entryField e 16 8, tarea := entryField e 24 8, savea := entryField e 32 8,
        slice := entryField e 40 4, resplit := entryField e 44 4, ceil := entryField e 48 1, heatk := entryField e 49 1,
        epoch := entryField e 50 2, quota := entryField e 52 2, ncell := entryField e 54 4, svunits := entryField e 58 4 })
  | 2 => some (.ctxreset (entryHead e []))
  | 3 => some (.segset (entryHead e [(8, 1), (16, 8), (24, 8), (32, 8)]) (entryField e 8 1)
      (BitVec.ofNat 64 (entryField e 16 8)) (BitVec.ofNat 64 (entryField e 24 8)) (BitVec.ofNat 64 (entryField e 32 8)))
  | 4 => some (.weights (entryHead e [(8, 1), (9, 1)]) (entryField e 8 1) (entryField e 9 1))
  | 5 => some (.logset (entryHead e [(8, 8), (16, 1)]) (entryField e 8 8) (entryField e 16 1))
  | 6 => some (.fabread (entryHead e [(8, 1), (10, 2), (12, 1)]) (entryField e 8 1) (entryField e 10 2) (entryField e 12 1))
  | 7 =>
    let h := entryHead e [(8, 1), (10, 2), (24, 8)]
    let i := entryField e 10 2
    let v := BitVec.ofNat 64 (entryField e 24 8)
    match entryField e 8 1 with
    | 1 => some (.fabwriteLnkerr h i v)
    | 2 => some (.fabwritePairrt h i v)
    | 3 => some (.fabwriteRemreq h i v)
    | _ => some (.fabwriteLnkerr { h with extra := true } i v)
  | 8 => some (.attest (entryHead e [(16, 8), (24, 8)]) (entryField e 16 8) (entryField e 24 8))
  | 9 => some (.diefence (entryHead e [(8, 1)]) (entryField e 8 1))
  | 10 => some (.farpol (entryHead e [(8, 1)]) (entryField e 8 1))
  | 11 => some (.expgrant (entryHead e [(8, 1)]) (entryField e 8 1))
  | _ => none

/-- The instruction the decoder reads from bits numbered as the opcode table numbers them: a 64-bit word, or a 64-byte
management entry where the row is longer than a word. -/
def decodeTableWord (nbits w : Nat) : Option Instr :=
  if nbits ≤ 64 then (match decode (BitVec.ofNat 64 w) with | .ok i => some i | .error _ => none)
  else decodeEntry ((List.range 64).map fun k => BitVec.ofNat 8 (w / 2 ^ (8 * k)))

/-! ### The encoder -/

def Src.code : Src → Nat
  | .v n => n
  | .s n => 1024 + n
  | .idx k o => 2048 + 256 * k + o
  | .imm i => 3072 + (i % 512).toNat
  | .spec c => 3584 + c

def Dst.code : Dst → Nat
  | .v n => n
  | .s n => 1024 + n
  | .idx k o => 2048 + 256 * k + o

def IntTy.code : IntTy → Nat
  | .i32 => 0 | .n32 => 1 | .i64 => 2 | .n64 => 3 | .i16 => 4 | .n16 => 5 | .i8 => 6 | .n8 => 7
def FTy.code : FTy → Nat
  | .f32 => 0 | .f64 => 1 | .f16 => 2 | .bf16 => 3
def MemTy.code : MemTy → Nat
  | .b8 => 0 | .b16 => 1 | .b32 => 2 | .b64 => 3 | .b128 => 4 | .i8 => 5 | .i16 => 6
def RMode.code : RMode → Nat
  | .rn => 0 | .rz => 1 | .rd => 2 | .ru => 3 | .rna => 4
def CvtTy.code : CvtTy → Nat
  | .i8 => 0 | .i16 => 1 | .i32 => 2 | .i64 => 3 | .n8 => 4 | .n16 => 5 | .n32 => 6 | .n64 => 7 | .f16 => 8 | .bf16 => 9
  | .f32 => 10 | .f64 => 11 | .e4m3 => 12 | .e5m2 => 13 | .e3m2 => 14 | .e2m3 => 15 | .e2m1 => 16 | .e8m0 => 17
def MxElt.code : MxElt → Nat
  | .e4m3 => 0 | .e5m2 => 1 | .e3m2 => 2 | .e2m3 => 3 | .e2m1 => 4
def UnpkTy.code : UnpkTy → Nat
  | .f16 => 0 | .bf16 => 1 | .e4m3 => 2 | .e5m2 => 3 | .e3m2 => 4 | .e2m3 => 5 | .e2m1 => 6
def PackTy.code : PackTy → Nat
  | .f16 => 0 | .bf16 => 1 | .e4m3 => 2 | .e5m2 => 3
def ICc.code : ICc → Nat
  | .eq => 0 | .ne => 1 | .lt => 2 | .le => 3 | .gt => 4 | .ge => 5
def FCc.code : FCc → Nat
  | .eq => 0 | .ne => 1 | .lt => 2 | .le => 3 | .gt => 4 | .ge => 5 | .num => 6 | .nan => 7
def MoviForm.code : MoviForm → Nat
  | .b32 => 0 | .lo => 1 | .hi => 2 | .i64 => 3 | .n64 => 4
def Space.code : Space → Nat
  | .global => 0 | .scratch => 1 | .peer => 2 | .const => 3 | .stack => 4 | .cell => 5
def Order.code : Order → Nat
  | .rlx => 0 | .acq => 1 | .rel => 2 | .sc => 3 | .ar => 6
def CacheOp.code : CacheOp → Nat
  | .normal => 0 | .stream => 1 | .nolease => 2 | .last => 3
def Scope.code : Scope → Nat
  | .lane => 0 | .grp => 1 | .blk => 2 | .clu => 3 | .dev => 4 | .sys => 5
def RedOp.code : RedOp → Nat
  | .addN32 => 0 | .minI32 => 1 | .maxI32 => 2 | .minN32 => 3 | .maxN32 => 4 | .and => 5 | .or => 6 | .xor => 7
def QDiff.code : QDiff → Nat
  | .fh => 0 | .fv => 1 | .ch => 2 | .cv => 3
def DotSign.code : DotSign → Nat
  | .i8i8 => 0 | .n8n8 => 1 | .i8n8 => 2 | .n8i8 => 3
def MemopTy.code : MemopTy → Nat
  | .f32 => 0 | .f16 => 2 | .bf16 => 3
def MatTy.code : MatTy → Nat
  | .e4m3 => 0 | .e5m2 => 1 | .f16 => 2 | .bf16 => 3 | .mx8e4 => 4 | .mx8e5 => 5 | .mx6e3 => 6 | .mx6e2 => 7 | .mx4 => 8
def MmaMode.code : MmaMode → Nat
  | .acc => 0 | .ovr => 1 | .sub => 2

/-- The ty of .b32 and .b64 words, of SAR, and of the half-precision pair words. -/
def code13 (w : Bool) : Nat := if w then 3 else 1
def code02 (w : Bool) : Nat := if w then 2 else 0
def code23 (w : Bool) : Nat := if w then 3 else 2
def code01 (w : Bool) : Nat := if w then 1 else 0

/-- An A-format word. -/
def fA (m : Nat) (g : Guard) (ty d a b c : Nat) : Fields :=
  { major := m, pn := g.pn, pg := g.pg, ty := ty, d := d, a := a, b := b, c := c }

/-- An I-format word: the immediate modulo 2^24. -/
def fI (m : Nat) (g : Guard) (ty d a : Nat) (i : Int) : Fields :=
  fA m g ty d a ((i % 16777216).toNat / 4096) ((i % 16777216).toNat % 4096)

/-- An M-format word. -/
def fM (m : Nat) (g : Guard) (ty t base sp od : Nat) (off : Int) : Fields :=
  fA m g ty t base (sp * 256 + od * 16 + (off % 65536).toNat / 4096) ((off % 65536).toNat % 4096)

/-- A B-format word. -/
def fB (m : Nat) (g : Guard) (disp : Int) (hint os : Nat) : Fields :=
  fA m g 0 ((disp % 4294967296).toNat / 1048576) ((disp % 4294967296).toNat / 256 % 4096)
    ((disp % 4294967296).toNat % 256 * 16 + hint) os

/-- An L-format word. -/
def fL (m : Nat) (g : Guard) (ty d md imm : Nat) : Fields :=
  fA m g ty d (md * 256 + imm / 16777216) (imm / 4096 % 4096) (imm % 4096)

/-- An X-format word; `lo` is bits 19:0. -/
def fX (m : Nat) (g : Guard) (ty tile ver reuse asrc aos lo : Nat) : Fields :=
  fA m g ty (tile * 64 + ver / 4) (ver % 4 * 1024 + reuse * 512 + asrc * 256 + aos / 16)
    (aos % 16 * 256 + lo / 4096) (lo % 4096)

/-- A K-format word. -/
def fK (m : Nat) (g : Guard) (ty kd ka kb fn aux fp : Nat) : Fields :=
  fA m g ty (kd * 512 + ka * 64 + kb * 8) (fn * 256 + aux / 16) (aux % 16 * 256 + fp * 16) 0

/-- A C-format word with auxiliary zero. -/
def fC (m : Nat) (g : Guard) (ty rc slot mask mode : Nat) : Fields :=
  fA m g ty rc (slot * 16 + mask / 16) (mask % 16 * 256 + mode * 16) 0

def slotCode : Option Nat → Nat
  | some n => n
  | none => 255

/-- Bits 7 and up of the selectors of PPACK and PUNPACK. -/
def nib (q : List Nat) (i : Nat) : Nat := q.getD i 12
def qA (q : List Nat) : Nat := nib q 2 * 256 + nib q 1 * 16 + nib q 0
def qB (q : List Nat) : Nat := nib q 5 * 256 + nib q 4 * 16 + nib q 3
def qC (q : List Nat) : Nat := nib q 7 * 16 + nib q 6

/-- The source and operand field of an MMA's A (R413). -/
def asrcCode : ASrc → Nat
  | .regs _ => 0
  | .map _ => 1
def aosCode : ASrc → Nat
  | .regs d => d.code
  | .map s => 1024 + s

/-- The always-true guard that nimas writes into a NOP (R314). -/
def Guard.always : Guard := { pn := false, pg := 12 }

/-- The fields of an instruction word; none for the rows that are operations and events. -/
def unparse : Instr → Option Fields
  | .nop => some (fA 0 Guard.always 0 0 0 0 0)
  | .iadd g t d a b => some (fA 0x01 g t.code d.code a.code b.code 0)
  | .isub g t d a b => some (fA 0x02 g t.code d.code a.code b.code 0)
  | .iadds g t d a b => some (fA 0x03 g t.code d.code a.code b.code 0)
  | .iaddc g w d a b ci co => some (fA 0x04 g (code13 w) d.code a.code b.code (co * 16 + ci))
  | .imul g t d a b => some (fA 0x05 g t.code d.code a.code b.code 0)
  | .imulhi g t d a b => some (fA 0x06 g t.code d.code a.code b.code 0)
  | .imad g t d a b c => some (fA 0x07 g t.code d.code a.code b.code c.code)
  | .imadw g t d a b c => some (fA 0x08 g t.code d.code a.code b.code c.code)
  | .idiv g t d a b => some (fA 0x09 g t.code d.code a.code b.code 0)
  | .irem g t d a b => some (fA 0x0A g t.code d.code a.code b.code 0)
  | .imin g t d a b => some (fA 0x0B g t.code d.code a.code b.code 0)
  | .imax g t d a b => some (fA 0x0C g t.code d.code a.code b.code 0)
  | .iabs g t d a => some (fA 0x0D g t.code d.code a.code 0 0)
  | .ineg g t d a => some (fA 0x0E g t.code d.code a.code 0 0)
  | .and g w d a b => some (fA 0x10 g (code13 w) d.code a.code b.code 0)
  | .or g w d a b => some (fA 0x11 g (code13 w) d.code a.code b.code 0)
  | .xor g w d a b => some (fA 0x12 g (code13 w) d.code a.code b.code 0)
  | .andn g w d a b => some (fA 0x13 g (code13 w) d.code a.code b.code 0)
  | .not g w d a => some (fA 0x14 g (code13 w) d.code a.code 0 0)
  | .iaddImm g t d a i => some (fI 0x24 g t.code d.code a.code i)
  | .andImm g w d a i => some (fI 0x25 g (code13 w) d.code a.code i)
  | .orImm g w d a i => some (fI 0x26 g (code13 w) d.code a.code i)
  | .xorImm g w d a i => some (fI 0x27 g (code13 w) d.code a.code i)
  | .shl g w d a b => some (fA 0x15 g (code13 w) d.code a.code b.code 0)
  | .shr g w d a b => some (fA 0x16 g (code13 w) d.code a.code b.code 0)
  | .sar g w d a b => some (fA 0x17 g (code02 w) d.code a.code b.code 0)
  | .rot g w d a b => some (fA 0x18 g (code13 w) d.code a.code b.code 0)
  | .fsh g w d lo hi n => some (fA 0x19 g (code13 w) d.code lo.code hi.code n.code)
  | .popc g w d a => some (fA 0x1A g (code13 w) d.code a.code 0 0)
  | .clz g w d a => some (fA 0x1B g (code13 w) d.code a.code 0 0)
  | .ctz g w d a => some (fA 0x1C g (code13 w) d.code a.code 0 0)
  | .brev g w d a => some (fA 0x1D g (code13 w) d.code a.code 0 0)
  | .bfx g t d a c => some (fA 0x1E g t.code d.code a.code c.code 0)
  | .bfi g w d a b c => some (fA 0x1F g (code13 w) d.code a.code b.code c.code)
  | .prmt g d a b c => some (fA 0x20 g 1 d.code a.code b.code c.code)
  | .lea g t d a b c => some (fA 0x21 g t.code d.code a.code b.code c.code)
  | .icmp g t pd a b cc => some (fA 0x22 g t.code pd a.code b.code cc.code)
  | .icmpImm g t pd a cc i =>
    some (fA 0x28 g t.code pd a.code (cc.code * 512 + (i % 2097152).toNat / 4096) ((i % 2097152).toNat % 4096))
  | .sel g w d a b pc => some (fA 0x23 g (code13 w) d.code a.code b.code pc)
  | .fadd g t d a b => some (fA 0x30 g t.code d.code a.code b.code 0)
  | .fsub g t d a b => some (fA 0x31 g t.code d.code a.code b.code 0)
  | .fmul g t d a b => some (fA 0x32 g t.code d.code a.code b.code 0)
  | .ffma g t d a b c => some (fA 0x33 g t.code d.code a.code b.code c.code)
  | .ffms g t d a b c => some (fA 0x34 g t.code d.code a.code b.code c.code)
  | .fscale g t d a b => some (fA 0x46 g t.code d.code a.code b.code 0)
  | .fdiv g t d a b => some (fA 0x3D g t.code d.code a.code b.code 0)
  | .fsqrt g t d a => some (fA 0x3E g t.code d.code a.code 0 0)
  | .fmin g t d a b => some (fA 0x35 g t.code d.code a.code b.code 0)
  | .fmax g t d a b => some (fA 0x36 g t.code d.code a.code b.code 0)
  | .fminp g t d a b => some (fA 0x37 g t.code d.code a.code b.code 0)
  | .fmaxp g t d a b => some (fA 0x38 g t.code d.code a.code b.code 0)
  | .fabs g t d a => some (fA 0x39 g t.code d.code a.code 0 0)
  | .fneg g t d a => some (fA 0x3A g t.code d.code a.code 0 0)
  | .fcmp g t pd a b cc => some (fA 0x3B g t.code pd a.code b.code cc.code)
  | .fclass g t (.reg d) a => some (fA 0x3C g t.code d.code a.code 0 0)
  | .fclass g t (.pred pd m) a => some (fA 0x3C g t.code pd a.code m.code 1)
  | .frcp g d a => some (fA 0x3F g 0 d.code a.code 0 0)
  | .frsq g d a => some (fA 0x40 g 0 d.code a.code 0 0)
  | .fexp2 g d a => some (fA 0x41 g 0 d.code a.code 0 0)
  | .flog2 g d a => some (fA 0x42 g 0 d.code a.code 0 0)
  | .fsin g d a => some (fA 0x43 g 0 d.code a.code 0 0)
  | .fcos g d a => some (fA 0x44 g 0 d.code a.code 0 0)
  | .ftanh g d a => some (fA 0x45 g 0 d.code a.code 0 0)
  | .frnd g t d a m => some (fA 0x47 g t.code d.code a.code 0 m.code)
  | .cvt g m ns dt st d a => some (fA 0x50 g m.code d.code a.code (code01 ns * 1024 + st.code * 32 + dt.code) 0)
  | .pack g e d a b ns h => some (fA 0x51 g e.code d.code a.code b.code (code01 ns * 2 + code01 h))
  | .unpk g e d a q => some (fA 0x52 g e.code d.code a.code 0 q)
  | .mxscale g e d a => some (fA 0x53 g e.code d.code a.code 0 0)
  | .mxq g e d a sc ns => some (fA 0x54 g e.code d.code a.code sc.code (code01 ns))
  | .mxdq g e d a sc => some (fA 0x55 g e.code d.code a.code sc.code 0)
  | .hfma2 g bf d a b c => some (fA 0x56 g (code23 bf) d.code a.code b.code c.code)
  | .idot4 g sg sat d a b c => some (fA 0x57 g (code01 sat * 4 + sg.code) d.code a.code b.code c.code)
  | .fdot2 g bf d a b c => some (fA 0x58 g (code23 bf) d.code a.code b.code c.code)
  | .plop g pd pa pb pc lut => some (fA 0x60 g 0 pd pa pb (lut * 16 + pc))
  | .ppack g d q => some (fA 0x61 g 0 d.code (qA q) (qB q) (qC q))
  | .punpack g a q => some (fA 0x61 g 1 a.code (qA q) (qB q) (qC q))
  | .pmov g pd ps => some (fA 0x62 g 0 pd ps 0 0)
  | .pmovBit g pd a b => some (fA 0x62 g 1 pd a.code b.code 0)
  | .mov g w d a => some (fA 0x63 g (code13 w) d.code a.code 0 0)
  | .movToIndex g k a => some (fA 0x63 g 4 k a.code 0 0)
  | .movFromIndex g d k => some (fA 0x63 g 5 d.code k 0 0)
  | .movi g d m i => some (fL 0x64 g 0 d.code m.code i)
  | .bcast g vd sa n => some (fA 0x65 g 1 vd (1024 + sa) (3072 + n) 0)
  | .lanerd g w sd va ln => some (fA 0x66 g (code01 w) (1024 + sd) va.code ln.code 0)
  | .lanewr g w vd a ln => some (fA 0x66 g (code01 w + 2) vd a.code ln.code 0)
  | .setxw g k lo hi => some (fA 0x67 g 0 k lo.code hi.code 0)
  | .qswz g w d a p => some (fA 0x68 g (code01 w) d.code a.code p.code 0)
  | .qdiff g m d a => some (fA 0x69 g m.code d.code a.code 0 0)
  | .shflPick g w d a b pc sn => some (fA 0x6A g (code01 w * 4 + 0) d.code a.code b.code (sn * 16 + pc))
  | .shflRot g w d a b pc sn => some (fA 0x6A g (code01 w * 4 + 1) d.code a.code b.code (sn * 16 + pc))
  | .shflSlide g w d a b pc sn => some (fA 0x6A g (code01 w * 4 + 2) d.code a.code b.code (sn * 16 + pc))
  | .shflFlip g w d a b pc sn => some (fA 0x6A g (code01 w * 4 + 3) d.code a.code b.code (sn * 16 + pc))
  | .voteMask g d ps m pc => some (fA 0x6B g 0 d.code ps m.code pc)
  | .voteCount g d ps m pc => some (fA 0x6B g 1 d.code ps m.code pc)
  | .voteLead g d ps m pc => some (fA 0x6B g 2 d.code ps m.code pc)
  | .voteAgree g d ps m pc => some (fA 0x6B g 3 d.code ps m.code pc)
  | .matchLead g w d a m pc => some (fA 0x6C g (code01 w) d.code a.code m.code pc)
  | .matchMask g w d a m pc => some (fA 0x6C g (code01 w + 2) d.code a.code m.code pc)
  | .redux g op d a m pc => some (fA 0x6D g op.code d.code a.code m.code pc)
  | .scan g op d a m sg => some (fA 0x6E g op.code d.code a.code m.code sg.code)
  | .join g m => some (fA 0x6F g 0 0 m.code 0 0)
  | .ld g t d sp base o c off => some (fM 0x70 g t.code d.code base.code sp.code (c.code * 4 + o.code) off)
  | .st g t a sp base o off => some (fM 0x71 g t.code a.code base.code sp.code o.code off)
  | .ldc g r sd sp base o c off => some (fM 0x72 g r (1024 + sd) base.code sp.code (c.code * 4 + o.code) off)
  | .pref g sp base c off => some (fM 0x73 g 0 0 base.code sp.code (c.code * 4) off)
  | .cctlDrop g sp base off => some (fM 0x79 g 0 0 base.code sp.code 0 off)
  | .cctlDrop4k g sp base off => some (fM 0x79 g 1 0 base.code sp.code 0 off)
  | .cctlRenew g sp base off => some (fM 0x79 g 2 0 base.code sp.code 0 off)
  | .xclr g base rel off => some (fM 0x74 g 0 0 base.code 5 (code01 rel * 2) off)
  | .memopFill g r sl => some (fC 0x75 g 0 (1024 + r) sl 0 0)
  | .memopAxpy g t r sl => some (fC 0x75 g t.code (1024 + r) sl 0 1)
  | .memopAdd g t r sl => some (fC 0x75 g t.code (1024 + r) sl 0 2)
  | .memopMul g t r sl => some (fC 0x75 g t.code (1024 + r) sl 0 3)
  | .memopReduce g w r sl => some (fC 0x75 g (code01 w) (1024 + r) sl 0 4)
  | .fence g sc o => some (fM 0x76 g sc.code 0 0 0 o.code 0)
  | .flsig g sl => some (fC 0x77 g 0 0 (slotCode sl) 0 0)
  | .watch g sl base off => some (fM 0x78 g 3 sl base.code 0 0 off)
  | .atomAdd g t v sp base o off => some (fM 0x7A g t.code v base.code sp.code o.code off)
  | .atomMin g t v sp base o off => some (fM 0x7B g t.code v base.code sp.code o.code off)
  | .atomMax g t v sp base o off => some (fM 0x7C g t.code v base.code sp.code o.code off)
  | .atomAnd g t v sp base o off => some (fM 0x7D g t.code v base.code sp.code o.code off)
  | .atomOr g t v sp base o off => some (fM 0x7E g t.code v base.code sp.code o.code off)
  | .atomXor g t v sp base o off => some (fM 0x7F g t.code v base.code sp.code o.code off)
  | .atomExch g t v sp base o off => some (fM 0x80 g t.code v base.code sp.code o.code off)
  | .atomCas g t v sp base o off => some (fM 0x81 g t.code v base.code sp.code o.code off)
  | .atomFadd g w v sp base o off => some (fM 0x82 g (code01 w) v base.code sp.code o.code off)
  | .atomXadd g w v base o off => some (fM 0x83 g (code01 w) v base.code 5 o.code off)
  | .redAdd g t a sp base o off => some (fM 0x84 g t.code a.code base.code sp.code o.code off)
  | .redMin g t a sp base o off => some (fM 0x85 g t.code a.code base.code sp.code o.code off)
  | .redMax g t a sp base o off => some (fM 0x86 g t.code a.code base.code sp.code o.code off)
  | .redAnd g t a sp base o off => some (fM 0x87 g t.code a.code base.code sp.code o.code off)
  | .redOr g t a sp base o off => some (fM 0x88 g t.code a.code base.code sp.code o.code off)
  | .redXor g t a sp base o off => some (fM 0x89 g t.code a.code base.code sp.code o.code off)
  | .redFadd g w a sp base o off => some (fM 0x8A g (code01 w) a.code base.code sp.code o.code off)
  | .redXadd g w a base o off => some (fM 0x8B g (code01 w) a.code base.code 5 o.code off)
  | .binit g n off => some (fA 0x90 g 0 n off.code 0 0)
  | .arrive g rlx n c => some (fA 0x91 g (code01 rlx + (if c.isSome then 4 else 0)) n 0 0 (c.elim 0 Src.code))
  | .arriveAddress g rlx peer a c =>
    some (fA 0x91 g (code01 rlx + 2 + (if c.isSome then 4 else 0)) 0 a.code (if peer then 2 else 1) (c.elim 0 Src.code))
  | .expectOnce g n a => some (fA 0x92 g 0 n a.code 0 0)
  | .expectEach g n a => some (fA 0x92 g 1 n a.code 0 0)
  | .btestPa g d n => some (fA 0x93 g 0 d.code n 0 0)
  | .btestPb g d n => some (fA 0x93 g 1 d.code n 0 0)
  | .btestAll g d n => some (fA 0x93 g 2 d.code n 0 0)
  | .btestPassed g pd n t => some (fA 0x93 g 3 pd n t.code 0)
  | .binval g n => some (fA 0x94 g 0 n 0 0 0)
  | .cpy g r sl dir => some (fC 0x95 g 0 (1024 + r) sl 0 (code01 dir))
  | .cpym g r sl m spread => some (fC 0x96 g 0 (1024 + r) sl m (code01 spread * 2))
  | .cpyr g r sl => some (fC 0x97 g 0 (1024 + r) sl 0 0)
  | .cpyg g r sl dir => some (fC 0x98 g 0 (1024 + r) sl 0 (code01 dir))
  | .cpyx g sl => some (fC 0x99 g 0 0 sl 0 0)
  | .acfg g t n fi => some (fA 0xA0 g 0 t n.code fi.code 0)
  | .azero g t v sl => some (fX 0xA1 g 0 t v 0 0 0 (slotCode sl))
  | .afence g => some (fA 0xA2 g 0 0 0 0 0)
  | .mma g at_ t v r a bm m sl =>
    some (fX 0xA3 g at_.code t v (code01 r) (asrcCode a) (aosCode a) (bm * 1024 + m.code * 256 + slotCode sl))
  | .mmas g at_ t v r a bm m sl =>
    some (fX 0xA4 g (at_.code - 4) t v (code01 r) (asrcCode a) (aosCode a) (bm * 1024 + m.code * 256 + slotCode sl))
  | .ald g t v mp sl => some (fX 0xA5 g 0 t v 0 0 0 (mp * 1024 + slotCode sl))
  | .ast g t v now mp sl => some (fX 0xA6 g 0 t v (code01 now) 0 0 (mp * 1024 + slotCode sl))
  | .ard g t v now d c0 n => some (fX 0xA7 g 0 t v (code01 now) 0 d.code (c0 * 2048 + (n - 1) * 128))
  | .awr g t v a c0 n => some (fX 0xA8 g 0 t v 0 0 a.code (c0 * 2048 + (n - 1) * 128))
  | .kshape g w kd base r c => some (fK 0xB0 g (code01 w) kd r c 0 base.code 12)
  | .kshapeClr g kd => some (fK 0xB0 g 0 kd 0 0 1 0 12)
  | .kzero g kd => some (fK 0xB1 g 0 kd 0 0 0 0 12)
  | .keye g kd => some (fK 0xB2 g 0 kd 0 0 0 0 12)
  | .kadd g kd ka kb fp => some (fK 0xB3 g 0 kd ka kb 0 0 fp)
  | .kmul g kd ka kb fp => some (fK 0xB4 g 0 kd ka kb 0 0 fp)
  | .kmad g kd ka kb fp => some (fK 0xB5 g 0 kd ka kb 0 0 fp)
  | .ktrn g kd ka fp => some (fK 0xB6 g 0 kd ka 0 0 0 fp)
  | .kchol g kd ka fp => some (fK 0xB7 g 0 kd ka 0 0 0 fp)
  | .kldl g kd ka fp => some (fK 0xB8 g 0 kd ka 0 0 0 fp)
  | .klu g kd ka pv fp => some (fK 0xB9 g 0 kd ka 0 0 pv.code fp)
  | .ksolve g .lu kd ka kb pv fp => some (fK 0xBA g 0 kd ka kb 0 (pv.elim 0 Dst.code) fp)
  | .ksolve g .ldl kd ka kb _ fp => some (fK 0xBA g 0 kd ka kb 1 0 fp)
  | .ksolve g .chol kd ka kb _ fp => some (fK 0xBA g 0 kd ka kb 2 0 fp)
  | .kdet g d ka fp => some (fK 0xBB g 0 0 ka 0 0 d.code fp)
  | .kinv g kd ka fp => some (fK 0xBC g 0 kd ka 0 0 0 fp)
  | .bra g disp h => some (fB 0xC0 g disp h 0)
  | .brx g t => some (fB 0xC1 g 0 0 t.code)
  | .call g disp => some (fB 0xC2 g disp 0 0)
  | .callx g t => some (fB 0xC3 g 0 0 t.code)
  | .ret g t => some (fB 0xC4 g 0 0 t.code)
  | .exit g => some (fB 0xC5 g 0 0 0)
  | .yield g => some (fB 0xC6 g 0 0 0)
  | .launch g sd sa pd => some (fA 0xC8 g 0 (1024 + sd) (1024 + sa) pd 0)
  | .migrate g pd a => some (fA 0xC9 g 0 0 a.code pd 0)
  | .trap g c => some (fA 0xCA g 0 0 c.code 0 0)
  | .bkpt g => some (fA 0xCB g 0 0 0 0 0)
  | .srd g d n => some (fA 0xD0 g 0 d.code 0 n 0)
  | .swr g a n => some (fA 0xD1 g 0 0 a.code n 0)
  | .ctxsaveCopy g => some (fA 0xD2 g 0 0 0 0 0)
  | .ctxsaveAcc g => some (fA 0xD2 g 0 0 0 0 1)
  | .ctxsaveGrp g => some (fA 0xD2 g 0 0 0 0 2)
  | .ctxsaveBlk g => some (fA 0xD2 g 0 0 0 0 3)
  | .ctxrestBlk g => some (fA 0xD3 g 0 0 0 0 3)
  | .ctxrestGrp g => some (fA 0xD3 g 0 0 0 0 2)
  | .ctxrestAcc g => some (fA 0xD3 g 0 0 0 0 1)
  | .ctxrestCopy g => some (fA 0xD3 g 0 0 0 0 0)
  | .eret g => some (fA 0xD4 g 0 0 0 0 0)
  | .hostint g => some (fA 0xD5 g 0 0 0 0 0)
  | .pmark g a => some (fA 0xD6 g 0 0 a.code 0 0)
  | .logw g s tag => some (fA 0xD7 g 0 0 (1024 + s) 0 tag)
  | .ctxnew _ _ => none
  | .ctxreset _ => none
  | .segset _ _ _ _ _ => none
  | .weights _ _ _ => none
  | .logset _ _ _ => none
  | .fabread _ _ _ _ => none
  | .fabwriteLnkerr _ _ _ => none
  | .fabwritePairrt _ _ _ => none
  | .fabwriteRemreq _ _ _ => none
  | .attest _ _ _ => none
  | .diefence _ _ => none
  | .farpol _ _ => none
  | .expgrant _ _ => none
  | .flitReceive _ _ _ => none
  | .ackFlitTimer _ _ => none
  | .nakReplay _ _ => none
  | .replayTimeout _ _ => none
  | .pauseReceive _ _ => none
  | .ackReceive _ _ => none
  | .channelDead _ _ _ _ => none
  | .channelState _ _ => none
  | .linkChangeReport _ _ => none
  | .channelRetrainStart _ _ _ => none
  | .channelTrainingEnd _ _ _ _ => none
  | .relayedFlitForward _ => none
  | .pairdownTimeout _ _ => none
  | .laserFail _ => none
  | .laserMonitorReport _ => none
  | .standbyCommit => none
  | .standbyLightOn => none
  | .moduleRemoval _ => none
  | .moduleInsert _ => none
  | .moduleWarmDone _ => none
  | .standbyFail => none
  | .eventVectorHoldoffExpiry _ _ => none
  | .junctionThrottle _ _ => none
  | .powerP2Entry => none
  | .powerP2Exit => none
  | .homeRequestAccept _ _ => none
  | .retryResend _ _ => none
  | .heldWritePerform _ => none
  | .parityAck _ => none
  | .parityDelta _ => none
  | .writeClassDecay _ => none
  | .leaseRenewal _ => none
  | .cellOperation _ => none
  | .cellMirrorUpdate _ => none
  | .memopUnit _ => none
  | .granuleRelease _ _ => none
  | .heatSample _ => none
  | .heatEpoch _ => none
  | .dramScrub _ _ _ => none
  | .memoryDieFailure _ => none
  | .hostLinkChange _ _ _ => none
  | .hostMemoryAccess _ => none
  | .uioCompletion => none
  | .functionLevelReset _ => none
  | .flrdone _ => none
  | .computeDieFatal _ => none
  | .sramue _ => none
  | .deviceReset _ => none
  | .alarm _ _ => none
  | .loglost _ => none
  | .missRecord => none
  | .missRecordResend _ _ => none
  | .pageWalkDone _ => none
  | .fillInstall _ => none
  | .faultReady _ => none
  | .faultFinal _ _ => none
  | .tlbInvalidation _ _ => none
  | .pendingReply => none
  | .wakeReplay => none
  | .finalReply => none
  | .hostFaultTimeout => none
  | .migration _ _ _ _ => none
  | .launchReply => none
  | .blockPlace _ _ => none
  | .resplitTimeout _ _ => none
  | .drainTimeout _ => none
  | .sliceExpiry _ _ => none
  | .backgroundPromote _ => none
  | .preemptRequest _ => none
  | .blockRestore _ _ => none
  | .blockRetire _ => none
  | .taskComplete _ => none
  | .issueSelect _ _ => none
  | .loadComplete _ _ => none
  | .branchResolve _ _ => none
  | .renewalReply _ => none
  | .storeAck _ => none
  | .freightRevoke _ => none
  | .freightClosed _ => none
  | .freightReopen _ => none
  | .joinWaitSatisfied _ => none
  | .arrivalApply => none
  | .watchFire => none
  | .copyUnitDeliver _ _ _ => none
  | .copyAdmit _ => none
  | .mmaChunkEnd _ => none
  | .mmaComplete _ => none
  | .mmaResume _ => none
  | .tileWordComplete _ => none
  | .kwordComplete _ => none
  | .trapEntry _ => none
  | .debugStop _ _ => none
  | .stopRecord _ => none
  | .debugResume _ => none
  | .debugIdentify => none
  | .debugChallenge => none
  | .debugUnlock _ _ _ => none
  | .dbgcmpWrite _ _ _ => none
  | .sampleTick _ _ => none
  | .lcrFlush => none
  | .logbookConfigRead _ => none
  | .registerWrite _ _ => none
  | .moduleOut _ => none
  | .powerLoss => none
  | .msixTableWrite _ _ _ => none
  | .migrateShippingDone _ => none

/-- The word of an instruction, if it is an instruction word. -/
def encode (i : Instr) : Option (BitVec 64) := (unparse i).map fun f => BitVec.ofNat 64 (pack f)

end Sys2Proof
end

