-- ==== Sys2Proof/Machine/Ports.lean ====
section
/-! DEFINITION. Machine/Ports.lean: which registers and predicates each instruction word reads and writes. The count and
pair checks of R182 and R186, the index check of R183, the scoreboard of R163 and the pair rules of R315 all read
this one table. -/

namespace Sys2Proof

/-- Whether an integer type is 64 bits wide. -/
def IntTy.is64 : IntTy → Bool
  | .i64 | .n64 => true | _ => false
def FTy.is64 : FTy → Bool
  | .f64 => true | _ => false
def CvtTy.is64 : CvtTy → Bool
  | .i64 | .n64 | .f64 => true | _ => false

end Sys2Proof

namespace Sys2Proof.Machine

/-- An operand and the run of registers it stands for: `n` consecutive registers, even-aligned when `even`. -/
structure Run where
  op : Src
  n : Nat
  even : Bool
  deriving DecidableEq, Repr

/-- The registers and predicates of a word. -/
structure Uses where
  rd : List Run
  wr : List Run
  prd : List Nat
  pwr : List Nat
  /-- A v source may stand with an s destination (R186: REDUX, VOTE, LANERD, CVT). -/
  vToS : Bool
  deriving DecidableEq, Repr

def Dst.src : Dst → Src
  | .v n => .v n
  | .s n => .s n
  | .idx k o => .idx k o

/-- The second register of the pair that an operand names. -/
def Src.second : Src → Src
  | .v n => .v (n + 1)
  | .s n => .s (n + 1)
  | .idx k o => .idx k (o + 1)
  | a => a

/-- A single register, a pair when wide. -/
def one (a : Src) : Run := { op := a, n := 1, even := false }
def wd (w : Bool) (a : Src) : Run := { op := a, n := if w then 2 else 1, even := w }
def dwd (w : Bool) (d : Dst) : Run := wd w (Dst.src d)
def run (a : Src) (n : Nat) : Run := { op := a, n := n, even := false }

/-- The predicates named by a field whose code 12 and above name none. -/
def preds (l : List Nat) : List Nat := l.filter (· < 12)

def uses (rd wr : List Run) : Uses := { rd := rd, wr := wr, prd := [], pwr := [], vToS := false }

/-- The registers of a memory data operand. -/
def memRegs : MemTy → Nat
  | .b64 => 2 | .b128 => 4 | _ => 1
def memRun (t : MemTy) (a : Src) : Run := { op := a, n := memRegs t, even := memRegs t == 2 }

/-- The base of an M-format word (R385): a pair on space 0, a register elsewhere. -/
def baseRun (sp : Space) (a : Src) : Run := wd (sp == .global) a

/-- Width of an ATOM or RED operand, as wide or not. -/
def atomUses (w : Bool) (v : Nat) (sp : Space) (base : Src) (cas : Bool) : Uses :=
  let n := (if w then 2 else 1) * (if cas then 2 else 1)
  uses [{ op := .v v, n := n, even := w }, baseRun sp base] [wd w (.v v)]

/-- The first s register of a record of n registers. -/
def rec_ (r n : Nat) : Run := run (.s r) n

def nRuns : Option Src → List Run
  | none => []
  | some a => [one a]

/-- Registers of the A run of an MMA or MMAS (R258): elements, then one register of scales; for .mx4 the shorter run,
which K = 64 needs. -/
def aRegs : MatTy → Nat
  | .e4m3 | .e5m2 | .f16 | .bf16 => 16
  | .mx8e4 | .mx8e5 => 17
  | .mx6e3 | .mx6e2 => 13
  | .mx4 => 9

/-- A registers of an MMAS A: .mx4 with a B that is not .mx4 has K = 64, 8 registers and a scale (R258). -/
def aRegsK (at_ : MatTy) (b4 : Bool) : Nat :=
  match at_ with
  | .mx4 => if b4 then 17 else 9
  | t => aRegs t

def mmaUses (n : Nat) (a : ASrc) (bmap : Nat) : Uses :=
  match a with
  | .regs d => uses [run (Dst.src d) n, rec_ bmap 4] []
  | .map s => uses [rec_ s 4, rec_ bmap 4] []

/-- What an instruction word reads and writes; operations and events use no register. The guard predicate is read by
every word (R306) and is added by `Uses.guard`. -/
def usesOf : Instr → Uses
  | .iadd _ t d a b | .isub _ t d a b | .iadds _ t d a b | .imul _ t d a b | .imulhi _ t d a b | .idiv _ t d a b
  | .irem _ t d a b | .imin _ t d a b | .imax _ t d a b => uses [wd t.is64 a, wd t.is64 b] [dwd t.is64 d]
  | .iaddc _ w d a b ci co => { uses [wd w a, wd w b] [dwd w d] with prd := preds [ci], pwr := preds [co] }
  | .imad _ t d a b c => uses [wd t.is64 a, wd t.is64 b, wd t.is64 c] [dwd t.is64 d]
  | .imadw _ _ d a b c => uses [one a, one b, wd true c] [dwd true d]
  | .iabs _ t d a | .ineg _ t d a => uses [wd t.is64 a] [dwd t.is64 d]
  | .and _ w d a b | .or _ w d a b | .xor _ w d a b | .andn _ w d a b => uses [wd w a, wd w b] [dwd w d]
  | .not _ w d a => uses [wd w a] [dwd w d]
  | .iaddImm _ t d a _ => uses [wd t.is64 a] [dwd t.is64 d]
  | .andImm _ w d a _ | .orImm _ w d a _ | .xorImm _ w d a _ => uses [wd w a] [dwd w d]
  | .shl _ w d a b | .shr _ w d a b | .sar _ w d a b | .rot _ w d a b => uses [wd w a, wd w b] [dwd w d]
  | .fsh _ w d a b c => uses [wd w a, wd w b, wd w c] [dwd w d]
  | .popc _ w d a | .clz _ w d a | .ctz _ w d a => uses [wd w a] [one (Dst.src d)]
  | .brev _ w d a => uses [wd w a] [dwd w d]
  | .bfx _ t d a c => uses [wd t.is64 a, wd t.is64 c] [dwd t.is64 d]
  | .bfi _ w d a b c => uses [wd w a, wd w b, wd w c] [dwd w d]
  | .prmt _ d a b c => uses [one a, one b, one c] [one (Dst.src d)]
  | .lea _ _ d a b c => uses [wd true a, one b, one c] [dwd true d]
  | .icmp _ t pd a b _ => { uses [wd t.is64 a, wd t.is64 b] [] with pwr := [pd] }
  | .icmpImm _ t pd a _ _ => { uses [wd t.is64 a] [] with pwr := [pd] }
  | .sel _ w d a b pc => { uses [wd w a, wd w b] [dwd w d] with prd := [pc] }
  | .fadd _ t d a b | .fsub _ t d a b | .fmul _ t d a b | .fdiv _ t d a b | .fmin _ t d a b | .fmax _ t d a b
  | .fminp _ t d a b | .fmaxp _ t d a b => uses [wd t.is64 a, wd t.is64 b] [dwd t.is64 d]
  | .ffma _ t d a b c | .ffms _ t d a b c => uses [wd t.is64 a, wd t.is64 b, wd t.is64 c] [dwd t.is64 d]
  | .fscale _ t d a n => uses [wd t.is64 a, one n] [dwd t.is64 d]
  | .fsqrt _ t d a | .fabs _ t d a | .fneg _ t d a | .frnd _ t d a _ => uses [wd t.is64 a] [dwd t.is64 d]
  | .fcmp _ t pd a b _ => { uses [wd t.is64 a, wd t.is64 b] [] with pwr := [pd] }
  | .fclass _ t (.reg d) a => uses [wd t.is64 a] [one (Dst.src d)]
  | .fclass _ t (.pred pd m) a => { uses [wd t.is64 a, one m] [] with pwr := [pd] }
  | .frcp _ d a | .frsq _ d a | .fexp2 _ d a | .flog2 _ d a | .fsin _ d a | .fcos _ d a | .ftanh _ d a =>
    uses [one a] [one (Dst.src d)]
  | .cvt _ _ _ dt st d a => { uses [wd st.is64 a] [dwd dt.is64 d] with vToS := true }
  | .pack _ e d a b _ _ =>
    uses ([one a, one b] ++ (match e with | .e4m3 | .e5m2 => [one (Dst.src d)] | _ => [])) [one (Dst.src d)]
  | .unpk _ _ d a _ | .mxscale _ _ d a => uses [one a] [one (Dst.src d)]
  | .mxq _ _ d a b _ | .mxdq _ _ d a b => uses [one a, one b] [one (Dst.src d)]
  | .hfma2 _ _ d a b c | .idot4 _ _ _ d a b c | .fdot2 _ _ d a b c => uses [one a, one b, one c] [one (Dst.src d)]
  | .plop _ pd pa pb pc _ => { uses [] [] with prd := preds [pa, pb, pc], pwr := [pd] }
  | .ppack _ d q => { uses [] [one (Dst.src d)] with prd := preds q }
  | .punpack _ a q => { uses [one a] [] with pwr := preds q }
  | .pmov _ pd ps => { uses [] [] with prd := preds [ps], pwr := [pd] }
  | .pmovBit _ pd a b => { uses [one a, one b] [] with pwr := [pd] }
  | .mov _ w d a => uses [wd w a] [dwd w d]
  | .movToIndex _ _ a => uses [one a] []
  | .movFromIndex _ d _ => uses [] [one (Dst.src d)]
  | .movi _ d m _ =>
    match m with
    | .b32 => uses [] [one (Dst.src d)]
    | .lo => uses [{ op := Src.second (Dst.src d), n := 1, even := false }] [{ op := Dst.src d, n := 1, even := true }]
    | .hi => uses [{ op := Dst.src d, n := 1, even := true }] [{ op := Src.second (Dst.src d), n := 1, even := false }]
    | .i64 | .n64 => uses [] [dwd true d]
  | .bcast _ vd sa n => uses [run (.s sa) n] [run (.v vd) n]
  | .lanerd _ w sd va ln => { uses [wd w va, one ln] [wd w (.s sd)] with vToS := true }
  | .lanewr _ w vd a ln => uses [wd w a, one ln] [wd w (.v vd)]
  | .setxw _ _ lo hi => uses [one lo, one hi] []
  | .qswz _ w d a p => uses [wd w a, one p] [dwd w d]
  | .qdiff _ _ d a => uses [one a] [one (Dst.src d)]
  | .shflPick _ w d a b pc _ | .shflRot _ w d a b pc _ | .shflSlide _ w d a b pc _ | .shflFlip _ w d a b pc _ =>
    { uses [wd w a, one b] [dwd w d] with pwr := preds [pc] }
  | .voteMask _ d ps m pc | .voteCount _ d ps m pc | .voteLead _ d ps m pc | .voteAgree _ d ps m pc =>
    { uses [one m] [one (Dst.src d)] with prd := preds [ps], pwr := preds [pc], vToS := true }
  | .matchLead _ w d a m pc | .matchMask _ w d a m pc =>
    { uses [wd w a, one m] [one (Dst.src d)] with pwr := preds [pc] }
  | .redux _ _ d a m pc => { uses [one a, one m] [one (Dst.src d)] with pwr := preds [pc], vToS := true }
  | .scan _ _ d a m sg => uses [one a, one m, one sg] [one (Dst.src d)]
  | .join _ m => uses [one m] []
  | .ld _ t d sp base _ _ _ => uses [baseRun sp base] [memRun t (Dst.src d)]
  | .st _ t a sp base _ _ => uses [memRun t a, baseRun sp base] []
  | .ldc _ r sd sp base _ _ _ => uses [baseRun sp base] [run (.s sd) (2 ^ r)]
  | .pref _ sp base _ _ | .cctlDrop _ sp base _ | .cctlDrop4k _ sp base _ | .cctlRenew _ sp base _ =>
    uses [baseRun sp base] []
  | .xclr _ base _ _ => uses [one base] []
  | .memopFill _ r _ => uses [rec_ r 8] []
  | .memopAxpy _ _ r _ | .memopAdd _ _ r _ | .memopMul _ _ r _ => uses [rec_ r 8] []
  | .memopReduce _ _ r _ => uses [rec_ r 8] []
  | .watch _ _ base _ => uses [baseRun .global base] []
  | .atomAdd _ t v sp base _ _ | .atomMin _ t v sp base _ _ | .atomMax _ t v sp base _ _ | .atomAnd _ t v sp base _ _
  | .atomOr _ t v sp base _ _ | .atomXor _ t v sp base _ _ | .atomExch _ t v sp base _ _ =>
    atomUses t.is64 v sp base false
  | .atomCas _ t v sp base _ _ => atomUses t.is64 v sp base true
  | .atomFadd _ w v sp base _ _ => atomUses w v sp base false
  | .atomXadd _ w v base _ _ => atomUses w v .cell base false
  | .redAdd _ t a sp base _ _ | .redMin _ t a sp base _ _ | .redMax _ t a sp base _ _ | .redAnd _ t a sp base _ _
  | .redOr _ t a sp base _ _ | .redXor _ t a sp base _ _ => uses [wd t.is64 a, baseRun sp base] []
  | .redFadd _ w a sp base _ _ => uses [wd w a, baseRun sp base] []
  | .redXadd _ w a base _ _ => uses [wd w a, one base] []
  | .binit _ _ off => uses [one off] []
  | .arrive _ _ _ n => uses (nRuns n) []
  | .arriveAddress _ _ _ a n => uses (one a :: nRuns n) []
  | .expectOnce _ _ a | .expectEach _ _ a => uses [one a] []
  | .btestPa _ d _ | .btestPb _ d _ => uses [] [one (Dst.src d)]
  | .btestAll _ d _ => uses [] [dwd true d]
  | .btestPassed _ pd _ t => { uses [one t] [] with pwr := [pd] }
  | .cpy _ r _ _ | .cpym _ r _ _ _ | .cpyr _ r _ | .cpyg _ r _ _ => uses [rec_ r 8] []
  | .acfg _ _ n f => uses [one n, one f] []
  | .mma _ at_ _ _ _ a bm _ _ => mmaUses (aRegs at_) a bm
  | .mmas _ at_ _ _ _ a bm _ _ => mmaUses (aRegs at_) a bm
  | .ald _ _ _ mp _ | .ast _ _ _ _ mp _ => uses [rec_ mp 4] []
  | .ard _ _ _ _ d _ n => uses [] [run (Dst.src d) n]
  | .awr _ _ _ a _ n => uses [run (Dst.src a) n] []
  | .kshape _ _ _ base _ _ => uses [one base] []
  | .kadd _ _ _ _ fp | .kmul _ _ _ _ fp | .kmad _ _ _ _ fp => { uses [] [] with pwr := preds [fp] }
  | .ktrn _ _ _ fp | .kchol _ _ _ fp | .kldl _ _ _ fp | .kinv _ _ _ fp => { uses [] [] with pwr := preds [fp] }
  | .klu _ _ _ pv fp => { uses [] [one (Dst.src pv)] with pwr := preds [fp] }
  | .ksolve _ _ _ _ _ pv fp =>
    { uses (match pv with | some d => [one (Dst.src d)] | none => []) [] with pwr := preds [fp] }
  | .kdet _ d _ fp => { uses [] [one (Dst.src d)] with pwr := preds [fp] }
  | .brx _ t | .callx _ t | .ret _ t => uses [dwd true t] []
  | .call _ _ => uses [] [wd true (.v 30)]
  | .launch _ sd sa pd => { uses [wd true (.s sa)] [one (.s sd)] with pwr := [pd] }
  | .migrate _ pd a => { uses [one a] [] with pwr := [pd] }
  | .trap _ c => uses [one c] []
  | .pmark _ a => uses [one a] []
  | .logw _ s _ => uses [rec_ s 4] []
  | _ => uses [] []

/-- The system registers that are 64 bits wide, and those assigned, by number (R187). -/
def sysWide (n : Nat) : Bool :=
  n ∈ [0x000, 0x001, 0x004, 0x006, 0x00C, 0x00D, 0x010, 0x011] || (0x100 ≤ n && n < 0x118)

/-- Registers of a word, with the ones whose width depends on more than the table above: SRD, SWR and CALLX. -/
def usesAll : Instr → Uses
  | .srd _ d n => uses [] [dwd (sysWide n) d]
  | .swr _ a n => uses [wd (sysWide n) a] []
  | .callx _ t => uses [dwd true t] [wd true (.v 30)]
  | i => usesOf i

/-- The v register an operand names directly. -/
def Run.vNum (r : Run) : Option Nat := match r.op with | .v n => some n | _ => none
def Run.isV (r : Run) : Bool := match r.op with | .v _ => true | .idx _ _ => true | _ => false
def Run.isS (r : Run) : Bool := match r.op with | .s _ => true | _ => false
def Run.isIdx (r : Run) : Bool := match r.op with | .idx _ _ => true | _ => false

/-- A direct operand lies below the launch's counts, and a pair is even (R182). -/
def Run.ok (vcount scount : Nat) (r : Run) : Bool :=
  match r.op with
  | .v n => decide (n + r.n ≤ vcount) && (!r.even || n % 2 == 0)
  | .s n => decide (n + r.n ≤ scount) && (!r.even || n % 2 == 0)
  | _ => true

/-- The checks of R182 and R186 on the operands of a word. -/
def Uses.ok (vcount scount : Nat) (u : Uses) : Bool :=
  u.rd.all (Run.ok vcount scount) && u.wr.all (Run.ok vcount scount)
    && (u.vToS || !(u.wr.any Run.isS && u.rd.any Run.isV))

end Sys2Proof.Machine
end

