-- ==== Sys2Proof/Machine/Ops.lean ====
section
/-! DEFINITION. Machine/Ops.lean: the named operations every meaning is written over: groups, registers, the split table,
switching lanes off, squashing, raising a cause, taking a trap and returning from one (R152 to R159, R180 to R189,
R305, R306, R316, R352, R357, R431 to R433). -/

namespace Sys2Proof.Machine

/-! ### Groups, blocks and cores -/

def State.group? (s : State) (gid : Nat) : Option Group := SMap.find? s.groups gid
def State.block? (s : State) (bid : Nat) : Option Block := SMap.find? s.blocks bid
def State.core (s : State) (c : Nat) : Core := SMap.get Core.reset s.cores c
def State.setGroup (s : State) (gid : Nat) (g : Group) : State := { s with groups := SMap.put s.groups gid g }
def State.setBlock (s : State) (bid : Nat) (b : Block) : State := { s with blocks := SMap.put s.blocks bid b }
def State.setCore (s : State) (c : Nat) (k : Core) : State := { s with cores := SMap.set Core.reset s.cores c k }
def State.modGroup (s : State) (gid : Nat) (f : Group → Group) : State :=
  { s with groups := SMap.modify s.groups gid f }
def State.modBlock (s : State) (bid : Nat) (f : Block → Block) : State :=
  { s with blocks := SMap.modify s.blocks bid f }
def State.modCore (s : State) (c : Nat) (f : Core → Core) : State := s.setCore c (f (s.core c))

/-- The core where a group runs: its landing core while landed (R176, R177). -/
def Group.coreOf (g : Group) (b : Block) : Nat :=
  match g.landed with
  | some (c, _) => c
  | none => b.core

/-- The virtual core of a physical core (R4). -/
def State.vcore (s : State) (c : Nat) : Nat := SMap.get c s.box.vmap c

/-- The block whose scratchpad and slots a group uses: the block at whose rank it landed, else its own (R177, R230). -/
def State.hostBlock (s : State) (g : Group) (b : Block) : Nat :=
  match g.landed with
  | none => g.bid
  | some (c, _) => ((b.cluster.find? fun k => (s.block? k).any (·.core == c)).getD g.bid)

/-! ### Registers -/

def Group.vreg (g : Group) (r l : Nat) : BitVec 32 := SMap.get 0 g.v (32 * r + l)
def Group.setV (g : Group) (r l : Nat) (x : BitVec 32) : Group := { g with v := SMap.set 0 g.v (32 * r + l) x }
def Group.sreg (g : Group) (r : Nat) : BitVec 32 := SMap.get 0 g.s r
def Group.setS (g : Group) (r : Nat) (x : BitVec 32) : Group := { g with s := SMap.set 0 g.s r x }
def Group.predMask (g : Group) (i : Nat) : BitVec 32 := SMap.get 0 g.p i
def Group.setPredMask (g : Group) (i : Nat) (m : BitVec 32) : Group := { g with p := SMap.set 0 g.p i m }
/-- Predicate i of lane l; codes 12 and above read true (R344). -/
def Group.pred (g : Group) (i l : Nat) : Bool := if i < 12 then lane (g.predMask i) l else true
/-- Writes predicate i in the lanes of a mask. -/
def Group.setPreds (g : Group) (i : Nat) (ls vals : BitVec 32) : Group :=
  if i < 12 then g.setPredMask i ((g.predMask i &&& ~~~ls) ||| (vals &&& ls)) else g
def Group.setPred (g : Group) (i l : Nat) (b : Bool) : Group := g.setPreds i (bit l) (if b then bit l else 0)
def Group.xreg (g : Group) (k l : Nat) : BitVec 16 := SMap.get 0 g.x (32 * k + l)
def Group.setX (g : Group) (k l : Nat) (x : BitVec 16) : Group := { g with x := SMap.set 0 g.x (32 * k + l) x }
def Group.fst (g : Group) (l : Nat) : BitVec 32 := SMap.get 0 g.fstat l
def Group.setFst (g : Group) (l : Nat) (x : BitVec 32) : Group := { g with fstat := SMap.set 0 g.fstat l x }
/-- ORs flags into FSTAT of a lane (R190, R365). -/
def Group.orFlags (g : Group) (l : Nat) (f : BitVec 5) : Group := g.setFst l (g.fst l ||| f.setWidth 32)
def Group.kst (g : Group) (l : Nat) : BitVec 32 := SMap.get 0 g.kstat l
def Group.setKst (g : Group) (l : Nat) (x : BitVec 32) : Group := { g with kstat := SMap.set 0 g.kstat l x }
def Group.win (g : Group) (k : Nat) : BitVec 32 := g.xwin.getD k 0

/-- Lanes that stand in the split table. -/
def Group.live (g : Group) : BitVec 32 := g.entries.foldl (fun m e => m ||| e.mask) 0

/-- TVEC names a handler (R196). -/
def Group.hasHandler (g : Group) : Bool := bits g.tvec.toNat 3 53 != 0
def Group.handler (g : Group) : Nat := bits g.tvec.toNat 3 53 * 8

/-! ### The guard (R305, R306) -/

/-- pred(l) of R306. -/
def Group.guardAt (g : Group) (q : Guard) (l : Nat) : Bool :=
  if q.pg = 12 then !q.pn else (lane (g.predMask q.pg) l != q.pn)

/-- The active set of a word with a guard, issued for a mask of lanes. -/
def Group.active (g : Group) (q : Guard) (m : BitVec 32) : BitVec 32 :=
  if q.pg = 12 then (if q.pn then 0 else m) else if q.pn then m &&& ~~~(g.predMask q.pg) else m &&& g.predMask q.pg

/-! ### The split table (R153 to R159) -/

def Entry.at (clause word : Nat) (mask : BitVec 32) (parent : Nat) : Entry :=
  { clause := clause, word := word, mask := mask, parent := parent, spec := false, origin := (0, 0), idle := 0,
    code := none, waited := false }

/-- The VA of the next clause header. -/
def Entry.next (e : Entry) : Nat := e.clause + 8 * (e.code.getD []).length

/-- The number of words of the clause an entry stands in. -/
def Entry.words (e : Entry) : Nat := (e.code.getD []).length - 1

/-- The lowest free identifier (R155). -/
def Group.freeIdent (g : Group) : Nat := (SMap.freeKey g.up 1 31).getD 31

/-- Some identifier is free. Branches that speculate to one side hold identifiers beyond those of R159: while they hold all of them, a
branch that needs one waits for their resolution. DEDUCED, safe: log entry 135. -/
def Group.identFree (g : Group) : Bool := (SMap.freeKey g.up 1 31).isSome

/-- An identifier that can be given back: with at most one entry, not speculative, and no live child (R154, R156). -/
def Group.bareIdent (g : Group) : Option Nat :=
  ((SMap.entries g.up).map (·.1)).find? fun n =>
    let mine := g.entries.filter (·.parent == n)
    !(SMap.entries g.up).any (fun u => u.2 == n) && decide (mine.length ≤ 1) && mine.all (!·.spec)

/-- The one entry of an identifier takes the enclosing one; with no entry left it is freed (R154, R156). -/
def Group.dropIdent (g : Group) (n : Nat) : Group :=
  let p := (SMap.find? g.up n).getD 0
  { g with entries := g.entries.map (fun e => if e.parent == n then { e with parent := p } else e), up := SMap.del g.up n }
def Group.collapseOnce (g : Group) : Group :=
  match g.bareIdent with
  | none => g
  | some n => g.dropIdent n

/-- R156's rule applied until it no longer holds (at most 32 identifiers are live). -/
def Group.collapse (g : Group) : Group := (List.range 32).foldl (fun h _ => h.collapseOnce) g

/-- Fuses entry i, which has reached word 0 of its clause, with every other non-speculative entry that stands there with
the same parent (R156), or whatever its parent when `conv` (R157). The fused entry takes the lowest index. DEDUCED, unsafe: log entry 22. -/
def Group.fuseAt (g : Group) (i : Nat) (conv : Bool) : Group :=
  match g.entries[i]? with
  | none => g
  | some e =>
    if e.spec || e.word != 0 then g
    else
      let same (f : Entry) := !f.spec && f.word == 0 && f.clause == e.clause && (conv || f.parent == e.parent)
      let members := g.entries.filter same
      if members.length ≤ 1 then g
      else
        let m := members.foldl (fun a f => a ||| f.mask) 0
        let first := (g.entries.findIdx? same).getD i
        let lead := g.entries.getD first e
        let keep := (g.entries.zipIdx.filter fun f => !same f.1 || f.2 == first).map fun f =>
          if f.2 == first then
            { lead with mask := m, waited := members.all (·.waited), code := lead.code.or e.code, idle := 0 }
          else f.1
        ({ g with entries := keep } : Group).collapse

/-- Puts an entry in place of the entry at an index. -/
def Group.setEntry (g : Group) (i : Nat) (e : Entry) : Group := { g with entries := g.entries.set i e }

/-- Moves entry i to word 0 of a clause: it arrives there and fuses (R156). -/
def Group.moveTo (g : Group) (i target : Nat) : Group :=
  match g.entries[i]? with
  | none => g
  | some e => (g.setEntry i { e with clause := target, word := 0, code := none, waited := false }).fuseAt i false

/-- Advances entry i past one word: to the next word of its clause, or to the next header. -/
def Group.advance (g : Group) (i : Nat) : Group :=
  match g.entries[i]? with
  | none => g
  | some e => if e.word + 1 < e.words then g.setEntry i { e with word := e.word + 1 } else g.moveTo i e.next

/-- Takes lanes out of the split table, as EXIT and a switch-off do (R159, R171, R189): they become exited, entries left
with no lanes leave, and helper lanes exit with the last other lane (R170). -/
def Group.retireIn (g : Group) (ls : BitVec 32) : Group :=
  let out := ls &&& g.live
  let left := g.live &&& ~~~out
  let out := if left &&& ~~~g.helper = 0 then g.live else out
  ({ g with exited := g.exited ||| out
            entries := (g.entries.map fun e => { e with mask := e.mask &&& ~~~out }).filter (·.mask != 0) } : Group).collapse

/-- Taking lanes out, in the program's split table also while firmware runs (R436). DEDUCED, safe: log entry 57. -/
def Group.retire (g : Group) (ls : BitVec 32) : Group :=
  if g.fw then
    let h : Group := { g with entries := g.resume }
    let k := h.retireIn ls
    { k with entries := g.entries, resume := k.entries }
  else g.retireIn ls

/-- switch_off(lanes, cause) of R327 under R189. -/
def Group.switchOff (g : Group) (ls : BitVec 32) (cause : Nat) : Group :=
  if ls = 0 then g
  else
    let f := g.fmask.toNat
    let old := bits f 0 32
    let c := bits f 32 16
    let cause' := if old = 0 then cause else c
    let multi := bitAt f 48 || (old != 0 && c != cause)
    ({ g with fmask := BitVec.ofNat 64 ((old ||| ls.toNat) + cause' * 2 ^ 32 + (if multi then 2 ^ 48 else 0)) }
      : Group).retire ls

/-! ### Squashing (R169, R180, R212) -/

/-- Restores lanes of the v registers, predicates and FSTAT from shadow copies; a shadow restores only its own lanes. -/
def Group.unshadow (g : Group) (ls : BitVec 32) (shs : List Shadow) (fs : List (BitVec 32)) : Group :=
  let one (g : Group) (sh : Shadow) : Group :=
    let m := ls &&& sh.lanes
    let g1 := sh.vs.foldl (fun h x => (lanes m).foldl (fun k l => k.setV x.1 l (x.2.getD l 0)) h) g
    match sh.ps with
    | none => g1
    | some p => (List.range 12).foldl (fun h i => h.setPreds i m (p.getD i 0)) g1
  (lanes ls).foldl (fun h l => h.setFst l (fs.getD l 0)) (shs.foldl one g)

/-- Shadow slots in use (R152, R168, R212). -/
def Shadow.slots (sh : Shadow) : Nat := sh.vs.length + (if sh.ps.isSome then 1 else 0)
def Group.shadowSlots (g : Group) : Nat :=
  (g.specs.map fun sp => (sp.shadows.map Shadow.slots).sum).sum + ((g.lineSpec.map fun l => l.shadow.slots).getD 0)

/-- Adds copies of registers not yet copied. -/
def Shadow.cover (g : Group) (sh : Shadow) (rs : List Nat) (wp : Bool) : Shadow :=
  let new := (rs.eraseDups).filter fun r => !sh.vs.any (·.1 == r)
  { sh with vs := sh.vs ++ new.map (fun r => (r, (List.range 32).map (g.vreg r)))
            ps := if wp && sh.ps.isNone then some ((List.range 12).map g.predMask) else sh.ps }

/-- Takes the shadow copies that a word of entry i needs before it writes v registers and predicates (R168, R212). -/
def Group.cover (g : Group) (i : Nat) (rs : List Nat) (wp : Bool) : Group :=
  match g.entries[i]? with
  | none => g
  | some e =>
    let specs := if e.spec then g.specs.map fun sp =>
        if sp.ident == e.parent then
          { sp with shadows := sp.shadows.map fun sh => if sh.lanes &&& e.mask != 0 then sh.cover g rs wp else sh }
        else sp
      else g.specs
    { g with specs := specs, lineSpec := g.lineSpec.map fun ls => { ls with shadow := ls.shadow.cover g rs wp } }

/-- Takes squashed lanes out of the deferred words that a speculative entry issued. -/
def dropDeferred (ls : BitVec 32) (ds : List (BitVec 64 × BitVec 32 × Bool)) : List (BitVec 64 × BitVec 32 × Bool) :=
  (ds.map fun d => if d.2.2 then (d.1, d.2.1 &&& ~~~ls, d.2.2) else d).filter fun d => d.2.1 != 0

/-- Clears lanes of the operand log entries issued speculatively, dropping entries left with nothing (R169). -/
def Group.dropLogLanes (g : Group) (ls : BitVec 32) : Group :=
  (SMap.entries g.oplog).foldl (fun h x =>
    if x.2.spec then
      let o := { x.2 with pending := x.2.pending &&& ~~~ls, notNow := x.2.notNow &&& ~~~ls,
                          deferred := dropDeferred ls x.2.deferred }
      { h with oplog := if o.pending = 0 && o.notNow = 0 && o.deferred = [] then SMap.del h.oplog x.1
                        else SMap.put h.oplog x.1 o }
    else { h with oplog := SMap.put h.oplog x.1 { x.2 with deferred := dropDeferred ls x.2.deferred } }) g

/-- Squashes every lane of a speculated branch and returns them to the branch word (R180). -/
def Group.squashSpec (g : Group) (sp : Spec) : Group :=
  let mine (e : Entry) := e.spec && e.parent == sp.ident
  let ls := (g.entries.filter mine).foldl (fun m e => m ||| e.mask) 0
  let g1 := (g.unshadow ls sp.shadows sp.fShadow).dropLogLanes ls
  let first := (g1.entries.findIdx? mine).getD g1.entries.length
  let p := (SMap.find? g1.up sp.ident).getD 0
  let back := Entry.at sp.clause sp.word ls p
  { g1 with entries := (g1.entries.zipIdx.filter fun f => !mine f.1 || f.2 == first).map fun f =>
              if f.2 == first then back else f.1
            up := SMap.del g1.up sp.ident
            specs := g1.specs.filter (·.ident != sp.ident) }

/-- Squashes line speculation back to the load (R212, R226): the checkpoint is restored, and the loads issued since leave the log. -/
def Group.squashLine (g : Group) : Group :=
  match g.lineSpec with
  | none => g
  | some ls =>
    let all := g.live
    let g1 := g.unshadow all [ls.shadow] ls.fShadow
    { g1 with entries := ls.entries, up := ls.up, lineSpec := none
              oplog := g1.oplog.filter fun o => !(o.2.any fun x => x.line) }

/-- All speculation squashed, as at a pre-emption halt and at trap entry (R180, R431). -/
def Group.squashAll (g : Group) : Group := (g.specs.foldl (fun h sp => h.squashSpec sp) g.squashLine).collapse

/-- Requests of a group's squashed lanes leave nothing behind (R118, R169), nor do those of loads that a squash of line speculation took out of
the log (R212): a reply to them goes nowhere. DESIGN CHOICE, unsafe: log entry 37. -/
def State.pruneSpec (s : State) (gid : Nat) : State :=
  let entry (slot : Nat) : Option OpEntry := (s.group? gid).bind fun g => SMap.find? g.oplog slot
  let want (slot : Nat) : BitVec 32 :=
    match entry slot with
    | some o => if o.spec then o.pending else 0
    | none => 0
  let cut (r : Req) : Req :=
    match r.who with
    | .op g slot =>
      if g = gid && r.spec then
        let ls := r.lanes.filter fun l => lane (want slot) l.lane
        if ls.isEmpty then { r with who := .pref r.src, alloc := false } else { r with lanes := ls }
      else if g = gid && r.kind == .load && (entry slot).isNone then { r with who := .pref r.src, alloc := false }
      else r
    | _ => r
  let cutCell (c : CellReq) : CellReq :=
    match c.who with
    | .op g slot => if g = gid && (entry slot).isNone then { c with who := .pref c.src } else c
    | _ => c
  { s with md := { s.md with reqs := s.md.reqs.map cut, uio := s.md.uio.map fun h => { h with req := cut h.req }
                             cellReqs := s.md.cellReqs.map cutCell
                             mirrorQ := s.md.mirrorQ.map fun u => { u with req := cutCell u.req } } }

/-- Counts of squashed issues move to class 6 of the lane-cycle record, in the same rows (R289). -/
def State.squashLcr (s : State) (gid : Nat) (hit : LcrIssue → BitVec 32) : State :=
  let one (c : Core) : Core :=
    let mine (x : LcrIssue) : BitVec 32 := if x.gid = gid then x.lanes &&& hit x else 0
    { c with
      lcr := c.lcrLog.foldl (fun m x =>
        let n := count (mine x)
        let a := SMap.set 0 m (x.row + x.cls - 1) ((SMap.get 0 m (x.row + x.cls - 1) + 2 ^ 32 - n) % 2 ^ 32)
        SMap.set 0 a (x.row + 5) ((SMap.get 0 a (x.row + 5) + n) % 2 ^ 32)) c.lcr
      lcrLog := (c.lcrLog.map fun x => { x with lanes := x.lanes &&& ~~~mine x }).filter fun x => x.lanes != 0 }
  s.cores.foldl (fun t c => t.setCore c.1 (one c.2)) s

/-- Everything speculative of a group is squashed (R180, R431), with its requests and its lane-cycle counts. -/
def State.squashGroup (s : State) (gid : Nat) : State :=
  ((s.modGroup gid Group.squashAll).squashLcr gid fun _ => 0xFFFFFFFF).pruneSpec gid

/-! ### Raising a cause and taking a trap (R327, R431, R432) -/

/-- The trap record bytes (R119). DEDUCED, unsafe: log entry 33. -/
def recordBytes (r : LateFault) (now : Nat) : List (BitVec 8) :=
  toBytes 2 r.kind ++ toBytes 2 r.cause ++ toBytes 4 r.lanes.toNat ++ toBytes 8 r.clause ++ toBytes 1 r.word
    ++ toBytes 1 r.access ++ toBytes 1 r.reason ++ toBytes 1 r.od ++ toBytes 4 r.cmd ++ toBytes 8 r.ia ++ toBytes 8 now
    ++ toBytes 24 0
    ++ ((List.range 32).map fun l =>
        toBytes 8 (if lane r.lanes l then (((r.vas.find? (·.1 == l)).map (·.2)).getD 0) else 0)).flatten

/-- Where a group's trap record goes: TAREA + 320 × (64 × vcore + slot), by its home place (R119, R177). -/
def State.recordVA (s : State) (g : Group) (b : Block) : Nat :=
  ((s.ctx? b.ctx).map (·.req.tarea)).getD 0 + 320 * (64 * s.vcore b.core + g.slot)

/-- A record whose store was refused: its bytes, where its pages can be reached, are free values (R119). -/
def State.freeRecord (s : State) (ctx va : Nat) : State :=
  match s.ctx? ctx with
  | none => s
  | some cx =>
    (unitPieces 3 va ((List.range 320).map fun k => Config.freeByte (s.free + k))).foldl (fun t p =>
      match (cx.translate p.1 acWrite).toOption.bind fun x => (t.physical x.1 acWrite).toOption.map fun y => (x.1, y) with
      | some (ia, pa, leaf) => t.deviceWrite ctx ia pa leaf p.2
      | none => t) { s with free := s.free + 320 }

/-- Writes the trap record; NOREC when the store is refused, and the record's content is free (R119). -/
def State.writeRecord (s : State) (g : Group) (b : Block) (r : LateFault) : State × Bool :=
  match s.ctxWrite b.ctx (s.recordVA g b) (recordBytes r s.now) with
  | .ok s1 => (s1, false)
  | .error _ => (s.freeRecord b.ctx (s.recordVA g b), true)

/-- The lines of a group's trap record cannot be written yet (R45, R47). The trap is entered when they can, so that TPC and TCAUSE are set
with the record acknowledged (R119). -/
def State.recordWaits (s : State) (g : Group) (t : TrapReq) : Bool :=
  t.record.isSome && match s.block? g.bid with
    | none => false
    | some b => match s.ctx? b.ctx with
      | none => false
      | some cx => (unitRuns 3 (s.recordVA g b) 320).any fun p =>
          match (cx.translate p.1 acWrite).toOption.bind fun x => (s.physical x.1 acWrite).toOption.map fun y => (x.1, y) with
          | some (ia, _, leaf) => !leafF leaf && !s.writable (deviceReq b.ctx ia (List.replicate p.2 0)).ilines
          | none => false

/-- TPC from a clause and a word (R196). -/
def tpcOf (clause word : Nat) : BitVec 64 := BitVec.ofNat 64 (word % 16 * 2 ^ 60 + clause / 8 % 2 ^ 53 * 8)
def tpcClause (t : BitVec 64) : Nat := bits t.toNat 3 53 * 8
def tpcWord (t : BitVec 64) : Nat := bits t.toNat 60 4

/-- A record of a group, with pc naming a word. -/
def State.groupLog (s : State) (gid kind aux : Nat) (e : Nat × Nat) (data : List (BitVec 8)) : State :=
  match s.group? gid with
  | none => s
  | some g => match s.block? g.bid with
    | none => s
    | some b => s.logbook b (g.coreOf b) kind aux g.idx (tpcOf e.1 e.2).toNat data

/-- TCAUSE from its fields (R196). -/
def tcauseOf (late norec : Bool) (kind cause : Nat) : BitVec 32 :=
  BitVec.ofNat 32 ((if late then 2 ^ 31 else 0) + (if norec then 2 ^ 30 else 0) + kind % 256 * 2 ^ 16 + cause % 2 ^ 16)

/-- The trapping entry leaves the split table and is appended as its last entry, at word 0 of the handler (R431). -/
def Group.toHandler (g : Group) (i : Nat) : Group :=
  match g.entries[i]? with
  | none => g
  | some e =>
    { g with entries := g.entries.eraseIdx i ++ [{ e with clause := g.handler, word := 0, code := none, waited := false, idle := 0 }] }

/-- The entry that holds a lane of a mask, lowest index first (R431). -/
def Group.entryOf (g : Group) (ls : BitVec 32) : Option Nat := g.entries.findIdx? fun e => e.mask &&& ls != 0

/-- Trap entry (R431) for the entry that stands at the index, with a request: squash, record, TPC, TCAUSE, TRAP, and the
entry moves to the handler. KIND is the record's, or the request's for causes without a record. -/
def State.enterTrap (s : State) (gid i : Nat) (t : TrapReq) : State :=
  match s.group? gid with
  | none => s
  | some g =>
    match s.block? g.bid with
    | none => s
    | some b =>
      let m := ((g.entries[i]?).map (·.mask)).getD 0
      let s0 := s.squashGroup gid
      let g1 := (s0.group? gid).getD g
      let i1 := (g1.entryOf m).getD i
      let w := match t.record with
        | some r => s0.writeRecord g b r
        | none => (s0, false)
      let k := match t.record with
        | some r => r.kind
        | none => t.kind
      let tc := tcauseOf t.late w.2 k t.cause
      let s1 := w.1.groupLog gid 0x12 t.cause (t.tclause, t.tword) (toBytes 4 t.lanes.toNat ++ toBytes 4 tc.toNat)
      s1.setGroup gid { (g1.toHandler i1) with
        tpc := tpcOf t.tclause t.tword
        tcause := tc
        trap := true }

/-- A double trap (R432): every lane of the handler entry, the last one, is switched off with cause DOUBLE. -/
def Group.doubleTrap (g : Group) : Group :=
  let m := (g.entries.getLast?.map (·.mask)).getD 0
  { (g.switchOff m 6) with trap := false }

/-- A group that may not take a trap now: an MMA of it executes or is to be resumed (R273, R431), it is halted (R299), firmware runs, or an
earlier cause waits (R442). -/
def Group.holdsTraps (g : Group) : Bool := g.mma.isSome || bitAt g.mres.toNat 63 || g.halted || g.fw || !g.pendingTraps.isEmpty

/-- A cause raised by entry i with TVEC ≠ 0: a double trap in the handler; taken at once, or held while the group may take none, another
entry's handler runs (R432) or its record cannot be written yet (R119). -/
def State.raise (s : State) (gid i : Nat) (t : TrapReq) : State :=
  match s.group? gid with
  | none => s
  | some g =>
    if g.trap then
      if i + 1 = g.entries.length then s.setGroup gid g.doubleTrap
      else s.setGroup gid { g with pendingTraps := g.pendingTraps ++ [t] }
    else if g.holdsTraps || s.recordWaits g t then s.setGroup gid { g with pendingTraps := g.pendingTraps ++ [t] }
    else s.enterTrap gid i t

/-- fault(cause, lanes) of R327 at the word where entry i stands: trap if TVEC ≠ 0, else the lanes are switched off. The
flag says that a trap was raised (so nothing of the word executes). -/
def State.faultAt (s : State) (gid i cause : Nat) (ls : BitVec 32) (record : Option LateFault) : State × Bool :=
  match s.group? gid with
  | none => (s, true)
  | some g =>
    match g.entries[i]? with
    | none => (s, true)
    | some e =>
      if g.hasHandler then
        (s.raise gid i { cause := cause, kind := 0, late := false, lanes := ls, tclause := e.clause,
                         tword := e.word, record := record }, true)
      else (s.setGroup gid (g.switchOff ls cause), false)

/-- An illegal word (R316): its active lanes take ILLEGAL, and no lane executes it; with TVEC = 0 the entry's other lanes
go on. -/
def State.illegal (s : State) (gid i : Nat) (act : BitVec 32) : State :=
  let r := s.faultAt gid i 1 act none
  if r.2 then r.1
  else r.1.modGroup gid fun g =>
    match (((s.group? gid).bind (·.entries[i]?)).map (·.mask)) with
    | none => g
    | some m => if m &&& ~~~act = 0 then g else (g.advance i)

/-- A clause error (R317): every lane of the arriving entry. -/
def State.badClause (s : State) (gid i : Nat) : State :=
  match (s.group? gid).bind (·.entries[i]?) with
  | none => s
  | some e =>
    let s1 := s.modGroup gid fun g => g.setEntry i { e with word := 0 }
    (s1.faultAt gid i 2 e.mask none).1

/-- ERET with TRAP = 1 (R433): the handler entry moves to the clause and word of TPC; a held cause stays pending and is
raised at the group's next boundary. DEDUCED, unsafe: log entry 99. -/
def Group.eret (g : Group) (i : Nat) : Group :=
  match g.entries[i]? with
  | none => g
  | some e =>
    let g0 := g.setEntry i { e with clause := tpcClause g.tpc, word := tpcWord g.tpc, code := none, waited := false }
    let g1 : Group := { g0 with trap := false }
    if tpcWord g.tpc = 0 then g1.fuseAt i false else g1

/-! ### Divergence (R155, R352) -/

/-- Sends the lanes `taken` of entry i to a target and its other lanes to `other` (the BRA rule): the others keep the
entry's index, the taken lanes are appended. One target for all moves the entry (R352). -/
def Group.branch (g : Group) (i : Nat) (taken : BitVec 32) (target other : Nat) : Group :=
  match g.entries[i]? with
  | none => g
  | some e =>
    let t := taken &&& e.mask
    if t = e.mask || target = other then g.moveTo i target
    else if t = 0 then g.moveTo i other
    else
      let n := g.freeIdent
      let g1 := { g with up := SMap.put g.up n e.parent
                         entries := g.entries.set i (Entry.at other 0 (e.mask &&& ~~~t) n) ++ [Entry.at target 0 t n] }
      (g1.fuseAt i false).fuseAt (g1.entries.length - 1) false

/-- Sends each lane of entry i to its own target (the BRX rule, R155): the lowest target keeps the index, the others are
appended in ascending order. -/
def Group.scatter (g : Group) (i : Nat) (target : Nat → Nat) : Group :=
  match g.entries[i]? with
  | none => g
  | some e =>
    let ts := (sortBy (fun a b => decide (a ≤ b)) ((lanes e.mask).map target)).eraseDups
    match ts with
    | [] => g
    | [t] => g.moveTo i t
    | t0 :: rest =>
      let n := g.freeIdent
      let part (t : Nat) : Entry := Entry.at t 0 (maskOf fun l => lane e.mask l && target l == t) n
      let g1 := { g with up := SMap.put g.up n e.parent, entries := g.entries.set i (part t0) ++ rest.map part }
      let last := g1.entries.length
      (List.range rest.length).foldl (fun h k => h.fuseAt (last - 1 - k) false) (g1.fuseAt i false)

end Sys2Proof.Machine
end

