-- ==== Sys2Proof/Machine/Operands.lean ====
section
/-! DEFINITION. Machine/Operands.lean: every operand form, read and written for a lane (R183 to R186, R308 to R310, R327,
R328), the registers a word holds under the scoreboard (R163), and the shadow copies of speculative writes (R168). -/

namespace Sys2Proof.Machine

/-- What a word executes for: its group, entry, block and the active lanes (R162, R306). -/
structure Issue where
  gid : Nat
  i : Nat
  g : Group
  e : Entry
  b : Block
  act : BitVec 32
  deriving DecidableEq, Repr

/-- A word that may still be squashed: of a speculative entry, or under line speculation (R168, R212). It takes no fault before it is known to
stand. -/
def Issue.ahead (is : Issue) : Bool := is.e.spec || is.g.lineSpec.isSome

/-- The issuer of the word that executes now. -/
def State.issuer (s : State) : Option Issue :=
  match s.cur with
  | none => none
  | some (gid, i) =>
    match s.group? gid with
    | none => none
    | some g =>
      match g.entries[i]?, s.block? g.bid with
      | some e, some b => some { gid := gid, i := i, g := g, e := e, b := b, act := 0 }
      | _, _ => none

/-- CTXID of a context (R197). -/
def State.ctxId (s : State) (c : Nat) : Nat :=
  match s.ctx? c with
  | none => c % 128
  | some cx => cx.fn % 64 * 2 ^ 24 + cx.lctx % 128 * 2 ^ 8 + c % 128

/-- The task of a block. -/
def State.taskOf (s : State) (b : Block) : Option Task := b.tt.bind fun t => SMap.find? s.box.table t

/-- Grid size along an axis (R310): of the task; a station block belongs to none. DESIGN CHOICE, safe: log entry 17. -/
def State.grid (s : State) (b : Block) (axis : Nat) : Nat :=
  match s.taskOf b with
  | some t => if axis = 0 then t.task.gx else if axis = 1 then t.task.gy else t.task.gz
  | none => (Config.stationGrid axis).toNat

/-- A special source for a lane (R310). -/
def State.special (s : State) (is : Issue) (c l : Nat) : Nat :=
  match c with
  | 0 => l
  | 1 => l / 4
  | 2 => is.g.idx
  | 3 => is.b.x
  | 4 => is.b.y
  | 5 => is.b.z
  | 6 => s.grid is.b 0
  | 7 => s.grid is.b 1
  | 8 => s.grid is.b 2
  | 9 => is.b.clrank
  | 10 => s.vcore (is.g.coreOf is.b)
  | 11 | 12 => s.now
  | _ => s.ctxId is.b.ctx

/-- The register number an indexed operand names in a lane (R183). -/
def Group.idxReg (g : Group) (k off l : Nat) : Nat := (g.xreg k l).toNat + off

/-- ok[l] of R183 for a run of n registers: within the window and below the v count, even for a pair. -/
def Group.idxOk (g : Group) (k off n : Nat) (even : Bool) (l : Nat) : Bool :=
  let r := g.idxReg k off l
  let w := (g.win k).toNat
  decide (bits w 0 8 ≤ r) && decide (r + n ≤ bits w 8 8 + 1) && decide (r + n ≤ g.vcount) && (!even || r % 2 == 0)

/-- The value of a v pair or register in a lane. -/
def Group.readV (g : Group) (wide : Bool) (r l : Nat) : Nat :=
  (g.vreg r l).toNat + (if wide then (g.vreg (r + 1) l).toNat * 2 ^ 32 else 0)
def Group.readS (g : Group) (wide : Bool) (r : Nat) : Nat :=
  (g.sreg r).toNat + (if wide then (g.sreg (r + 1)).toNat * 2 ^ 32 else 0)

/-- opnd(os, l, w) of R327 for w = 32, or 64 when wide. -/
def State.opnd (s : State) (is : Issue) (wide : Bool) (a : Src) (l : Nat) : Nat :=
  match a with
  | .v n => is.g.readV wide n l
  | .s n => is.g.readS wide n
  | .idx k off => is.g.readV wide (is.g.idxReg k off l) l
  | .imm i => wrap (if wide then 64 else 32) i
  | .spec c => s.special is c l % 2 ^ (if wide then 64 else 32)

def Group.writeV (g : Group) (wide : Bool) (r l x : Nat) : Group :=
  let h := g.setV r l (BitVec.ofNat 32 x)
  if wide then h.setV (r + 1) l (BitVec.ofNat 32 (x / 2 ^ 32)) else h
def Group.writeS (g : Group) (wide : Bool) (r x : Nat) : Group :=
  let h := g.setS r (BitVec.ofNat 32 x)
  if wide then h.setS (r + 1) (BitVec.ofNat 32 (x / 2 ^ 32)) else h

/-- write(os, l, x) of R327. -/
def Group.put (g : Group) (wide : Bool) (d : Dst) (l x : Nat) : Group :=
  match d with
  | .v n => g.writeV wide n l x
  | .s n => g.writeS wide n x
  | .idx k off => g.writeV wide (g.idxReg k off l) l x

def dstIsS : Dst → Bool | .s _ => true | _ => false

/-- The lanes a word with this destination computes for: the lowest active lane when it is uniform (R186). DEDUCED, unsafe: log entry 21. -/
def Issue.work (is : Issue) (d : Dst) : List Nat :=
  if dstIsS d then (lanes is.act).take 1 else lanes is.act

/-- The lowest active lane. -/
def Issue.low (is : Issue) : Nat := (lowest is.act).getD 0

/-- Active lanes that are not helper lanes. -/
def Issue.own (is : Issue) : BitVec 32 := is.act &&& ~~~is.g.helper

/-- The lowest active lane that is not a helper lane. -/
def Issue.lowOwn (is : Issue) : Nat := (lowest is.own).getD is.low

/-! ### Indexed operands that fail (R183, R184) -/

/-- The indexed runs of a word. LANERD checks lane n alone, in its own meaning (R350). -/
def idxRuns (i : Instr) : List Run :=
  match i with
  | .lanerd _ _ _ _ ln => if (one ln).isIdx then [one ln] else []
  -- the exchanged operand is resolved in the lane that supplies it (R423)
  | .qswz _ w d _ b => ([one b, dwd w d]).filter Run.isIdx
  | .qdiff _ _ d _ => ([one (Dst.src d)]).filter Run.isIdx
  | .shflPick _ w d _ b _ _ | .shflRot _ w d _ b _ _ | .shflSlide _ w d _ b _ _ | .shflFlip _ w d _ b _ _ =>
    ([one b, dwd w d]).filter Run.isIdx
  | .matchLead _ _ d _ m _ | .matchMask _ _ d _ m _ | .redux _ _ d _ m _ => ([one m, one (Dst.src d)]).filter Run.isIdx
  | .scan _ _ d _ m sg => ([one m, one sg, one (Dst.src d)]).filter Run.isIdx
  | _ => ((usesAll i).rd ++ (usesAll i).wr).filter Run.isIdx

/-- The lanes of a mask in which some indexed operand of a word fails. -/
def Group.badLanes (g : Group) (i : Instr) (act : BitVec 32) : BitVec 32 :=
  maskOf fun l => lane act l && (idxRuns i).any fun r =>
    match r.op with
    | .idx k off => !g.idxOk k off r.n r.even l
    | _ => false

/-! ### Views (R185, R195, R421) -/

/-- The registers view kj covers, or none when it is undefined (R185, R195). -/
def Group.view (g : Group) (j : Nat) : Nat :=
  bits (if j < 4 then g.kshpa.toNat else g.kshpb.toNat) (16 * (j % 4)) 16
def viewBase (v : Nat) : Nat := bits v 8 8
def viewRows (v : Nat) : Nat := bits v 5 3
def viewCols (v : Nat) : Nat := bits v 2 3
def viewWide (v : Nat) : Bool := bitAt v 1
def viewV (v : Nat) : Bool := bitAt v 0
def viewLen (v : Nat) : Nat := viewRows v * viewCols v * (if viewWide v then 2 else 1)

/-- The views a K word reads and writes. -/
def kViews : Instr → List Nat × List Nat
  | .kzero _ kd | .keye _ kd => ([], [kd])
  | .kadd _ kd ka kb _ | .kmul _ kd ka kb _ => ([ka, kb], [kd])
  | .kmad _ kd ka kb _ => ([ka, kb, kd], [kd])
  | .ktrn _ kd ka _ | .kchol _ kd ka _ | .kldl _ kd ka _ | .kinv _ kd ka _ => ([ka], [kd])
  | .klu _ kd ka _ _ => ([ka], [kd])
  | .ksolve _ _ kd ka kb _ _ => ([ka, kb], [kd])
  | .kdet _ _ ka _ => ([ka], [])
  | _ => ([], [])

/-- The shapes of R421 as equations between the views of a word. -/
def shapesAgree (g : Group) (i : Instr) : Bool :=
  let r (j : Nat) : Nat := viewRows (g.view j)
  let c (j : Nat) : Nat := viewCols (g.view j)
  let sq (j : Nat) : Bool := r j == c j
  match i with
  | .kadd _ kd ka kb _ => r ka == r kb && c ka == c kb && r kd == r ka && c kd == c ka
  | .kmul _ kd ka kb _ | .kmad _ kd ka kb _ => c ka == r kb && r kd == r ka && c kd == c kb
  | .ktrn _ kd ka _ => r kd == c ka && c kd == r ka
  | .kchol _ kd ka _ | .kldl _ kd ka _ | .kinv _ kd ka _ | .klu _ kd ka _ _ => sq ka && r kd == r ka && c kd == c ka
  | .ksolve _ _ kd ka kb _ _ => sq ka && r kb == r ka && r kd == r ka && c kd == c kb
  | .kdet _ _ ka _ => sq ka
  | _ => true

/-- Whether the views of a word break R185 or R421. -/
def Group.viewsBad (g : Group) (i : Instr) : Bool :=
  let vs := ((kViews i).1 ++ (kViews i).2).map g.view
  vs.any (fun v => !viewV v || (viewWide v && viewBase v % 2 == 1) || decide (g.vcount < viewBase v + viewLen v))
    || vs.any (fun v => viewWide v != viewWide (vs.headD 0)) || !shapesAgree g i

/-- Writes zero to the destinations of lanes that take no fault (R170, R184, R205): registers, index registers, predicates, and the view of a
small-matrix word whose views are sound (R185). -/
def Group.zeroDest (g : Group) (i : Instr) (ls : BitVec 32) : Group :=
  let zero (h : Group) (l r n : Nat) : Group := (List.range n).foldl (fun h j => h.setV (r + j) l 0) h
  let g1 := (lanes ls).foldl (fun h l => (usesAll i).wr.foldl (fun h r =>
    match r.op with
    | .v n => zero h l n r.n
    | .idx k off => if g.idxOk k off r.n r.even l then zero h l (g.idxReg k off l) r.n else h
    | _ => h) h) g
  let g2 := match i with
    | .movToIndex _ k _ => (lanes ls).foldl (fun h l => h.setX k l 0) g1
    | _ => if g.viewsBad i then g1 else (lanes ls).foldl (fun h l =>
        ((kViews i).2.map g.view).foldl (fun h v => zero h l (viewBase v) (viewLen v)) h) g1
  (usesAll i).pwr.foldl (fun h p => h.setPreds p ls 0) g2

/-! ### The scoreboard (R163) -/

/-- One number for each register of a group: v, s, predicates, x. -/
def keyV (n : Nat) : Nat := n
def keyS (n : Nat) : Nat := 256 + n
def keyP (n : Nat) : Nat := 1280 + n
def keyX (n : Nat) : Nat := 1292 + n

/-- Operand-log entries in use (R113); a LAUNCH that waits for its reply only stands beside them, above 15. -/
def Group.logCount (g : Group) : Nat := ((SMap.entries g.oplog).filter fun o => decide (o.1 < 16)).length

/-- The registers a run stands for in the lanes of a mask. -/
def Group.runKeys (g : Group) (act : BitVec 32) (r : Run) : List Nat :=
  match r.op with
  | .v n => (List.range r.n).map fun j => keyV (n + j)
  | .s n => (List.range r.n).map fun j => keyS (n + j)
  | .idx k off => keyX k :: ((lanes act).map fun l => (List.range r.n).map fun j => keyV (g.idxReg k off l + j)).flatten
  | _ => []

def guardOf (i : Instr) : Option Guard := (unparse i).map Fields.g

/-- The predicate of the guard of a word. -/
def guardKeys (i : Instr) : List Nat :=
  match guardOf i with
  | some q => if q.pg < 12 then [keyP q.pg] else []
  | none => []

/-- The lane that LANERD reads, where its operand is a register or an immediate: of the lowest active lane's value (R350). -/
def Group.laneRead (g : Group) (act : BitVec 32) (ln : Src) : Option Nat :=
  let l := (lowest act).getD 0
  match ln with
  | .imm i => some (wrap 5 i)
  | .v n => some ((g.vreg n l).toNat % 32)
  | .s n => some ((g.sreg n).toNat % 32)
  | .idx k off => some ((g.vreg (g.idxReg k off l) l).toNat % 32)
  | .spec _ => none

/-- Lanes in which a word resolves its first operand: those that supply it where the word reads other lanes (R350, R423). -/
def Group.sourceLanes (g : Group) (act : BitVec 32) (i : Instr) : BitVec 32 :=
  match i with
  | .lanerd _ _ _ _ ln => match g.laneRead act ln with | some n => bit n | none => 0xFFFFFFFF
  | .qswz _ _ _ _ _ | .qdiff _ _ _ _ | .shflPick _ _ _ _ _ _ _ | .shflRot _ _ _ _ _ _ _ | .shflSlide _ _ _ _ _ _ _
  | .shflFlip _ _ _ _ _ _ _ | .matchLead _ _ _ _ _ _ | .matchMask _ _ _ _ _ _ | .redux _ _ _ _ _ _ | .scan _ _ _ _ _ _ => 0xFFFFFFFF
  | _ => act

/-- The registers of an .mx4 A run beyond the nine that every MMAS reads: seventeen with an .mx4 B (R258, R272). -/
def Group.longKeys (g : Group) (act : BitVec 32) (i : Instr) : List Nat :=
  match i with
  | .mmas _ .mx4 _ _ _ (.regs d) bm _ _ => if (g.sreg (bm + 2)).toNat % 16 = 8 then g.runKeys act (run (Dst.src d) 17) else []
  | _ => []

/-- Registers a word reads. -/
def Group.readKeys (g : Group) (act : BitVec 32) (i : Instr) : List Nat :=
  let u := usesAll i
  guardKeys i ++ ((u.rd.take 1).map (g.runKeys (g.sourceLanes act i))).flatten ++ ((u.rd.drop 1).map (g.runKeys act)).flatten
    ++ g.longKeys act i ++ u.prd.map keyP ++
    (u.wr.filterMap fun r => match r.op with | .idx k _ => some (keyX k) | _ => none) ++
    (match i with | .movFromIndex _ _ k => [keyX k] | _ => [])

/-- The destination registers of a run, without the x register that selects them. -/
def Group.destKeys (g : Group) (act : BitVec 32) (r : Run) : List Nat :=
  (g.runKeys act r).filter (· < 1280)

def Group.viewKeys (g : Group) (j : Nat) : List Nat :=
  let v := g.view j
  if viewV v then (List.range (viewLen v)).map fun i => keyV (viewBase v + i) else []

/-- The group with the view registers that a small-matrix word under way saw at its issue (R203). -/
def Group.shaped (g : Group) (m : List (BitVec 32)) : Group :=
  let w (i : Nat) : Nat := (m.getD i 0).toNat
  { g with kshpa := BitVec.ofNat 64 (w 0 + w 1 * 2 ^ 32), kshpb := BitVec.ofNat 64 (w 2 + w 3 * 2 ^ 32) }

/-- The second register of a KDET result of 64 bits. -/
def Group.detKeys (g : Group) : Instr → List Nat
  | .kdet _ (.v n) ka _ => if viewWide (g.view ka) then [keyV (n + 1)] else []
  | _ => []

/-- Registers a word writes. -/
def Group.writeKeys (g : Group) (act : BitVec 32) (i : Instr) : List Nat :=
  let u := usesAll i
  (u.wr.map (g.destKeys act)).flatten ++ u.pwr.map keyP ++ ((kViews i).2.map g.viewKeys).flatten ++ g.detKeys i ++
    (match i with | .movToIndex _ k _ => [keyX k] | _ => [])

/-- The word of a raw instruction word, if it is one. -/
def wordOf (raw : BitVec 64) : Option Instr :=
  match decode raw with
  | .ok i => some i
  | .error _ => none

/-- Destinations of a word under way, whose indexed registers were resolved at issue. -/
def flightKeys (raw : BitVec 64) (dregs : SMap Nat) : List Nat :=
  match wordOf raw with
  | none => []
  | some i =>
    let u := usesAll i
    (u.wr.map fun r =>
      match r.op with
      | .v n => (List.range r.n).map fun j => keyV (n + j)
      | .s n => (List.range r.n).map fun j => keyS (n + j)
      | .idx _ _ => (dregs.map fun d => (List.range r.n).map fun j => keyV (d.2 - 1 + j)).flatten
      | _ => []).flatten ++ u.pwr.map keyP

/-- Registers with a write in flight from loads, atomics, LAUNCH, deferred words and engines (R163). -/
def Group.inFlight (g : Group) : List Nat :=
  ((SMap.entries g.oplog).map fun o =>
    (match o.2.kind with
      | .store => []
      | .mma => []
      | .load | .ldc => if o.2.unconfirmed && o.2.pending = 0 then [] else flightKeys o.2.raw o.2.dregs
      | _ => flightKeys o.2.raw o.2.dregs) ++ (o.2.deferred.map fun d => flightKeys d.1 []).flatten).flatten ++
  (g.tileWords.map fun t => flightKeys t.raw t.base).flatten ++
  (g.kwords.map fun k => flightKeys k.raw k.base ++ (match wordOf k.raw with
    | some i => ((kViews i).2.map (g.shaped k.map).viewKeys).flatten ++ (g.shaped k.map).detKeys i
    | none => [])).flatten

/-- Registers that a small-matrix word under way, a deferred word or an unresolved branch still reads: a later word may not write them
(R163, R165, R169, R422). -/
def Group.readLater (g : Group) : List Nat :=
  (g.specs.filterMap fun sp => if sp.guard.pg < 12 then some (keyP sp.guard.pg) else none) ++
  ((SMap.entries g.oplog).map fun o => (o.2.deferred.map fun d =>
    ((wordOf d.1).map (g.readKeys d.2.1)).getD []).flatten).flatten ++
  (g.kwords.map fun k =>
    match wordOf k.raw with
    | some i => ((kViews i).1.map (g.shaped k.map).viewKeys).flatten ++ ((usesAll i).rd.map (g.runKeys k.lanes)).flatten
    | none => []).flatten

/-- Registers that outstanding loads will still write (R165). -/
def Group.loadKeys (g : Group) : List Nat :=
  ((SMap.entries g.oplog).map fun o =>
    match o.2.kind with
    | .load | .cell | .ldc => flightKeys o.2.raw o.2.dregs
    | _ => []).flatten

/-- Whether the scoreboard holds a word (R163). -/
def Group.scoreHeld (g : Group) (act : BitVec 32) (i : Instr) : Bool :=
  let fl := g.inFlight
  if fl.isEmpty && g.kwords.isEmpty && g.specs.isEmpty then false
  else
    let wr := g.writeKeys act i
    (g.readKeys act i ++ ((kViews i).1.map g.viewKeys).flatten ++ wr).any (fl.contains ·) ||
      wr.any (g.readLater.contains ·)

/-- Shadow copies that a word needs before it writes (R168). -/
def Group.shadowed (g : Group) (i : Nat) (act : BitVec 32) (w : Instr) : Group :=
  match g.entries[i]? with
  | none => g
  | some e =>
    if e.spec || g.lineSpec.isSome then
      let u := usesAll w
      g.cover i (((u.wr.map (g.destKeys act)).flatten).filter (· < 256)) (!u.pwr.isEmpty)
    else g

end Sys2Proof.Machine
end

