-- ==== Sys2Proof/Machine/Flags.lean ====
section
/-! DEFINITION. Machine/Flags.lean: every status computation: FSTAT (R190, R365), FMASK writes (R189, R435), KSTAT
(R191, R275), and how written system registers keep their fixed bits (R187 to R197). -/

namespace Sys2Proof.Machine

/-- ORs each lane's flags into its FSTAT (R190, R365). -/
def Group.joinFlags (g : Group) (ls : List Nat) (f : Nat → Flags) : Group := ls.foldl (fun h l => h.orFlags l (f l)) g

/-- Flags that a RED or an atomic brings back join those of its lanes and, since it was not speculative, what a squash puts back (R180,
R365). -/
def Group.joinReturned (g : Group) (ls : List Nat) (f : Nat → Flags) : Group :=
  let g1 := g.joinFlags ls f
  let joined (fs : List (BitVec 32)) : List (BitVec 32) := fs.zipIdx.map fun x => if ls.contains x.2 then x.1 ||| (f x.2).setWidth 32 else x.1
  { g1 with specs := g1.specs.map fun sp => { sp with fShadow := joined sp.fShadow }
            lineSpec := g1.lineSpec.map fun l => { l with fShadow := joined l.fShadow } }

/-- FSTAT as written by SWR: its five bits (R190). -/
def fstatWrite (x : Nat) : BitVec 32 := BitVec.ofNat 32 (x % 32)

/-- KSTAT as written by SWR: STEP and the three flags (R191). -/
def kstatWrite (x : Nat) : BitVec 32 := BitVec.ofNat 32 (bits x 8 3 * 2 ^ 8 + bits x 0 3)

/-- KSTAT after a small-matrix word raised flags: they OR in, and STEP is set by the first raised while all were clear. -/
def kstatRaise (old : BitVec 32) (fl step : Nat) : BitVec 32 :=
  if fl = 0 then old
  else if bits old.toNat 0 3 = 0 then BitVec.ofNat 32 (fl % 8 + step % 8 * 2 ^ 8)
  else old ||| BitVec.ofNat 32 (fl % 8)

/-- FMASK after an SWR (R189, R435): ones written to LANES and MULTI clear, CAUSE takes the value. -/
def fmaskWrite (old x : Nat) : BitVec 64 :=
  let ls := (BitVec.ofNat 32 old &&& ~~~(BitVec.ofNat 32 x)).toNat
  let multi := bitAt old 48 && !bitAt x 48
  BitVec.ofNat 64 (ls + bits x 32 16 * 2 ^ 32 + (if multi then 2 ^ 48 else 0))

/-- XWIN as written by SWR (R194). -/
def xwinWrite (x : Nat) : BitVec 32 := BitVec.ofNat 32 (x % 2 ^ 16)

/-- TVEC and TPC as written by SWR (R196). -/
def tvecWrite (x : Nat) : BitVec 64 := BitVec.ofNat 64 (bits x 3 53 * 8)
def tpcWrite (x : Nat) : BitVec 64 := BitVec.ofNat 64 (bits x 60 4 * 2 ^ 60 + bits x 3 53 * 8)

/-- Whether a KSHP value breaks R195: a view with V = 1 whose ROWS or COLS is outside 1 to 6. -/
def kshpBad (x : Nat) : Bool :=
  (List.range 4).any fun j =>
    let v := bits x (16 * j) 16
    viewV v && (viewRows v == 0 || viewRows v == 7 || viewCols v == 0 || viewCols v == 7)

end Sys2Proof.Machine
end

