-- ==== Sys2Proof/Machine/Hold.lean ====
section
/-! DEFINITION. Machine/Hold.lean: what holds an instruction word back at its place (R160): the scoreboard, speculation
fences, releases, acquires and fences in force, free operand-log and sidings entries, the store buffer and the
matrix engine's own conditions. A held word stays where it is and is looked at again later. -/

namespace Sys2Proof.Machine

/-! ### Kinds of word -/

/-- Memory words with their order, when they have one: (space, order, reads, writes). -/
def accessOf : Instr → Option (Space × Order × Bool × Bool)
  | .ld _ _ _ sp _ o _ _ => some (sp, o, true, false)
  | .st _ _ _ sp _ o _ => some (sp, o, false, true)
  | .ldc _ _ _ sp _ o _ _ => some (sp, o, true, false)
  | .xclr _ _ r _ => some (.cell, if r then .rel else .rlx, false, true)
  | .atomAdd _ _ _ sp _ o _ | .atomMin _ _ _ sp _ o _ | .atomMax _ _ _ sp _ o _ | .atomAnd _ _ _ sp _ o _
  | .atomOr _ _ _ sp _ o _ | .atomXor _ _ _ sp _ o _ | .atomExch _ _ _ sp _ o _ | .atomCas _ _ _ sp _ o _
  | .atomFadd _ _ _ sp _ o _ => some (sp, o, true, true)
  | .atomXadd _ _ _ _ o _ => some (.cell, o, true, true)
  | .redAdd _ _ _ sp _ o _ | .redMin _ _ _ sp _ o _ | .redMax _ _ _ sp _ o _ | .redAnd _ _ _ sp _ o _
  | .redOr _ _ _ sp _ o _ | .redXor _ _ _ sp _ o _ | .redFadd _ _ _ sp _ o _ => some (sp, o, false, true)
  | .redXadd _ _ _ _ o _ => some (.cell, o, false, true)
  | _ => none

/-- Returning atomics. -/
def isAtom : Instr → Bool
  | .atomAdd _ _ _ _ _ _ _ | .atomMin _ _ _ _ _ _ _ | .atomMax _ _ _ _ _ _ _ | .atomAnd _ _ _ _ _ _ _
  | .atomOr _ _ _ _ _ _ _ | .atomXor _ _ _ _ _ _ _ | .atomExch _ _ _ _ _ _ _ | .atomCas _ _ _ _ _ _ _
  | .atomFadd _ _ _ _ _ _ _ | .atomXadd _ _ _ _ _ _ => true
  | _ => false

/-- Barrier arrivals. -/
def isArrive : Instr → Bool
  | .arrive _ _ _ _ | .arriveAddress _ _ _ _ _ | .flsig _ _ => true
  | _ => false

/-- Copy commands and MEMOP. -/
def isCopy : Instr → Bool
  | .cpy _ _ _ _ | .cpym _ _ _ _ _ | .cpyr _ _ _ | .cpyg _ _ _ _ | .cpyx _ _ => true
  | _ => false
def isMemop : Instr → Bool
  | .memopFill _ _ _ | .memopAxpy _ _ _ _ | .memopAdd _ _ _ _ | .memopMul _ _ _ _ | .memopReduce _ _ _ _ => true
  | _ => false

/-- The words of class 1 and of class 2 (R314). -/
def isMatrix : Instr → Bool
  | .acfg _ _ _ _ | .azero _ _ _ _ | .afence _ | .mma _ _ _ _ _ _ _ _ _ | .mmas _ _ _ _ _ _ _ _ _ | .ald _ _ _ _ _
  | .ast _ _ _ _ _ _ | .ard _ _ _ _ _ _ _ | .awr _ _ _ _ _ _ => true
  | _ => false
def isSmall : Instr → Bool
  | .kshape _ _ _ _ _ _ | .kshapeClr _ _ | .kzero _ _ | .keye _ _ | .kadd _ _ _ _ _ | .kmul _ _ _ _ _ | .kmad _ _ _ _ _
  | .ktrn _ _ _ _ | .kchol _ _ _ _ | .kldl _ _ _ _ | .klu _ _ _ _ _ | .ksolve _ _ _ _ _ _ _ | .kdet _ _ _ _
  | .kinv _ _ _ _ => true
  | _ => false

/-- Words that read registers of other lanes (R423) or of one lane (R350). -/
def isExchange : Instr → Bool
  | .qswz _ _ _ _ _ | .qdiff _ _ _ _ | .shflPick _ _ _ _ _ _ _ | .shflRot _ _ _ _ _ _ _ | .shflSlide _ _ _ _ _ _ _
  | .shflFlip _ _ _ _ _ _ _ | .voteMask _ _ _ _ _ | .voteCount _ _ _ _ _ | .voteLead _ _ _ _ _ | .voteAgree _ _ _ _ _
  | .matchLead _ _ _ _ _ _ | .matchMask _ _ _ _ _ _ | .redux _ _ _ _ _ _ | .scan _ _ _ _ _ _ | .join _ _ => true
  | _ => false
def isLaneAccess : Instr → Bool
  | .lanerd _ _ _ _ _ | .lanewr _ _ _ _ _ => true
  | _ => false

/-- The control transfers (R303). -/
def isControl : Instr → Bool
  | .bra _ _ _ | .brx _ _ | .call _ _ | .callx _ _ | .ret _ _ | .exit _ | .yield _ | .migrate _ _ _ | .trap _ _ | .eret _ => true
  | _ => false

/-- The words of chapter 17 (R430). -/
def isSystem : Instr → Bool
  | .srd _ _ _ | .swr _ _ _ | .ctxsaveCopy _ | .ctxsaveAcc _ | .ctxsaveGrp _ | .ctxsaveBlk _ | .ctxrestBlk _ | .ctxrestGrp _
  | .ctxrestAcc _ | .ctxrestCopy _ | .eret _ | .hostint _ | .pmark _ _ | .logw _ _ _ => true
  | _ => false

/-- Words of chapter 15 that may execute speculatively (R389). -/
def isHint : Instr → Bool
  | .ld _ _ _ _ _ _ _ _ | .pref _ _ _ _ _ | .cctlDrop _ _ _ _ | .cctlDrop4k _ _ _ _ | .cctlRenew _ _ _ _ => true
  | _ => false

/-- The other words of chapter 15. -/
def isOtherMemory : Instr → Bool
  | .fence _ _ _ | .watch _ _ _ _ | .binit _ _ _ | .expectOnce _ _ _ | .expectEach _ _ _ | .btestPa _ _ _ | .btestPb _ _ _
  | .btestAll _ _ _ | .btestPassed _ _ _ _ | .binval _ _ => true
  | _ => false

/-- An s or x destination (R168). -/
def writesUniform (i : Instr) : Bool :=
  (usesAll i).wr.any Run.isS || (match i with | .movToIndex _ _ _ => true | .setxw _ _ _ _ => true | _ => false)

/-- The speculation fences of R168, R350, R351, R389 and R430, and the control transfers at which a speculative entry
waits (R167). -/
def isFence (i : Instr) : Bool :=
  (!isHint i && (accessOf i).isSome) || isArrive i || isCopy i || isMemop i || isOtherMemory i || isMatrix i || isSmall i
    || isExchange i || isLaneAccess i || isSystem i || writesUniform i
    || (match i with
        | .launch _ _ _ _ | .bkpt _ | .mxscale _ _ _ _ => true
        | .bra _ _ _ => false
        | _ => isControl i)

/-- The deferral candidates of R165. -/
def deferrable : Instr → Bool
  | .icmp _ _ _ _ _ _ | .icmpImm _ _ _ _ _ _ | .fcmp _ _ _ _ _ _ | .plop _ _ _ _ _ _ => true
  | .fclass _ _ (.pred _ _) _ => true
  | _ => false

/-! ### Releases, acquires and fences (R215 to R217) -/

/-- Whether a space makes an ordered access act at block scope or wider (R215): the stack acts at lane scope. -/
def Space.scoped : Space → Bool
  | .stack => false
  | _ => true

/-- Stores, REDs and XCLRs of the given lanes not yet acknowledged. DESIGN CHOICE, safe: log entry 18. -/
def State.storesPending (s : State) (is : Issue) (ls : BitVec 32) : Bool :=
  (s.core (is.g.coreOf is.b)).stores.any fun b =>
    b.gid == is.gid && (Config.releaseAll || b.lanes.any fun x => lane ls x.1)

/-- Returning atomics and unposted stores of the given lanes not yet complete. DESIGN CHOICE, safe: log entry 18. -/
def Group.atomicsPending (g : Group) (ls : BitVec 32) : Bool :=
  (SMap.entries g.oplog).any fun o =>
    (o.2.kind == .atomic || o.2.kind == .store) && (Config.releaseAll || o.2.pending &&& ls != 0)

/-- A LAUNCH of the group whose record is still being read: a release waits until it is sent, so that it is accepted before any LAUNCH that
it happens before (R131). -/
def Group.launchUnsent (g : Group) : Bool := (SMap.entries g.oplog).any fun o => o.2.kind == .launch && decide (o.1 < 16)

def State.releaseHeld (s : State) (is : Issue) (ls : BitVec 32) : Bool :=
  s.storesPending is ls || is.g.atomicsPending ls || is.g.launchUnsent

/-- A posted store of the lanes waits on a page. -/
def State.storesPended (s : State) (is : Issue) (ls : BitVec 32) : Bool :=
  let c := is.g.coreOf is.b
  (s.core c).stores.any fun b => b.gid == is.gid && b.lanes.any (fun x => lane ls x.1) &&
    s.md.reqs.any fun r => r.who == .store c b.id && r.waiting.isSome

/-- Loads and returning atomics of the group not complete, or not confirmed. -/
def Group.loadsPending (g : Group) : Bool :=
  g.lineSpec.isSome || (SMap.entries g.oplog).any fun o =>
    o.2.kind == .load || o.2.kind == .atomic || o.2.kind == .ldc || o.2.kind == .cell

/-- Some load of the group uses expired data that is not confirmed (R212). -/
def Group.unconfirmed (g : Group) : Bool := g.oplog.any fun o => o.2.any (·.unconfirmed)

/-- A load or a returning atomic that acquires (R216). -/
def isAcquire (i : Instr) : Bool :=
  match accessOf i with
  | some (_, ord, true, _) => ord == .acq || ord == .sc || ord == .ar
  | _ => false

/-- Whether an operand-log entry is an acquire under way (R216). -/
def OpEntry.acquires (o : OpEntry) : Bool := (wordOf o.raw).any isAcquire

/-- Words that an acquire holds (R216, R217). -/
def heldByAcquire (i : Instr) : Bool :=
  (accessOf i).isSome || isHint i || isArrive i || isCopy i || isMemop i || isMatrix i ||
    (match i with | .watch _ _ _ _ => true | .launch _ _ _ _ => true | _ => false)

/-- Words that a release fence holds (R217). -/
def heldByRelease (i : Instr) : Bool :=
  (match accessOf i with | some (_, _, _, true) => true | _ => false) || isArrive i || isCopy i || isMemop i

/-- Whether a fence in force still waits. -/
def State.fenceWaits (s : State) (is : Issue) (f : FenceHold) : Bool × Bool :=
  (f.rel && s.releaseHeld is f.lanes, f.acq && is.g.loadsPending)

def State.fenceHeld (s : State) (is : Issue) (i : Instr) : Bool :=
  is.g.fences.any fun f =>
    let w := s.fenceWaits is f
    (w.1 || w.2) && ((f.acq && heldByAcquire i) || (f.rel && heldByRelease i))

/-- Drops the fences whose conditions hold; a release fence stays, holding nothing, until the write, atomic or arrival that
is part of its release (R215) issues. DEDUCED, unsafe: log entry 102. -/
def State.settleFences (s : State) (is : Issue) (i : Instr) : State :=
  s.modGroup is.gid fun g =>
    { g with fences := (g.fences.filterMap fun f =>
        if (s.fenceWaits is f).1 || (s.fenceWaits is f).2 then some f
        else if (f.rel || !f.acq) && (is.act = 0 || !heldByRelease i) then some { lanes := 0, rel := false, acq := false, sc := false }
        else none).eraseDups }

/-- An acquire under way holds the words of R216. An acquire completes with every unconfirmed load confirmed: one that could complete at once
issues only then. -/
def Group.acquireHeld (g : Group) (i : Instr) : Bool :=
  (heldByAcquire i && (SMap.entries g.oplog).any fun o => o.2.acquires) || (isAcquire i && g.unconfirmed)

/-- A release FENCE waits for the stores it covers that wait on a page, so that their faults are delivered at it (R115); for
others it only holds later words (R217). An access waits as its order says: rel, ar and sc for the prior stores of its lanes, sc also for prior loads
(R215, R216); ARRIVE, LAUNCH, the copy commands and MEMOP wait as releases, LAUNCH for every lane
(R128, R221). DEDUCED, unsafe: log entry 102. -/
def State.orderHeld (s : State) (is : Issue) (i : Instr) : Bool :=
  match i with
  | .arrive _ rlx _ _ => !rlx && s.releaseHeld is is.own
  | .arriveAddress _ rlx _ _ _ => !rlx && s.releaseHeld is is.own
  -- FLSIG and HOSTINT wait after their due fault (R400, R439)
  | .flsig _ _ | .hostint _ => false
  -- the LAUNCHes of a group are sent, and so accepted, in program order (R131)
  | .launch _ _ _ _ => s.releaseHeld is 0xFFFFFFFF
  | .cpyx _ _ => false
  | .fence _ scope ord => scope != .lane && scope != .grp && ord != .acq && s.storesPended is is.act
  | _ =>
    if isCopy i || isMemop i then s.releaseHeld is is.own
    else match accessOf i with
    | some (sp, ord, _, _) =>
      Space.scoped sp && (((ord == .rel || ord == .ar || ord == .sc) && s.releaseHeld is is.act)
        || (ord == .sc && is.g.loadsPending))
    | none => false

/-! ### Operand log, sidings and store buffer (R164, R393) -/

/-- Words that hold an operand-log and a sidings entry. -/
def needsLog : Instr → Bool
  | .ld _ _ _ sp _ _ _ _ => sp == .global || sp == .const || sp == .stack || sp == .cell
  | .ldc _ _ _ _ _ _ _ _ => true
  | .launch _ _ _ _ => true
  | i => isAtom i

/-- An operand-log entry that holds a sidings entry too (R164, R225): of a load, a returning atomic, a LAUNCH's record read or a store through a
checked segment. -/
def OpEntry.sided (o : OpEntry) : Bool := o.kind != .mma

/-- Sidings entries that a group holds, and those in use on a core. -/
def Group.sidings (g : Group) : Nat := ((SMap.entries g.oplog).filter fun o => decide (o.1 < 16) && o.2.sided).length
def State.sidings (s : State) (c : Nat) : Nat :=
  ((SMap.entries s.groups).map fun g =>
    match s.block? g.2.bid with
    | some b => if g.2.coreOf b == c then g.2.sidings else 0
    | none => 0).sum

/-- Store-buffer entries of 64 bytes that a store's lanes fill. DEDUCED, unsafe: log entry 54. -/
def BufStore.size (b : BufStore) : Nat := ((b.lanes.map fun x => x.2.1 / 64).eraseDups).length

/-- Store-buffer entries in use on a core. -/
def Core.storeSize (k : Core) : Nat := (k.stores.map BufStore.size).sum

/-- A peer access of a group, but for a store, waits until its earlier peer stores are performed (R208). -/
def State.peerHeld (s : State) (is : Issue) (i : Instr) : Bool :=
  match (match i with | .st _ _ _ _ _ _ _ => none | _ => accessOf i) with
  | some (.peer, _, _, _) => (s.core (is.g.coreOf is.b)).stores.any fun b => b.gid == is.gid && b.sp == 2
  | _ => false

/-- No operand-log or sidings entry is free for a word, or its earlier peer stores are not performed. -/
def State.resourceHeld (s : State) (is : Issue) (i : Instr) : Bool :=
  let c := is.g.coreOf is.b
  (needsLog i && (16 ≤ is.g.logCount || 256 ≤ s.sidings c)) || s.peerHeld is i

/-- The store buffer has an entry for every 64 bytes in which some bytes at VAs lie (R151, R393). -/
def State.storeRoom (s : State) (is : Issue) (vas : List Nat) : Bool :=
  decide ((s.core (is.g.coreOf is.b)).storeSize + ((vas.map (· / 64)).eraseDups).length ≤ 512)

/-! ### System registers and lane access (R198, R350, R423) -/

/-- Whether a word under way may still change FSTAT, KSTAT, FMASK or MRES (R198). -/
def Group.statusInFlight (g : Group) : Bool := !g.kwords.isEmpty || g.mma.isSome || !(SMap.entries g.oplog).isEmpty

/-- A posted RED, whose flags may still come back (R49, R198). -/
def State.redInFlight (s : State) (is : Issue) : Bool :=
  (s.core (is.g.coreOf is.b)).stores.any fun b => b.gid == is.gid && b.red

/-- A word whose arrivals or faults may still switch lanes of the group off (R198, R231, R234, R249, R417). -/
def State.maskInFlight (s : State) (is : Issue) : Bool :=
  !is.g.tileWords.isEmpty || ((SMap.entries s.blocks).any fun b => b.2.cmds.any (·.gid == is.gid)) || s.md.memops.any (·.gid == is.gid)
    || s.arrivals.any fun x => match x.by_ with
      | .group k _ => k == is.gid
      | .engine k _ => k == is.gid
      | .watch => false

def maskReg : Instr → Bool
  | .srd _ _ n | .swr _ _ n => n == 0x001
  | _ => false
def statusReg : Instr → Bool
  | .srd _ _ n | .swr _ _ n => n == 0x001 || n == 0x002 || n == 0x003 || n == 0x004
  | _ => false

/-! ### Matrix words (R263 to R265, R410, R416) -/

/-- The tile and version a word waits for, and whether it writes the tile. -/
def tileOf : Instr → Option (Nat × Option Nat × Bool)
  | .azero _ t v _ => some (t, some v, true)
  | .mma _ _ t v _ _ _ _ _ | .mmas _ _ t v _ _ _ _ _ => some (t, some v, true)
  | .ald _ t v _ _ => some (t, some v, true)
  | .awr _ t v _ _ _ => some (t, some v, true)
  | .ast _ t v now _ _ => some (t, if now then none else some v, false)
  | .ard _ t v now _ _ _ => some (t, if now then none else some v, false)
  | _ => none

/-- The tile that an engine word under way works on, and whether it writes it. -/
def engineTile (raw : BitVec 64) : Option (Nat × Option Nat × Bool) := (wordOf raw).bind tileOf

/-- Tiles on which some group of the block executes: (tile, writes, checked read). -/
def State.busyTiles (s : State) (bid : Nat) : List (Nat × Bool × Bool) :=
  ((SMap.entries s.groups).map fun g =>
    if g.2.bid == bid then
      (match g.2.mma with | some m => [(m.tile, true, false)] | none => []) ++
      (if bitAt g.2.mres.toNat 63 then [(bits g.2.mres.toNat 57 6, true, false)] else []) ++
      (g.2.tileWords.filterMap fun x => (engineTile x.raw).map fun y => (y.1, y.2.2, y.2.1.isSome && !y.2.2))
    else []).flatten

/-- The version and tile-busy conditions (R264, R416), for a tile in use. -/
def State.tileHeld (s : State) (is : Issue) (i : Instr) : Bool :=
  match tileOf i with
  | none => false
  | some (t, v, writes) =>
    let busy := s.busyTiles is.g.bid
    let writing := busy.any fun x => x.1 == t && x.2.1
    let reading := busy.any fun x => x.1 == t && x.2.2
    match SMap.find? is.b.tiles t with
    | none => writing
    | some d =>
      match v with
      | some n => d.ver != n || writing || (writes && reading)
      | none => false

/-- A matrix word of the issuing entry is executing: the entry stays at it (R265, R410). -/
def Issue.executing (is : Issue) : Bool :=
  is.g.mma.any (fun m => m.rows &&& is.e.mask != 0) || is.g.tileWords.any fun x => x.lanes &&& is.e.mask != 0

/-- A matrix word waits for its entry's engine word, for an MMA of its group (R264), for an operand-log entry and for its tile. -/
def State.matrixHeld (s : State) (is : Issue) (i : Instr) : Bool :=
  match i with
  | .mma _ _ _ _ _ _ _ _ _ | .mmas _ _ _ _ _ _ _ _ _ =>
    is.executing || is.g.mma.isSome || bitAt is.g.mres.toNat 63 || 16 ≤ is.g.logCount || s.tileHeld is i
  | .azero _ _ _ _ | .ald _ _ _ _ _ | .awr _ _ _ _ _ _ => is.executing || 16 ≤ is.g.logCount || s.tileHeld is i
  | .ast _ _ _ _ _ _ | .ard _ _ _ _ _ _ _ => is.executing || s.tileHeld is i
  | .acfg _ _ _ _ => is.executing
  | _ => false

/-! ### The whole condition (R160) -/

/-- Whether the scoreboard holds a word: a deferral candidate whose sources only loads hold may issue as a deferred word
(R165), and BRA decides by itself (R166). -/
def Group.scoreBlocks (g : Group) (act : BitVec 32) (i : Instr) : Bool :=
  match i with
  | .bra _ _ _ => false
  | _ => g.scoreHeld act i && !(deferrable i && g.lineSpec.isNone &&
      decide (((SMap.entries g.oplog).map fun o => o.2.deferred.length).sum < 2) &&
      !(g.writeKeys act i).any (fun k => g.inFlight.contains k || g.readLater.contains k) &&
      (g.readKeys act i).all (fun k => !g.inFlight.contains k || g.loadKeys.contains k))

/-- Whether a word of the issuer must wait. With an empty active set it changes nothing, and only the scoreboard and
speculation hold it. DEDUCED, safe: log entry 20; DEDUCED, unsafe: log entry 24. -/
def State.held (s : State) (is : Issue) (i : Instr) : Bool :=
  is.g.scoreBlocks is.act i
    || (is.e.spec && isFence i)
    || (is.g.lineSpec.isSome && (isFence i || isControl i))
    || (is.act != 0 &&
      (((isExchange i || isLaneAccess i) && (is.g.entries.any (·.spec) || is.g.lineSpec.isSome))
        || s.fenceHeld is i || is.g.acquireHeld i || s.orderHeld is i || s.resourceHeld is i
        || (statusReg i && (is.g.statusInFlight || s.redInFlight is)) || (maskReg i && s.maskInFlight is)
        || s.matrixHeld is i
        || (isSmall i && is.g.kwords.any fun k => k.lanes &&& is.e.mask != 0)
        || ((is.e.spec || is.g.lineSpec.isSome) && decide (32 < (is.g.shadowed is.i is.act i).shadowSlots))))

/-! ### The frame of every word -/

/-- The issuer with its active set for a guard (R306). -/
def Issue.with (is : Issue) (q : Guard) : Issue := { is with act := is.g.active q is.e.mask }

/-- The group as it stands now. -/
def Issue.now (is : Issue) (s : State) : Issue :=
  match s.group? is.gid with
  | none => is
  | some g => { is with g := g }

/-- The issuing entry goes on past its word. -/
def State.goOn (s : State) (is : Issue) : State := s.modGroup is.gid fun g => g.advance is.i

/-- Drops active lanes that were switched off, and answers whether the entry still has lanes (R189). -/
def State.survivors (s : State) (is : Issue) (off : BitVec 32) : Option Issue :=
  match s.group? is.gid with
  | none => none
  | some g => if g.live &&& is.e.mask = 0 then none else some { is with g := g, act := is.act &&& ~~~off &&& g.live }

/-- Access of a system register: not assigned or not reachable, read only, or read and write (R187). -/
inductive SysAccess where
  | none_ | r | rw
  deriving DecidableEq, Repr

def sysAccess (fw : Bool) (n : Nat) : SysAccess :=
  if n ∈ [0x000, 0x004, 0x005, 0x006, 0x012, 0x020] then .r
  else if n ∈ [0x001, 0x002, 0x003, 0x008, 0x009, 0x00A, 0x00B, 0x00C, 0x00D, 0x010, 0x011] then .rw
  else if decide (0x100 ≤ n) && decide (n < 0x118) && fw then .r
  else .none_

/-- A system register access that is ILLEGAL whatever the operand's value (R187, R318). -/
def sysIllegal (fw : Bool) (i : Instr) : Bool :=
  match i with
  | .srd _ _ n => sysAccess fw n == .none_
  | .swr _ _ n => sysAccess fw n != .rw
  | _ => false

/-- Whether a word's operands are such as it accepts (R182, R186, R187, R316, R332, R345): within the launch's counts, no s destination of PPACK, a pair
for IMADW's addend, and a register that it may access. -/
def Group.accepts (g : Group) (i : Instr) : Bool :=
  (usesAll i).ok g.vcount g.scount && !sysIllegal g.fw i &&
    match i with
    | .ppack _ d _ => !dstIsS d
    | .imadw _ _ _ _ _ c => (match c with | .imm _ => false | .spec _ => false | _ => true)
    | _ => true

/-- The word executes for its active set: operand bounds (R182, R186), index check (R183, R184), then its own effect.
`run` also moves the entry on. -/
def State.perform (s : State) (is : Issue) (i : Instr) (run : Issue → State → State) : State :=
  if is.act = 0 then s.goOn is
  else if !is.g.accepts i then (if is.ahead then s else s.illegal is.gid is.i is.act)
  else
    let bad := is.g.badLanes i is.act
    let helpers := bad &&& is.g.helper
    let real := bad &&& ~~~is.g.helper
    if bad = 0 then
      let s1 := s.modGroup is.gid fun g => g.shadowed is.i is.act i
      run (is.now s1) s1
    else if real != 0 && is.ahead then s
    else
      let s1 := s.modGroup is.gid fun g => g.shadowed is.i is.act i
      let r := if real = 0 then (s1, false) else s1.faultAt is.gid is.i 3 real none
      if r.2 then r.1
      else
        let s2 := r.1.modGroup is.gid fun g => g.zeroDest i helpers
        match s2.survivors is bad with
        | none => s2
        | some is' => if is'.act = 0 then s2.goOn is' else run is' s2

/-! ### Attributed faults (R115, R117, R249, R432) -/

/-- Before a release, FLSIG or EXIT performs, an attributed fault that is due is delivered: as a trap whose TPC names the
word, which issues again after ERET, or by switching its lanes off. While a handler runs it is held. DEDUCED, unsafe: log entry 25. -/
def State.lateGate (is : Issue) (s : State) (run : Issue → State → State) : State :=
  match is.g.late with
  | [] => run is s
  | f :: rest =>
    if is.g.trap then run is s
    else if is.g.hasHandler then
      (s.setGroup is.gid { is.g with late := rest }).raise is.gid is.i
        { cause := f.cause, kind := f.kind, late := true, lanes := f.lanes, tclause := is.e.clause, tword := is.e.word,
          record := some f }
    else
      let off := is.g.late.foldl (fun m x => m ||| x.lanes) 0
      let g1 := is.g.late.foldl (fun h x => h.switchOff (x.lanes &&& h.live) x.cause) { is.g with late := [] }
      let s1 := s.setGroup is.gid g1
      match s1.survivors is off with
      | none => s1
      | some is' => if is'.act = 0 then s1.goOn is' else run is' s1

/-- The first write, atomic or arrival after a FENCE is part of its release (R215), so a fault that is due is delivered there.
DEDUCED, unsafe: log entry 102. -/
def Issue.endsFence (is : Issue) (i : Instr) : Bool := heldByRelease i && is.g.fences.any fun f => f.rel || !f.acq

/-- An instruction word: it acts for its issuer, unless something holds it. DEDUCED, safe: log entry 20; DEDUCED, unsafe: log entry 113. -/
def State.word (s : State) (i : Instr) (q : Guard) (run : Issue → State → State) : Host.Outcome State Fault Refusal :=
  match s.issuer with
  | none => .refused .noIssuer
  | some is0 =>
    let is := is0.with q
    .next (if s.held is i then s
      else (s.settleFences is i).perform (is.now (s.settleFences is i)) i fun is1 s1 =>
        if is.endsFence i then State.lateGate is1 s1 run else run is1 s1)

end Sys2Proof.Machine
end

