-- ==== Sys2Proof/Machine/Alu.lean ====
section
/-! DEFINITION. Machine/Alu.lean: the shared forms of the lane-select words: one result per lane or one uniform result, one
predicate per lane, and compares that issue as deferred words (R165, R186, R326, R328). -/

namespace Sys2Proof.Machine

/-- Writes `f l` to the destination for every working lane; every source was read from the group before. -/
def Group.writeLanes (g : Group) (wide : Bool) (d : Dst) (ls : List Nat) (f : Nat → Nat) : Group :=
  ls.foldl (fun h l => h.put wide d l (f l)) g

/-- A word with one register result per lane, or one uniform result. -/
def State.alu (is : Issue) (wide : Bool) (d : Dst) (f : Nat → Nat) (s : State) : State :=
  (s.setGroup is.gid (is.g.writeLanes wide d (is.work d) f)).goOn is

/-- A word with one register result and flags per lane. The flags of a uniform word go to every active lane. DEDUCED, unsafe: log entry 21. -/
def State.falu (is : Issue) (wide : Bool) (d : Dst) (f : Nat → Nat × Flags) (s : State) : State :=
  let g1 := is.g.writeLanes wide d (is.work d) fun l => (f l).1
  (s.setGroup is.gid (g1.joinFlags (lanes is.act) fun l => (f (if dstIsS d then is.low else l)).2)).goOn is

/-- A word that writes one predicate in every active lane. DEDUCED, unsafe: log entry 21. -/
def State.predAlu (is : Issue) (pd : Nat) (f : Nat → Bool × Flags) (s : State) : State :=
  let g1 := is.g.setPreds pd is.act (maskOf fun l => lane is.act l && (f l).1)
  (s.setGroup is.gid (g1.joinFlags (lanes is.act) fun l => (f l).2)).goOn is

/-- The operand-log entries that hold a source of a word, in the order of their issue. -/
def Group.holders (g : Group) (act : BitVec 32) (i : Instr) : List Nat :=
  let rd := g.readKeys act i
  (sortBy (fun a b => decide (a.2.seq ≤ b.2.seq)) <| (SMap.entries g.oplog).filter fun o => o.2.kind != .store && !(o.2.unconfirmed && o.2.pending == 0) && (flightKeys o.2.raw o.2.dregs).any (rd.contains ·)).map (·.1)

/-- A deferred word issues: it is attached to a load that holds a source of it, and its entry goes on (R165). DEDUCED, unsafe: log entry 23. -/
def State.defer (s : State) (is : Issue) (i : Instr) : State :=
  match (is.g.holders is.e.mask i).getLast? with
  | none => s
  | some k =>
    let raw := (encode i).getD 0
    (s.modGroup is.gid fun g => { g with oplog := SMap.modify g.oplog k fun o =>
        { o with deferred := o.deferred ++ [(raw, is.e.mask, is.e.spec)] } }).goOn is

/-- A compare: it executes at once, or issues as a deferred word when only outstanding loads hold its sources (R165). -/
def State.predWord (s : State) (i : Instr) (q : Guard) (run : Issue → State → State) :
    Host.Outcome State Fault Refusal :=
  match s.issuer with
  | none => .refused .noIssuer
  | some is0 =>
    let is := is0.with q
    if is.g.scoreHeld is.act i then
      .next (if s.held is i || is.g.badLanes i is.e.mask != 0 || !is.g.accepts i then s
        else (s.modGroup is.gid fun g => g.shadowed is.i is.act i).defer is i)
    else s.word i q run

end Sys2Proof.Machine
end

