-- ==== Sys2Proof/Machine/Int.lean ====
section
/-! DEFINITION. Machine/Int.lean: integer, bit and compare words (R328 to R343). -/

namespace Sys2Proof

/-- Width and signedness of an integer type (R307). -/
def IntTy.width : IntTy → Nat
  | .i32 | .n32 => 32 | .i64 | .n64 => 64 | .i16 | .n16 => 16 | .i8 | .n8 => 8
def IntTy.signed : IntTy → Bool
  | .i32 | .i64 | .i16 | .i8 => true
  | .n32 | .n64 | .n16 | .n8 => false

/-- A source value read under R328. -/
def IntTy.val (t : IntTy) (x : Nat) : Int :=
  if t.signed then Machine.sext t.width x else ((x % 2 ^ t.width : Nat) : Int)

/-- A result as written to its register or pair under R328. -/
def IntTy.result (t : IntTy) (q : Int) : Nat :=
  let r := Machine.wrap t.width q
  if t.width < 32 && t.signed then Machine.wrap 32 (Machine.sext t.width r) else r

/-- The least and greatest values of a type. -/
def IntTy.lo (t : IntTy) : Int := if t.signed then -(2 ^ (t.width - 1)) else 0
def IntTy.hi (t : IntTy) : Int := if t.signed then 2 ^ (t.width - 1) - 1 else 2 ^ t.width - 1

end Sys2Proof

namespace Sys2Proof.Machine

/-- A two-operand integer word over signed or natural values. -/
def State.int2 (s : State) (i : Instr) (g : Guard) (t : IntTy) (d : Dst) (a b : Src) (f : Int → Int → Int) :
    Host.Outcome State Fault Refusal :=
  s.word i g fun is => State.alu is t.is64 d fun l =>
    t.result (f (t.val (s.opnd is t.is64 a l)) (t.val (s.opnd is t.is64 b l)))

/-- A one-operand integer word. -/
def State.int1 (s : State) (i : Instr) (g : Guard) (t : IntTy) (d : Dst) (a : Src) (f : Int → Int) :
    Host.Outcome State Fault Refusal :=
  s.word i g fun is => State.alu is t.is64 d fun l => t.result (f (t.val (s.opnd is t.is64 a l)))

/-- A two-operand word over natural values of 32 or 64 bits; the result is taken at its width. -/
def State.nat2 (s : State) (i : Instr) (g : Guard) (w : Bool) (d : Dst) (a b : Src) (f : Nat → Nat → Nat → Nat) :
    Host.Outcome State Fault Refusal :=
  let n := if w then 64 else 32
  s.word i g fun is => State.alu is w d fun l => f n (s.opnd is w a l) (s.opnd is w b l) % 2 ^ n

/-- A shift: the amount is bits 7:0 of an operand of the word's width (R328, R336). -/
def State.shift (s : State) (i : Instr) (g : Guard) (w : Bool) (d : Dst) (a b : Src) (f : Nat → Nat → Nat → Nat) :
    Host.Outcome State Fault Refusal :=
  let n := if w then 64 else 32
  s.word i g fun is => State.alu is w d fun l => f n (s.opnd is w a l) (s.opnd is w b l % 256) % 2 ^ n

def execIadd (g : Guard) (t : IntTy) (d : Dst) (a b : Src) (s : State) : Host.Outcome State Fault Refusal :=
  s.int2 (.iadd g t d a b) g t d a b (· + ·)
def execIsub (g : Guard) (t : IntTy) (d : Dst) (a b : Src) (s : State) : Host.Outcome State Fault Refusal :=
  s.int2 (.isub g t d a b) g t d a b (· - ·)
/-- R330: the one saturating word of the table. -/
def execIadds (g : Guard) (t : IntTy) (d : Dst) (a b : Src) (s : State) : Host.Outcome State Fault Refusal :=
  s.int2 (.iadds g t d a b) g t d a b fun x y => sat (x + y) t.lo t.hi
def execImul (g : Guard) (t : IntTy) (d : Dst) (a b : Src) (s : State) : Host.Outcome State Fault Refusal :=
  s.int2 (.imul g t d a b) g t d a b (· * ·)
def execImulhi (g : Guard) (t : IntTy) (d : Dst) (a b : Src) (s : State) : Host.Outcome State Fault Refusal :=
  s.int2 (.imulhi g t d a b) g t d a b fun x y => x * y / 2 ^ t.width
def execImad (g : Guard) (t : IntTy) (d : Dst) (a b c : Src) (s : State) : Host.Outcome State Fault Refusal :=
  s.word (.imad g t d a b c) g fun is => State.alu is t.is64 d fun l =>
    t.result (t.val (s.opnd is t.is64 a l) * t.val (s.opnd is t.is64 b l) + t.val (s.opnd is t.is64 c l))
/-- R332. -/
def execImadw (g : Guard) (t : IntTy) (d : Dst) (a b c : Src) (s : State) : Host.Outcome State Fault Refusal :=
  s.word (.imadw g t d a b c) g fun is => State.alu is true d fun l =>
    wrap 64 (t.val (s.opnd is false a l) * t.val (s.opnd is false b l) + (s.opnd is true c l : Nat))

/-- Quotient and remainder of R333. -/
def divPair (t : IntTy) (x y : Int) : Int × Int :=
  if y = 0 then (2 ^ t.width - 1, x)
  else if t.signed && x = t.lo && y = -1 then (x, 0)
  else (Int.tdiv x y, x - Int.tdiv x y * y)
def execIdiv (g : Guard) (t : IntTy) (d : Dst) (a b : Src) (s : State) : Host.Outcome State Fault Refusal :=
  s.int2 (.idiv g t d a b) g t d a b fun x y => (divPair t x y).1
def execIrem (g : Guard) (t : IntTy) (d : Dst) (a b : Src) (s : State) : Host.Outcome State Fault Refusal :=
  s.int2 (.irem g t d a b) g t d a b fun x y => (divPair t x y).2
def execImin (g : Guard) (t : IntTy) (d : Dst) (a b : Src) (s : State) : Host.Outcome State Fault Refusal :=
  s.int2 (.imin g t d a b) g t d a b fun x y => if x ≤ y then x else y
def execImax (g : Guard) (t : IntTy) (d : Dst) (a b : Src) (s : State) : Host.Outcome State Fault Refusal :=
  s.int2 (.imax g t d a b) g t d a b fun x y => if x ≤ y then y else x
def execIabs (g : Guard) (t : IntTy) (d : Dst) (a : Src) (s : State) : Host.Outcome State Fault Refusal :=
  s.int1 (.iabs g t d a) g t d a fun x => if x < 0 then -x else x
def execIneg (g : Guard) (t : IntTy) (d : Dst) (a : Src) (s : State) : Host.Outcome State Fault Refusal :=
  s.int1 (.ineg g t d a) g t d a fun x => -x

/-- The carry in of R331 for a lane: a predicate, 0 (code 12) or 1 (code 13). -/
def Group.carryIn (g : Group) (ci l : Nat) : Nat := if ci < 12 then (if g.pred ci l then 1 else 0) else if ci = 13 then 1 else 0
/-- IADDC (R331): the sum and the carry out, computed from the operands as they stood. A uniform word writes its carry in
every active lane. -/
def execIaddc (g : Guard) (wide : Bool) (d : Dst) (a b : Src) (cin cout : Nat) (s : State) :
    Host.Outcome State Fault Refusal :=
  let n := if wide then 64 else 32
  s.word (.iaddc g wide d a b cin cout) g fun is s1 =>
    let t (l : Nat) := s.opnd is wide a l + s.opnd is wide b l + is.g.carryIn cin l
    let at_ (l : Nat) := if dstIsS d then t is.low else t l
    let g1 := is.g.writeLanes wide d (is.work d) fun l => t l % 2 ^ n
    (s1.setGroup is.gid (g1.setPreds cout is.act (maskOf fun l => lane is.act l && decide (2 ^ n ≤ at_ l)))).goOn is

/-! ### Bit operations -/

def execAnd (g : Guard) (wide : Bool) (d : Dst) (a b : Src) (s : State) : Host.Outcome State Fault Refusal :=
  s.nat2 (.and g wide d a b) g wide d a b fun _ x y => x &&& y
def execOr (g : Guard) (wide : Bool) (d : Dst) (a b : Src) (s : State) : Host.Outcome State Fault Refusal :=
  s.nat2 (.or g wide d a b) g wide d a b fun _ x y => x ||| y
def execXor (g : Guard) (wide : Bool) (d : Dst) (a b : Src) (s : State) : Host.Outcome State Fault Refusal :=
  s.nat2 (.xor g wide d a b) g wide d a b fun _ x y => x ^^^ y
def execAndn (g : Guard) (wide : Bool) (d : Dst) (a b : Src) (s : State) : Host.Outcome State Fault Refusal :=
  s.nat2 (.andn g wide d a b) g wide d a b fun n x y => x &&& (y ^^^ (2 ^ n - 1))
def execNot (g : Guard) (wide : Bool) (d : Dst) (a : Src) (s : State) : Host.Outcome State Fault Refusal :=
  s.word (.not g wide d a) g fun is => State.alu is wide d fun l =>
    (s.opnd is wide a l ^^^ (2 ^ (if wide then 64 else 32) - 1)) % 2 ^ (if wide then 64 else 32)

/-- The immediate forms compute as their A forms with y := imm24 (R335). -/
def execIaddImm (g : Guard) (t : IntTy) (d : Dst) (a : Src) (i : Int) (s : State) : Host.Outcome State Fault Refusal :=
  s.int1 (.iaddImm g t d a i) g t d a fun x => x + t.val (wrap t.width i)
def State.natImm (s : State) (i : Instr) (g : Guard) (w : Bool) (d : Dst) (a : Src) (im : Int) (f : Nat → Nat → Nat) :
    Host.Outcome State Fault Refusal :=
  let n := if w then 64 else 32
  s.word i g fun is => State.alu is w d fun l => f (s.opnd is w a l) (wrap n im) % 2 ^ n
def execAndImm (g : Guard) (wide : Bool) (d : Dst) (a : Src) (i : Int) (s : State) : Host.Outcome State Fault Refusal :=
  s.natImm (.andImm g wide d a i) g wide d a i fun x y => x &&& y
def execOrImm (g : Guard) (wide : Bool) (d : Dst) (a : Src) (i : Int) (s : State) : Host.Outcome State Fault Refusal :=
  s.natImm (.orImm g wide d a i) g wide d a i fun x y => x ||| y
def execXorImm (g : Guard) (wide : Bool) (d : Dst) (a : Src) (i : Int) (s : State) : Host.Outcome State Fault Refusal :=
  s.natImm (.xorImm g wide d a i) g wide d a i fun x y => x ^^^ y

def execShl (g : Guard) (wide : Bool) (d : Dst) (a b : Src) (s : State) : Host.Outcome State Fault Refusal :=
  s.shift (.shl g wide d a b) g wide d a b fun w x n => if w ≤ n then 0 else x * 2 ^ n
def execShr (g : Guard) (wide : Bool) (d : Dst) (a b : Src) (s : State) : Host.Outcome State Fault Refusal :=
  s.shift (.shr g wide d a b) g wide d a b fun w x n => if w ≤ n then 0 else x / 2 ^ n
def execSar (g : Guard) (wide : Bool) (d : Dst) (a b : Src) (s : State) : Host.Outcome State Fault Refusal :=
  s.shift (.sar g wide d a b) g wide d a b fun w x n => wrap w (sext w x / 2 ^ n)
def execRot (g : Guard) (wide : Bool) (d : Dst) (a b : Src) (s : State) : Host.Outcome State Fault Refusal :=
  s.shift (.rot g wide d a b) g wide d a b fun w x n => x * 2 ^ (n % w) + x / 2 ^ (w - n % w)
/-- FSH (R337). -/
def execFsh (g : Guard) (wide : Bool) (d : Dst) (lo hi n : Src) (s : State) : Host.Outcome State Fault Refusal :=
  let w := if wide then 64 else 32
  s.word (.fsh g wide d lo hi n) g fun is => State.alu is wide d fun l =>
    (s.opnd is wide hi l * 2 ^ w + s.opnd is wide lo l) / 2 ^ min (s.opnd is wide n l % 256) w % 2 ^ w

/-- A bit count: a 32-bit natural even for a .b64 source (R338). -/
def State.countWord (s : State) (i : Instr) (g : Guard) (w : Bool) (d : Dst) (a : Src) (f : Nat → Nat → Nat) :
    Host.Outcome State Fault Refusal :=
  s.word i g fun is => State.alu is false d fun l => f (if w then 64 else 32) (s.opnd is w a l)
def execPopc (g : Guard) (wide : Bool) (d : Dst) (a : Src) (s : State) : Host.Outcome State Fault Refusal :=
  s.countWord (.popc g wide d a) g wide d a popcount
def execClz (g : Guard) (wide : Bool) (d : Dst) (a : Src) (s : State) : Host.Outcome State Fault Refusal :=
  s.countWord (.clz g wide d a) g wide d a fun w x => w - bitLen x
def execCtz (g : Guard) (wide : Bool) (d : Dst) (a : Src) (s : State) : Host.Outcome State Fault Refusal :=
  s.countWord (.ctz g wide d a) g wide d a trailingZeros
def execBrev (g : Guard) (wide : Bool) (d : Dst) (a : Src) (s : State) : Host.Outcome State Fault Refusal :=
  s.word (.brev g wide d a) g fun is => State.alu is wide d fun l =>
    reverseBits (if wide then 64 else 32) (s.opnd is wide a l)

/-- The BFX field of R339: bits at or above w read as the sign of x (.i) or 0. -/
def bitField (t : IntTy) (x ctl : Nat) : Int :=
  let pos := ctl % 256
  let len := min (bits ctl 8 8) t.width
  if len = 0 then 0
  else
    let f := wrap len (t.val x / 2 ^ pos)
    if t.signed then sext len f else (f : Int)
def execBfx (g : Guard) (t : IntTy) (d : Dst) (a ctl : Src) (s : State) : Host.Outcome State Fault Refusal :=
  s.word (.bfx g t d a ctl) g fun is => State.alu is t.is64 d fun l =>
    t.result (bitField t (s.opnd is t.is64 a l) (s.opnd is t.is64 ctl l))

/-- BFI of R339 at width w. -/
def bitInsert (w x y ctl : Nat) : Nat :=
  let pos := ctl % 256
  let top := min (pos + bits ctl 8 8) w
  if w ≤ pos then x
  else x % 2 ^ pos + (y % 2 ^ (top - pos)) * 2 ^ pos + x / 2 ^ top * 2 ^ top
def execBfi (g : Guard) (wide : Bool) (d : Dst) (base ins ctl : Src) (s : State) : Host.Outcome State Fault Refusal :=
  s.word (.bfi g wide d base ins ctl) g fun is => State.alu is wide d fun l =>
    bitInsert (if wide then 64 else 32) (s.opnd is wide base l) (s.opnd is wide ins l) (s.opnd is wide ctl l)

/-- One byte of PRMT (R340): nibble i of the selector over the eight bytes of b:a. -/
def permByte (ba sel i : Nat) : Nat :=
  let nib := bits sel (4 * i) 4
  let byte := bits ba (8 * (nib % 8)) 8
  if nib < 8 then byte else if 128 ≤ byte then 255 else 0
def permute (x y sel : Nat) : Nat :=
  let ba := x + y * 2 ^ 32
  permByte ba sel 0 + permByte ba sel 1 * 2 ^ 8 + permByte ba sel 2 * 2 ^ 16 + permByte ba sel 3 * 2 ^ 24
def execPrmt (g : Guard) (d : Dst) (a b sel : Src) (s : State) : Host.Outcome State Fault Refusal :=
  s.word (.prmt g d a b sel) g fun is => State.alu is false d fun l =>
    permute (s.opnd is false a l) (s.opnd is false b l) (s.opnd is false sel l)

/-- LEA (R341). -/
def execLea (g : Guard) (t : IntTy) (d : Dst) (a b sh : Src) (s : State) : Host.Outcome State Fault Refusal :=
  s.word (.lea g t d a b sh) g fun is => State.alu is true d fun l =>
    wrap 64 ((s.opnd is true a l : Nat) + t.val (s.opnd is false b l) * 2 ^ (s.opnd is false sh l % 16))

/-! ### Compare and select -/

/-- The comparison of R342. -/
def icmpHolds (cc : ICc) (x y : Int) : Bool :=
  match cc with
  | .eq => decide (x = y) | .ne => decide (x ≠ y) | .lt => decide (x < y)
  | .le => decide (x ≤ y) | .gt => decide (y < x) | .ge => decide (y ≤ x)
def icmpLane (t : IntTy) (a b : Src) (cc : ICc) (s : State) (is : Issue) (l : Nat) : Bool :=
  icmpHolds cc (t.val (s.opnd is t.is64 a l)) (t.val (s.opnd is t.is64 b l))
def icmpImmLane (t : IntTy) (a : Src) (cc : ICc) (i : Int) (s : State) (is : Issue) (l : Nat) : Bool :=
  icmpHolds cc (t.val (s.opnd is t.is64 a l)) (t.val (wrap t.width i))
def execIcmp (g : Guard) (t : IntTy) (pd : Nat) (a b : Src) (cc : ICc) (s : State) : Host.Outcome State Fault Refusal :=
  s.predWord (.icmp g t pd a b cc) g fun is => State.predAlu is pd fun l => (icmpLane t a b cc s is l, 0)
def execIcmpImm (g : Guard) (t : IntTy) (pd : Nat) (a : Src) (cc : ICc) (i : Int) (s : State) :
    Host.Outcome State Fault Refusal :=
  s.predWord (.icmpImm g t pd a cc i) g fun is => State.predAlu is pd fun l => (icmpImmLane t a cc i s is l, 0)
def execSel (g : Guard) (wide : Bool) (d : Dst) (a b : Src) (pc : Nat) (s : State) : Host.Outcome State Fault Refusal :=
  s.word (.sel g wide d a b pc) g fun is => State.alu is wide d fun l =>
    if is.g.pred pc l then s.opnd is wide a l else s.opnd is wide b l

end Sys2Proof.Machine
end

