-- ==== Sys2Proof/Machine/FloatWords.lean ====
section
/-! DEFINITION. Machine/FloatWords.lean: float, conversion, packing, MX and dot-product words (R364 to R382). -/

namespace Sys2Proof.Machine

/-- The exact value of a float source (R309, R364): an immediate is its integer value. DEDUCED, unsafe: log entry 116. -/
def State.fopnd (s : State) (is : Issue) (t : FTy) (a : Src) (l : Nat) : Ex :=
  match a with
  | .imm i => Ex.ofInt i
  | _ => (fmtOf t).read (s.opnd is t.is64 a l % 2 ^ (fmtOf t).width)

def State.float1 (s : State) (i : Instr) (g : Guard) (t : FTy) (d : Dst) (a : Src) (f : Ex → Nat × Flags) :
    Host.Outcome State Fault Refusal :=
  s.word i g fun is => State.falu is t.is64 d fun l => f (s.fopnd is t a l)
def State.float2 (s : State) (i : Instr) (g : Guard) (t : FTy) (d : Dst) (a b : Src) (f : Ex → Ex → Nat × Flags) :
    Host.Outcome State Fault Refusal :=
  s.word i g fun is => State.falu is t.is64 d fun l => f (s.fopnd is t a l) (s.fopnd is t b l)
def State.float3 (s : State) (i : Instr) (g : Guard) (t : FTy) (d : Dst) (a b c : Src) (f : Ex → Ex → Ex → Nat × Flags) :
    Host.Outcome State Fault Refusal :=
  s.word i g fun is => State.falu is t.is64 d fun l => f (s.fopnd is t a l) (s.fopnd is t b l) (s.fopnd is t c l)

def execFadd (g : Guard) (t : FTy) (d : Dst) (a b : Src) (s : State) : Host.Outcome State Fault Refusal :=
  s.float2 (.fadd g t d a b) g t d a b fun x y => (fmtOf t).finish (x.add y)
def execFsub (g : Guard) (t : FTy) (d : Dst) (a b : Src) (s : State) : Host.Outcome State Fault Refusal :=
  s.float2 (.fsub g t d a b) g t d a b fun x y => (fmtOf t).finish (x.add y.neg)
def execFmul (g : Guard) (t : FTy) (d : Dst) (a b : Src) (s : State) : Host.Outcome State Fault Refusal :=
  s.float2 (.fmul g t d a b) g t d a b fun x y => (fmtOf t).finish (x.mul y)
def execFfma (g : Guard) (t : FTy) (d : Dst) (a b c : Src) (s : State) : Host.Outcome State Fault Refusal :=
  s.float3 (.ffma g t d a b c) g t d a b c fun x y z => (fmtOf t).finish (x.fma y z)
def execFfms (g : Guard) (t : FTy) (d : Dst) (a b c : Src) (s : State) : Host.Outcome State Fault Refusal :=
  s.float3 (.ffms g t d a b c) g t d a b c fun x y z => (fmtOf t).finish (x.fma y z.neg)
/-- FSCALE (R366): n is b read as .i32 even for .f64. -/
def execFscale (g : Guard) (t : FTy) (d : Dst) (a n : Src) (s : State) : Host.Outcome State Fault Refusal :=
  s.word (.fscale g t d a n) g fun is => State.falu is t.is64 d fun l =>
    (fmtOf t).finish ((s.fopnd is t a l).scale (sext 32 (s.opnd is false n l)), 0)
def execFdiv (g : Guard) (t : FTy) (d : Dst) (a b : Src) (s : State) : Host.Outcome State Fault Refusal :=
  s.float2 (.fdiv g t d a b) g t d a b fun x y => (fmtOf t).finish (x.div y)
def execFsqrt (g : Guard) (t : FTy) (d : Dst) (a : Src) (s : State) : Host.Outcome State Fault Refusal :=
  s.float1 (.fsqrt g t d a) g t d a fun x => (fmtOf t).finish x.sqrt

/-! ### Selection and sign (R368) -/

/-- The input chosen, as bits of the format: a value read from the format is exact in it. -/
def Fmt.bitsOf (f : Fmt) (x : Ex) : Nat := (f.round .rn false x).1

/-- minimumNumber, maximumNumber (`quiet`), minimum and maximum (R368): −0 lies below +0. -/
def pickFloat (f : Fmt) (greater quiet : Bool) (x y : Ex) : Nat × Flags :=
  if x.isNan || y.isNan then
    if quiet && !(x.isNan && y.isNan) then (f.bitsOf (if x.isNan then y else x), 0) else (f.nan, 0)
  else
    let c := x.cmp y true
    (f.bitsOf (if greater then (if c == .lt then y else x) else (if c == .gt then y else x)), 0)
def execFmin (g : Guard) (t : FTy) (d : Dst) (a b : Src) (s : State) : Host.Outcome State Fault Refusal :=
  s.float2 (.fmin g t d a b) g t d a b (pickFloat (fmtOf t) false true)
def execFmax (g : Guard) (t : FTy) (d : Dst) (a b : Src) (s : State) : Host.Outcome State Fault Refusal :=
  s.float2 (.fmax g t d a b) g t d a b (pickFloat (fmtOf t) true true)
def execFminp (g : Guard) (t : FTy) (d : Dst) (a b : Src) (s : State) : Host.Outcome State Fault Refusal :=
  s.float2 (.fminp g t d a b) g t d a b (pickFloat (fmtOf t) false false)
def execFmaxp (g : Guard) (t : FTy) (d : Dst) (a b : Src) (s : State) : Host.Outcome State Fault Refusal :=
  s.float2 (.fmaxp g t d a b) g t d a b (pickFloat (fmtOf t) true false)
def execFabs (g : Guard) (t : FTy) (d : Dst) (a : Src) (s : State) : Host.Outcome State Fault Refusal :=
  s.float1 (.fabs g t d a) g t d a fun x => ((fmtOf t).bitsOf x.abs, 0)
def execFneg (g : Guard) (t : FTy) (d : Dst) (a : Src) (s : State) : Host.Outcome State Fault Refusal :=
  s.float1 (.fneg g t d a) g t d a fun x => ((fmtOf t).bitsOf x.neg, 0)

/-! ### Comparison and classification (R369, R370) -/

def fcmpHolds (cc : FCc) (x y : Ex) : Bool :=
  let un := x.isNan || y.isNan
  let c := x.cmp y false
  match cc with
  | .eq => !un && c == .eq
  | .ne => un || c != .eq
  | .lt => !un && c == .lt
  | .le => !un && c != .gt
  | .gt => !un && c == .gt
  | .ge => !un && c != .lt
  | .num => !un
  | .nan => un
def fcmpLane (t : FTy) (a b : Src) (cc : FCc) (s : State) (is : Issue) (l : Nat) : Bool :=
  fcmpHolds cc (s.fopnd is t a l) (s.fopnd is t b l)
def execFcmp (g : Guard) (t : FTy) (pd : Nat) (a b : Src) (cc : FCc) (s : State) : Host.Outcome State Fault Refusal :=
  s.predWord (.fcmp g t pd a b cc) g fun is => State.predAlu is pd fun l => (fcmpLane t a b cc s is l, 0)

/-- The class mask of R370. -/
def classMask (f : Fmt) (x : Ex) : Nat :=
  match x with
  | .nan => 2 ^ 8
  | .inf n => if n then 2 ^ 0 else 2 ^ 7
  | .fin n _ _ _ =>
    if x.isZero then (if n then 2 ^ 3 else 2 ^ 4)
    else if x.log2 < 1 - f.bias then (if n then 2 ^ 2 else 2 ^ 5)
    else if n then 2 ^ 1 else 2 ^ 6
def fclassLane (t : FTy) (a m : Src) (s : State) (is : Issue) (l : Nat) : Bool :=
  (s.opnd is false m l % 2 ^ 9) &&& classMask (fmtOf t) (s.fopnd is t a l) != 0
def execFclass (g : Guard) (t : FTy) (d : ClassDst) (a : Src) (s : State) : Host.Outcome State Fault Refusal :=
  match d with
  | .reg r => s.word (.fclass g t d a) g fun is => State.alu is false r fun l => classMask (fmtOf t) (s.fopnd is t a l)
  | .pred pd m => s.predWord (.fclass g t d a) g fun is => State.predAlu is pd fun l => (fclassLane t a m s is l, 0)

/-! ### Approximations (R371) -/

/-- The FP32 bits of a source: an immediate is converted exactly. -/
def State.f32Bits (s : State) (is : Issue) (a : Src) (l : Nat) : Nat :=
  match a with
  | .imm i => Fmt.f32.bitsOf (Ex.ofInt i)
  | _ => s.opnd is false a l
def State.approx (s : State) (i : Instr) (g : Guard) (d : Dst) (a : Src) (op : Nat) : Host.Outcome State Fault Refusal :=
  s.word i g fun is => State.falu is false d fun l => approxWord op (s.f32Bits is a l)
def execFrcp (g : Guard) (d : Dst) (a : Src) (s : State) : Host.Outcome State Fault Refusal := s.approx (.frcp g d a) g d a 0
def execFrsq (g : Guard) (d : Dst) (a : Src) (s : State) : Host.Outcome State Fault Refusal := s.approx (.frsq g d a) g d a 1
def execFexp2 (g : Guard) (d : Dst) (a : Src) (s : State) : Host.Outcome State Fault Refusal := s.approx (.fexp2 g d a) g d a 2
def execFlog2 (g : Guard) (d : Dst) (a : Src) (s : State) : Host.Outcome State Fault Refusal := s.approx (.flog2 g d a) g d a 3
def execFsin (g : Guard) (d : Dst) (a : Src) (s : State) : Host.Outcome State Fault Refusal := s.approx (.fsin g d a) g d a 4
def execFcos (g : Guard) (d : Dst) (a : Src) (s : State) : Host.Outcome State Fault Refusal := s.approx (.fcos g d a) g d a 5
def execFtanh (g : Guard) (d : Dst) (a : Src) (s : State) : Host.Outcome State Fault Refusal := s.approx (.ftanh g d a) g d a 6

/-- FRND (R372): no flag. -/
def execFrnd (g : Guard) (t : FTy) (d : Dst) (a : Src) (m : RMode) (s : State) : Host.Outcome State Fault Refusal :=
  s.float1 (.frnd g t d a m) g t d a fun x => ((fmtOf t).bitsOf (x.integral m), 0)

/-! ### Conversion (R373, R374) -/

/-- The integer type or float format of a CVT code; .e8m0 is neither. -/
def cvtInt : CvtTy → Option IntTy
  | .i8 => some .i8 | .i16 => some .i16 | .i32 => some .i32 | .i64 => some .i64
  | .n8 => some .n8 | .n16 => some .n16 | .n32 => some .n32 | .n64 => some .n64
  | _ => none
def cvtFmt : CvtTy → Option Fmt
  | .f16 => some .f16 | .bf16 => some .bf16 | .f32 => some .f32 | .f64 => some .f64 | .e4m3 => some .e4m3
  | .e5m2 => some .e5m2 | .e3m2 => some .e3m2 | .e2m3 => some .e2m3 | .e2m1 => some .e2m1
  | _ => none

/-- The value 2^(X − 127) of a scale; 0xFF is a NaN (R374, R378). -/
def scaleValue (x : Nat) : Ex := if x % 256 = 255 then .nan else .fin false 1 ((x % 256 : Nat) - 127) false

/-- The exact value of a CVT source (R373). -/
def State.cvtSrc (s : State) (is : Issue) (st : CvtTy) (a : Src) (l : Nat) : Ex :=
  let raw := s.opnd is st.is64 a l
  match cvtInt st, cvtFmt st with
  | some t, _ => Ex.ofInt (t.val raw)
  | none, some f => match a with
    | .imm i => Ex.ofInt i
    | _ => f.read (raw % 2 ^ f.width)
  | none, none => scaleValue raw

/-- float → integer of R374. -/
def toInt (t : IntTy) (m : RMode) (x : Ex) : Nat × Flags :=
  match x with
  | .nan => (0, flNV)
  | .inf n => (t.result (if n then t.lo else t.hi), flNV)
  | .fin n _ _ _ =>
    match x.integral m with
    | .fin _ k _ _ =>
      let v : Int := if n then -(k : Int) else (k : Int)
      if v < t.lo || t.hi < v then (t.result (sat v t.lo t.hi), flNV)
      else (t.result v, if x.cmp (Ex.ofInt v) false == .eq then 0 else flNX)
    | _ => (0, 0)

/-- .f32 → .e8m0 of R374. -/
def toScale (m : RMode) (x : Ex) : Nat × Flags :=
  if x.isNan || x.isInf then (0xFF, flNV)
  else if x.isZero then (0, flNV)
  else
    let r := x.abs.toPow2 m
    let b := r.1 + 127
    if b < 0 then (0, flUF ||| flNX) else if 254 < b then (254, flOF ||| flNX) else (b.toNat, if r.2 then flNX else 0)

/-- The result and flags of CVT (R374). -/
def convert (m : RMode) (nosat : Bool) (dt st : CvtTy) (x : Ex) : Nat × Flags :=
  match cvtInt dt, cvtFmt dt with
  | some t, _ => if (cvtInt st).isSome then (t.result (x.at 0), 0) else toInt t m x
  | none, some f => if st == .e8m0 then (f.bitsOf x, 0) else f.round m nosat x
  | none, none => toScale m x
def execCvt (g : Guard) (m : RMode) (nosat : Bool) (dt st : CvtTy) (d : Dst) (a : Src) (s : State) :
    Host.Outcome State Fault Refusal :=
  s.word (.cvt g m nosat dt st d a) g fun is => State.falu is dt.is64 d fun l => convert m nosat dt st (s.cvtSrc is st a l)

/-- PACK (R375). -/
def packFmt : PackTy → Fmt
  | .f16 => .f16 | .bf16 => .bf16 | .e4m3 => .e4m3 | .e5m2 => .e5m2
def packPair (e : PackTy) (nosat h : Bool) (old : Nat) (x y : Ex) : Nat × Flags :=
  let f := packFmt e
  let p := f.round .rn nosat x
  let q := f.round .rn nosat y
  let v :=
    if f.width = 16 then p.1 + q.1 * 2 ^ 16
    else if h then old % 2 ^ 16 + p.1 * 2 ^ 16 + q.1 * 2 ^ 24
    else p.1 + q.1 * 2 ^ 8 + old / 2 ^ 16 * 2 ^ 16
  (v, p.2 ||| q.2)
def dstSrc : Dst → Src
  | .v n => .v n | .s n => .s n | .idx k o => .idx k o
def execPack (g : Guard) (e : PackTy) (d : Dst) (a b : Src) (nosat h : Bool) (s : State) :
    Host.Outcome State Fault Refusal :=
  s.word (.pack g e d a b nosat h) g fun is => State.falu is false d fun l =>
    packPair e nosat h (s.opnd is false (dstSrc d) l) (s.fopnd is .f32 a l) (s.fopnd is .f32 b l)

/-- The format of an UNPK element (R376). -/
def unpkFmt : UnpkTy → Fmt
  | .f16 => .f16 | .bf16 => .bf16 | .e4m3 => .e4m3 | .e5m2 => .e5m2 | .e3m2 => .e3m2 | .e2m3 => .e2m3 | .e2m1 => .e2m1
def execUnpk (g : Guard) (e : UnpkTy) (d : Dst) (a : Src) (q : Nat) (s : State) : Host.Outcome State Fault Refusal :=
  let f := unpkFmt e
  s.word (.unpk g e d a q) g fun is => State.alu is false d fun l =>
    Fmt.f32.bitsOf (f.read (bits (s.opnd is false a l) (f.width * q) f.width))

/-! ### MX scaling (R377 to R379) -/

def mxFmt : MxElt → Fmt
  | .e4m3 => .e4m3 | .e5m2 => .e5m2 | .e3m2 => .e3m2 | .e2m3 => .e2m3 | .e2m1 => .e2m1
def mxEmax : MxElt → Int
  | .e4m3 => 8 | .e5m2 => 15 | .e3m2 => 4 | .e2m3 => 2 | .e2m1 => 2

/-- The shared scale of R377 over the block's elements. -/
def sharedScale (e : MxElt) (xs : List Ex) : Nat :=
  if xs.any Ex.isNan then 0xFF
  else
    let m := (xs.filter fun x => !x.isInf).foldl (fun m x => if m.cmp x.abs false == .lt then x.abs else m) (Ex.zero false)
    if m.isZero then 127 else (sat (m.log2 - mxEmax e + 127) 0 254).toNat
def execMxscale (g : Guard) (e : MxElt) (d : Dst) (a : Src) (s : State) : Host.Outcome State Fault Refusal :=
  s.word (.mxscale g e d a) g fun is => State.alu is false d fun _ =>
    sharedScale e ((lanes is.own).map fun l => s.fopnd is .f32 a l)
def execMxq (g : Guard) (e : MxElt) (d : Dst) (a scale : Src) (nosat : Bool) (s : State) :
    Host.Outcome State Fault Refusal :=
  s.word (.mxq g e d a scale nosat) g fun is => State.falu is false d fun l =>
    let x := s.opnd is false scale l % 256
    (mxFmt e).round .rn nosat (if x = 255 then .nan else (s.fopnd is .f32 a l).scale (127 - (x : Int)))
/-- MXDQ (R379): an immediate element is taken as the low bits of its 32-bit value. DEDUCED, unsafe: log entry 116. -/
def execMxdq (g : Guard) (e : MxElt) (d : Dst) (a scale : Src) (s : State) : Host.Outcome State Fault Refusal :=
  let f := mxFmt e
  s.word (.mxdq g e d a scale) g fun is => State.falu is false d fun l =>
    let x := s.opnd is false scale l % 256
    if x = 255 then (Fmt.f32.nan, 0)
    else Fmt.f32.round .rn false ((f.read (s.opnd is false a l % 2 ^ f.width)).scale ((x : Int) - 127))

/-! ### Paired and dot-product forms (R380 to R382) -/

/-- One half of a packed operand; an immediate stands in both halves exactly (R380). DEDUCED, unsafe: log entry 53. -/
def State.half (s : State) (is : Issue) (f : Fmt) (a : Src) (h l : Nat) : Ex :=
  match a with
  | .imm i => Ex.ofInt i
  | _ => f.read (bits (s.opnd is false a l) (16 * h) 16)
def halfFmt (bf : Bool) : Fmt := if bf then .bf16 else .f16
def execHfma2 (g : Guard) (bf : Bool) (d : Dst) (a b c : Src) (s : State) : Host.Outcome State Fault Refusal :=
  let f := halfFmt bf
  s.word (.hfma2 g bf d a b c) g fun is => State.falu is false d fun l =>
    let r (h : Nat) := f.finish ((s.half is f a h l).fma (s.half is f b h l) (s.half is f c h l))
    ((r 0).1 + (r 1).1 * 2 ^ 16, (r 0).2 ||| (r 1).2)

/-- z + a0 × b0 + a1 × b1 with the special cases of R381. DEDUCED, unsafe: log entry 117. -/
def dotTwo (z a0 b0 a1 b1 : Ex) : Ex × Flags :=
  if z.isNan || a0.isNan || b0.isNan || a1.isNan || b1.isNan then (.nan, 0)
  else
    let p := a0.mul b0
    let q := a1.mul b1
    if p.1.isNan || q.1.isNan then (.nan, flNV)
    else
      let t := p.1.add q.1
      if t.1.isNan then t else t.1.add z
/-- The exact sum of finite terms may cancel to zero: it is −0 only when every term is −0, as in R367. -/
def execFdot2 (g : Guard) (bf : Bool) (d : Dst) (a b c : Src) (s : State) : Host.Outcome State Fault Refusal :=
  let f := halfFmt bf
  s.word (.fdot2 g bf d a b c) g fun is => State.falu is false d fun l =>
    Fmt.f32.finish (dotTwo (s.fopnd is .f32 c l) (s.half is f a 0 l) (s.half is f b 0 l) (s.half is f a 1 l) (s.half is f b 1 l))

/-- IDOT4 (R382). -/
def dotSigns : DotSign → Bool × Bool
  | .i8i8 => (true, true) | .n8n8 => (false, false) | .i8n8 => (true, false) | .n8i8 => (false, true)
def dotByte (sg : Bool) (x i : Nat) : Int := if sg then sext 8 (bits x (8 * i) 8) else (bits x (8 * i) 8 : Nat)
def dotFour (sg : DotSign) (sat_ : Bool) (x y z : Nat) : Nat :=
  let t : IntTy := if sg == .n8n8 then .n32 else .i32
  let g := dotSigns sg
  let q := t.val z + ((List.range 4).map fun i => dotByte g.1 x i * dotByte g.2 y i).sum
  t.result (if sat_ then sat q t.lo t.hi else q)
def execIdot4 (g : Guard) (sg : DotSign) (sat_ : Bool) (d : Dst) (a b c : Src) (s : State) :
    Host.Outcome State Fault Refusal :=
  s.word (.idot4 g sg sat_ d a b c) g fun is => State.alu is false d fun l =>
    dotFour sg sat_ (s.opnd is false a l) (s.opnd is false b l) (s.opnd is false c l)

end Sys2Proof.Machine
end

