-- ==== Sys2Proof/Machine/Moves.lean ====
section
/-! DEFINITION. Machine/Moves.lean: predicate words, moves and the deferred execution of compares (R165, R344 to R351). -/

namespace Sys2Proof.Machine

/-! ### Predicates -/

/-- Bit 4 pa + 2 pb + pc of the table (R344). -/
def plopLane (pa pb pc lut : Nat) (is : Issue) (l : Nat) : Bool :=
  let b (p : Nat) := if is.g.pred p l then 1 else 0
  bitAt lut (4 * b pa + 2 * b pb + b pc)
def execPlop (g : Guard) (pd pa pb pc lut : Nat) (s : State) : Host.Outcome State Fault Refusal :=
  s.predWord (.plop g pd pa pb pc lut) g fun is => State.predAlu is pd fun l => (plopLane pa pb pc lut is l, 0)

/-- PPACK (R345): code 12 reads true. -/
def execPpack (g : Guard) (d : Dst) (q : List Nat) (s : State) : Host.Outcome State Fault Refusal :=
  s.word (.ppack g d q) g fun is => State.alu is false d fun l =>
    (q.zipIdx.map fun x => if is.g.pred x.1 l then 2 ^ x.2 else 0).sum
/-- PUNPACK (R345): a predicate named twice receives the higher bit. -/
def execPunpack (g : Guard) (a : Src) (q : List Nat) (s : State) : Host.Outcome State Fault Refusal :=
  s.word (.punpack g a q) g fun is s1 =>
    (s1.setGroup is.gid (q.zipIdx.foldl (fun h x =>
      h.setPreds x.1 is.act (maskOf fun l => bitAt (s.opnd is false a l) x.2)) is.g)).goOn is
def execPmov (g : Guard) (pd ps : Nat) (s : State) : Host.Outcome State Fault Refusal :=
  s.word (.pmov g pd ps) g fun is => State.predAlu is pd fun l => (is.g.pred ps l, 0)
def execPmovBit (g : Guard) (pd : Nat) (a b : Src) (s : State) : Host.Outcome State Fault Refusal :=
  s.word (.pmovBit g pd a b) g fun is => State.predAlu is pd fun l =>
    (bitAt (s.opnd is false a l) (s.opnd is false b l % 32), 0)

/-! ### Moves -/

def execMov (g : Guard) (wide : Bool) (d : Dst) (a : Src) (s : State) : Host.Outcome State Fault Refusal :=
  s.word (.mov g wide d a) g fun is => State.alu is wide d fun l => s.opnd is wide a l
def execMovToIndex (g : Guard) (k : Nat) (a : Src) (s : State) : Host.Outcome State Fault Refusal :=
  s.word (.movToIndex g k a) g fun is s1 =>
    (s1.setGroup is.gid ((lanes is.act).foldl (fun h l => h.setX k l (BitVec.ofNat 16 (s.opnd is false a l))) is.g)).goOn is
def execMovFromIndex (g : Guard) (d : Dst) (k : Nat) (s : State) : Host.Outcome State Fault Refusal :=
  s.word (.movFromIndex g d k) g fun is => State.alu is false d fun l => (is.g.xreg k l).toNat

/-- The register or pair of MOVI (R348); .lo and .hi keep the other register. -/
def moviValue (m : MoviForm) (imm old : Nat) : Nat :=
  match m with
  | .b32 => imm
  | .lo => imm + old / 2 ^ 32 * 2 ^ 32
  | .hi => old % 2 ^ 32 + imm * 2 ^ 32
  | .i64 => wrap 64 (sext 32 imm)
  | .n64 => imm
def execMovi (g : Guard) (d : Dst) (m : MoviForm) (imm : Nat) (s : State) : Host.Outcome State Fault Refusal :=
  let wide := m != .b32
  s.word (.movi g d m imm) g fun is => State.alu is wide d fun l =>
    moviValue m imm (if m == .lo || m == .hi then s.opnd is true (dstSrc d) l else 0)

/-- BCAST (R349). -/
def execBcast (g : Guard) (vd sa n : Nat) (s : State) : Host.Outcome State Fault Refusal :=
  s.word (.bcast g vd sa n) g fun is s1 =>
    (s1.setGroup is.gid ((List.range n).foldl (fun h i =>
      (lanes is.act).foldl (fun k l => k.setV (vd + i) l (is.g.sreg (sa + i))) h) is.g)).goOn is

/-- A lane within the block size, or a helper lane. -/
def Group.standing (g : Group) (l : Nat) : Bool := lane (g.present ||| g.helper) l

/-- LANERD's read for the active lanes left: an indexed va resolves with lane n's index register and window, and a failure
raises IDXRANGE on the lowest active lane; with TVEC = 0 the lanes left execute the word again (R184, R350). -/
def lanerdFrom (wide : Bool) (sd : Nat) (va ln : Src) : Nat → Issue → State → State
  | 0, is, s1 => s1.goOn is
  | fuel + 1, is, s1 =>
    let n := s1.opnd is false ln is.low % 32
    let ok : Bool := match va with
      | .idx k off => is.g.idxOk k off (if wide then 2 else 1) wide n
      | _ => true
    if is.act = 0 then s1.goOn is
    else if ok then State.alu is wide (.s sd) (fun _ => if is.g.standing n then s1.opnd is wide va n else 0) s1
    else if lane is.g.helper is.low then State.alu is wide (.s sd) (fun _ => 0) s1
    else
      let r := s1.faultAt is.gid is.i 3 (bit is.low) none
      if r.2 then r.1
      else match r.1.survivors is (bit is.low) with
        | none => r.1
        | some is' => lanerdFrom wide sd va ln fuel is' r.1
def execLanerd (g : Guard) (wide : Bool) (sd : Nat) (va ln : Src) (s : State) : Host.Outcome State Fault Refusal :=
  s.word (.lanerd g wide sd va ln) g (lanerdFrom wide sd va ln 33)
/-- LANEWR (R350): nothing happens when lane n is not live. -/
def execLanewr (g : Guard) (wide : Bool) (vd : Nat) (a ln : Src) (s : State) : Host.Outcome State Fault Refusal :=
  s.word (.lanewr g wide vd a ln) g fun is s1 =>
    let n := s.opnd is false ln is.low % 32
    (s1.setGroup is.gid (if lane is.g.live n then is.g.writeV wide vd n (s.opnd is wide a is.low) else is.g)).goOn is

/-- SETXW (R351). -/
def execSetxw (g : Guard) (k : Nat) (lo hi : Src) (s : State) : Host.Outcome State Fault Refusal :=
  s.word (.setxw g k lo hi) g fun is s1 =>
    let w := BitVec.ofNat 32 (s.opnd is false lo is.low % 256 + s.opnd is false hi is.low % 256 * 256)
    (s1.setGroup is.gid { is.g with xwin := is.g.xwin.set k w }).goOn is

/-! ### Deferred words (R165) -/

/-- The predicate and value of a deferral candidate in a lane. -/
def State.deferredLane (s : State) (is : Issue) (i : Instr) (l : Nat) : Option (Nat × Bool) :=
  match i with
  | .icmp _ t pd a b cc => some (pd, icmpLane t a b cc s is l)
  | .icmpImm _ t pd a cc im => some (pd, icmpImmLane t a cc im s is l)
  | .fcmp _ t pd a b cc => some (pd, fcmpLane t a b cc s is l)
  | .fclass _ t (.pred pd m) a => some (pd, fclassLane t a m s is l)
  | .plop _ pd pa pb pc lut => some (pd, plopLane pa pb pc lut is l)
  | _ => none

/-- Executes a deferred word for its lanes whose guard holds now, but lanes the load faulted keep their predicate (R180). -/
def State.runDeferred (s : State) (gid : Nat) (d : BitVec 64 × BitVec 32 × Bool) (faulted : BitVec 32) : State :=
  match s.group? gid, wordOf d.1 with
  | some g, some i =>
    match s.block? g.bid with
    | none => s
    | some b =>
      let act := (match guardOf i with | some q => g.active q d.2.1 | none => d.2.1) &&& ~~~faulted
      let is : Issue := { gid := gid, i := 0, g := g, e := Entry.at 0 0 d.2.1 0, b := b, act := act }
      s.setGroup gid ((lanes act).foldl (fun h l =>
        match s.deferredLane is i l with
        | some x => h.setPred x.1 l x.2
        | none => h) g)
  | _, _ => s

end Sys2Proof.Machine
end

