-- ==== Sys2Proof/Machine/Exchange.lean ====
section
/-! DEFINITION. Machine/Exchange.lean: lane-exchange words and JOIN (R423 to R428). -/

namespace Sys2Proof.Machine

/-- Active lanes that take a value from a lane in which the exchanged operand does not resolve (R423). -/
def Issue.badTakes (is : Issue) (wide : Bool) (a : Src) (takes : Issue → Nat → List Nat) : BitVec 32 :=
  match a with
  | .idx k off => maskOf fun l =>
      lane is.act l && (takes is l).any fun j => !is.g.idxOk k off (if wide then 2 else 1) wide j
  | _ => 0

/-- An exchange word: lanes whose value does not resolve take IDXRANGE first, and the lanes left execute it. -/
def exchangeFrom (i : Instr) (wide : Bool) (a : Src) (takes : Issue → Nat → List Nat) (run : Issue → State → State) :
    Nat → Issue → State → State
  | 0, is, s => s.goOn is
  | fuel + 1, is, s =>
    let bad := is.badTakes wide a takes
    if is.act = 0 then s.goOn is
    else if bad = 0 then run is s
    else
      let real := bad &&& ~~~is.g.helper
      let r := if real = 0 then (s, false) else s.faultAt is.gid is.i 3 real none
      if r.2 then r.1
      else
        let s1 := r.1.modGroup is.gid fun g => g.zeroDest i (bad &&& is.g.helper)
        match s1.survivors is bad with
        | none => s1
        | some is' => exchangeFrom i wide a takes run fuel is' s1
def State.exchange (s : State) (i : Instr) (g : Guard) (wide : Bool) (a : Src) (takes : Issue → Nat → List Nat)
    (run : Issue → State → State) : Host.Outcome State Fault Refusal :=
  s.word i g (exchangeFrom i wide a takes run 34)

/-! ### Within a quad (R425) -/

def execQswz (g : Guard) (wide : Bool) (d : Dst) (a pat : Src) (s : State) : Host.Outcome State Fault Refusal :=
  let from_ (is : Issue) (l : Nat) : Nat :=
    let p := match pat with
      | .v _ | .s _ => s.opnd is false pat is.low
      | _ => s.opnd is false pat l
    l / 4 * 4 + bits p (2 * (l % 4)) 2
  s.exchange (.qswz g wide d a pat) g wide a (fun is l => [from_ is l]) fun is =>
    State.alu is wide d fun l => s.opnd is wide a (from_ is l)

/-- The two lanes of QDIFF: minuend and subtrahend. -/
def diffLanes (m : QDiff) (l : Nat) : Nat × Nat :=
  let q := l / 4 * 4
  match m with
  | .fh => (l / 2 * 2 + 1, l / 2 * 2)
  | .fv => (q + l % 2 + 2, q + l % 2)
  | .ch => (q + 1, q)
  | .cv => (q + 2, q)
def execQdiff (g : Guard) (m : QDiff) (d : Dst) (a : Src) (s : State) : Host.Outcome State Fault Refusal :=
  s.exchange (.qdiff g m d a) g false a (fun _ l => [(diffLanes m l).1, (diffLanes m l).2]) fun is =>
    State.falu is false d fun l =>
      Fmt.f32.finish ((s.fopnd is .f32 a (diffLanes m l).1).add (s.fopnd is .f32 a (diffLanes m l).2).neg)

/-! ### SHFL (R426) -/

/-- N of a span code (R426). -/
def spanOf (code : Nat) : Nat := if code = 0 then 32 else 2 ^ code

/-- The source lane of each mode for lane l of a span of n lanes with offset value x. -/
def pickLane (n x l : Nat) : Option Nat := some (l / n * n + x % 32 % n)
def rotLane (n x l : Nat) : Option Nat := some (l / n * n + (l % n + x % 32) % n)
def flipLane (n x l : Nat) : Option Nat := some (l / n * n + Nat.xor (l % n) (x % 32 % n))
/-- None when the lane leaves the span. -/
def slideLane (n x l : Nat) : Option Nat :=
  let j := (l : Int) + sext 6 x
  if (l / n * n : Nat) ≤ j && j < (l / n * n + n : Nat) then some j.toNat else none

/-- The lane whose value lane l receives and its pc. -/
def Issue.shuffled (is : Issue) (j : Option Nat) (l : Nat) : Nat × Bool :=
  match j with
  | none => (l, true)
  | some j => if lane is.own j then (j, true) else (l, false)
def State.shfl (s : State) (i : Instr) (g : Guard) (wide : Bool) (d : Dst) (a b : Src) (pc span : Nat)
    (mode : Nat → Nat → Nat → Option Nat) : Host.Outcome State Fault Refusal :=
  let at_ (is : Issue) (l : Nat) := is.shuffled (mode (spanOf span) (s.opnd is false b l) l) l
  s.exchange i g wide a (fun is l => [(at_ is l).1]) fun is s1 =>
    let g1 := is.g.writeLanes wide d (is.work d) fun l => s.opnd is wide a (at_ is l).1
    (s1.setGroup is.gid (g1.setPreds pc is.act (maskOf fun l => (at_ is l).2))).goOn is
def execShflPick (g : Guard) (wide : Bool) (d : Dst) (a b : Src) (pc span : Nat) (s : State) :
    Host.Outcome State Fault Refusal := s.shfl (.shflPick g wide d a b pc span) g wide d a b pc span pickLane
def execShflRot (g : Guard) (wide : Bool) (d : Dst) (a b : Src) (pc span : Nat) (s : State) :
    Host.Outcome State Fault Refusal := s.shfl (.shflRot g wide d a b pc span) g wide d a b pc span rotLane
def execShflSlide (g : Guard) (wide : Bool) (d : Dst) (a b : Src) (pc span : Nat) (s : State) :
    Host.Outcome State Fault Refusal := s.shfl (.shflSlide g wide d a b pc span) g wide d a b pc span slideLane
def execShflFlip (g : Guard) (wide : Bool) (d : Dst) (a b : Src) (pc span : Nat) (s : State) :
    Host.Outcome State Fault Refusal := s.shfl (.shflFlip g wide d a b pc span) g wide d a b pc span flipLane

/-! ### Members and participants (R424, R427) -/

/-- Lanes within the block size that are not helper lanes. -/
def State.members (s : State) (is : Issue) (m : Src) : BitVec 32 :=
  BitVec.ofNat 32 (s.opnd is false m is.low) &&& is.g.present &&& ~~~is.g.helper
def State.parts (s : State) (is : Issue) (m : Src) : BitVec 32 := s.members is m &&& is.act

/-- Sets the complete predicate (R424). -/
def State.complete (s : State) (is : Issue) (m : Src) (pc : Nat) (g : Group) : Group :=
  g.setPreds pc is.act (if s.parts is m = s.members is m then is.act else 0)

/-- A vote writes one value to every active lane, or once to an s destination. -/
def State.vote (s : State) (i : Instr) (g : Guard) (d : Dst) (ps : Nat) (m : Src) (pc : Nat)
    (f : BitVec 32 → BitVec 32 → Nat) : Host.Outcome State Fault Refusal :=
  s.word i g fun is s1 =>
    let p := s.parts is m
    let t := p &&& maskOf (is.g.pred ps)
    let g1 := is.g.writeLanes false d (is.work d) fun _ => f p t
    (s1.setGroup is.gid (s.complete is m pc g1)).goOn is
def execVoteMask (g : Guard) (d : Dst) (ps : Nat) (m : Src) (pc : Nat) (s : State) : Host.Outcome State Fault Refusal :=
  s.vote (.voteMask g d ps m pc) g d ps m pc fun _ t => t.toNat
def execVoteCount (g : Guard) (d : Dst) (ps : Nat) (m : Src) (pc : Nat) (s : State) : Host.Outcome State Fault Refusal :=
  s.vote (.voteCount g d ps m pc) g d ps m pc fun _ t => count t
def execVoteLead (g : Guard) (d : Dst) (ps : Nat) (m : Src) (pc : Nat) (s : State) : Host.Outcome State Fault Refusal :=
  s.vote (.voteLead g d ps m pc) g d ps m pc fun _ t => (lowest t).getD 32
def execVoteAgree (g : Guard) (d : Dst) (ps : Nat) (m : Src) (pc : Nat) (s : State) : Host.Outcome State Fault Refusal :=
  s.vote (.voteAgree g d ps m pc) g d ps m pc fun p t => if t = 0 || t = p then 1 else 0

/-- MATCH: the mask of participants whose a equals lane l's. -/
def State.matched (s : State) (is : Issue) (wide : Bool) (a m : Src) (l : Nat) : BitVec 32 :=
  maskOf fun k => lane (s.parts is m) k && s.opnd is wide a k == s.opnd is wide a l
def State.match_ (s : State) (i : Instr) (g : Guard) (wide : Bool) (d : Dst) (a m : Src) (pc : Nat)
    (f : BitVec 32 → Nat) (other : Nat) : Host.Outcome State Fault Refusal :=
  s.exchange i g wide a (fun is l => if lane (s.parts is m) l then [l] else []) fun is s1 =>
    let g1 := is.g.writeLanes false d (is.work d) fun l =>
      if lane (s.parts is m) l then f (s.matched is wide a m l) else other
    (s1.setGroup is.gid (s.complete is m pc g1)).goOn is
def execMatchLead (g : Guard) (wide : Bool) (d : Dst) (a m : Src) (pc : Nat) (s : State) :
    Host.Outcome State Fault Refusal :=
  s.match_ (.matchLead g wide d a m pc) g wide d a m pc (fun k => (lowest k).getD 32) 32
def execMatchMask (g : Guard) (wide : Bool) (d : Dst) (a m : Src) (pc : Nat) (s : State) :
    Host.Outcome State Fault Refusal :=
  s.match_ (.matchMask g wide d a m pc) g wide d a m pc (fun k => k.toNat) 0

/-- The reduction operations of R427 with their identities. -/
def redIdentity : RedOp → Nat
  | .addN32 => 0 | .minI32 => 0x7FFFFFFF | .maxI32 => 0x80000000 | .minN32 => 0xFFFFFFFF | .maxN32 => 0
  | .and => 0xFFFFFFFF | .or => 0 | .xor => 0
def redApply (op : RedOp) (x y : Nat) : Nat :=
  match op with
  | .addN32 => (x + y) % 2 ^ 32
  | .minI32 => if sext 32 x ≤ sext 32 y then x else y
  | .maxI32 => if sext 32 x ≤ sext 32 y then y else x
  | .minN32 => min x y
  | .maxN32 => max x y
  | .and => x &&& y
  | .or => x ||| y
  | .xor => x ^^^ y
def reduceOver (op : RedOp) (ls : List Nat) (v : Nat → Nat) : Nat :=
  ls.foldl (fun a l => redApply op a (v l)) (redIdentity op)
def execRedux (g : Guard) (op : RedOp) (d : Dst) (a m : Src) (pc : Nat) (s : State) : Host.Outcome State Fault Refusal :=
  s.exchange (.redux g op d a m pc) g false a (fun is l => if lane (s.parts is m) l then [l] else []) fun is s1 =>
    let r := reduceOver op (lanes (s.parts is m)) fun l => s.opnd is false a l
    let g1 := is.g.writeLanes false d (is.work d) fun _ => r
    (s1.setGroup is.gid (s.complete is m pc g1)).goOn is

/-- The segment of lane l starts at the highest start at or below it, or at 0. -/
def segStart (c : BitVec 32) (l : Nat) : Nat := (highest (c &&& maskOf fun k => k ≤ l)).getD 0
def execScan (g : Guard) (op : RedOp) (d : Dst) (a m seg : Src) (s : State) : Host.Outcome State Fault Refusal :=
  s.exchange (.scan g op d a m seg) g false a (fun is l => if lane (s.parts is m) l then [l] else []) fun is s1 =>
    let p := s.parts is m
    let c := BitVec.ofNat 32 (s.opnd is false seg is.low)
    let g1 := is.g.writeLanes false d (lanes p) fun l =>
      reduceOver op ((lanes p).filter fun k => segStart c l ≤ k && k ≤ l) fun k => s.opnd is false a k
    (s1.setGroup is.gid g1).goOn is

/-- JOIN (R428). -/
def execJoin (g : Guard) (m : Src) (s : State) : Host.Outcome State Fault Refusal :=
  s.word (.join g m) g fun is s1 =>
    (s1.setGroup is.gid { is.g with
      joinMember := is.g.joinMember ||| (BitVec.ofNat 32 (s.opnd is false m is.low) &&& is.g.live)
      joinArrived := is.g.joinArrived ||| is.act }).goOn is

end Sys2Proof.Machine
end

