-- ==== Sys2Proof/Machine/Control.lean ====
section
/-! DEFINITION. Machine/Control.lean: NOP and the control words but LAUNCH (R155, R166 to R169, R176, R352 to R362), and the
delivery of attributed faults at releases (R115). -/

namespace Sys2Proof.Machine

/-- The always-true guard. -/
def always : Guard := { pn := false, pg := 12 }

def execNop (s : State) : Host.Outcome State Fault Refusal := s.word .nop always fun is s1 => s1.goOn is

/-! ### Branches -/

/-- Whether entry i is the handler entry (R431). -/
def Group.isHandler (g : Group) (i : Nat) : Bool := g.trap && i + 1 == g.entries.length

/-- A control transfer: each lane of the entry goes to its target; a split of the handler entry is a double trap (R432), and a split waits
for a free identifier (R155). -/
def State.transfer (s : State) (is : Issue) (split : Bool) (move : Group → Group) : State :=
  s.modGroup is.gid fun g => if split && g.isHandler is.i then g.doubleTrap else if split && !g.identFree then g else move g

/-- The prediction table index and tag of a branch (R166). -/
def predIndex (clause : Nat) : Nat := clause / 8 % 16
def predTag (clause : Nat) : Nat := clause / 2 ^ 7 % 2 ^ 14

/-- The entry on a hit. -/
def Group.predHit (g : Group) (clause : Nat) : Option PredEntry :=
  (SMap.find? g.preds (predIndex clause)).bind fun e => if e.tag = predTag clause then some e else none

/-- The table after a conditional BRA with mask m resolved with taken set t (R169, step 5). -/
def Group.train (g : Group) (clause : Nat) (m t : BitVec 32) : Group :=
  let e : PredEntry := match g.predHit clause with
    | some e => { tag := e.tag, taken := (e.taken &&& ~~~m) ||| t,
                  conf := if e.taken &&& m = t then min (e.conf + 1) 3 else e.conf - 1 }
    | none => { tag := predTag clause, taken := t, conf := 1 }
  { g with preds := SMap.put g.preds (predIndex clause) e }

/-- The predicted taken lanes, when the branch speculates (R166). -/
def Group.predict (g : Group) (clause hint : Nat) (m : BitVec 32) : Option (BitVec 32) :=
  match hint, g.predHit clause with
  | 0, some e => if 2 ≤ e.conf then some (m &&& e.taken) else none
  | 0, none => none
  | 1, some e => some (if (lowest m).any (lane e.taken) then m else 0)
  | 1, none => some 0
  | _, _ => none

/-- A speculative entry of a branch. -/
def specEntry (e : Entry) (target n : Nat) (m : BitVec 32) : Entry :=
  { Entry.at target 0 m n with spec := true, origin := (e.clause, e.word) }

/-- Speculates past an unresolved BRA (R167): both sides carry the new identifier; a side with no lanes forms no entry. -/
def Group.speculate (g : Group) (i : Nat) (e : Entry) (q : Guard) (target : Nat) (p : BitVec 32) : Group :=
  let n := g.freeIdent
  let np := e.mask &&& ~~~p
  let stay := if np = 0 then [] else [specEntry e e.next n np]
  let go := if p = 0 then [] else [specEntry e target n p]
  let sides := (if np = 0 then [] else [np]) ++ (if p = 0 then [] else [p])
  { g with
    up := SMap.put g.up n e.parent
    entries := g.entries.take i ++ stay ++ g.entries.drop (i + 1) ++ go
    specs := g.specs ++ [{ ident := n, clause := e.clause, word := e.word, target := target, fall := e.next, mask := e.mask,
                           predicted := p, guard := q, shadows := sides.map fun m => { lanes := m, vs := [], ps := none },
                           fShadow := (List.range 32).map g.fst }] }

/-- The target of a displacement: the next header plus it, modulo 2^64 (R312). -/
def Entry.target (e : Entry) (disp : Int) : Nat := wrap 64 ((e.next : Nat) + disp)

/-- BRA (R354): with an unresolved predicate it speculates or waits; resolved, each lane goes its way. -/
def State.bra (s : State) (is : Issue) (q : Guard) (disp : Int) (hint : Nat) : State :=
  let target := is.e.target disp
  let open_ := q.pg < 12 && is.g.inFlight.contains (keyP q.pg)
  if open_ then
    if is.e.spec || is.g.isHandler is.i || is.g.lineSpec.isSome || !is.g.identFree then s
    else match is.g.predict is.e.clause hint is.e.mask with
      | none => s
      | some p => s.setGroup is.gid (is.g.speculate is.i is.e q target p)
  else
    let split := is.act != 0 && is.act != is.e.mask && target != is.e.next
    if is.e.spec && split then s
    else s.transfer is split fun g =>
      (if q.pg < 12 then g.train is.e.clause is.e.mask is.act else g).branch is.i is.act target is.e.next
def execBra (g : Guard) (disp : Int) (hint : Nat) (s : State) : Host.Outcome State Fault Refusal :=
  match s.issuer with
  | none => .refused .noIssuer
  | some is0 =>
    let is := is0.with g
    .next (if s.held is (.bra g disp hint) then s else s.bra is g disp hint)

/-- The record of a bad indirect target (R353). -/
def targetFault (is : Issue) (cause : Nat) (ls : BitVec 32) (t : Nat → Nat) : LateFault :=
  { kind := 3, cause := cause, lanes := ls, clause := is.e.clause, word := is.e.word, access := 4, reason := 0xFF, od := 0,
    cmd := 0, ia := 0, vas := (lanes ls).map fun l => (l, t l), slot := none }

/-- One check of R353: the failing lanes fault; with TVEC = 0 the others proceed. -/
def State.targetCheck (s : State) (is : Issue) (cause : Nat) (bad : BitVec 32) (t : Nat → Nat)
    (run : Issue → State → State) : State :=
  if bad = 0 then run is s
  else
    let r := s.faultAt is.gid is.i cause bad (some (targetFault is cause bad t))
    if r.2 then r.1
    else match r.1.survivors is bad with
      | none => r.1
      | some is' => run is' r.1

/-- An indirect transfer (BRX, CALLX, RET): targets are read first, then checked, then lanes move by the BRX rule. -/
def State.indirect (t : Dst) (link : Bool) (is0 : Issue) (s0 : State) : State :=
  let tgt (l : Nat) := s0.opnd is0 true (dstSrc t) l
  s0.targetCheck is0 0x16 (maskOf fun l => lane is0.act l && tgt l % 8 != 0) tgt fun is1 s1 =>
    s1.targetCheck is1 0x10 (maskOf fun l => lane is1.act l && decide (2 ^ 56 ≤ tgt l)) tgt fun is s2 =>
      let left := is.e.mask &&& is.g.live
      let to_ (l : Nat) := if lane is.act l then tgt l else is.e.next
      let split := (((lanes left).map to_).eraseDups).length > 1
      s2.transfer is split fun g =>
        let g1 := if link then (lanes is.act).foldl (fun h l => h.writeV true 30 l is.e.next) g else g
        g1.scatter is.i to_
def execBrx (g : Guard) (t : Dst) (s : State) : Host.Outcome State Fault Refusal :=
  s.word (.brx g t) g (State.indirect t false)
def execRet (g : Guard) (t : Dst) (s : State) : Host.Outcome State Fault Refusal :=
  s.word (.ret g t) g (State.indirect t false)
def execCallx (g : Guard) (t : Dst) (s : State) : Host.Outcome State Fault Refusal :=
  s.word (.callx g t) g (State.indirect t true)
/-- CALL (R355): the link is the next header; the split follows the BRA rule. -/
def execCall (g : Guard) (disp : Int) (s : State) : Host.Outcome State Fault Refusal :=
  s.word (.call g disp) g fun is s1 =>
    s1.transfer is (is.act != is.e.mask && is.e.target disp != is.e.next) fun h =>
      ((lanes is.act).foldl (fun k l => k.writeV true 30 l is.e.next) h).branch is.i is.act (is.e.target disp) is.e.next

/-! ### EXIT, YIELD, TRAP, BKPT -/

/-- The lanes of entry i that remain go to the next header (R352, R357, R361). -/
def Group.restGoOn (g : Group) (is : Issue) : Group :=
  if g.live &&& is.e.mask = 0 then g else g.moveTo is.i is.e.next

/-- EXIT (R357): the active lanes leave; lanes outside the active set go on. In the handler this would split the entry
only by leaving, which is no split. -/
def execExit (g : Guard) (s : State) : Host.Outcome State Fault Refusal :=
  s.word (.exit g) g fun is s1 => State.lateGate is s1 fun is2 s2 =>
    s2.modGroup is2.gid fun h =>
      let h1 := (h.retire is2.act).restGoOn is2
      if h.isHandler is2.i && h1.live &&& is2.e.mask = 0 then { h1 with trap := false } else h1

/-- The platform of a group makes a choice next (R161, R358). -/
def State.yieldPlatform (s : State) (is : Issue) : State :=
  let p := (match is.g.landed with | some (_, i) => 2 * i | none => is.g.slot % 4)
  s.modCore (is.g.coreOf is.b) fun c =>
    let h : Platform := { SMap.get Platform.reset c.platforms p with held := none }
    { c with platforms := SMap.set Platform.reset c.platforms p h }
def execYield (g : Guard) (s : State) : Host.Outcome State Fault Refusal :=
  s.word (.yield g) g fun is s1 => (s1.yieldPlatform is).goOn is

/-- TRAP (R361). -/
def execTrap (g : Guard) (code : Src) (s : State) : Host.Outcome State Fault Refusal :=
  s.word (.trap g code) g fun is s1 =>
    if is.g.hasHandler then
      s1.raise is.gid is.i { cause := 4, kind := s.opnd is false code is.low % 256, late := false, lanes := is.act,
                             tclause := is.e.next, tword := 0, record := none }
    else s1.setGroup is.gid ((is.g.switchOff is.act 4).restGoOn is)

/-- Debug is on for a context (R292, R298). -/
def State.debugOn (s : State) (ctx : Nat) : Bool :=
  s.guard.unlockAll || (match s.ctx? ctx with | some c => s.guard.unlocked.getLsbD c.fn | none => false)

/-- The place after the word of an entry: the next word, or word 0 of the next header (R431). -/
def Entry.after (e : Entry) : Nat × Nat := if e.word + 1 < e.words then (e.clause, e.word + 1) else (e.next, 0)

/-- BKPT (R362, R431): with debug on it executes and its block is to stop (R293, R294); with debug off it traps, or is a
no-operation when TVEC = 0. -/
def execBkpt (g : Guard) (s : State) : Host.Outcome State Fault Refusal :=
  s.word (.bkpt g) g fun is s1 =>
    if s.debugOn is.b.ctx then
      (s1.modBlock is.g.bid fun b => { b with stopPending := b.stopPending.or (some 1) }).goOn is
    else if is.g.hasHandler then
      s1.raise is.gid is.i { cause := 5, kind := 0, late := false, lanes := is.act, tclause := is.e.after.1,
                             tword := is.e.after.2, record := none }
    else s1.goOn is

/-! ### MIGRATE (R176, R177, R360) -/

/-- A landing slot of a core that no group holds or is on its way to. -/
def State.freeLanding (s : State) (core : Nat) : Option Nat :=
  [0, 1].find? fun i => !(SMap.entries s.groups).any fun g => g.2.landed == some (core, i) || g.2.migrating == some (core, i)

/-- MIGRATE of a group reconverged in one entry whose log is empty and whose stores are acknowledged. The MIGRATE record is written as the
group leaves (R287). -/
def State.migrateTo (s : State) (is : Issue) (pd rank : Nat) : State :=
  let answer (v : Bool) : State :=
    (s.setGroup is.gid (is.g.setPreds pd is.g.live (if v then is.g.live else 0))).goOn is
  let start (dest : Nat × Nat) : State :=
    (s.groupLog is.gid 0x17 rank (is.e.clause, is.e.word) []).setGroup is.gid { is.g with migrating := some dest }
  if is.b.cls = 2 then answer false
  else if rank = is.b.clrank then (if is.g.landed.isNone then answer true else start (is.b.core, 2))
  else match (is.b.cluster[rank]?).bind s.block? with
    | none => answer false
    | some d => match s.freeLanding d.core with
      | none => answer false
      | some i => start (d.core, i)
/-- DEDUCED, unsafe: log entry 26. -/
def execMigrate (g : Guard) (pd : Nat) (a : Src) (s : State) : Host.Outcome State Fault Refusal :=
  match s.issuer with
  | none => .refused .noIssuer
  | some is0 =>
    if !s.held (is0.with g) (.migrate g pd a) && is0.g.entries.length > 1 then .next (s.badClause is0.gid is0.i)
    else s.word (.migrate g pd a) g fun is s1 =>
      let x := s.opnd is false a is.low
      if x / 2 ^ 24 % 256 != 0 || is.b.csize ≤ bits x 20 4 then
        s1.setGroup is.gid ((is.g.switchOff is.act 0x20).restGoOn is)
      else if !(SMap.entries is.g.oplog).isEmpty || s.storesPending is 0xFFFFFFFF then s
      else s1.migrateTo is pd (bits x 20 4)

/-- The landing of a shipped group (R176), or the return of a guest sent home before its host block is saved (R178): a group resumes at the clause after MIGRATE with its predicate true. -/
def execMigrateShippingDone (gid : Nat) (s : State) : Host.Outcome State Fault Refusal :=
  match s.group? gid with
  | none => .refused (.notPending "MIGRATE_SHIPPING_DONE")
  | some g =>
    match g.migrating, g.entries[0]? with
    | some (_, 3), _ =>
      match s.block? g.bid with
      | none => .refused (.notPending "MIGRATE_SHIPPING_DONE")
      | some b =>
        if !(SMap.entries g.oplog).isEmpty || (s.core (g.coreOf b)).stores.any (·.gid == gid) then
          .refused (.notPending "MIGRATE_SHIPPING_DONE")
        else .next (s.setGroup gid { g with migrating := none, landed := none })
    | some (core, i), some e =>
      let pd := match ((e.code.getD [])[e.word + 1]?).bind wordOf with
        | some (.migrate _ pd _) => pd
        | _ => 12
      let g1 := g.setPreds pd g.live g.live
      let g2 : Group := { g1 with migrating := none, landed := if i < 2 then some (core, i) else none }
      .next (s.setGroup gid (g2.moveTo 0 e.next))
    | _, _ => .refused (.notPending "MIGRATE_SHIPPING_DONE")

end Sys2Proof.Machine
end

