-- ==== Sys2Proof/Machine/Links.lean ====
section
/-! DEFINITION. Machine/Links.lean: the link layer of the photonic fabric: flits, sequence numbers, acknowledgement, replay,
pause and relay (R12 to R18, R24). A message between dies is named by its flit; a request is at its home when the link
has accepted that many class 0 flits. -/

namespace Sys2Proof.Machine

/-! ### Ports and links -/

/-- Ports (R9): the control die at 0, compute die d at 1 + d, memory die m at 9 + m; 26 to 31 are unused. -/
def portOfMemory (m : Nat) : Nat := 9 + m
def controlPort : Nat := 0
/-- The port of a requester's die: a compute die, 17 for the host bridge, or 18 and the number of a memory die. -/
def portOfSource (src : Nat) : Nat := if src < 8 then 1 + src else if 18 ≤ src then portOfMemory (src - 18) else controlPort
/-- The port that serves a home number: 17 stands for the host bridge. -/
def portOfHome (h : Nat) : Nat := if h < 17 then portOfMemory h else controlPort

def linkKey (i j : Nat) : Nat := 32 * i + j
def State.link (s : State) (i j : Nat) : Link :=
  if s.fab.up then SMap.get Link.trained s.fab.links (linkKey i j) else Link.reset
def State.setLink (s : State) (i j : Nat) (l : Link) : State :=
  if s.fab.up then { s with fab := { s.fab with links := SMap.set Link.trained s.fab.links (linkKey i j) l } } else s
def State.modLink (s : State) (i j : Nat) (f : Link → Link) : State := s.setLink i j (f (s.link i j))

/-! ### Flits, CRC and beats (R12, R13) -/

/-- The header bits of a flit, 95:0 (R12); pseq is zero but on relayed flits. -/
def Flit.header (f : Flit) : Nat :=
  f.seq % 4096 * 2 ^ 84 + f.ack % 4096 * 2 ^ 72 + f.tc % 4 * 2 ^ 70 + (if f.nak then 2 ^ 69 else 0)
    + (if f.relay then 2 ^ 68 else 0) + f.opsrc % 32 * 2 ^ 63 + f.odst % 32 * 2 ^ 58
    + (if f.relay then f.pseq.getD 0 % 4096 * 2 ^ 46 else 0) + f.kind % 64 * 2 ^ 40 + f.info.toNat

/-- One bit of CRC-32C, reflected. -/
def crcBit (c : Nat) (b : Bool) : Nat :=
  let x := Nat.xor c (if b then 1 else 0)
  if x % 2 = 1 then Nat.xor (x / 2) 0x82F63B78 else x / 2

/-- The CRC register after the n bits of x from bit `i` up, from a start value. -/
def crcOf (x : Nat) : Nat → Nat → Nat → Nat
  | 0, _, c => c
  | n + 1, i, c => crcOf x n (i + 1) (crcBit c (bitAt x i))

/-- CRC-32C of a flit's header and payload (R12). The spec does not say in which order the 608 bits enter it: the model takes them from bit 0
up, in the reflected form. DESIGN CHOICE, unsafe: log entry 140. -/
def Flit.crc (f : Flit) : Nat := Nat.xor 0xFFFFFFFF (crcOf (f.header * 2 ^ 512 + f.payload.toNat) 608 0 0xFFFFFFFF)

/-- The 640 bits of a flit: header, payload, CRC from the top down (R12). DESIGN CHOICE, unsafe: log entry 13. -/
def Flit.word (f : Flit) : Nat := f.header * 2 ^ 544 + f.payload.toNat * 2 ^ 32 + f.crc

/-- Beat b of a flit: bits 40b + 39 down to 40b (R13). -/
def Flit.beat (f : Flit) (b : Nat) : Nat := bits f.word (40 * b) 40

/-- The channels of a mask in ascending order. -/
def channels (m : BitVec 16) : List Nat := (List.range 16).filter m.getLsbD

/-- The channel on which beat g of a link goes over a stripe: live[g mod n] (R13). -/
def beatChannel (live : BitVec 16) (g : Nat) : Nat := (channels live).getD (g % (channels live).length) 0

/-- The beats of a flit on the wire, each with its channel (R13). -/
def Sent.beats (w : Sent) : List (Nat × Nat) := (List.range 16).map fun b => (beatChannel w.live (w.g + b), w.flit.beat b)

/-- Some beat of the flit travels on one of the channels. -/
def Sent.on (w : Sent) (c : BitVec 16) : Bool := w.live != 0 && (List.range 16).any fun b => c.getLsbD (beatChannel w.live (w.g + b))

/-- Flits with a beat on channels that lose their light fail (R20, R21). -/
def hitBy (c : BitVec 16) (ws : List Sent) : List Sent := ws.map fun w => if w.on c then { w with hit := true } else w

/-- A flit with header and payload bits changed (bits 607:0 of header and payload). -/
def Flit.damaged (f : Flit) (d : Nat) : Flit :=
  if d = 0 then f
  else
    let h := Nat.xor f.header (d / 2 ^ 512)
    { seq := bits h 84 12, ack := bits h 72 12, tc := bits h 70 2, nak := bitAt h 69, relay := bitAt h 68,
      opsrc := bits h 63 5, odst := bits h 58 5, pseq := if bitAt h 68 then some (bits h 46 12) else f.pseq,
      kind := bits h 40 6, info := BitVec.ofNat 40 h, payload := f.payload ^^^ BitVec.ofNat 512 d }

/-- Whether a flit's CRC passes after a change of its bits: the CRC is affine in its bits, so it passes exactly when the change's own
CRC field (bits 31:0) is the start-free CRC of the change's header and payload (bits 639:32). -/
def crcPasses (damage : BitVec 640) : Bool :=
  damage == 0 || crcOf (damage.toNat / 2 ^ 32) 608 0 0 == damage.toNat % 2 ^ 32

/-! ### Sending (R13, R15, R16, R24) -/

/-- Class 3 message kinds. The spec gives no codes: 1 to 5, and 0 for a flit that carries nothing. DESIGN CHOICE, unsafe: log entry
120. -/
def kindNone : Nat := 0
def kindAck : Nat := 1
def kindPause : Nat := 2
def kindResume : Nat := 3
def kindChannels : Nat := 4
def kindReport : Nat := 5

/-- Sends one flit that the sender has taken from its queue: a flit of classes 0 to 2 that leaves its source for the first time takes
the next pair sequence; it takes the next sequence number, is kept for replay and goes on the wire over the sender's stripe from beat
counter g; its ack field answers the reverse link (R13, R15, R16, R24). -/
def State.transmit (s : State) (i j : Nat) (f : Flit) : State :=
  let new := f.tc != 3 && f.pseq.isNone
  let s0 := if new then s.modLink f.opsrc f.odst fun l => { l with pairSeq := (l.pairSeq + 1) % 4096 } else s
  let g := { f with seq := (s0.link i j).seq, ack := (s0.link j i).expSeq
                    pseq := if new then some (s.link f.opsrc f.odst).pairSeq else f.pseq }
  let s1 := s0.modLink i j fun l =>
    { l with seq := (l.seq + 1) % 4096, buf := l.buf ++ [(g, s.now)]
             wire := l.wire ++ [{ flit := g, live := l.txLive, g := l.txG, hit := false }], txG := l.txG + 16 }
  s1.modLink j i fun l => { l with unacked := 0, ackAt := s.now }

/-- Whether a new flit may leave now: some channel is live, the class is not paused, and for classes 0 to 2 the replay
buffer has room and the pair is not relayed (R16, R17, R24, R26). -/
def Link.maySend (l : Link) (f : Flit) : Bool :=
  l.txLive != 0 && (f.tc == 3 || (!l.txPause.getLsbD f.tc && l.buf.length < 1024 && l.relayVia.isNone))

/-- Moves flits of a link's queue out, in order within each class; a relayed pair's flits go to VIA (R24). -/
def State.pumpFrom (s : State) (i j : Nat) : List Flit → List Flit → State
  | [], kept => s.modLink i j fun l => { l with queue := kept }
  | f :: rest, kept =>
    let l := s.link i j
    if kept.any (fun k => k.tc == f.tc) then s.pumpFrom i j rest (kept ++ [f])
    else if l.maySend f then (s.transmit i j f).pumpFrom i j rest kept
    else
      match l.relayVia with
      | some v =>
        if f.tc != 3 && (s.link i v).maySend f then (s.transmit i v { f with relay := true }).pumpFrom i j rest kept
        else s.pumpFrom i j rest (kept ++ [f])
      | none => s.pumpFrom i j rest (kept ++ [f])
def State.pumpOne (s : State) (i j : Nat) : State := s.pumpFrom i j (s.link i j).queue []
/-- What may leave port i for port j, and what of its relayed pairs may leave over that link (R24). -/
def State.pump (s : State) (i j : Nat) : State :=
  (((List.range 26).filter fun d => (s.link i d).relayVia == some j).foldl (fun t d => t.pumpOne i d) (s.pumpOne i j))

/-- Puts one new flit on a link and answers its ticket: the number of flits of its class sent so far. -/
def State.send (s : State) (i j tc kind : Nat) (info : BitVec 40) (payload : BitVec 512) : State × Ticket :=
  let f : Flit := { seq := 0, ack := 0, tc := tc, nak := false, relay := false, opsrc := i, odst := j, pseq := none, kind := kind,
                    info := info, payload := payload }
  let n := SMap.get 0 (s.link i j).sent tc + 1
  let s1 := s.modLink i j fun l => { l with queue := l.queue ++ [f], sent := SMap.set 0 l.sent tc n }
  ({ s1 with fab := { s1.fab with msgs := s1.fab.msgs + 1 } }.pump i j, { src := i, dst := j, tc := tc, n := n })

/-- Sends a class 3 flit (R14). -/
def State.control (s : State) (i j kind : Nat) (info : BitVec 40) : State :=
  (s.send i j 3 kind info ((Config.message s.fab.msgs).setWidth 512)).1

/-- Sends the flit of a message of classes 0 to 2, whose kind, info and payload are open (R12, R14); a message within one port needs
none. -/
def State.message (s : State) (i j tc : Nat) : State × Ticket :=
  if i = j then (s, Ticket.here)
  else
    let m := Config.message s.fab.msgs
    s.send i j tc (m.toNat / 2 ^ 552) ((m >>> 512).setWidth 40) (m.setWidth 512)

/-- The flit of a message has arrived (R14). -/
def State.landed (s : State) (t : Ticket) : Bool := decide (t.n ≤ SMap.get 0 (s.link t.src t.dst).accepted t.tc)

/-- Sends one nak from the receiving end of link i → j: its ack field names the expected sequence (R15). -/
def State.sendNak (s : State) (i j : Nat) : State :=
  let s1 := s.modLink i j fun l => { l with nakSent := true }
  if (s.link j i).txLive = 0 then s1
  else s1.transmit j i { seq := 0, ack := 0, tc := 3, nak := true, relay := false, opsrc := j, odst := i, pseq := none, kind := kindAck,
                         info := 0, payload := (Config.message s.fab.msgs).setWidth 512 }

/-- Flits put on the wire one after another, each over the stripe from the next beat counter (R13). -/
def onWire (live : BitVec 16) (g : Nat) : List Flit → List Sent
  | [] => []
  | f :: fs => { flit := f, live := live, g := g, hit := false } :: onWire live (g + 16) fs

/-- Re-sends every buffered flit from a sequence onward, in order (R16). -/
def State.replayFrom (s : State) (i j seq : Nat) : State :=
  s.modLink i j fun l =>
    let skip := l.buf.takeWhile fun x => x.1.seq != seq
    let again := (l.buf.drop skip.length).map (·.1)
    if again.isEmpty || l.txLive = 0 then l
    else { l with buf := skip ++ again.map (fun f => (f, s.now)), wire := l.wire ++ onWire l.txLive l.txG again
                  txG := l.txG + 16 * again.length, resent := l.resent + again.length
                  replay := min (l.replay + again.length) 0xFFFFFFFF }

/-- Buffered flits from an acknowledged sequence on (R16). -/
def Link.from_ (l : Link) (a : Nat) : List (Flit × Nat) :=
  if l.buf.any (fun x => x.1.seq == a) then l.buf.dropWhile (fun x => x.1.seq != a) else if l.seq = a then [] else l.buf

/-! ### Receive buffers (R17) -/

/-- The home that serves a request now (R63, R65). DESIGN CHOICE, unsafe: log entry 27. -/
def State.homeOf (s : State) (r : Req) : Nat := (r.lanes.head?.map fun l => s.servingDie l.ia).getD 0

/-- Whether the link has brought a request to its home (R14). -/
def State.arrived (s : State) (r : Req) : Bool := s.landed r.ticket

/-- The port over whose link the flits of a pair reach its destination now. -/
def State.lastLeg (s : State) (i j : Nat) : Nat := ((s.link i j).relayVia).getD i

/-- The flits of classes 0 to 2 that have been sent and that nobody has taken from a receive buffer yet, wherever they are: requests that no
home has looked at, answers that no requester has acted on, and the messages of the memory dies and the control die (R14). DESIGN CHOICE,
unsafe: log entry 121. -/
def State.tickets (s : State) : List Ticket :=
  ((s.md.reqs.filter fun r => r.waiting.isNone && r.retryAt.isNone).map (·.ticket))
    ++ ((s.md.cellReqs.filter fun c => c.retryAt.isNone).map (·.ticket)) ++ (s.md.uio.map (·.req.ticket))
    ++ (s.md.deltas.map (·.ticket)) ++ (s.md.parityAcks.map (·.ticket)) ++ (s.md.renewals.map (·.ticket))
    ++ (s.md.mirrorQ.map (·.ticket)) ++ (s.md.heatQ.map (·.ticket))
    ++ (s.xl.missQ.map (·.ticket)) ++ (s.xl.fills.map (·.ticket)) ++ (s.xl.answers.map (·.ticket))
    ++ (s.xl.invals.map fun v => v.todo.map (·.2) ++ v.acks).flatten
    ++ (s.arrivals.map (·.ticket)) ++ (s.cores.map fun c => c.2.acks.map (·.ticket)).flatten
    ++ (s.groups.map fun g => (g.2.map fun h => ((SMap.entries h.oplog).map fun o => o.2.replies).flatten).getD []).flatten
    ++ (s.blocks.map fun b => (b.2.map fun k => (k.cmds.map fun c => c.replies.map (·.2)).flatten).getD []).flatten
    ++ (s.md.memops.map fun m => (m.open_.map (·.replies)).flatten).flatten

/-- Flits of a class in the receive buffer of link i → j (R17): those that have landed over it and have not been taken, those that it brought
ahead of their pair's expected sequence, and at a relay die the relayed flits that it has not forwarded. -/
def State.occupancy (s : State) (i j tc : Nat) : Nat :=
  ((SMap.get [] s.fab.relayIn j).filter fun f => f.opsrc == i && f.tc == tc).length
    + (s.tickets.filter fun t => t.n != 0 && t.tc == tc && t.dst == j && s.lastLeg t.src j == i && s.landed t).length
    + ((s.fab.links.map fun k => if k.1 % 32 = j ∧ s.lastLeg (k.1 / 32) j = i then (k.2.pairHold.filter fun f => f.tc == tc).length else 0).sum)

/-- A pause goes back when a class is above the high mark, a resume when it has fallen to 320 (R17). -/
def State.settlePause (s : State) (i j tc : Nat) : State :=
  let l := s.link i j
  let n := s.occupancy i j tc
  if 448 < n && !l.rxPause.getLsbD tc then
    (s.modLink i j fun l => { l with rxPause := l.rxPause ||| BitVec.ofNat 4 (2 ^ tc) }).control j i kindPause (BitVec.ofNat 40 tc)
  else if n ≤ 320 && l.rxPause.getLsbD tc then
    (s.modLink i j fun l => { l with rxPause := l.rxPause &&& ~~~(BitVec.ofNat 4 (2 ^ tc)) }).control j i kindResume
      (BitVec.ofNat 40 tc)
  else s

/-- Resumes of all links whose buffers have emptied, after flits were taken in any way (R17). -/
def State.settlePauses (s : State) : State :=
  s.fab.links.foldl (fun t k =>
    if k.2.rxPause = 0 then t
    else [0, 1, 2].foldl (fun u tc => u.settlePause (k.1 / 32) (k.1 % 32) tc) t) s

/-- A home has taken a request or a delta of port i out of its receive buffer (R17). -/
def State.consume (s : State) (i j tc : Nat) : State := s.settlePause (s.lastLeg i j) j tc

/-! ### Receiving -/

/-- A flit of pair i → j of classes 0 to 2 is accepted by its destination, over whichever link (R14, R24). -/
def State.deliver (s : State) (i j tc : Nat) : State :=
  s.modLink i j fun l => { l with accepted := SMap.set 0 l.accepted tc (SMap.get 0 l.accepted tc + 1), pairExp := (l.pairExp + 1) % 4096 }

/-- Flits of a pair that came early are taken once their turn has come (R24). -/
def State.drainPair (s : State) (i j : Nat) : Nat → State
  | 0 => s
  | n + 1 =>
    let l := s.link i j
    match l.pairHold.find? fun f => f.pseq == some l.pairExp with
    | none => s
    | some f => ((s.modLink i j fun l => { l with pairHold := l.pairHold.erase f }).deliver i j f.tc).drainPair i j n

/-- A flit of pair o → j reaches its destination (R24): the expected one is accepted, and those that waited for it after it; one ahead of it
waits; one that was accepted before, or waits already, is a duplicate. -/
def State.takePair (s : State) (o j : Nat) (f : Flit) : State :=
  let l := s.link o j
  let ahead := (f.pseq.getD 0 + 4096 - l.pairExp) % 4096
  if ahead = 0 then (s.deliver o j f.tc).drainPair o j l.pairHold.length
  else if 2048 ≤ ahead || l.pairHold.any (fun h => h.pseq == f.pseq) then s
  else s.setLink o j { l with pairHold := l.pairHold ++ [f] }

/-- The receiver's part for an accepted flit: acknowledgement of the reverse link, then its class (R15, R17, R24). -/
def State.acceptFlit (s : State) (i j : Nat) (f : Flit) : State :=
  let s1 := s.modLink i j fun l => { l with expSeq := (l.expSeq + 1) % 4096, nakSent := false, unacked := l.unacked + 1 }
  let s2 := s1.modLink j i fun b => if f.nak then { b with nakIn := some f.ack } else { b with ackIn := some f.ack }
  if f.tc = 3 then
    if f.nak || f.kind = kindNone then s2
    else s2.modLink i j fun l =>
      { l with accepted := SMap.set 0 l.accepted 3 (SMap.get 0 l.accepted 3 + 1)
               ctlIn := if f.kind = kindPause ∨ f.kind = kindResume ∨ f.kind = kindChannels then l.ctlIn ++ [f] else l.ctlIn }
  else if f.relay && f.odst != j then
    ({ s2 with fab := { s2.fab with relayIn := SMap.set [] s2.fab.relayIn j (SMap.get [] s2.fab.relayIn j ++ [f]) } }).settlePause i j f.tc
  else
    let o := if f.relay then f.opsrc else i
    (s2.takePair o j f).settlePause i j f.tc

/-- FLIT_RECEIVE (R15): the next flit on the wire, with the given bits changed in flight. A flit sent over another stripe than the
receiver decodes, or with a beat on a channel that lost its light, fails its CRC (R21). The receiver's beat counter follows the flits of
its stripe (R13). -/
def execFlitReceive (src dst : Nat) (damage : BitVec 640) (s : State) : Host.Outcome State Fault Refusal :=
  match (s.link src dst).wire with
  | [] => .refused (.notPending "FLIT_RECEIVE")
  | w :: rest =>
    let bad := w.hit || w.live != (s.link src dst).rxLive
    let s1 := s.modLink src dst fun l => { l with wire := rest, rxG := if w.live = l.rxLive then w.g + 16 else l.rxG }
    let l := s1.link src dst
    let pass := !bad && crcPasses damage
    let f := w.flit.damaged (damage.toNat / 2 ^ 32)
    if pass && f.seq = l.expSeq then
      let s2 := s1.acceptFlit src dst f
      .next (if 32 ≤ (s2.link src dst).unacked then s2.control dst src kindAck 0 else s2)
    else
      let s2 := if pass then s1 else s1.modLink src dst fun l => { l with crcFail := min (l.crcFail + 1) 0xFFFFFFFF }
      .next (if l.nakSent then s2 else s2.sendNak src dst)

/-- ACK_FLIT_TIMER (R15): the receiver acknowledges at least once per 64 cc and per 32 accepted flits. -/
def execAckFlitTimer (src dst : Nat) (s : State) : Host.Outcome State Fault Refusal :=
  let l := s.link src dst
  if l.unacked = 0 || s.now < l.ackAt + 64 then .refused (.notPending "ACK_FLIT_TIMER")
  else
    let s1 := s.control dst src kindAck 0
    .next (s1.modLink src dst fun l => { l with ackAt := s1.now })

/-- ACK_RECEIVE (R16): acknowledged flits leave the replay buffer. -/
def execAckReceive (src dst : Nat) (s : State) : Host.Outcome State Fault Refusal :=
  match (s.link src dst).ackIn with
  | none => .refused (.notPending "ACK_RECEIVE")
  | some a => .next ((s.modLink src dst fun l => { l with ackIn := none, buf := l.from_ a }).pump src dst)

/-- NAK_REPLAY (R16): everything from the named sequence is sent again, then new flits; a pair with no live channel sends nothing
(R26). -/
def execNakReplay (src dst : Nat) (s : State) : Host.Outcome State Fault Refusal :=
  match (s.link src dst).nakIn with
  | none => .refused (.notPending "NAK_REPLAY")
  | some a =>
    let s1 := s.modLink src dst fun l => { l with nakIn := none, buf := l.from_ a }
    .next ((s1.replayFrom src dst a).pump src dst)

/-- REPLAY_TIMEOUT (R16): the oldest unacknowledged flit is 512 cc old. -/
def execReplayTimeout (src dst : Nat) (s : State) : Host.Outcome State Fault Refusal :=
  match (s.link src dst).buf with
  | [] => .refused (.notPending "REPLAY_TIMEOUT")
  | (f, t) :: _ =>
    if (s.link src dst).txLive = 0 || s.now < t + 512 then .refused (.notPending "REPLAY_TIMEOUT")
    else .next ((s.replayFrom src dst f.seq).pump src dst)

/-- The first class 3 flit of some kind waiting on a link, and the link without it. -/
def Link.takeControl (l : Link) (p : Flit → Bool) : Option (Flit × Link) :=
  match l.ctlIn.find? p with
  | none => none
  | some f => some (f, { l with ctlIn := l.ctlIn.erase f })

/-- PAUSE_RECEIVE (R17): the sender of src → dst stops or resumes new flits of a class. -/
def execPauseReceive (src dst : Nat) (s : State) : Host.Outcome State Fault Refusal :=
  match (s.link dst src).takeControl fun f => f.kind == kindPause || f.kind == kindResume with
  | none => .refused (.notPending "PAUSE_RECEIVE")
  | some (f, l) =>
    let c := BitVec.ofNat 4 (2 ^ (f.info.toNat % 4))
    let s1 := (s.setLink dst src l).modLink src dst fun l =>
      { l with txPause := if f.kind = kindPause then l.txPause ||| c else l.txPause &&& ~~~c }
    .next (s1.pump src dst)

/-! ### Relaying at the third die (R24) -/

/-- Relayed flits that fit into 320 cc of a link of n channels at a share in eighths: 2.8 × n / 16 flits per cc (R13, R24). -/
def shareLimit (n share : Nat) : Nat := 7 * n * share

/-- The relay die may give a pair's flit to its own link now: of its links from the pair's source and to its destination relayed flits
take at most SHARE eighths (R24). -/
def State.mayForward (s : State) (v : Nat) (f : Flit) : Bool :=
  let l := s.link v f.odst
  let n := min (popcount 16 (s.link f.opsrc v).rxLive.toNat) (popcount 16 l.txLive.toNat)
  l.maySend f && (decide (l.shareAt + 320 ≤ s.now) || decide (l.shareN < shareLimit n (s.link f.opsrc f.odst).share))

/-- The first waiting flit that may go on: the flits of one pair go in arrival order (R24). -/
def State.forwardable (s : State) (v : Nat) : List Flit → List Flit → Option Flit
  | [], _ => none
  | f :: rest, before =>
    if !(before.any fun g => g.opsrc == f.opsrc && g.odst == f.odst) && s.mayForward v f then some f
    else s.forwardable v rest (before ++ [f])

/-- RELAYED_FLIT_FORWARD (R24): a relay die sends a relayed flit on to its destination. DESIGN CHOICE, unsafe: log entry 56. -/
def execRelayedFlitForward (via : Nat) (s : State) : Host.Outcome State Fault Refusal :=
  let fs := SMap.get [] s.fab.relayIn via
  match s.forwardable via fs [] with
  | none => .refused (.notPending "RELAYED_FLIT_FORWARD")
  | some f =>
    let s1 : State := { s with fab := { s.fab with relayIn := SMap.set [] s.fab.relayIn via (fs.erase f) } }
    let s2 := s1.modLink via f.odst fun l =>
      if l.shareAt + 320 ≤ s.now then { l with shareAt := s.now, shareN := 1 } else { l with shareN := l.shareN + 1 }
    .next ((s2.transmit via f.odst f).settlePause f.opsrc via f.tc)

end Sys2Proof.Machine
end

