-- ==== Sys2Proof/Machine/Access.lean ====
section
/-! DEFINITION. Machine/Access.lean: forming and checking addresses of the six spaces, address faults, scratchpads, and
making class 0 requests to homes (R96 to R99, R204 to R208, R384 to R388). -/

namespace Sys2Proof.Machine

/-! ### Addresses (R204 to R206) -/

/-- The outcome of forming a lane's address: its space address (and rank for a peer), or a cause with the VA it would
have had. -/
inductive Addr where
  | ok (rank a : Nat)
  | bad (cause va : Nat)
  deriving DecidableEq, Repr

/-- Whether the faults of a space trap (R205, R206); those of spaces 1, 2 and 5 always switch lanes off. -/
def Space.traps : Space → Bool
  | .global | .const | .stack => true
  | _ => false

/-- The device cells of a block's context (R50). -/
def State.cellCount (s : State) (ctx : Nat) : Nat := ((s.ctx? ctx).map (·.req.ncell)).getD 0

/-- The address of a lane in a space, for an access of n bytes aligned to m: range first, then alignment. A cell address that is not aligned
to its width takes MISALIGN (R206), one that is but names no cell CELLRANGE (R50). DEDUCED, unsafe: log entry 147. -/
def State.address (s : State) (is : Issue) (sp : Space) (base : Src) (off : Int) (n m l : Nat) : Addr :=
  let b := s.opnd is (sp == .global) base l
  let t : Int := (b : Int) + off
  let align (a : Nat) (va : Nat) (k : Addr) : Addr := if a % m = 0 then k else .bad 0x16 va
  match sp with
  | .global =>
    let va := wrap 64 t
    if 2 ^ 56 ≤ va then .bad 0x10 va else align va va (.ok 0 va)
  | .scratch =>
    if t < 0 || (is.b.spad : Int) < t + n then .bad 0x20 0 else align t.toNat 0 (.ok is.b.clrank t.toNat)
  | .peer =>
    let a := t.toNat
    if t < 0 || 2 ^ 24 ≤ a || is.b.csize ≤ bits a 20 4 || is.b.spad < bits a 0 20 + n then .bad 0x20 0
    else align (bits a 0 20) 0 (.ok (bits a 20 4) (bits a 0 20))
  | .const =>
    let va := wrap 64 ((is.b.args : Int) + t)
    if t < 0 || (is.b.cunits * 256 : Int) < t + n then .bad 0x17 va else align va va (.ok 0 va)
  | .stack =>
    let lim := is.g.slim.toNat
    let va := wrap 64 ((is.g.sbase.toNat + l * lim : Nat) + t)
    if t < 0 || (lim : Int) < t + n then .bad 0x18 va else align va va (.ok 0 va)
  | .cell =>
    if t < 0 || (s.cellCount is.b.ctx : Int) ≤ t / 8 then .bad 0x21 0
    else align t.toNat 0 (if t % 8 = 0 then .ok 0 (t.toNat / 8) else .bad 0x21 0)

/-- A formed access of a lane: lane, VA or space address, IA, peer rank, and whether its segment checks. -/
structure LaneAddr where
  lane : Nat
  rank : Nat
  a : Nat
  ia : Nat
  chk : Bool
  deriving DecidableEq, Repr

/-- Forms a lane's address and passes it through the segments for an access type (R96, R99). -/
def State.reach (s : State) (is : Issue) (sp : Space) (base : Src) (off : Int) (n m : Nat) (t : Rights) (l : Nat) :
    Except (Nat × Nat) LaneAddr :=
  match s.address is sp base off n m l with
  | .bad c va => .error (c, va)
  | .ok r a =>
    if Space.traps sp then
      match s.ctx? is.b.ctx with
      | none => .error (0x10, a)
      | some cx =>
        match cx.translate a t with
        | .error c => .error (c, a)
        | .ok (ia, chk) => .ok { lane := l, rank := r, a := a, ia := ia, chk := chk }
    else .ok { lane := l, rank := r, a := a, ia := a, chk := false }

/-- Lanes whose address fails, with cause and VA. -/
def badAddrs (rs : List (Nat × Except (Nat × Nat) LaneAddr)) : List (Nat × Nat × Nat) :=
  rs.filterMap fun x => match x.2 with | .error e => some (x.1, e) | .ok _ => none
def okAddrs (rs : List (Nat × Except (Nat × Nat) LaneAddr)) : List LaneAddr :=
  rs.filterMap fun x => match x.2 with | .ok a => some a | .error _ => none

/-- The od field of a word (bits 19:16 of the M format). -/
def odOf (i : Instr) : Nat := ((unparse i).map Fields.od).getD 0

/-- The record of faults found at issue (R119, R205): reason 0xFF and ia 0; a MEMOP has no order or cache field. -/
def segRecord (is : Issue) (i : Instr) (kind access : Nat) (bads : List (Nat × Nat × Nat)) (ls : BitVec 32) : LateFault :=
  { kind := kind, cause := (bads.head?.map (·.2.1)).getD 0, lanes := ls, clause := is.e.clause, word := is.e.word,
    access := access, reason := 0xFF, od := if kind = 5 then 0 else odOf i, cmd := 0, ia := 0, vas := bads.map fun x => (x.1, x.2.2), slot := none }

/-- Address faults at issue: with a trapping space and a handler the whole word traps with a record; else each lane is
switched off with its own cause and the lanes left go on (R205). A speculative entry waits instead (R168). -/
def State.addrFaults (s : State) (is : Issue) (i : Instr) (traps : Bool) (kind access : Nat)
    (bads : List (Nat × Nat × Nat)) (run : Issue → State → State) : State :=
  let ls := maskOf fun l => bads.any (·.1 == l)
  if bads.isEmpty then run is s
  else if is.ahead then s
  else if traps && is.g.hasHandler then
    s.raise is.gid is.i
      { cause := (bads.head?.map (·.2.1)).getD 0, kind := kind, late := false, lanes := ls, tclause := is.e.clause,
        tword := is.e.word, record := some (segRecord is i kind access bads ls) }
  else
    let s1 := s.modGroup is.gid fun g => bads.foldl (fun h x => h.switchOff (bit x.1) x.2.1) g
    match s1.survivors is ls with
    | none => s1
    | some is' => if is'.act = 0 then s1.goOn is' else run is' s1

/-- A per-lane memory word: forms every active lane's address; then faults, after which nothing is written where the word traps; helper lanes
whose address fails receive zero and take no fault; then `run` with the lanes that reach memory. -/
def State.withAddrs (i : Instr) (sp : Space) (base : Src) (off : Int) (n : Nat) (t : Rights) (kind : Nat) (is : Issue)
    (s : State) (run : Issue → List LaneAddr → State → State) : State :=
  let rs := (lanes is.act).map fun l => (l, s.reach is sp base off n n t l)
  let bads := badAddrs rs
  let hz := maskOf fun l => lane is.g.helper l && bads.any (·.1 == l)
  let real := bads.filter fun x => !lane is.g.helper x.1
  let stops := !real.isEmpty && (is.ahead || (Space.traps sp && is.g.hasHandler))
  let s1 := if hz = 0 || stops then s else s.modGroup is.gid fun g => g.zeroDest i hz
  s1.addrFaults (is.now s1) i (Space.traps sp) kind t.toNat real fun is' s2 =>
    run is' ((okAddrs rs).filter fun a => lane is'.act a.lane) s2

/-! ### Scratchpads (R206 to R208) -/

def Block.byte (b : Block) (o : Nat) : BitVec 8 := SMap.get 0 b.scratch o
def Block.readN (b : Block) (o n : Nat) : Nat := ofBytes ((List.range n).map fun k => b.byte (o + k))
def Block.writeN (b : Block) (o n x : Nat) : Block := { b with scratch := SMap.setRun 0 b.scratch o (toBytes n x) }

/-- The block whose scratchpad an access of sp 1 or sp 2 reaches (R177, R204): sp 1 the block where the group runs. -/
def State.padOf (s : State) (is : Issue) (sp : Space) (rank : Nat) : Nat :=
  match sp with
  | .scratch => s.hostBlock is.g is.b
  | _ => (is.b.cluster[rank]?).getD is.g.bid

/-! ### Requests (R14, R41, R44) -/

/-- The guard phase a plain access carries (R223): of the block's guard barrier, or 0. -/
def Block.guardPhase (b : Block) : Nat :=
  (((SMap.entries b.slots).find? fun x => x.2.guard).map (·.2.phase)).getD 0
/-- A group's identifier for race checks (R223). -/
def groupId (b : Block) (g : Group) : Nat := b.ctx % 128 * 2 ^ 15 + b.index % 1024 * 2 ^ 5 + g.idx % 32

/-- The die of a core. -/
def dieOf (core : Nat) : Nat := core / 8

/-- A request with the fields every requester sets; a caller changes the rest. -/
def reqBase (src ctx fn : Nat) (who : Requester) (kind : ReqKind) (lanes : List LaneAcc) (width : Nat) : Req :=
  { tag := 0, src := src, ctx := ctx, fn := fn, who := who, kind := kind, signed := false, width := width, lanes := lanes,
    od := 0, phase := 0, rgid := 0, spec := false, version := 0, slot := 0, bid := 0, lease := false, alloc := false,
    ticket := Ticket.here, waiting := none, retryAt := none, reply := Ticket.here }

/-- The home number a request goes to: 17 for an access whose page the bridge serves is decided at the home (R106). -/
def Req.home (r : Req) : Nat := homeDie ((r.lanes.head?.map (·.ia)).getD 0)

/-! ### Cells' dies (R50, R53) -/

def cellDie (c : Nat) : Nat := c % 17
/-- Whether a memory die serves no more: it failed or was retired. -/
def State.dieGone (s : State) (d : Nat) : Bool := s.md.failed.getLsbD d || s.md.retired == some d
/-- The die that performs a cell's operations: its own, else its mirror; none when both are gone. -/
def State.cellServer (s : State) (c : Nat) : Option Nat :=
  if !s.dieGone (cellDie c) then some (cellDie c)
  else if !s.dieGone ((cellDie c + 1) % 17) then some ((cellDie c + 1) % 17)
  else none
/-- The die that a cell's requests go to. -/
def State.cellHome (s : State) (c : Nat) : Nat := (s.cellServer c).getD (cellDie c)

/-- Sends one cell request in class 0 (R14, R51). -/
def State.cellRequest (s : State) (r : CellReq) : State :=
  let f := s.message (portOfSource r.src) (portOfMemory (s.cellHome r.cell)) 0
  { f.1 with md := { f.1.md with nextTag := f.1.md.nextTag + 1,
                                 cellReqs := f.1.md.cellReqs ++ [{ r with tag := f.1.md.nextTag, ticket := f.2 }] } }

/-- Sends a request to its home in class 0: it takes a tag and the flit's place in the link's order. -/
def State.request (s : State) (r : Req) : State :=
  let home := (r.lanes.head?.map fun l => s.servingDie l.ia).getD 0
  let f := s.message (portOfSource r.src) (portOfMemory home) 0
  { f.1 with md := { f.1.md with nextTag := f.1.md.nextTag + 1,
                                 reqs := f.1.md.reqs ++ [{ r with tag := f.1.md.nextTag, ticket := f.2 }] } }

/-- Cuts lanes into one request per 256-byte unit, in order of the lowest lane (R41). -/
def perUnit (ls : List LaneAcc) : List (List LaneAcc) :=
  ((ls.map fun l => l.ia / 256).eraseDups).map fun u => ls.filter fun l => l.ia / 256 == u

/-- Sends the requests of a word. -/
def State.requestAll (s : State) (r : Req) (ls : List LaneAcc) : State :=
  (perUnit ls).foldl (fun t u => t.request { r with lanes := u }) s

/-- The request a word of a group sends, but for its lanes. -/
def State.groupReq (s : State) (is : Issue) (i : Instr) (who : Requester) (kind : ReqKind) (width : Nat) : Req :=
  let core := is.g.coreOf is.b
  { reqBase (dieOf core) is.b.ctx (((s.ctx? is.b.ctx).map (·.fn)).getD 0) who kind [] width with
    od := odOf i, phase := (((s.block? is.g.bid).getD is.b).guardPhase), rgid := groupId is.b is.g, spec := is.e.spec }

/-- Where a LAUNCH stands whose record has been read, until its reply writes its registers (R128, R164). -/
def launchSlot (op : Nat) : Nat := 32 + op
/-- The lowest free operand-log slot. -/
def Group.freeLog (g : Group) : Nat := (SMap.freeKey g.oplog 0 16).getD 15

/-- A new operand-log entry for the word at the issuer (R113). -/
def Issue.logEntry (is : Issue) (i : Instr) (kind : OpKind) (pending : BitVec 32) (sp : Nat) : OpEntry :=
  { kind := kind, clause := is.e.clause, word := is.e.word, raw := (encode i).getD 0, pending := pending, vas := [],
    data := [], faulted := 0, causes := [], deferred := [], dregs := [], od := odOf i, sp := sp, spec := is.e.spec,
    notNow := 0, unconfirmed := false, replies := [], line := is.g.lineSpec.isSome
    seq := (is.g.oplog.map fun o => (o.2.map (·.seq)).getD 0).foldl max 0 + 1 }

/-- Puts an operand-log entry into the issuing group. -/
def State.putLog (s : State) (gid slot : Nat) (o : OpEntry) : State :=
  s.modGroup gid fun g => { g with oplog := SMap.put g.oplog slot o }

/-- Drops the L1 copies of a line in one compute die (R211). -/
def State.dropL1 (s : State) (die ia : Nat) : State :=
  { s with l1 := s.l1.filter fun e => e.1 != die * 2 ^ 45 + ia / 128 }
def State.l1Line (s : State) (die ia : Nat) : Option L1Line := SMap.find? s.l1 (die * 2 ^ 45 + ia / 128)

/-! ### Store buffer (R151, R211) -/

/-- A byte held in a group's posted plain stores, newest store first: none where no store holds it, and an atomic's byte
has no value yet. -/
def bufByte (stores : List BufStore) (gid ia : Nat) : Option (Option (BitVec 8)) :=
  (stores.reverse.findSome? fun b =>
    if b.gid == gid && b.sp != 2 then
      ((b.lanes.reverse.find? fun x => x.2.2.1 ≤ ia && ia < x.2.2.1 + b.width).map fun x =>
        if b.red then none else some (BitVec.ofNat 8 (x.2.2.2 / 2 ^ (8 * (ia - x.2.2.1)))))
    else none)

/-- What the store buffer answers a load of n bytes: nothing, all of it, or a part (then the load waits). -/
inductive Forward where
  | none | all (x : Nat) | part
  deriving DecidableEq, Repr
def forward (stores : List BufStore) (gid ia n : Nat) : Forward :=
  let bs := (List.range n).map fun k => bufByte stores gid (ia + k)
  if bs.all Option.isNone then .none
  else
    let vs := bs.filterMap fun b => b.bind id
    if vs.length = n then .all (ofBytes vs) else .part

/-- Stores through a checked segment, which stand in the operand log, take their places among the stores of the buffer: each before those that
were buffered after it. -/
def withHeld (stores held : List BufStore) : List BufStore :=
  held.foldl (fun l h => (l.takeWhile fun b => decide (b.id < h.id)) ++ [h] ++ l.dropWhile fun b => decide (b.id < h.id)) stores

/-- Puts a store into the core's store buffer and answers its identifier. -/
def State.putStore (s : State) (is : Issue) (width sp od : Nat) (red : Bool) (ls : List (Nat × Nat × Nat × Nat)) :
    State × Nat :=
  let c := is.g.coreOf is.b
  let k := s.core c
  let b : BufStore := { id := k.nextStore, gid := is.gid, clause := is.e.clause, word := is.e.word, od := od,
                        width := width, lanes := ls, sp := sp, red := red }
  (s.setCore c { k with stores := k.stores ++ [b], nextStore := k.nextStore + 1 }, k.nextStore)

end Sys2Proof.Machine
end

