-- ==== Sys2Proof/Machine/Atomics.lean ====
section
/-! DEFINITION. Machine/Atomics.lean: the arithmetic of atomics, as the homes and the scratchpad banks perform it (R49,
R396, R397), and of exact-reduction cells (R50, R51). -/

namespace Sys2Proof.Machine

/-- One step of an atomic on an old value of w bits: the new value and its flags. For cas, x is the compare value and y
the new one. -/
def atomStep (k : ReqKind) (signed : Bool) (w old x y : Nat) : Nat × Flags :=
  let le (a b : Nat) : Bool := if signed then decide (sext w a ≤ sext w b) else decide (a ≤ b)
  match k with
  | .add => ((old + x) % 2 ^ w, 0)
  | .min => (if le old x then old else x, 0)
  | .max => (if le old x then x else old, 0)
  | .and => (old &&& x, 0)
  | .or => (old ||| x, 0)
  | .xor => (old ^^^ x, 0)
  | .exch => (x, 0)
  | .cas => (if old = x then y else old, 0)
  | .fadd =>
    let f := if w = 64 then Fmt.f64 else Fmt.f32
    f.finish ((f.read old).add (f.read x))
  | _ => (old, 0)

/-- The lanes of one combined request in ascending order: each lane's old value, the final value and the union of flags
(R49). -/
def atomRun (k : ReqKind) (signed : Bool) (w : Nat) : Nat → List (Nat × Nat × Nat) → List (Nat × Nat) × Nat × Flags
  | old, [] => ([], old, 0)
  | old, (l, x, y) :: rest =>
    let r := atomStep k signed w old x y
    let t := atomRun k signed w r.1 rest
    ((l, old) :: t.1, t.2.1, r.2 ||| t.2.2)

/-- Whether an atomic writes its location: a failed cas does not (R237). -/
def atomWrites (k : ReqKind) (old : Nat) (ops : List (Nat × Nat × Nat)) : Bool :=
  match k with
  | .cas => ops.any (fun o => o.2.1 == old) || false
  | _ => true

/-! ### Range operations (R54, R402) -/

/-- The element size of a MEMOP (R402). -/
def memopSize (kind ty : Nat) : Nat :=
  if kind = 0 then 8 else if kind = 4 then (if ty = 1 then 8 else 4) else if ty = 0 then 4 else 2

def memopFmt (ty : Nat) : Fmt := if ty = 0 then Fmt.f32 else if ty = 2 then Fmt.f16 else Fmt.bf16

/-- One element's new value (R54): the fill's pattern, or rounded to nearest even once. -/
def memopElem (kind ty a x y : Nat) : Nat :=
  let f := memopFmt ty
  match kind with
  | 0 => x
  | 1 => (f.finish ((f.read a).fma (f.read x) (f.read y))).1
  | 2 => (f.finish ((f.read y).add (f.read x))).1
  | _ => (f.finish ((f.read y).mul (f.read x))).1

/-! ### Cells (R50, R51) -/

/-- Adds an FP32 or FP64 value into a cell. -/
def Cell.add (c : Cell) (wide : Bool) (x : Nat) : Cell :=
  match (if wide then Fmt.f64 else Fmt.f32).read x with
  | .nan => { c with nan := true }
  | .inf n => if n then { c with ninf := true } else { c with pinf := true }
  | .fin n m e _ => { c with c := c.c + BitVec.ofInt 4160 ((if n then -(m : Int) else (m : Int)) * 2 ^ (e + 2048).toNat) }

/-- The sum a read returns, rounded once. -/
def Cell.value (c : Cell) (wide : Bool) : Nat :=
  let f := if wide then Fmt.f64 else Fmt.f32
  if c.nan || (c.pinf && c.ninf) then f.nan
  else if c.pinf then f.infMag
  else if c.ninf then f.infMag + f.sign true
  else
    let v := c.c.toInt
    (f.round .rn false (.fin (decide (v < 0)) v.natAbs (-2048) false)).1

/-- Joins a partial sum into a cell (R54). -/
def Cell.join (c : Cell) (p : BitVec 4160) (nan pinf ninf : Bool) : Cell :=
  { c := c.c + p, nan := c.nan || nan, pinf := c.pinf || pinf, ninf := c.ninf || ninf }

end Sys2Proof.Machine
end

