-- ==== Sys2Proof/Machine/Names.lean ====
section
/-! DEFINITION. Machine/Names.lean: barrier slot names of a block and arrival requests (R230, R231, R234). -/

namespace Sys2Proof.Machine

/-- How many names a block has (R230): floor(96 / P) for a general block, its group count for a freight block, 8 for a
station block. -/
def Block.names (b : Block) : Nat :=
  if b.tt.isNone then 8 else if b.cls = 2 then b.groups else if b.places = 0 then 0 else 96 / b.places

/-- The block whose names a group uses: where it runs (R177, R230). -/
def State.nameBlock (s : State) (is : Issue) : Nat := s.hostBlock is.g is.b
def State.nameOk (s : State) (is : Issue) (n : Nat) : Bool :=
  match s.block? (s.nameBlock is) with
  | some b => decide (n < b.names)
  | none => false

/-- A bound slot by name. -/
def State.slotOf (s : State) (bid n : Nat) : Option Slot := (s.block? bid).bind fun b => SMap.find? b.slots n

/-- Puts an arrival request under way (R231, R234). -/
def State.arrive (s : State) (x : Arrival) : State := { s with arrivals := s.arrivals ++ [x] }

/-- The port of a block's compute die; port 1 for a block that is gone. -/
def State.portOfBlock (s : State) (bid : Nat) : Nat := ((s.block? bid).map fun b => 1 + dieOf b.core).getD 1

/-- A memory die sends an arrival on a name of a block: a class 1 flit brings it (R14). -/
def State.arriveFrom (s : State) (home bid n a y : Nat) (b : Arriver) : State :=
  let p := s.message (portOfMemory home) (s.portOfBlock bid) 1
  p.1.arrive { to_ := .name bid n, a := a, y := y, by_ := b, due := s.now, ticket := p.2 }

/-- Switches the active set off with a cause that never traps; the lanes left go on past the word. -/
def State.offAll (s : State) (is : Issue) (ls : BitVec 32) (cause : Nat) : State :=
  let s1 := s.modGroup is.gid fun g => g.switchOff ls cause
  match s1.survivors is ls with
  | none => s1
  | some is' => s1.goOn is'

end Sys2Proof.Machine
end

