-- ==== Sys2Proof/Machine/MemWords.lean ====
section
/-! DEFINITION. Machine/MemWords.lean: loads, stores, hints, atomics, fences, FLSIG and WATCH (R384 to R401). -/

namespace Sys2Proof

/-- Bytes of a memory operand (R307). -/
def MemTy.bytes : MemTy → Nat
  | .b8 | .i8 => 1 | .b16 | .i16 => 2 | .b32 => 4 | .b64 => 8 | .b128 => 16

end Sys2Proof

namespace Sys2Proof.Machine

/-! ### LD (R391) -/

/-- The register value of loaded bytes: zero- or sign-extended to 32 bits below a register's width. -/
def loadValue (t : MemTy) (x : Nat) : Nat :=
  match t with
  | .i8 => wrap 32 (sext 8 x)
  | .i16 => wrap 32 (sext 16 x)
  | _ => x

/-- Writes a run of n registers of a lane from a little-endian value. -/
def Group.putRun (g : Group) (r l : Nat) : Nat → Nat → Group
  | 0, _ => g
  | n + 1, x => (g.setV r l (BitVec.ofNat 32 x)).putRun (r + 1) l n (x / 2 ^ 32)

/-- The first register of a v or indexed destination in a lane. -/
def Group.dstReg (g : Group) (d : Dst) (l : Nat) : Nat :=
  match d with
  | .v n => n
  | .idx k off => g.idxReg k off l
  | .s n => n

/-- One more than the register that an operand names in each lane of a mask. -/
def Group.dstRegs (g : Group) (d : Dst) (ls : BitVec 32) : SMap Nat :=
  (lanes ls).foldl (fun m l => SMap.set 0 m l (g.dstReg d l + 1)) []

/-- Space number of R204. -/
def spNum (sp : Space) : Nat := sp.code

/-- Whether a group's arm of a watch on the line is still under way (R401). -/
def State.armPending (s : State) (gid ia : Nat) : Bool :=
  s.md.reqs.any fun r => r.kind == .watch && (match r.who with | .op g _ => g == gid | _ => false)
    && r.lanes.any fun l => l.ia / 128 == ia / 128

/-- Bytes of an atomic's location (R397). -/
def atomBytes (raw : BitVec 64) : Nat :=
  match wordOf raw with
  | some (.atomAdd _ t _ _ _ _ _) | some (.atomMin _ t _ _ _ _ _) | some (.atomMax _ t _ _ _ _ _)
  | some (.atomAnd _ t _ _ _ _ _) | some (.atomOr _ t _ _ _ _ _) | some (.atomXor _ t _ _ _ _ _)
  | some (.atomExch _ t _ _ _ _ _) | some (.atomCas _ t _ _ _ _ _) => if t.is64 then 8 else 4
  | some (.atomFadd _ w _ _ _ _ _) => if w then 8 else 4
  | _ => 8

/-- Bytes that a returning atomic of the group is still to write are not read before it is performed (R213, R219). DEDUCED, unsafe: log entry 107. -/
def State.atomicOver (s : State) (is : Issue) (ia n : Nat) : Bool :=
  (SMap.entries is.g.oplog).any fun o => o.2.kind == .atomic && o.2.sp != 5 && (lanes o.2.pending).any fun l =>
    match (s.ctx? is.b.ctx).map fun (cx : Context) => cx.translate (SMap.get 0 o.2.vas l) acAtomic with
    | some (.ok (a, _)) => decide (a < ia + n) && decide (ia < a + atomBytes o.2.raw)
    | _ => false

/-- How a lane of a load is served at the requester (R211, R212). A plain load through a checked segment goes to its home,
which checks it (R222, R224). -/
inductive Serve where
  | data (x : Nat)
  | stale (x : Nat)
  | home
  | wait
  deriving DecidableEq, Repr
def L1Line.readN (k : L1Line) (ia n : Nat) : Nat := ofBytes ((k.bytes.drop (ia % 128)).take n)
/-- None of n bytes lies in a poisoned sector of the line (R62). -/
def L1Line.clean (k : L1Line) (ia n : Nat) : Bool := (List.range n).all fun j => !k.bad.getLsbD ((ia + j) % 128 / 32)
/-- The IA of a lane of an operand-log entry, with the access it makes. -/
def State.logIA (s : State) (is : Issue) (o : OpEntry) (l : Nat) (t : Rights) : Option Nat :=
  match (s.ctx? is.b.ctx).map fun (cx : Context) => cx.translate (SMap.get 0 o.vas l) t with
  | some (.ok (a, _)) => some a
  | _ => none

/-- The stores through a checked segment that the group's operand log holds, as stores of the buffer: each carries the number that the next
buffered store had at its issue (R211, R225). -/
def State.heldStores (s : State) (is : Issue) : List BufStore :=
  ((SMap.entries is.g.oplog).filter fun o => o.2.kind == .store).map fun o =>
    let w := match wordOf o.2.raw with | some (.st _ t _ _ _ _ _) => t.bytes | _ => 4
    { id := SMap.get 0 o.2.dregs 0, gid := is.gid, clause := o.2.clause, word := o.2.word, od := o.2.od, width := w, sp := o.2.sp, red := false
      lanes := (lanes o.2.pending).filterMap fun l => (s.logIA is o.2 l acWrite).map fun ia =>
        (l, SMap.get 0 o.2.vas l, ia, SMap.get 0 o.2.data l) }

/-- An earlier load of the group of some of the bytes has not landed: a later one follows it to the home (R213). -/
def State.loadOver (s : State) (is : Issue) (ia n : Nat) : Bool :=
  (SMap.entries is.g.oplog).any fun o => match wordOf o.2.raw with
    | some (.ld _ t _ _ _ _ _ _) => o.2.kind == .load && (lanes o.2.pending).any fun l =>
        (s.logIA is o.2 l acRead).any fun a => decide (a < ia + n) && decide (ia < a + t.bytes)
    | some (.ldc _ r _ _ _ _ _ _) => o.2.pending != 0 &&
        (s.logIA is o.2 0 acRead).any fun a => decide (a < ia + n) && decide (ia < a + 4 * 2 ^ r)
    | _ => false

def State.serve (s : State) (is : Issue) (chk : Bool) (ia n : Nat) : Serve :=
  let core := is.g.coreOf is.b
  if s.atomicOver is ia n then .wait
  else match forward (withHeld (s.core core).stores (s.heldStores is)) is.gid ia n with
  | .all x => .data x
  | .part => .wait
  | .none =>
    match s.l1Line (dieOf core) ia with
    | none => .home
    | some k =>
      if chk || s.armPending is.gid ia || !k.clean ia n || s.loadOver is ia n then .home
      else if s.now < k.leaseEnd then .data (k.readN ia n)
      else if !is.e.spec && !is.g.unconfirmed && s.now ≤ k.leaseEnd + 2 ^ 17 then .stale (k.readN ia n)
      else .home

/-- The lane accesses of a load's request. -/
def loadAcc (a : LaneAddr) : LaneAcc := { lane := a.lane, va := a.a, ia := a.ia, data := 0, data2 := 0, chk := a.chk }

/-- A load of spaces 0, 3 and 4: lanes served at once, expired data used under line speculation, the others sent home. The spec does
not say whether the reply to an ordered load carries a lease: it does here, as a plain load's. DESIGN CHOICE, unsafe: log entry 128. -/
def State.underLine (s : State) (gid slot : Nat) : State :=
  s.modGroup gid fun g =>
    { g with lineSpec := some { op := slot, entries := g.entries, up := g.up, shadow := { lanes := 0xFFFFFFFF, vs := [], ps := none },
                                fShadow := (List.range 32).map g.fst } }

def State.loadMem (i : Instr) (t : MemTy) (d : Dst) (sp : Space) (cache : CacheOp) (is : Issue) (as : List LaneAddr)
    (s : State) : State :=
  let n := t.bytes
  let sv := as.map fun a => (a, s.serve is (a.chk && odOf i % 4 == 0) a.ia n)
  if sv.any (fun x => x.2 == .wait) then s
  else
    let die := dieOf (is.g.coreOf is.b)
    let staleLine := sv.findSome? fun x => match x.2 with | .stale _ => some (x.1.ia / 128) | _ => none
    let now := sv.filterMap fun x => match x.2 with
      | .data v => some (x.1, v)
      | .stale v => if staleLine == some (x.1.ia / 128) then some (x.1, v) else none
      | _ => none
    let away := (sv.filter fun x => match x.2 with
      | .home => true
      | .stale _ => staleLine != some (x.1.ia / 128)
      | _ => false).map (·.1)
    let g1 := now.foldl (fun g x => g.putRun (is.g.dstReg d x.1.lane) x.1.lane (memRegs t) (loadValue t x.2)) is.g
    let drop := if cache == .last then (now.map (·.1.ia)) else []
    let s1 := drop.foldl (fun t ia => t.dropL1 die ia) (s.setGroup is.gid g1)
    let pend := maskOf fun l => away.any (·.lane == l)
    if away.isEmpty && staleLine.isNone then s1.goOn is
    else
      let slot := is.g.freeLog
      let stales := (sv.filter fun x => match x.2 with | .stale _ => staleLine == some (x.1.ia / 128) | _ => false).map (·.1)
      let o : OpEntry := { is.logEntry i .load pend (spNum sp) with
        vas := as.foldl (fun m a => SMap.set 0 m a.lane a.a) []
        dregs := (match d with | .idx _ _ => is.g.dstRegs d is.act | _ => [])
        unconfirmed := staleLine.isSome
        stale := maskOf fun l => stales.any (·.lane == l) }
      let s2 := (s1.putLog is.gid slot o).goOn is
      let base := s.groupReq is i (.op is.gid slot) .load n
      let s3 := s2.requestAll { base with lease := cache != .nolease, alloc := cache == .normal || cache == .stream }
        (away.map loadAcc)
      match staleLine with
      | none => s3
      | some ln =>
        let ver := ((s.l1Line die (ln * 128)).map (·.version)).getD 0
        (s3.request { base with kind := .renew, version := ver, lanes := stales.map loadAcc }).underLine is.gid slot

/-- Sends cell operations to the cells' dies, in ascending lane order (R52). -/
def State.cellSend (s : State) (is : Issue) (who : Requester) (ops : List (Nat × Nat × CellOp)) : State :=
  let cx := s.ctx? is.b.ctx
  ops.foldl (fun t x => t.cellRequest
    { tag := 0, src := dieOf (is.g.coreOf is.b), fn := (cx.map (·.fn)).getD 0, order := some is.gid, ticket := Ticket.here,
      retryAt := none, reply := Ticket.here, cell := (cx.map (·.firstCell)).getD 0 + x.2.1, ctx := is.b.ctx, who := who, lane := x.1,
      op := x.2.2 }) s

def execLd (g : Guard) (t : MemTy) (d : Dst) (sp : Space) (base : Src) (ord : Order) (cache : CacheOp) (off : Int)
    (s : State) : Host.Outcome State Fault Refusal :=
  let i : Instr := .ld g t d sp base ord cache off
  s.word i g fun is s1 => State.withAddrs i sp base off t.bytes acRead 1 is s1 fun is as s2 =>
    match sp with
    | .scratch | .peer =>
      let g1 := as.foldl (fun h a =>
        match s2.block? (s2.padOf is sp a.rank) with
        | some b => h.putRun (is.g.dstReg d a.lane) a.lane (memRegs t) (loadValue t (b.readN a.a t.bytes))
        | none => h) is.g
      (s2.setGroup is.gid g1).goOn is
    | .cell =>
      let slot := is.g.freeLog
      let o : OpEntry := { is.logEntry i .cell (maskOf fun l => as.any (·.lane == l)) 5 with
        vas := as.foldl (fun m a => SMap.set 0 m a.lane (8 * a.a)) []
        dregs := (match d with | .idx _ _ => is.g.dstRegs d is.act | _ => []) }
      if as.isEmpty then s2.goOn is
      else ((s2.putLog is.gid slot o).goOn is).cellSend is (.op is.gid slot)
        (as.map fun a => (a.lane, a.a, .read (t == .b64)))
    | _ => s2.loadMem i t d sp cache is as

/-! ### LDC (R392) -/

/-- The 16-byte parts of an LDC, or its whole run when shorter, each through the segments (R99); the cause of the first that fails. -/
def ldcParts (cx : Context) (va len : Nat) : Except Nat (List LaneAcc) :=
  let k := min len 16
  (List.range (len / k)).foldl (fun r j =>
    match r, cx.translate (va + k * j) acRead with
    | .error c, _ => .error c
    | .ok ls, .ok (ia, chk) => .ok (ls ++ [{ lane := j, va := va + k * j, ia := ia, data := 0, data2 := 0, chk := chk }])
    | .ok _, .error c => .error c) (.ok [])

/-- The parts of the LDC at the issuer, or the cause and VA of its address fault (R99, R205). -/
def State.ldcReach (s : State) (is : Issue) (sp : Space) (base : Src) (off : Int) (len : Nat) : Except (Nat × Nat) (List LaneAcc) :=
  match s.reach is sp base off len (min len 16) acRead 0, s.ctx? is.b.ctx with
  | .error e, _ => .error e
  | .ok a, none => .error (0x10, a.a)
  | .ok a, some cx =>
    match ldcParts cx a.a len with
    | .error c => .error (c, a.a)
    | .ok ls => .ok ls

/-- Writes a part of an LDC's run into its s registers. -/
def Group.putS (g : Group) (r : Nat) : Nat → Nat → Group
  | 0, _ => g
  | n + 1, x => (g.setS r (BitVec.ofNat 32 x)).putS (r + 1) n (x / 2 ^ 32)

def execLdc (g : Guard) (run : Nat) (sd : Nat) (sp : Space) (base : Src) (ord : Order) (cache : CacheOp) (off : Int)
    (s : State) : Host.Outcome State Fault Refusal :=
  let i : Instr := .ldc g run sd sp base ord cache off
  let len := 4 * 2 ^ run
  s.word i g fun is s1 =>
    match s1.ldcReach is sp base off len with
    | .error (c, va) =>
      let bads := (lanes is.own).map fun l => (l, c, va)
      if bads.isEmpty then (s1.modGroup is.gid fun h => (List.range (2 ^ run)).foldl (fun k j => k.setS (sd + j) 0) h).goOn is
      else s1.addrFaults is i true 1 1 bads fun is' s2 => s2.goOn is'
    | .ok parts =>
      let k := min len 16
      let sv := parts.map fun p => (p, s1.serve is (p.chk && odOf i % 4 == 0) p.ia k)
      if sv.any (fun x => x.2 == .wait) then s1
      else
        let die := dieOf (is.g.coreOf is.b)
        let staleLine := sv.findSome? fun x => match x.2 with | .stale _ => some (x.1.ia / 128) | _ => none
        let stales := (sv.filter fun x => match x.2 with | .stale _ => staleLine == some (x.1.ia / 128) | _ => false).map (·.1)
        let have_ := sv.filterMap fun x => match x.2 with
          | .data v => some (x.1, v)
          | .stale v => if staleLine == some (x.1.ia / 128) then some (x.1, v) else none
          | _ => none
        let away := (parts.filter fun p => !have_.any (·.1.lane == p.lane))
        let g1 := have_.foldl (fun h x => h.putS (sd + k / 4 * x.1.lane) (k / 4) x.2) is.g
        let s2 := (if cache == .last then have_.map (·.1.ia) else []).foldl (fun t ia => t.dropL1 die ia) (s1.setGroup is.gid g1)
        if away.isEmpty && staleLine.isNone then s2.goOn is
        else
          let slot := is.g.freeLog
          let o : OpEntry := { is.logEntry i .ldc (if away.isEmpty then 0 else is.act) (spNum sp) with
            vas := SMap.set 0 [] 0 ((parts.head?.map (·.va)).getD 0)
            data := have_.foldl (fun m x => SMap.set 0 m x.1.lane (x.2 + 1)) []
            dregs := SMap.set 0 [] 0 is.act.toNat
            unconfirmed := staleLine.isSome
            stale := maskOf fun l => stales.any (·.lane == l) }
          let base : Req := { s.groupReq is i (.op is.gid slot) .load k with
            lease := cache != .nolease, alloc := cache == .normal || cache == .stream }
          let s3 := ((s2.putLog is.gid slot o).goOn is).requestAll base away
          match staleLine with
          | none => s3
          | some ln =>
            let ver := ((s1.l1Line die (ln * 128)).map (·.version)).getD 0
            (s3.request { base with kind := .renew, version := ver, lanes := stales }).underLine is.gid slot

/-! ### ST (R393) -/

/-- The bytes a store operand supplies for a lane: a register, a pair, four registers, or an immediate sign-extended. -/
def State.storeValue (s : State) (is : Issue) (t : MemTy) (a : Src) (l : Nat) : Nat :=
  let n := 8 * t.bytes
  match a with
  | .imm i => wrap n i
  | .v r => ((List.range (memRegs t)).map fun j => (is.g.vreg (r + j) l).toNat * 2 ^ (32 * j)).sum % 2 ^ n
  | .s r => ((List.range (memRegs t)).map fun j => (is.g.sreg (r + j)).toNat * 2 ^ (32 * j)).sum % 2 ^ n
  | .idx k off => ((List.range (memRegs t)).map fun j => (is.g.vreg (is.g.idxReg k off l + j) l).toNat * 2 ^ (32 * j)).sum % 2 ^ n
  | .spec c => s.special is c l % 2 ^ n

/-- Of lanes that write one address only the highest stays (R387). -/
def highestOnly (as : List LaneAddr) : List LaneAddr :=
  as.filter fun a => !as.any fun b => b.a == a.a && b.rank == a.rank && a.lane < b.lane

/-- An sc write is followed by an sc fence (R216). -/
def State.afterWrite (s : State) (is : Issue) (sp : Space) (ord : Order) : State :=
  if Space.scoped sp && ord == .sc then
    s.modGroup is.gid fun g => { g with fences := g.fences ++ [{ lanes := is.act, rel := true, acq := true, sc := true }] }
  else s

/-- A release first delivers attributed faults (R115). -/
def State.releaseGate (sp : Space) (ord : Order) (is : Issue) (s : State) (run : Issue → State → State) : State :=
  if Space.scoped sp && (ord == .rel || ord == .sc || ord == .ar) then State.lateGate is s run else run is s

/-- Posts stores or REDs of memory lanes: through an unchecked segment they wait in the store buffer; through a checked
one a plain store or RED holds an operand-log entry (R225, R393). -/
def State.post (i : Instr) (is : Issue) (s : State) (kind : ReqKind) (width : Nat) (sp : Space) (red : Bool) (ls : List (LaneAddr × Nat)) :
    State :=
  let die := dieOf (is.g.coreOf is.b)
  let s0 := ls.foldl (fun t x => t.dropL1 die x.1.ia) s
  let free : List (LaneAddr × Nat) := ls.filter fun x => !x.1.chk || red
  let held : List (LaneAddr × Nat) := ls.filter fun x => x.1.chk && !red
  let acc (x : LaneAddr × Nat) : LaneAcc := { lane := x.1.lane, va := x.1.a, ia := x.1.ia, data := x.2, data2 := 0, chk := x.1.chk }
  let s1 := if free.isEmpty then s0 else
    let p := s0.putStore is width (spNum sp) (odOf i) red (free.map fun (x : LaneAddr × Nat) => (x.1.lane, x.1.a, x.1.ia, x.2))
    p.1.requestAll (s.groupReq is i (.store (is.g.coreOf is.b) p.2) kind width) (free.map acc)
  if held.isEmpty then s1
  else
    let slot := is.g.freeLog
    let o : OpEntry := { is.logEntry i .store (maskOf fun l => held.any (·.1.lane == l)) (spNum sp) with
      vas := held.foldl (fun m x => SMap.set 0 m x.1.lane x.1.a) []
      data := held.foldl (fun m x => SMap.set 0 m x.1.lane x.2) []
      dregs := SMap.set 0 [] 0 (s.core (is.g.coreOf is.b)).nextStore }
    (s1.putLog is.gid slot o).requestAll (s.groupReq is i (.op is.gid slot) kind width) (held.map acc)

/-- The issuer with the active lanes that are not helper lanes, whose stores are suppressed (R170). -/
def Issue.ownOnly (is : Issue) : Issue := { is with act := is.own }

/-- Writes scratchpad bytes of lanes, in ascending lane order; they are noted for the group's next MMA (R271). -/
def State.padWrites (s : State) (is : Issue) (sp : Space) (n : Nat) (ls : List (LaneAddr × Nat)) : State :=
  (ls.foldl (fun t x => t.modBlock (t.padOf is sp x.1.rank) fun b => b.writeN x.1.a n x.2) s).modGroup is.gid fun g =>
    { g with padWrote := ls.foldl (fun m x => SMap.setRun false m x.1.a (List.replicate n true)) g.padWrote }

/-- Room for the lanes of a store: store-buffer entries for those that are posted, an operand-log entry for those through a checked
segment, which holds a sidings entry too (R113, R151, R225, R393). -/
def State.postRoom (s : State) (is : Issue) (peer : Bool) (ls : List (LaneAddr × Nat)) : Bool :=
  s.storeRoom is ((ls.filter fun x => peer || !x.1.chk).map fun x => x.1.a) &&
    (peer || ls.all (fun x => !x.1.chk) || (decide (is.g.logCount < 16) && decide (s.sidings (is.g.coreOf is.b) < 256)))

def execSt (g : Guard) (t : MemTy) (a : Src) (sp : Space) (base : Src) (ord : Order) (off : Int) (s : State) :
    Host.Outcome State Fault Refusal :=
  let i : Instr := .st g t a sp base ord off
  s.word i g fun is0 s1 =>
    if is0.own = 0 then s1.goOn is0
    else State.releaseGate sp ord is0.ownOnly s1 fun is1 s2 =>
      State.withAddrs i sp base off t.bytes acWrite 2 is1 s2 fun is as s3 =>
        let ls : List (LaneAddr × Nat) := as.map fun x => (x, s1.storeValue is t a x.lane)
        if sp != .scratch && !s3.postRoom is (sp == .peer) ls then s3
        else
        let s4 : State := match sp with
          | .scratch => s3.padWrites is sp t.bytes ls
          | .peer =>
            if ls.isEmpty then s3 else
            (s3.putStore is t.bytes 2 (odOf i) false
              (ls.map fun (x : LaneAddr × Nat) => (x.1.lane, x.1.a, s3.padOf is sp x.1.rank * 2 ^ 20 + x.1.a, x.2))).1
          | _ => s3.post i is .store t.bytes sp false ls
        (s4.goOn is).afterWrite is sp ord

/-! ### PREF and CCTL (R394, R395) -/

/-- The lines of the lanes whose address forms without fault. -/
def State.hintLanes (s : State) (is : Issue) (sp : Space) (base : Src) (off : Int) : List LaneAddr :=
  okAddrs ((lanes is.act).map fun l => (l, s.reach is sp base off 1 1 acRead l))
def execPref (g : Guard) (sp : Space) (base : Src) (cache : CacheOp) (off : Int) (s : State) :
    Host.Outcome State Fault Refusal :=
  let i : Instr := .pref g sp base cache off
  s.word i g fun is s1 =>
    let die := dieOf (is.g.coreOf is.b)
    let ias := ((s1.hintLanes is sp base off).map fun a => a.ia / 128 * 128).eraseDups
    (ias.foldl (fun t ia => t.request { s.groupReq is i (.pref die) .load 1 with
      lanes := [{ lane := 0, va := 0, ia := ia, data := 0, data2 := 0 }], lease := true, alloc := true }) s1).goOn is
def execCctlDrop (g : Guard) (sp : Space) (base : Src) (off : Int) (s : State) : Host.Outcome State Fault Refusal :=
  s.word (.cctlDrop g sp base off) g fun is s1 =>
    ((s1.hintLanes is sp base off).foldl (fun t a => t.dropL1 (dieOf (is.g.coreOf is.b)) a.ia) s1).goOn is
def execCctlDrop4k (g : Guard) (sp : Space) (base : Src) (off : Int) (s : State) : Host.Outcome State Fault Refusal :=
  s.word (.cctlDrop4k g sp base off) g fun is s1 =>
    let die := dieOf (is.g.coreOf is.b)
    let pages := (s1.hintLanes is sp base off).map fun a => a.ia / 4096
    ({ s1 with l1 := s1.l1.filter fun e => !(e.1 / 2 ^ 45 == die && pages.any (fun p => p == e.1 % 2 ^ 45 / 32)) }).goOn is
def execCctlRenew (g : Guard) (sp : Space) (base : Src) (off : Int) (s : State) : Host.Outcome State Fault Refusal :=
  let i : Instr := .cctlRenew g sp base off
  s.word i g fun is s1 =>
    let die := dieOf (is.g.coreOf is.b)
    let ias := (((s1.hintLanes is sp base off).map fun a => a.ia / 128 * 128).eraseDups).filter fun ia => (s1.l1Line die ia).isSome
    (ias.foldl (fun t ia => t.request { s.groupReq is i (.pref die) .renew 1 with
      lanes := [{ lane := 0, va := 0, ia := ia, data := 0, data2 := 0 }],
      version := ((s1.l1Line die ia).map (·.version)).getD 0 }) s1).goOn is

/-! ### XCLR (R398) -/

def execXclr (g : Guard) (base : Src) (rel : Bool) (off : Int) (s : State) : Host.Outcome State Fault Refusal :=
  let i : Instr := .xclr g base rel off
  let ord : Order := if rel then .rel else .rlx
  s.word i g fun is0 s1 =>
    if is0.own = 0 then s1.goOn is0
    else State.releaseGate .cell ord is0.ownOnly s1 fun is1 s2 =>
      State.withAddrs i .cell base off 8 acWrite 2 is1 s2 fun is as s3 =>
        let ls := highestOnly as
        if ls.isEmpty then s3.goOn is
        else if !s3.storeRoom is (as.map fun x => 8 * x.a) then s3
        else
          let p := s3.putStore is 8 5 (odOf i) true (as.map fun x => (x.lane, 8 * x.a, 0, 0))
          (p.1.goOn is).cellSend is (.store (is.g.coreOf is.b) p.2) (ls.map fun x => (x.lane, x.a, .xclr))

/-! ### ATOM and RED (R396, R397) -/

/-- Performs the lanes of one word on scratchpads: the lanes of one location in ascending order (R49). Answers each
lane's old value and flags. -/
def State.padAtomics (s : State) (is : Issue) (sp : Space) (k : ReqKind) (signed : Bool) (n : Nat)
    (ls : List (LaneAddr × Nat × Nat)) : State × List (Nat × Nat × Flags) :=
  let locs := (ls.map fun x => (x.1.rank, x.1.a)).eraseDups
  locs.foldl (fun (r : State × List (Nat × Nat × Flags)) loc =>
    let mine := (ls.filter fun x => (x.1.rank, x.1.a) == loc).map fun x => (x.1.lane, x.2)
    let bid := r.1.padOf is sp loc.1
    let old := ((r.1.block? bid).map (·.readN loc.2 n)).getD 0
    let t := atomRun k signed (8 * n) old mine
    (r.1.modBlock bid fun b => b.writeN loc.2 n t.2.1, r.2 ++ t.1.map fun x => (x.1, x.2, t.2.2))) (s, [])

/-- The operands of an atomic for a lane: one value, or compare and new value for cas. -/
def Group.atomOps (g : Group) (wide cas : Bool) (v l : Nat) : Nat × Nat :=
  let w := if wide then 2 else 1
  (g.readV wide v l, if cas then g.readV wide (v + w) l else 0)

/-- ATOM on spaces 0 to 2. -/
def State.atom (s : State) (i : Instr) (g : Guard) (k : ReqKind) (signed wide : Bool) (v : Nat) (sp : Space) (base : Src)
    (ord : Order) (off : Int) : Host.Outcome State Fault Refusal :=
  let n := if wide then 8 else 4
  s.word i g fun is0 s1 =>
    if is0.own = 0 then s1.goOn is0
    else State.releaseGate sp ord is0.ownOnly s1 fun is1 s2 =>
      State.withAddrs i sp base off n acAtomic 1 is1 s2 fun is as s3 =>
        let ops := as.map fun a => (a, is.g.atomOps wide (k == .cas) v a.lane)
        match sp with
        | .scratch | .peer =>
          let r := s3.padAtomics is sp k signed n ops
          let g1 := r.2.foldl (fun h x => (h.writeV wide v x.1 x.2.1).orFlags x.1 x.2.2) is.g
          ((r.1.setGroup is.gid g1).goOn is).afterWrite is sp ord
        | _ =>
          if as.isEmpty then s3.goOn is
          else
            let slot := is.g.freeLog
            let o : OpEntry := { is.logEntry i .atomic (maskOf fun l => as.any (·.lane == l)) (spNum sp) with
              vas := as.foldl (fun m a => SMap.set 0 m a.lane a.a) []
              data := ops.foldl (fun m x => SMap.set 0 m x.1.lane (x.2.1 + x.2.2 * 2 ^ 64)) [] }
            let s4 := as.foldl (fun t a => t.dropL1 (dieOf (is.g.coreOf is.b)) a.ia) (s3.putLog is.gid slot o)
            ((s4.goOn is).requestAll { s.groupReq is i (.op is.gid slot) k n with signed := signed }
              (ops.map fun x => { lane := x.1.lane, va := x.1.a, ia := x.1.ia, data := x.2.1, data2 := x.2.2 })).afterWrite is sp ord

def execAtomAdd (g : Guard) (t : IntTy) (v : Nat) (sp : Space) (base : Src) (ord : Order) (off : Int) (s : State) :
    Host.Outcome State Fault Refusal := s.atom (.atomAdd g t v sp base ord off) g .add t.signed t.is64 v sp base ord off
def execAtomMin (g : Guard) (t : IntTy) (v : Nat) (sp : Space) (base : Src) (ord : Order) (off : Int) (s : State) :
    Host.Outcome State Fault Refusal := s.atom (.atomMin g t v sp base ord off) g .min t.signed t.is64 v sp base ord off
def execAtomMax (g : Guard) (t : IntTy) (v : Nat) (sp : Space) (base : Src) (ord : Order) (off : Int) (s : State) :
    Host.Outcome State Fault Refusal := s.atom (.atomMax g t v sp base ord off) g .max t.signed t.is64 v sp base ord off
def execAtomAnd (g : Guard) (t : IntTy) (v : Nat) (sp : Space) (base : Src) (ord : Order) (off : Int) (s : State) :
    Host.Outcome State Fault Refusal := s.atom (.atomAnd g t v sp base ord off) g .and t.signed t.is64 v sp base ord off
def execAtomOr (g : Guard) (t : IntTy) (v : Nat) (sp : Space) (base : Src) (ord : Order) (off : Int) (s : State) :
    Host.Outcome State Fault Refusal := s.atom (.atomOr g t v sp base ord off) g .or t.signed t.is64 v sp base ord off
def execAtomXor (g : Guard) (t : IntTy) (v : Nat) (sp : Space) (base : Src) (ord : Order) (off : Int) (s : State) :
    Host.Outcome State Fault Refusal := s.atom (.atomXor g t v sp base ord off) g .xor t.signed t.is64 v sp base ord off
def execAtomExch (g : Guard) (t : IntTy) (v : Nat) (sp : Space) (base : Src) (ord : Order) (off : Int) (s : State) :
    Host.Outcome State Fault Refusal := s.atom (.atomExch g t v sp base ord off) g .exch t.signed t.is64 v sp base ord off
def execAtomCas (g : Guard) (t : IntTy) (v : Nat) (sp : Space) (base : Src) (ord : Order) (off : Int) (s : State) :
    Host.Outcome State Fault Refusal := s.atom (.atomCas g t v sp base ord off) g .cas t.signed t.is64 v sp base ord off
def execAtomFadd (g : Guard) (wide : Bool) (v : Nat) (sp : Space) (base : Src) (ord : Order) (off : Int) (s : State) :
    Host.Outcome State Fault Refusal := s.atom (.atomFadd g wide v sp base ord off) g .fadd false wide v sp base ord off

/-- ATOM.xadd on cells (R397): the die adds the lanes' values one at a time in ascending lane order. -/
def execAtomXadd (g : Guard) (wide : Bool) (v : Nat) (base : Src) (ord : Order) (off : Int) (s : State) :
    Host.Outcome State Fault Refusal :=
  let i : Instr := .atomXadd g wide v base ord off
  s.word i g fun is0 s1 =>
    if is0.own = 0 then s1.goOn is0
    else State.releaseGate .cell ord is0.ownOnly s1 fun is1 s2 =>
      State.withAddrs i .cell base off 8 acAtomic 1 is1 s2 fun is as s3 =>
        if as.isEmpty then s3.goOn is
        else
          let slot := is.g.freeLog
          let o : OpEntry := { is.logEntry i .atomic (maskOf fun l => as.any (·.lane == l)) 5 with
            vas := as.foldl (fun m a => SMap.set 0 m a.lane (8 * a.a)) []
            data := as.foldl (fun m a => SMap.set 0 m a.lane (is.g.readV wide v a.lane)) [] }
          (((s3.putLog is.gid slot o).goOn is).cellSend is (.op is.gid slot)
            (as.map fun a => (a.lane, a.a, .xadd wide (is.g.readV wide v a.lane)))).afterWrite is .cell ord

/-- RED on spaces 0 to 2: posted like a store. -/
def State.red (s : State) (i : Instr) (g : Guard) (k : ReqKind) (signed wide : Bool) (a : Src) (sp : Space) (base : Src)
    (ord : Order) (off : Int) : Host.Outcome State Fault Refusal :=
  let n := if wide then 8 else 4
  s.word i g fun is0 s1 =>
    if is0.own = 0 then s1.goOn is0
    else State.releaseGate sp ord is0.ownOnly s1 fun is1 s2 =>
      State.withAddrs i sp base off n acAtomic 1 is1 s2 fun is as s3 =>
        let ls := as.map fun x => (x, s1.opnd is wide a x.lane)
        match sp with
        | .scratch | .peer =>
          let r := s3.padAtomics is sp k signed n (ls.map fun x => (x.1, x.2, 0))
          ((r.1.modGroup is.gid fun h => r.2.foldl (fun h x => h.orFlags x.1 x.2.2) h).goOn is).afterWrite is sp ord
        | _ =>
          let die := dieOf (is.g.coreOf is.b)
          if ls.isEmpty then s3.goOn is
          else if !s3.storeRoom is (ls.map fun x => x.1.a) then s3
          else
            let p := (ls.foldl (fun t x => t.dropL1 die x.1.ia) s3).putStore is n (spNum sp) (odOf i) true
              (ls.map fun x => (x.1.lane, x.1.a, x.1.ia, x.2))
            ((p.1.goOn is).requestAll { s.groupReq is i (.store (is.g.coreOf is.b) p.2) k n with signed := signed }
              (ls.map fun x => { lane := x.1.lane, va := x.1.a, ia := x.1.ia, data := x.2, data2 := 0 })).afterWrite is sp ord

def execRedAdd (g : Guard) (t : IntTy) (a : Src) (sp : Space) (base : Src) (ord : Order) (off : Int) (s : State) :
    Host.Outcome State Fault Refusal := s.red (.redAdd g t a sp base ord off) g .add t.signed t.is64 a sp base ord off
def execRedMin (g : Guard) (t : IntTy) (a : Src) (sp : Space) (base : Src) (ord : Order) (off : Int) (s : State) :
    Host.Outcome State Fault Refusal := s.red (.redMin g t a sp base ord off) g .min t.signed t.is64 a sp base ord off
def execRedMax (g : Guard) (t : IntTy) (a : Src) (sp : Space) (base : Src) (ord : Order) (off : Int) (s : State) :
    Host.Outcome State Fault Refusal := s.red (.redMax g t a sp base ord off) g .max t.signed t.is64 a sp base ord off
def execRedAnd (g : Guard) (t : IntTy) (a : Src) (sp : Space) (base : Src) (ord : Order) (off : Int) (s : State) :
    Host.Outcome State Fault Refusal := s.red (.redAnd g t a sp base ord off) g .and t.signed t.is64 a sp base ord off
def execRedOr (g : Guard) (t : IntTy) (a : Src) (sp : Space) (base : Src) (ord : Order) (off : Int) (s : State) :
    Host.Outcome State Fault Refusal := s.red (.redOr g t a sp base ord off) g .or t.signed t.is64 a sp base ord off
def execRedXor (g : Guard) (t : IntTy) (a : Src) (sp : Space) (base : Src) (ord : Order) (off : Int) (s : State) :
    Host.Outcome State Fault Refusal := s.red (.redXor g t a sp base ord off) g .xor t.signed t.is64 a sp base ord off
def execRedFadd (g : Guard) (wide : Bool) (a : Src) (sp : Space) (base : Src) (ord : Order) (off : Int) (s : State) :
    Host.Outcome State Fault Refusal :=
  s.red (.redFadd g wide a sp base ord off) g .fadd false wide a sp base ord off
def execRedXadd (g : Guard) (wide : Bool) (a : Src) (base : Src) (ord : Order) (off : Int) (s : State) :
    Host.Outcome State Fault Refusal :=
  let i : Instr := .redXadd g wide a base ord off
  s.word i g fun is0 s1 =>
    if is0.own = 0 then s1.goOn is0
    else State.releaseGate .cell ord is0.ownOnly s1 fun is1 s2 =>
      State.withAddrs i .cell base off 8 acAtomic 1 is1 s2 fun is as s3 =>
        if as.isEmpty then s3.goOn is
        else if !s3.storeRoom is (as.map fun x => 8 * x.a) then s3
        else
          let p := s3.putStore is 8 5 (odOf i) true (as.map fun x => (x.lane, 8 * x.a, 0, 0))
          ((p.1.goOn is).cellSend is (.store (is.g.coreOf is.b) p.2)
            (as.map fun x => (x.lane, x.a, .xadd wide (s1.opnd is wide a x.lane)))).afterWrite is .cell ord

/-! ### FENCE, FLSIG, WATCH (R399 to R401) -/

def execFence (g : Guard) (scope : Scope) (ord : Order) (s : State) : Host.Outcome State Fault Refusal :=
  s.word (.fence g scope ord) g fun is0 s1 =>
    let rel := ord != .acq
    let acq := ord != .rel
    let wide := scope != .lane && scope != .grp
    let run (is : Issue) (s2 : State) : State :=
      if wide then (s2.modGroup is.gid fun h =>
          { h with fences := h.fences ++ [{ lanes := is.act, rel := rel, acq := acq, sc := ord == .sc }] }).goOn is
      else s2.goOn is
    if wide && rel then State.lateGate is0 s1 run else run is0 s1

/-- FLSIG (R400): the due fault comes first, then the name, then the wait for every lane's stores and atomics. -/
def execFlsig (g : Guard) (slot : Option Nat) (s : State) : Host.Outcome State Fault Refusal :=
  s.word (.flsig g slot) g fun is0 s1 =>
    if is0.own = 0 then s1.goOn is0
    else State.lateGate is0 s1 fun is s2 =>
      match slot with
      | none => if s2.releaseHeld is 0xFFFFFFFF then s2 else s2.goOn is
      | some n =>
        if !s2.nameOk is n then s2.offAll is is.act 0x22
        else if s2.releaseHeld is 0xFFFFFFFF then s2
        else (s2.arrive { to_ := .name (s2.nameBlock is) n, a := 1, y := 0, by_ := .group is.gid is.act,
                          due := s2.now + 4 }).goOn is

/-- WATCH (R401): the arm goes to the home in class 0 order; its request carries the word's place and active set for an
attributed fault. -/
def execWatch (g : Guard) (slot : Nat) (base : Src) (off : Int) (s : State) : Host.Outcome State Fault Refusal :=
  let i : Instr := .watch g slot base off
  s.word i g fun is s1 =>
    if is.own = 0 then s1.goOn is
    else if !s1.nameOk is slot then s1.offAll is is.act 0x22
    else match s1.reach is .global base off 8 8 acRead is.lowOwn with
      | .error (c, va) => s1.addrFaults is i true 6 1 ((lanes is.own).map fun l => (l, c, va)) fun is' s2 => s2.goOn is'
      | .ok a =>
        let s2 := s1.dropL1 (dieOf (is.g.coreOf is.b)) a.ia
        (s2.goOn is).request { s.groupReq is i (.op is.gid 16) .watch 8 with
          lanes := [{ lane := is.lowOwn, va := a.a, ia := a.ia, data := is.e.clause, data2 := is.e.word }]
          slot := slot, bid := s1.nameBlock is, version := is.act.toNat }

end Sys2Proof.Machine
end

