-- ==== Sys2Proof/Machine/Barriers.lean ====
section
/-! DEFINITION. Machine/Barriers.lean: barrier objects, slots, arrivals and watches: BINIT, ARRIVE, EXPECT, BTEST and BINVAL,
and the events ARRIVAL_APPLY and WATCH_FIRE (R227 to R238, R250, R405). -/

namespace Sys2Proof.Machine

/-! ### The object in scratchpad (R227) -/

/-- The 16-byte head of the object at an offset. -/
def Block.head (b : Block) (o : Nat) : Nat := b.readN o 16

/-- The head of a bound object with a slot's counts and a BOUND bit (R229). -/
def Slot.head (sl : Slot) (bound : Bool) : Nat :=
  sl.phase % 2 ^ 16 + sl.expA % 2 ^ 16 * 2 ^ 16 + sl.pendA % 2 ^ 16 * 2 ^ 32 + (if bound then 2 ^ 48 else 0)
    + (if sl.guard then 2 ^ 49 else 0) + (if sl.peer then 2 ^ 51 else 0) + sl.expB % 2 ^ 32 * 2 ^ 64 + sl.pendB % 2 ^ 32 * 2 ^ 96

/-- The slot that a head loads (R228). -/
def slotOfHead (o h : Nat) : Slot :=
  { off := o, phase := bits h 0 16, pendA := bits h 32 16, expA := bits h 16 16, pendB := bits h 96 32,
    expB := bits h 64 32, peer := bitAt h 51, guard := bitAt h 49 }

/-- The ticket of group j (R227). -/
def Block.ticket (b : Block) (o j : Nat) : Nat := b.readN (o + 16 + 2 * j) 2
def Block.setTicket (b : Block) (o j t : Nat) : Block := b.writeN (o + 16 + 2 * j) 2 t

/-- Writes a bound slot's counts back into its image (R229). -/
def Block.writeBack (b : Block) (sl : Slot) (bound : Bool) : Block := b.writeN sl.off 16 (sl.head bound)

/-- Whether the image at an offset may be bound (R228). -/
def Block.badState (b : Block) (o : Nat) : Bool :=
  let h := b.head o
  let sl := slotOfHead o h
  bitAt h 48 || bitAt h 50 || bits h 52 12 != 0 || decide (sl.expA < sl.pendA) || decide (sl.expB < sl.pendB)
    || (sl.expA == 0 && sl.expB == 0) || (sl.guard && (SMap.entries b.slots).any fun x => x.2.guard)

/-- BINIT's cause, if it binds nothing (R228). -/
def Block.bindCause (b : Block) (n o : Nat) : Option Nat :=
  if o % 16 != 0 || b.spad < o + 80 then some 0x20
  else if b.names ≤ n || (SMap.find? b.slots n).isSome then some 0x22
  else if b.badState o then some 0x23
  else none

/-- Binds the object at an offset to a name (R228). -/
def Block.bind (b : Block) (n o : Nat) : Block :=
  let sl := slotOfHead o (b.head o)
  let b1 := b.writeBack sl true
  let b2 := (List.range 32).foldl (fun c j => c.setTicket o j ((sl.phase + 65535) % 65536)) b1
  { b2 with slots := SMap.put b2.slots n sl }

/-! ### Quotas (R231, R233) -/

/-- A slot after its phase has advanced. -/
def Slot.next (sl : Slot) : Slot :=
  { sl with phase := (sl.phase + 1) % 65536, pendA := sl.expA, pendB := sl.expB }

/-- An arrival of a threads and y bytes: the slot after it, and whether it overcounts (R231). -/
def Slot.take (sl : Slot) (a y : Nat) : Slot × Bool :=
  let ov := decide (sl.pendA < a) || decide (sl.pendB < y)
  if ov || (sl.pendA == a && sl.pendB == y) then (sl.next, ov)
  else ({ sl with pendA := sl.pendA - a, pendB := sl.pendB - y }, ov)

/-- EXPECT.once and EXPECT.each (R233): the slot after it, none for BARSTATE. -/
def Slot.expect (sl : Slot) (each : Bool) (n : Int) : Option Slot :=
  let pb : Int := sl.pendB + n
  let eb : Int := if each then sl.expB + n else sl.expB
  if pb < 0 || 2 ^ 32 ≤ pb || eb < 0 || 2 ^ 32 ≤ eb || (sl.expA == 0 && eb == 0) then none
  else
    let sl1 := { sl with pendB := pb.toNat, expB := eb.toNat }
    some (if each && n < 0 && pb == 0 && sl.pendA == 0 then sl1.next else sl1)

/-- "p has passed t" of R235. -/
def passed (p t : Nat) : Bool :=
  let d := (p + 65536 - t % 65536) % 65536
  decide (1 ≤ d) && decide (d ≤ 2 ^ 15)

/-! ### Applying arrivals (R231, R232, R238) -/

/-- The group and lanes that a failed or overcounting arrival switches off. -/
def Arriver.lanes : Arriver → Option (Nat × BitVec 32)
  | .group gid ls => some (gid, ls)
  | .engine gid l => some (gid, bit l)
  | .watch => none

/-- Switches the arriving lanes off (R231, R232); a watch's arrival is discarded silently. -/
def State.arrivalOff (s : State) (who : Arriver) (cause : Nat) : State :=
  match who.lanes with
  | none => s
  | some (gid, ls) => s.modGroup gid fun g => g.switchOff (ls &&& g.live) cause

/-- The name of the slot that an address target reaches (R231). -/
def Block.boundAt (b : Block) (o : Nat) : Option Nat := ((SMap.entries b.slots).find? fun x => x.2.off == o).map (·.1)

/-- Applies an arrival to a slot of a block by name. -/
def State.arriveAt (s : State) (bid n : Nat) (b : Block) (sl : Slot) (x : Arrival) : State :=
  let r := sl.take x.a x.y
  let b1 := { b with slots := SMap.put b.slots n r.1 }
  let b2 := match x.by_ with
    | .group gid _ =>
      match s.group? gid with
      | some g => if g.bid = bid && g.landed.isNone then b1.setTicket sl.off g.idx sl.phase else b1
      | none => b1
    | _ => b1
  let s1 := s.setBlock bid b2
  if r.2 then s1.arrivalOff x.by_ 0x24 else s1

/-- The block of an arriving group. -/
def State.arriverBlock (s : State) (who : Arriver) : Option Nat :=
  match who with
  | .group gid _ | .engine gid _ => (s.group? gid).map (·.bid)
  | .watch => none

/-- An arrival request reaches its slot. A saved block's watch and MEMOP arrivals are held (R238, R404). -/
def State.applyArrival (s : State) (x : Arrival) : State :=
  match x.to_ with
  | .name bid n =>
    match s.block? bid with
    | none => s.arrivalOff x.by_ 0x22
    | some b =>
      if b.phase == .saved || b.phase == .restoring then
        let who := match x.by_ with
          | .engine gid l => (gid + 1, l)
          | _ => (0, 0)
        s.setBlock bid { b with heldArrivals := b.heldArrivals ++ [(n, x.a, x.y, who.1, who.2)] }
      else match SMap.find? b.slots n with
        | none => s.arrivalOff x.by_ 0x22
        | some sl => s.arriveAt bid n b sl x
  | .address bid o =>
    match s.block? bid with
    | none => s.arrivalOff x.by_ 0x23
    | some b =>
      match (b.boundAt o).bind fun n => (SMap.find? b.slots n).map fun sl => (n, sl) with
      | none => s.arrivalOff x.by_ 0x23
      | some (n, sl) =>
        if !sl.peer && s.arriverBlock x.by_ != some bid then s.arrivalOff x.by_ 0x23
        else s.arriveAt bid n b sl x

/-- The arrivals held for a block, applied after its restore (R438). -/
def State.applyHeld (s : State) (bid : Nat) : State :=
  match s.block? bid with
  | none => s
  | some b =>
    b.heldArrivals.foldl (fun t h =>
      t.applyArrival { to_ := .name bid h.1, a := h.2.1, y := h.2.2.1, due := t.now,
                       by_ := if h.2.2.2.1 = 0 then .watch else .engine (h.2.2.2.1 - 1) h.2.2.2.2 })
      (s.setBlock bid { b with heldArrivals := [] })

/-- An arrival follows the group's earlier peer stores to the block (R234). -/
def State.peerStoresTo (s : State) (gid bid : Nat) : Bool :=
  match s.group? gid with
  | none => false
  | some g => match s.block? g.bid with
    | none => false
    | some b => (s.core (g.coreOf b)).stores.any fun x =>
        x.gid == gid && x.sp == 2 && x.lanes.any fun l => l.2.2.1 / 2 ^ 20 == bid

/-- Whether an arrival request may be applied now. -/
def State.arrivalReady (s : State) (x : Arrival) : Bool :=
  decide (x.due ≤ s.now) && s.landed x.ticket && (match x.to_, x.by_ with
    | .address bid _, .group gid _ => !s.peerStoresTo gid bid && !(s.block? bid).any fun b =>
        b.phase == .saved || b.phase == .restoring
    | _, _ => true)

/-- ARRIVAL_APPLY (R231): the oldest request that may be applied is. DEDUCED, unsafe: log entry 32; DEDUCED, unsafe: log entry 64. -/
def execArrivalApply (s : State) : Host.Outcome State Fault Refusal :=
  match s.arrivals.find? s.arrivalReady with
  | none => .refused (.notPending "ARRIVAL_APPLY")
  | some x => .next (({ s with arrivals := s.arrivals.erase x }).applyArrival x)

/-- WATCH_FIRE (R237): the oldest fired watch sends its arrival; it ends power state P2 (R40). -/
def execWatchFire (s : State) : Host.Outcome State Fault Refusal :=
  if s.guard.power = 2 then .refused (.notPending "WATCH_FIRE") else
  match s.md.fired with
  | [] => .refused (.notPending "WATCH_FIRE")
  | w :: rest =>
    let s1 : State := { s with md := { s.md with fired := rest }
                               guard := { s.guard with power := if s.guard.power = 2 then 0 else s.guard.power } }
    .next (s1.arriveFrom w.home w.bid w.slot 1 0 .watch)

/-- A byte arrival of an engine for a command of a group's lane (R231). -/
def State.engineArrive (s : State) (bid n a y gid lane : Nat) : State :=
  s.arrive { to_ := .name bid n, a := a, y := y, by_ := .engine gid lane, due := s.now }

/-! ### The words (R405) -/

/-- A uniform operand of a word that is read for the lowest active lane that is not a helper lane. -/
def State.ownOpnd (s : State) (is : Issue) (a : Src) : Nat := s.opnd is false a is.lowOwn

def execBinit (g : Guard) (name : Nat) (off : Src) (s : State) : Host.Outcome State Fault Refusal :=
  s.word (.binit g name off) g fun is s1 =>
    if is.own = 0 then s1.goOn is
    else
      let bid := s1.nameBlock is
      match s1.block? bid with
      | none => s1.offAll is is.act 0x22
      | some b =>
        match b.bindCause name (s1.ownOpnd is off) with
        | some c => s1.offAll is is.act c
        | none => (s1.setBlock bid (b.bind name (s1.ownOpnd is off))).goOn is

/-- The thread count of an ARRIVE (R231, R405): none when n has bits 31:16. -/
def State.arriveCount (s : State) (is : Issue) (n : Option Src) : Option Nat :=
  match n with
  | none => some (count is.own)
  | some a => if s.ownOpnd is a < 2 ^ 16 then some (s.ownOpnd is a) else none

/-- ARRIVE without .rlx is a release and first delivers attributed faults (R115, R405). -/
def arriveGate (rlx : Bool) (is : Issue) (s : State) (run : Issue → State → State) : State :=
  if rlx then run is s else State.lateGate is s run

/-- DEDUCED, unsafe: log entry 32. -/
def execArrive (g : Guard) (rlx : Bool) (name : Nat) (n : Option Src) (s : State) : Host.Outcome State Fault Refusal :=
  s.word (.arrive g rlx name n) g fun is0 s1 =>
    if is0.own = 0 then s1.goOn is0
    else arriveGate rlx is0 s1 fun is s2 =>
      let bid := s2.nameBlock is
      if (s2.slotOf bid name).isNone || !s2.nameOk is name then s2.offAll is is.act 0x22
      else match s2.arriveCount is n with
        | none => s2.offAll is is.act 0x23
        | some a => (s2.arrive { to_ := .name bid name, a := a, y := 0, by_ := .group is.gid is.own, due := s2.now + 4 }).goOn is

/-- The address form (R405): a target outside the block's or the peer's scratchpad takes SPRANGE (R204). -/
def execArriveAddress (g : Guard) (rlx peer : Bool) (a : Src) (n : Option Src) (s : State) :
    Host.Outcome State Fault Refusal :=
  let sp : Space := if peer then .peer else .scratch
  s.word (.arriveAddress g rlx peer a n) g fun is0 s1 =>
    if is0.own = 0 then s1.goOn is0
    else arriveGate rlx is0 s1 fun is s2 =>
      match s2.address is sp a 0 1 1 is.lowOwn with
      | .bad c _ => s2.offAll is is.act c
      | .ok rank o =>
        match s2.arriveCount is n with
        | none => s2.offAll is is.act 0x23
        | some c => (s2.arrive { to_ := .address (s2.padOf is sp rank) o, a := c, y := 0, by_ := .group is.gid is.own,
                                 due := s2.now + (if peer then 40 else 4) }).goOn is

/-- EXPECT (R233, R405): applied at once. -/
def State.expectWord (s : State) (i : Instr) (g : Guard) (each : Bool) (name : Nat) (n : Src) :
    Host.Outcome State Fault Refusal :=
  s.word i g fun is s1 =>
    if is.own = 0 then s1.goOn is
    else
      let bid := s1.nameBlock is
      match s1.block? bid, s1.slotOf bid name with
      | some b, some sl =>
        if !s1.nameOk is name then s1.offAll is is.act 0x22
        else
          let x := s1.ownOpnd is n
          match sl.expect each (if each then sext 32 x else (x : Int)) with
          | none => s1.offAll is is.act 0x23
          | some sl' => (s1.setBlock bid { b with slots := SMap.put b.slots name sl' }).goOn is
      | _, _ => s1.offAll is is.act 0x22
def execExpectOnce (g : Guard) (name : Nat) (n : Src) (s : State) : Host.Outcome State Fault Refusal :=
  s.expectWord (.expectOnce g name n) g false name n
def execExpectEach (g : Guard) (name : Nat) (n : Src) (s : State) : Host.Outcome State Fault Refusal :=
  s.expectWord (.expectEach g name n) g true name n

/-- BTEST reads one slot's counts as they stand together (R229, R405). -/
def State.btest (s : State) (i : Instr) (g : Guard) (name : Nat) (run : Issue → Slot → Group → Group) :
    Host.Outcome State Fault Refusal :=
  s.word i g fun is s1 =>
    match s1.slotOf (s1.nameBlock is) name with
    | some sl =>
      if s1.nameOk is name then (s1.modGroup is.gid (run is sl)).goOn is else s1.offAll is is.act 0x22
    | none => s1.offAll is is.act 0x22
def btestPut (wide : Bool) (d : Dst) (f : Slot → Nat) (is : Issue) (sl : Slot) (g : Group) : Group :=
  g.writeLanes wide d (is.work d) fun _ => f sl
def Slot.pa (sl : Slot) : Nat := sl.phase % 2 ^ 16 + sl.pendA % 2 ^ 16 * 2 ^ 16
def execBtestPa (g : Guard) (d : Dst) (name : Nat) (s : State) : Host.Outcome State Fault Refusal :=
  s.btest (.btestPa g d name) g name (btestPut false d Slot.pa)
def execBtestPb (g : Guard) (d : Dst) (name : Nat) (s : State) : Host.Outcome State Fault Refusal :=
  s.btest (.btestPb g d name) g name (btestPut false d fun sl => sl.pendB)
def execBtestAll (g : Guard) (d : Dst) (name : Nat) (s : State) : Host.Outcome State Fault Refusal :=
  s.btest (.btestAll g d name) g name (btestPut true d fun sl => sl.pa + sl.pendB % 2 ^ 32 * 2 ^ 32)
def execBtestPassed (g : Guard) (pd : Nat) (name : Nat) (t : Src) (s : State) : Host.Outcome State Fault Refusal :=
  s.btest (.btestPassed g pd name t) g name fun is sl h =>
    h.setPreds pd is.act (if passed sl.phase (s.opnd is false t is.low % 65536) then is.act else 0)

/-- BINVAL (R229): the counts go back, BOUND is cleared, the name is unbound. -/
def execBinval (g : Guard) (name : Nat) (s : State) : Host.Outcome State Fault Refusal :=
  s.word (.binval g name) g fun is s1 =>
    if is.own = 0 then s1.goOn is
    else
      let bid := s1.nameBlock is
      match s1.block? bid, s1.slotOf bid name with
      | some b, some sl =>
        if !s1.nameOk is name then s1.offAll is is.act 0x22
        else
          let b1 := b.writeBack sl false
          (s1.setBlock bid { b1 with slots := SMap.del b1.slots name }).goOn is
      | _, _ => s1.offAll is is.act 0x22

end Sys2Proof.Machine
end

