-- ==== Sys2Proof/Machine/Home.lean ====
section
/-! DEFINITION. Machine/Home.lean: what a home does with a request: admission, translation, gathering, leases, reads, writes,
atomics, checked memory, compression, heat, and the answers (R41 to R62, R79, R105, R106, R109, R118, R222 to R225,
R236, R237). -/

namespace Sys2Proof.Machine

/-! ### Small changes of the parts of State -/

def State.modMd (s : State) (f : MemDies → MemDies) : State := { s with md := f s.md }
def State.modXl (s : State) (f : Xlate → Xlate) : State := { s with xl := f s.xl }

/-! ### Who waits (R109) -/

/-- The group whose program order a request follows. -/
def State.reqGroup (s : State) (r : Req) : Option Nat :=
  match r.who with
  | .op gid _ => some gid
  | .store c id => ((s.core c).stores.find? fun b => b.id == id).map (·.gid)
  | _ => none

/-- The waiter that a request adds to a merge entry; a prefetch gathers nothing (R394). -/
def State.waiterOf (s : State) (r : Req) : Option Waiter :=
  match r.who with
  | .op gid _ => some (.group gid)
  | .store _ _ => (s.reqGroup r).map .group
  | .copy bid _ _ => (s.block? bid).map fun b => .copy b.core
  | .memop _ _ => some (.memop (if 18 ≤ r.src then r.src - 18 else s.homeOf r))
  | .host _ => some .host
  | .pref _ => none

/-- The access types of a request (R105, R112). -/
def ReqKind.access : ReqKind → Rights
  | .load | .watch | .renew => acRead
  | .store | .range | .elem | .spoil => acWrite
  | .reduce => acRead
  | .copyRead => acCopyRead
  | .copyWrite => acCopyWrite
  | _ => acAtomic

def ReqKind.isAtomic : ReqKind → Bool
  | .add | .min | .max | .and | .or | .xor | .exch | .cas | .fadd => true
  | _ => false

/-! ### Translation caches and merge tables (R106, R109) -/

def pageKey (die ia : Nat) : Nat := die * 2 ^ 40 + ia / 4096

/-- The cached leaf of a die that maps an IA. -/
def State.cached (s : State) (die ia : Nat) : Option (BitVec 64) :=
  let hit (e : Nat × BitVec 64) : Bool := e.1 / 2 ^ 40 == die &&
    e.1 % 2 ^ 40 * 4096 / 2 ^ sizeLog (leafSize e.2) == ia / 2 ^ sizeLog (leafSize e.2)
  (List.find? hit s.xl.tlb).map (·.2)

/-- Entries of a die's merge table. -/
def State.mergeCount (s : State) (die : Nat) : Nat :=
  ((SMap.entries s.xl.merge).filter fun e => e.1 / 2 ^ 40 == die).length

/-- A waiter joins a merge entry: 64 are recorded, further ones set overflow. -/
def Merge.join (m : Merge) (w : Waiter) (t : Rights) : Merge :=
  if m.waiters.contains w then { m with types := m.types ||| t }
  else if m.waiters.length < 64 then { m with waiters := m.waiters ++ [w], types := m.types ||| t }
  else { m with overflow := true, types := m.types ||| t }

/-- MERGE_ENTRY (R109): a miss adds a waiter and is answered pending; the first one sends a miss record in class 2, with the device time of
the miss (R112). None when the table is full. -/
def State.gather (s : State) (die ia : Nat) (t : Rights) (w : Waiter) (ctx reason : Nat) : Option State :=
  let k := pageKey die ia
  let reply (x : Xlate) : Xlate := { x with pendings := x.pendings ++ [(die, ia / 4096, w)] }
  match SMap.find? s.xl.merge k with
  | some m => some (s.modXl fun x => reply { x with merge := SMap.put x.merge k (m.join w t) })
  | none =>
    if 256 ≤ s.mergeCount die then none
    else
      let f := s.message (portOfHome die) controlPort 2
      some (f.1.modXl fun x => reply { x with
        merge := SMap.put x.merge k { waiters := [w], types := t, overflow := false, ctx := ctx, reason := reason }
        missQ := x.missQ ++ [{ die := die, page := ia / 4096, types := t, waiters := 1, ctx := ctx, reason := reason, time := s.now,
                               ticket := f.2 }] })

/-- The cause of a final answer by its reason (R441). -/
def causeOf (reason : Nat) : Nat := if reason = 3 then 0x14 else if reason = 4 then 0x15 else 0x12

/-! ### Engines as requesters (R54, R242, R249) -/

/-- A command's key among those of all groups. -/
def CopyCmd.key (c : CopyCmd) : Nat := c.gid * 2 ^ 32 + c.id

/-- Units that stand for the reads of a command's map record and of its list or row table. -/
def mapUnit : Nat := 2 ^ 39
def listUnit : Nat := 2 ^ 39 + 1

/-- Changes the command of a block with a key, cancelled or not. -/
def State.modCopy (s : State) (bid key : Nat) (f : CopyCmd → CopyCmd) : State :=
  let put (l : List CopyCmd) : List CopyCmd := l.map fun c => if c.key = key then f c else c
  s.modBlock bid fun b => { b with cmds := put b.cmds, ghosts := put b.ghosts }

/-- One request of a unit under way has been answered. -/
def CopyCmd.answered (c : CopyCmd) (u : Nat) : CopyCmd :=
  { c with flight := c.flight.map fun p => if p.1 = u then (u, p.2 - 1) else p }

/-- A unit meets a fault: what it is, at which VA and IA. -/
def CopyCmd.failed (c : CopyCmd) (u cause reason va ia : Nat) : CopyCmd := { c with fails := c.fails ++ [(u, cause, reason, va, ia)] }

/-- Changes an accepted unit of a MEMOP. -/
def State.modRange (s : State) (id va : Nat) (f : RangeUnit → RangeUnit) : State :=
  s.modMd fun d => { d with memops := d.memops.map fun m =>
    if m.id = id then { m with open_ := m.open_.map fun u => if u.va = va then f u else u } else m }

/-- A unit of a MEMOP meets a final fault. -/
def State.rangeFails (s : State) (id va cause reason ia : Nat) (t : Rights) : State :=
  s.modMd fun d => { d with memops := d.memops.map fun m =>
    if m.id = id then { m with fails := m.fails ++ [(va, cause, reason, ia, t)] } else m }

/-! ### Landing data and faults at the requester (R113, R114, R117, R164) -/

/-- Lanes of an operand-log entry take their loaded values. -/
def Group.land (g : Group) (slot : Nat) (vals : List (Nat × Nat)) : Group :=
  match SMap.find? g.oplog slot with
  | none => g
  | some o =>
    match o.kind with
    | .ldc | .launch =>
      let o1 := { o with data := vals.foldl (fun m x => SMap.set 0 m x.1 (x.2 + 1)) o.data }
      let g1 : Group := match wordOf o.raw with
        | some (.ldc _ run sd _ _ _ _ _) =>
          let k := min (4 * 2 ^ run) 16
          vals.foldl (fun h x => h.putS (sd + k / 4 * x.1) (k / 4) x.2) g
        | _ => g
      let parts := match wordOf o.raw with
        | some (.ldc _ run _ _ _ _ _ _) => 4 * 2 ^ run / min (4 * 2 ^ run) 16
        | _ => 32
      let o2 := if o1.data.length = parts then { o1 with pending := 0 } else o1
      { g1 with oplog := SMap.put g1.oplog slot o2 }
    | _ =>
      let g1 := match wordOf o.raw with
        | some (.ld _ t d _ _ _ _ _) =>
          vals.foldl (fun (h : Group) (x : Nat × Nat) =>
            let r := match d, SMap.get 0 o.dregs x.1 with
              | .idx _ _, k + 1 => k
              | _, _ => g.dstReg d x.1
            h.putRun r x.1 (memRegs t) (loadValue t x.2)) g
        | some w =>
          -- a returning atomic: the destination is its v register
          (match usesAll w with
           | u => match u.wr with
             | [] => g
             | p :: _ => match p.op with
               | .v v => vals.foldl (fun (h : Group) (x : Nat × Nat) => h.writeV (p.n == 2) v x.1 x.2) g
               | _ => g)
        | none => g
      let ls := maskOf fun l => vals.any (·.1 == l)
      { g1 with oplog := SMap.put g1.oplog slot { o with pending := o.pending &&& ~~~ls, notNow := o.notNow &&& ~~~ls } }

/-- Lanes of an operand-log entry take a final fault: their destinations keep their values (R114). -/
def Group.failLanes (g : Group) (slot : Nat) (ls : BitVec 32) (cause reason page : Nat) : Group :=
  match SMap.find? g.oplog slot with
  | none => g
  | some o =>
    let ls := match o.kind with
      | .ldc | .launch => o.pending
      | _ => ls
    { g with oplog := SMap.put g.oplog slot { o with
        pending := o.pending &&& ~~~ls
        notNow := o.notNow &&& ~~~ls
        faulted := o.faulted ||| ls
        causes := (lanes ls).foldl (fun m l => SMap.set (0, 0, 0) m l (cause, reason, page)) o.causes } }

/-- A final fault reaches lanes of an operand-log entry; on a helper lane it is not raised and its destination receives
zero (R170). -/
def Group.failOp (g : Group) (slot : Nat) (ls : BitVec 32) (cause reason page : Nat) : Group :=
  let perLane := (SMap.find? g.oplog slot).any fun o => o.kind != .ldc && o.kind != .launch
  let hz := if perLane then ls &&& g.helper else 0
  if hz = 0 then g.failLanes slot ls cause reason page
  else
    let g1 := g.land slot ((lanes hz).map fun l => (l, 0))
    if hz = ls then g1 else g1.failLanes slot (ls &&& ~~~hz) cause reason page

/-- A fault that waits for the group's next release (R115, R117). -/
def State.lateFault (s : State) (gid : Nat) (f : LateFault) : State :=
  s.modGroup gid fun g => { g with late := g.late ++ [f] }

/-- Lanes of a buffered store leave it: acknowledged or discarded. -/
def State.dropStore (s : State) (c id : Nat) (ls : BitVec 32) : State :=
  s.modCore c fun k => { k with stores := (k.stores.map fun b =>
    if b.id = id then { b with lanes := b.lanes.filter fun x => !lane ls x.1 } else b).filter fun b => !b.lanes.isEmpty }

/-- The attributed fault of lanes of a posted store (R115). -/
def storeFault (b : BufStore) (ls : BitVec 32) (cause reason ia : Nat) : LateFault :=
  { kind := if b.red then 1 else 2, cause := cause, lanes := ls, clause := b.clause, word := b.word,
    access := (if b.red then acAtomic else acWrite).toNat, reason := reason, od := b.od, cmd := 0, ia := ia / 4096 * 4096,
    vas := (b.lanes.filter fun x => lane ls x.1).map fun x => (x.1, x.2.1), slot := none }

/-- Bytes of a host access that have been answered (R72, R75); when none is left the access completes. -/
def State.hostAnswer (s : State) (id : Nat) (bytes : List (Nat × BitVec 8)) (fail : Bool) : State :=
  match s.host.ops.find? fun o => o.id == id with
  | none => s
  | some o =>
    let o1 := { o with left := o.left - 1, got := bytes.foldl (fun m x => SMap.set 0 m x.1 x.2) o.got }
    let others := s.host.ops.filter fun x => x.id != id
    if fail || o1.left = 0 then
      let d : HostDone := { fn := o.req.fn, ok := !fail || o.req.cxl, poisoned := fail,
                            data := if fail then List.replicate o.req.len 0 else SMap.getRun 0 o1.got 0 o.req.len }
      { s with host := { s.host with ops := others, done := if o.req.write then s.host.done else s.host.done ++ [d] } }
    else { s with host := { s.host with ops := s.host.ops.map fun x => if x.id = id then o1 else x } }

/-- A final answer to lanes of a request; an engine's unit notes it and acts on it. -/
def State.failReq (s : State) (r : Req) (ls : BitVec 32) (cause reason : Nat) : State :=
  let ia := if cause = 0x10 || cause = 0x11 then 0
    else (((r.lanes.find? fun l => lane ls l.lane).map (·.ia)).getD 0) / 4096 * 4096
  match r.who with
  | .op gid slot =>
    if r.kind = .watch then
      match r.lanes with
      | [] => s
      | l :: _ =>
        s.lateFault gid
          { kind := 6, cause := cause, lanes := BitVec.ofNat 32 r.version, clause := l.data, word := l.data2,
            access := acRead.toNat, reason := reason, od := 0, cmd := 0, ia := ia, vas := [(l.lane, l.va)], slot := none }
    else s.modGroup gid fun g => g.failOp slot ls cause reason ia
  | .store c id =>
    match (s.core c).stores.find? fun b => b.id == id with
    | none => s
    | some b => (s.dropStore c id ls).lateFault b.gid (storeFault b ls cause reason ia)
  | .host id => s.hostAnswer id [] true
  | .copy bid key u =>
    s.modCopy bid key fun c => c.failed u cause reason ((r.lanes.head?.map (·.va)).getD 0)
      (if cause = 0x10 || cause = 0x11 then 0 else ((r.lanes.head?.map (·.ia)).getD 0) / 4096 * 4096)
  | .memop id u => s.rangeFails id u cause reason (((r.lanes.head?.map (·.ia)).getD 0) / 4096 * 4096) r.kind.access
  | .pref _ => s

/-- A speculative load is answered "not now" (R118). -/
def State.notNow (s : State) (r : Req) : State :=
  match r.who with
  | .op gid slot => s.modGroup gid fun g =>
      match SMap.find? g.oplog slot with
      | none => g
      | some o =>
        let ls := maskOf fun l => r.lanes.any (·.lane == l)
        { g with oplog := SMap.put g.oplog slot { o with pending := o.pending &&& ~~~ls, notNow := o.notNow ||| ls } }
  | _ => s

/-- The class 1 reply of a home to a request's requester (R14). -/
def State.replyTo (s : State) (home : Nat) (r : Req) : State × Ticket := s.message (portOfHome home) (portOfSource r.src) 1

/-- A reply is on its way: the operand-log entry is not complete before it has arrived (R14, R164). -/
def State.replied (s : State) (home : Nat) (r : Req) : State :=
  let f := s.replyTo home r
  match r.who with
  | .op gid slot => f.1.modGroup gid fun g =>
      { g with oplog := SMap.modify g.oplog slot fun o => { o with replies := o.replies ++ [f.2] } }
  | .copy bid key u => f.1.modCopy bid key fun c => { c.answered u with replies := c.replies ++ [(u, f.2)] }
  | .memop id u => f.1.modRange id u fun x => { x with left := x.left - 1, replies := x.replies ++ [f.2] }
  | _ => f.1

/-! ### Admission (R44, R79) -/

/-- The updates of one unit of a MEMOP are one request of its home: they count once, as the unit does. -/
def Req.isElem (r : Req) : Bool := r.kind == .elem || r.kind == .spoil

/-- The function of each request that a home has accepted from a source die and not finished. -/
def State.heldOf (s : State) (home src : Nat) : List Nat :=
  ((s.md.held.filter fun h => h.req.src == src && s.homeOf h.req == home && !h.req.isElem).map (·.req.fn))
    ++ (((s.md.deltas ++ s.md.parityAcks).filter fun d => d.req.src == src && d.home == home && !d.req.isElem).map (·.req.fn))
    ++ ((s.md.memops.map fun m => (m.open_.filter fun u => m.src == src && u.home == home).map fun _ =>
          ((s.ctx? m.ctx).map (·.fn)).getD 0).flatten)
    ++ ((s.md.mirrorQ.filter fun u => u.req.src == src && s.cellHome u.req.cell == home).map (·.req.fn))

/-- The function of each request from a source die that is arriving at a home: its flit is there and it waits for no page and no delay. -/
def State.arrivingAt (s : State) (home src : Nat) : List Nat :=
  ((s.md.reqs.filter fun r => r.src == src && s.homeOf r == home && r.waiting.isNone && r.retryAt.isNone && s.arrived r).map (·.fn))
    ++ ((s.md.cellReqs.filter fun c => c.src == src && s.cellHome c.cell == home && c.retryAt.isNone && s.landed c.ticket).map (·.fn))

/-- Whether the home admits a request of a function (R79). -/
def State.admits (s : State) (home src f : Nat) : Bool :=
  let held := s.heldOf home src
  let fs := (f :: (held ++ s.arrivingAt home src)).eraseDups
  let total := (fs.map fun x => (s.func x).aw).sum
  let share := max 1 (128 * (s.func f).aw / max 1 total)
  decide (held.length < 128) && (decide ((held.filter (· == f)).length < share) || decide (held.length < 96))

/-- What a request's place in the order toward its home is kept against: a group (R44, R114), or the posted writes of a function (R72). -/
def State.orderOf (s : State) (r : Req) : Option Nat :=
  match r.who with
  | .host id =>
    (match s.host.ops.find? fun o => o.id == id with
     | some o => if o.req.relaxed then none else some (2 ^ 60 + r.fn)
     | none => none)
  | _ => s.reqGroup r

/-- Whether later requests of the same order wait behind this one while it cannot be looked at: all but reads of the host. -/
def Req.blocks (r : Req) : Bool :=
  match r.who with
  | .host _ => r.kind == .store
  | _ => true

/-- Whether an earlier cell request of the group toward a home has not been accepted (R44, R114). -/
def State.cellBefore (s : State) (home tag : Nat) (g : Option Nat) : Bool :=
  g.isSome && s.md.cellReqs.any fun c => c.order == g && decide (c.tag < tag) && s.cellHome c.cell == home
    && (c.retryAt.isSome || !s.landed c.ticket)

/-- Whether an earlier request of the group toward a home waits for a page, a delay or its flit (R44, R114). -/
def State.reqBefore (s : State) (home tag : Nat) (g : Option Nat) : Bool :=
  g.isSome && s.md.reqs.any fun r => decide (r.tag < tag) && s.homeOf r == home && s.reqGroup r == g
    && (r.waiting.isSome || r.retryAt.isSome || !s.arrived r)

/-- Whether an earlier posted write of the host is held at the home, or under way on a host link (R72, R221). -/
def State.hostHeld (s : State) (home : Nat) (r : Req) : Bool :=
  match r.who with
  | .host _ => (s.md.held ++ s.md.uio).any fun h => s.homeOf h.req == home && decide (h.req.tag < r.tag) && (s.orderOf r).isSome
      && s.orderOf h.req == s.orderOf r
  | _ => false

/-- The oldest request of a source that the home may look at: a later request of a group or of a function's posted writes waits behind
one that pends or is to be re-sent (R44, R72, R114). -/
def State.nextReq (s : State) (home src : Nat) (want : Req → Bool) : List Req → List Nat → Option Req
  | [], _ => none
  | r :: rest, blocked =>
    if r.src != src || s.homeOf r != home then s.nextReq home src want rest blocked
    else
      let g := s.orderOf r
      let stuck := match g with
        | some x => blocked.contains x
        | none => false
      let more := if r.blocks then blocked ++ g.toList else blocked
      if stuck || r.waiting.isSome || r.retryAt.isSome || !s.arrived r || s.cellBefore home r.tag (s.reqGroup r) || s.hostHeld home r then
        s.nextReq home src want rest more
      else if want r then some r
      else s.nextReq home src want rest more

/-- Retry delay of a source toward a home (R44). -/
def delayKey (home src : Nat) : Nat := 17 * src + home
def State.retryDelay (s : State) (home src : Nat) : Nat :=
  let d := SMap.get 0 s.md.delay (delayKey home src)
  if d = 0 then 32 else d

/-- Changes the one request with a tag. -/
def State.modReq (s : State) (tag : Nat) (f : Req → Req) : State :=
  s.modMd fun m => { m with reqs := m.reqs.map fun r => if r.tag = tag then f r else r }
def State.dropReq (s : State) (tag : Nat) : State :=
  s.modMd fun m => { m with reqs := m.reqs.filter fun r => r.tag != tag }
/-- A request takes its place again among those not accepted: before all that were sent later (R44, R72). -/
def State.putReq (s : State) (r : Req) : State :=
  s.modMd fun m => { m with reqs := (m.reqs.takeWhile fun x => decide (x.tag < r.tag)) ++ [r] ++ m.reqs.dropWhile fun x => decide (x.tag < r.tag) }

/-- A retry reply: the delay that stood, which the reply doubles (R44). -/
def State.bumpDelay (s : State) (home src : Nat) : State :=
  s.modMd fun m => { m with delay := SMap.set 0 m.delay (delayKey home src) (min 512 (2 * s.retryDelay home src)) }
/-- An accepted request returns the delay to 32 cc (R44). -/
def State.calmDelay (s : State) (home src : Nat) : State :=
  s.modMd fun m => { m with delay := SMap.set 0 m.delay (delayKey home src) 0 }

/-- RETRY_REPLY (R44): the request is re-sent after the delay that stood; the delay doubles. -/
def State.retry (s : State) (home : Nat) (r : Req) : State :=
  let f := s.replyTo home r
  (f.1.modReq r.tag fun x => { x with retryAt := some (s.now + s.retryDelay home r.src), reply := f.2 }).bumpDelay home r.src

/-- A pending reply (R109, R114): the request waits for its page; a prefetch is dropped, a speculative load is answered
"not now", and a full merge table answers retry. -/
def State.pend (s : State) (die home : Nat) (r : Req) (ia reason : Nat) : State :=
  if r.spec then ((s.dropReq r.tag).notNow r).replied home r
  else match s.waiterOf r with
    | none => s.dropReq r.tag
    | some w =>
      match s.gather die ia r.kind.access w r.ctx reason with
      | none => s.retry home r
      | some s1 => ((s1.replyTo home r).1).modReq r.tag fun x => { x with waiting := some (ia / 4096) }

/-! ### Heat (R59, R60) -/

/-- One step of the LFSR. -/
def lfsrNext (x : BitVec 32) : BitVec 32 := if x.getLsbD 0 then (x >>> 1) ^^^ 0x80200003 else x >>> 1

/-- HEAT_LFSR_STEP (R59): an accepted access of a group or engine steps the die's LFSR and may sample it. A sample of an access that the
die's cache does not translate counts for its 4 KiB page. DESIGN CHOICE, unsafe: log entry 130. -/
def State.heatStep (s : State) (die ctx ia : Nat) : State :=
  let x := lfsrNext (s.md.lfsr.getD die 0)
  let s1 := s.modMd fun m => { m with lfsr := m.lfsr.set die x }
  match s.ctx? ctx with
  | none => s1
  | some cx =>
    if x.toNat % 2 ^ cx.req.heatk = 0 then
      let page := match s.cached die ia with
        | some e => ia / 2 ^ sizeLog (leafSize e) * (2 ^ sizeLog (leafSize e) / 4096)
        | none => ia / 4096
      let f := s1.message (portOfMemory die) controlPort 2
      f.1.modMd fun m => { m with heatQ := m.heatQ ++ [{ die := die, ctx := ctx, page := page, ticket := f.2 }] }
    else s1

/-- Requests of groups and engines step the LFSR: loads, stores and atomics on a unit, copy units and MEMOP units. What a home fetches for a
MEMOP unit, and its updates one by one, are part of that unit. -/
def Req.heats (r : Req) : Bool :=
  (match r.who with
   | .host _ => false
   | .memop _ _ => r.kind == .range || r.kind == .reduce
   | _ => true) && r.kind != .renew && r.kind != .watch

/-! ### Compression (R56 to R58) -/

/-- Recompresses a block after a write to it: takes granules from the context's reserve, or none when they do not suffice (R57). -/
def State.recompress (s : State) (ctx die block ia : Nat) : Option State :=
  (s.fitBlock false ctx die block).map fun p => if p.2 = 0 then p.1 else p.1.memRecord 0x0301 0 die ctx p.2 (ia / 256 * 256)

/-- A write that a home refuses for want of granules is counted and recorded (R57, R58); the spec does not say what the record's count
holds: 0 here. DESIGN CHOICE, unsafe: log entry 127. -/
def State.noteRefused (s : State) (home ctx ia : Nat) : State :=
  (s.modMd fun m => { m with zcount := countZ m.zcount ctx home 2 1 }).memRecord 0x0302 1 home ctx 0 (ia / 256 * 256)

/-- GRANULE_RELEASE (R57): the granules a block no longer needs go back, to the reserve first. -/
def execGranuleRelease (die block : Nat) (s : State) : Host.Outcome State Fault Refusal :=
  let key := 17 * block + die
  match SMap.find? s.md.zblocks key with
  | none => .refused (.notPending "GRANULE_RELEASE")
  | some z =>
    if z.spare = [] then .refused (.notPending "GRANULE_RELEASE")
    else
      let k := 17 * z.ctx + die
      let taken := SMap.get 0 s.md.reserve k
      let back := min taken z.spare.length
      .next (s.modMd fun m => { m with
        zblocks := if z.granules = [] then SMap.del m.zblocks key else SMap.put m.zblocks key { z with spare := [] }
        reserve := SMap.set 0 m.reserve k (taken - back)
        stock := SMap.set 0 m.stock die (SMap.get 0 m.stock die + (z.spare.length - back)) })

/-! ### Checked memory (R222 to R224) -/

/-- The shadow of a sector after a plain access of phase q by a group, none for MEMRACE. -/
def shadowStep (sh : BitVec 64) (q gid : Nat) (write : Bool) : Option (BitVec 64) :=
  let x := sh.toNat
  let fresh := bits x 48 16 != q
  let wv := !fresh && bitAt x 3
  let rv := !fresh && bitAt x 2
  let many := !fresh && bitAt x 1
  let wg := if fresh then 0 else bits x 26 22
  let rg := if fresh then 0 else bits x 4 22
  let mk (wv rv many : Bool) (wg rg : Nat) : BitVec 64 :=
    BitVec.ofNat 64 (q % 2 ^ 16 * 2 ^ 48 + wg * 2 ^ 26 + rg * 2 ^ 4 + (if wv then 8 else 0) + (if rv then 4 else 0) + (if many then 2 else 0))
  if write then
    if (wv && wg != gid) || (rv && (many || rg != gid)) then none else some (mk true rv many gid rg)
  else if wv && wg != gid then none
  else if !rv then some (mk wv true many wg gid)
  else some (mk wv rv (many || rg != gid) wg rg)

/-- Checks each lane of a plain access that goes through a checked segment (R97), in lane order; answers the shadows and the lanes that
race. A lane that faults otherwise leaves the shadow as it is (R224). -/
def State.checkLanes (s : State) (leaf : BitVec 64) (r : Req) (faults : BitVec 32) : SMap (BitVec 64) × BitVec 32 :=
  (r.lanes.filter (·.chk)).foldl (fun (acc : SMap (BitVec 64) × BitVec 32) l =>
    let pa := s.place leaf l.ia
    let sectors := ((List.range r.width).map fun k => (pa + k) / 32).eraseDups
    let run := sectors.foldl (fun (m : Option (SMap (BitVec 64))) sec =>
      m.bind fun t => (shadowStep (SMap.get 0 t sec) (r.phase % 2 ^ 16) r.rgid (r.kind == .store)).map fun v => SMap.set 0 t sec v)
      (some acc.1)
    match run with
    | some t => (if lane faults l.lane then acc.1 else t, acc.2)
    | none => (acc.1, acc.2 ||| bit l.lane)) (s.md.shadow, 0)

/-- A plain access (R222, R225): unordered load or store. -/
def Req.plain (r : Req) : Bool := (r.kind == .load || r.kind == .store) && r.od % 4 == 0

/-! ### Reads (R46, R47) -/

/-- Grants a lease on a line for the time it lasts by its write class, and answers its end (R46). -/
def State.grant (s : State) (iline : Nat) : State × Nat :=
  let l := SMap.get Line.reset s.md.lines iline
  let e := s.now + 1024 / 2 ^ l.classAt s.now
  (s.modMd fun m => { m with lines := SMap.set Line.reset m.lines iline { l with leaseEnd := max l.leaseEnd e } }, e)

/-- The 128 bytes of a line as a leaf reads them. -/
def State.lineBytes (s : State) (leaf : BitVec 64) (iline : Nat) : List (BitVec 8) :=
  (List.range 128).map fun k => s.byteAt leaf (s.place leaf (128 * iline) + k)

/-- The poisoned sectors of a line (R62). -/
def State.badSectors (s : State) (leaf : BitVec 64) (iline : Nat) : BitVec 4 :=
  BitVec.ofNat 4 (((List.range 4).filter fun k =>
    s.poisonedAt (leafF leaf) (128 * iline + 32 * k) (s.place leaf (128 * iline) + 32 * k)).map (2 ^ ·)).sum

/-- A reply that carries a line with its lease; L1 keeps it where the cache hint lets it (R46, R210), with the sectors that are poisoned, so
that it never hides the poison (R62). A line of an O or F page or with a held write has none. -/
def State.fillL1 (s : State) (src : Nat) (leaf : BitVec 64) (alloc low : Bool) (iline : Nat) : State :=
  if leafO leaf || leafF leaf || s.lineHeld iline then s
  else
    let g := s.grant iline
    let k : L1Line := { bytes := s.lineBytes leaf iline, leaseEnd := g.2, bad := s.badSectors leaf iline, low := low,
                        version := (SMap.get Line.reset g.1.md.lines iline).version }
    if alloc then { g.1 with l1 := SMap.put g.1.l1 (src * 2 ^ 45 + iline) k } else g.1

/-- The lanes of a request that touch a poisoned sector (R62). -/
def State.poisonLanes (s : State) (leaf : BitVec 64) (r : Req) : BitVec 32 :=
  maskOf fun l => r.lanes.any fun a => a.lane == l && (List.range r.width).any fun k =>
    s.poisonedAt (leafF leaf) (a.ia + k) (s.place leaf a.ia + k)

def Req.laneMask (r : Req) : BitVec 32 := maskOf fun l => r.lanes.any (·.lane == l)

/-- Lands the values of a load's lanes but those that failed. -/
def State.landReq (s : State) (r : Req) (leaf : BitVec 64) (bad : BitVec 32) : State :=
  let good := r.lanes.filter fun a => !lane bad a.lane
  match r.who with
  | .op gid slot =>
    s.modGroup gid fun g => g.land slot (good.map fun a => (a.lane, s.bytesAt leaf (s.place leaf a.ia) r.width))
  | .host id =>
    (match r.lanes with
     | [] => s
     | a :: _ =>
       if bad != 0 then s.hostAnswer id [] true
       else s.hostAnswer id ((List.range r.width).map fun k => (a.data + k, s.byteAt leaf (s.place leaf a.ia + k))) false)
  | .copy bid key u =>
    let bytes := (r.lanes.map fun a => (List.range r.width).map fun k =>
      (2 ^ 40 * u + a.data + k, s.byteAt leaf (s.place leaf a.ia + k))).flatten
    s.modCopy bid key fun c => { c with got := bytes.foldl (fun m x => SMap.set 0 m x.1 x.2) c.got }
  | .memop id u =>
    let vals := r.lanes.map fun a => (a.lane, s.bytesAt leaf (s.place leaf a.ia) r.width)
    s.modRange id u fun x => { x with got := vals.foldl (fun m v => SMap.set 0 m v.1 v.2) x.got }
  | _ => s

/-- An engine's read meets poisoned sectors: a copy unit faults, a MEMOP unit notes the elements (R62, R249). -/
def State.engineBad (s : State) (r : Req) (leaf : BitVec 64) : State :=
  let bad := r.lanes.filter fun a => (List.range r.width).any fun k => s.poisonedAt (leafF leaf) (a.ia + k) (s.place leaf a.ia + k)
  match r.who, bad with
  | .copy bid key u, a :: _ => s.modCopy bid key fun c => c.failed u 0x13 0xFF a.va (a.ia / 4096 * 4096)
  | .memop id u, _ :: _ => s.modRange id u fun x => { x with bad := x.bad ++ bad.map (·.lane) }
  | _, _ => s

/-- Performs a load. A speculative one that meets a fault is answered "not now" (R118); so is one that is to be checked, which is asked
again, and checked, when it is speculative no more. DEDUCED, safe: log entry 129. -/
def State.performLoad (s : State) (home : Nat) (r : Req) (leaf : BitVec 64) : State :=
  let checked := leafC leaf && r.plain
  let bad := s.poisonLanes leaf r
  let c := if checked then s.checkLanes leaf r bad else (s.md.shadow, 0)
  let po := bad &&& ~~~c.2
  if r.spec && (po != 0 || checked && r.lanes.any (·.chk)) then (s.notNow r).replied home r
  else
    let s0 := s.modMd fun m => { m with shadow := c.1 }
    let s1 := if r.lease && r.src < 8 then
        (((r.lanes.filter fun a => !lane (c.2 ||| po) a.lane).map fun a => a.ia / 128).eraseDups).foldl
          (fun t l => t.fillL1 r.src leaf r.alloc (r.od / 4 == 1) l) s0
      else s0
    let s2 := ((s1.landReq r leaf (c.2 ||| po)).engineBad r leaf).replied home r
    let s3 := if c.2 = 0 then s2 else s2.failReq r c.2 0x19 0xFF
    match r.who with
    | .op _ _ => if po = 0 then s3 else s3.failReq r po 0x13 0xFF
    | _ => s3

/-! ### Writes and atomics (R45, R47, R49, R62) -/

/-- The (physical address, byte) pairs of a store's lanes; of lanes that write one address the highest is written (R387). -/
def State.storeBytes (s : State) (r : Req) (leaf : BitVec 64) : List (Nat × BitVec 8) :=
  ((r.lanes.filter fun a => !r.lanes.any fun b => b.ia == a.ia && decide (a.lane < b.lane)).map fun a => (List.range r.width).map fun k =>
    (s.place leaf a.ia + k, BitVec.ofNat 8 (a.data / 2 ^ (8 * k)))).flatten

/-- The new value of an element of a MEMOP's destination (R54): its operation and type stand in the request's slot field, the source element
or pattern and the factor in its lane. -/
def State.elemBytes (s : State) (r : Req) (leaf : BitVec 64) : List (Nat × BitVec 8) :=
  (r.lanes.map fun a =>
    let x := memopElem (r.slot / 16) (r.slot % 16) a.data2 a.data (s.bytesAt leaf (s.place leaf a.ia) r.width)
    (List.range r.width).map fun k => (s.place leaf a.ia + k, BitVec.ofNat 8 (x / 2 ^ (8 * k)))).flatten

/-- HOME_ATOMIC (R49): the values found by each lane, the bytes written, and the flags of each lane, which are those of its location's
steps; poisoned lanes do nothing. -/
def State.atomicLanes (s : State) (r : Req) (leaf : BitVec 64) (bad : BitVec 32) :
    List (Nat × Nat) × List (Nat × BitVec 8) × List (Nat × BitVec 5) :=
  let ls := r.lanes.filter fun a => !lane bad a.lane
  ((ls.map (·.ia)).eraseDups).foldl (fun (acc : List (Nat × Nat) × List (Nat × BitVec 8) × List (Nat × BitVec 5)) ia =>
    let mine := (ls.filter fun a => a.ia == ia).map fun a => (a.lane, a.data, a.data2)
    let pa := s.place leaf ia
    let old := s.bytesAt leaf pa r.width
    let t := atomRun r.kind r.signed (8 * r.width) old mine
    let wrote := r.kind != .cas || (mine.zip t.1).any fun x => x.1.2.1 == x.2.2
    (acc.1 ++ t.1,
     if wrote then acc.2.1 ++ (List.range r.width).map fun k => (pa + k, BitVec.ofNat 8 (t.2.1 / 2 ^ (8 * k))) else acc.2.1,
     acc.2.2 ++ mine.map fun x => (x.1, t.2.2))) ([], [], [])

/-- The parity delta of a performed write goes to its parity die in class 2; where there is none the write is done at once (R42, R45,
R63, R65). -/
def State.sendDelta (s : State) (d : Delta) : State :=
  if leafF d.leaf || d.bytes.isEmpty || !s.keepsParity then s.modMd fun m => { m with parityAcks := m.parityAcks ++ [d] }
  else
    let f := s.message (portOfMemory d.home) (portOfMemory d.pdie) 2
    f.1.modMd fun m => { m with deltas := m.deltas ++ [{ d with ticket := f.2 }], stripeP := SMap.set 0 m.stripeP d.stripe d.pdie }

/-- Poisons the sectors of device or far memory that hold some places, and logs them (R62). -/
def State.poisonSectors (s : State) (die ctx ia : Nat) (far : Bool) (pas : List Nat) : State :=
  let secs := (pas.map fun a => a / 32).eraseDups
  if secs.isEmpty then s
  else (s.modMd fun m => { m with poison := secs.foldl (fun q x => SMap.set false q (poisonKey far (32 * x)) true) m.poison }).memRecord
    0x0304 1 die ctx secs.length (ia / 256 * 256)

/-- The bytes that a write's request puts in place, the values an atomic finds and its flags. An element of a MEMOP whose own sector is
poisoned, like one computed from a poisoned source, writes nothing. -/
def State.writeOf (s : State) (r : Req) (leaf : BitVec 64) (po : BitVec 32) :
    List (Nat × Nat) × List (Nat × BitVec 8) × List (Nat × BitVec 5) :=
  if r.kind.isAtomic then s.atomicLanes r leaf po
  else match r.kind with
    | .elem => ([], if po = 0 || r.slot / 16 = 0 then s.elemBytes r leaf else [], [])
    | .spoil => ([], [], [])
    | _ => ([], s.storeBytes r leaf, [])

/-- A write is performed: bytes, parity delta or immediate acknowledgement, and the lanes a poisoned sector refused. An element computed from
a poisoned sector poisons its destination's sector (R62). -/
def State.performStore (s : State) (home : Nat) (r : Req) (leaf : BitVec 64) : State :=
  let ia := (r.lanes.head?.map (·.ia)).getD 0
  let pa := s.place leaf ia
  let po := s.poisonLanes leaf r
  let a := s.writeOf r leaf po
  let w := a.2.1
  let stood := s.standing (leafF leaf) ia pa w
  let refused := if r.kind.isAtomic then po
    else if r.kind = .spoil then 0
    else maskOf fun l => r.lanes.any fun x => x.lane == l && !stood.any fun y => y.1 == s.place leaf x.ia
  let d := if leafF leaf then [] else s.deltaBytes leaf ia pa w
  let s1 := if w.isEmpty then s else s.performWrite leaf ia pa w
  let s2 := if r.kind = .spoil then s1.poisonSectors home r.ctx ia (leafF leaf) (r.lanes.map fun x => s.place leaf x.ia) else s1
  s2.sendDelta { tag := r.tag, home := home, pdie := parityDie ia, stripe := pa / 4352, bytes := d, req := r,
                 results := a.1, flags := a.2.2, poison := refused, leaf := leaf, ticket := Ticket.here }

/-- Whether the parity die of a stripe can store its block once the deltas on their way to it are applied (R56, R57). -/
def State.parityFits (s : State) (ctx stripe die : Nat) : Bool :=
  let ds := s.md.deltas.filter fun d => d.pdie == die && d.stripe / 8 == stripe / 8
  let applied : State := { s with mem := ds.foldl (fun m d => applyParity m d.stripe d.pdie d.bytes) s.mem }
  !s.keepsParity || (applied.fitBlock false ctx die (stripe / 8)).isSome

/-- Whether a write to a compressed page can be stored (R57), with the recompressed state: the block of the home, and the parity die's, have
the granules. A write of the device itself that was held before finds them. -/
def State.compressWrite (s : State) (home : Nat) (r : Req) (leaf : BitVec 64) : Option State :=
  let s1 := s.performStore home r leaf
  if !leafZ leaf || leafF leaf then some s1
  else
    let ia := (r.lanes.head?.map (·.ia)).getD 0
    let pa := s.place leaf ia
    if s1.parityFits r.ctx (pa / 4352) (parityDie ia) then
      s1.recompress r.ctx (dieOfPlace pa) (blockOf pa) ia
    else none

/-- COMPRESS_REFUSED (R57): nothing of the write is performed; the storing unit waits under the page of the block. -/
def State.refuseWrite (s : State) (home : Nat) (r : Req) (ia : Nat) : State :=
  (s.noteRefused home r.ctx ia).pend home home r ia 3

/-! ### Watches (R236) -/

/-- Arms a watch; the same word, block and name merges. -/
def State.arm (s : State) (home : Nat) (r : Req) (ia : Nat) : State :=
  let w : Watch := { ia := ia / 8 * 8, ctx := r.ctx, bid := r.bid, slot := r.slot, die := r.src, home := home }
  s.modMd fun m => { m with watches := if m.watches.any fun x => x.ia == w.ia && x.bid == w.bid && x.slot == w.slot
                                       then m.watches else m.watches ++ [w] }

/-! ### The accepted request -/

/-- Far memory is reachable (R70, R71). -/
def State.farUp (s : State) : Bool := s.host.l1up || s.host.faralt

/-- A request for an F page goes on in class 0 to the host bridge, which performs it on a host link (R73, R106); the home of a host's posted
write is then the bridge (R72, R221). -/
def State.passOn (s : State) (home : Nat) (h : HeldWrite) : State :=
  let f := s.message (portOfHome home) controlPort 0
  let s1 := f.1.modMd fun m => { m with uio := m.uio ++ [{ h with req := { h.req with ticket := f.2 } }] }
  match h.req.who with
  | .host id => { s1 with host := { s1.host with ops := s1.host.ops.map fun o => if o.id = id then { o with home := 17 } else o } }
  | _ => s1

/-- A home accepts a unit of a MEMOP, which it processes from then on (R54). -/
def State.openUnit (s : State) (home : Nat) (r : Req) (leaf : BitVec 64) : State :=
  match r.who, r.lanes with
  | .memop id u, a :: _ =>
    s.modMd fun d => { d with memops := d.memops.map fun m =>
      if m.id = id then
        { m with asked := m.asked.filter fun x => x.1 != u
                 open_ := m.open_ ++ [{ va := u, bytes := a.data, home := home, ia := a.ia, leaf := leaf, stage := 0, left := 0, replies := [],
                                        got := [], bad := [], poison := false }] }
      else m }
  | _, _ => s

/-- A request that its entry permits is performed, held, or passed to the host bridge. -/
def State.serveReq (s : State) (home : Nat) (r : Req) (leaf : BitVec 64) : State :=
  let ia := (r.lanes.head?.map (·.ia)).getD 0
  let far := leafF leaf
  let h : HeldWrite := { req := r, pa := s.place leaf ia, leaf := leaf }
  if r.spec && leafO leaf then ((s.dropReq r.tag).notNow r).replied home r
  else if far && !s.farUp then s.pend 17 home r ia 4
  else match r.kind with
    | .watch =>
      let at_ := if far then 17 else home
      if 8192 ≤ (s.md.watches.filter fun w => w.home == at_).length then s.retry home r
      else (s.dropReq r.tag).arm at_ r ia
    | .load | .copyRead =>
      if far then (s.dropReq r.tag).passOn home h
      else (s.dropReq r.tag).performLoad home r leaf
    | .range | .reduce => (s.dropReq r.tag).openUnit home r leaf
    | _ =>
      -- a checked store that races performs nothing of its racing lanes (R224, R225)
      let c := if leafC leaf && r.plain then s.checkLanes leaf r (s.poisonLanes leaf r) else (s.md.shadow, 0)
      let r1 := { r with lanes := r.lanes.filter fun a => !lane c.2 a.lane }
      let s1 := s.modMd fun m => { m with shadow := c.1 }
      let s2 := if c.2 = 0 then s1 else (s1.failReq r c.2 0x19 0xFF).replied home r
      if r1.lanes.isEmpty then s2.dropReq r.tag
      else if far then (s2.dropReq r.tag).passOn home { h with req := r1 }
      else if s2.writable r1.ilines then
        match (s2.dropReq r.tag).compressWrite home r1 leaf with
        | some s3 => s3
        | none => ((s2.modMd fun m => { m with shadow := s.md.shadow }).modReq r.tag fun _ => r1).refuseWrite home r1 ia
      else (s2.dropReq r.tag).modMd fun m => { m with held := m.held ++ [{ h with req := r1 }] }

/-- A request that is admitted: translated, and served or gathered (R105, R106, R109). -/
def State.translateReq (s : State) (home : Nat) (r : Req) (serve : BitVec 64 → State) : State :=
  let ia := (r.lanes.head?.map (·.ia)).getD 0
  match s.cached home ia with
  | none => s.pend home home r ia 0
  | some leaf => if leafPermits leaf r.kind.access then serve leaf else s.pend home home r ia 0

/-- Whether a request stands refused with a retry reply. -/
def State.refused (s : State) (tag : Nat) : Bool := s.md.reqs.any fun x => x.tag == tag && x.retryAt.isSome

/-- A request at the head of its link is looked at: discarded, retried, or translated and served; accepted, it returns the retry delay to
32 cc and steps the heat LFSR (R44, R59, R87, R89, R106, R109). -/
def State.lookAt (s : State) (home : Nat) (r : Req) (serve : BitVec 64 → State) : State :=
  let s1 :=
    if (s.func r.fn).flr != 0 && decide (r.src < 18) then s.dropReq r.tag
    else if !s.admits home r.src r.fn then s.retry home r
    else
      let t := s.translateReq home r serve
      if t.refused r.tag then t
      else
        let u := t.calmDelay home r.src
        if r.heats then u.heatStep home r.ctx ((r.lanes.head?.map (·.ia)).getD 0) else u
  s1.consume (portOfSource r.src) (portOfMemory home) 0

def State.acceptReq (s : State) (home : Nat) (r : Req) : State := s.lookAt home r (s.serveReq home r)

/-- HOME_REQUEST_ACCEPT (R44): the next request of a source die; renewals have an event of their own. DEDUCED, unsafe: log entry 36. -/
def execHomeRequestAccept (home src : Nat) (s : State) : Host.Outcome State Fault Refusal :=
  match s.nextReq home src (fun r => r.kind != .renew) s.md.reqs [] with
  | none => .refused (.notPending "HOME_REQUEST_ACCEPT")
  | some r => .next (s.acceptReq home r)

/-- Whether accesses of a request's sender may be checked: a group's own, but for the read of a LAUNCH's record (R128, R225). -/
def State.checkable (s : State) (r : Req) : Bool :=
  match r.who with
  | .op gid slot => ((s.group? gid).bind fun g => SMap.find? g.oplog slot).all fun o => o.kind != .launch
  | .store _ _ => true
  | _ => false

/-- A lane's IA and CHK under the segments as they stand now, or the cause of its segment fault (R113). -/
def State.reform (s : State) (r : Req) (l : LaneAcc) : Except Nat LaneAcc :=
  match r.who with
  | .op _ _ | .store _ _ | .copy _ _ _ =>
    (match s.ctx? r.ctx with
     | none => .error 0x10
     | some cx => match cx.translate l.va r.kind.access with
       | .ok p => .ok { l with ia := p.1, chk := p.2 && s.checkable r }
       | .error c => .error c)
  | _ => .ok l

/-- A request goes out again with the given lanes, one request per unit, in its old place in the requester's order (R41, R44). -/
def State.sendAgain (s : State) (r : Req) (ls : List LaneAcc) : State :=
  match perUnit ls with
  | [] => s.dropReq r.tag
  | u :: us =>
    let go (t : State) (q : Req) : State × Req :=
      let f := t.message (portOfSource q.src) (portOfHome (t.homeOf q)) 0
      (f.1, { q with ticket := f.2 })
    let base := { r with waiting := none, retryAt := none }
    let first := go s { base with lanes := u }
    let all := us.foldl (fun (a : State × List Req) v =>
      let x := go a.1 { base with lanes := v, tag := a.1.md.nextTag }
      (x.1.modMd fun m => { m with nextTag := m.nextTag + 1 }, a.2 ++ [x.2])) (first.1, [first.2])
    all.1.modMd fun m => { m with reqs := (m.reqs.map fun x => if x.tag = r.tag then all.2 else [x]).flatten }

/-- A request goes out again as it is (R44, R63): its segments stay those of its first issue (R98). -/
def State.resend (s : State) (r : Req) : State := s.sendAgain r r.lanes

/-- A woken request goes out again, its IAs formed anew from its VAs (R113). -/
def State.reissue (s : State) (r : Req) : State :=
  let ls := r.lanes.map fun l => (l, s.reform r l)
  let good := ls.filterMap fun x => match x.2 with | .ok l => some l | .error _ => none
  let bad := ls.filterMap fun x => match x.2 with | .ok _ => none | .error c => some (x.1.lane, c)
  (bad.foldl (fun t x => t.failReq r (bit x.1) x.2 0xFF) s).sendAgain r good

/-- The oldest refused request and cell request of a source toward a home whose retry reply has come and whose delay has passed (R44). -/
def State.dueReq (s : State) (home src : Nat) : Option Req :=
  s.md.reqs.find? fun r => r.src == src && s.homeOf r == home && s.landed r.reply && (r.retryAt.any fun t => decide (t ≤ s.now))
def State.dueCell (s : State) (home src : Nat) : Option CellReq :=
  s.md.cellReqs.find? fun c => c.src == src && s.cellHome c.cell == home && s.landed c.reply && (c.retryAt.any fun t => decide (t ≤ s.now))

/-- A refused cell request goes out again. -/
def State.resendCell (s : State) (c : CellReq) : State :=
  let f := s.message (portOfSource c.src) (portOfMemory (s.cellHome c.cell)) 0
  f.1.modMd fun m => { m with cellReqs := m.cellReqs.map fun x => if x.tag = c.tag then { c with retryAt := none, ticket := f.2 } else x }

/-- RETRY_RESEND (R44): the oldest refused request whose delay has passed. -/
def execRetryResend (home src : Nat) (s : State) : Host.Outcome State Fault Refusal :=
  match s.dueReq home src, s.dueCell home src with
  | some r, some c => .next (if r.tag < c.tag then s.resend r else s.resendCell c)
  | some r, none => .next (s.resend r)
  | none, some c => .next (s.resendCell c)
  | none, none => .refused (.notPending "RETRY_RESEND")

/-- HELD_WRITE_PERFORM (R47): the oldest held write of a home whose lines are free and unclaimed by an older one. -/
def State.heldReady (s : State) (home : Nat) : List HeldWrite → List Nat → Option HeldWrite
  | [], _ => none
  | h :: rest, taken =>
    let ps := h.req.ilines
    if s.homeOf h.req == home && ps.all (fun p => s.lineFree p && !taken.contains p) then some h
    else s.heldReady home rest (taken ++ ps)
def execHeldWritePerform (home : Nat) (s : State) : Host.Outcome State Fault Refusal :=
  match s.heldReady home s.md.held [] with
  | none => .refused (.notPending "HELD_WRITE_PERFORM")
  | some h =>
    let s1 := s.modMd fun m => { m with held := m.held.erase h }
    match s1.compressWrite home h.req h.leaf with
    | some s2 => .next s2
    | none =>
      -- a write of the device itself has nobody who could wait for the block: it stands
      if h.req.src = 99 then .next (s1.performStore home h.req h.leaf)
      else .next ((s1.putReq h.req).refuseWrite home h.req ((h.req.lanes.head?.map (·.ia)).getD 0))

/-- COMPRESS_OVERFLOW records that writes of the device itself owe are written (R57, R67). -/
def State.writeOverflows (s : State) : Host.Outcome State Fault Refusal :=
  match s.md.overflows with
  | [] => .refused (.notPending "COMPRESS_OVERFLOW")
  | x :: rest => .next ((s.modMd fun m => { m with overflows := rest }).memRecord 0x0301 0 x.1 x.2.1 x.2.2.1 x.2.2.2)

/-! ### Parity and acknowledgements (R42, R45, R64) -/

/-- 64 µs in cc. -/
def tagLife : Nat := 128000

/-- The oldest delta that has reached a parity die and that no earlier one of its stripe precedes. -/
def State.nextDelta (s : State) (die : Nat) : List Delta → List Nat → Option Delta
  | [], _ => none
  | d :: rest, stripes =>
    if d.pdie == die && s.landed d.ticket && !stripes.contains d.stripe then some d
    else s.nextDelta die rest (if d.pdie == die then stripes ++ [d.stripe] else stripes)

/-- The parity die's block takes the granules it needs; the home has seen to it that there are enough, but for writes accepted meanwhile,
which cannot be refused any more. DESIGN CHOICE, unsafe: log entry 124. -/
def State.fitParity (s : State) (ctx die block : Nat) : State :=
  match s.fitBlock true ctx die block with
  | some p => if p.2 = 0 then p.1 else p.1.memRecord 0x0301 0 die ctx p.2 0
  | none => s

/-- PARITY_DELTA (R64): a parity die applies the oldest delta that has reached it, once, keeps its tag and acknowledges it in class 2; a
block of a Z page that holds the parity unit is compressed anew (R56). -/
def execParityDelta (die : Nat) (s : State) : Host.Outcome State Fault Refusal :=
  match s.nextDelta die s.md.deltas [] with
  | none => .refused (.notPending "PARITY_DELTA")
  | some d =>
    let again := s.md.tags.any fun t => t.1 == d.tag && t.2.1 == die
    let f := s.message (portOfMemory die) (portOfMemory d.home) 2
    let s0 : State := { f.1 with mem := if again || !s.keepsParity then f.1.mem else applyParity f.1.mem d.stripe d.pdie d.bytes }
    let s1 := s0.modMd fun m => { m with
      deltas := m.deltas.erase d
      parityAcks := m.parityAcks ++ [{ d with ticket := f.2 }]
      tags := (m.tags.filter fun t => s.now < t.2.2.1 + tagLife) ++ (if again then [] else [(d.tag, die, s.now, d.results)]) }
    let s2 := if leafZ d.leaf && !again && s.keepsParity then s1.fitParity d.req.ctx die (d.stripe / 8) else s1
    .next (s2.consume (portOfMemory d.home) (portOfMemory die) 2)

/-- The far accesses that may complete now: those that have reached the bridge and that no earlier one to a line of theirs, or earlier in the
order of a function's posted writes, precedes (R72, R73, R213, R219). -/
def State.uioReady (s : State) : List HeldWrite → List HeldWrite → List HeldWrite
  | [], _ => []
  | h :: rest, before =>
    let later := s.uioReady rest (before ++ [h])
    let stuck := before.any fun e => e.req.ilines.any (h.req.ilines.contains ·)
      || (match h.req.who with | .host _ => (s.orderOf h.req).isSome && s.orderOf e.req == s.orderOf h.req | _ => false)
    if s.landed h.req.ticket && !stuck then h :: later else later

/-- UIO_COMPLETION (R73): one of the far accesses that the host bridge has completes; otherwise they are unordered on the link. DESIGN CHOICE,
safe: log entry 34. -/
def execUioCompletion (s : State) : Host.Outcome State Fault Refusal :=
  let there := s.uioReady s.md.uio []
  match there[Config.freePick s.free % max 1 there.length]? with
  | none => .refused (.notPending "UIO_COMPLETION")
  | some h =>
    let s1 := { s.modMd fun m => { m with uio := m.uio.erase h } with free := s.free + 1 }
    .next (match h.req.kind with
      | .load | .copyRead => s1.performLoad 17 h.req h.leaf
      | _ => s1.performStore 17 h.req h.leaf)

/-- WRITE_CLASS_DECAY (R46): one step down after 4,096 cc without a write. -/
def execWriteClassDecay (line : Nat) (s : State) : Host.Outcome State Fault Refusal :=
  let l := SMap.get Line.reset s.md.lines line
  if l.wclass = 0 || s.now < l.wclassAt + 4096 then .refused (.notPending "WRITE_CLASS_DECAY")
  else .next (s.modMd fun m => { m with
    lines := SMap.set Line.reset m.lines line { l with wclass := l.wclass - 1, wclassAt := l.wclassAt + 4096 } })

end Sys2Proof.Machine
end

