-- ==== Sys2Proof/Machine/Xlate.lean ====
section
/-! DEFINITION. Machine/Xlate.lean: gathering faults at the control die, walks, fills, firmware's answers, invalidations and
page migration (R100 to R112, R120 to R122). -/

namespace Sys2Proof.Machine

/-! ### The collapse stage (R110) -/

/-- 1 µs and 64 µs in cc. -/
def missDelay : Nat := 2000

/-- The PAs of the entries that a walk for an IA reads (R107). -/
def entriesFrom (s : State) (ia : Nat) : Nat → Nat → List Nat
  | 0, t => [t + 8 * (ia / 2 ^ 12 % 512)]
  | l + 1, t =>
    let a := t + 8 * (ia / 2 ^ levelShift (l + 1) % 512)
    let e := s.entryAt a
    a :: (if e.getLsbD 0 && e.getLsbD 1 && !malformed (l + 1) e then entriesFrom s ia l (bits e.toNat 12 40 * 4096) else [])
def State.walkPath (s : State) (ia : Nat) : List Nat := entriesFrom s (ia % 2 ^ 52) 4 s.xl.xroot

/-- A walker's reads of some entries and their answers travel in class 2 (R14, R107). -/
def State.walkReads (s : State) (pas : List Nat) : State × List Ticket :=
  pas.foldl (fun a pa =>
    let home := portOfMemory (a.1.servingDie pa)
    let f := a.1.message controlPort home 2
    let g := f.1.message home controlPort 2
    (g.1, a.2 ++ [f.2, g.2])) (s, [])

/-- A miss record joins its page's collapse entry, or opens one and starts a walk; none when all 1,024 are open. The record shows the context of
the first miss (R112). -/
def State.collapse (s : State) (m : MissRec) : Option State :=
  let put (c : Collapse) : State := s.modXl fun x => { x with collapse := SMap.put x.collapse m.page c }
  match SMap.find? s.xl.collapse m.page with
  | some c =>
    some (put { c with dies := c.dies ||| BitVec.ofNat 18 (2 ^ m.die), waiters := c.waiters + m.waiters, types := c.types ||| m.types,
                       time := min c.time m.time, ctx := if m.time < c.time then m.ctx else c.ctx
                       reason := if c.reason = 0 then m.reason else c.reason })
  | none =>
    if 1024 ≤ (SMap.entries s.xl.collapse).length then none
    else
      let w := s.walkReads (s.walkPath (m.page * 4096))
      let c : Collapse := { dies := BitVec.ofNat 18 (2 ^ m.die), waiters := m.waiters, overflow := false, types := m.types, ctx := m.ctx,
                            time := m.time, reason := m.reason, walking := true, reads := w.2 }
      some (w.1.modXl fun x => { x with collapse := SMap.put x.collapse m.page c })

/-- MISS_RECORD (R110): the oldest miss record that has come reaches the collapse stage; with no entry free it is refused in class 2. -/
def execMissRecord (s : State) : Host.Outcome State Fault Refusal :=
  match s.xl.missQ.find? fun m => s.landed m.ticket with
  | none => .refused (.notPending "MISS_RECORD")
  | some m =>
    let s1 := s.modXl fun x => { x with missQ := x.missQ.erase m }
    match s1.collapse m with
    | some s2 => .next s2
    | none =>
      let f := s1.message controlPort (portOfHome m.die) 2
      .next (f.1.modXl fun x =>
        { x with refusals := x.refusals + 1, refused := x.refused ++ [({ m with ticket := f.2 }, missDelay, s.now + missDelay)] })

/-- MISS_RECORD_RESEND (R110): a refused record is sent again once the refusal has come and the delay has passed; the delay doubles up
to 64 µs. -/
def execMissRecordResend (die page : Nat) (s : State) : Host.Outcome State Fault Refusal :=
  match s.xl.refused.find? fun r => r.1.die == die && r.1.page == page && decide (r.2.2 ≤ s.now) && s.landed r.1.ticket with
  | none => .refused (.notPending "MISS_RECORD_RESEND")
  | some r =>
    let f := s.message (portOfHome die) controlPort 2
    let s1 := f.1.modXl fun x => { x with refused := x.refused.erase r }
    match s1.collapse { r.1 with ticket := f.2 } with
    | some s2 => .next s2
    | none =>
      let d := min (64 * missDelay) (2 * r.2.1)
      .next (s1.modXl fun x => { x with refusals := x.refusals + 1, refused := x.refused ++ [(r.1, d, s.now + d)] })

/-! ### Fills, wakes and answers -/

/-- Whether a page lies in the page that a leaf maps around an IA page. -/
def covers (leaf : BitVec 64) (page other : Nat) : Bool :=
  page * 4096 / 2 ^ sizeLog (leafSize leaf) == other * 4096 / 2 ^ sizeLog (leafSize leaf)

/-- The dies of a set. -/
def diesOf (m : BitVec 18) : List Nat := (List.range 18).filter fun d => m.getLsbD d

/-- A page's gatherings are settled with a leaf: fills go to every die concerned in class 2, and the entries it covers close (R109). -/
def State.fillPage (s : State) (page : Nat) (leaf : BitVec 64) : State :=
  let mine := (SMap.entries s.xl.collapse).filter fun c => covers leaf page c.1
  let ds := diesOf (mine.foldl (fun m c => m ||| c.2.dies) 0)
  let s1 := s.modXl fun x => { x with
    collapse := mine.foldl (fun m c => SMap.del m c.1) x.collapse
    faultQ := x.faultQ.filter fun f => !covers leaf page (f.ia / 4096) }
  ds.foldl (fun t d =>
    let f := t.message controlPort (portOfHome d) 2
    f.1.modXl fun x => { x with fills := x.fills ++ [{ die := d, page := page, leaf := leaf, ticket := f.2 }] }) s1

/-- Every kind of requester that R109 names: they are answered when a merge entry has overflowed (R111). -/
def State.everyone (s : State) : List Waiter :=
  ((SMap.entries s.groups).map fun g => Waiter.group g.1) ++ (List.range 64).map Waiter.copy ++ (List.range 17).map Waiter.memop ++ [.host, .box]

/-- Everyone who is answered for a page of a die: the recorded waiters, and all others when the entry overflowed (R111). -/
def State.waitersOf (s : State) (m : Merge) : List Waiter :=
  if !m.overflow then m.waiters else (m.waiters ++ s.everyone).eraseDups

/-- The port where a waiter is. -/
def State.waiterPort (s : State) (w : Waiter) : Nat :=
  match w with
  | .group gid => portOfSource (((s.group? gid).bind fun g => (s.block? g.bid).map fun b => dieOf (g.coreOf b)).getD 0)
  | .copy core => portOfSource (dieOf core)
  | .memop die => portOfMemory die
  | .host | .box => controlPort

/-- Sends an answer in class 1 to every waiter of a page at a die and closes its merge entry. -/
def State.answerPage (s : State) (die page : Nat) (final : Option (Rights × Nat)) : State :=
  let k := pageKey die (page * 4096)
  match SMap.find? s.xl.merge k with
  | none => s
  | some m =>
    (s.waitersOf m).foldl (fun t w =>
      let f := t.message (portOfHome die) (t.waiterPort w) 1
      f.1.modXl fun x => { x with answers := x.answers ++ [{ die := die, page := page, waiter := w, final := final, ticket := f.2 }] })
      (s.modXl fun x => { x with merge := SMap.del x.merge k })

/-- The 64 bytes of a page fault record (R112). -/
def FaultRec.bytes (f : FaultRec) : List (BitVec 8) :=
  toBytes 8 f.ia ++ toBytes 8 f.entry.toNat ++ toBytes 4 f.dies.toNat ++ toBytes 2 f.waiters ++ toBytes 1 (if f.overflow then 1 else 0)
    ++ toBytes 1 f.access.toNat ++ toBytes 1 f.reason ++ toBytes 1 f.level ++ toBytes 2 f.ctx ++ toBytes 4 f.seq ++ toBytes 8 f.time
    ++ List.replicate 24 0

/-- PAGE_WALK_DONE (R107, R110): one of at most 32 running walks ends in fills or in a page fault record. -/
def execPageWalkDone (page : Nat) (s : State) : Host.Outcome State Fault Refusal :=
  match SMap.find? s.xl.collapse page with
  | none => .refused (.notPending "PAGE_WALK_DONE")
  | some c =>
    let older := (SMap.entries s.xl.collapse).filter fun x => x.2.walking && decide (x.2.time < c.time)
    if !c.walking || 32 ≤ older.length || !c.reads.all s.landed then .refused (.notPending "PAGE_WALK_DONE")
    else
      let fault (reason level : Nat) (e : BitVec 64) : State :=
        let ms := (diesOf c.dies).filterMap fun d => SMap.find? s.xl.merge (pageKey d (page * 4096))
        let ov := ms.any (·.overflow)
        let n := (ms.map fun m => if m.overflow then 64 else m.waiters.length).sum
        let f : FaultRec := { ia := page * 4096, entry := e, dies := c.dies, waiters := n, overflow := ov, access := c.types.shown,
                              reason := reason, level := level, ctx := c.ctx, seq := s.xl.faultSeq, time := c.time }
        s.modXl fun x => { x with
          collapse := SMap.put x.collapse page { c with walking := false, waiters := n, overflow := ov, reads := [] }
          faultQ := x.faultQ ++ [f]
          faultSeq := (x.faultSeq + 1) % 2 ^ 32 }
      match s.walk (page * 4096) with
      | .leaf e =>
        if c.reason != 0 then .next (fault c.reason (sizeLevel (leafSize e)) e)
        else if leafPermits e c.types then .next (s.fillPage page e)
        else .next (fault 1 (sizeLevel (leafSize e)) e)
      | .stop r l e => .next (fault r l e)

/-- A die's translation cache takes an entry; of 16,384 that it holds one makes room (R106). -/
def State.cacheLeaf (s : State) (die page : Nat) (leaf : BitVec 64) : State :=
  let mine := (s.xl.tlb.filter fun e => e.1 / 2 ^ 40 == die).map (·.1)
  let out := if mine.length < 16384 then none else mine[Config.freePick s.free % mine.length]?
  { s with
    free := if out.isSome then s.free + 1 else s.free
    xl := { s.xl with tlb := SMap.set 0 (s.xl.tlb.filter fun e => some e.1 != out) (pageKey die (page * 4096)) leaf } }

/-- FILL_INSTALL (R110, R111): a die installs the oldest fill that has come and wakes the waiters it settles. One that an invalidation has
overtaken is not kept: its waiters ask again (R108). -/
def execFillInstall (die : Nat) (s : State) : Host.Outcome State Fault Refusal :=
  match s.xl.fills.find? fun f => f.die == die && s.landed f.ticket with
  | none => .refused (.notPending "FILL_INSTALL")
  | some f =>
    let s0 := s.modXl fun x => { x with fills := x.fills.erase f }
    let s1 := if f.leaf.getLsbD 0 then s0.cacheLeaf die f.page f.leaf else s0
    let pages := ((SMap.entries s1.xl.merge).filter fun m => m.1 / 2 ^ 40 == die && covers f.leaf f.page (m.1 % 2 ^ 40)).map fun m => m.1 % 2 ^ 40
    .next (pages.foldl (fun t p => t.answerPage die p none) s1)

/-- The leaf through which firmware and the engines of the control die write table pages and frames: device memory under the PF's key. -/
def deviceLeaf : BitVec 64 := 0x1D

/-- The shadows of a page's sectors are zeroed when an entry maps it that did not map it before (R222). -/
def State.freshShadow (s : State) (old new : BitVec 64) : State :=
  let leaf (e : BitVec 64) : Bool := e.getLsbD 0 && !e.getLsbD 1
  if !leaf new || leafF new || (leaf old && !leafF old && leafFrame old == leafFrame new) then s
  else
    let lo := leafFrame new / 4096
    let hi := lo + 2 ^ sizeLog (leafSize new) / 4096
    s.modMd fun m => { m with shadow := m.shadow.filter fun x => !(decide (lo ≤ 32 * x.1 / 4352) && decide (32 * x.1 / 4352 < hi)) }

/-- Firmware's writes of entries, with their parity; a page that holds a table level has IA equal to PA (R100). -/
def State.fwApply (s : State) : State :=
  (s.xl.fwWrites.foldl (fun t w =>
    (t.freshShadow (t.entryAt w.1) w.2).firmwareWrite 0 w.1 (t.unitSpot (w.1 / 4096) w.1) deviceLeaf (toBytes 8 w.2.toNat)) s).modXl fun x =>
      { x with fwWrites := [] }

/-- Closes the collapse entries of some pages and answers their waiters at every die concerned. -/
def State.settle (s : State) (pages : List Nat) (final : Option (Rights × Nat)) : State :=
  pages.foldl (fun t p =>
    match SMap.find? t.xl.collapse p with
    | none => t
    | some c =>
      (diesOf c.dies).foldl (fun u d => u.answerPage d p final)
        (t.modXl fun x => { x with collapse := SMap.del x.collapse p, faultQ := x.faultQ.filter fun f => f.ia != p * 4096 })) s

/-- The open pages that an answer for a page settles: all of the larger page that a leaf maps there (R109). -/
def State.settledPages (s : State) (page : Nat) : List Nat :=
  match s.walk (page * 4096) with
  | .leaf e => ((SMap.entries s.xl.collapse).map (·.1)).filter fun p => covers e page p
  | .stop _ _ _ => [page]

/-- Firmware answers ready for a page (R111): fills where the table now maps it, else the waiters are woken. -/
def State.ready (s : State) (page : Nat) : State :=
  match SMap.find? s.xl.collapse page with
  | none => s
  | some _ =>
    match s.walk (page * 4096) with
    | .leaf e => s.fillPage page e
    | .stop _ _ _ => s.settle [page] none

/-- FAULT_READY (R108, R111): the entry has been written. DESIGN CHOICE, safe: log entry 109. -/
def execFaultReady (page : Nat) (s : State) : Host.Outcome State Fault Refusal :=
  match SMap.find? s.xl.collapse page with
  | some c => if c.walking then .refused (.notPending "FAULT_READY") else .next (s.fwApply.ready page)
  | none => .refused (.notPending "FAULT_READY")

/-- FAULT_FINAL (R109, R111): final for the access types of a mask, at every entry that the answer's page covers; the other waiters are
woken. -/
def execFaultFinal (page : Nat) (types : BitVec 5) (s : State) : Host.Outcome State Fault Refusal :=
  match SMap.find? s.xl.collapse page with
  | some c =>
    if c.walking then .refused (.notPending "FAULT_FINAL")
    else
      let reason := ((s.xl.faultQ.find? fun f => f.ia == page * 4096).map (·.reason)).getD 0
      .next (s.settle (s.settledPages page) (some (types.setWidth 7, reason)))
  | none => .refused (.notPending "FAULT_FINAL")

/-! ### Invalidation (R108) -/

/-- A die drops the cached entries that overlap an IA range, and keeps none of the fills for the range that were sent to it before: they only
wake their waiters. -/
def State.dropRange (s : State) (die lo hi : Nat) : State :=
  let meets (page : Nat) (e : BitVec 64) : Bool :=
    let sz := 2 ^ sizeLog (leafSize e)
    let a := page * 4096 / sz * sz
    decide (a ≤ hi) && decide (lo < a + sz)
  s.modXl fun x => { x with
    tlb := x.tlb.filter fun e => !(e.1 / 2 ^ 40 == die && meets (e.1 % 2 ^ 40) e.2)
    fills := x.fills.map fun f => if f.die = die ∧ meets f.page f.leaf = true then { f with leaf := f.leaf &&& ~~~1 } else f }

/-- An invalidation goes to the memory dies that serve and to the host bridge, in class 2. -/
def State.invalidate (s : State) (lo hi : Nat) : State :=
  let ds := ((List.range 17).filter fun d => !s.dieGone d) ++ [17]
  let r := ds.foldl (fun (a : State × List (Nat × Ticket)) d =>
    let f := a.1.message controlPort (portOfHome d) 2
    (f.1, a.2 ++ [(d, f.2)])) (s, [])
  r.1.modXl fun x => { x with invals := x.invals ++ [{ lo := lo, hi := hi, todo := r.2, fin := [], acks := [] }] }

/-- A die has finished every request it accepted with an entry of the range: no write is held there, no unit of a MEMOP is in process there and,
at the host bridge, no far access is under way. -/
def State.rangeDone (s : State) (die lo hi : Nat) : Bool :=
  let inside (r : Req) : Bool := r.lanes.any fun l => decide (lo ≤ l.ia) && decide (l.ia ≤ hi)
  if die = 17 then !s.md.uio.any fun h => inside h.req
  else (!s.md.held.any fun h => s.homeOf h.req == die && inside h.req)
    && !s.md.memops.any fun m => m.open_.any fun u => u.home == die && decide (lo < u.ia + u.bytes) && decide (u.ia ≤ hi)

/-- The next thing an invalidation does: a die drops the range, or acknowledges once its accepted requests are done, or the last
acknowledgement ends it. -/
def State.invalStep (s : State) (v : Inval) : Option State :=
  let put (t : State) (v' : Inval) : State := t.modXl fun x => { x with invals := x.invals.map fun y => if y = v then v' else y }
  match v.todo.find? fun d => s.landed d.2 with
  | some d => some (put (s.dropRange d.1 v.lo v.hi) { v with todo := v.todo.erase d, fin := v.fin ++ [d.1] })
  | none =>
    match v.fin.find? fun d => s.rangeDone d v.lo v.hi with
    | some d =>
      let f := s.message (portOfHome d) controlPort 2
      some (put f.1 { v with fin := v.fin.erase d, acks := v.acks ++ [f.2] })
    | none =>
      if v.todo.isEmpty && v.fin.isEmpty && v.acks.all s.landed then some (s.modXl fun x => { x with invals := x.invals.erase v }) else none

/-- TLB_INVALIDATION (R108): firmware's writes stand and the range goes to every die; the same event again carries an invalidation under
way on. -/
def execTlbInvalidation (lo hi : Nat) (s : State) : Host.Outcome State Fault Refusal :=
  match s.xl.invals.find? fun v => v.lo == lo && v.hi == hi with
  | none => .next (s.fwApply.invalidate lo hi)
  | some v => match s.invalStep v with
    | some t => .next t
    | none => .refused (.notPending "TLB_INVALIDATION")

/-- PENDING_REPLY (R109, R114): the oldest pending reply reaches its requester, whose request waits from then on. -/
def execPendingReply (s : State) : Host.Outcome State Fault Refusal :=
  match s.xl.pendings with
  | [] => .refused (.notPending "PENDING_REPLY")
  | _ :: rest => .next (s.modXl fun x => { x with pendings := rest })

/-! ### Migration (R120 to R122) -/

/-- The PA of the entry that a walk for an IA ends at. -/
def State.entryPA (s : State) (ia : Nat) : Nat := (s.walkPath ia).getLast?.getD 0

/-- An entry with some of its fields changed: V, W, F and FRAME. -/
def entryWith (e : BitVec 64) (v w f : Bool) (frame : Nat) : BitVec 64 :=
  let put (x : BitVec 64) (i : Nat) (b : Bool) : BitVec 64 :=
    if b then x ||| BitVec.ofNat 64 (2 ^ i) else x &&& ~~~(BitVec.ofNat 64 (2 ^ i))
  let clear : BitVec 64 := e &&& ~~~(BitVec.ofNat 64 ((2 ^ 40 - 1) * 2 ^ 12))
  put (put (put clear 0 v) 3 w) 8 f ||| BitVec.ofNat 64 (frame % 2 ^ 40 * 2 ^ 12)

/-- Firmware writes an entry into every place that holds it (R103). -/
def State.writeEntry (s : State) (at_ : Nat) (e : BitVec 64) : State :=
  let n := 2 ^ (sizeLog (leafSize e) - levelShift (sizeLevel (leafSize e)))
  let a := at_ / (8 * n) * (8 * n)
  (s.modXl fun x => { x with fwWrites := x.fwWrites ++ (List.range n).map fun k => (a + 8 * k, e) }).fwApply

/-- Copies one 256-byte unit of a page, poison included, and answers the mask of its poisoned sectors (R120, R121); none when the block of a
compressed page has no room for it (R57). -/
def State.moveUnit (s : State) (old new : BitVec 64) (ia : Nat) : Option (State × Nat) :=
  let src := s.place old ia
  let dst := s.place new ia
  let bad := (List.range 8).filter fun i => s.poisonedAt (leafF old) (ia + 32 * i) (src + 32 * i)
  let w := (List.range 256).map fun k => (dst + k, s.byteAt old (src + k))
  let keyed := if leafF new then s else (List.range 8).foldl (fun t i => t.rekey new (dst / 32 + i)) s
  let d := if leafF new then [] else w.map fun x => (x.1 % 256, Memory.read s.mem x.1 ^^^ x.2)
  let s1 : State := if leafF new then { keyed with far := w.foldl (fun m x => SMap.set 0 m x.1 x.2) s.far }
    else { keyed with mem := Memory.writeAll keyed.mem w }
  let s2 := s1.modMd fun m => { m with
    nextTag := m.nextTag + 1
    poison := (List.range 8).foldl (fun q i => SMap.set false q (poisonKey (leafF new) (dst + 32 * i)) (bad.contains i)) m.poison
    cleared := if leafF new || m.failed == 0 then m.cleared
      else (List.range 8).foldl (fun q i => SMap.set false q (dst / 32 + i) true) m.cleared }
  let s3 := s2.sendDelta { tag := s1.md.nextTag, home := s.servingDie ia, pdie := parityDie ia, stripe := dst / 4352, bytes := d,
                           req := deviceReq 0 ia [], results := [], flags := [], poison := 0, leaf := new, ticket := Ticket.here }
  (if leafZ new && !leafF new then s3.recompress 0 (dieOfPlace dst) (blockOf dst) ia else some s3).map fun t =>
    (t, (bad.map fun i => 2 ^ i).sum)

/-- The ports between which a unit of a migrating page travels in class 2: its home, or the host bridge for far memory (R14, R120). -/
def State.movePorts (s : State) (old new : BitVec 64) (ia : Nat) : Nat × Nat :=
  let at_ (e : BitVec 64) : Nat := if leafF e then controlPort else portOfMemory (s.servingDie ia)
  (at_ old, at_ new)

/-- The size of a migration's page and its first IA. -/
def Migration.size (m : Migration) : Nat := 2 ^ sizeLog (leafSize m.old)
def Migration.base (m : Migration) : Nat := m.page * 4096 / m.size * m.size
/-- The entry that the page has at the end. -/
def Migration.new (m : Migration) : BitVec 64 := entryWith m.old true (leafW m.old) m.far m.newFrame
/-- Poisoned sectors read so far. -/
def Migration.poisoned (m : Migration) : Nat := (m.bad.map fun b => popcount 8 b.2).sum

/-- A migration record goes to the log of the function that the page's KEY names (R122). -/
def State.migRecord (s : State) (m : Migration) (type cnt mask ia : Nat) : State :=
  s.logRecord (leafKey m.old) (if leafKey m.old = 0 then 2 else 0) (eventBytes type 1 (homeDie m.base) 0xFFFF cnt mask ia s.now)

/-- Whether an invalidation of a migration's page is under way. -/
def State.invalidating (s : State) (m : Migration) : Bool := s.xl.invals.any fun v => v.lo == m.base && v.hi == m.base + m.size - 1
def State.invalidatePage (s : State) (m : Migration) : State := s.invalidate m.base (m.base + m.size - 1)

/-- Step 4 of R120: firmware answers ready for every open gathering on the page, and the migration is over. -/
def State.endMigration (s : State) (m : Migration) : State :=
  let pages := ((SMap.entries s.xl.collapse).map (·.1)).filter fun p => p * 4096 / m.size == m.base / m.size
  pages.foldl (fun t p => t.ready p) (s.modXl fun x => { x with migration := none })

/-- The next thing a migration does (R120, R121). -/
def State.migrate (s : State) (m : Migration) : Option State :=
  let put (t : State) (m' : Migration) : State := t.modXl fun x => { x with migration := some m' }
  if s.invalidating m then none
  else if m.stage = 1 then some (put s { m with stage := 2 })
  else if m.stage = 2 then
    let abort : State :=
      let back := s.writeEntry m.entryAt m.old
      put (if m.live then back.invalidatePage m else back) { m with stage := 4 }
    if m.abortAt = some m.unit then some abort
    else if m.unit < m.size / 256 then
      let ia := m.base + 256 * m.unit
      match m.flit with
      | none =>
        let p := s.movePorts m.old m.new ia
        let f := s.message p.1 p.2 2
        some (put f.1 { m with flit := some f.2 })
      | some k =>
        if !s.landed k then none
        else match s.moveUnit m.old m.new ia with
          | none => some abort
          | some r => some (put r.1 { m with unit := m.unit + 1, flit := none, bad := if r.2 = 0 then m.bad else m.bad ++ [(m.unit, r.2)] })
    else
      let s1 := s.writeEntry m.entryAt m.new
      let s2 := m.bad.foldl (fun t b => t.migRecord m 0x0502 m.poisoned b.2 (m.base + 256 * b.1)) s1
      let s3 := { s2 with l1 := s2.l1.filter fun x => x.1 % 2 ^ 45 * 128 / m.size != m.base / m.size }
      some (put (if m.live then s3.invalidatePage m else s3) { m with stage := 3 })
  else if m.stage = 3 then some (s.endMigration m)
  else some ((s.migRecord m 0x0501 m.unit 0 m.base).endMigration m)

/-- MIGRATION (R120, R121): the page that holds the IA page moves to a frame of device or far memory, or a faulting unit aborts it. The
old entry is the valid leaf, or an invalid entry that keeps its leaf fields. A live page first loses W; the same event again carries a
migration under way on. DEDUCED, unsafe: log entry 51. -/
def execMigration (page newFrame : Nat) (far : Bool) (abortAt : Option Nat) (s : State) : Host.Outcome State Fault Refusal :=
  match s.xl.migration with
  | some m =>
    (match if m.page = page then s.migrate m else none with
     | some t => .next t
     | none => .refused (.notPending "MIGRATION"))
  | none =>
    let at_ := s.entryPA (page * 4096)
    let e := s.entryAt at_
    let sz := 2 ^ sizeLog (leafSize e)
    if e.getLsbD 1 || newFrame * 4096 % sz != 0 || (!far && deviceTop < newFrame * 4096 + sz) || (e.getLsbD 0 = false && !leafF e) then
      .refused (.notPending "MIGRATION")
    else
      let m : Migration := { page := page, newFrame := newFrame, far := far, abortAt := abortAt, entryAt := at_, old := e,
                             live := e.getLsbD 0, stage := if e.getLsbD 0 then 1 else 2, unit := 0, bad := [], flit := none }
      let s1 := s.modXl fun x => { x with migration := some m }
      .next (if m.live then (s1.writeEntry at_ (entryWith e true false (leafF e) (bits e.toNat 12 40))).invalidatePage m else s1)

end Sys2Proof.Machine
end

