-- ==== Sys2Proof/Machine/Copy.lean ====
section
/-! DEFINITION. Machine/Copy.lean: the copy engine: CPY, CPYM, CPYR, CPYG, CPYX, and the events COPY_ADMIT and
COPY_UNIT_DELIVER (R239 to R250, R406 to R408). -/

namespace Sys2Proof.Machine

/-! ### Fetches and the signal box at homes (R44, R109, R116, R146) -/

/-- How such an access to a unit stands: its leaf, waiting on a page, refused with a retry reply, or waiting for its delay. -/
inductive Reach where
  | ok (leaf : BitVec 64)
  | pend (page : Nat)
  | retry
  | later
  deriving DecidableEq, Repr

/-- An instruction fetch or the signal box as a requester: who waits, its source die and its function. -/
structure Engine where
  w : Waiter
  src : Nat
  fn : Nat
  deriving DecidableEq, Repr

/-- Its access reaches the home of an IA in class 0: refused with a retry reply, after which it tries again once the delay has passed (R44),
or accepted and translated, or gathered with it as waiter (R109). DEDUCED, safe: log entry 29. -/
def State.engineAt (s : State) (e : Engine) (ctx ia : Nat) (t : Rights) : State × Reach :=
  let home := s.servingDie ia
  if s.md.backoff.any fun x => x.1 == e.w && x.2.1 == home && decide (s.now < x.2.2) then (s, .later)
  else
    let s0 := (s.message (portOfSource e.src) (portOfMemory home) 0).1.modMd fun m =>
      { m with backoff := m.backoff.filter fun x => !(x.1 == e.w && x.2.1 == home) }
    let answer (u : State) : State := (u.message (portOfMemory home) (portOfSource e.src) 1).1
    let refuse : State × Reach :=
      (((answer s0).modMd fun m => { m with backoff := m.backoff ++ [(e.w, home, s.now + s.retryDelay home e.src)] }).bumpDelay home e.src,
       .retry)
    let miss (die reason : Nat) : State × Reach :=
      match s0.gather die ia t e.w ctx reason with
      | none => refuse
      | some s1 => ((answer s1).calmDelay home e.src, .pend (ia / 4096))
    if !s.admits home e.src e.fn then refuse
    else match s.cached home ia with
    | none => miss home 0
    | some leaf =>
      if !leafPermits leaf t then miss home 0
      else if leafF leaf && !s.farUp then miss 17 4
      else ((answer s0).calmDelay home e.src, .ok leaf)

/-! ### Map records (R241) -/

/-- A map record's fields; dimensions at or above ndim count as one element of no pitch. -/
structure MapRec where
  base : Nat
  esize : Nat
  ndim : Nat
  fmode : Nat
  ftype : Nat
  fill : Nat
  ext : List Nat
  pitch : List Nat
  box : List Nat
  reserved : Bool
  deriving DecidableEq, Repr
def fieldOf (m : List (BitVec 8)) (o n : Nat) : Nat := ofBytes ((m.drop o).take n)
def mapOf (m : List (BitVec 8)) : MapRec :=
  let nd := fieldOf m 9 1
  let used (i x z : Nat) : Nat := if i < nd then x else z
  { base := fieldOf m 0 8, esize := fieldOf m 8 1, ndim := nd, fmode := fieldOf m 10 1 % 4, ftype := fieldOf m 10 1 / 4 % 4,
    fill := fieldOf m 12 4
    ext := (List.range 5).map fun i => used i (fieldOf m (16 + 4 * i) 4) 1
    pitch := (List.range 5).map fun i => if i = 0 then fieldOf m 11 1 else used i (fieldOf m (32 + 4 * i) 4) 0
    box := (List.range 5).map fun i => used i (fieldOf m (52 + 2 * i) 2) 1
    reserved := fieldOf m 10 1 / 16 != 0 || fieldOf m 62 2 != 0 || fieldOf m 0 8 / 2 ^ 56 != 0 }
def MapRec.bytes (m : MapRec) : Nat := 2 ^ m.esize
def MapRec.fw (m : MapRec) : Nat := if m.ftype = 3 then 8 else if m.ftype = 2 then 4 else 2
def MapRec.elements (m : MapRec) : Nat := m.box.foldl (· * ·) 1

/-- The fill of an element outside the bounds (R241). -/
def MapRec.fillBytes (m : MapRec) : List (BitVec 8) :=
  let pat : List (BitVec 8) :=
    if m.fmode = 0 then [0]
    else if m.fmode = 1 then
      let f := if m.ftype = 0 then Fmt.f16 else if m.ftype = 1 then Fmt.bf16 else if m.ftype = 2 then Fmt.f32 else Fmt.f64
      toBytes m.fw f.nan
    else toBytes 4 m.fill
  (List.range m.bytes).map fun k => pat.getD (k % pat.length) 0

/-- Malformed record (R246). -/
def MapRec.bad (m : MapRec) : Bool :=
  let dims (l : List Nat) : List Nat := l.take m.ndim
  m.ndim == 0 || 5 < m.ndim || 4 < m.esize || m.reserved || m.fmode == 3 || (dims m.box).any (· == 0)
    || (dims m.ext).any (fun e => e == 0 || 2 ^ 31 ≤ e) || (m.pitch.getD 0 0) == 0 || (dims m.pitch).any (· == 0)
    || (m.fmode == 1 && m.bytes < m.fw) || m.base % m.bytes != 0

/-! ### Commands (R240) -/

def CopyCmd.reg (c : CopyCmd) (i : Nat) : Nat := (c.regs.getD i 0).toNat
def CopyCmd.mapVA (c : CopyCmd) : Nat := c.reg 0 + c.reg 1 * 2 ^ 32
def CopyCmd.off (c : CopyCmd) : Nat := bits (c.reg 2) 0 20
def CopyCmd.rec_ (c : CopyCmd) : MapRec := mapOf c.map
def CopyCmd.toGlobal (c : CopyCmd) : Bool := bitAt c.mode 0
def CopyCmd.spread (c : CopyCmd) : Bool := bitAt c.mode 1
/-- The coordinate of dimension i of a command's first element. -/
def CopyCmd.coord (c : CopyCmd) (i : Nat) : Int :=
  if c.kind = 4 then (if i = 0 then sext 32 (c.reg 6) else 0) else sext 32 (c.reg (3 + i))
/-- VA and count of the index list or row table. -/
def CopyCmd.listVA (c : CopyCmd) : Nat := c.reg 3 + c.reg 4 * 2 ^ 32
def CopyCmd.listLen (c : CopyCmd) : Nat := c.reg 5

/-- The blocks a command lands bytes in, in rank order (R243). -/
def CopyCmd.dests (c : CopyCmd) (bid : Nat) (b : Block) : List Nat :=
  if c.kind = 2 then ((List.range b.csize).filter fun i => bitAt c.mmask i).map fun i => b.cluster.getD i bid else [bid]

/-- The rows' lengths of CPYR, clamped (R245). -/
def CopyCmd.rows (c : CopyCmd) : List Nat := (c.list.getD []).map fun x => min x (c.rec_.ext.getD 0 1)
/-- CPYR: elements, vectors needed, vectors written, and bytes written (R245). -/
def CopyCmd.rElems (c : CopyCmd) : Nat := c.rows.sum
def CopyCmd.rVecs (c : CopyCmd) : Nat := min (ceilDiv c.rElems 32) (c.reg 7)
def CopyCmd.rBytes (c : CopyCmd) : Nat := 132 * c.rVecs + 4

/-- The bytes a command moves: none while CPYR's row table has not been read; as first found while a resumed command reads its map record
and its list again (R247, R248). -/
def CopyCmd.size (c : CopyCmd) : Option Nat :=
  if c.map = [] then c.known
  else if c.kind = 3 then (if c.list.isSome then some c.rBytes else c.known)
  else if c.kind = 4 then some (c.rec_.bytes * c.rec_.box.getD 0 1 * c.listLen)
  else some (c.rec_.bytes * c.rec_.elements)
def CopyCmd.units (c : CopyCmd) : Nat := (c.size.map fun n => ceilDiv n 256).getD 0
/-- The bytes of unit u (R242). -/
def CopyCmd.unitLen (c : CopyCmd) (u : Nat) : Nat := min 256 (c.size.getD 0 - 256 * u)

/-- The bytes that the fullest block of a spread takes: the first of k blocks has the last unit when that is its turn (R243). -/
def CopyCmd.share (c : CopyCmd) (k : Nat) : Nat :=
  let u := c.units - 1
  256 * (u / k) + (if u % k = 0 then c.unitLen u else 256)

/-- Malformed command (R246), but for the map VA, which is looked at before the record is read. -/
def CopyCmd.bad (c : CopyCmd) (b : Block) : Bool :=
  let m := c.rec_
  let fits (o n : Nat) : Bool := decide (o + n ≤ b.spad)
  c.mapVA % 64 != 0 || m.bad || bits (c.reg 2) 20 12 != 0 || c.off % m.bytes != 0
    || (if c.kind = 3 then
          m.esize != 2 || c.reg 7 == 0 || c.reg 6 % 4 != 0 || !fits c.off (128 * c.reg 7) || !fits (c.reg 6) (4 * c.reg 7 + 4)
        else if c.kind = 4 then c.reg 7 != 0 || !fits c.off (c.size.getD 0)
        else if c.kind = 2 then
          let k := ((List.range b.csize).filter fun i => bitAt c.mmask i).length
          k == 0 || !fits c.off (if c.spread then c.share k else c.size.getD 0)
        else !fits c.off (c.size.getD 0))

/-! ### Stopping and cancelling (R247, R249) -/

/-- Units that a destination is to receive. -/
def CopyCmd.unitsFor (c : CopyCmd) (ds : List Nat) (d : Nat) : List Nat :=
  (List.range c.units).filter fun u => !c.spread || (ds.getD (u % max 1 ds.length) 0) == d

/-- Changes the command with a key, or removes it. -/
def Block.modCmd (b : Block) (key : Nat) (f : CopyCmd → Option CopyCmd) : Block :=
  { b with cmds := b.cmds.filterMap fun c => if c.key = key then f c else some c }

/-- Undelivered bytes of a command at a destination (R247). -/
def CopyCmd.restAt (c : CopyCmd) (bid : Nat) (b : Block) (d : Nat) : Nat :=
  let ds := c.dests bid b
  if !ds.contains d then 0
  else match c.size with
    | none => 1
    | some _ => (((c.unitsFor ds d).filter fun u => !c.done.contains u).map c.unitLen).sum

/-- The undelivered bytes of some commands on one slot arrive at once, in one arrival at each destination (R247). -/
def State.arriveRest (s : State) (bid : Nat) (b : Block) (cs : List CopyCmd) : State :=
  match cs with
  | [] => s
  | c :: _ =>
    (((cs.map fun x => x.dests bid b).flatten).eraseDups).foldl (fun t d =>
      let n := (cs.map fun x => x.restAt bid b d).sum
      if n = 0 then t else t.engineArrive d c.slot 0 n c.gid c.lane) s

/-- Whether a request is one of a command. -/
def ofCopy (bid key : Nat) (w : Requester) : Bool :=
  match w with
  | .copy b k _ => b == bid && k == key
  | _ => false

/-- Requests of a command, and the writes that homes hold for it, that meet a condition are withdrawn. -/
def State.dropCopy (s : State) (bid key : Nat) (f : Req → Bool) : State :=
  s.modMd fun m => { m with reqs := m.reqs.filter fun r => !(ofCopy bid key r.who && f r)
                            held := m.held.filter fun h => !(ofCopy bid key h.req.who && f h.req) }

/-- A command leaves its block: it is over, refused or stopped; what it still asks for is given up. -/
def State.removeCmd (s : State) (bid key : Nat) : State :=
  (s.modBlock bid fun x => x.modCmd key fun _ => none).dropCopy bid key fun _ => true

/-- The type of access of a unit of a command. -/
def CopyCmd.rights (c : CopyCmd) (u : Nat) : Rights :=
  if u = mapUnit ∨ u = listUnit then acRead else if c.toGlobal then acCopyWrite else acCopyRead

/-- The record of a fault that a unit of a command has met (R119). -/
def CopyCmd.fault (c : CopyCmd) (u cause reason va ia : Nat) : LateFault :=
  { kind := 4, cause := cause, lanes := bit c.lane, clause := c.clause, word := c.word, access := (c.rights u).shown.toNat, reason := reason,
    od := 0, cmd := c.id, ia := ia, vas := [(c.lane, va)], slot := some c.slot }

/-- A final fault stops a command: its bytes arrive and the fault is attributed to its group (R249). -/
def State.stopCopy (s : State) (bid : Nat) (c : CopyCmd) (u cause reason va ia : Nat) : State :=
  match s.block? bid with
  | none => s
  | some b => ((s.arriveRest bid b [c]).removeCmd bid c.key).lateFault c.gid (c.fault u cause reason va ia)

/-! ### Issue and admission (R239, R407) -/

/-- Running commands of a block. -/
def Block.running (b : Block) : Nat := (b.cmds.filter fun c => 2 ≤ c.stage).length
/-- A block whose commands its core's engine holds: those of a saved block stand in its save area (R248). -/
def Block.copies? (b : Block) (core : Nat) : Bool := b.core == core && b.phase != .saved && b.phase != .restoring
/-- Running commands of a core. -/
def State.copyRunning (s : State) (core : Nat) : Nat :=
  ((SMap.entries s.blocks).map fun b => if b.2.copies? core then b.2.running else 0).sum
/-- The oldest copy word of a core whose block is below its limit, when a command of the core is free. -/
def State.nextCopy (s : State) (core : Nat) : Option (Nat × CopyCmd) :=
  if 64 ≤ s.copyRunning core then none
  else
    let waiting := ((SMap.entries s.blocks).map fun b =>
      if b.2.copies? core && b.2.running < 32 then (b.2.cmds.filter fun c => c.stage == 1).map fun c => (b.1, c) else []).flatten
    waiting.foldl (fun (best : Option (Nat × CopyCmd)) x =>
      match best with
      | none => some x
      | some y => if x.2.ready < y.2.ready then some x else best) none

/-- The entry with some of the lanes that stands at a word. -/
def Group.entryAt (g : Group) (clause word : Nat) (ls : BitVec 32) : Option Nat :=
  g.entries.findIdx? fun e => e.clause == clause && e.word == word && e.mask &&& ls != 0

/-- The entry with some of the lanes at a word goes on past it. -/
def State.entryOn (s : State) (gid clause word : Nat) (ls : BitVec 32) : State :=
  s.modGroup gid fun g => match g.entryAt clause word ls with
    | some i => g.advance i
    | none => g

/-- Refuses a command: lanes of its group are switched off with a cause, the word's other lanes go on. -/
def State.refuseCopy (s : State) (bid : Nat) (c : CopyCmd) (off : BitVec 32) (cause : Nat) : State :=
  let s1 := s.removeCmd bid c.key
  s1.modGroup c.gid fun g =>
    match g.entryAt c.clause c.word c.lanes with
    | none => g
    | some i =>
      let m := ((g.entries[i]?).map (·.mask)).getD 0
      let g1 := g.switchOff (off &&& g.live) cause
      if m &&& g1.live = 0 then g1
      else match g1.entries.findIdx? fun e => e.clause == c.clause && e.word == c.word && e.mask &&& m != 0 with
        | some j => g1.advance j
        | none => g1

/-- A command is admitted: malformed it takes CPYBAD, else it runs and its word goes on; CPYR adds 1 to PEND_B (R245). -/
def State.admitCopy (s : State) (bid : Nat) (c : CopyCmd) : State :=
  match s.block? bid with
  | none => s
  | some b =>
    -- every lane that issued the word has been switched off since
    if !(s.group? c.gid).any (fun g => (g.entryAt c.clause c.word c.lanes).isSome) then s.removeCmd bid c.key
    else if c.bad b then s.refuseCopy bid c (bit c.lane) 0x25
    else
      let c1 := { c with stage := 2, total := if c.kind = 3 then 0 else c.units, known := c.size }
      let s1 := s.modBlock bid fun x => x.modCmd c.key fun _ => some c1
      let s2 := if c.kind = 3 then s1.modBlock bid fun x =>
          { x with slots := SMap.modify x.slots c.slot fun sl => { sl with pendB := sl.pendB + 1 } } else s1
      s2.entryOn c.gid c.clause c.word c.lanes

/-- COPY_ADMIT (R239): the engine admits the oldest waiting copy word. -/
def execCopyAdmit (core : Nat) (s : State) : Host.Outcome State Fault Refusal :=
  match s.nextCopy core with
  | none => .refused (.notPending "COPY_ADMIT")
  | some (bid, c) => .next (s.admitCopy bid c)

/-- A final fault of the map record's read: a trap of kind 4 with the command's number, or the word's lanes are switched off
(R114, R386, R407). With `issued` the word counts as issued and TPC names what follows it. -/
def State.mapFault (s : State) (bid : Nat) (c : CopyCmd) (cause reason ia : Nat) (issued : Bool) : State :=
  match s.group? c.gid with
  | none => s
  | some g =>
    match g.entryAt c.clause c.word c.lanes with
    | none => s.removeCmd bid c.key
    | some i =>
      if !g.hasHandler then s.refuseCopy bid c c.lanes cause
      else
        let e := g.entries.getD i (Entry.at 0 0 0 0)
        let p := if issued then e.after else (e.clause, e.word)
        let s1 := s.removeCmd bid c.key
        let s2 := if issued then s1.entryOn c.gid c.clause c.word c.lanes else s1
        let r : LateFault := { kind := 4, cause := cause, lanes := c.lanes, clause := c.clause, word := c.word,
                               access := acRead.toNat, reason := reason, od := 0, cmd := c.id, ia := ia,
                               vas := (lanes c.lanes).map fun l => (l, c.mapVA), slot := none }
        let j := ((s2.group? c.gid).bind fun g => g.entryAt p.1 p.2 c.lanes).getD i
        s2.raise c.gid j { cause := cause, kind := 4, late := false, lanes := c.lanes, tclause := p.1, tword := p.2,
                           record := some r }

/-- The requests of a unit of a command go to the homes, one for each 256-byte unit of intermediate addresses (R41, R242). -/
def State.copySend (s : State) (bid : Nat) (b : Block) (c : CopyCmd) (u : Nat) (kind : ReqKind) (width : Nat) (ls : List LaneAcc) : State :=
  (s.requestAll (reqBase (dieOf b.core) b.ctx (((s.ctx? b.ctx).map (·.fn)).getD 0) (.copy bid c.key u) kind [] width) ls).modCopy bid c.key fun x =>
    { x with flight := x.flight ++ [(u, (perUnit ls).length)] }

/-- The accesses of an engine at some VAs, each with a datum, or the cause and VA of the first that its segments refuse (R99). -/
def Context.engineLanes (cx : Context) (t : Rights) (xs : List (Nat × Nat)) : Except (Nat × Nat) (List LaneAcc) :=
  let rs := xs.zipIdx.map fun x => (x, cx.translate x.1.1 t)
  match rs.findSome? fun r => match r.2 with | .error c => some (c, r.1.1.1) | .ok _ => none with
  | some f => .error f
  | none => .ok (rs.filterMap fun r => match r.2 with
    | .ok p => some { lane := r.1.2, va := r.1.1.1, ia := p.1, data := r.1.1.2, data2 := 0 }
    | .error _ => none)

/-- The read of a command's map record starts, as a load (R241, R248, R407). -/
def State.readMap (s : State) (bid : Nat) (c : CopyCmd) : State :=
  match s.block? bid with
  | none => s
  | some b =>
    if c.mapVA % 64 != 0 then s.modCopy bid c.key fun x => { x with stage := max 1 x.stage, map := List.replicate 64 0 }
    else match s.ctx? b.ctx with
      | none => s
      | some cx =>
        match cx.engineLanes acRead [(c.mapVA, 0)] with
        | .error f => if c.stage = 0 then s.mapFault bid c f.1 0xFF 0 false else s.stopCopy bid c mapUnit f.1 0xFF f.2 0
        | .ok ls => s.copySend bid b c mapUnit .load 64 ls

/-- A copy word (R407): the first issue reads the record, checks the name and starts the read of the map; it then waits
for the map and for admission. -/
def State.copyWord (s : State) (i : Instr) (g : Guard) (kind rec slot mask mode : Nat) :
    Host.Outcome State Fault Refusal :=
  s.word i g fun is0 s1 =>
    if is0.own = 0 then s1.goOn is0
    else State.lateGate is0 s1 fun is s2 =>
      let bid := s2.nameBlock is
      let mine := ((s2.block? bid).map (·.cmds)).getD [] |>.find? fun c =>
        c.stage < 2 && c.gid == is.gid && c.clause == is.e.clause && c.word == is.e.word && is.e.mask &&& c.lanes != 0
      match mine with
      | none =>
        let id := is.g.idx * 2 ^ 16 + is.g.copyCount % 2 ^ 16
        let s3 := s2.modGroup is.gid fun h => { h with copyCount := h.copyCount + 1 }
        if !s3.nameOk is slot then s3.offAll (is.now s3) (bit is.lowOwn) 0x22
        else
          let c : CopyCmd := { id := id, kind := kind, slot := slot, mmask := mask, mode := mode
                               regs := (List.range 8).map fun k => is.g.sreg (rec + k)
                               map := [], gid := is.gid, lane := is.lowOwn, lanes := is.own, clause := is.e.clause, word := is.e.word,
                               total := 0, done := [], known := none, flight := [], replies := [], got := [], fails := [], list := none, stage := 0,
                               ready := s.now }
          (s3.modBlock bid fun b => { b with cmds := b.cmds ++ [c] }).readMap bid c
      | some c =>
        if c.stage = 0 then (if c.flight.isEmpty then s2.readMap bid c else s2)
        else match s2.nextCopy (((s2.block? bid).map (·.core)).getD 0) with
          | some (b1, c1) => if b1 = bid && c1.key = c.key then s2.admitCopy bid c else s2
          | none => s2

/-- DEDUCED, unsafe: log entry 30. -/
def execCpy (g : Guard) (rec slot : Nat) (toGlobal : Bool) (s : State) : Host.Outcome State Fault Refusal :=
  s.copyWord (.cpy g rec slot toGlobal) g 1 rec slot 0 (if toGlobal then 1 else 0)
def execCpym (g : Guard) (rec slot mask : Nat) (spread : Bool) (s : State) : Host.Outcome State Fault Refusal :=
  s.copyWord (.cpym g rec slot mask spread) g 2 rec slot mask (if spread then 2 else 0)
/-- DEDUCED, unsafe: log entry 31. -/
def execCpyr (g : Guard) (rec slot : Nat) (s : State) : Host.Outcome State Fault Refusal :=
  s.copyWord (.cpyr g rec slot) g 3 rec slot 0 0
def execCpyg (g : Guard) (rec slot : Nat) (toGlobal : Bool) (s : State) : Host.Outcome State Fault Refusal :=
  s.copyWord (.cpyg g rec slot toGlobal) g 4 rec slot 0 (if toGlobal then 1 else 0)

/-! ### Units (R242 to R245) -/

/-- One element of a unit: its place in the unit, and its VA when it lies in bounds. -/
structure Elem where
  at_ : Nat
  va : Option Nat
  deriving DecidableEq, Repr

/-- The VA of an element by coordinates, none out of bounds. -/
def MapRec.elemVA (m : MapRec) (cs : List Int) : Option Nat :=
  if (List.range m.ndim).all fun i => decide (0 ≤ cs.getD i 0) && decide (cs.getD i 0 < m.ext.getD i 1) then
    some (wrap 64 ((m.base : Int) + m.bytes * ((List.range 5).map fun i => cs.getD i 0 * (m.pitch.getD i 0 : Int)).sum))
  else none

/-- The VA of element k of a command's data, counted from its start; none out of bounds. -/
def CopyCmd.elem (c : CopyCmd) (k : Nat) : Option Nat :=
  let m := c.rec_
  if c.kind = 4 then
    let row := m.box.getD 0 1
    let idx := (c.list.getD []).getD (k / row) 0
    m.elemVA [c.coord 0 + (k % row : Nat), (idx : Int), 0, 0, 0]
  else
    let dims := (List.range 5).foldl (fun (r : List Int × Nat) i =>
      let n := max 1 (m.box.getD i 1)
      (r.1 ++ [c.coord i + (r.2 % n : Nat)], r.2 / n)) ([], k)
    m.elemVA dims.1

/-- Element k of the rows of CPYR laid end to end: its VA and whether it begins a row. -/
def rowElem (m : MapRec) : List Nat → Nat → Nat → Option (Nat × Bool)
  | [], _, _ => none
  | n :: rest, i, k =>
    if k < n then some (wrap 64 (m.base + 4 * i * m.pitch.getD 1 0 + 4 * m.pitch.getD 0 0 * k : Nat), k == 0)
    else rowElem m rest (i + 1) (k - n)

/-- The elements of unit u. CPYR's units run over its vectors; its masks and count hold no element. -/
def CopyCmd.elems (c : CopyCmd) (u : Nat) : List Elem :=
  let es := c.rec_.bytes
  (List.range (c.unitLen u / es)).map fun j =>
    let k := 256 * u / es + j
    { at_ := es * j, va := if c.kind = 3 then (if k < 32 * c.rVecs then (rowElem c.rec_ c.rows 0 k).map (·.1) else none) else c.elem k }

/-- A 32-bit word of CPYR's masks and count word (R245): word w of them. -/
def CopyCmd.maskWord (c : CopyCmd) (w : Nat) : Nat :=
  if w < c.rVecs then
    ((List.range 32).map fun j =>
      let k := 32 * w + j
      let b := match rowElem c.rec_ c.rows 0 k with
        | some (_, first) => first
        | none => k == c.rElems
      if b then 2 ^ j else 0).sum
  else c.rVecs + (if c.reg 7 < ceilDiv c.rElems 32 then 2 ^ 31 else 0)

/-- Where byte x of a command's data lands in scratchpad; CPYR's count word lies after the masks of its whole capacity (R245). -/
def CopyCmd.place (c : CopyCmd) (ds : Nat) (x : Nat) : Nat :=
  if c.kind = 3 then
    (if x < 128 * c.rVecs then c.off + x
     else if x < 132 * c.rVecs then c.reg 6 + (x - 128 * c.rVecs)
     else c.reg 6 + 4 * c.reg 7 + (x - 132 * c.rVecs))
  else if c.spread then c.off + 256 * (x / 256 / max 1 ds) + x % 256
  else c.off + x

/-- The bytes of unit u from what has been read, with fill, and CPYR's masks and count (R241, R245). -/
def CopyCmd.unitBytes (c : CopyCmd) (u : Nat) : List (BitVec 8) :=
  let m := c.rec_
  let all := ((c.elems u).map fun e => match e.va with
    | none => m.fillBytes
    | some _ => SMap.getRun 0 c.got (2 ^ 40 * u + e.at_) m.bytes).flatten
  if c.kind = 3 then
    (List.range (c.unitLen u)).map fun k =>
      let x := 256 * u + k
      if x < 128 * c.rVecs then all.getD k 0
      else
        let y := x - 128 * c.rVecs
        BitVec.ofNat 8 (c.maskWord (y / 4) / 2 ^ (8 * (y % 4)))
  else all

/-- Whether two in-bounds elements of a command's box name one VA, so that the byte that stands is unspecified (R242); elements of rows of
one index do not clash (R244). -/
def CopyCmd.clashes (c : CopyCmd) (va : Nat) : Bool :=
  if c.kind = 4 then
    let row := max 1 (c.rec_.box.getD 0 1)
    1 < ((((List.range (row * c.listLen)).filter fun k => c.elem k == some va).map fun k =>
      (c.list.getD []).getD (k / row) 0).eraseDups).length
  else 1 < ((List.range c.rec_.elements).filter fun k => c.elem k == some va).length

/-- The elements of a scatter that name the place of its element k, in list order. -/
def CopyCmd.twins (c : CopyCmd) (k : Nat) : List Nat :=
  if c.kind == 4 && c.toGlobal then
    (List.range (c.size.getD 0 / c.rec_.bytes)).filter fun j => j != k && (c.elem k).isSome && c.elem j == c.elem k
  else []
def CopyCmd.unitOf (c : CopyCmd) (k : Nat) : Nat := k * c.rec_.bytes / 256
def CopyCmd.underWay (c : CopyCmd) (u : Nat) : Bool := c.flight.any fun p => p.1 == u

/-- Scatter: a later row writes the element too and has been delivered or is under way, so it stands (R244). -/
def CopyCmd.outdone (c : CopyCmd) (k : Nat) : Bool :=
  (c.twins k).any fun j => k < j && (c.done.contains (c.unitOf j) || c.underWay (c.unitOf j))

/-- Scatter: an earlier row writes an element of unit u too and is under way, so the unit waits for it (R244). -/
def CopyCmd.behind (c : CopyCmd) (u : Nat) : Bool :=
  (c.elems u).any fun e =>
    let k := (256 * u + e.at_) / c.rec_.bytes
    (c.twins k).any fun j => j < k && c.underWay (c.unitOf j)

/-- The accesses of unit u at the homes: the VA of each element that is to be read or written, with its place in the unit or its value; in
bytes that clash any value stands (R242 to R244). -/
def State.unitAccesses (s : State) (b : Block) (c : CopyCmd) (u : Nat) : List (Nat × Nat) :=
  let m := c.rec_
  let es := (c.elems u).filterMap fun e => e.va.map fun va => (e.at_, va)
  if !c.toGlobal then es.map fun e => (e.2, e.1)
  else (es.filter fun e => !c.outdone ((256 * u + e.1) / m.bytes)).map fun e =>
    (e.2, ofBytes ((List.range m.bytes).map fun k =>
      if c.clashes e.2 then Config.freeByte (s.free + e.1 + k) else b.byte (c.off + 256 * u + e.1 + k)))

/-- Unit u starts: its accesses go to the homes (R242). -/
def State.unitStart (s : State) (bid : Nat) (b : Block) (cx : Context) (c : CopyCmd) (u : Nat) : State :=
  match cx.engineLanes (c.rights u) (s.unitAccesses b c u) with
  | .error f => s.stopCopy bid c u f.1 0xFF f.2 0
  | .ok ls => ({ s with free := s.free + 256 } : State).copySend bid b c u (if c.toGlobal then .copyWrite else .copyRead) c.rec_.bytes ls

/-- The read of a command's index list or row table starts, as loads (R244, R245). -/
def State.readList (s : State) (bid : Nat) (b : Block) (cx : Context) (c : CopyCmd) : State :=
  match cx.engineLanes acRead ((List.range (4 * c.listLen)).map fun k => (c.listVA + k, k)) with
  | .error f => s.stopCopy bid c listUnit f.1 0xFF f.2 0
  | .ok ls => s.copySend bid b c listUnit .load 1 ls

/-! ### Delivery (R242, R243, R249) -/

/-- The answers that unit u waits for have come: all of them, or one that is a fault. -/
def State.unitReady (s : State) (c : CopyCmd) (u : Nat) : Bool :=
  (c.flight.any fun p => p.1 == u && (p.2 == 0 || c.fails.any (·.1 == u))) && (c.replies.filter (·.1 == u)).all fun x => s.landed x.2

/-- What a command held of unit u is taken. -/
def CopyCmd.taken (c : CopyCmd) (u : Nat) : CopyCmd :=
  { c with flight := c.flight.filter fun p => p.1 != u, replies := c.replies.filter fun p => p.1 != u
           got := c.got.filter fun x => x.1 / 2 ^ 40 != u }

/-- A unit is delivered: its bytes counted, its arrivals sent (R242, R243). -/
def State.unitDone (s : State) (bid : Nat) (c : CopyCmd) (ds : List Nat) (u : Nat) : State :=
  let s1 := ds.foldl (fun t d => t.engineArrive d c.slot 0 (c.unitLen u) c.gid c.lane) s
  s1.modBlock bid fun x => x.modCmd c.key fun c0 =>
    let c1 := { c0 with done := c0.done ++ [u] }
    if c1.done.length = c1.units then none else some c1

/-- A unit that has been read lands in the scratchpads it is for. -/
def State.unitLand (s : State) (bid : Nat) (b : Block) (c : CopyCmd) (u : Nat) : State :=
  let ds := c.dests bid b
  let to_ := if c.spread then [ds.getD (u % max 1 ds.length) bid] else ds
  let bytes := c.unitBytes u
  (to_.foldl (fun t bd => t.modBlock bd fun x =>
    { x with scratch := (bytes.zipIdx).foldl (fun m y => SMap.set 0 m (c.place ds.length (256 * u + y.2)) y.1) x.scratch }) s).unitDone bid c to_ u

/-- The list has been read (R244, R245); CPYR then knows T and adds T − 1. -/
def State.listIn (s : State) (bid : Nat) (c : CopyCmd) (list : List Nat) : State :=
  let c1 := { c with list := some list }
  let c2 := { c1 with total := c1.units, known := c1.size }
  let s1 := s.modBlock bid fun x => x.modCmd c.key fun _ => if c2.units = 0 then none else some c2
  if c.kind = 3 && c.total = 0 then s1.modBlock bid fun x =>
    { x with slots := SMap.modify x.slots c.slot fun sl => { sl with pendB := sl.pendB + (c2.rBytes - 1) } }
  else s1

/-- A fault that a unit has met (R249): a word whose map read fails takes it, a command that runs stops. -/
def State.copyFault (s : State) (bid : Nat) (c : CopyCmd) (f : Nat × Nat × Nat × Nat × Nat) : State :=
  if c.stage = 0 then s.mapFault bid c f.2.1 f.2.2.1 f.2.2.2.2 true
  else s.stopCopy bid c f.1 f.2.1 f.2.2.1 f.2.2.2.1 f.2.2.2.2

/-- The answers of unit u are taken: the map record, the list, or a unit of the command's data. -/
def State.copyTake (s : State) (bid : Nat) (b : Block) (c : CopyCmd) (u : Nat) : State :=
  match c.fails with
  | f :: _ => s.copyFault bid c f
  | [] =>
    let s1 := s.modCopy bid c.key fun x => x.taken u
    if u = mapUnit then
      s1.modCopy bid c.key fun x => { x with stage := max 1 x.stage, map := SMap.getRun 0 c.got (2 ^ 40 * u) 64 }
    else if u = listUnit then
      s1.listIn bid (c.taken u) ((List.range c.listLen).map fun k => ofBytes (SMap.getRun 0 c.got (2 ^ 40 * u + 4 * k) 4))
    else if c.toGlobal then s1.unitDone bid c [bid] u
    else s1.unitLand bid b c u

/-- The first undelivered unit (R248): a progress record holds it and a bit for each of the next 64, so no unit more than
64 past it is started. -/
def CopyCmd.first (c : CopyCmd) : Nat := ((List.range (c.done.length + 1)).find? fun u => !c.done.contains u).getD 0

/-- Units that a core's copy engine has in flight (R239). -/
def State.copyFlight (s : State) (core : Nat) : Nat :=
  ((SMap.entries s.blocks).map fun b =>
    if b.2.copies? core then (b.2.cmds.map fun c => (c.flight.filter fun p => p.1 < mapUnit).length).sum else 0).sum

/-- COPY_UNIT_DELIVER (R242): a unit of a command whose answers have come is delivered; else one of a running command of a block that is not
halting is started, after the map record and the list have been read. -/
def State.copyUnit (s : State) (bid : Nat) (b : Block) (c : CopyCmd) (u : Nat) : Option State :=
  if s.unitReady c u then some (s.copyTake bid b c u)
  else match s.ctx? b.ctx with
  | none => none
  | some cx =>
    if b.phase != .live || c.stage != 2 || c.underWay mapUnit || c.underWay listUnit then none
    else if c.map = [] then some (s.readMap bid c)
    else if (c.kind = 3 || c.kind = 4) && c.list.isNone then some (s.readList bid b cx c)
    else if c.first + 64 < u || c.units ≤ u || c.done.contains u || c.underWay u || c.behind u then none
    else if 64 ≤ s.copyFlight b.core then none
    else some (s.unitStart bid b cx c u)
/-- DESIGN CHOICE, unsafe: log entry 29. -/
def execCopyUnitDeliver (bid cmd unit : Nat) (s : State) : Host.Outcome State Fault Refusal :=
  match s.block? bid with
  | none => .refused (.notPending "COPY_UNIT_DELIVER")
  | some b =>
    match (b.cmds.find? fun c => c.key == cmd).bind fun c => s.copyUnit bid b c unit with
    | some s1 => .next s1
    | none => .refused (.notPending "COPY_UNIT_DELIVER")

/-! ### Cancelling (R247, R250, R408) -/

/-- The scratchpad bytes that undelivered units of a command would have written at a destination, as (offset, count). -/
def CopyCmd.openRuns (c : CopyCmd) (ds : List Nat) (d : Nat) : List (Nat × Nat) :=
  if c.kind = 3 && c.list.isNone then [(c.off, 128 * c.reg 7), (c.reg 6, 4 * c.reg 7 + 4)]
  else (((c.unitsFor ds d).filter fun u => !c.done.contains u).map fun u =>
    (List.range (c.unitLen u)).map fun k => (c.place ds.length (256 * u + k), 1)).flatten

/-- Free values stand in a run of a block's scratchpad. -/
def State.blurPad (s : State) (bid o n : Nat) : State :=
  { s.modBlock bid fun x => { x with scratch := SMap.setRun 0 x.scratch o ((List.range n).map fun k => Config.freeByte (s.free + k)) } with
    free := s.free + n }

/-- Free values stand in n bytes of memory at a VA, where it is mapped. -/
def State.blurMemory (s : State) (ctx va n : Nat) : State :=
  let s0 : State := { s with free := s.free + n }
  match (s.ctx? ctx).bind fun (cx : Context) => (cx.translate va acWrite).toOption with
  | none => s
  | some (ia, _) =>
    match s.physical ia acWrite with
    | .error _ => s
    | .ok (pa, leaf) => s0.deviceWrite ctx ia pa leaf ((List.range n).map fun k => Config.freeByte (s.free + k))

/-- The destination bytes of the undelivered units of a cancelled command are unspecified (R247): free values. -/
def State.blur (s : State) (bid : Nat) (b : Block) (c : CopyCmd) : State :=
  if c.toGlobal then
    let us := (List.range c.units).filter fun u => !c.done.contains u
    ((us.map fun u => (c.elems u).filterMap (·.va)).flatten).foldl (fun t va => t.blurMemory b.ctx va c.rec_.bytes) s
  else
    let ds := c.dests bid b
    ds.foldl (fun t d => (c.openRuns ds d).foldl (fun t r => t.blurPad d r.1 r.2) t) s

/-- Whether an access of a command waits on a page. -/
def State.copyWaits (s : State) (bid key : Nat) : Bool := s.md.reqs.any fun r => ofCopy bid key r.who && r.waiting.isSome

/-- A cancelled command leaves its block. A final fault is still delivered (R250): one that has come already, or one to an access that
waits on a page. -/
def State.cancelCopy (s : State) (bid : Nat) (c : CopyCmd) : State :=
  let s1 := (s.modBlock bid fun x => x.modCmd c.key fun _ => none).dropCopy bid c.key fun r => r.waiting.isNone
  match c.fails with
  | f :: _ => (s1.dropCopy bid c.key fun _ => true).lateFault c.gid (c.fault f.1 f.2.1 f.2.2.1 f.2.2.2.1 f.2.2.2.2)
  | [] => if s1.copyWaits bid c.key then s1.modBlock bid fun x => { x with ghosts := x.ghosts ++ [c] } else s1

/-- CPYX (R247, R408). -/
def execCpyx (g : Guard) (slot : Nat) (s : State) : Host.Outcome State Fault Refusal :=
  s.word (.cpyx g slot) g fun is s1 =>
    if is.own = 0 then s1.goOn is
    else
      let bid := s1.nameBlock is
      match s1.block? bid with
      | none => s1.goOn is
      | some b =>
        let cs := b.cmds.filter fun c => c.gid == is.gid && c.slot == slot && 2 ≤ c.stage
        let s2 := (cs.foldl (fun t c => t.blur bid b c) s1).arriveRest bid b cs
        (cs.foldl (fun t c => t.cancelCopy bid c) s2).goOn is

/-! ### Wakes and final answers (R249, R250) -/

/-- A fault that a command of a block has noted is acted on at once; of a cancelled one only the trap is left. -/
def State.copySettle (s : State) (bid key : Nat) : State :=
  match s.block? bid with
  | none => s
  | some b =>
    match b.cmds.find? (·.key == key), b.ghosts.find? (·.key == key) with
    | some c, _ => (match c.fails with
      | f :: _ => s.copyFault bid c f
      | [] => s)
    | none, some c => (match c.fails with
      | f :: _ => ((s.modBlock bid fun x => { x with ghosts := x.ghosts.filter (·.key != key) }).dropCopy bid key fun _ => true).lateFault c.gid
          (c.fault f.1 f.2.1 f.2.2.1 f.2.2.2.1 f.2.2.2.2)
      | [] => s)
    | none, none => s

/-- Whether a request is one of a cancelled command. -/
def State.ghostly (s : State) (r : Req) : Bool :=
  match r.who with
  | .copy bid key _ => (s.block? bid).any fun b => b.ghosts.any (·.key == key)
  | _ => false

/-- An access of a cancelled command is woken: it is not made again. -/
def State.layGhost (s : State) (r : Req) : State :=
  let s1 := s.dropReq r.tag
  match r.who with
  | .copy bid key _ => if s1.copyWaits bid key then s1 else s1.modBlock bid fun b => { b with ghosts := b.ghosts.filter (·.key != key) }
  | _ => s1

end Sys2Proof.Machine
end

