-- ==== Sys2Proof/Machine/Matrix.lean ====
section
/-! DEFINITION. Machine/Matrix.lean: tiles and the matrix engine: ACFG, AFENCE, MMA, MMAS, AZERO, ALD, AST, ARD, AWR and the
events MMA_CHUNK_END, MMA_COMPLETE, MMA_RESUME and TILE_WORD_COMPLETE (R258 to R274, R410 to R417). -/

namespace Sys2Proof

/-- Bits of an element (R251, R252). -/
def MatTy.bits : MatTy → Nat
  | .e4m3 | .e5m2 | .mx8e4 | .mx8e5 => 8
  | .f16 | .bf16 => 16
  | .mx6e3 | .mx6e2 => 6
  | .mx4 => 4
/-- Whether it is an MX type. -/
def MatTy.mx : MatTy → Bool
  | .mx8e4 | .mx8e5 | .mx6e3 | .mx6e2 | .mx4 => true
  | _ => false
/-- The TYPE code of a map (R267). -/
def MatTy.ofCode : Nat → Option MatTy
  | 0 => some .e4m3 | 1 => some .e5m2 | 2 => some .f16 | 3 => some .bf16 | 4 => some .mx8e4 | 5 => some .mx8e5
  | 6 => some .mx6e3 | 7 => some .mx6e2 | 8 => some .mx4 | _ => none

end Sys2Proof

namespace Sys2Proof.Machine

def matFmt : MatTy → Fmt
  | .e4m3 | .mx8e4 => Fmt.e4m3
  | .e5m2 | .mx8e5 => Fmt.e5m2
  | .f16 => Fmt.f16
  | .bf16 => Fmt.bf16
  | .mx6e3 => Fmt.e3m2
  | .mx6e2 => Fmt.e2m3
  | .mx4 => Fmt.e2m1

/-- K and the chunk length of a pair of types (R258); none for a pair the table does not have. -/
def matPair (scaled : Bool) (a b : MatTy) : Option (Nat × Nat) :=
  if scaled then
    if !a.mx || !b.mx then none else if a == .mx4 && b == .mx4 then some (128, 32) else some (64, 32)
  else match a, b with
    | .e4m3, .e4m3 | .e4m3, .e5m2 | .e5m2, .e4m3 | .e5m2, .e5m2 => some (64, 32)
    | .f16, .f16 | .bf16, .bf16 => some (32, 16)
    | _, _ => none

/-! ### Map records (R267 to R269) -/

/-- A map record. -/
structure MatMap where
  base : Nat
  ext : Nat
  stride : Nat
  layout : Bool
  type : Nat
  scale : Nat
  mbz : Bool
  deriving DecidableEq, Repr

def matMapOf (r : List (BitVec 32)) : MatMap :=
  let x (i : Nat) : Nat := (r.getD i 0).toNat
  { base := bits (x 0) 0 20, ext := bits (x 1) 16 16, stride := bits (x 1) 0 16, layout := bitAt (x 2) 4,
    type := bits (x 2) 0 4, scale := bits (x 3) 0 20,
    mbz := bits (x 0) 20 12 != 0 || bits (x 2) 5 27 != 0 || bits (x 3) 20 12 != 0 }

/-- The checks of R269 on one map: its extent limit, the lines it needs, and the scratchpad's size. -/
def MatMap.bad (m : MatMap) (scaled : Bool) (limit w k b pad : Nat) : Bool :=
  let last := if m.layout then m.base + (w - 1) * m.stride + k * b / 8 else m.base + (k - 1) * m.stride + ceilDiv (w * b) 8
  m.mbz || m.ext == 0 || decide (limit < m.ext) || m.base % 16 != 0 || m.stride % 16 != 0 || decide (pad < last)
    || (scaled && decide (pad < m.scale + 4 * w))

/-- The types and sizes of an MMA whose maps pass R269: B's type, K and the chunk length. -/
def matCheck (scaled : Bool) (at_ : MatTy) (am : Option MatMap) (bm : MatMap) (width pad : Nat) : Option (MatTy × Nat × Nat) :=
  match MatTy.ofCode bm.type with
  | none => none
  | some bt =>
    match matPair scaled at_ bt with
    | none => none
    | some (k, ch) =>
      let badB := bm.bad scaled 384 (min bm.ext width) k bt.bits pad
      let badA := match am with
        | none => false
        | some m => MatTy.ofCode m.type != some at_ || m.bad scaled 32 m.ext k at_.bits pad
      if badB || badA then none else some (bt, k, ch)

/-- First bit of element (k, m) of a map, where m is a column of B or a row of A. -/
def MatMap.bitOf (p : MatMap) (b k m : Nat) : Nat :=
  if p.layout then 8 * (p.base + m * p.stride) + b * k else 8 * (p.base + k * p.stride) + b * m

/-- Bytes of a map that an MMA reads: elements of m below w, and scales. -/
def MatMap.bytes (p : MatMap) (scaled : Bool) (b k w chunks : Nat) : List Nat :=
  let line (q len : Nat) : List Nat := (List.range len).map fun i => p.base + q * p.stride + i
  (if p.layout then ((List.range w).map fun q => line q (k * b / 8)).flatten
   else ((List.range k).map fun q => line q (ceilDiv (w * b) 8)).flatten)
  ++ (if scaled then ((List.range w).map fun m => (List.range chunks).map fun j => p.scale + 4 * m + j).flatten else [])

/-- b bits of a byte source from a bit position (at most two bytes). -/
def bitsAt (f : Nat → BitVec 8) (at_ b : Nat) : Nat :=
  bits ((f (at_ / 8)).toNat + 256 * (f (at_ / 8 + 1)).toNat) (at_ % 8) b

/-- One of several values an element may be read as: which is unspecified (R221, R270, R271). -/
def pick (n : Nat) : List Nat → Nat
  | [] => 0
  | [x] => x
  | x :: rest => if Config.freeChoice n then x else pick (n + 1) rest

/-- The values a scratchpad field may be read as: current, as at issue, or any copy a matrix unit keeps. -/
def Block.readsAs (k : Block) (old : Nat → BitVec 8) (at_ b : Nat) : List Nat :=
  let cs := SMap.get [] k.copies (at_ / 8)
  let version (i : Nat) (o : Nat) : BitVec 8 := (SMap.get [] k.copies o).getD i (k.byte o)
  ([bitsAt k.byte at_ b, bitsAt old at_ b] ++ (List.range cs.length).map fun i => bitsAt (version i) at_ b).eraseDups

/-! ### Tiles (R262, R263, R411) -/

/-- Where element (row, column) of a tile lies in the block's accumulators. -/
def Tile.key (t : Tile) (row col : Nat) : Nat := 3072 * (t.first + col / 96) + 96 * row + col % 96
def Block.acc32 (b : Block) (t : Tile) (row col : Nat) : BitVec 32 := SMap.get 0 b.accs (t.key row col)
def Block.setAcc (b : Block) (t : Tile) (row col : Nat) (x : BitVec 32) : Block :=
  { b with accs := SMap.set 0 b.accs (t.key row col) x }
/-- The units of a tile. -/
def Tile.units (t : Tile) : List Nat := (List.range t.n).map (t.first + ·)
/-- Zeroes units of a block. -/
def Block.zeroUnits (b : Block) (us : List Nat) : Block :=
  { b with accs := b.accs.filter fun e => !us.contains (e.1 / 3072) }

/-- ACFG on a tile (R263); a release waits while a word executes on it. -/
def State.configure (s : State) (is : Issue) (tile n first : Nat) : State :=
  let used := SMap.find? is.b.tiles tile
  if n = 0 then
    match used with
    | none => s.goOn is
    | some d =>
      if (s.busyTiles is.g.bid).any fun x => x.1 == tile then s
      else (s.modBlock is.g.bid fun b => { b.zeroUnits d.units with tiles := SMap.del b.tiles tile }).goOn is
  else if n = 3 || 4 < n || is.b.acc < first + n then s.offAll is is.act 0x27
  else
    let d : Tile := { n := n, first := first, ver := 0 }
    let overlaps := (SMap.entries is.b.tiles).any fun e => e.2.units.any fun u => d.units.contains u
    if used.isSome || overlaps then s.offAll is is.act 0x28
    else (s.modBlock is.g.bid fun b => { b.zeroUnits d.units with tiles := SMap.put b.tiles tile d }).goOn is
def execAcfg (g : Guard) (tile : Nat) (n first : Src) (s : State) : Host.Outcome State Fault Refusal :=
  s.word (.acfg g tile n first) g fun is s1 =>
    s1.configure is tile (s.opnd is false n is.low) (s.opnd is false first is.low)

/-- AFENCE (R271, R412). -/
def execAfence (g : Guard) (s : State) : Host.Outcome State Fault Refusal :=
  s.word (.afence g) g fun is s1 =>
    ((s1.modBlock is.g.bid fun b => { b with copies := [] }).modGroup is.gid fun h => { h with padWrote := [] }).goOn is

/-! ### Operand A (R258, R266, R270) -/

/-- The first register of a run in a lane. -/
def Group.runBase (g : Group) (d : Dst) (l : Nat) : Nat :=
  match d with
  | .v n => n
  | .s n => n
  | .idx k off => g.idxReg k off l

/-- Row l of A from a register run: element codes and scales. -/
def Group.aRow (g : Group) (r0 : Nat) (ty : MatTy) (k chunks l : Nat) : List Nat × List Nat :=
  let b := ty.bits
  let n := k * b / 32
  let x := ((List.range n).map fun j => (g.vreg (r0 + j) l).toNat * 2 ^ (32 * j)).sum
  ((List.range k).map fun q => bits x (b * q) b,
   if ty.mx then (List.range chunks).map fun j => bits (g.vreg (r0 + n) l).toNat (8 * j) 8 else [])

/-- Row i of A from a map, a byte source given. -/
def MatMap.aRow (p : MatMap) (f : Nat → BitVec 8) (ty : MatTy) (k chunks i : Nat) : List Nat × List Nat :=
  if p.ext ≤ i then (List.replicate k 0, if ty.mx then List.replicate chunks 127 else [])
  else ((List.range k).map fun q => bitsAt f (p.bitOf ty.bits q i) ty.bits,
        if ty.mx then (List.range chunks).map fun j => (f (p.scale + 4 * i + j)).toNat else [])

/-- Row i of A as its operands stand now. -/
def Group.rowNow (g : Group) (b : Block) (a : ASrc) (am : List (BitVec 32)) (ty : MatTy) (k chunks i : Nat) :
    List Nat × List Nat :=
  match a with
  | .regs d => g.aRow (g.runBase d i) ty k chunks i
  | .map _ => (matMapOf am).aRow b.byte ty k chunks i

/-- The A fields of a word: its A OS and source, and the type. -/
def aField (raw : BitVec 64) : Nat := bits raw.toNat 20 13 + 2 ^ 13 * bits raw.toNat 48 3

/-- Row i of A at given places: its first register, or a map record. -/
def Group.rowAt (g : Group) (b : Block) (a : ASrc) (base : List Nat) (am : List (BitVec 32)) (ty : MatTy) (k chunks i : Nat) :
    List Nat × List Nat :=
  match a with
  | .regs _ => g.aRow (base.getD i 0) ty k chunks i
  | .map _ => (matMapOf am).aRow b.byte ty k chunks i

/-- The first registers of the rows of A in the lanes of a mask, or none of a map. -/
def Group.aBase (g : Group) (a : ASrc) (rows : BitVec 32) : List Nat :=
  match a with
  | .regs d => (List.range 32).map fun i => if lane rows i then g.runBase d i else 0
  | .map _ => []

/-- Where the A of an MMA was read: where the latch was, when that gave it. -/
def Group.aPlaces (g : Group) (a : ASrc) (am : List (BitVec 32)) (rows : BitVec 32) (taken : Bool) : List Nat × List (BitVec 32) :=
  let own := g.aBase a rows
  match (if taken then g.latch else none) with
  | some lt => (own.zipIdx.map fun x => if (lt.rows.getD x.2 []).isEmpty then x.1 else lt.base.getD x.2 0, lt.map)
  | none => (own, am)

/-- Rows of A for an MMA that issues: from a latch whose fields agree, or read from the operands. A latched row whose places have been written
since is the latched one or what stands there now, which is open (R270). Answers also whether the latch gave it. -/
def State.aRows (s : State) (g : Group) (b : Block) (raw : BitVec 64) (a : ASrc) (am : List (BitVec 32)) (ty : MatTy)
    (k chunks : Nat) (rows : BitVec 32) : List (List Nat) × List (List Nat) × Bool :=
  let now := (List.range 32).map fun i => if lane rows i then g.rowNow b a am ty k chunks i else ([], [])
  match g.latch with
  | some lt =>
    if lt.field = aField raw then
      let both := now.zipIdx.map fun x =>
        if (lt.rows.getD x.2 []).length = k then
          (if Config.freeChoice s.free then (lt.rows.getD x.2 [], lt.scales.getD x.2 []) else g.rowAt b a lt.base lt.map ty k chunks x.2)
        else x.1
      (both.map (·.1), both.map (·.2), true)
    else (now.map (·.1), now.map (·.2), false)
  | none => (now.map (·.1), now.map (·.2), false)

/-! ### MMA and MMAS at issue (R264 to R272, R413) -/

/-- Type, tile, version, reuse, A, B map register, mode and slot of an MMA word, and whether it is scaled. -/
structure MmaWord where
  scaled : Bool
  ty : MatTy
  tile : Nat
  ver : Nat
  reuse : Bool
  a : ASrc
  bmap : Nat
  mode : MmaMode
  slot : Option Nat
  deriving DecidableEq, Repr
def mmaWord : Instr → Option MmaWord
  | .mma _ t tile ver reuse a bm mode slot => some { scaled := false, ty := t, tile := tile, ver := ver, reuse := reuse, a := a, bmap := bm, mode := mode, slot := slot }
  | .mmas _ t tile ver reuse a bm mode slot => some { scaled := true, ty := t, tile := tile, ver := ver, reuse := reuse, a := a, bmap := bm, mode := mode, slot := slot }
  | _ => none

/-- Four s registers. -/
def Group.record4 (g : Group) (n : Nat) : List (BitVec 32) := (List.range 4).map fun j => g.sreg (n + j)
def ASrc.mapOf (g : Group) : ASrc → List (BitVec 32)
  | .regs _ => []
  | .map s => g.record4 s

/-- Lanes of an .mx4 A run of 17 registers that reach past the v count or the window: as a direct run, or through an index (R182,
R183). The static checks cover the shorter run. -/
def Group.longRun (g : Group) (act : BitVec 32) : ASrc → Bool × BitVec 32
  | .regs (.v n) => (decide (g.vcount < n + 17), 0)
  | .regs (.idx k off) => (false, maskOf fun l => lane act l && !g.idxOk k off 17 false l)
  | _ => (false, 0)

/-- The 128-bit value of a record of four registers. -/
def recordNat (r : List (BitVec 32)) : Nat := ((List.range 4).map fun j => (r.getD j 0).toNat * 2 ^ (32 * j)).sum

/-- The MMA starts: it holds an operand-log entry and its rows, and the latch is released (R270). -/
def State.mmaStart (s : State) (is : Issue) (i : Instr) (w : MmaWord) (k ch : Nat) (bt : MatTy) (d : Tile) : State :=
  let raw := (encode i).getD 0
  let bm := is.g.record4 w.bmap
  let am := ASrc.mapOf is.g w.a
  let chunks := k / ch
  let s1 := s.modBlock is.g.bid fun b =>
    { b with copies := b.copies.filter fun e => !SMap.get false is.g.padWrote e.1 }
  let b1 := (s1.block? is.g.bid).getD is.b
  let rows := s1.aRows is.g b1 raw w.a am w.ty k chunks is.act
  let places := is.g.aPlaces w.a am is.act rows.2.2
  let mine := (matMapOf bm).bytes w.scaled bt.bits k (min (matMapOf bm).ext (96 * d.n)) chunks ++
    (match w.a with | .map _ => (matMapOf am).bytes w.scaled w.ty.bits k (matMapOf am).ext chunks | .regs _ => [])
  let m : MmaExec := { clause := is.e.clause, word := is.e.word, raw := raw, tile := w.tile, ver := w.ver, rows := is.act,
                       chunk := 0, chunks := chunks, bmap := bm, amap := am, a := rows.1, ascale := rows.2.1,
                       abase := places.1, aloc := places.2, latched := rows.2.2,
                       old := mine.foldl (fun q o => SMap.set 0 q o (b1.byte o)) [], halt := false }
  let o : OpEntry := { is.logEntry i .mma is.act 0 with data := SMap.set 0 (SMap.set 0 [] 0 (recordNat bm)) 1 (recordNat am) }
  let s2 := s1.modGroup is.gid fun g =>
    { g with mma := some m, padWrote := [], latch := none, oplog := SMap.put g.oplog g.freeLog o }
  { s2 with free := s.free + 1 }

/-- An MMA that has met its waits: the run check of a long .mx4 row, then ACCRANGE, then MAPEXTENT (R318, R410). -/
def State.mmaIssue (s : State) (is : Issue) (i : Instr) : State :=
  match mmaWord i with
  | none => s
  | some w =>
    let bm := matMapOf (is.g.record4 w.bmap)
    let long := if w.ty == .mx4 && bm.type == 8 then is.g.longRun is.act w.a else (false, 0)
    let go (is : Issue) (s : State) : State :=
      match SMap.find? is.b.tiles w.tile with
      | none => s.offAll is is.act 0x27
      | some d =>
        let am := match w.a with
          | .map _ => some (matMapOf (ASrc.mapOf is.g w.a))
          | .regs _ => none
        match matCheck w.scaled w.ty am bm (96 * d.n) is.b.spad with
        | none => s.offAll is is.act 0x26
        | some (bt, k, ch) => s.mmaStart is i w k ch bt d
    if long.1 then s.illegal is.gid is.i is.act
    else if long.2 = 0 then go is s
    else
      let real := long.2 &&& ~~~is.g.helper
      let r := if real = 0 then (s, false) else s.faultAt is.gid is.i 3 real none
      if r.2 then r.1
      else match r.1.survivors is long.2 with
        | none => r.1
        | some is' => if is'.act = 0 then r.1.goOn is' else go is' r.1
/-- DEDUCED, unsafe: log entry 45; DEDUCED, unsafe: log entry 49. -/
def execMma (g : Guard) (at_ : MatTy) (tile ver : Nat) (reuse : Bool) (a : ASrc) (bmap : Nat) (mode : MmaMode)
    (slot : Option Nat) (s : State) : Host.Outcome State Fault Refusal :=
  s.word (.mma g at_ tile ver reuse a bmap mode slot) g fun is s1 => s1.mmaIssue is (.mma g at_ tile ver reuse a bmap mode slot)
def execMmas (g : Guard) (at_ : MatTy) (tile ver : Nat) (reuse : Bool) (a : ASrc) (bmap : Nat) (mode : MmaMode)
    (slot : Option Nat) (s : State) : Host.Outcome State Fault Refusal :=
  s.word (.mmas g at_ tile ver reuse a bmap mode slot) g fun is s1 => s1.mmaIssue is (.mmas g at_ tile ver reuse a bmap mode slot)

/-! ### Chunks (R259, R273) -/

/-- An element with its scale applied: a NaN scale makes it NaN. -/
def matValue (ty : MatTy) (scale : Nat) (x : Nat) : Ex :=
  if ty.mx then (if scale % 256 = 255 then .nan else ((matFmt ty).read x).scale ((scale % 256 : Nat) - 127)) else (matFmt ty).read x

/-- One chunk into one element (R259): the exact sum of old and the products, rounded once. -/
def chunkElem (old : BitVec 32) (sub : Bool) (xs ys : List Ex) : BitVec 32 :=
  let prods := (xs.zip ys).map fun p => (p.1.mul p.2).1
  let sum := prods.foldl (fun acc p => (acc.add (if sub then p.neg else p)).1) (Fmt.f32.read old.toNat)
  BitVec.ofNat 32 (Fmt.f32.round .rn false sum).1

/-- The scratchpad bytes of both maps that a chunk reads are kept as copies: as they stand, and as they stood at the MMA's issue, since it may
have read either (R221, R271). -/
def Block.keepCopies (b : Block) (old : SMap (BitVec 8)) (os : List Nat) : Block :=
  { b with copies := os.foldl (fun m o =>
      let l := SMap.get [] m o
      SMap.set [] m o (([b.byte o, SMap.get 0 old o].filter fun x => !l.contains x).eraseDups ++ l)) b.copies }

/-- The tile after chunk j of an MMA (R259): every row and column, each operand element read either way where it has changed
(R221, R271). -/
def State.chunkInto (s : State) (g : Group) (b : Block) (m : MmaExec) (w : MmaWord) (d : Tile) (bt : MatTy) (k ch : Nat) : Block :=
  let j := m.chunk
  let bm := matMapOf m.bmap
  let am := matMapOf m.amap
  let old := SMap.get 0 m.old
  let ks := (List.range ch).map (ch * j + ·)
  let chunks := k / ch
  let n0 := s.free
  let aRow (i : Nat) : List Ex :=
    let cap := (m.a.getD i [], m.ascale.getD i [])
    -- A from the latch is read no more
    let now := if m.latched then cap else g.rowAt b w.a m.abase m.aloc w.ty k chunks i
    let inMap := match w.a with
      | .map _ => !m.latched && decide (i < am.ext)
      | .regs _ => false
    let el (q : Nat) : Nat :=
      let extra := if inMap then b.readsAs old (am.bitOf w.ty.bits q i) w.ty.bits else []
      pick (n0 + 8 * (128 * i + q)) ((cap.1.getD q 0 :: now.1.getD q 0 :: extra).eraseDups)
    let scs := if inMap && w.ty.mx then b.readsAs old (8 * (am.scale + 4 * i + j)) 8 else []
    let sc := pick (n0 + 2 ^ 15 + 8 * i) ((cap.2.getD j 127 :: now.2.getD j 127 :: scs).eraseDups)
    ks.map fun q => matValue w.ty sc (el q)
  let bCol (c : Nat) : List Ex :=
    if bm.ext ≤ c then ks.map fun _ => Ex.zero false
    else
      let sc := if w.scaled then pick (n0 + 2 ^ 16 + 8 * c) (b.readsAs old (8 * (bm.scale + 4 * c + j)) 8) else 0
      ks.map fun q => matValue bt sc (pick (n0 + 2 ^ 17 + 8 * (128 * c + q)) (b.readsAs old (bm.bitOf bt.bits q c) bt.bits))
  let cols := (List.range (96 * d.n)).map bCol
  (lanes m.rows).foldl (fun bl i =>
    let xs := aRow i
    cols.zipIdx.foldl (fun (bl : Block) (y : List Ex × Nat) =>
      let o := if w.mode == .ovr && j == 0 then 0 else b.acc32 d i y.2
      bl.setAcc d i y.2 (chunkElem o (w.mode == .sub) xs y.1)) bl) b

/-- The MMA of a group with its word, tile and types. -/
def State.mmaParts (s : State) (g : Group) (m : MmaExec) : Option (Block × MmaWord × Tile × MatTy × Nat × Nat) :=
  match s.block? g.bid, (wordOf m.raw).bind mmaWord with
  | some b, some w =>
    match SMap.find? b.tiles m.tile, MatTy.ofCode (matMapOf m.bmap).type with
    | some d, some bt => (matPair w.scaled w.ty bt).map fun p => (b, w, d, bt, p.1, p.2)
    | _, _ => none
  | _, _ => none

/-- The operand-log slot that a group's MMA holds. -/
def Group.mmaSlot (g : Group) : Option Nat := ((SMap.entries g.oplog).find? fun o => o.2.kind == .mma).map (·.1)

/-- MRES of a stopped MMA (R192, R273). -/
def mresOf (m : MmaExec) : BitVec 64 :=
  BitVec.ofNat 64 (2 ^ 63 + m.tile % 64 * 2 ^ 57 + m.word % 16 * 2 ^ 53 + m.chunk % 2 ^ 16 * 2 ^ 37 + m.ver % 256 * 2 ^ 29)

/-- MMA_CHUNK_END (R259, R273): the chunk reaches the tile; a halted MMA with chunks left stops there and records MRES. -/
def execMmaChunkEnd (gid : Nat) (s : State) : Host.Outcome State Fault Refusal :=
  match s.group? gid with
  | none => .refused (.notPending "MMA_CHUNK_END")
  | some g =>
    match g.mma with
    | none => .refused (.notPending "MMA_CHUNK_END")
    | some m =>
      match s.mmaParts g m with
      | none => .refused (.notPending "MMA_CHUNK_END")
      | some (b, w, d, bt, k, ch) =>
        if m.chunks ≤ m.chunk then .refused (.notPending "MMA_CHUNK_END")
        else
          let bm := matMapOf m.bmap
          let os := bm.bytes w.scaled bt.bits k (min bm.ext (96 * d.n)) m.chunks ++
            (match w.a with | .map _ => (matMapOf m.amap).bytes w.scaled w.ty.bits k (matMapOf m.amap).ext m.chunks | .regs _ => [])
          let s1 := { (s.setBlock g.bid ((s.chunkInto g b m w d bt k ch).keepCopies m.old os)) with free := s.free + 2 ^ 20 }
          let m1 := { m with chunk := m.chunk + 1 }
          if m1.halt && m1.chunk < m1.chunks then
            .next (s1.modGroup gid fun h => { h with mma := none, mres := mresOf m1 })
          else .next (s1.modGroup gid fun h => { h with mma := some m1 })

/-- A tile's version advances and the word's completion slot receives one arrival (R265, R417). -/
def State.tileDone (s : State) (gid tile : Nat) (writes : Bool) (slot : Option Nat) (rows : BitVec 32) : State :=
  match s.group? gid with
  | none => s
  | some g =>
    let s1 := if writes then s.modBlock g.bid fun b =>
        { b with tiles := SMap.modify b.tiles tile fun d => { d with ver := (d.ver + 1) % 256 } } else s
    match slot with
    | none => s1
    | some n =>
      match s1.block? g.bid with
      | none => s1
      | some b => s1.engineArrive (s1.hostBlock g b) n 1 0 gid ((lowest rows).getD 0)

/-- The latch after an MMA with the reuse flag: the A that it read (R270). -/
def MmaExec.latch (m : MmaExec) : Option ALatch :=
  if ((wordOf m.raw).bind mmaWord).any (·.reuse) then
    some { field := aField m.raw, base := m.abase, map := m.aloc, rows := m.a, scales := m.ascale }
  else none

/-- MMA_COMPLETE (R265): VER advances, the completion arrives, the latch holds A if it is to be used again (R270), and the entry goes on. -/
def execMmaComplete (gid : Nat) (s : State) : Host.Outcome State Fault Refusal :=
  match s.group? gid with
  | none => .refused (.notPending "MMA_COMPLETE")
  | some g =>
    match g.mma with
    | none => .refused (.notPending "MMA_COMPLETE")
    | some m =>
      if m.chunk < m.chunks then .refused (.notPending "MMA_COMPLETE")
      else
        let slot := ((wordOf m.raw).bind mmaWord).bind (·.slot)
        let s1 := s.modGroup gid fun h =>
          { h with mma := none, mres := 0, latch := m.latch, oplog := match h.mmaSlot with | some k => SMap.del h.oplog k | none => h.oplog }
        .next ((s1.tileDone gid m.tile true slot m.rows).entryOn gid m.clause m.word m.rows)

/-- A stopped MMA that may go on (R274): the group's block runs and, for freight, its core is OPEN. -/
def State.mayResume (s : State) (g : Group) : Bool :=
  match s.block? g.bid with
  | none => false
  | some b => bitAt g.mres.toNat 63 && g.mma.isNone && b.phase == .live && !g.halted
      && (g.cls != 2 || (s.core b.core).freight == .open_)

/-- MMA_RESUME (R274): the MMA goes on from CHUNK with the rows and maps of its operand-log entry and A from its operands; MRES.V clears when
it completes, and the group issues no word before. -/
def execMmaResume (gid : Nat) (s : State) : Host.Outcome State Fault Refusal :=
  match s.group? gid with
  | none => .refused (.notPending "MMA_RESUME")
  | some g =>
    if !s.mayResume g then .refused (.notPending "MMA_RESUME")
    else match g.mmaSlot.bind fun k => SMap.find? g.oplog k with
      | none => .refused (.notPending "MMA_RESUME")
      | some o =>
        let words (x : Nat) : List (BitVec 32) := (List.range 4).map fun j => BitVec.ofNat 32 (x / 2 ^ (32 * j))
        let m0 : MmaExec := { clause := o.clause, word := o.word, raw := o.raw, tile := bits g.mres.toNat 57 6,
                              ver := bits g.mres.toNat 29 8, rows := o.pending, chunk := bits g.mres.toNat 37 16, chunks := 0,
                              bmap := words (SMap.get 0 o.data 0), amap := words (SMap.get 0 o.data 1), a := [], ascale := [],
                              abase := [], aloc := [], latched := false, old := [], halt := false }
        match s.mmaParts g m0 with
        | none => .refused (.notPending "MMA_RESUME")
        | some (b, w, d, bt, k, ch) =>
          let rows := s.aRows g b o.raw w.a m0.amap w.ty k (k / ch) o.pending
          let mine := (matMapOf m0.bmap).bytes w.scaled bt.bits k (min (matMapOf m0.bmap).ext (96 * d.n)) (k / ch) ++
            (match w.a with | .map _ => (matMapOf m0.amap).bytes w.scaled w.ty.bits k (matMapOf m0.amap).ext (k / ch) | .regs _ => [])
          let places := g.aPlaces w.a m0.amap o.pending rows.2.2
          let m : MmaExec := { m0 with chunks := k / ch, a := rows.1, ascale := rows.2.1, latched := rows.2.2
                                       abase := places.1, aloc := places.2
                                       old := mine.foldl (fun q o => SMap.set 0 q o (b.byte o)) [] }
          let s1 := s.modGroup gid fun h => { h with mma := some m }
          .next { s1 with free := s.free + 1 }

/-! ### Tile rows (R414 to R417) -/

/-- A row map record. -/
structure RowMap where
  base : Nat
  cn : Nat
  stride : Nat
  nosat : Bool
  c0 : Nat
  fmt : Nat
  mbz : Bool
  deriving DecidableEq, Repr
def rowMapOf (r : List (BitVec 32)) : RowMap :=
  let x (i : Nat) : Nat := (r.getD i 0).toNat
  { base := bits (x 0) 0 20, cn := bits (x 1) 16 16, stride := bits (x 1) 0 16, nosat := bitAt (x 2) 17, c0 := bits (x 2) 8 9,
    fmt := bits (x 2) 0 4, mbz := bits (x 0) 20 12 != 0 || bits (x 2) 18 14 != 0 || bits (x 2) 4 4 != 0 || x 3 != 0 }
def rowBytes (fmt : Nat) : Nat := if fmt = 0 then 4 else if fmt < 3 then 2 else 1
def rowFmt (fmt : Nat) : Fmt :=
  match fmt with
  | 1 => Fmt.f16 | 2 => Fmt.bf16 | 3 => Fmt.e4m3 | 4 => Fmt.e5m2 | _ => Fmt.f32

/-- Check 3 of R416. -/
def RowMap.bad (m : RowMap) (load : Bool) (top pad : Nat) : Bool :=
  m.mbz || decide (96 < m.cn) || decide (4 < m.fmt) || (load && decide (3 ≤ m.fmt)) || (m.nosat && decide (m.fmt ≤ 2))
    || m.base % 16 != 0 || m.stride % 16 != 0 || decide (pad < m.base + top * m.stride + m.cn * rowBytes m.fmt)

/-- A tile word at issue (R416): in order, the tile is in use, the columns lie in it, and the row map is sound; then its
engine part runs. `cols` is the first column past those named, 0 when none is. -/
def State.tileWord (s : State) (i : Instr) (g : Guard) (tile : Nat) (cols : Group → Nat) (map : Option (Nat × Bool)) (reg : Option Dst) :
    Host.Outcome State Fault Refusal :=
  s.word i g fun is s1 =>
    match SMap.find? is.b.tiles tile with
    | none => s1.offAll is is.act 0x27
    | some d =>
      let c := cols is.g
      if c = 0 || 96 * d.n < c then s1.offAll is is.act 0x27
      else
        let rec4 := match map with
          | some (r, _) => is.g.record4 r
          | none => []
        let bad := match map with
          | some (_, load) => (rowMapOf rec4).bad load ((highest is.act).getD 0) is.b.spad
          | none => false
        if bad then s1.offAll is is.act 0x26
        else
          let x : EngineExec := { clause := is.e.clause, word := is.e.word, raw := (encode i).getD 0, lanes := is.act, map := rec4,
                                  base := (reg.map fun d => is.g.dstRegs d is.act).getD [] }
          s1.modGroup is.gid fun h => { h with tileWords := h.tileWords ++ [x] }

/-- The first column past those a row map names; 0 when it moves none. -/
def mapCols (r : Nat) (g : Group) : Nat :=
  let m := rowMapOf (g.record4 r)
  if m.cn = 0 then 0 else m.c0 + m.cn

def execAzero (g : Guard) (tile ver : Nat) (slot : Option Nat) (s : State) : Host.Outcome State Fault Refusal :=
  s.tileWord (.azero g tile ver slot) g tile (fun _ => 1) none none
def execAld (g : Guard) (tile ver map : Nat) (slot : Option Nat) (s : State) : Host.Outcome State Fault Refusal :=
  s.tileWord (.ald g tile ver map slot) g tile (mapCols map) (some (map, true)) none
def execAst (g : Guard) (tile ver : Nat) (now : Bool) (map : Nat) (slot : Option Nat) (s : State) : Host.Outcome State Fault Refusal :=
  s.tileWord (.ast g tile ver now map slot) g tile (mapCols map) (some (map, false)) none
def execArd (g : Guard) (tile ver : Nat) (now : Bool) (d : Dst) (c0 n : Nat) (s : State) : Host.Outcome State Fault Refusal :=
  s.tileWord (.ard g tile ver now d c0 n) g tile (fun _ => c0 + n) none (some d)
def execAwr (g : Guard) (tile ver : Nat) (a : Dst) (c0 n : Nat) (s : State) : Host.Outcome State Fault Refusal :=
  s.tileWord (.awr g tile ver a c0 n) g tile (fun _ => c0 + n) none (some a)

/-- ALD of one row: an f32 moves its bits, a narrower element widens exactly. -/
def Block.rowIn (b : Block) (t : Tile) (m : RowMap) (l : Nat) : Block :=
  (List.range m.cn).foldl (fun k j =>
    let x := b.readN (m.base + l * m.stride + j * rowBytes m.fmt) (rowBytes m.fmt)
    k.setAcc t l (m.c0 + j) (BitVec.ofNat 32 (if m.fmt = 0 then x else (Fmt.f32.round .rn false ((rowFmt m.fmt).read x)).1))) b

/-- AST of one row: an f32 moves its bits, a narrower format rounds to nearest even. -/
def Block.rowOut (b : Block) (t : Tile) (m : RowMap) (l : Nat) : Block :=
  (List.range m.cn).foldl (fun k j =>
    let x := (k.acc32 t l (m.c0 + j)).toNat
    k.writeN (m.base + l * m.stride + j * rowBytes m.fmt) (rowBytes m.fmt)
      (if m.fmt = 0 then x else ((rowFmt m.fmt).round .rn m.nosat (Fmt.f32.read x)).1)) b

/-- The first register of an engine word's operand in a lane, as at its issue. -/
def EngineExec.reg (x : EngineExec) (l : Nat) : Nat := SMap.get 0 x.base l - 1

/-- The effect of a tile word (R415). -/
def State.tileEffect (s : State) (gid bid : Nat) (g : Group) (t : Tile) (x : EngineExec) (i : Instr) : State :=
  let ls := lanes x.lanes
  let m := rowMapOf x.map
  match i with
  | .azero _ _ _ _ => s.modBlock bid fun b => ls.foldl (fun k l => (List.range (96 * t.n)).foldl (fun k c => k.setAcc t l c 0) k) b
  | .ald _ _ _ _ _ => s.modBlock bid fun b => ls.foldl (fun k l => k.rowIn t m l) b
  | .ast _ _ _ _ _ _ =>
    (s.modBlock bid fun b => ls.foldl (fun k l => k.rowOut t m l) b).modGroup gid fun h =>
      { h with padWrote := ls.foldl (fun q l =>
          SMap.setRun false q (m.base + l * m.stride) (List.replicate (m.cn * rowBytes m.fmt) true)) h.padWrote }
  | .ard _ _ _ _ _ c0 n =>
    (match s.block? bid with
     | none => s
     | some b => s.setGroup gid (ls.foldl (fun h l =>
         (List.range n).foldl (fun h j => h.setV (x.reg l + j) l (b.acc32 t l (c0 + j))) h) g))
  | .awr _ _ _ _ c0 n =>
    s.modBlock bid fun b => ls.foldl (fun k l =>
      (List.range n).foldl (fun k j => k.setAcc t l (c0 + j) (g.vreg (x.reg l + j) l)) k) b
  | _ => s

/-- TILE_WORD_COMPLETE (R417): the oldest tile word of the group completes: its rows move, the version of a written tile advances, the completion arrives, and the
entry goes on. DESIGN CHOICE, unsafe: log entry 46. -/
def execTileWordComplete (gid : Nat) (s : State) : Host.Outcome State Fault Refusal :=
  match s.group? gid with
  | none => .refused (.notPending "TILE_WORD_COMPLETE")
  | some g =>
    match g.tileWords.head?, (g.tileWords.head?.bind fun x => wordOf x.raw) with
    | some x, some i =>
      (match (tileOf i).bind fun t => ((s.block? g.bid).bind fun b => SMap.find? b.tiles t.1).map fun d => (t, d) with
       | none => .refused (.notPending "TILE_WORD_COMPLETE")
       | some (t, d) =>
         let slot := match i with
           | .azero _ _ _ sl | .ald _ _ _ _ sl | .ast _ _ _ _ _ sl => sl
           | _ => none
         let s1 := (s.tileEffect gid g.bid g d x i).modGroup gid fun h => { h with tileWords := h.tileWords.drop 1 }
         .next ((s1.tileDone gid t.1 t.2.2 slot x.lanes).entryOn gid x.clause x.word x.lanes))
    | _, _ => .refused (.notPending "TILE_WORD_COMPLETE")

end Sys2Proof.Machine
end

