-- ==== Sys2Proof/Machine/Clause.lean ====
section
/-! DEFINITION. Machine/Clause.lean: clause headers, their checks and the pages a fetch needs (R301 to R304, R315, R317). -/

namespace Sys2Proof.Machine

/-! ### The header (R301) -/

def hTag (h : Nat) : Nat := bits h 56 8
def hCount (h : Nat) : Nat := bits h 52 4
def hClass (h : Nat) : Nat := bits h 49 3
def hYield (h : Nat) : Bool := bitAt h 48
def hConv (h : Nat) : Bool := bitAt h 47
def hMode (h : Nat) : Nat := bits h 45 2
def hSlot (h : Nat) : Nat := bits h 37 8
def hSreg (h : Nat) : Nat := bits h 27 10
def hPairs (h : Nat) : Nat := bits h 19 8

/-- The wait fields agree with the mode (R302); the bound of a wait s register is checked when the wait is evaluated. -/
def waitFieldsOk (h : Nat) : Bool :=
  match hMode h with
  | 0 => hSlot h == 0 && hSreg h == 0
  | 1 => (decide (hSlot h ≤ 127) || hSlot h == 254) && hSreg h == 0
  | 2 => decide (hSlot h ≤ 127)
  | _ => false

/-! ### Classes (R303, R314) -/

/-- The class of an assigned major; NOP belongs to every class. -/
def classOk (cls major : Nat) : Bool :=
  if major = 0 || !assigned major then true
  else if major / 16 = 10 then cls == 1
  else if major / 16 = 11 then cls == 2
  else if major = 0x75 || (decide (0x95 ≤ major) && decide (major ≤ 0x99)) then cls == 3
  else cls == 0

/-- The control transfers by major (R303). -/
def controlMajor (m : Nat) : Bool := m ∈ [0xC0, 0xC1, 0xC2, 0xC3, 0xC4, 0xC5, 0xC6, 0xC9, 0xCA, 0xD4]

/-! ### Pairs (R315) -/

/-- The lane-select and scalar classes together: majors 0x01 to 0x65, and LANERD. A word of an unassigned major has no class, and is no clause
error: it raises ILLEGAL when it issues (R303, R316). -/
def pairMajor (m ty : Nat) : Bool :=
  (decide (1 ≤ m) && decide (m ≤ 0x65)) || (m == 0x66 && decide (ty < 2)) || !assigned m

/-- The long words. -/
def longMajor (m : Nat) : Bool := m ∈ [0x3D, 0x3E, 0x3F, 0x40, 0x41, 0x42, 0x43, 0x44, 0x45, 0x09, 0x0A]

/-- A float word of type .f64; a conversion from or to .f64 is an FP64 operation too (R149, R364). -/
def doubleWord (w : BitVec 64) : Bool :=
  let f := unpack w.toNat
  (decide (0x30 ≤ f.major) && decide (f.major ≤ 0x47) && f.ty == 1)
    || (match wordOf w with | some (.cvt _ _ _ .f64 _ _ _) => true | some (.cvt _ _ _ _ .f64 _ _) => true | _ => false)

/-- Registers that a word of a pair reads and writes, as scoreboard numbers. -/
def pairReads (i : Instr) : List Nat :=
  guardKeys i ++ ((usesAll i).rd.map fun r =>
    match r.op with
    | .v n => (List.range r.n).map fun j => keyV (n + j)
    | .s n => (List.range r.n).map fun j => keyS (n + j)
    | _ => []).flatten ++ (usesAll i).prd.map keyP ++ (match i with | .movFromIndex _ _ k => [keyX k] | _ => [])
def pairWrites (i : Instr) : List Nat :=
  ((usesAll i).wr.map fun r =>
    match r.op with
    | .v n => (List.range r.n).map fun j => keyV (n + j)
    | .s n => (List.range r.n).map fun j => keyS (n + j)
    | _ => []).flatten ++ (usesAll i).pwr.map keyP ++ (match i with | .movToIndex _ k _ => [keyX k] | _ => [])
def hasIdx (i : Instr) : Bool := ((usesAll i).rd ++ (usesAll i).wr).any Run.isIdx

/-- Every condition of R315. A word that does not decode (R316) has no operands to break the later ones. -/
def pairOk (w1 w2 : BitVec 64) : Bool :=
  let f1 := unpack w1.toNat
  let f2 := unpack w2.toNat
  let r (w : BitVec 64) := ((wordOf w).map pairReads).getD []
  let d (w : BitVec 64) := ((wordOf w).map pairWrites).getD []
  let vs := ((r w1 ++ r w2).filter (· < 256)).eraseDups
  pairMajor f1.major f1.ty && pairMajor f2.major f2.ty && !(longMajor f1.major && longMajor f2.major)
    && !doubleWord w1 && !doubleWord w2
    && !((wordOf w1).map hasIdx).getD false && !((wordOf w2).map hasIdx).getD false
    && decide (vs.length ≤ 3) && (vs.map (· % 4)).eraseDups.length == vs.length
    && !(d w1).any (fun k => (r w2 ++ d w2).contains k) && !(d w2).any (fun k => (r w1).contains k)

/-! ### The check (R317) -/

/-- A clause of header and words breaks no rule of R317. -/
def clauseOk (code : List (BitVec 64)) : Bool :=
  match code with
  | [] => false
  | h :: ws =>
    let x := h.toNat
    let major (w : BitVec 64) := (unpack w.toNat).major
    hTag x == 0xC7 && decide (hClass x < 4) && bits x 0 19 == 0 && waitFieldsOk x
      && ws.all (fun w => classOk (hClass x) (major w))
      && ws.dropLast.all (fun w => !controlMajor (major w))
      && (List.range 8).all fun j => !bitAt (hPairs x) j ||
          (match ws[2 * j]?, ws[2 * j + 1]? with
           | some a, some b => pairOk a b
           | _, _ => false)

/-! ### The pages of a fetch (R116) -/

/-- The leaf with which the home of an IA serves a fetch. -/
def State.fetchLeaf (s : State) (ia : Nat) : Option (BitVec 64) :=
  (s.cached (s.servingDie ia) ia).bind fun l =>
    if leafPermits l acExec && (!leafF l || s.farUp) then some l else none

/-- The 8 bytes of a word at an IA, with its leaf. -/
def State.codeWord (s : State) (leaf : BitVec 64) (ia : Nat) : BitVec 64 :=
  BitVec.ofNat 64 (s.bytesAt leaf (s.place leaf ia) 8)

/-- The IA page that a fetch of a clause waits for: the header's first, then its last word's. -/
def State.fetchPage (s : State) (cx : Context) (clause : Nat) : Option Nat :=
  match cx.translate clause acExec with
  | .error _ => none
  | .ok (ia, _) => match s.fetchLeaf ia with
    | none => some (ia / 4096)
    | some l =>
      match cx.translate (clause + 8 * (hCount (s.codeWord l ia).toNat + 1)) acExec with
      | .error _ => none
      | .ok (ib, _) => if (s.fetchLeaf ib).isNone then some (ib / 4096) else none

end Sys2Proof.Machine
end

