-- ==== Sys2Proof/Machine/Memop.lean ====
section
/-! DEFINITION. Machine/Memop.lean: the range operations of the memory dies and the exact-reduction cells: MEMOP, and the
events MEMOP_UNIT, CELL_OPERATION and CELL_MIRROR_UPDATE (R50 to R55, R402 to R404). -/

namespace Sys2Proof.Machine

/-! ### Cells (R50 to R53) -/

/-- Whether a cell has a live mirror to update. -/
def State.cellMirrored (s : State) (c : Nat) : Bool := !s.dieGone (cellDie c) && !s.dieGone ((cellDie c + 1) % 17)

/-- A cell as its server holds it. -/
def State.cellAt (s : State) (c : Nat) : Cell :=
  if s.dieGone (cellDie c) then SMap.get Cell.zero s.md.mirrors c else SMap.get Cell.zero s.md.cells c
def State.setCell (s : State) (c : Nat) (x : Cell) : State :=
  if s.dieGone (cellDie c) then s.modMd fun m => { m with mirrors := SMap.set Cell.zero m.mirrors c x }
  else s.modMd fun m => { m with cells := SMap.set Cell.zero m.cells c x }

/-- A cell after an operation (R51). -/
def CellOp.apply : CellOp → Cell → Cell
  | .xadd w x, c => c.add w x
  | .read _, c => c
  | .xclr, _ => Cell.zero
  | .partial_ p n pi ni, c => c.join p n pi ni

/-- Bytes of a MEMOP are done at a home: they arrive on its slot, and with its last unit the MEMOP ends (R54, R404). -/
def State.memopArrive (s : State) (home id bytes : Nat) : State :=
  match s.md.memops.find? fun m => m.id == id with
  | none => s
  | some m =>
    let s1 := if m.units.isEmpty && m.asked.isEmpty && m.open_.isEmpty then
        s.modMd fun d => { d with memops := d.memops.filter fun x => x.id != id }
      else s
    s1.arriveFrom home m.bid m.slot 0 bytes (.engine m.gid m.lane)

/-- The lanes that a posted cell request answers for: its own, and for an XCLR each lane that named the cell, which they clear once
(R53, R398). -/
def State.namedBy (s : State) (c id : Nat) (r : CellReq) : BitVec 32 :=
  match r.op, (s.core c).stores.find? fun b => b.id == id with
  | .xclr, some b => maskOf fun l => b.lanes.any fun x => x.1 == l && b.lanes.any fun y => y.1 == r.lane && y.2.1 == x.2.1
  | _, _ => bit r.lane

/-- The answer to a cell request's requester, in class 1: a value for a read or a returning add, an acknowledgement otherwise; with no
server left its lane takes POISON (R53). -/
def State.cellAnswer (s : State) (r : CellReq) (v : Option Nat) : State :=
  let f := s.message (portOfMemory (s.cellHome r.cell)) (portOfSource r.src) 1
  match r.who with
  | .op gid slot =>
    let s1 := f.1.modGroup gid fun g =>
      { g with oplog := SMap.modify g.oplog slot fun o => { o with replies := o.replies ++ [f.2] } }
    (match v with
     | some x => s1.modGroup gid fun g => g.land slot [(r.lane, x)]
     | none => s1.modGroup gid fun g => g.failOp slot (bit r.lane) 0x13 0xFF 0)
  | .store c id =>
    let ls := s.namedBy c id r
    f.1.modCore c fun k => { k with acks := k.acks ++
      [{ id := id, ok := if v.isSome then ls else 0, poison := if v.isSome then 0 else ls, flags := [], ticket := f.2 }] }
  | .memop id u => f.1.modRange id u fun x => { x with left := x.left - 1, replies := x.replies ++ [f.2], poison := x.poison || v.isNone }
  | _ => s

/-- Whether an update of a cell is still on its way to the mirror. -/
def CellOp.updates : CellOp → Bool
  | .read _ => false
  | _ => true
def State.cellBusy (s : State) (c : Nat) : Bool := s.md.mirrorQ.any fun u => u.req.cell == c && u.req.op.updates

/-- The oldest cell request that a die may look at: it has come, waits for no delay, and no earlier request of its group to the die waits
(R44, R52, R114, R115). -/
def State.nextCell (s : State) (die : Nat) : Option CellReq :=
  s.md.cellReqs.find? fun r => s.cellHome r.cell == die && r.retryAt.isNone && s.landed r.ticket
    && !s.cellBefore die r.tag r.order && !s.reqBefore die r.tag r.order

/-- The value a request returns: the sum found (R51, R397), or 0 for a plain update. -/
def CellReq.value (r : CellReq) (c : Cell) : Nat :=
  match r.op with
  | .xadd w _ => c.value w
  | .read w => c.value w
  | _ => 0

/-- An accepted cell request is performed: the update goes to the mirror in class 2, and it and every later read are answered when the
mirror has it (R51 to R53). -/
def State.performCell (s : State) (die : Nat) (r : CellReq) : State :=
  if (s.cellServer r.cell).isNone then s.cellAnswer r none
  else
    let c := s.cellAt r.cell
    let s1 := s.setCell r.cell (r.op.apply c)
    let up : MirrorUp := { req := r, value := r.value c, applied := false, ticket := Ticket.here }
    if r.op.updates && s.cellMirrored r.cell then
      let f := s1.message (portOfMemory die) (portOfMemory ((cellDie r.cell + 1) % 17)) 2
      f.1.modMd fun m => { m with mirrorQ := m.mirrorQ ++ [{ up with ticket := f.2 }] }
    else if !r.op.updates && s.cellBusy r.cell then s1.modMd fun m => { m with mirrorQ := m.mirrorQ ++ [up] }
    else s1.cellAnswer r (some (r.value c))

/-- CELL_OPERATION (R44, R51 to R53, R79): the next request of a die is discarded, answered retry, or performed in acceptance order. -/
def execCellOperation (die : Nat) (s : State) : Host.Outcome State Fault Refusal :=
  match s.nextCell die with
  | none => .refused (.notPending "CELL_OPERATION")
  | some r =>
    let s1 := s.modMd fun m => { m with cellReqs := m.cellReqs.erase r }
    let s2 :=
      if (s.func r.fn).flr != 0 && decide (r.src < 18) then s1
      else if !s.admits die r.src r.fn then
        let f := s.message (portOfMemory die) (portOfSource r.src) 1
        (f.1.modMd fun m => { m with cellReqs := m.cellReqs.map fun x =>
          if x.tag = r.tag then { x with retryAt := some (s.now + s.retryDelay die r.src), reply := f.2 } else x }).bumpDelay die r.src
      else (s1.performCell die r).calmDelay die r.src
    .next (s2.consume (portOfSource r.src) (portOfMemory die) 0)

/-- Reads of a cell that no earlier update on its way to the mirror precedes are answered (R53). -/
def State.drainReads (s : State) (cell : Nat) : State :=
  let mine := s.md.mirrorQ.filter fun u => u.req.cell == cell
  (mine.takeWhile fun u => !u.req.op.updates).foldl (fun t u =>
    (t.modMd fun m => { m with mirrorQ := m.mirrorQ.erase u }).cellAnswer u.req (some u.value)) s

/-- An update that the mirror has acknowledged: its request and the reads that waited for it are answered (R53). -/
def State.mirrorAcked (s : State) (u : MirrorUp) : State :=
  ((s.modMd fun m => { m with mirrorQ := m.mirrorQ.erase u }).cellAnswer u.req (some u.value)).drainReads u.req.cell

/-- The mirror applies an update, keeps its tag (R64) and acknowledges it in class 2. -/
def State.mirrorApplies (s : State) (die : Nat) (u : MirrorUp) : State :=
  let c := u.req.cell
  let f := s.message (portOfMemory die) (portOfMemory (cellDie c)) 2
  f.1.modMd fun m => { m with
    mirrorQ := m.mirrorQ.map fun x => if x = u then { u with applied := true, ticket := f.2 } else x
    mirrors := SMap.set Cell.zero m.mirrors c (u.req.op.apply (SMap.get Cell.zero m.mirrors c))
    tags := (m.tags.filter fun t => s.now < t.2.2.1 + tagLife) ++ [(u.req.tag, die, s.now, [(u.req.lane, u.value)])] }

/-- CELL_MIRROR_UPDATE (R53): an acknowledgement that has reached a cell's die is acted on, else a mirror on the die applies the oldest update
that has come. -/
def execCellMirrorUpdate (die : Nat) (s : State) : Host.Outcome State Fault Refusal :=
  match s.md.mirrorQ.find? fun u => u.applied && cellDie u.req.cell == die && s.landed u.ticket with
  | some u => .next (s.mirrorAcked u)
  | none =>
    match s.md.mirrorQ.find? fun u => u.req.op.updates && !u.applied && (cellDie u.req.cell + 1) % 17 == die && s.landed u.ticket with
    | none => .refused (.notPending "CELL_MIRROR_UPDATE")
    | some u => .next (s.mirrorApplies die u)

/-! ### MEMOP at issue (R402, R403) -/

def memopReg (rs : List (BitVec 32)) (k : Nat) : Nat := (rs.getD k 0).toNat
def memopY (rs : List (BitVec 32)) : Nat := memopReg rs 0 + memopReg rs 1 * 2 ^ 32
def memopX (rs : List (BitVec 32)) : Nat := memopReg rs 2 + memopReg rs 3 * 2 ^ 32

/-- The record check of R403. -/
def memopBad (kind ty : Nat) (rs : List (BitVec 32)) : Bool :=
  let n := memopSize kind ty
  let cnt := memopReg rs 4
  let y := memopY rs
  let x := memopX rs
  let st := memopReg rs 6
  cnt == 0
    || (kind != 4 && y % n != 0) || (kind != 0 && x % n != 0)
    || (kind == 4 && (st == 0 || st % n != 0 || y != 0 || memopReg rs 5 != 0))
    || (kind == 0 && memopReg rs 5 != 0) || ((kind == 2 || kind == 3) && memopReg rs 5 != 0)
    || (kind == 1 && n == 2 && memopReg rs 5 / 2 ^ 16 != 0)
    || (kind != 4 && (memopReg rs 6 != 0 || memopReg rs 7 != 0))
    || (kind != 0 && kind != 4 && x != y && x < y + n * cnt && y < x + n * cnt)

/-- A whole VA range against a context's segments (R403): the cause and VA where it fails. -/
def Context.rangeFault (c : Context) (t : Rights) : Nat → Nat → Nat → Option (Nat × Nat)
  | 0, _, _ => none
  | fuel + 1, va, n =>
    if n = 0 then none
    else match c.translate va t with
      | .error e => some (e, va)
      | .ok _ =>
        match c.seg va with
        | none => some (0x10, va)
        | some g =>
          let step := (g.base + g.limit + 1) * 4096 - va
          c.rangeFault t fuel (va + step) (n - step)

/-- The units a MEMOP is cut into: (VA of the first byte of the range in the unit, bytes), in ascending order; a reduce
counts the element bytes that each unit holds. -/
def memopUnits (kind ty : Nat) (rs : List (BitVec 32)) : List (Nat × Nat) :=
  let n := memopSize kind ty
  let cnt := memopReg rs 4
  if kind = 4 then
    let vas := (List.range cnt).map fun i => memopX rs + i * memopReg rs 6
    ((vas.map fun v => v / 256).eraseDups).map fun u =>
      let mine := vas.filter fun v => v / 256 == u
      (mine.headD 0, n * mine.length)
  else unitRuns (n * cnt / 256 + 2) (memopY rs) (n * cnt)

/-- MEMOP (R403): checked at issue, then its units go to the homes. A block has at most 8 (R404). -/
def State.memopWord (s : State) (i : Instr) (g : Guard) (kind ty rec slot : Nat) : Host.Outcome State Fault Refusal :=
  s.word i g fun is0 s1 =>
    if is0.own = 0 then s1.goOn is0
    else State.lateGate is0 s1 fun is s2 =>
      let bid := s2.nameBlock is
      let rs := (List.range 8).map fun k => is.g.sreg (rec + k)
      let low := bit is.lowOwn
      if 8 ≤ (s2.md.memops.filter fun m => m.bid == bid).length then s
      else if !s2.nameOk is slot then s2.offAll is low 0x22
      else if memopBad kind ty rs then s2.offAll is low 0x25
      else if kind = 4 && (memopReg rs 7 % 8 != 0 || s2.cellCount is.b.ctx ≤ memopReg rs 7 / 8) then s2.offAll is low 0x21
      else match s2.ctx? is.b.ctx with
        | none => s2.goOn is
        | some cx =>
          let n := memopSize kind ty
          let cnt := memopReg rs 4
          let fy := if kind = 4 then none else cx.rangeFault acWrite 9 (memopY rs) (n * cnt)
          let fx := if kind = 0 then none
            else cx.rangeFault acRead 9 (memopX rs) (if kind = 4 then (cnt - 1) * memopReg rs 6 + n else n * cnt)
          match fy.map (fun f => (f, acWrite)) |>.or (fx.map fun f => (f, acRead)) with
          | some (f, t) => s2.addrFaults is i true 5 t.toNat ((lanes is.own).map fun l => (l, f.1, f.2)) fun is' s3 => s3.goOn is'
          | none =>
            let m : Memop := { id := s2.md.nextMemop, gid := is.gid, bid := bid, lane := is.lowOwn, ctx := is.b.ctx, kind := kind,
                               ty := ty, regs := rs, slot := slot, units := memopUnits kind ty rs, asked := [], open_ := [], fails := [],
                               src := dieOf (is.g.coreOf is.b), clause := is.e.clause, word := is.e.word, segs := cx.segs }
            (s2.modMd fun d => { d with memops := d.memops ++ [m], nextMemop := d.nextMemop + 1 }).goOn is

def memopTyCode : MemopTy → Nat
  | .f32 => 0
  | .f16 => 2
  | .bf16 => 3
def execMemopFill (g : Guard) (rec slot : Nat) (s : State) : Host.Outcome State Fault Refusal :=
  s.memopWord (.memopFill g rec slot) g 0 0 rec slot
def execMemopAxpy (g : Guard) (t : MemopTy) (rec slot : Nat) (s : State) : Host.Outcome State Fault Refusal :=
  s.memopWord (.memopAxpy g t rec slot) g 1 (memopTyCode t) rec slot
def execMemopAdd (g : Guard) (t : MemopTy) (rec slot : Nat) (s : State) : Host.Outcome State Fault Refusal :=
  s.memopWord (.memopAdd g t rec slot) g 2 (memopTyCode t) rec slot
def execMemopMul (g : Guard) (t : MemopTy) (rec slot : Nat) (s : State) : Host.Outcome State Fault Refusal :=
  s.memopWord (.memopMul g t rec slot) g 3 (memopTyCode t) rec slot
def execMemopReduce (g : Guard) (wide : Bool) (rec slot : Nat) (s : State) : Host.Outcome State Fault Refusal :=
  s.memopWord (.memopReduce g wide rec slot) g 4 (if wide then 1 else 0) rec slot

/-! ### Units (R54, R55) -/

/-- The context that a MEMOP's accesses go through: its segments as at issue. -/
def Memop.view (m : Memop) (cx : Context) : Context := { cx with segs := m.segs }

/-- Whether a request belongs to a unit of a MEMOP. -/
def ofMemop (id va : Nat) (w : Requester) : Bool := w == .memop id va

/-- A unit is over: nothing of it is asked for any more and its bytes arrive. -/
def State.memopDone (s : State) (home : Nat) (m : Memop) (va bytes : Nat) : State :=
  (s.modMd fun d => { d with
    reqs := d.reqs.filter fun r => !ofMemop m.id va r.who
    held := d.held.filter fun h => !ofMemop m.id va h.req.who
    memops := d.memops.map fun x => if x.id = m.id then
      { x with units := x.units.filter fun u => u.1 != va, asked := x.asked.filter fun u => u.1 != va
               open_ := x.open_.filter fun u => u.va != va, fails := x.fails.filter fun f => f.1 != va } else x }).memopArrive home m.id bytes

/-- The fault of a unit, attributed to the group (R117). -/
def Memop.fault (m : Memop) (va cause reason ia : Nat) (t : Rights) : LateFault :=
  { kind := 5, cause := cause, lanes := bit m.lane, clause := m.clause, word := m.word, access := t.toNat, reason := reason,
    od := 0, cmd := 0, ia := ia, vas := [(m.lane, va)], slot := none }

/-- The bytes of a unit that is not over. -/
def Memop.bytesOf (m : Memop) (va : Nat) : Nat :=
  (((m.units ++ m.asked ++ m.open_.map fun u => (u.va, u.bytes)).find? fun u => u.1 == va).map (·.2)).getD 0

/-- Final faults that units of a MEMOP have met (R117): they are not performed, their bytes arrive, and each is attributed to the group. -/
def State.memopSettle (s : State) (home id : Nat) : State :=
  match s.md.memops.find? fun m => m.id == id with
  | none => s
  | some m => m.fails.foldl (fun t f =>
      if m.bytesOf f.1 = 0 then t
      else (t.memopDone home m f.1 (m.bytesOf f.1)).lateFault m.gid (m.fault f.1 f.2.1 f.2.2.1 f.2.2.2.1 f.2.2.2.2)) s

/-- The request that the memory die of a unit's home sends or holds for it. -/
def State.memopReq (s : State) (home : Nat) (m : Memop) (va : Nat) (kind : ReqKind) (width : Nat) : Req :=
  reqBase (18 + home) m.ctx (((s.ctx? m.ctx).map (·.fn)).getD 0) (.memop m.id va) kind [] width

/-- The updates of a unit join the writes of its home, one for each element: a fill's pattern, or the operation on the element and its source;
one computed from a poisoned sector poisons its destination's (R54, R55, R62). Far ones go on to the host bridge. -/
def State.memopUpdates (s : State) (home : Nat) (m : Memop) (u : RangeUnit) : State :=
  let n := memopSize m.kind m.ty
  let k := u.bytes / n
  let pattern := memopReg m.regs 2 + memopReg m.regs 3 * 2 ^ 32
  let one (i : Nat) : HeldWrite :=
    let ia := u.ia + n * i
    let at_ := s.place u.leaf ia
    let bad := m.kind != 0 && (u.bad.contains i || (List.range n).any fun b => s.poisonedAt (leafF u.leaf) (ia + b) (at_ + b))
    let a : LaneAcc := { lane := i, va := u.va + n * i, ia := ia, data := if m.kind = 0 then pattern else SMap.get 0 u.got i
                         data2 := memopReg m.regs 5 }
    { req := { s.memopReq home m u.va (if bad then .spoil else .elem) n with
        lanes := [a], slot := 16 * m.kind + m.ty, tag := s.md.nextTag + i }
      pa := at_, leaf := u.leaf }
  let ws := (List.range k).map one
  let s1 := (s.modMd fun d => { d with nextTag := d.nextTag + k }).modRange m.id u.va fun x => { x with stage := 2, left := k, replies := [] }
  if leafF u.leaf then ws.foldl (fun t w => t.passOn home w) s1
  else s1.modMd fun d => { d with held := d.held ++ ws }

/-- A home asks the homes of a unit's source elements for them (R54). -/
def State.memopSources (s : State) (home : Nat) (m : Memop) (cx : Context) (u : RangeUnit) : State :=
  let n := memopSize m.kind m.ty
  let va := memopX m.regs + (u.va - memopY m.regs)
  match (m.view cx).engineLanes acRead ((List.range (u.bytes / n)).map fun i => (va + n * i, 0)) with
  | .error f => (s.rangeFails m.id u.va f.1 0xFF 0 acRead).memopSettle home m.id
  | .ok ls => (s.modRange m.id u.va fun x => { x with stage := 1, left := (perUnit ls).length }).requestAll
      (s.memopReq home m u.va .load n) ls

/-- A home sums its own elements of a reduce exactly and sends the partial to the cell (R54); a poisoned one sets NAN there (R62). -/
def State.memopPartial (s : State) (home : Nat) (m : Memop) (u : RangeUnit) : State :=
  let n := memopSize 4 m.ty
  let st := memopReg m.regs 6
  let one (i : Nat) : Option Nat :=
    let ia := u.ia + st * i
    let at_ := s.place u.leaf ia
    if (List.range n).any fun b => s.poisonedAt (leafF u.leaf) (ia + b) (at_ + b) then none else some (s.bytesAt u.leaf at_ n)
  let vals := (List.range (u.bytes / n)).map fun i => (i, one i)
  let sum := vals.foldl (fun (c : Cell) v => match v.2 with
    | none => { c with nan := true }
    | some x => c.add (n == 8) x) Cell.zero
  let bad := ((vals.filter (·.2.isNone)).map fun v => (u.ia + st * v.1) / 32).eraseDups
  let s1 := if bad.isEmpty then s else s.memRecord 0x0304 1 home m.ctx bad.length (u.ia / 256 * 256)
  (s1.modRange m.id u.va fun x => { x with stage := 2, left := 1, replies := [] }).cellRequest
    { tag := 0, src := 18 + home, fn := ((s.ctx? m.ctx).map (·.fn)).getD 0, order := none, ticket := Ticket.here, retryAt := none,
      reply := Ticket.here, cell := ((s.ctx? m.ctx).map (·.firstCell)).getD 0 + memopReg m.regs 7 / 8, ctx := m.ctx,
      who := .memop m.id u.va, lane := 0, op := .partial_ sum.c sum.nan sum.pinf sum.ninf }

/-- A unit's last update or its partial has been answered: its bytes arrive. An update that a poisoned sector or a lost cell refused gives its
group a POISON fault (R53, R62). DESIGN CHOICE, unsafe: log entry 148. -/
def State.memopFinish (s : State) (home : Nat) (m : Memop) (u : RangeUnit) : State :=
  let s1 := s.memopDone home m u.va u.bytes
  if u.poison then s1.lateFault m.gid (m.fault u.va 0x13 0xFF (u.ia / 4096 * 4096) (if m.kind = 4 then acRead else acWrite)) else s1

/-- The next thing a home does with a unit that it has accepted; none while answers are under way. -/
def State.memopStep (s : State) (home : Nat) (m : Memop) (cx : Context) (u : RangeUnit) : Option State :=
  if u.home != home then none
  else if u.stage = 0 then
    some (if m.kind = 4 then s.memopPartial home m u else if m.kind = 0 then s.memopUpdates home m u else s.memopSources home m cx u)
  else if u.left != 0 || !u.replies.all s.landed then none
  else some (if u.stage = 1 then s.memopUpdates home m u else s.memopFinish home m u)

/-- The issuing group's die sends the request of a unit to its home in class 0 (R14, R54). -/
def State.memopAsk (s : State) (home : Nat) (m : Memop) (cx : Context) (u : Nat × Nat) : Option State :=
  match (m.view cx).translate u.1 (if m.kind = 4 then acRead else acWrite) with
  | .error c => some ((s.rangeFails m.id u.1 c 0xFF 0 (if m.kind = 4 then acRead else acWrite)).memopSettle home m.id)
  | .ok (ia, _) =>
    if s.servingDie ia != home then none
    else
      let s1 := s.modMd fun d => { d with memops := d.memops.map fun x =>
        if x.id = m.id then { x with units := x.units.erase u, asked := x.asked ++ [u] } else x }
      some (s1.request (reqBase m.src m.ctx cx.fn (.memop m.id u.1) (if m.kind = 4 then .reduce else .range)
        [{ lane := 0, va := u.1, ia := ia, data := u.2, data2 := 0 }] 1))

/-- What comes next of a MEMOP at a home: a unit that it has accepted goes on, else the next unit for it is asked for. -/
def State.memopNext (s : State) (home : Nat) (m : Memop) (cx : Context) : Option State :=
  (m.open_.findSome? (s.memopStep home m cx)).or (m.units.findSome? (s.memopAsk home m cx))

/-- MEMOP_UNIT (R54): what comes next at a home of the oldest MEMOP that has something for it. DESIGN CHOICE, unsafe: log entry 29. -/
def execMemopUnit (home : Nat) (s : State) : Host.Outcome State Fault Refusal :=
  match s.md.memops.findSome? fun m => (s.ctx? m.ctx).bind fun cx => s.memopNext home m cx with
  | some s1 => .next s1
  | none => .refused (.notPending "MEMOP_UNIT")

end Sys2Proof.Machine
end

