-- ==== Sys2Proof/Machine/Replies.lean ====
section
/-! DEFINITION. Machine/Replies.lean: answers on their way back to groups, engines and the host: parity acknowledgements,
store acknowledgements, wakes and finals, renewals, the completion of loads, and host accesses (R45, R48, R72, R75, R111 to
R118, R164, R165, R208, R212, R225). -/

namespace Sys2Proof.Machine

/-! ### Host accesses (R72, R75, R98, R99, R117) -/

/-- A context and the IA of a run of bytes in a function's host view, when the segment holds all of it and allows the
access. -/
def State.hostView (s : State) (f va n : Nat) (t : Rights) : Option (Nat × Nat) :=
  match s.hostSeg f va with
  | some (c, g) => if g.allows t && g.holds (va + n - 1) then some (c, g.ia va) else none
  | none => none

/-- A host access gets its number and a request per unit goes to its home. -/
def State.hostSend (s : State) (r : HostReq) (pieces : List (Nat × Nat × Nat × Nat)) (data : Nat) : State :=
  let id := s.host.nextHost
  let home := (pieces.head?.map fun p => s.servingDie p.2.1).getD 0
  let s1 := { s with host := { s.host with
    nextHost := id + 1
    ops := s.host.ops ++ [{ id := id, began := s.now, req := r, left := pieces.length, got := [], home := home }] } }
  pieces.foldl (fun t p =>
    t.request { reqBase 17 p.1 r.fn (.host id) (if r.write then .store else .load)
      [{ lane := 0, va := r.va + p.2.2.1, ia := p.2.1, data := if r.write then data else p.2.2.1, data2 := 0 }] p.2.2.2 with
      lease := false }) s1

/-- Posted writes of a function leave in order: one to another home, and one to the management queue, waits for every earlier one
(R72). -/
def State.hostPump : Nat → State → Nat → State
  | 0, s, _ => s
  | n + 1, s, f =>
    match (s.func f).posted with
    | [] => s
    | w :: rest =>
      let ring := w.2.1 == ringCtx
      if s.host.ops.any fun o => o.req.fn == f && o.req.write && !o.req.relaxed && (ring || o.home != s.servingDie w.2.2) then s
      else
        let s1 := s.modFunc f fun x => { x with posted := rest }
        let s2 := if ring then { s1 with host := s1.host.ringWrite w.1.va w.1.data }
          else s1.hostSend w.1 [(w.2.1, w.2.2, 0, w.1.data.length)] (ofBytes w.1.data)
        State.hostPump n s2 f
def State.pumpHost (s : State) (f : Nat) : State := s.hostPump ((s.func f).posted.length + 1) f

/-- An answer to a host access, after which its function's posted writes may go on. -/
def State.hostDone (s : State) (id : Nat) (fail : Bool) : State :=
  match s.host.ops.find? fun o => o.id == id with
  | none => s
  | some o => (s.hostAnswer id [] fail).pumpHost o.req.fn

/-- An access that lies outside the function's segments (R75): a read completes as Unsupported Request (BAR) or with zero
data and poison (CXL.mem); a write is discarded. -/
def State.hostMiss (s : State) (r : HostReq) : State :=
  if r.write then s
  else { s with host := { s.host with done := s.host.done ++
    [{ fn := r.fn, ok := r.cxl, poisoned := r.cxl, data := if r.cxl then List.replicate r.len 0 else [] }] } }

/-- An access of the management queue (R81): a read answers what stands there; a write goes there in the order of posted writes.
DESIGN CHOICE, unsafe: log entry 138. -/
def State.hostRing (s : State) (r : HostReq) : State :=
  if !r.write then
    { s with host := { s.host with done := s.host.done ++
      [{ fn := r.fn, ok := true, poisoned := false, data := s.host.ringRead r.va r.len }] } }
  else if r.relaxed then { s with host := s.host.ringWrite r.va r.data }
  else (s.modFunc r.fn fun y => { y with posted := y.posted ++ [(r, ringCtx, 0)] }).pumpHost r.fn

/-- An access of BAR2/3 (R74, R75): it reaches the MSI-X table and the pending bits only. -/
def State.hostTable (s : State) (r : HostReq) : State :=
  if r.write then s.tableWrite r.fn r.va r.data
  else { s with host := { s.host with done := s.host.done ++
    [{ fn := r.fn, ok := true, poisoned := false, data := s.tableRead r.fn r.va r.len }] } }

/-- A BAR0/1 access lies in the function's window (R74); CXL.mem has none. -/
def State.inWindow (s : State) (r : HostReq) (n : Nat) : Bool := r.cxl || decide (r.va + n ≤ (s.func r.fn).window)

/-- HOST_MEMORY_ACCESS (R72, R75): a BAR or CXL.mem access. During a function-level reset BAR reads answer all ones and
writes are discarded (R87), and a CXL.mem read, of which the rule does not speak, answers zero with poison; a disabled function's
accesses lie outside. No access comes while link 0 is down (R70). DEDUCED, unsafe: log entry 38; DESIGN CHOICE, unsafe: log entry 131. -/
def execHostMemoryAccess (r : HostReq) (s : State) : Host.Outcome State Fault Refusal :=
  let x := s.func r.fn
  let n := if r.write then r.data.length else r.len
  if !s.host.link0 then .refused (.notPending "HOST_MEMORY_ACCESS")
  else if x.flr != 0 then
    .next (if r.write then s else if r.cxl then s.hostMiss r
      else { s with host := { s.host with done := s.host.done ++ [{ fn := r.fn, ok := true, poisoned := false, data := List.replicate r.len 0xFF }] } })
  else if n = 0 || x.disabled then .next (s.hostMiss r)
  else if !r.cxl && r.bar == 2 then .next (s.hostTable r)
  else if (!r.cxl && r.bar != 0) || !s.inWindow r n then .next (s.hostMiss r)
  else if onRing r n then .next (s.hostRing r)
  else if r.write then
    let ps := unitPieces (n / 256 + 2) r.va r.data
    let at_ := ps.map fun p => (p, s.hostView r.fn p.1 p.2.length acWrite)
    if at_.any (·.2.isNone) then .next (s.hostMiss r)
    else
      let ws := at_.filterMap fun p => p.2.map fun c => ({ r with va := p.1.1, data := p.1.2 }, c.1, c.2)
      if r.relaxed then
        .next (ws.foldl (fun t w => t.hostSend w.1 [(w.2.1, w.2.2, 0, w.1.data.length)] (ofBytes w.1.data)) s)
      else .next ((s.modFunc r.fn fun y => { y with posted := y.posted ++ ws }).pumpHost r.fn)
  else
    let at_ := (unitRuns (n / 256 + 2) r.va n).map fun p => (p, s.hostView r.fn p.1 p.2 acRead)
    if at_.any (·.2.isNone) then .next (s.hostMiss r)
    else .next (s.hostSend r (at_.filterMap fun p => p.2.map fun c => (c.1, c.2, p.1.1 - r.va, p.1.2)) 0)

/-- Drops what a host access still has at homes. -/
def State.dropHost (s : State) (id : Nat) : State :=
  s.modMd fun m => { m with reqs := m.reqs.filter fun r => r.who != .host id }

/-- 1 ms in cc. -/
def oneMilli : Nat := 2000000

/-- HOST_FAULT_TIMEOUT (R117): a host access that has waited 1 ms on a page completes as if it lay outside. DEDUCED, unsafe: log entry 39. -/
def execHostFaultTimeout (s : State) : Host.Outcome State Fault Refusal :=
  match s.host.ops.find? fun o => decide (o.began + oneMilli ≤ s.now) &&
      s.md.reqs.any fun r => r.who == .host o.id && r.waiting.isSome with
  | none => .refused (.notPending "HOST_FAULT_TIMEOUT")
  | some o =>
    let s1 := (s.dropHost o.id).modXl fun x => x
    let others := s1.host.ops.filter fun x => x.id != o.id
    .next (({ s1 with host := { s1.host with ops := others } }.hostMiss o.req).pumpHost o.req.fn)

/-! ### Acknowledgements of writes (R45, R115, R208) -/

/-- The answer to a performed write's requester, in class 1 (R14, R45, R49, R62). -/
def State.answerWrite (s : State) (d : Delta) : State :=
  let r := d.req
  let ok := r.laneMask &&& ~~~d.poison
  let fl (l : Nat) : BitVec 5 := ((d.flags.find? fun x => x.1 == l).map (·.2)).getD 0
  match r.who with
  | .op gid slot =>
    let s1 := (s.modGroup gid fun g =>
      let g1 := g.joinReturned (lanes ok) fl
      g1.land slot (if r.kind.isAtomic then d.results else (r.lanes.filter fun a => lane ok a.lane).map fun a => (a.lane, 0))).replied d.home r
    if d.poison = 0 then s1 else s1.failReq r d.poison 0x13 0xFF
  | .store c id =>
    let f := s.replyTo d.home r
    f.1.modCore c fun k => { k with acks := k.acks ++ [{ id := id, ok := ok, poison := d.poison, flags := d.flags, ticket := f.2 }] }
  | .host id => s.hostAnswer id [] false
  | .copy bid key u =>
    (if d.poison = 0 then s
     else
       let a := ((r.lanes.find? fun x => lane d.poison x.lane).map fun x => (x.va, x.ia)).getD (0, 0)
       s.modCopy bid key fun c => c.failed u 0x13 0xFF a.1 (a.2 / 4096 * 4096)).replied d.home r
  | .memop id u => (s.replied d.home r).modRange id u fun x => { x with poison := x.poison || (d.poison != 0 && r.slot / 16 == 0) }
  | .pref _ => s

/-- PARITY_ACK (R45): the home acknowledges the oldest write whose parity is done and whose acknowledgement has come back. -/
def execParityAck (home : Nat) (s : State) : Host.Outcome State Fault Refusal :=
  match s.md.parityAcks.find? fun d => d.home == home && s.landed d.ticket with
  | none => .refused (.notPending "PARITY_ACK")
  | some d =>
    let s1 := (s.modMd fun m => { m with parityAcks := m.parityAcks.erase d }).answerWrite d
    .next (match d.req.who with
      | .host _ => s1.pumpHost d.req.fn
      | _ => s1)

/-- A peer store is performed at its core (R208). -/
def State.performPeer (s : State) (c : Nat) (b : BufStore) : State :=
  (b.lanes.foldl (fun t x => t.modBlock (x.2.2.1 / 2 ^ 20) fun k => k.writeN (x.2.2.1 % 2 ^ 20) b.width x.2.2.2) s).modCore c fun k =>
    { k with stores := k.stores.filter fun y => y.id != b.id }

/-- STORE_ACK (R45, R62, R115): the oldest acknowledgement that has come reaches a core's store buffer, or its oldest peer store is
performed and acknowledged (R208). -/
def execStoreAck (core : Nat) (s : State) : Host.Outcome State Fault Refusal :=
  let k := s.core core
  match k.acks.find? fun a => s.landed a.ticket with
  | some a =>
    let s1 := s.setCore core { k with acks := k.acks.erase a }
    (match k.stores.find? fun b => b.id == a.id with
     | none => .next s1
     | some b =>
       let s2 := s1.modGroup b.gid fun g => g.joinReturned (lanes a.ok) fun l => ((a.flags.find? fun x => x.1 == l).map (·.2)).getD 0
       let s3 := s2.dropStore core b.id a.ok
       let ia := ((b.lanes.find? fun x => lane a.poison x.1).map (·.2.2.1)).getD 0
       .next (if a.poison = 0 then s3
         else (s3.dropStore core b.id a.poison).lateFault b.gid (storeFault b a.poison 0x13 0xFF (if b.sp = 5 then 0 else ia))))
  | none =>
    match k.stores.find? fun b => b.sp == 2 with
    | some b => .next (s.performPeer core b)
    | none => .refused (.notPending "STORE_ACK")

/-! ### Wakes and finals (R111, R113 to R117) -/

/-- Whether a request waits on a page at a die; far pages gather at the bridge (die 17). -/
def State.waitsOn (s : State) (die page : Nat) (r : Req) : Bool :=
  r.waiting == some page && (die == 17 || s.homeOf r == die)

/-- A group whose block is saved: answers to it are discarded (R123). -/
def State.groupSaved (s : State) (gid : Nat) : Bool :=
  match (s.group? gid).bind fun g => s.block? g.bid with
  | some b => b.phase == .saved || b.phase == .restoring
  | none => true

/-- Requests of a waiter that wait on a page at a die. -/
def State.waitingOf (s : State) (die page : Nat) (w : Waiter) : List Req :=
  s.md.reqs.filter fun r => s.waitsOn die page r && s.waiterOf r == some w

/-- What follows at an engine whose request has met a fault: the unit's command or MEMOP acts on it (R117, R249). -/
def State.settleEngine (s : State) (r : Req) : State :=
  match r.who with
  | .copy bid key _ => s.copySettle bid key
  | .memop id _ => s.memopSettle (s.homeOf r) id
  | _ => s
/-- A waiting request is made again; one of a cancelled command is not (R113, R250). -/
def State.wakeReq (s : State) (r : Req) : State := if s.ghostly r then s.layGhost r else (s.reissue r).settleEngine r

/-- WAKE_REPLAY (R113): the oldest wake that has come reaches its requester, which re-issues what waits on the page. -/
def State.wake (s : State) (a : Answer) : State :=
  match a.waiter with
  | .group gid => if s.groupSaved gid then s else (s.waitingOf a.die a.page a.waiter).foldl State.reissue s
  | .box => s
  | w => (s.waitingOf a.die a.page w).foldl State.wakeReq s
def execWakeReplay (s : State) : Host.Outcome State Fault Refusal :=
  match s.xl.answers.find? fun a => a.final.isNone && s.landed a.ticket with
  | none => .refused (.notPending "WAKE_REPLAY")
  | some a => .next ((s.modXl fun x => { x with answers := x.answers.erase a }).wake a)

/-- The other requests of a uniform read end with it. -/
def State.dropParts (s : State) (gid slot : Nat) : State :=
  match (s.group? gid).bind fun g => SMap.find? g.oplog slot with
  | some o =>
    if o.kind == .ldc || o.kind == .launch then
      s.modMd fun m => { m with reqs := m.reqs.map fun r => if r.who = .op gid slot then { r with who := .pref r.src, lease := false, alloc := false } else r }
    else s
  | none => s

/-- A request meets a final answer at its requester (R114, R115, R117). -/
def State.finalReq (s : State) (reason : Nat) (r : Req) : State :=
  let s1 := s.dropReq r.tag
  match r.who with
  | .host id => (s1.dropHost id).hostDone id true
  | .op gid slot => (s1.failReq r r.laneMask (causeOf reason) reason).dropParts gid slot
  | _ => (s1.failReq r r.laneMask (causeOf reason) reason).settleEngine r

/-- The record of a final fetch fault (R116). -/
def fetchRecord (e : Entry) (reason : Nat) (ia : Nat) (ls : BitVec 32) : LateFault :=
  { kind := 3, cause := causeOf reason, lanes := ls, clause := e.clause, word := 0, access := acExec.toNat, reason := reason,
    od := 0, cmd := 0, ia := ia, vas := (lanes ls).map fun l => (l, e.clause), slot := none }

/-- A final fetch fault (R116): entries of the group that fetch a clause on the page trap at the header, or are switched
off; a speculative entry is not concerned (R118). -/
def State.fetchFail (s : State) (gid page reason : Nat) : State :=
  let onPage (t : State) (g : Group) (e : Entry) : Bool :=
    e.code.isNone && !e.spec && (match (t.block? g.bid).bind fun b => t.ctx? b.ctx with
      | none => false
      | some cx => t.fetchPage cx e.clause == some page)
  match s.group? gid with
  | none => s
  | some g =>
    match g.entries.findIdx? (onPage s g) with
    | none => s
    | some i =>
      if g.hasHandler then
        let e := g.entries.getD i (Entry.at 0 0 0 0)
        s.raise gid i { cause := causeOf reason, kind := 3, late := false, lanes := e.mask, tclause := e.clause, tword := 0,
                        record := some (fetchRecord e reason (page * 4096) e.mask) }
      else
        let off := (g.entries.filter fun e => onPage s g e).foldl (fun m e => m ||| e.mask) 0
        s.setGroup gid (g.switchOff off (causeOf reason))

/-- FINAL_REPLY (R111, R114 to R117): the oldest final that has come reaches its requester; requests of other types are woken. -/
def State.final (s : State) (a : Answer) (types : Rights) (reason : Nat) : State :=
  let reqs (w : Waiter) : State := (s.waitingOf a.die a.page w).foldl (fun t r =>
    if r.kind.access &&& types = 0 then t.wakeReq r else t.finalReq reason r) s
  match a.waiter with
  | .group gid =>
    if s.groupSaved gid then s
    else if types &&& acExec = 0 then reqs a.waiter else (reqs a.waiter).fetchFail gid a.page reason
  | .box => { s with box := { s.box with finals := s.box.finals ++ [(a.page, types)] } }
  | w => reqs w
def execFinalReply (s : State) : Host.Outcome State Fault Refusal :=
  match s.xl.answers.findSome? fun a => if s.landed a.ticket then a.final.map fun f => (a, f) else none with
  | none => .refused (.notPending "FINAL_REPLY")
  | some (a, f) => .next ((s.modXl fun x => { x with answers := x.answers.erase a }).final a f.1 f.2)

/-! ### Renewals (R48, R212, R395) -/

/-- The reply to a renewal, in class 1: a new lease when the version is current, else the line as it is, with the sectors that are poisoned
(R62). A line without leases (far, O, or with a write held) is answered with no lease. -/
def State.renew (s : State) (home : Nat) (r : Req) (leaf : BitVec 64) : State :=
  let ia := (r.lanes.head?.map (·.ia)).getD 0
  let iline := ia / 128
  let l := SMap.get Line.reset s.md.lines iline
  let ok := !leafF leaf && l.version == r.version
  let none_ := leafO leaf || leafF leaf || s.lineHeld iline
  let g := if none_ then (s, 0) else s.grant iline
  let bytes := g.1.lineBytes leaf iline
  let f := g.1.replyTo home r
  match r.who with
  | .op gid slot => f.1.modMd fun m => { m with renewals := m.renewals ++
      [{ gid := gid, slot := slot, die := r.src, ok := ok, line := iline, bytes := bytes, version := l.version, leaseEnd := g.2,
         lanes := r.lanes, poison := g.1.poisonLanes leaf r, bad := g.1.badSectors leaf iline, ticket := f.2 }] }
  | .pref die =>
    let key := die * 2 ^ 45 + iline
    if none_ then (if ok then f.1 else { f.1 with l1 := SMap.del f.1.l1 key })
    else { f.1 with l1 := SMap.put f.1.l1 key { bytes := bytes, leaseEnd := g.2, bad := g.1.badSectors leaf iline, version := l.version } }
  | _ => f.1

/-- LEASE_RENEWAL (R48): the next renewal that has reached a home. -/
def execLeaseRenewal (home : Nat) (s : State) : Host.Outcome State Fault Refusal :=
  match (List.range 8).findSome? fun src => s.nextReq home src (fun r => r.kind == .renew) s.md.reqs [] with
  | none => .refused (.notPending "LEASE_RENEWAL")
  | some r => .next (s.lookAt home r fun leaf => (s.dropReq r.tag).renew home r leaf)

/-- The values of a renewal's lanes from the line it carries. -/
def Renewal.values (n : Renewal) (w : Nat) : List (Nat × Nat) :=
  (n.lanes.filter fun a => !lane n.poison a.lane).map fun a => (a.lane, ofBytes ((n.bytes.drop (a.ia % 128)).take w))

/-- Width in bytes of the word of an operand-log entry. -/
def OpEntry.width (o : OpEntry) : Nat :=
  match wordOf o.raw with
  | some (.ld _ t _ _ _ _ _ _) => t.bytes
  | some (.ldc _ r _ _ _ _ _ _) => min (4 * 2 ^ r) 16
  | _ => 4

/-- Issues of a group that line speculation no longer covers: only a speculated branch may still squash them (R289). -/
def State.settleLine (s : State) (gid : Nat) : State :=
  let calm (x : LcrIssue) : LcrIssue := if x.gid = gid then { x with line := false } else x
  let keep (x : LcrIssue) : Bool := x.gid != gid || x.ident != 0
  s.cores.foldl (fun t c => t.setCore c.1 { c.2 with lcrLog := (c.2.lcrLog.map calm).filter keep }) s

/-- RENEWAL_REPLY (R212): a current version confirms the load; otherwise every later word of the group is squashed and the
lanes take the data of the reply. -/
def execRenewalReply (gid : Nat) (s : State) : Host.Outcome State Fault Refusal :=
  match s.md.renewals.find? fun r => r.gid == gid && s.landed r.ticket with
  | none => .refused (.notPending "RENEWAL_REPLY")
  | some n =>
    let s1 := s.modMd fun m => { m with renewals := m.renewals.erase n }
    let s2 : State := if n.leaseEnd = 0 then s1 else
      { s1 with l1 := SMap.put s1.l1 (n.die * 2 ^ 45 + n.line) { bytes := n.bytes, version := n.version, leaseEnd := n.leaseEnd, bad := n.bad } }
    match (s2.group? gid).bind fun g => SMap.find? g.oplog n.slot with
    | none => .next s2
    | some o =>
      if !o.unconfirmed then .next s2
      else
        let sure (g : Group) : Group := { g with oplog := SMap.modify g.oplog n.slot fun o => { o with unconfirmed := false, stale := 0 } }
        if n.ok && n.poison = 0 then
          let s3 := s2.modGroup gid fun g => { (sure g) with lineSpec := none }
          .next (s3.settleLine gid)
        else
          let s3 := s2.squashLcr gid fun x => if x.line then 0xFFFFFFFF else 0
          let s4 := (s3.modGroup gid fun g => (sure g.squashLine).land n.slot (n.values o.width)).pruneSpec gid
          .next (if n.poison = 0 then s4 else s4.modGroup gid fun g => g.failOp n.slot n.poison 0x13 0xFF
            (((n.lanes.find? fun a => lane n.poison a.lane).map (·.ia)).getD 0 / 4096 * 4096))

/-! ### LOAD_COMPLETE (R114, R118, R128, R164, R165, R225) -/

/-- The record of a load's or an unposted store's final lanes (R114, R225). -/
def OpEntry.record (o : OpEntry) (ls : BitVec 32) : LateFault :=
  let c := SMap.get (0, 0, 0) o.causes ((lowest ls).getD 0)
  let uni := o.kind == .ldc || o.kind == .launch
  { kind := if o.kind = .store then 2 else 1, cause := c.1, lanes := ls, clause := o.clause, word := o.word,
    access := (match o.kind with | .store => acWrite | .atomic => acAtomic | _ => acRead).toNat,
    reason := c.2.1, od := o.od, cmd := 0, ia := if c.1 = 0x10 || c.1 = 0x11 then 0 else c.2.2,
    vas := (lanes ls).map fun l => (l, SMap.get 0 o.vas (if uni then 0 else l)), slot := none }

/-- The final lanes of a completed entry fault (R114): a trap of the lowest entry that holds one, at its first instruction
not yet issued, or each lane is switched off with its own cause. -/
def State.loadFault (s : State) (gid : Nat) (o : OpEntry) : State :=
  let s1 := if (s.group? gid).any (·.hasHandler) then s.squashGroup gid else s
  match s1.group? gid with
  | none => s1
  | some g =>
    let ls := o.faulted &&& g.live
    if ls = 0 then s1
    else if g.hasHandler then
      match g.entryOf ls with
      | none => s1
      | some i =>
        let e := g.entries.getD i (Entry.at 0 0 0 0)
        let r := o.record o.faulted
        s1.raise gid i { cause := r.cause, kind := r.kind, late := false, lanes := o.faulted, tclause := e.clause,
                         tword := e.word, record := some r }
    else s1.setGroup gid ((lanes ls).foldl (fun h l => h.switchOff (bit l) (SMap.get (0, 0, 0) o.causes l).1) g)

/-- The bytes of a LAUNCH's record, four per part. -/
def OpEntry.launchBytes (o : OpEntry) : List (BitVec 8) :=
  ((List.range 32).map fun k => toBytes 4 (SMap.get 0 o.data k - 1)).flatten

/-- The kind, signedness and width of a word's requests for each lane (R391 to R397). -/
def accessKind : Instr → Option (ReqKind × Bool × Nat)
  | .ld _ t _ _ _ _ _ _ => some (.load, false, t.bytes)
  | .st _ t _ _ _ _ _ => some (.store, false, t.bytes)
  | .atomAdd _ t _ _ _ _ _ => some (.add, t.signed, if t.is64 then 8 else 4)
  | .atomMin _ t _ _ _ _ _ => some (.min, t.signed, if t.is64 then 8 else 4)
  | .atomMax _ t _ _ _ _ _ => some (.max, t.signed, if t.is64 then 8 else 4)
  | .atomAnd _ t _ _ _ _ _ => some (.and, t.signed, if t.is64 then 8 else 4)
  | .atomOr _ t _ _ _ _ _ => some (.or, t.signed, if t.is64 then 8 else 4)
  | .atomXor _ t _ _ _ _ _ => some (.xor, t.signed, if t.is64 then 8 else 4)
  | .atomExch _ t _ _ _ _ _ => some (.exch, t.signed, if t.is64 then 8 else 4)
  | .atomCas _ t _ _ _ _ _ => some (.cas, t.signed, if t.is64 then 8 else 4)
  | .atomFadd _ wide _ _ _ _ _ => some (.fadd, false, if wide then 8 else 4)
  | _ => none

/-- Lanes of an operand-log entry go to their homes, their IAs formed from the addresses it holds (R113, R118, R202). -/
def State.sendLanes (s : State) (gid slot : Nat) (ls : BitVec 32) : State :=
  match s.group? gid with
  | none => s
  | some g =>
    match s.block? g.bid, SMap.find? g.oplog slot with
    | some b, some o =>
      (match (wordOf o.raw).bind fun i => (accessKind i).map fun k => (i, k) with
       | none => s
       | some (i, kind, signed, width) =>
         let is : Issue := { gid := gid, i := 0, g := g, e := Entry.at o.clause o.word 0 0, b := b, act := ls }
         let cache := o.od / 4
         let base : Req := { s.groupReq is i (.op gid slot) kind width with
           od := o.od, signed := signed, lease := kind == .load && cache != 2, alloc := kind == .load && (cache == 0 || cache == 1) }
         let rs := (lanes ls).map fun l =>
           let x := SMap.get 0 o.data l
           (l, s.reform base { lane := l, va := SMap.get 0 o.vas l, ia := 0, data := x % 2 ^ 64, data2 := x / 2 ^ 64 })
         let good := rs.filterMap fun x => match x.2 with | .ok a => some a | .error _ => none
         let bad := rs.filterMap fun x => match x.2 with | .ok _ => none | .error c => some (x.1, c)
         (bad.foldl (fun t x => t.failReq base (bit x.1) x.2 0xFF) s).requestAll base good)
    | _, _ => s

/-- A deferred word whose load is complete executes, or moves on to another load that holds a source of it (R165). -/
def State.settleDeferred (s : State) (gid : Nat) (faulted : BitVec 32) (d : BitVec 64 × BitVec 32 × Bool) : State :=
  match s.group? gid, wordOf d.1 with
  | some g, some i =>
    (match (g.holders d.2.1 i).getLast? with
     | some k => s.setGroup gid { g with oplog := SMap.modify g.oplog k fun o =>
         { o with deferred := o.deferred ++ [(d.1, d.2.1 &&& ~~~faulted, d.2.2)] } }
     | none => s.runDeferred gid d faulted)
  | _, _ => s

/-- LOAD_COMPLETE (R164): the last lane of an operand-log entry is done and its replies have come; its faults are taken, its deferred words
execute, and the entry is free. A LAUNCH goes on to the signal box, and its registers wait for the reply beside the log (R128). -/
def execLoadComplete (gid op : Nat) (s : State) : Host.Outcome State Fault Refusal :=
  match (s.group? gid).bind fun g => SMap.find? g.oplog op with
  | none => .refused (.notPending "LOAD_COMPLETE")
  | some o =>
    if 16 ≤ op || o.pending != 0 || o.notNow != 0 || o.unconfirmed || !o.replies.all s.landed then .refused (.notPending "LOAD_COMPLETE")
    else if o.kind = .launch && o.faulted = 0 then
      match wordOf o.raw, s.group? gid with
      | some (.launch _ sd _ pd), some g =>
        let m : LaunchMsg := { gid := gid, bid := g.bid, ctx := ((s.block? g.bid).map (·.ctx)).getD 0, op := launchSlot op, sd := sd, pd := pd,
                               lanes := SMap.get 0 o.dregs 0 |> BitVec.ofNat 32, bytes := o.launchBytes }
        let s1 := s.setGroup gid { g with oplog := SMap.put (SMap.del g.oplog op) (launchSlot op) { o with deferred := [] } }
        let s2 := o.deferred.foldl (fun t d => t.settleDeferred gid o.faulted d) s1
        .next { s2 with box := { s2.box with launches := s2.box.launches ++ [m] } }
      | _, _ => .next s
    else
      let s1 := s.modGroup gid fun g => { g with oplog := SMap.del g.oplog op }
      let s2 := o.deferred.foldl (fun t d => t.settleDeferred gid o.faulted d) s1
      .next (if o.faulted = 0 then s2 else s2.loadFault gid o)

end Sys2Proof.Machine
end

