-- ==== Sys2Proof/Machine/System.lean ====
section
/-! DEFINITION. Machine/System.lean: system registers (R187 to R198, R434, R435), LAUNCH (R128, R359), ERET (R433, R438),
the host interrupt and logbook words (R439, R440), and the additions to the lane-cycle record (R290). -/

namespace Sys2Proof.Machine

/-! ### System registers -/

/-- The split table of a group as its program sees it (R436). -/
def Group.table (g : Group) : List Entry := if g.fw then g.resume else g.entries

/-- Outstanding loads, returning atomics and LAUNCH record reads, and deferred words (R188). -/
def Group.nout (g : Group) : Nat :=
  ((SMap.entries g.oplog).filter fun o => decide (o.1 < 16) && o.2.sided && o.2.kind != .store).length
def Group.ndef (g : Group) : Nat := ((SMap.entries g.oplog).map fun o => o.2.deferred.length).sum

/-- GSTAT (R188). -/
def Group.gstat (g : Group) : Nat :=
  let b (x : Bool) (k : Nat) : Nat := if x then 2 ^ k else 0
  g.table.length % 64 * 2 ^ 34 + g.nout % 32 * 2 ^ 29 + g.ndef % 4 * 2 ^ 27 + g.cls % 4 * 2 ^ 25 + b g.landed.isSome 24
    + b g.fw 23 + b g.trap 22 + g.slot % 64 * 2 ^ 16

/-- CTXID (R197). -/
def State.ctxid (s : State) (c : Nat) : Nat :=
  match s.ctx? c with
  | some x => x.fn % 64 * 2 ^ 24 + x.lctx % 128 * 2 ^ 8 + c % 128
  | none => c % 128

/-- The value of a system register for a lane (R434). -/
def State.sysRead (s : State) (g : Group) (ctx n l : Nat) : Nat :=
  match n with
  | 0x000 => g.gstat
  | 0x001 => g.fmask.toNat
  | 0x002 => (g.fst l).toNat
  | 0x003 => (g.kst l).toNat
  | 0x004 => g.mres.toNat
  | 0x005 => g.slim.toNat
  | 0x006 => g.sbase.toNat
  | 0x008 => (g.win 0).toNat
  | 0x009 => (g.win 1).toNat
  | 0x00A => (g.win 2).toNat
  | 0x00B => (g.win 3).toNat
  | 0x00C => g.kshpa.toNat
  | 0x00D => g.kshpb.toNat
  | 0x010 => g.tvec.toNat
  | 0x011 => g.tpc.toNat
  | 0x012 => g.tcause.toNat
  | 0x020 => s.ctxid ctx
  | _ =>
    let k := n - 0x100
    let sg := ((s.ctx? ctx).map fun c => SMap.get Segment.reset c.segs (k / 3)).getD Segment.reset
    if k % 3 = 0 then sg.b.toNat else if k % 3 = 1 then sg.l.toNat else sg.o.toNat

/-- SRD (R434). -/
def execSrd (g : Guard) (d : Dst) (num : Nat) (s : State) : Host.Outcome State Fault Refusal :=
  s.word (.srd g d num) g fun is s1 =>
    if sysAccess is.g.fw num = .none_ then s1.illegal is.gid is.i is.act
    else (s1.setGroup is.gid ((is.work d).foldl (fun h l => h.put (sysWide num) d l (s1.sysRead is.g is.b.ctx num l)) is.g)).goOn is

/-- A group-scope register written whole (R435). -/
def Group.sysWrite (g : Group) (n x : Nat) : Group :=
  match n with
  | 0x001 => { g with fmask := fmaskWrite g.fmask.toNat x }
  | 0x00C => { g with kshpa := BitVec.ofNat 64 x }
  | 0x00D => { g with kshpb := BitVec.ofNat 64 x }
  | 0x010 => { g with tvec := tvecWrite x }
  | 0x011 => { g with tpc := tpcWrite x }
  | _ => { g with xwin := g.xwin.set (n - 8) (xwinWrite x) }

/-- SWR (R435). -/
def execSwr (g : Guard) (a : Src) (num : Nat) (s : State) : Host.Outcome State Fault Refusal :=
  s.word (.swr g a num) g fun is s1 =>
    let x (l : Nat) : Nat := s1.opnd is (sysWide num) a l
    if sysAccess is.g.fw num != .rw || ((num == 0x00C || num == 0x00D) && kshpBad (x is.low)) then
      s1.illegal is.gid is.i is.act
    else
      let g1 := if num = 0x002 then (lanes is.act).foldl (fun h l => h.setFst l (fstatWrite (x l))) is.g
        else if num = 0x003 then (lanes is.act).foldl (fun h l => h.setKst l (kstatWrite (x l))) is.g
        else is.g.sysWrite num (x is.low)
      (s1.setGroup is.gid g1).goOn is

/-! ### LAUNCH (R128, R359) -/

/-- The 32 parts of four bytes in which a record is read. -/
def recordParts (va ia : Nat) : List LaneAcc :=
  (List.range 32).map fun k => { lane := k, va := va + 4 * k, ia := ia + 4 * k, data := 0, data2 := 0 }

def execLaunch (g : Guard) (sd sa pd : Nat) (s : State) : Host.Outcome State Fault Refusal :=
  let i : Instr := .launch g sd sa pd
  s.word i g fun is0 s0 =>
    if is0.own = 0 then s0.goOn is0
    else State.lateGate is0 s0 fun is s1 =>
      match s1.reach is .global (.s sa) 0 128 128 acRead 0 with
      | .error (c, va) => s1.addrFaults is i true 1 1 ((lanes is.own).map fun l => (l, c, va)) fun is' s2 => s2.goOn is'
      | .ok a =>
        let slot := is.g.freeLog
        let o : OpEntry := { is.logEntry i .launch is.act (spNum .global) with
          vas := SMap.set 0 [] 0 a.a
          dregs := SMap.set 0 [] 0 is.act.toNat }
        ((s1.putLog is.gid slot o).goOn is).requestAll (s1.groupReq is i (.op is.gid slot) .load 4) (recordParts a.a a.ia)

/-! ### HOSTINT, PMARK and LOGW (R439, R440) -/

/-- HOSTINT (R439): the due fault comes first, then the wait for every lane's stores and atomics. -/
def execHostint (g : Guard) (s : State) : Host.Outcome State Fault Refusal :=
  s.word (.hostint g) g fun is0 s0 =>
    if is0.own = 0 then s0.goOn is0
    else State.lateGate is0 s0 fun is s1 =>
      if s1.releaseHeld is 0xFFFFFFFF then s1
      else match s1.ctx? is.b.ctx with
      | none => s1.goOn is
      | some c => (s1.raiseVector c.fn (8 + c.lctx)).goOn is

def execPmark (g : Guard) (a : Src) (s : State) : Host.Outcome State Fault Refusal :=
  s.word (.pmark g a) g fun is s1 =>
    (s1.groupLog is.gid 2 (s1.opnd is false a is.low % 2 ^ 16) (is.e.clause, is.e.word) []).goOn is

def execLogw (g : Guard) (sN tag : Nat) (s : State) : Host.Outcome State Fault Refusal :=
  s.word (.logw g sN tag) g fun is s1 =>
    (s1.groupLog is.gid 1 tag (is.e.clause, is.e.word)
      (((List.range 4).map fun k => toBytes 4 (is.g.sreg (sN + k)).toNat).flatten)).goOn is

/-! ### ERET (R433, R438) -/

/-- Part j of k bytes of a uniform read whose first VA an operand-log entry holds. -/
def OpEntry.part (o : OpEntry) (j k : Nat) : LaneAcc :=
  { lane := j, va := SMap.get 0 o.vas 0 + k * j, ia := 0, data := 0, data2 := 0 }

/-- An operand-log lane that was pending at the save goes to its home again (R202): its IA formed anew, from the die where
the block now runs. -/
def State.reissueLog (s : State) (gid : Nat) : State :=
  match s.group? gid with
  | none => s
  | some g => match s.block? g.bid with
    | none => s
    | some b =>
      let mine := s.md.reqs.filter fun r => match r.who with | .op k _ => k == gid | _ => false
      mine.foldl (fun t r =>
        let slot := match r.who with | .op _ k => k | _ => 0
        let again (r1 : Req) : State :=
          ({ t with md := { t.md with reqs := t.md.reqs.map fun (q : Req) => if q.tag = r.tag then r1 else q } }).reissue r1
        match SMap.find? g.oplog slot with
        -- an arm that waits on a page is no entry of the log (R109, R236)
        | none => if r.kind == .watch then again { r with src := dieOf (g.coreOf b) }
          else { t with md := { t.md with reqs := t.md.reqs.filter (·.tag != r.tag) } }
        | some o =>
          let uni := o.kind == .ldc || o.kind == .launch
          let ls := if uni then r.lanes else (r.lanes.filter fun l => lane o.pending l.lane).map fun l =>
            { l with va := SMap.get l.va o.vas l.lane }
          again { r with src := dieOf (g.coreOf b), lanes := ls }) s

/-- The lanes, or parts of a uniform read, of an operand-log entry for which a request is kept. -/
def State.asked (s : State) (gid slot : Nat) : BitVec 32 :=
  maskOf fun l => (s.md.reqs.any fun r => r.who == .op gid slot && r.lanes.any (·.lane == l))
    || s.md.cellReqs.any fun c => c.who == .op gid slot && c.lane == l

/-- The pending lanes of an operand-log entry for which no request is kept go out as its record gives them (R202). -/
def State.reissueRecord (s : State) (gid slot : Nat) (o : OpEntry) : State :=
  let todo := o.pending &&& ~~~s.asked gid slot
  if o.pending = 0 then s
  else
    match s.group? gid with
    | none => s
    | some g => match s.block? g.bid, wordOf o.raw with
      | some b, some i =>
        let is : Issue := { gid := gid, i := 0, g := g, e := Entry.at o.clause o.word 0 0, b := b, act := o.pending }
        (match o.kind with
         | .ldc | .launch =>
           let len := match i with | .ldc _ run _ _ _ _ _ _ => 4 * 2 ^ run | _ => 128
           let k := if o.kind = .launch then 4 else min len 16
           let cache := o.od / 4
           let lease := o.kind == .ldc && cache != 2
           let base : Req := { s.groupReq is i (.op gid slot) .load k with
             od := o.od, lease := lease, alloc := o.kind == .ldc && (cache == 0 || cache == 1) }
           let ls := ((List.range (len / k)).filter fun j => SMap.get 0 o.data j == 0 && !lane (s.asked gid slot) j).map fun j => o.part j k
           let rs := ls.map fun l => s.reform base l
           (match rs.findSome? fun x => match x with | .error c => some c | .ok _ => none with
            | some c => s.failReq { base with lanes := ls } o.pending c 0xFF
            | none => s.requestAll base (rs.filterMap fun x => x.toOption))
         | .cell =>
           s.cellSend is (.op gid slot) ((lanes todo).map fun l =>
             (l, SMap.get 0 o.vas l / 8, .read (match i with | .ld _ t _ _ _ _ _ _ => t == .b64 | _ => false)))
         | .atomic =>
           (match i with
            | .atomXadd _ wide _ _ _ _ =>
              s.cellSend is (.op gid slot) ((lanes todo).map fun l =>
                (l, SMap.get 0 o.vas l / 8, .xadd wide (SMap.get 0 o.data l)))
            | _ => s.sendLanes gid slot todo)
         | .mma => s
         | .load | .store => s.sendLanes gid slot todo)
      | _, _ => s

/-- A group leaves firmware: its firmware entry ends and its split table stands as loaded. -/
def Group.leaveFw (g : Group) : Group :=
  { g with fw := false, entries := g.resume, resume := [], halted := false, grpSaved := false, grpLoaded := false,
           released := false }

/-- Every pending operand-log lane of a restored group goes out again (R202). -/
def State.reissueAll (s : State) (gid : Nat) : State :=
  let s1 := s.reissueLog gid
  match s1.group? gid with
  | none => s1
  | some g => (SMap.entries g.oplog).foldl (fun t o => t.reissueRecord gid o.1 o.2) s1

/-- The keys of a block's groups. -/
def Block.gids (bid : Nat) (b : Block) : List Nat := (List.range b.groups).map (32 * bid + ·)

/-- The end of a restore (R438), which frees the block's area but for a borrower's, reserved since its placing (R174): all groups are released in one cycle, held arrivals are applied, and pending lanes
re-issue. -/
def State.endRestore (s : State) (bid : Nat) : State :=
  match s.block? bid with
  | none => s
  | some b =>
    let gs := Block.gids bid b
    -- a block saved while stopped is restored still stopped (R299)
    let stop := b.stopSrc.isSome
    let s1 := gs.foldl (fun t k => t.modGroup k fun g => { g.leaveFw with halted := stop })
      (s.setBlock bid { b with phase := if stop then .stopped else .live, parts := 0,
                                  traffic := [], area := if b.borrowed then b.area else none })
    gs.foldl (fun t k => t.reissueAll k) ((s1.applyHeld bid).modCtx b.ctx fun c =>
      match (if b.borrowed then none else b.area) with
      | some a => { c with saves := SMap.set 0 c.saves a.1 0 }
      | none => c)

/-- Goes through the restore's end once every group of the block has issued its ERET and .copy is done. -/
def State.tryRelease (s : State) (bid : Nat) : State :=
  match s.block? bid with
  | none => s
  | some b =>
    if b.parts.getLsbD 4 && b.traffic.all s.landed && (Block.gids bid b).all (fun k => (s.group? k).any (·.released)) then s.endRestore bid
    else s

def execEret (g : Guard) (s : State) : Host.Outcome State Fault Refusal :=
  s.word (.eret g) g fun is s1 =>
    if is.g.fw then (s1.setGroup is.gid { is.g with released := true }).tryRelease is.g.bid
    else if is.g.trap then s1.setGroup is.gid (is.g.eret is.i)
    else s1.illegal is.gid is.i is.act

/-! ### Additions to the lane-cycle record (R290) -/

/-- Counts of an issue that may still be squashed stay in the core's registers. -/
def Core.unsettled (k : Core) (key : Nat) : Nat :=
  ((k.lcrLog.filter fun x => x.row + x.cls - 1 == key).map fun x => count x.lanes).sum

/-- Adds one core's counts of a context into the area's counters. -/
def State.flushCore (s : State) (c ctx : Nat) : State :=
  match s.ctx? ctx with
  | none => s
  | some cx =>
    let k := s.core c
    let mine := k.lcr.filter fun e => e.1 / 102 == ctx
    let s1 := if cx.lbBase = 0 then s else mine.foldl (fun t e =>
      let a := cx.lbBase + 320 + 48 * (e.1 / 6 % 17) + 8 * (e.1 % 6)
      let old := ofBytes ((t.funcRead cx.fn (some ctx) a 8).getD [])
      t.funcWrite cx.fn (some ctx) a (toBytes 8 ((old + (e.2 - k.unsettled e.1)) % 2 ^ 64))) s
    s1.modCore c fun q => { q with lcr := mine.foldl (fun m e => SMap.set 0 m e.1 (min e.2 (k.unsettled e.1))) q.lcr }

def State.flushCtx (s : State) (ctx : Nat) : State := s.cores.foldl (fun t c => t.flushCore c.1 ctx) s

end Sys2Proof.Machine
end

