-- ==== Sys2Proof/Machine/Save.lean ====
section
/-! DEFINITION. Machine/Save.lean: the save area (R199 to R202) and the firmware words that write and read it (R436,
R437): CTXSAVE and CTXREST. -/

namespace Sys2Proof.Machine

/-! ### The save area (R199) -/

/-- Bytes of a group record and offsets of the parts of a block's save area. -/
def Block.recSize (b : Block) : Nat := 18432 + 128 * b.vcount
def Block.accOff : Nat := 1024
def Block.grpOff (b : Block) : Nat := Block.accOff + b.acc * 12288
def Block.sOff (b : Block) : Nat := b.grpOff + b.groups * b.recSize
def Block.padOff (b : Block) : Nat := b.sOff + b.groups * 4 * b.scount
def Block.copyOff (b : Block) : Nat := b.padOff + b.spad
def Block.saveSize (b : Block) : Nat := b.copyOff + 2048

/-- VA of a block's save area: savea plus its first 64 KiB unit. -/
def State.areaVA (s : State) (b : Block) : Nat :=
  ((s.ctx? b.ctx).map (·.req.savea)).getD 0 + 2 ^ 16 * (b.area.getD (0, 0)).1

/-- Save and restore traffic of a block with the home of a VA travels in class 2, one way or the other (R14); the block notes its flits. -/
def State.saveFlit (s : State) (bid : Nat) (b : Block) (back : Bool) (va : Nat) : State :=
  match (s.ctx? b.ctx).bind fun (c : Context) => (c.translate va 0).toOption with
  | none => s
  | some (ia, _) =>
    let core := portOfSource (dieOf b.core)
    let home := portOfMemory (s.servingDie ia)
    let f := if back then (s.message core home 2).1.message home core 2 else s.message core home 2
    f.1.modBlock bid fun x => { x with traffic := x.traffic ++ [f.2] }

/-- Changes the bytes of the save region that the device keeps beside the table. -/
def State.modKept (s : State) (ctx va : Nat) (bytes : List (Option (BitVec 8))) : State :=
  s.modCtx ctx fun c =>
    { c with kept := bytes.zipIdx.foldl (fun m x => SMap.set none m (va - c.req.savea + x.2) x.1) c.kept }

/-- Writes bytes of a block's save area, unit by unit. DEDUCED, unsafe: log entry 60. -/
def State.saveWrite (s : State) (bid : Nat) (b : Block) (off : Nat) (bytes : List (BitVec 8)) : State :=
  (unitPieces (bytes.length / 256 + 2) (s.areaVA b + off) bytes).foldl (fun t p =>
    match t.ctxWrite b.ctx p.1 p.2 with
    | .ok u => (u.saveFlit bid b false p.1).modKept b.ctx p.1 (if (u.ctx? b.ctx).all (·.kept.isEmpty) then [] else p.2.map fun _ => none)
    | .error _ => t.modKept b.ctx p.1 (p.2.map some)) s

/-- Reads n bytes of a block's save area. -/
def State.saveBytes (s : State) (b : Block) (off n : Nat) : List (BitVec 8) :=
  let va := s.areaVA b + off
  let bytes := ((unitRuns (n / 256 + 2) va n).map fun p => match s.ctxRead b.ctx p.1 p.2 acRead with
    | .ok x => x
    | .error _ => List.replicate p.2 0).flatten
  match s.ctx? b.ctx with
  | some c => if c.kept.isEmpty then bytes else bytes.zipIdx.map fun x => (SMap.get none c.kept (va - c.req.savea + x.2)).getD x.1
  | none => bytes

/-- The flits of a read of the save area. -/
def State.restFlits (s : State) (bid : Nat) (b : Block) (off n : Nat) : State :=
  (unitRuns (n / 256 + 2) (s.areaVA b + off) n).foldl (fun t p => t.saveFlit bid b true p.1) s

/-- A run of 32-bit words as bytes, and back. -/
def words4 (ws : List Nat) : List (BitVec 8) := (ws.map (toBytes 4)).flatten
def word4 (x : List (BitVec 8)) (k : Nat) : BitVec 32 := BitVec.ofNat 32 (fieldOf x (4 * k) 4)

/-! ### Formats (R200, R201, R248) -/

/-- A progress record (R248). -/
def CopyCmd.progress (c : CopyCmd) : List (BitVec 8) :=
  let first := c.first
  let m := ((List.range 64).map fun i => if c.done.contains (first + 1 + i) then 2 ^ i else 0).sum
  toBytes 4 c.id ++ toBytes 1 c.kind ++ toBytes 1 c.slot ++ toBytes 1 c.mmask ++ toBytes 1 (c.mode % 4) ++ toBytes 4 first
    ++ toBytes 4 c.total ++ words4 (c.regs.map (·.toNat)) ++ toBytes 8 m ++ toBytes 8 0

/-- The command that a progress record resumes, over what the model keeps of its issuer beside the record. -/
def CopyCmd.resumed (c : CopyCmd) (x : List (BitVec 8)) : CopyCmd :=
  let first := fieldOf x 8 4
  let m := fieldOf x 48 8
  { c with id := fieldOf x 0 4, kind := fieldOf x 4 1, slot := fieldOf x 5 1, mmask := fieldOf x 6 1, mode := fieldOf x 7 1 % 4
           total := fieldOf x 12 4
           regs := (List.range 8).map fun k => BitVec.ofNat 32 (fieldOf x (16 + 4 * k) 4)
           done := List.range first ++ ((List.range 64).filter (bitAt m ·)).map (first + 1 + ·)
           map := [], list := none, flight := [], replies := [], got := [], fails := [], stage := 2 }

/-- A split-table entry in 128 bits (R201). -/
def Entry.saved (e : Entry) : List (BitVec 8) :=
  toBytes 16 (e.clause / 8 % 2 ^ 53 + e.word % 16 * 2 ^ 53 + e.mask.toNat * 2 ^ 64 + e.parent % 32 * 2 ^ 96
    + e.idle % 2048 * 2 ^ 101 + 2 ^ 127)
def entryOfSaved (x : Nat) : Option Entry :=
  if bitAt x 127 then
    some { Entry.at (8 * bits x 0 53) (bits x 53 4) (BitVec.ofNat 32 (bits x 64 32)) (bits x 96 5) with idle := bits x 101 11 }
  else none

/-- An operand-log entry (R201). Destination, ty and major are fields of the raw word: bits 47:36, 50:48 and 63:56. -/
def OpEntry.saved (o : OpEntry) : List (BitVec 8) :=
  let d := o.deferred.head?
  let once := o.kind == .ldc || o.kind == .launch
  toBytes 8 o.clause ++ toBytes 1 o.word ++ toBytes 1 o.od ++ toBytes 2 (bits o.raw.toNat 36 12)
    ++ toBytes 1 (bits o.raw.toNat 48 3) ++ toBytes 1 (bits o.raw.toNat 56 8)
    ++ toBytes 2 (1 + (if d.isSome then 2 else 0)) ++ toBytes 4 o.pending.toNat
    ++ toBytes 4 ((d.map fun x => x.2.1.toNat).getD 0) ++ toBytes 8 ((d.map fun x => x.1.toNat).getD 0)
    ++ ((List.range 32).map fun l => toBytes 8 (SMap.get 0 o.vas l)).flatten
    ++ ((List.range 32).map fun l => toBytes 16 (if once then 0 else SMap.get 0 o.data l)).flatten ++ toBytes 224 0

/-- A raw word with another destination, type and major (bits 47:36, 50:48 and 63:56). -/
def remade (raw : BitVec 64) (d ty major : Nat) : BitVec 64 :=
  BitVec.ofNat 64 (pack { unpack raw.toNat with d := d, ty := ty, major := major })

/-- An operand-log entry as a record gives it, over what the model keeps beside the record. DEDUCED, unsafe: log entry 59. -/
def OpEntry.loaded (o : OpEntry) (x : List (BitVec 8)) : OpEntry :=
  let once := o.kind == .ldc || o.kind == .launch
  let word : BitVec 64 × BitVec 32 := (BitVec.ofNat 64 (fieldOf x 24 8), BitVec.ofNat 32 (fieldOf x 20 4))
  { o with clause := fieldOf x 0 8, word := fieldOf x 8 1, od := fieldOf x 9 1
           raw := remade o.raw (fieldOf x 10 2) (fieldOf x 12 1) (fieldOf x 13 1)
           pending := BitVec.ofNat 32 (fieldOf x 16 4)
           vas := (List.range 32).foldl (fun m l => SMap.set 0 m l (fieldOf x (32 + 8 * l) 8)) []
           data := if once then o.data else (List.range 32).foldl (fun m l => SMap.set 0 m l (fieldOf x (288 + 16 * l) 16)) []
           deferred := if bitAt (fieldOf x 14 2) 1 then
               (match o.deferred with
                | [] => [(word.1, word.2, false)]
                | d :: rest => (word.1, word.2, d.2.2) :: rest)
             else [] }

/-- What stands for an operand-log entry that the model did not keep: a word of the record's major, type and destination, its space
global, or cell where only that decodes, and its other operands open to no reader. DEDUCED, unsafe: log entry 59. -/
def OpEntry.blank (x : List (BitVec 8)) : OpEntry :=
  let raw (sp : Nat) : BitVec 64 :=
    BitVec.ofNat 64 (pack { major := fieldOf x 13 1, pn := false, pg := 12, ty := fieldOf x 12 1, d := fieldOf x 10 2, a := 0,
                            b := 256 * sp + 16 * (fieldOf x 9 1 % 16), c := 0 })
  let sp := if (wordOf (raw 0)).isSome then 0 else 5
  let kind : OpKind := match wordOf (raw sp) with
    | some (.ld _ _ _ _ _ _ _ _) => if sp = 5 then .cell else .load
    | some (.ldc _ _ _ _ _ _ _ _) => .ldc
    | some (.launch _ _ _ _) => .launch
    | some (.st _ _ _ _ _ _ _) => .store
    | _ => .atomic
  { kind := kind, clause := 0, word := 0, raw := raw sp, pending := 0, vas := [], data := [], faulted := 0, causes := [], deferred := [],
    dregs := [], od := 0, sp := sp, spec := false, notNow := 0, unconfirmed := false, replies := [] }

/-- A group record (R201). -/
def Group.saved (g : Group) : List (BitVec 8) :=
  let ents := (List.range 32).map fun e => match g.table[e]? with
    | some x => x.saved
    | none => toBytes 16 0
  let preds (l : Nat) : Nat := ((List.range 12).map fun i => if lane (g.predMask i) l then 2 ^ i else 0).sum
  toBytes 8 g.gstat ++ toBytes 8 g.fmask.toNat ++ toBytes 8 g.mres.toNat ++ toBytes 8 g.tvec.toNat ++ toBytes 8 g.tpc.toNat
    ++ toBytes 8 g.sbase.toNat ++ toBytes 8 g.kshpa.toNat ++ toBytes 8 g.kshpb.toNat
    ++ words4 ([g.slim.toNat, g.tcause.toNat] ++ (List.range 4).map fun k => (g.win k).toNat) ++ toBytes 8 0
    ++ ((List.range 32).map fun n => toBytes 1 (if n = 0 then 0 else (SMap.find? g.up n).getD 0xFF)).flatten
    ++ words4 [g.joinMember.toNat, g.joinArrived.toNat] ++ toBytes 120 0
    ++ ents.flatten
    ++ words4 ((List.range 32).map fun l => (g.fst l).toNat) ++ words4 ((List.range 32).map fun l => (g.kst l).toNat)
    ++ ((List.range 32).map fun l => toBytes 2 (preds l)).flatten
    ++ ((List.range 32).map fun l => ((List.range 4).map fun k => toBytes 2 (g.xreg k l).toNat).flatten).flatten
    ++ toBytes 704 0
    ++ ((List.range 16).map fun e => match SMap.find? g.oplog e with
        | some o => o.saved
        | none => toBytes 1024 0).flatten
    ++ ((List.range g.vcount).map fun i => words4 ((List.range 32).map fun l => (g.vreg i l).toNat)).flatten

/-- Takes a group record into the group (CTXREST.grp): every saved register, whatever its access (R187). -/
def Group.loaded (g : Group) (x : List (BitVec 8)) : Group :=
  let tab := (List.range 32).filterMap fun e => entryOfSaved (fieldOf x (256 + 16 * e) 16)
  let ups : SMap (Option Nat) := (List.range 31).foldl (fun m k =>
    let u := fieldOf x (97 + k) 1
    if u = 0xFF then m else SMap.put m (k + 1) u) []
  let logs : SMap (Option OpEntry) := (List.range 16).foldl (fun m e =>
    let y := (x.drop (2048 + 1024 * e)).take 1024
    if bitAt (fieldOf y 14 2) 0 then SMap.put m e (((SMap.find? g.oplog e).getD (OpEntry.blank y)).loaded y) else m) []
  let g1 : Group := { g with
    fmask := BitVec.ofNat 64 (fieldOf x 8 8), mres := BitVec.ofNat 64 (fieldOf x 16 8), tvec := BitVec.ofNat 64 (fieldOf x 24 8)
    tpc := BitVec.ofNat 64 (fieldOf x 32 8), sbase := BitVec.ofNat 64 (fieldOf x 40 8), kshpa := BitVec.ofNat 64 (fieldOf x 48 8)
    kshpb := BitVec.ofNat 64 (fieldOf x 56 8), slim := word4 x 16, tcause := word4 x 17
    xwin := (List.range 4).map fun k => word4 x (18 + k)
    trap := bitAt (fieldOf x 0 8) 22
    up := ups, joinMember := word4 x 32, joinArrived := word4 x 33, resume := tab, oplog := logs
    fstat := (List.range 32).foldl (fun m l => SMap.set 0 m l (word4 x (192 + l))) []
    kstat := (List.range 32).foldl (fun m l => SMap.set 0 m l (word4 x (224 + l))) []
    p := (List.range 12).foldl (fun m i => SMap.set 0 m i (maskOf fun l => bitAt (fieldOf x (1024 + 2 * l) 2) i)) []
    x := (List.range 32).foldl (fun m l => (List.range 4).foldl (fun q k =>
      SMap.set 0 q (32 * k + l) (BitVec.ofNat 16 (fieldOf x (1088 + 8 * l + 2 * k) 2))) m) []
    v := (List.range g.vcount).foldl (fun m i => (List.range 32).foldl (fun q l =>
      SMap.set 0 q (32 * i + l) (word4 x (4608 + 32 * i + l))) m) [] }
  { g1 with exited := g1.present &&& ~~~(tab.foldl (fun m e => m ||| e.mask) 0) }

/-- The tile fields of the header (R200), 192 bytes from offset 32. -/
def Block.tileFields (b : Block) : List (BitVec 8) :=
  let t (k : Nat) : Option Tile := SMap.find? b.tiles k
  ((List.range 64).map fun k => toBytes 1 (match t k with | some d => d.n % 8 + 128 | none => 0)).flatten
    ++ ((List.range 64).map fun k => toBytes 1 (((t k).map (·.first)).getD 0)).flatten
    ++ ((List.range 64).map fun k => toBytes 1 (((t k).map (·.ver)).getD 0)).flatten

/-! ### CTXSAVE (R437) -/

/-- Words of the block still in its engines, so that a part must wait. -/
def State.engineBusy (s : State) (bid : Nat) : Bool :=
  (SMap.entries s.groups).any fun g => g.2.bid == bid && (g.2.mma.isSome || !g.2.tileWords.isEmpty || !g.2.kwords.isEmpty)

/-- A request of an operand-log entry of a group. -/
def Requester.isOp (w : Requester) (gid : Nat) : Bool :=
  match w with
  | .op k _ => k == gid
  | _ => false

def CellOp.reads : CellOp → Bool
  | .read _ => true
  | _ => false

/-- An arrival of a group on a slot of its own block that is not yet applied: its ticket is still to be written (R234). -/
def State.arrivesHome (s : State) (gid : Nat) : Bool :=
  s.arrivals.any fun x => (match x.by_ with | .group k _ => k == gid | _ => false) &&
    (match x.to_ with | .name b _ => b == gid / 32 | .address b _ => b == gid / 32)

/-- The record of a group can be written: what its words still have in flight has landed, or waits on a page (R113,
R123, R202); a LAUNCH whose record has come is sent and answered (R363), and its arrivals at its block are applied (R234). Renewals are
not waited for (R226), nor the loads of a borrower that is written back (R174). DEDUCED, unsafe: log entry 58. -/
def State.groupSettled (s : State) (gid : Nat) : Bool :=
  match s.group? gid with
  | none => true
  | some g =>
    let back := (s.block? g.bid).any (·.borrowed)
    g.mma.isNone && g.tileWords.isEmpty && g.kwords.isEmpty
      && (s.md.reqs.all fun r => !r.who.isOp gid || r.waiting.isSome || r.kind == .renew || (back && r.kind == .load))
      && (s.md.held.all fun h => !h.req.who.isOp gid)
      && (s.md.uio.all fun h => !h.req.who.isOp gid || (back && h.req.kind == .load))
      && (s.md.cellReqs.all fun c => !c.who.isOp gid || (back && c.op.reads))
      && (s.box.launches.all fun m => m.gid != gid) && !s.arrivesHome gid
      && ((SMap.entries g.oplog).all fun o =>
        o.2.kind != .store && !(o.2.kind == .launch && o.2.pending == 0 && o.2.faulted == 0))

/-- A load that used expired data which nothing has confirmed is pending again where it used it (R226). -/
def OpEntry.unsure (o : OpEntry) : OpEntry :=
  if !o.unconfirmed then o
  else if o.kind == .ldc then
    { o with pending := BitVec.ofNat 32 (SMap.get 0 o.dregs 0), data := o.data.filter fun x => !lane o.stale x.1
             unconfirmed := false, stale := 0 }
  else { o with pending := o.pending ||| o.stale, unconfirmed := false, stale := 0 }
def Group.unsure (g : Group) : Group := { g with oplog := g.oplog.map fun o => (o.1, o.2.map OpEntry.unsure) }

/-- What a group whose record is written still has on its way and has no use for: its renewals, and the loads of a borrower that is written
back, whose later data is discarded (R174, R226). Its operand log holds them, and they go out again after the restore. -/
def State.detach (s : State) (gid : Nat) : State :=
  let loose (w : Requester) (k : Bool) : Bool := k && w.isOp gid
  let free (r : Req) : Req := { r with who := .pref r.src, lease := false, alloc := false }
  s.modMd fun m => { m with
    reqs := m.reqs.map fun r => if loose r.who (r.kind == .renew || (r.waiting.isNone && r.kind == .load)) then free r else r
    uio := m.uio.map fun h => if loose h.req.who (h.req.kind == .load) then { h with req := free h.req } else h
    cellReqs := m.cellReqs.map fun c => if loose c.who c.op.reads then { c with who := .pref c.src } else c }

/-- Stores of a block's groups not yet acknowledged. -/
def State.blockStores (s : State) (bid : Nat) : Bool :=
  s.cores.any fun c => c.2.stores.any fun x => x.gid / 32 == bid

/-- Marks a part of a save or restore as performed. -/
def State.markPart (s : State) (bid p : Nat) : State :=
  s.modBlock bid fun b => { b with parts := b.parts ||| BitVec.ofNat 8 (2 ^ p) }

/-- Whether units of a block's commands are under way that neither have landed nor wait on a page (R249). -/
def State.copyBusy (s : State) (bid : Nat) (b : Block) : Bool :=
  let mine (w : Requester) : Bool := match w with | .copy k _ _ => k == bid | _ => false
  (s.md.reqs.any fun r => mine r.who && r.waiting.isNone) || ((s.md.held ++ s.md.uio).any fun h => mine h.req.who)
    || ((s.md.deltas ++ s.md.parityAcks).any fun d => mine d.req.who)
    || b.cmds.any fun c => !(c.replies.all fun x => s.landed x.2) || c.flight.any fun p => s.unitReady c p.1

/-- CTXSAVE.copy: the commands stop, the units under way land or pend, and their progress is written; pending units start again after the
restore (R249). -/
def State.saveCopy (s : State) (bid : Nat) : Option State :=
  match s.block? bid with
  | none => none
  | some b =>
    if b.parts.getLsbD 0 then some s
    else if s.copyBusy bid b then none
    else
      let cs := ((b.cmds.filter fun c => c.stage == 2).take 32).map fun c => { c with flight := [], replies := [], got := [], fails := [] }
      let s1 := (b.cmds ++ b.ghosts).foldl (fun t c => t.dropCopy bid c.key fun _ => true) (s.modBlock bid fun x => { x with cmds := cs, ghosts := [] })
      some ((s1.saveWrite bid b b.copyOff (((cs.map CopyCmd.progress).flatten ++ toBytes 2048 0).take 2048)).markPart bid 0)

/-- CTXSAVE.acc: the tiles drain; the units and the tile fields are written. -/
def State.saveAcc (s : State) (bid : Nat) : Option State :=
  match s.saveCopy bid with
  | none => none
  | some s1 => match s1.block? bid with
    | none => none
    | some b =>
      if b.parts.getLsbD 1 then some s1
      else if s1.engineBusy bid then none
      else
        let units := words4 ((List.range (3072 * b.acc)).map fun k => (SMap.get 0 b.accs k).toNat)
        some (((s1.saveWrite bid b Block.accOff units).saveWrite bid b 32 b.tileFields).markPart bid 1)

/-- CTXSAVE.grp: the group record and s registers of a group are written. -/
def State.saveGrp (s : State) (gid : Nat) : Option State :=
  match s.saveAcc (gid / 32) with
  | none => none
  | some s1 => match s1.group? gid, s1.block? (gid / 32) with
    | some g, some b =>
      if g.grpSaved then some s1
      else if !s1.groupSettled gid then none
      else
        let s2 := s1.saveWrite (gid / 32) b (b.grpOff + g.idx * b.recSize) g.unsure.saved
        let s3 := s2.saveWrite (gid / 32) b (b.sOff + 4 * b.scount * g.idx) (words4 ((List.range b.scount).map fun i => (g.sreg i).toNat))
        some ((s3.detach gid).modGroup gid fun h => { h.unsure with grpSaved := true })
    | _, _ => none

/-- The header (R200) but for its tile fields, which CTXSAVE.acc wrote. -/
def State.header (s : State) (b : Block) : List (BitVec 8) × List (BitVec 8) :=
  (toBytes 4 1 ++ toBytes 2 b.ctx ++ toBytes 1 (s.vcore b.core) ++ toBytes 1 b.groups ++ toBytes 4 b.x ++ toBytes 2 b.y
     ++ toBytes 2 b.z ++ toBytes 4 b.handle ++ toBytes 1 (b.vcount / 8) ++ toBytes 1 (b.spad / 32768)
     ++ toBytes 1 (b.scount / 8) ++ toBytes 1 b.acc ++ toBytes 8 b.saveSize,
   toBytes 1 b.cmds.length ++ toBytes 287 0 ++
     ((List.range 128).map fun k => toBytes 4 (match SMap.find? b.slots k with
       | some sl => 2 ^ 31 + sl.off % 2 ^ 20
       | none => 0)).flatten)

/-- A group whose block has been saved: its registers are in the save area; what the area has no place for stays
(attributed faults, fences, the raw words of its operand log). -/
def Group.putAway (g : Group) : Group :=
  { g with v := [], s := [], p := [], x := [], fstat := [], kstat := [], fmask := 0, mres := 0, slim := 0, sbase := 0,
           xwin := [0, 0, 0, 0], kshpa := 0, kshpb := 0, tvec := 0, tpc := 0, tcause := 0, fw := false, trap := false,
           landed := none, entries := [], up := [], joinMember := 0, joinArrived := 0, preds := [], specs := [], lineSpec := none,
           latch := none, resume := [], halted := true, grpSaved := false, grpLoaded := false, released := false }

/-- The places of a saved block are free and its firmware entries end (R144, R437). -/
def State.endSave (s : State) (bid : Nat) : State :=
  match s.block? bid with
  | none => s
  | some b =>
    let s0 := s.blockLog b 0x15 (if b.borrowed then 1 else 0) (toBytes 8 (s.areaVA b))
    let s1 := (Block.gids bid b).foldl (fun t k => t.modGroup k Group.putAway) s0
    let bare := { b with scratch := [], accs := [], tiles := [], copies := [], slots := [] }
    let s2 := s1.setBlock bid { bare with phase := .saved, parts := 0, traffic := [], placedAt := s.now }
    let last := !(SMap.entries s2.blocks).any fun x => x.2.core == b.core && x.2.phase != .saved && x.2.phase != .retired && x.2.ctx == b.ctx
    let s3 := if last then s2.flushCore b.core b.ctx else s2
    match b.tt with
    | none => s3
    | some t => { s3 with box := { s3.box with table := SMap.modify s3.box.table t fun k => { k with saved := k.saved ++ [bid] } } }

/-- Whether a cluster mate still has a store to a block's scratchpad, or a unit of a multicast, under way, or a group an arrival on one of its
slot names (R208, R234, R243). -/
def State.padBusy (s : State) (bid : Nat) (b : Block) : Bool :=
  (s.cores.any fun c => c.2.stores.any fun x => x.sp == 2 && x.lanes.any fun l => l.2.2.1 / 2 ^ 20 == bid)
    || (b.cluster.any fun k => (s.block? k).any fun x => x.cmds.any fun c => c.kind == 2 && !c.flight.isEmpty)
    || s.arrivals.any fun x => (match x.to_ with | .name k _ => k == bid | .address _ _ => false)
        && (match x.by_ with | .group _ _ => true | _ => false)

/-- Every write of a block's save has been acknowledged: its flits have come, and no home holds a write of the device for its context (R45,
R47, R202). -/
def State.saveAcked (s : State) (b : Block) : Bool :=
  b.traffic.all s.landed && s.md.held.all fun h => h.req.src != 99 || h.req.ctx != b.ctx

/-- CTXSAVE.blk: counts go into their objects, then the header and the scratchpad image are written, once every group's record is and no store
or copy to the scratchpad is under way; it completes when every write of the save has been acknowledged. A written-back borrower does not
wait for its stores (R174). -/
def State.saveBlk (s : State) (gid : Nat) : Option State :=
  let bid := gid / 32
  match s.saveGrp gid with
  | none => none
  | some s1 => match s1.block? bid with
    | none => none
    | some b =>
      if !(Block.gids bid b).all (fun k => (s1.group? k).any (·.grpSaved)) then some s1
      else if b.parts.getLsbD 3 then some (if s1.saveAcked b then s1.endSave bid else s1)
      else if (s1.blockStores bid || s1.padBusy bid b) && !b.borrowed then some s1
      else
        let b1 := (SMap.entries b.slots).foldl (fun x sl => x.writeBack sl.2 true) b
        let h := s1.header b1
        let s2 := (((s1.setBlock bid b1).saveWrite bid b 0 h.1).saveWrite bid b 224 h.2).saveWrite bid b b.padOff
          ((List.range b1.spad).map b1.byte)
        some (s2.markPart bid 3)

/-- A firmware word: ILLEGAL outside firmware; else its part, and the firmware entry goes on when the part is complete. -/
def State.fwWord (s : State) (i : Instr) (g : Guard) (part : State → Nat → Option State) (finish : Bool) :
    Host.Outcome State Fault Refusal :=
  s.word i g fun is s1 =>
    if !is.g.fw then s1.illegal is.gid is.i is.act
    else match part s1 is.gid with
      | none => s1
      | some s2 => if finish then s2 else s2.goOn is

def execCtxsaveCopy (g : Guard) (s : State) : Host.Outcome State Fault Refusal :=
  s.fwWord (.ctxsaveCopy g) g (fun t k => t.saveCopy (k / 32)) false
def execCtxsaveAcc (g : Guard) (s : State) : Host.Outcome State Fault Refusal :=
  s.fwWord (.ctxsaveAcc g) g (fun t k => t.saveAcc (k / 32)) false
def execCtxsaveGrp (g : Guard) (s : State) : Host.Outcome State Fault Refusal :=
  s.fwWord (.ctxsaveGrp g) g State.saveGrp false
/-- CTXSAVE.blk ends its firmware entries when it completes; until then its word stays. -/
def execCtxsaveBlk (g : Guard) (s : State) : Host.Outcome State Fault Refusal :=
  s.fwWord (.ctxsaveBlk g) g State.saveBlk true

/-! ### CTXREST (R437) -/

/-- CTXREST.blk: the scratchpad image, then the slots of the slot table. -/
def State.restBlk (s : State) (bid : Nat) : Option State :=
  match s.block? bid with
  | none => none
  | some b =>
    if b.parts.getLsbD 7 then some s
    else
      let pad := s.saveBytes b b.padOff b.spad
      let h := s.saveBytes b 512 512
      let b1 : Block := { b with scratch := SMap.setRun 0 [] 0 pad }
      let b2 := (List.range 128).foldl (fun (x : Block) k =>
        let w := fieldOf h (4 * k) 4
        if bitAt w 31 then { x with slots := SMap.put x.slots k (slotOfHead (bits w 0 20) (x.head (bits w 0 20))) } else x) b1
      some ((((s.setBlock bid b2).restFlits bid b b.padOff b.spad).restFlits bid b 0 1024).markPart bid 7)

/-- CTXREST.grp: the record and s registers of a group. -/
def State.restGrp (s : State) (gid : Nat) : Option State :=
  match s.restBlk (gid / 32) with
  | none => none
  | some s1 => match s1.group? gid, s1.block? (gid / 32) with
    | some g, some b =>
      if g.grpLoaded then some s1
      else
        let g1 := g.loaded (s1.saveBytes b (b.grpOff + g.idx * b.recSize) b.recSize)
        let sr := s1.saveBytes b (b.sOff + 4 * b.scount * g.idx) (4 * b.scount)
        let s2 := (s1.restFlits (gid / 32) b (b.grpOff + g.idx * b.recSize) b.recSize).restFlits (gid / 32) b (b.sOff + 4 * b.scount * g.idx)
          (4 * b.scount)
        some (s2.setGroup gid { g1 with
          s := (List.range b.scount).foldl (fun m i => SMap.set 0 m i (word4 sr i)) []
          grpLoaded := true })
    | _, _ => none

/-- CTXREST.acc: accumulator units and tile descriptors. -/
def State.restAcc (s : State) (gid : Nat) : Option State :=
  match s.restGrp gid with
  | none => none
  | some s1 => match s1.block? (gid / 32) with
    | none => none
    | some b =>
      if b.parts.getLsbD 5 then some s1
      else
        let a := s1.saveBytes b Block.accOff (12288 * b.acc)
        let t := s1.saveBytes b 32 192
        let b1 : Block := { b with
          accs := (List.range (3072 * b.acc)).foldl (fun m k => SMap.set 0 m k (word4 a k)) []
          tiles := (List.range 64).foldl (fun m k =>
            let f := fieldOf t k 1
            if bitAt f 7 then SMap.put m k { n := f % 8, first := fieldOf t (64 + k) 1, ver := fieldOf t (128 + k) 1 } else m) [] }
        some (((s1.setBlock (gid / 32) b1).restFlits (gid / 32) b Block.accOff (12288 * b.acc)).markPart (gid / 32) 5)

/-- CTXREST.copy: each command resumes from its record, and its map record is read again (R248). -/
def State.restCopy (s : State) (gid : Nat) : Option State :=
  match s.restAcc gid with
  | none => none
  | some s1 => match s1.block? (gid / 32) with
    | none => none
    | some b =>
      if b.parts.getLsbD 4 then some s1
      else
        let n := fieldOf (s1.saveBytes b 224 1) 0 1
        let r := s1.saveBytes b b.copyOff 2048
        let cs := (b.cmds.take n).zipIdx.map fun c => c.1.resumed ((r.drop (64 * c.2)).take 64)
        let s2 := (s1.setBlock (gid / 32) { b with cmds := cs }).restFlits (gid / 32) b b.copyOff 2048
        some ((cs.foldl (fun t c => t.readMap (gid / 32) c) s2).markPart (gid / 32) 4)

def execCtxrestBlk (g : Guard) (s : State) : Host.Outcome State Fault Refusal :=
  s.fwWord (.ctxrestBlk g) g (fun t k => t.restBlk (k / 32)) false
def execCtxrestGrp (g : Guard) (s : State) : Host.Outcome State Fault Refusal :=
  s.fwWord (.ctxrestGrp g) g State.restGrp false
def execCtxrestAcc (g : Guard) (s : State) : Host.Outcome State Fault Refusal :=
  s.fwWord (.ctxrestAcc g) g State.restAcc false
def execCtxrestCopy (g : Guard) (s : State) : Host.Outcome State Fault Refusal :=
  s.fwWord (.ctxrestCopy g) g State.restCopy false

end Sys2Proof.Machine
end

