-- ==== Sys2Proof/Machine/Box.lean ====
section
/-! DEFINITION. Machine/Box.lean: the signal box: task records, launch checks, splits, fits and the start of blocks (R124 to
R141, R127, R150, R199). -/

namespace Sys2Proof.Machine

/-! ### Task records (R124, R125) -/

def taskOfBytes (x : List (BitVec 8)) : TaskRec :=
  { prog := fieldOf x 0 8, args := fieldOf x 8 8, cwa := fieldOf x 16 8, stk := fieldOf x 24 8, gx := fieldOf x 32 4
    gy := fieldOf x 36 2, gz := fieldOf x 38 2, bsize := fieldOf x 40 2, csize := fieldOf x 42 1, flags := fieldOf x 43 1
    vreg := fieldOf x 44 1, spad := fieldOf x 45 1, sreg := fieldOf x 46 1, acc := fieldOf x 47 1, cunits := fieldOf x 48 2
    sunits := fieldOf x 50 2, nrng := fieldOf x 52 1, npred := fieldOf x 53 1, cap := fieldOf x 54 2, pred0 := fieldOf x 56 4
    pred1 := fieldOf x 60 4, rng := (List.range 8).map fun i => BitVec.ofNat 64 (fieldOf x (64 + 8 * i) 8) }

def TaskRec.cls (t : TaskRec) : Nat := t.flags % 4
def TaskRec.coRes (t : TaskRec) : Bool := bitAt t.flags 2
def TaskRec.restartable (t : TaskRec) : Bool := bitAt t.flags 3
def TaskRec.frt (t : TaskRec) : Bool := bitAt t.flags 4
def TaskRec.groups (t : TaskRec) : Nat := ceilDiv t.bsize 32
def TaskRec.blocks (t : TaskRec) : Nat := t.gx * t.gy * t.gz

/-- A declared range: first byte, end and W (R125). -/
def rangeOf (r : BitVec 64) : Nat × Nat × Bool :=
  let b := bits r.toNat 0 48 * 256
  (b, b + (bits r.toNat 48 10 + 1) * 2 ^ (8 + bits r.toNat 58 5), bitAt r.toNat 63)
def TaskRec.ranges (t : TaskRec) : List (Nat × Nat × Bool) := (t.rng.take t.nrng).map rangeOf
def TaskRec.preds (t : TaskRec) : List Nat := [t.pred0, t.pred1].take t.npred

/-- Two tasks conflict (R136): overlapping ranges, one of them written. -/
def TaskRec.conflicts (a b : TaskRec) : Bool :=
  a.ranges.any fun x => b.ranges.any fun y => (x.2.2 || y.2.2) && decide (x.1 < y.2.1) && decide (y.1 < x.2.1)

/-- BADREC's conditions (R130). -/
def TaskRec.bad (t : TaskRec) : Bool :=
  let within (x lo hi : Nat) : Bool := decide (lo ≤ x) && decide (x ≤ hi)
  t.prog % 8 != 0 || t.args % 256 != 0 || t.cwa % 64 != 0 || (t.sunits != 0 && t.stk % 256 != 0)
    || !within t.gx 1 (2 ^ 31 - 1) || t.gy == 0 || t.gz == 0 || !within t.bsize 1 1024 || !within t.csize 1 8
    || t.gx % t.csize != 0 || bits t.flags 5 3 != 0 || !within t.vreg 4 32 || !within t.spad 0 32 || !within t.sreg 0 128
    || !within t.acc 0 (if t.cls = 2 then 8 else 120) || !within t.nrng 0 8 || !within t.npred 0 2
    || t.ranges.any (fun r => decide (2 ^ 56 < r.2.1))
    || (t.cls == 2 && !t.frt) || (t.coRes && (t.cls == 2 || t.cls == 3)) || t.preds.any (bitAt · 31)

/-- A handle from an entry and its generation (R129), and the live task that a handle names. -/
def State.handle (s : State) (tt : Nat) : Nat := SMap.get 0 s.box.gens tt % 2 ^ 19 * 2 ^ 12 + tt
def State.taskAt (s : State) (h : Nat) : Option Task :=
  if bits h 12 19 = SMap.get 0 s.box.gens (h % 4096) % 2 ^ 19 then SMap.find? s.box.table (h % 4096) else none

/-- Eligible (R136): no unfinished earlier task of the context conflicts, and its predecessors have completed. -/
def State.clear (s : State) (ctx order : Nat) (t : TaskRec) : Bool :=
  ((SMap.entries s.box.table).all fun k => k.2.ctx != ctx || decide (order ≤ k.2.order) || !k.2.task.conflicts t)
    && t.preds.all fun h => (s.taskAt h).isNone

/-! ### Splits (R138, R139) -/

/-- A split, with the groups per block it is carved for. -/
structure Split where
  v : Nat
  spad : Nat
  u : Nat
  acc : Nat
  g : Nat
  deriving DecidableEq, Repr

def TaskRec.split (t : TaskRec) : Split :=
  { v := 8 * t.vreg, spad := 32768 * t.spad, u := 8 * t.sreg, acc := t.acc, g := t.groups }

/-- P of R138 on a core with h station blocks. -/
def Split.places (p : Split) (h : Nat) : Nat :=
  let a := min (1966080 / (p.spad + p.g * p.v * 128)) ((64 - h) / p.g)
  let b := if p.spad = 0 then a else min a (1048576 / p.spad)
  let c := if p.acc = 0 then b else min b (120 / p.acc)
  if p.u = 0 then c else min c ((262144 - 256 * h) / (p.g * p.u * 4))

/-- The freight limits of R139. -/
def Split.freightBytes (p : Split) : Nat := p.g * (p.v * 128 + p.u * 4) + p.spad
def Split.freightOk (p : Split) : Bool :=
  decide (p.g ≤ 16) && decide (p.spad ≤ 262144) && decide (p.acc ≤ 8) && decide (p.freightBytes ≤ 524288)

def Block.split (b : Block) : Split := { v := b.vcount, spad := b.spad, u := b.scount, acc := b.acc, g := b.groups }
def Block.isStation (b : Block) : Bool := b.tt.isNone

/-- Blocks that hold places on a core. -/
def State.resident (s : State) (c : Nat) : List (Nat × Block) :=
  (SMap.entries s.blocks).filter fun b => b.2.core == c && b.2.phase != .saved
def State.stations (s : State) (c : Nat) : Nat := ((s.resident c).filter (·.2.isStation)).length

/-- A core that may hold blocks: its die is not fenced (R89). -/
def State.coreLive (s : State) (c : Nat) : Bool := decide (c < 64) && !s.guard.fenced.getLsbD (c / 8)

/-- Blocks that hold a place of the core's split: general blocks and borrowers (R174). -/
def State.splitBlocks (s : State) (c : Nat) : List (Nat × Block) :=
  (s.resident c).filter fun b => !b.2.isStation && (b.2.cls != 2 || b.2.borrowed)

/-- Freight slots, general slots and accumulator units in use on a core. -/
def State.usedSlots (s : State) (c : Nat) (freight : Bool) : List Nat :=
  ((s.resident c).map fun b => if (b.2.cls == 2) == freight then
      (Block.gids b.1 b.2).filterMap fun k => (s.group? k).map (·.slot) else []).flatten

/-- The signal box never makes a core hold freight groups and other groups of one context (R150). -/
def State.mixes (s : State) (c ctx : Nat) (freight : Bool) : Bool :=
  (s.resident c).any fun b => b.2.ctx == ctx && (b.2.cls == 2) != freight

/-- Where a block of a split fits on a core: the place, the places of the split and the groups it was carved for; with a
flag for a borrowed place (R138, R139, R174). -/
structure Fit where
  place : Nat
  places : Nat
  carve : Nat
  borrow : Bool
  deriving DecidableEq, Repr

def freePlace (used : List Nat) (n : Nat) : Option Nat := (List.range n).find? fun q => !used.contains q

def State.fitGeneral (s : State) (c ctx : Nat) (p : Split) : Option Fit :=
  let h := s.stations c
  let gen := s.splitBlocks c
  if !s.coreLive c || (SMap.find? s.box.draining c).isSome || s.mixes c ctx false then none
  else match gen.find? (!·.2.borrowed) with
    | none => if (s.resident c).all (·.2.isStation) && decide (0 < p.places h) then some { place := 0, places := p.places h, carve := p.g, borrow := false } else none
    | some (_, b) =>
      if b.vcount != p.v || b.spad != p.spad || b.scount != p.u || b.acc != p.acc then none
      else
        let own := gen.filter (!·.2.borrowed)
        let gs := (own.map (·.2.groups)).sum
        if decide (gs + p.g ≤ b.places * b.carve) && decide ((s.usedSlots c false).length + p.g ≤ 64)
            && decide ((gs + p.g) * p.u * 4 ≤ 262144 - 256 * h) && decide ((own.map (·.2.acc)).sum + p.acc ≤ 120) then
          (freePlace (gen.map (·.2.place)) b.places).map fun q => { place := q, places := b.places, carve := b.carve, borrow := false }
        else none

def State.fitFreight (s : State) (c ctx : Nat) (p : Split) : Option Fit :=
  let fr := (s.resident c).filter fun b => b.2.cls == 2 && !b.2.isStation
  if !s.coreLive c || (SMap.find? s.box.draining c).isSome || s.mixes c ctx true || !p.freightOk || 16 < (fr.map (·.2.groups)).sum + p.g
      || 8 < (fr.map (·.2.acc)).sum + p.acc then none
  else if ((fr.filter (!·.2.borrowed)).map fun b => b.2.split.freightBytes).sum + p.freightBytes ≤ 524288 then
    some { place := 0, places := 1, carve := p.g, borrow := false }
  else match (s.splitBlocks c).find? fun b => !b.2.borrowed && b.2.cls == 0 with
    | none => none
    | some (_, b) =>
      if decide (p.g * (p.v * 128 + p.u * 4) ≤ b.carve * b.vcount * 128) && decide (p.spad ≤ b.spad)
          && (s.core c).freight == .open_ then
        (freePlace ((s.splitBlocks c).map (·.2.place)) b.places).map fun q => { place := q, places := b.places, carve := b.carve, borrow := true }
      else none

/-- DEDUCED, unsafe: log entry 70. -/
def State.fit (s : State) (c ctx cls : Nat) (p : Split) : Option Fit :=
  if cls = 2 then s.fitFreight c ctx p else s.fitGeneral c ctx p

/-- Further blocks of a split that a core can take (R138). -/
def State.roomOn (s : State) (c ctx : Nat) (p : Split) : Nat :=
  match s.fitGeneral c ctx p with
  | none => 0
  | some f =>
    let gen := s.splitBlocks c
    let own := gen.filter (!·.2.borrowed)
    let gs := (own.map (·.2.groups)).sum
    let a := min (f.places - gen.length) (min ((f.places * f.carve - gs) / p.g) ((64 - (s.usedSlots c false).length) / p.g))
    let b := if p.acc = 0 then a else min a ((120 - (own.map (·.2.acc)).sum) / p.acc)
    if p.u = 0 then b else min b ((262144 - 256 * s.stations c - gs * p.u * 4) / (p.g * p.u * 4))

/-- The n cores with the most room, among those that will do, on a die where n such cores have some: clusters taken so leave room for the
most others (R141). -/
def State.spreadCores (s : State) (ok : Nat → Bool) (ctx : Nat) (p : Split) (n : Nat) : Option (List Nat) :=
  (List.range 8).findSome? fun d =>
    let cs := ((List.range 8).map fun k => (8 * d + k, s.roomOn (8 * d + k) ctx p)).filter fun x => x.2 != 0 && ok x.1
    if n ≤ cs.length then some (((sortBy (fun a b => decide (b.2 ≤ a.2)) cs).take n).map (·.1)) else none

/-- Most clusters of n blocks on distinct cores of one die whose cores hold the given numbers of places. -/
def clustersOn (ps : List Nat) (n : Nat) : Nat :=
  ((List.range (ps.sum + 1)).filter fun k => decide (k * n ≤ (ps.map (min · k)).sum)).getLastD 0

/-- Blocks of a split that the whole device can hold when empty (R139). -/
def State.deviceHolds (s : State) (p : Split) (csize : Nat) : Nat :=
  ((List.range 8).map fun d =>
    let ps := ((List.range 8).map (8 * d + ·)).filter s.coreLive |>.map fun c => p.places (s.stations c)
    if csize ≤ 1 then ps.sum else clustersOn ps csize * csize).sum

/-- A block or cluster fits no live core or die, even empty (R130, R139). -/
def State.noShape (s : State) (t : TaskRec) : Bool :=
  let p := t.split
  if t.cls = 2 then !p.freightOk || decide (s.deviceHolds { p with g := 1, v := 1, spad := 0, u := 0, acc := 0 } t.csize < t.csize)
  else decide (s.deviceHolds p t.csize < t.csize) || (t.coRes && decide (s.deviceHolds p t.csize < t.blocks))

/-- Size of a block's save area (R199), as the sum of its parts. -/
def Split.saveSize (p : Split) : Nat :=
  1024 + p.acc * 12288 + p.g * (18432 + 128 * p.v) + p.g * 4 * p.u + p.spad + 2048

/-! ### Starting blocks (R126, R127, R133) -/

/-- Present lanes and helper lanes of group j of a block (R126, R170). -/
def presentOf (bsize j : Nat) : BitVec 32 := maskOf fun l => decide (32 * j + l < bsize)
def helperOf (bsize j : Nat) : BitVec 32 := maskOf fun l =>
  decide (bsize ≤ 32 * j + l) && decide (32 * j + l < ceilDiv bsize 4 * 4)

/-- A group at its block's start (R127): every register zero but SBASE, SLIM and the windows' reset value (R194). With sunits = 0 R127's formula
gives SBASE stk, which R124 says is then ignored: the model has 0. DESIGN CHOICE, unsafe: log entry 153. -/
def Group.start (bid j slot : Nat) (b : Block) : Group :=
  let pr := presentOf b.bsize j
  let hp := helperOf b.bsize j
  { bid := bid, idx := j, slot := slot, cls := b.cls, vcount := b.vcount, scount := b.scount, v := [], s := [], p := [], x := [],
    fstat := [], kstat := [], fmask := 0, mres := 0, slim := BitVec.ofNat 32 (16 * b.sunits)
    sbase := if b.sunits = 0 then 0 else
      BitVec.ofNat 64 ((b.stk + (b.index * b.bsize + 32 * j) * b.sunits * 16) % 2 ^ 56 / 16 * 16)
    xwin := List.replicate 4 (BitVec.ofNat 32 ((b.vcount - 1) % 256 * 256)), kshpa := 0, kshpb := 0, tvec := 0, tpc := 0,
    tcause := 0, fw := false, trap := false, landed := none, present := pr, helper := hp, exited := 0,
    entries := [Entry.at b.prog 0 (pr ||| hp) 0], up := [], joinMember := 0, joinArrived := 0, oplog := [], preds := [],
    specs := [], lineSpec := none, latch := none, padWrote := [], mma := none, tileWords := [], kwords := [], fences := [],
    copyCount := 0, late := [], pendingTraps := [], resume := [], grpSaved := false, grpLoaded := false, released := false,
    halted := false, migrating := none, passed := none, lastIssue := 0 }

/-- The lowest n free slot numbers of a core (R150). -/
def State.freeSlots (s : State) (c : Nat) (freight : Bool) (n : Nat) : List Nat :=
  let used := s.usedSlots c freight
  ((List.range (if freight then 16 else 64)).filter (!used.contains ·)).take n

/-- A context's first block start on a core seeds its sampler (R291). -/
def State.seedSampler (s : State) (c ctx : Nat) : State :=
  match s.ctx? ctx with
  | none => s
  | some cx => s.modCore c fun k =>
    if (SMap.find? k.sampler ctx).isSome then k
    else
      let st := BitVec.ofNat 16 (0x8000 + s.vcore c)
      { k with sampler := SMap.put k.sampler ctx (st, 0, s.now + cx.ibase + st.toNat % 2 ^ cx.jbits, 0) }

/-- Puts a new block and its groups on its core: BLKSTART and the context's logbook settings with it (R284, R287). -/
def State.startBlock (s : State) (b : Block) (restart : Bool) : State :=
  let bid := s.nextBlock
  let slots := s.freeSlots b.core (b.cls == 2) b.groups
  let s1 := { s.setBlock bid b with nextBlock := bid + 1 }
  let s2 := (List.range b.groups).foldl (fun (t : State) j =>
    t.setGroup (32 * bid + j) (Group.start bid j (slots.getD j 0) b)) s1
  ((s2.lbRead b.ctx).seedSampler b.core b.ctx).blockLog b 0x10 (if restart then 1 else 0) []

/-- A block's fields but for what its task gives it. -/
def Block.blank (ctx core cls : Nat) (f : Fit) : Block :=
  { ctx := ctx, tt := none, x := 0, y := 0, z := 0, index := 0, clrank := 0, csize := 1, cluster := [], core := core,
    place := f.place, places := f.places, carve := f.carve, groups := 1, bsize := 32, cls := cls, vcount := 0, spad := 0,
    scount := 0, acc := 0, prog := 0, args := 0, cunits := 0, sunits := 0, stk := 0, handle := 0, rst := false,
    borrowed := f.borrow, phase := .live, parts := 0, stopSrc := none, stopPending := none, area := none, dump := none,
    placedAt := 0, scratch := [], accs := [], tiles := [], copies := [], slots := [], cmds := [], ghosts := [], traffic := [], heldArrivals := [] }

/-- Block i of a task as it stands at its start (R126, R127). -/
def Task.block (k : Task) (tt handle i core now : Nat) (cluster : List Nat) (f : Fit) : Block :=
  let t := k.task
  { Block.blank k.ctx core (if k.promoted then 1 else t.cls) f with
    tt := some tt, x := i % t.gx, y := i / t.gx % t.gy, z := i / (t.gx * t.gy), index := i, clrank := i % t.gx % t.csize,
    csize := t.csize, cluster := cluster, groups := t.groups, bsize := t.bsize, vcount := 8 * t.vreg, spad := 32768 * t.spad,
    scount := 8 * t.sreg, acc := t.acc, prog := t.prog, args := t.args, cunits := t.cunits, sunits := t.sunits, stk := t.stk,
    handle := handle, rst := t.restartable, placedAt := now }

/-- The station block of a context (R133). -/
def stationBlock (ctx core now : Nat) (r : CtxReq) (f : Fit) : Block :=
  { Block.blank ctx core 1 f with vcount := 32, scount := 64, spad := 1024, prog := r.stprog, placedAt := now }

/-- Starts a context's station block on a core that holds fewer than two and none of its freight; which one is free (R133, R150). -/
def State.startStation (s : State) (ctx : Nat) : Option State :=
  match s.ctx? ctx with
  | none => none
  | some cx =>
    let cs := (List.range 64).filter fun c => s.coreLive c && !s.mixes c ctx false && decide (s.stations c < 2)
      && decide ((s.usedSlots c false).length < 64)
    match cs[Config.freePick s.free % cs.length]? with
    | none => none
    | some c =>
      let n := if (s.resident c).any (fun b => b.2.isStation && b.2.place == 0) then 1 else 0
      let b := { stationBlock ctx c s.now cx.req { place := n, places := 1, carve := 1, borrow := false } with
                 cluster := [s.nextBlock] }
      let s1 := { s.startBlock b false with free := s.free + 1 }
      some (s1.modGroup (32 * s.nextBlock) fun g =>
        ((g.setS 0 (BitVec.ofNat 32 cx.req.starg)).setS 1 (BitVec.ofNat 32 (cx.req.starg / 2 ^ 32))).setS 2 (BitVec.ofNat 32 ctx))

/-- A station block is started, or waits for a core that has a place for it (R133). -/
def State.oweStation (s : State) (ctx : Nat) : State :=
  match s.startStation ctx with
  | some t => t
  | none => { s with box := { s.box with stations := s.box.stations.filter (· != ctx) ++ [ctx] } }

/-- The first station block that waits for a place and has one now is started (R133, R147). -/
def State.placeStation (s : State) : Host.Outcome State Fault Refusal :=
  match s.box.stations.find? fun c => (s.startStation c).isSome with
  | none => .refused (.notPending "STATION_START")
  | some c => .next (({ s with box := { s.box with stations := s.box.stations.filter (· != c) } } : State).oweStation c)

/-! ### Save areas (R199) -/

/-- A free run of n units of a context's save region. -/
def Context.freeUnits (c : Context) (n : Nat) : Option Nat :=
  let runs : List (Nat × Nat) := c.saves.filter fun x => x.2 != 0
  let starts := 0 :: runs.map fun (x : Nat × Nat) => x.1 + x.2
  starts.find? fun a => decide (a + n ≤ c.req.svunits) && runs.all fun (x : Nat × Nat) => decide (x.1 + x.2 ≤ a) || decide (a + n ≤ x.1)

/-- Reserves an area of a size in a context's save region. -/
def State.reserveArea (s : State) (ctx size : Nat) : Option (State × Nat × Nat) :=
  let n := ceilDiv size 65536
  match s.ctx? ctx with
  | none => none
  | some cx => (cx.freeUnits n).map fun a => (s.setCtx ctx { cx with saves := SMap.set 0 cx.saves a n }, a, n)

/-- Reserves a block's save area, unless it has one. -/
def State.reserveFor (s : State) (bid : Nat) : Option State :=
  match s.block? bid with
  | none => none
  | some b =>
    if b.area.isSome then some s
    else (s.reserveArea b.ctx b.saveSize).map fun r => r.1.setBlock bid { b with area := some r.2 }

/-! ### Placing (R140, R141) -/

/-- The next unit of a task to be started: the lowest block to be placed again, or the next block never placed, as a first index
(a cluster starts at a multiple of its size) (R140). -/
def Task.nextUnit (k : Task) : Option Nat :=
  match k.again with
  | i :: rest => some (rest.foldl min i / k.task.csize * k.task.csize)
  | [] => if k.nextBlock < k.task.blocks && !k.cut then some k.nextBlock else none

/-- The cores of a cluster of n blocks that starts at a core: n fitting cores of its die, from that core on. DESIGN CHOICE, unsafe: log entry 69. -/
def State.clusterCores (s : State) (c ctx cls : Nat) (p : Split) (n : Nat) : Option (List Nat) :=
  let cs := (List.range 8).map fun k => c / 8 * 8 + (c + k) % 8
  let ok := cs.filter fun k => (s.fit k ctx cls p).isSome
  if ok.head? = some c && n ≤ ok.length then some (ok.take n) else none

def Task.clsNow (k : Task) : Nat := if k.promoted then 1 else k.task.cls

/-- Places the next unit of a task on given cores. -/
def State.placeOn (s : State) (tt : Nat) (cs : List Nat) : Option State :=
  match SMap.find? s.box.table tt with
  | none => none
  | some k =>
    match k.nextUnit with
    | none => none
    | some i =>
      let members := (List.range k.task.csize).map (s.nextBlock + ·)
      let again := !k.again.isEmpty
      let one (t : Option State) (x : Nat × Nat) : Option State := t.bind fun t =>
        (t.fit x.1 k.ctx k.clsNow k.task.split).bind fun f =>
          let b := k.block tt (s.handle tt) (i + x.2) x.1 t.now members f
          let t1 := t.startBlock b again
          if f.borrow then t1.reserveFor (t1.nextBlock - 1) else some t1
      match cs.zipIdx.foldl one (some s) with
      | none => none
      | some s1 =>
        let k1 : Task := { k with st := .running, again := k.again.filter fun j => j / k.task.csize != i / k.task.csize
                                  nextBlock := if again then k.nextBlock else i + k.task.csize }
        some { s1 with box := { s1.box with table := SMap.put s1.box.table tt k1 } }

/-- Places the next unit of a task, its first block on core c. -/
def State.placeAt (s : State) (tt c : Nat) : Option State :=
  match SMap.find? s.box.table tt with
  | none => none
  | some k => (s.clusterCores c k.ctx k.clsNow k.task.split k.task.csize).bind (s.placeOn tt)

/-- Places every block of a co-resident task at once, each cluster on the cores with the most room (R141). DESIGN CHOICE, unsafe: log
entry 69. -/
def State.placeAll : Nat → State → Nat → Option State
  | 0, s, tt => if ((SMap.find? s.box.table tt).bind Task.nextUnit).isNone then some s else none
  | n + 1, s, tt =>
    match SMap.find? s.box.table tt with
    | none => some s
    | some k =>
      if k.nextUnit.isNone then some s
      else ((s.spreadCores (fun _ => true) k.ctx k.task.split k.task.csize).bind (s.placeOn tt)).bind fun t => t.placeAll n tt

/-! ### Judging a LAUNCH (R128 to R131, R135) -/

/-- Unfinished tasks of a context, and of the device. -/
def State.liveTasks (s : State) (ctx : Option Nat) : Nat :=
  ((SMap.entries s.box.table).filter fun k => ctx.isNone || ctx == some k.2.ctx).length

/-- The refusal status of a record, in the table's order (R130), but for WAITDEP and NOFIT. -/
def State.refusal (s : State) (ctx : Nat) (cx : Context) (t : TaskRec) : Option Nat :=
  if t.bad then some 0x80000004
  else if t.cls = 0 && cx.req.ceil = 1 then some 0x80000007
  else if t.preds.any (fun h => (s.taskAt h).any (·.ctx != ctx)) then some 0x80000006
  else if s.noShape t || decide (cx.req.svunits * 65536 < t.split.saveSize) then some 0x80000005
  else if decide (4096 ≤ s.liveTasks none) || decide (cx.req.quota ≤ s.liveTasks (some ctx)) then some 0x80000003
  else none

/-- A new timetable entry (R135). -/
def State.accept (s : State) (ctx tt order : Nat) (t : TaskRec) : State :=
  let ok := s.clear ctx order t
  let k : Task := { st := if ok then .eligible else .waiting, ctx := ctx, task := t, order := order, acceptedAt := s.now,
                    eligibleAt := s.now, nextBlock := 0, again := [], saved := [], retired := 0, nbad := 0, fsum := 0, recs := 0,
                    promoted := false, cut := false, owed := [], redo := [], waitSince := s.now }
  { s.modCtx ctx fun c => { c with launches := order + 1 } with box := { s.box with table := SMap.put s.box.table tt k } }

/-- The signal box's answer to a record: the state and sd's value. -/
def State.judge (s : State) (ctx : Nat) (bytes : List (BitVec 8)) : State × Nat :=
  match s.ctx? ctx with
  | none => (s, 0x80000004)
  | some cx =>
    let t := taskOfBytes bytes
    match s.refusal ctx cx t with
    | some r => (s, r)
    | none =>
      match SMap.freeKey s.box.table 0 4096 with
      | none => (s, 0x80000003)
      | some tt =>
        let s1 := s.accept ctx tt cx.launches t
        if !t.coRes then (s1, s1.handle tt)
        else if !s.clear ctx cx.launches t then (s, 0x80000002)
        else match s1.placeAll t.blocks tt with
          | some s2 => (s2, s2.handle tt)
          | none => (s, 0x80000001)

end Sys2Proof.Machine
end

