-- ==== Sys2Proof/Machine/Dies.lean ====
section
/-! DEFINITION. Machine/Dies.lean: page heat, the daily scrub and the failure of a memory die (R53, R60 to R65, R238). -/

namespace Sys2Proof.Machine

/-! ### Heat (R60) -/

/-- A dropped heat sample: counted, and recorded at most once per die and epoch of the context (R67). The spec does not say which dropped
samples a record counts: the model puts all that the die has dropped so far. DESIGN CHOICE, unsafe: log entry 149. -/
def State.heatDropped (s : State) (die ctx : Nat) : State :=
  let n := SMap.get 0 s.md.heatDrop die + 1
  let s1 := s.modMd fun m => { m with heatDrop := SMap.set 0 m.heatDrop die n }
  let ep := ((s.ctx? ctx).map (·.epochs)).getD 0
  if SMap.get 0 s.md.heatDropAt (128 * die + ctx) = ep + 1 then s1
  else (s1.modMd fun m => { m with heatDropAt := SMap.set 0 m.heatDropAt (128 * die + ctx) (ep + 1) }).memRecord 0x0307 0 die ctx
    (n % 65536) 0

/-- A boundary of a context's heat epochs has come and is not passed yet (R60). -/
def State.epochDue (s : State) (ctx : Nat) : Bool :=
  (s.ctx? ctx).any fun c => decide (c.born + (c.epochs + 1) * (c.req.epoch * oneMilli) ≤ s.now)

/-- HEAT_SAMPLE (R60): the oldest sample that has come reaches the heat table, or finds the queue full; a halving that is due in the same
cycle comes first. -/
def execHeatSample (full : Bool) (s : State) : Host.Outcome State Fault Refusal :=
  match s.md.heatQ.find? fun h => s.landed h.ticket && !s.epochDue h.ctx with
  | none => .refused (.notPending "HEAT_SAMPLE")
  | some h =>
    let s1 := s.modMd fun m => { m with heatQ := m.heatQ.erase h }
    if full then .next (s1.heatDropped h.die h.ctx)
    else .next (s1.modCtx h.ctx fun c =>
      { c with heat := SMap.set 0 c.heat h.page (min 255 (SMap.get 0 c.heat h.page + 1)) })

/-- HEAT_EPOCH (R60): at a boundary of the context's epochs every counter of it halves. -/
def execHeatEpoch (ctx : Nat) (s : State) : Host.Outcome State Fault Refusal :=
  match s.ctx? ctx with
  | none => .refused (.notPending "HEAT_EPOCH")
  | some c =>
    if s.now < c.born + (c.epochs + 1) * (c.req.epoch * oneMilli) then .refused (.notPending "HEAT_EPOCH")
    else .next (s.setCtx ctx { c with epochs := c.epochs + 1
                                      heat := c.heat.foldl (fun m x => SMap.set 0 m x.1 (x.2 / 2)) [] })

/-! ### Scrub (R61) -/

/-- The number of sector k of a die's slot of a physical stripe, among all places (R42). -/
def slotSector (t die k : Nat) : Nat := slotAt t die (32 * k) / 32

/-- The IA that some translation cache maps to a sector of a die's slot; 0 when none does, as for a parity unit. -/
def State.iaOf (s : State) (t die k : Nat) : Nat :=
  (s.xl.tlb.findSome? fun e =>
    let sz := 2 ^ sizeLog (leafSize e.2)
    if !leafF e.2 && leafFrame e.2 ≤ 4096 * t && 4096 * t < leafFrame e.2 + sz then
      let page := e.1 % 2 ^ 40 * 4096 / sz * sz + (4096 * t - leafFrame e.2)
      ((List.range 16).find? fun u => s.servingDie (page + 256 * u) == die).map fun u => page + 256 * u + 32 * k
    else none).getD 0

/-- A sector of the die's slots is part of a compressed block (R56). -/
def State.inBlock (s : State) (die sector : Nat) : Bool := (SMap.find? s.md.zblocks (17 * (sector / 64) + die)).isSome

/-- What a scrub of a sector concerns, as (stripe, sector of the slot): the sector, or all 64 of its compressed block (R61). -/
def State.scrubbed (s : State) (die sector : Nat) : List (Nat × Nat) :=
  if s.inBlock die sector then ((List.range 8).map fun i => (List.range 8).map fun k => (sector / 64 * 8 + i, k)).flatten
  else [(sector / 8, sector % 8)]

/-- Whether the other 16 slots of each stripe can rebuild some sectors of a die's slots: parity is kept and none of them is poisoned there
(R61, R62). -/
def State.canRebuild (s : State) (die : Nat) (xs : List (Nat × Nat)) : Bool :=
  s.keepsParity && xs.all fun x => (List.range 17).all fun d => d == die || !SMap.get false s.md.poison (slotSector x.1 d x.2)

/-- DRAM_SCRUB (R61): a sector of a die (die-local byte div 32) is corrected, rebuilt from the other slots of its stripe, or poisoned; of a
compressed block the eight slots are. DESIGN CHOICE, unsafe: log entry 41. -/
def execDramScrub (die : Nat) (sector : Nat) (find : ScrubFind) (s : State) : Host.Outcome State Fault Refusal :=
  if 17 ≤ die || deviceTop / 4096 * 8 ≤ sector || s.dieGone die then .refused (.notPending "DRAM_SCRUB")
  else
    let bump (t : State) : State := t.modMd fun m => { m with corrected := SMap.set 0 m.corrected die (SMap.get 0 m.corrected die + 1) }
    let xs := s.scrubbed die sector
    let ia := s.iaOf (sector / 8) die (sector % 8)
    let poison : State := (s.modMd fun m => { m with
      poison := xs.foldl (fun p x => SMap.set false p (slotSector x.1 die x.2) true) m.poison }).memRecord 0x0304 1 die 0xFFFF xs.length ia
    match find with
    | .corrected => .next (bump s)
    | .rebuilt => if s.canRebuild die xs then .next ((bump s).memRecord 0x0303 0 die 0xFFFF 1 ia) else .next poison
    | .poisoned => .next poison

/-! ### A memory die fails (R53, R63 to R65, R109, R123, R238) -/

/-- Takes back a write whose parity delta was not applied. -/
def State.undoDelta (s : State) (d : Delta) : State := { s with mem := applyParity s.mem d.stripe d.home d.bytes }

/-- The bytes that a delta's write has put in place, at the same offsets of another die's slot. -/
def State.writtenBy (s : State) (d : Delta) (die : Nat) : List (Nat × BitVec 8) :=
  d.bytes.map fun x => (slotAt d.stripe die x.1, Memory.read s.mem (slotAt d.stripe d.home x.1))

/-- A write that the device itself makes: it is not sent again as a request. -/
def Req.direct (r : Req) : Bool :=
  match r.who with
  | .pref _ => true
  | _ => false

/-- No flit from or to a die that has failed is waited for any more. -/
def Ticket.freed (t : Ticket) (port : Nat) : Ticket := if t.src = port ∨ t.dst = port then Ticket.here else t
def State.freeTickets (s : State) (port : Nat) : State :=
  let grp (g : Group) : Group := { g with oplog := (SMap.entries g.oplog).foldl (fun m o =>
    SMap.put m o.1 { o.2 with replies := o.2.replies.map fun t => t.freed port }) g.oplog }
  let cmd (c : CopyCmd) : CopyCmd := { c with replies := c.replies.map fun x => (x.1, x.2.freed port) }
  let blk (b : Block) : Block := { b with cmds := b.cmds.map cmd, traffic := b.traffic.map fun t => t.freed port }
  let s1 := (SMap.entries s.groups).foldl (fun t g => t.setGroup g.1 (grp g.2)) s
  let s2 := s1.cores.foldl (fun t c => t.setCore c.1 { c.2 with acks := c.2.acks.map fun a => { a with ticket := a.ticket.freed port } }) s1
  let s3 := (SMap.entries s2.blocks).foldl (fun t b => t.setBlock b.1 (blk b.2)) s2
  let s4 := s3.modXl fun x => { x with
    collapse := (SMap.entries x.collapse).foldl (fun m c => SMap.put m c.1 { c.2 with reads := c.2.reads.map fun t => t.freed port }) x.collapse
    migration := x.migration.map fun m => { m with flit := m.flit.map fun t => t.freed port } }
  s4.modMd fun m => { m with
    reqs := m.reqs.map fun r => { r with reply := r.reply.freed port }
    cellReqs := m.cellReqs.map fun r => { r with reply := r.reply.freed port }
    renewals := m.renewals.map fun r => { r with ticket := r.ticket.freed port }
    mirrorQ := m.mirrorQ.map fun u => { u with ticket := u.ticket.freed port }
    memops := m.memops.map fun x => { x with open_ := x.open_.map fun u => { u with replies := u.replies.map fun t => t.freed port } } }

/-- Step 1 of R63: the control die declares the die failed and tells every other die in class 2. -/
def State.tellFailure (s : State) (f : Nat) : State :=
  ((List.range 26).filter fun p => p != controlPort && p != portOfMemory f).foldl (fun t p => (t.message controlPort p 2).1) s

/-- Steps 1 and 2 of R63: the die is marked; L1 lines homed there are dropped and its leases revoked; its caches, merge
entries and miss records are gone. -/
def State.dieStops (s : State) (f : Nat) : State :=
  let homed (iline : Nat) : Bool := s.servingDie (128 * iline) == f
  let s1 := { s with l1 := s.l1.filter fun e => !homed (e.1 % 2 ^ 45) }
  let s2 := s1.modMd fun m => { m with
    failed := m.failed ||| BitVec.ofNat 17 (2 ^ f)
    lines := (m.lines.map fun (l : Nat × Line) => if homed l.1 then (l.1, { l.2 with leaseEnd := 0 }) else l).filter fun l => decide (l.2 ≠ Line.reset)
    renewals := m.renewals.map fun r => if homed r.line then { r with leaseEnd := 0 } else r
    heatQ := m.heatQ.filter fun h => h.die != f
    backoff := m.backoff.filter fun b => b.2.1 != f }
  let s3 := s2.modXl fun x => { x with
    tlb := x.tlb.filter fun e => e.1 / 2 ^ 40 != f
    merge := x.merge.filter fun e => e.1 / 2 ^ 40 != f
    missQ := x.missQ.filter fun r => r.die != f
    refused := x.refused.filter fun r => r.1.die != f
    fills := x.fills.filter fun r => r.die != f
    pendings := x.pendings.filter fun r => r.1 != f
    answers := x.answers.filter fun r => r.die != f
    invals := x.invals.map fun v => { v with todo := v.todo.filter fun d => d.1 != f, fin := v.fin.filter fun d => d != f } }
  s3.freeTickets (portOfMemory f)

/-- Step 2 of R63: the parity die of each stripe takes over the unit that lay on the die, in its own slot of the stripe; a sector of which
another slot is poisoned cannot be rebuilt and is poisoned, which is recorded (R61, R62, R67). -/
def State.rebuildOn (s : State) (f : Nat) : State :=
  let p (t : Nat) : Nat := SMap.get 0 s.md.stripeP t
  let stripe (a : Nat) : Nat := a / 4352
  let stays (a : Nat) : Bool := dieOfPlace a != f && dieOfPlace a != p (stripe a)
  let moved (a : Nat) : Option Nat :=
    if dieOfPlace a = f ∧ p (stripe a) ≠ f then some (slotAt (stripe a) (p (stripe a)) (a % 256)) else none
  let mem := (s.mem.filterMap fun x => (moved x.1).map fun a => (a, x.2)).foldl (fun m x => Memory.write m x.1 x.2) (s.mem.filter fun x => stays x.1)
  let keyed := (s.md.keyed.filterMap fun x => (moved (32 * x.1)).map fun a => (a / 32, x.2)).foldl (fun m x => SMap.set 0 m x.1 x.2)
    (s.md.keyed.filter fun x => stays (32 * x.1))
  let bad := (s.md.poison.filter fun x => decide (x.1 < 2 ^ 47) && dieOfPlace (32 * x.1) != f).map fun x => 8 * (32 * x.1 / 4352) + x.1 % 8
  let unbuilt := bad.foldl (fun m x => SMap.set false m x true) s.md.unbuilt
  let s1 := { s with mem := mem }.modMd fun m => { m with
    keyed := keyed, unbuilt := unbuilt, poison := m.poison.filter fun x => 2 ^ 47 ≤ x.1 || dieOfPlace (32 * x.1) != f }
  if bad.isEmpty then s1 else s1.memRecord 0x0304 1 f 0xFFFF (min 65535 bad.eraseDups.length) 0

/-- The blocks of substitute homes that take the compressed units of the die are compressed anew (R56, R57, R63). -/
def State.refitBlocks (s : State) (f : Nat) : State :=
  ((SMap.entries s.md.zblocks).filter fun z => z.1 % 17 == f).foldl (fun t z =>
    let b := z.1 / 17
    let ps := ((List.range 8).map fun i => SMap.get 0 s.md.stripeP (8 * b + i)).eraseDups
    (ps.filter (· != f)).foldl (fun u p => u.fitParity z.2.ctx p b) (t.modMd fun m => { m with zblocks := SMap.del m.zblocks z.1 })) s

/-- 2 µs in cc. -/
def resendAfter : Nat := 4000

/-- The units of MEMOPs that the die processed go on at their substitute homes: with the tags of R64 no element is updated twice. -/
def State.dieMemops (s : State) (f : Nat) : State :=
  let newHome (id va : Nat) : Nat :=
    (((s.md.memops.find? fun m => m.id == id).bind fun m => m.open_.find? fun u => u.va == va).map fun u => s.servingDie u.ia).getD f
  let at_ (src : Nat) (w : Requester) : Nat := match w with
    | .memop id va => if src = 18 + f then 18 + newHome id va else src
    | _ => src
  let again (r : Req) : Req :=
    if r.src = 18 + f then { r with src := at_ r.src r.who, waiting := none, retryAt := some (s.now + resendAfter), reply := Ticket.here } else r
  s.modMd fun m => { m with
    reqs := m.reqs.map again
    held := m.held.map fun h => { h with req := { h.req with src := at_ h.req.src h.req.who } }
    uio := m.uio.map fun h => { h with req := { h.req with src := at_ h.req.src h.req.who } }
    deltas := m.deltas.map fun d => { d with req := { d.req with src := at_ d.req.src d.req.who } }
    parityAcks := m.parityAcks.map fun d => { d with req := { d.req with src := at_ d.req.src d.req.who } }
    cellReqs := m.cellReqs.map fun c => { c with src := at_ c.src c.who }
    memops := m.memops.map fun x => { x with open_ := x.open_.map fun u => if u.home = f then { u with home := s.servingDie u.ia } else u } }

/-- Step 3 of R63: what the die had not acknowledged is sent to the substitute homes from 2 µs on, in order; the device's own writes stand
there; what the parity die has applied is acknowledged (R64); deltas for a parity unit on the die are done without it. -/
def State.dieResend (s : State) (f : Nat) : State :=
  let lost := s.md.deltas.filter fun d => d.home == f
  let undone := lost.reverse.foldl (fun (a : State × List (List (Nat × BitVec 8))) d =>
    (a.1.undoDelta d, if d.req.direct then a.1.writtenBy d d.pdie :: a.2 else a.2)) (s, [])
  let built := if s.md.lost = 0 then undone.1.rebuildOn f else undone.1
  let s1 := ({ built with mem := Memory.writeAll built.mem undone.2.flatten } : State).dieMemops f
  let atF (r : Req) : Bool := homeDie ((r.lanes.head?.map (·.ia)).getD 0) == f
  let held := s1.md.held.filter fun h => !h.req.direct && atF h.req
  let later (r : Req) : Req := { r with waiting := none, retryAt := some (s.now + resendAfter), reply := Ticket.here }
  let again := ((lost.filter fun d => !d.req.direct).map (·.req)) ++ held.map (·.req)
  let free (d : Delta) : Delta := { d with ticket := Ticket.here }
  s1.modMd fun m => { m with
    reqs := again.map later ++ m.reqs.map fun r => if atF r then later r else r
    held := m.held.filter fun h => !held.contains h
    deltas := m.deltas.filter fun d => d.home != f && d.pdie != f
    parityAcks := (m.parityAcks.map fun d => if d.home = f then { free d with home := d.pdie } else if d.pdie = f then free d else d)
      ++ ((m.deltas.filter fun d => d.home != f && d.pdie == f).map free)
      ++ ((lost.filter fun d => d.req.direct).map fun d => { free d with home := d.pdie }) }

/-- Cells (R53): updates not yet at the mirror, and requests that the die had not taken, are sent to the mirror from 2 µs on; those that the
mirror has applied are answered, by their tags (R64); updates for a mirror on the die are done without it, and the reads behind them are
answered. -/
def State.dieCells (s : State) (f : Nat) : State :=
  let mine := s.md.mirrorQ.filter fun u => cellDie u.req.cell == f
  let later (r : CellReq) : CellReq := { r with retryAt := some (s.now + resendAfter), reply := Ticket.here }
  let done := (mine.filter (·.applied)) ++ s.md.mirrorQ.filter fun u => (cellDie u.req.cell + 1) % 17 == f
  let s1 := s.modMd fun m => { m with
    mirrorQ := m.mirrorQ.filter fun u => cellDie u.req.cell != f && (cellDie u.req.cell + 1) % 17 != f
    cellReqs := ((mine.filter fun u => !u.applied).map fun u => later u.req)
      ++ m.cellReqs.map fun r => if cellDie r.cell = f then later r else r }
  done.foldl (fun t u => t.cellAnswer u.req (some u.value)) s1

/-- The substitute home fires every watch that was armed at the die (R238). -/
def State.dieWatches (s : State) (f : Nat) : State :=
  s.modMd fun m => { m with watches := m.watches.filter fun w => w.home != f
                            fired := m.fired ++ m.watches.filter fun w => w.home == f }

/-- MEMORY_DIE_FAILURE (R63, R65). -/
def State.memoryDieFails (s : State) (f : Nat) : State :=
  let second := s.md.failed != 0 || s.md.retired.isSome
  let before := s.md.failed ||| ((s.md.retired.map fun d => BitVec.ofNat 17 (2 ^ d)).getD 0)
  let s1 := ((((s.tellFailure f).dieStops f).dieCells f).dieWatches f)
  let s2 := if second then s1.modMd fun m => { m with lost := before ||| m.failed } else s1
  let s3 := (s2.dieResend f).refitBlocks f
  if second then s3.memRecord 0x0306 2 f 0xFFFF 0 0
  else s3.logAndRaise 0 2 (eventBytes 0x0305 1 f 0xFFFF 0 0 0 s.now)
/-- DESIGN CHOICE, unsafe: log entry 42. -/
def execMemoryDieFailure (die : Nat) (s : State) : Host.Outcome State Fault Refusal :=
  if 17 ≤ die || s.dieGone die then .refused (.notPending "MEMORY_DIE_FAILURE") else .next (s.memoryDieFails die)

end Sys2Proof.Machine
end

