-- ==== Sys2Proof/Machine/Fabric.lean ====
section
/-! DEFINITION. Machine/Fabric.lean: lost and returning channels, degraded, relayed and lost pairs, the laser modules and the
fabric registers (R20 to R37, R483, R484). -/

namespace Sys2Proof.Machine

/-! ### Pairs -/

/-- A used ordered pair of ports (R9). -/
def usedPair (i j : Nat) : Bool := decide (i < 26) && decide (j < 26) && i != j
/-- The 650 used pairs. -/
def allPairs : List (Nat × Nat) :=
  ((List.range 26).map fun i => ((List.range 26).filter (· != i)).map fun j => (i, j)).flatten

/-- The channels of plane pair p (R27). -/
def planeChannels (p : Nat) : BitVec 16 := if p < 4 then BitVec.ofNat 16 (15 * 2 ^ (4 * p)) else 0
def liveCount (m : BitVec 16) : Nat := popcount 16 m.toNat

/-- The channels that some active module lights: the common live mask (R28). -/
def State.lit (s : State) : BitVec 16 :=
  s.fab.lasers.foldl (fun m l => if l.state = 3 then m ||| planeChannels l.planes else m) 0

/-- CHSTAT.MODE (R32): 2 relayed, 0 full, 1 degraded; without a live channel 4 while channels train, else 3. -/
def Link.mode (l : Link) : Nat :=
  if l.relayVia.isSome then 2 else if l.chLive = 0 then (if l.training != 0 then 4 else 3)
  else if l.chLive = 0xFFFF then 0 else 1

/-- A time noted for each channel of a mask. -/
def noteTime (m : SMap Nat) (c : BitVec 16) (t : Nat) : SMap Nat := (channels c).foldl (fun m ch => SMap.set 0 m ch t) m

/-- The receiver takes a new stripe (R21): from the next flit boundary it decodes with g = 0 over it; a channel-state flit names the
live mask (info bits 15:0) and the next expected sequence (bits 27:16), and a class 3 flit to the control die reports the change. The
layout of info is the model's. DESIGN CHOICE, unsafe: log entry 120. -/
def State.restripe (s : State) (i j : Nat) (live : BitVec 16) : State :=
  let l := s.link i j
  let s1 := s.setLink i j { l with rxLive := live, rxG := 0, stale := true, resent := 0 }
  let s2 := s1.control j i kindChannels (BitVec.ofNat 40 (live.toNat + l.expSeq * 2 ^ 16))
  let r := if j = controlPort then (s2, Ticket.here)
    else s2.send j controlPort 3 kindReport (BitVec.ofNat 40 (linkKey i j)) ((Config.message s2.fab.msgs).setWidth 512)
  r.1.modLink i j fun q => { q with report := some ((l.report.map (·.1)).getD l.rxLive, r.2) }

/-- A pair's channels marked dead at the receiving end (R20, R21): what is on the wire fails, and the pair restripes once. -/
def State.markDead (s : State) (i j : Nat) (chans : BitVec 16) : State :=
  let l := s.link i j
  let c := (l.rxLive ||| l.training) &&& chans
  (s.setLink i j { l with rxDead := l.rxDead ||| c, training := l.training &&& ~~~c, lowPwr := l.lowPwr ||| c, wire := hitBy c l.wire
                          deadAt := noteTime l.deadAt c s.now }).restripe i j (l.rxLive &&& ~~~chans)

/-- CHANNEL_DEAD (R20, R21): channels below the threshold for 128 cc are marked; ones that recover in time only set LOWPWR, and
their flits fail and are replayed: the spec does not say which flits a dip corrupts, and the model fails every flit in flight with a
beat on the channels. DESIGN CHOICE, unsafe: log entry 122. -/
def execChannelDead (src dst : Nat) (chans : BitVec 16) (recovered : Bool) (s : State) : Host.Outcome State Fault Refusal :=
  let c := chans &&& (s.link src dst).rxLive
  if !usedPair src dst || c = 0 then .refused (.notPending "CHANNEL_DEAD")
  else if recovered then .next (s.modLink src dst fun l => { l with lowPwr := l.lowPwr ||| c, wire := hitBy c l.wire })
  else .next (s.markDead src dst c)

/-- CHANNEL_STATE (R21): the sending end takes the new stripe, sets g = 0 and re-sends from the receiver's expected sequence.
DEDUCED, unsafe: log entry 81. -/
def execChannelState (src dst : Nat) (s : State) : Host.Outcome State Fault Refusal :=
  match (s.link dst src).takeControl fun f => f.kind == kindChannels with
  | none => .refused (.notPending "CHANNEL_STATE")
  | some (f, back) =>
    let live := BitVec.ofNat 16 (bits f.info.toNat 0 16)
    let e := bits f.info.toNat 16 12
    let s1 := (s.setLink dst src back).modLink src dst fun l =>
      { l with txLive := live, txDead := ~~~live &&& ~~~l.training, txG := 0, stale := false, buf := l.from_ e }
    .next ((s1.replayFrom src dst e).pump src dst)

/-! ### Degrading, relaying, going down (R23 to R26) -/

/-- The pair's state at the control die calls for relay (R23). -/
def Link.callsRelay (l : Link) : Bool :=
  (decide (liveCount l.chLive < l.minch) && l.act)
    || ((l.chLive &&& 0x5555 == 0 || l.chLive &&& 0xAAAA == 0) && l.colact)

/-- Relay through v is possible (R25). -/
def State.mayRelay (s : State) (i j v minch : Nat) : Bool :=
  let leg (a b : Nat) : Bool := let l := s.link a b
    decide (minch ≤ liveCount l.chLive) && l.chLive != 0 && l.relayVia.isNone
  v != i && v != j && decide (v < 26) && leg i v && leg v j

/-- A record of one pair, with the number of flits that the pair re-sent because of the event (R36). -/
def State.pairRecord (s : State) (type sev : Nat) (i j : Nat) (before : BitVec 16) (replayed : Nat) : State :=
  let l := s.link i j
  s.fabRecord type sev 0xFF i j before.toNat l.chLive.toNat l.mode (l.relayVia.getD 0xFF) replayed

/-- A flit that keeps the place of one that travels another way: class 3, carrying nothing (R24). -/
def Flit.filler (f : Flit) : Flit := { f with tc := 3, nak := false, relay := false, pseq := none, kind := kindNone }
/-- Flits of a replay buffer that pass a test are replaced by such flits. -/
def fillers (p : Flit → Bool) (b : List (Flit × Nat)) : List (Flit × Nat) := b.map fun x => if p x.1 then (x.1.filler, x.2) else x

/-- Flits put back at the head of a pair's queue, to be sent again by its other way: counted as re-sent (R33). -/
def Link.again (l : Link) (fs : List Flit) : Link :=
  { l with queue := fs ++ l.queue, replay := min (l.replay + fs.length) 0xFFFFFFFF }

/-- A pair begins relaying (R24): its unacknowledged flits of classes 0 to 2 and every new one go to VIA; the direct channels carry
class 3 only. -/
def State.relayStart (s : State) (i j : Nat) (before : BitVec 16) : State :=
  let l := s.link i j
  let own (f : Flit) : Bool := f.tc != 3 && !f.relay
  let back := (l.buf.map (·.1)).filter own
  let s1 := s.setLink i j { (l.again back) with relayVia := some l.via, downAt := none, chMode := 2, buf := fillers own l.buf }
  (s1.pairRecord 0x0103 1 i j before back.length).pump i j

/-- A pair returns to direct (R25): its flits that the destination has not accepted come back from the relay path in the order of
their pair sequences. -/
def State.relayEnd (s : State) (i j v : Nat) (before : BitVec 16) : State :=
  let l := s.link i j
  let mine (f : Flit) : Bool := f.relay && f.opsrc == i && f.odst == j
  let ahead (f : Flit) : Nat := (f.pseq.getD 0 + 4096 - l.pairExp) % 4096
  let path := ((s.link i v).buf.map (·.1)) ++ SMap.get [] s.fab.relayIn v ++ ((s.link v j).buf.map (·.1))
  let back := (path.filter fun f => mine f && decide (ahead f < 2048)).foldl
    (fun (a : List Flit) f => if a.any (fun g => g.pseq == f.pseq) then a else a ++ [f]) []
  let own := sortBy (fun (a b : Flit) => decide (ahead a ≤ ahead b)) (back.map fun f => { f with relay := false })
  let s1 : State := { s with fab := { s.fab with
    relayIn := SMap.set [] s.fab.relayIn v ((SMap.get [] s.fab.relayIn v).filter fun f => !mine f) } }
  let s2 := (s1.modLink i v fun q => { q with buf := fillers mine q.buf }).modLink v j fun q => { q with buf := fillers mine q.buf }
  let s3 := s2.modLink i j fun q => { (q.again own) with relayVia := none }
  let s4 := s3.modLink i j fun q => { q with chMode := q.mode }
  ([0, 1, 2].foldl (fun t tc => t.settlePause i v tc) (s4.pairRecord 0x0104 0 i j before own.length)).pump i j

/-- A direct pair's route (R23, R25, R26): it begins relaying, or is down, or runs over its live channels. -/
def State.routeDirect (s : State) (i j : Nat) (before : BitVec 16) : State :=
  let l := s.link i j
  if l.callsRelay && s.mayRelay i j l.via l.minch then s.relayStart i j before
  else if l.chLive = 0 && l.downAt.isNone then
    (s.setLink i j { l with downAt := some s.now, chMode := l.mode }).pairRecord 0x0105 2 i j before 0
  else s.setLink i j { l with chMode := l.mode, downAt := if l.chLive = 0 then l.downAt else none }

/-- The pair's route after a change of its state or of PAIRRT (R23 to R26), with the records. -/
def State.reroute (s : State) (i j : Nat) (before : BitVec 16) : State :=
  let l := s.link i j
  match l.relayVia with
  | none => s.routeDirect i j before
  | some v =>
    if l.callsRelay && v = l.via && s.mayRelay i j v l.minch then s
    else (s.relayEnd i j v before).routeDirect i j before

/-- A pair's route is no longer what its state and its legs call for (R25). -/
def State.unsettled (s : State) (i j : Nat) : Bool :=
  let l := s.link i j
  match l.relayVia with
  | none => (l.callsRelay && s.mayRelay i j l.via l.minch) || (l.chLive == 0 && l.downAt.isNone) || (l.chLive != 0 && l.downAt.isSome)
  | some v => !(l.callsRelay && v == l.via && s.mayRelay i j v l.minch)

/-- Routes of all pairs follow, one after another, lowest index first: a change of one pair may be a change of another's leg (R25).
DESIGN CHOICE, unsafe: log entry 123. -/
def State.settleRoutes (s : State) : Nat → State
  | 0 => s
  | n + 1 =>
    match List.find? (fun (k : Nat × Link) => s.unsettled (k.1 / 32) (k.1 % 32)) s.fab.links with
    | none => s
    | some k => (s.reroute (k.1 / 32) (k.1 % 32) (s.link (k.1 / 32) (k.1 % 32)).chLive).settleRoutes n

/-- A pair's route and then those of the pairs that depend on it. -/
def State.rerouteAll (s : State) (i j : Nat) (before : BitVec 16) : State := (s.reroute i j before).settleRoutes 1300

/-! ### Reports at the control die (R21, R28, R29) -/

def State.laser (s : State) (m : Nat) : Laser := s.fab.lasers.getD m (Laser.reset m)
def State.setLaser (s : State) (m : Nat) (l : Laser) : State := { s with fab := { s.fab with lasers := s.fab.lasers.set m l } }

/-- Flits re-sent over all pairs since their last change. -/
def State.resentAll (s : State) : Nat := (s.fab.links.map fun l => l.2.resent).sum

/-- Every pair whose channel-state flit can travel has restriped and re-sent (R21, R28). -/
def State.restriped (s : State) : Bool :=
  s.fab.links.all fun k => !(k.2.stale && (s.link (k.1 % 32) (k.1 / 32)).txLive != 0)

/-- LASFAIL, once per failure (R28), with the common live mask and the flits re-sent over all pairs, once every pair has re-sent. -/
def State.laserRecord (s : State) (m : Nat) : State :=
  let l := s.laser m
  if l.recorded || !s.restriped then s
  else
    let after := s.lit
    let mode := if after = 0xFFFF then 0 else if after = 0 then 3 else 1
    (s.setLaser m { l with recorded := true }).fabRecord 0x0201 1 m 0xFF 0xFF (after ||| planeChannels l.lost).toNat after.toNat
      mode 0xFF s.resentAll

/-- LASSTBY when the last pair is back on the standby's channels (R29). -/
def State.standbyDone (s : State) : State :=
  match s.fab.standbyFor with
  | none => s
  | some (_, k) =>
    let c := planeChannels (s.laser k).planes
    if s.fab.standbyLit && allPairs.all (fun p => (s.link p.1 p.2).rxLive &&& c == c && (s.link p.1 p.2).report.isNone) then
      ({ s with fab := { s.fab with standbyFor := none, standbyLit := false } }).fabRecord 0x0202 0 k 0xFF 0xFF
        (s.lit &&& ~~~c).toNat s.lit.toNat (if s.lit = 0xFFFF then 0 else 1) 0xFF s.resentAll
    else s

/-- The failed module that explains a loss: one of its channels is gone (R28). -/
def State.lossCause (s : State) (gone : BitVec 16) : Option Nat :=
  let hit (m : Nat) : Bool := (s.laser m).failedAt.isSome && planeChannels (s.laser m).lost &&& gone != 0
  ((List.range 5).find? fun m => hit m && !(s.laser m).recorded).or ((List.range 5).find? hit)

/-- LINK_CHANGE_REPORT (R21, R28): once the link runs over the new stripe and the port's class 3 report has arrived, the control die
learns of the change: CHSTAT, the record, and the pair's route. A laser failure's loss is covered by its LASFAIL unless the pair's mask
differs from the common one. DEDUCED, unsafe: log entry 82. R493 also writes a LOL for a pair that had lost one of the failed module's
channels before, whose mask is then the common one; the model writes none there, as R28 has it. DESIGN CHOICE, unsafe: log entry 141. -/
def execLinkChangeReport (src dst : Nat) (s : State) : Host.Outcome State Fault Refusal :=
  let l := s.link src dst
  match l.report with
  | none => .refused (.notPending "LINK_CHANGE_REPORT")
  | some (before, tk) =>
    if !s.landed tk || (l.stale && (s.link dst src).txLive != 0) then .refused (.notPending "LINK_CHANGE_REPORT")
    else
      let l1 := { l with report := none, chLive := l.rxLive, chDead := l.rxDead }
      let s1 := s.setLink src dst { l1 with chMode := l1.mode }
      let gone := before &&& ~~~l.rxLive
      let back := l.rxLive &&& ~~~before
      let s2 := if gone = 0 then s1
        else match s.lossCause gone with
          | some m => let t := s1.laserRecord m
            if l.rxLive = s.lit then t else t.pairRecord 0x0101 1 src dst before l.resent
          | none => s1.pairRecord 0x0101 1 src dst before l.resent
      let standby := match s.fab.standbyFor with
        | some (_, k) => planeChannels (s.laser k).planes
        | none => 0
      let s3 := if back &&& ~~~standby = 0 then s2 else s2.pairRecord 0x0102 0 src dst before l.resent
      .next ((s3.rerouteAll src dst before).standbyDone)

/-! ### Retraining (R22) -/

/-- 1 ms and 100 ms. -/
def oneMs : Nat := 2000000

/-- The channels have had light for 1 ms without a break, and 100 ms have passed since a training of theirs that failed (R22). -/
def State.steady (s : State) (l : Link) (c : BitVec 16) : Bool :=
  (channels c).all fun ch =>
    decide (SMap.get 0 l.retryAt ch ≤ s.now) && decide (SMap.get 0 l.deadAt ch + oneMs ≤ s.now)
      && s.fab.lasers.any fun m => m.state == 3 && (planeChannels m.planes).getLsbD ch && decide (m.since + oneMs ≤ s.now)

/-- Channels begin to train: neither live nor dead for 20 µs (R22, R32). -/
def Link.train (l : Link) (c : BitVec 16) (now : Nat) : Link :=
  let q := { l with training := l.training ||| c, trainEnd := noteTime l.trainEnd c (now + 40000), rxDead := l.rxDead &&& ~~~c,
                    chDead := l.chDead &&& ~~~c }
  { q with chMode := q.mode }

/-- CHANNEL_RETRAIN_START (R22): channels that have had light for 1 ms train outside the stripe for 20 µs. -/
def execChannelRetrainStart (src dst : Nat) (chans : BitVec 16) (s : State) : Host.Outcome State Fault Refusal :=
  let l := s.link src dst
  let c := chans &&& l.rxDead &&& s.lit
  if !usedPair src dst || c = 0 || c != chans || !s.steady l c then .refused (.notPending "CHANNEL_RETRAIN_START")
  else .next (s.setLink src dst (l.train c s.now))

/-- CHANNEL_TRAINING_END (R22): after 20 µs the channels join the stripe, by the handshake of R21, or stay dead for 100 ms. -/
def execChannelTrainingEnd (src dst : Nat) (chans : BitVec 16) (ok : Bool) (s : State) : Host.Outcome State Fault Refusal :=
  let l := s.link src dst
  let c := chans &&& l.training
  if c = 0 || c != chans || !(channels c).all (fun ch => decide (SMap.get 0 l.trainEnd ch ≤ s.now)) then
    .refused (.notPending "CHANNEL_TRAINING_END")
  else
    let l1 := { l with training := l.training &&& ~~~c }
    if ok then .next ((s.setLink src dst l1).restripe src dst (l.rxLive ||| c))
    else
      let l2 := { l1 with rxDead := l.rxDead ||| c, chDead := l.chDead ||| c, retryAt := noteTime l.retryAt c (s.now + 100 * oneMs) }
      .next (s.setLink src dst { l2 with chMode := l2.mode })

/-! ### Laser modules (R27 to R31, R483, R484) -/

/-- Every pair loses the channels at once (R28, R483): each port marks them as a receiver and drops them from its outbound
stripe in the same cycle; CHSTAT shows it with the marks (R484). -/
def State.loseAll (s : State) (c : BitVec 16) : State :=
  let s1 := allPairs.foldl (fun t p => t.modLink p.1 p.2 fun l =>
    { l with txLive := l.txLive &&& ~~~c, txDead := l.txDead ||| (l.txLive &&& c), txG := 0, resent := 0 }) s
  let s2 := allPairs.foldl (fun t p =>
    if ((t.link p.1 p.2).rxLive ||| (t.link p.1 p.2).training) &&& c = 0 then t else t.markDead p.1 p.2 c) s1
  allPairs.foldl (fun t p => t.modLink p.1 p.2 fun l =>
    let q := { l with chLive := l.rxLive, chDead := l.rxDead }
    { q with chMode := q.mode }) s2

/-- LASER_FAIL (R28, R30): an active module's light goes out. -/
def execLaserFail (m : Nat) (s : State) : Host.Outcome State Fault Refusal :=
  let l := s.laser m
  if 5 ≤ m || l.state != 3 then .refused (.notPending "LASER_FAIL")
  else
    let lost := if l.planes = 15 then l.lost else l.planes
    let s1 := s.setLaser m { l with state := 4, planes := 15, lost := lost, failedAt := some s.now, recorded := false }
    let s2 := match s.fab.standbyFor with
      | some (_, k) => if k = m then { s1 with fab := { s1.fab with standbyFor := none, standbyLit := false } } else s1
      | none => s1
    .next (s2.loseAll (planeChannels l.planes))

/-- LASER_MONITOR_REPORT (R28): the monitor photodiode's report, within 10 µs; the first report writes LASFAIL, once
every pair has re-sent. -/
def execLaserMonitorReport (m : Nat) (s : State) : Host.Outcome State Fault Refusal :=
  let l := s.laser m
  if 5 ≤ m || l.recorded || l.failedAt.isNone || !s.restriped then .refused (.notPending "LASER_MONITOR_REPORT")
  else .next (s.laserRecord m)

/-- The module that stands by, if one does. -/
def State.standby (s : State) : Option Nat := (List.range 5).find? fun k => (s.laser k).state == 2 && !(s.laser k).remreq

/-- The failed module that the standby is to replace (R29, R30): of those that failed within 10 µs of the first, the lowest. A module whose
removal was asked for after its failure still leaves its planes to be taken. One that was left with no replacement is replaced when a module
inserted later stands by: the spec is silent there. DESIGN CHOICE, unsafe: log entry 142. -/
def State.toReplace (s : State) : Option Nat :=
  let open_ := (List.range 5).filter fun m =>
    let l := s.laser m
    l.failedAt.isSome && planeChannels l.lost != 0 && planeChannels l.lost &&& s.lit == 0
  let time (m : Nat) : Nat := ((s.laser m).failedAt).getD 0
  match open_.map time |>.min? with
  | none => none
  | some t0 => (open_.filter fun m => decide (time m ≤ t0 + tenMicro)).head?

/-- STANDBY_COMMIT (R30): 10 µs after the failure. DESIGN CHOICE, unsafe: log entry 83. -/
def execStandbyCommit (s : State) : Host.Outcome State Fault Refusal :=
  match s.fab.standbyFor, s.standby, s.toReplace with
  | none, some k, some m =>
    if ((s.laser m).failedAt.getD 0) + tenMicro ≤ s.now then
      .next { s with fab := { s.fab with standbyFor := some (m, k), standbyLit := false } }
    else .refused (.notPending "STANDBY_COMMIT")
  | _, _, _ => .refused (.notPending "STANDBY_COMMIT")

/-- STANDBY_LIGHT_ON (R29, R31, R484): the standby's light is on the planes; every pair retrains the four channels. -/
def execStandbyLightOn (s : State) : Host.Outcome State Fault Refusal :=
  match s.fab.standbyFor with
  | none => .refused (.notPending "STANDBY_LIGHT_ON")
  | some (m, k) =>
    if s.fab.standbyLit then .refused (.notPending "STANDBY_LIGHT_ON")
    else
      let p := (s.laser m).lost
      let c := planeChannels p
      let s1 := s.setLaser k { s.laser k with state := 3, planes := p, since := s.now }
      let s2 := { s1 with fab := { s1.fab with standbyLit := true } }
      .next (allPairs.foldl (fun t q => t.modLink q.1 q.2 fun l => l.train (c &&& ~~~l.rxLive) s.now) s2)

/-- STANDBY_FAIL (R30): the standby fails while coming up; LASFAIL is recorded for it. -/
def execStandbyFail (s : State) : Host.Outcome State Fault Refusal :=
  match s.fab.standbyFor with
  | none => .refused (.notPending "STANDBY_FAIL")
  | some (_, k) =>
    if s.fab.standbyLit then .refused (.notPending "STANDBY_FAIL")
    else
      let s1 := s.setLaser k { s.laser k with state := 4, planes := 15, lost := 15, failedAt := some s.now, recorded := false }
      let s2 : State := { s1 with fab := { s1.fab with standbyFor := none } }
      .next (s2.laserRecord k)

/-- The planes of an active module move to the standby without a failure (R31): each pair restripes to 12 at a flit boundary,
with no flit lost: both ends change together and what is on the wire arrives; where an earlier stripe change is still on its way to the
sender, the new one follows it, so that the sender ends on the stripe its receiver decodes. A pair whose state now calls for another route
takes it (R23). -/
def State.moveAway (s : State) (m k : Nat) : State :=
  let l := s.laser m
  let c := planeChannels l.planes
  let s1 := s.setLaser m { l with planes := 15, lost := l.planes, failedAt := none }
  let s2 := { s1 with fab := { s1.fab with standbyFor := some (m, k), standbyLit := false } }
  let s3 := allPairs.foldl (fun t p => t.modLink p.1 p.2 fun q =>
    let live := q.rxLive &&& ~~~c
    let moved (w : Sent) : Sent := { w with live := w.live &&& ~~~c }
    let q1 : Link := { q with rxLive := live, txLive := q.txLive &&& ~~~c, training := q.training &&& ~~~c, rxG := 0, txG := 0,
                              chLive := live, wire := q.wire.map moved }
    { q1 with chMode := q1.mode }) s2
  let late := allPairs.filter fun p => (s3.link p.1 p.2).stale
  (late.foldl (fun t p =>
    let q := t.link p.1 p.2
    t.control p.2 p.1 kindChannels (BitVec.ofNat 40 (q.rxLive.toNat + q.expSeq * 2 ^ 16))) s3).settleRoutes 1300

/-- The module takes part in a move of planes to the standby that is not at its end (R29, R31). -/
def State.moving (s : State) (m : Nat) : Bool :=
  match s.fab.standbyFor with
  | some (a, b) => m == a || m == b
  | none => false

/-- MODULE_REMOVAL (R31): a module whose removal was asked for, which feeds no plane, and whose planes the standby serves on every
pair, goes dark; the latch opens and LASOUT is recorded. -/
def execModuleRemoval (m : Nat) (s : State) : Host.Outcome State Fault Refusal :=
  let l := s.laser m
  if 5 ≤ m || !l.remreq || l.planes != 15 || l.state = 0 || l.out || s.moving m then .refused (.notPending "MODULE_REMOVAL")
  else
    .next ((s.setLaser m { l with state := 5, out := true }).fabRecord 0x0204 0 m 0xFF 0xFF s.lit.toNat s.lit.toNat
      (if s.lit = 0xFFFF then 0 else 1) 0xFF 0)

/-- MODULE_OUT (R31, R35): the module is out; REMREQ reads 0 again. Planes that its failure left dark stay to be taken (R29). -/
def execModuleOut (m : Nat) (s : State) : Host.Outcome State Fault Refusal :=
  let l := s.laser m
  if 5 ≤ m || l.state != 5 || !l.out then .refused (.notPending "MODULE_OUT")
  else .next (s.setLaser m { l with state := 0, planes := 15, remreq := false, out := false })

/-- MODULE_INSERT (R31): an inserted module warms. -/
def execModuleInsert (m : Nat) (s : State) : Host.Outcome State Fault Refusal :=
  if 5 ≤ m || (s.laser m).state != 0 then .refused (.notPending "MODULE_INSERT")
  else .next (s.setLaser m { s.laser m with state := 1, planes := 15 })

/-- MODULE_WARM_DONE (R31): after its self-test it stands by, and LASIN is recorded. -/
def execModuleWarmDone (m : Nat) (s : State) : Host.Outcome State Fault Refusal :=
  if 5 ≤ m || (s.laser m).state != 1 then .refused (.notPending "MODULE_WARM_DONE")
  else
    .next ((s.setLaser m { s.laser m with state := 2 }).fabRecord 0x0203 0 m 0xFF 0xFF s.lit.toNat s.lit.toNat
      (if s.lit = 0xFFFF then 0 else 1) 0xFF 0)

/-! ### Registers (R32 to R35) -/

def Link.chstat (l : Link) : Nat :=
  l.lowPwr.toNat * 2 ^ 40 + l.chDead.toNat * 2 ^ 24 + l.chLive.toNat * 2 ^ 8 + l.chMode % 8 * 2 ^ 5 + liveCount l.chLive
def Link.lnkerr (l : Link) : Nat := l.crcFail % 2 ^ 32 * 2 ^ 32 + l.replay % 2 ^ 32
def Link.pairrt (l : Link) : Nat :=
  let b (x : Bool) : Nat := if x then 1 else 0
  l.via % 32 * 2 ^ 12 + l.minch % 32 * 2 ^ 7 + b l.act * 2 ^ 6 + b l.colact * 2 ^ 5 + l.share % 8 * 2 ^ 2 + b l.badwr * 2
    + b l.relayVia.isSome
def State.lasstat (s : State) (m : Nat) : Nat :=
  let l := s.laser m
  Config.laserReading m 0 % 2 ^ 16 * 2 ^ 32 + Config.laserReading m 1 % 2 ^ 8 * 2 ^ 24 + Config.laserReading m 2 % 2 ^ 8 * 2 ^ 16
    + l.planes % 16 * 2 ^ 8 + (if l.remreq then 16 else 0) + l.state % 16

/-- LNKERR as written: both counters take the values written (R33). -/
def State.writeLnkerr (s : State) (i j x : Nat) : State :=
  s.modLink i j fun l => { l with crcFail := bits x 32 32, replay := bits x 0 32 }

/-- PAIRRT as written (R34): a bad value changes no RW field and sets BADWR; a change takes effect at once. -/
def State.writePairrt (s : State) (i j x : Nat) : State :=
  let l := s.link i j
  let share := bits x 2 3
  let minch := bits x 7 5
  let via := bits x 12 5
  if share = 0 || 16 < minch || 26 ≤ via || via = i || via = j then s.setLink i j { l with badwr := true }
  else
    let l1 := { l with via := via, minch := minch, act := bitAt x 6, colact := bitAt x 5, share := share,
                       badwr := l.badwr && !bitAt x 1 }
    (s.setLink i j l1).rerouteAll i j l.chLive

/-- CHSTAT as written (R32): a 1 clears a LOWPWR bit; the other fields are read-only. -/
def State.writeChstat (s : State) (i j x : Nat) : State :=
  s.modLink i j fun l => { l with lowPwr := l.lowPwr &&& ~~~(BitVec.ofNat 16 (bits x 40 16)) }

/-- REMREQ as written (R31, R35): a failed module goes straight to removing; the only source of a plane pair refuses; an active
module's planes move to the standby. -/
def State.writeRemreq (s : State) (m x : Nat) : State :=
  let l := s.laser m
  if !bitAt x 4 || l.state = 0 then s
  else if l.state = 4 then s.setLaser m { l with state := 5, remreq := true }
  else if l.state = 3 then
    match s.standby, s.fab.standbyFor with
    | some k, none => (s.setLaser m { l with remreq := true }).moveAway m k
    | _, _ => s
  else s.setLaser m { l with remreq := true }

end Sys2Proof.Machine
end

