-- ==== Sys2Proof/Machine/Halt.lean ====
section
/-! DEFINITION. Machine/Halt.lean: halting groups, the lane-cycle record's additions, debug stops and resumes (R144, R178, R180,
R273, R290, R292 to R299). -/

namespace Sys2Proof.Machine

/-! ### Halting (R144, R180, R273) -/

/-- A group halts at an instruction boundary: speculation is squashed, an MMA stops at its next chunk boundary. -/
def State.haltGroup (s : State) (gid : Nat) : State :=
  (s.squashGroup gid).modGroup gid fun g => { g with halted := true, mma := g.mma.map fun m => { m with halt := true } }

/-- Groups landed at a block's rank (R177), which are sent home before it is saved (R178). -/
def State.guests (s : State) (bid : Nat) : List Nat :=
  (SMap.entries s.groups).filterMap fun g =>
    if g.2.bid != bid && g.2.landed.isSome && (s.block? g.2.bid).any (fun b => s.hostBlock g.2 b == bid) then some g.1 else none

def State.sendHome (s : State) (gid : Nat) : State :=
  (s.squashGroup gid).modGroup gid fun g => if g.migrating.isSome then g else { g with migrating := some (0, 3) }

/-- All groups of a block halt; copy words that have not started a command issue again later. -/
def State.haltBlock (s : State) (bid : Nat) (ph : BlockPhase) : State :=
  match s.block? bid with
  | none => s
  | some b =>
    let s1 := (Block.gids bid b).foldl State.haltGroup s
    (b.cmds.filter fun c => c.stage < 2).foldl (fun t c => t.removeCmd bid c.key) (s1.modBlock bid fun x => { x with phase := ph })

/-- Nothing of a block is under way in its engines, and no group of another block stands at its rank. -/
def State.quiet (s : State) (bid : Nat) : Bool := !s.engineBusy bid && (s.guests bid).isEmpty

/-! ### LCR_FLUSH (R290) -/

/-- LCR_FLUSH (R290): every 1 ms. DESIGN CHOICE, unsafe: log entry 66. -/
def execLcrFlush (s : State) : Host.Outcome State Fault Refusal :=
  if s.now < s.host.lcrAt + oneMilli then .refused (.notPending "LCR_FLUSH")
  else
    let s1 := (SMap.entries s.host.ctxs).foldl (fun t c => t.flushCtx c.1) s
    .next { s1 with host := { s1.host with lcrAt := s1.now } }

/-! ### The debug port (R297, R298) -/

/-- An answer of the port: 0 identification, 1 a challenge, 2 an unlock, 3 a refused unlock, 4 a stop, 5 a refused stop,
6 a block lost while stopped. DESIGN CHOICE, unsafe: log entry 65. -/
def State.portSays (s : State) (what n : Nat) : State :=
  { s with guard := { s.guard with port := s.guard.port ++ [(what, n)] } }

/-- DEBUG_IDENTIFY (R297). -/
def execDebugIdentify (s : State) : Host.Outcome State Fault Refusal := .next (s.portSays 0 0)

/-- DEBUG_CHALLENGE (R297): a fresh nonce, good for one attempt. -/
def execDebugChallenge (s : State) : Host.Outcome State Fault Refusal :=
  let n := s.guard.challenge + 1
  .next ({ s with guard := { s.guard with challenge := n, fresh := true } }.portSays 1 (Config.nonce n))

/-- DBGCMP_WRITE (R293): the port writes a comparator of a context with debug on. DEDUCED, unsafe: log entry 67. -/
def execDbgcmpWrite (ctx i : Nat) (value : DWord) (s : State) : Host.Outcome State Fault Refusal :=
  if i < 8 && (s.ctx? ctx).isSome && s.debugOn ctx then
    .next (s.modCtx ctx fun c =>
      { c with cmps := SMap.set 0 c.cmps i (value &&& 0x8FFFFFFFFFFFFFFC) })
  else .refused (.notPending "DBGCMP_WRITE")

/-- Comparator i hits a word (R293). -/
def cmpHit (x : BitVec 64) (clause word : Nat) : Bool :=
  bitAt x.toNat 63 && bits x.toNat 3 53 == bits clause 3 53 && (bitAt x.toNat 2 || bits x.toNat 56 4 == word)

/-- The comparator that hits a word of a context, but for one that may not hit now. DEDUCED, unsafe: log entry 101. -/
def State.comparator (s : State) (ctx : Nat) (off : Option Nat) (clause word : Nat) : Option Nat :=
  if !s.debugOn ctx then none
  else (s.ctx? ctx).bind fun c => (List.range 8).find? fun i => off != some i && cmpHit (SMap.get 0 c.cmps i) clause word

/-! ### Stops (R294, R295) -/

def stopCode : StopSrc → Nat
  | .bkpt => 0
  | .cmp i => 1 + i
  | .port => 9

/-- Reserves a dump area for each block of a cluster; none when the region cannot hold them (R199). -/
def State.reserveDumps (s : State) (bids : List Nat) : Option State :=
  bids.foldl (fun t k => t.bind fun t => (t.block? k).bind fun b =>
    (t.reserveArea b.ctx b.saveSize).map fun r => r.1.setBlock k { b with dump := some r.2 }) (some s)

/-- Every group of a block has exited. -/
def State.allExited (s : State) (bid : Nat) (b : Block) : Bool :=
  (Block.gids bid b).all fun k => (s.group? k).any fun g => !g.fw && g.live == 0

/-- Blocks of a block's cluster that still exist. -/
def State.clusterOf (s : State) (bid : Nat) (b : Block) : List Nat :=
  if b.cluster.contains bid then b.cluster.filter fun k => (s.block? k).isSome else [bid]

/-- DEBUG_STOP (R294, R299): a stop cause meets a block. A saved block keeps it until its restore; during a stop it is
ignored; without an area it is refused. -/
def execDebugStop (bid : Nat) (src : StopSrc) (s : State) : Host.Outcome State Fault Refusal :=
  match s.block? bid with
  | none => .refused (.notPending "DEBUG_STOP")
  | some b =>
    if !s.debugOn b.ctx || (src != .port && b.stopPending != some (stopCode src + 1)) then .refused (.notPending "DEBUG_STOP")
    else
      let s0 := s.modBlock bid fun x => { x with stopPending := none }
      match b.phase with
      | .retired => .refused (.notPending "DEBUG_STOP")
      | .stopping | .stopped => .next s0
      | .saved | .restoring | .halting =>
        .next (if b.stopSrc.isSome then s0
          else s0.modBlock bid fun x => { x with stopPending := some (b.stopPending.getD (stopCode src + 1)) })
      | .live =>
        -- a block whose groups have all exited retires (R299)
        let ks := (s.clusterOf bid b).filter fun k => (s.block? k).any fun x => x.phase == .live && !s.allExited k x
        if s.allExited bid b then .next s0 else
        match s0.reserveDumps ks with
        | none => .next (s0.portSays 5 bid)
        | some s1 =>
          .next (ks.foldl (fun t k => (t.haltBlock k .stopping).modBlock k fun x => { x with stopSrc := some (stopCode src) }) s1)

/-- The dump of a stopped block in the save-area format (R294): counts go into the dump's copy of each object. -/
def State.writeDump (s : State) (bid : Nat) (b : Block) : State :=
  let d : Block := (SMap.entries b.slots).foldl (fun x sl => x.writeBack sl.2 true) { b with area := b.dump }
  let cs := (b.cmds.filter fun c => c.stage == 2).take 32
  let h := s.header { d with cmds := cs }
  let s1 := ((s.saveWrite bid d 0 h.1).saveWrite bid d 32 d.tileFields).saveWrite bid d 224 h.2
  let s2 := s1.saveWrite bid d Block.accOff (words4 ((List.range (3072 * d.acc)).map fun k => (SMap.get 0 d.accs k).toNat))
  let s3 := (Block.gids bid b).foldl (fun t k => match t.group? k with
    | none => t
    | some g => (t.saveWrite bid d (d.grpOff + g.idx * d.recSize) g.saved).saveWrite bid d (d.sOff + 4 * d.scount * g.idx)
        (words4 ((List.range d.scount).map fun i => (g.sreg i).toNat))) s2
  (s3.saveWrite bid d d.padOff ((List.range d.spad).map d.byte)).saveWrite bid d d.copyOff
    (((cs.map CopyCmd.progress).flatten ++ toBytes 2048 0).take 2048)

/-- STOP_RECORD (R294): the block has halted and its copy units have landed or pend; its dump and its STOP record are written, the counters added, and the port
reports. -/
def execStopRecord (bid : Nat) (s : State) : Host.Outcome State Fault Refusal :=
  match s.block? bid with
  | none => .refused (.notPending "STOP_RECORD")
  | some b =>
    if b.phase != .stopping || s.engineBusy bid || s.copyBusy bid b then .refused (.notPending "STOP_RECORD")
    else
      let s1 := (s.writeDump bid b).setBlock bid { b with phase := .stopped }
      let s2 := s1.blockLog b 0x13 (b.stopSrc.getD 9) (toBytes 8 (s.areaVA { b with area := b.dump }))
      .next ((s2.flushCtx b.ctx).portSays 4 bid)

/-- Frees a block's dump area. -/
def State.freeDump (s : State) (b : Block) : State :=
  match b.dump with
  | none => s
  | some a => s.modCtx b.ctx fun c => { c with saves := SMap.set 0 c.saves a.1 0 }

/-- DEBUG_RESUME (R295): every group of the stopped cluster is released at once. -/
def execDebugResume (bid : Nat) (s : State) : Host.Outcome State Fault Refusal :=
  match s.block? bid with
  | none => .refused (.notPending "DEBUG_RESUME")
  | some b =>
    let ks := s.clusterOf bid b
    if b.stopSrc.isNone || ks.any (fun k => (s.block? k).any fun x => x.phase == .stopping) then
      .refused (.notPending "DEBUG_RESUME")
    else
      .next (ks.foldl (fun t k => match t.block? k with
        | none => t
        | some x =>
          if x.stopSrc.isNone then t
          else
            let t1 := (t.freeDump x).blockLog x 0x14 0 []
            let t2 := t1.setBlock k { x with stopSrc := none, dump := none, phase := if x.phase = .stopped then .live else x.phase }
            if x.phase = .stopped then (Block.gids k x).foldl (fun u g => u.modGroup g fun h => { h with halted := false }) t2
            else t2) s)

end Sys2Proof.Machine
end

