-- ==== Sys2Proof/Machine/Tasks.lean ====
section
/-! DEFINITION. Machine/Tasks.lean: the signal box's events: placing, re-splits, pre-emption, restore, retirement and
completion (R135 to R148), and freight revocation (R172 to R174). -/

namespace Sys2Proof.Machine

def State.modTask (s : State) (tt : Nat) (f : Task → Task) : State :=
  { s with box := { s.box with table := SMap.modify s.box.table tt f } }

/-! ### Pre-emption (R143, R144, R178) -/

/-- A block is pre-empted: its area is reserved and its groups halt; guests of its slots go home. Speculation is squashed.
None when no area can be reserved. -/
def State.preempt (s : State) (bid : Nat) : Option State :=
  match s.block? bid with
  | none => none
  | some b =>
    if b.isStation || (b.phase != .live && b.phase != .stopped) then none
    else (s.reserveFor bid).map fun s1 => (s1.guests bid).foldl State.sendHome (s1.haltBlock bid .halting)

/-- Blocks that are pre-empted together: a cluster's (R208), or a co-resident task's (R141); while one of them is still being restored or
stopped, none of them can be. DEDUCED, unsafe: log entry 71. -/
def State.together (s : State) (bid : Nat) : List Nat :=
  let runs (k : Nat) : Bool := (s.block? k).any fun b => b.phase == .live || b.phase == .stopped || b.phase == .restoring || b.phase == .stopping
  match s.block? bid with
  | none => [bid]
  | some b => match b.tt.bind fun t => SMap.find? s.box.table t with
    | none => [bid]
    | some k =>
      if k.task.coRes then ((SMap.entries s.blocks).filterMap fun x => if x.2.tt == b.tt && runs x.1 then some x.1 else none)
      else if 1 < b.csize then b.cluster.filter runs
      else [bid]

/-- Pre-empts blocks, each with those that go with it; none when some area cannot be reserved. -/
def State.preemptAll (s : State) (bids : List Nat) : Option State :=
  ((bids.map s.together).flatten.eraseDups).foldl (fun t k => t.bind fun t => t.preempt k) (some s)

/-- A group takes the pre-empt trap: it runs its firmware entry (R436). DESIGN CHOICE, safe: log entry 11; DEDUCED, safe: log entry 57. -/
def Group.enterFw (g : Group) (restore : Bool) : Group :=
  { g with fw := true, resume := g.entries, entries := [Entry.at (8 * Config.firmware restore) 0 0xFFFFFFFF 0] }

/-- PREEMPT_REQUEST (R144): the request reaches the core and the block halts; once its engines are quiet every group takes
the pre-empt trap. DEDUCED, unsafe: log entry 71. -/
def execPreemptRequest (bid : Nat) (s : State) : Host.Outcome State Fault Refusal :=
  match s.block? bid with
  | none => .refused (.notPending "PREEMPT_REQUEST")
  | some b =>
    if b.phase = .halting then
      -- a block whose groups have all exited retires instead (R148)
      if (Block.gids bid b).all (fun k => (s.group? k).any fun g => !g.fw && g.live == 0) then .refused (.notPending "PREEMPT_REQUEST")
      else if s.quiet bid && (Block.gids bid b).all (fun k => (s.group? k).any fun g => !g.fw && g.migrating.isNone) then
        .next ((Block.gids bid b).foldl (fun t k => t.modGroup k fun g => g.enterFw false) s)
      else .refused (.notPending "PREEMPT_REQUEST")
    else match s.preemptAll [bid] with
      | some s1 => .next s1
      | none => .refused (.notPending "PREEMPT_REQUEST")

/-! ### Freight (R172 to R174) -/

/-- A core enters REVOKING: freight MMAs stop at chunk boundaries, small-matrix words are abandoned, to run again from their start (R422), and
every borrower is written back. -/
def State.revoke (s : State) (c : Nat) : State :=
  let s1 := s.modCore c fun k => { k with freight := .revoking }
  let fr := (s.resident c).filter fun b => b.2.cls == 2
  let s2 := fr.foldl (fun t b => (Block.gids b.1 b.2).foldl (fun u k => u.modGroup k fun g =>
    { g with mma := g.mma.map fun m => { m with halt := true }, kwords := [] }) t) s1
  (fr.filter (·.2.borrowed)).foldl (fun t b => (t.preempt b.1).getD t) s2

/-- Whether an express block or group is on a core (R172). -/
def State.hasExpress (s : State) (c : Nat) : Bool := (s.resident c).any (·.2.cls == 0)

/-- No freight word or matrix chunk of a core is in progress. -/
def State.freightIdle (s : State) (c : Nat) : Bool :=
  (SMap.entries s.groups).all fun g => g.2.cls != 2 || !(s.block? g.2.bid).any (fun b => b.core == c) ||
    (g.2.mma.isNone && g.2.tileWords.isEmpty && g.2.kwords.isEmpty)

/-- FREIGHT_CLOSED (R172). -/
def execFreightClosed (core : Nat) (s : State) : Host.Outcome State Fault Refusal :=
  if (s.core core).freight == .revoking && s.freightIdle core then
    .next (s.modCore core fun k => { k with freight := .closed, expressAt := max k.expressAt s.now })
  else .refused (.notPending "FREIGHT_CLOSED")

/-- FREIGHT_REOPEN (R172): no express group has issued or been ready for 256 cycles, or the core holds no express block. -/
def execFreightReopen (core : Nat) (s : State) : Host.Outcome State Fault Refusal :=
  let k := s.core core
  if (k.freight == .closed && decide (k.expressAt + 256 ≤ s.now)) || (k.freight != .open_ && !s.hasExpress core) then
    .next (s.setCore core { k with freight := .open_ })
  else .refused (.notPending "FREIGHT_REOPEN")

/-- An express block placed or restored on a core since an earlier state takes it out of OPEN (R172). -/
def State.afterPlace (before : State) (s : State) (c : Nat) : State :=
  let came := (s.resident c).any fun b => b.2.cls == 0 && !(before.resident c).any fun x => x.1 == b.1
  if !came then s
  else
    let t := s.modCore c fun k => { k with expressAt := s.now }
    if (t.core c).freight == .open_ then t.revoke c else t

/-! ### Placing and restoring (R138 to R144, R202, R208, R436) -/

/-- Whether the next unit of a task can be placed now: it fits on cores of a die, and a borrower finds a save area too (R140, R174). -/
def State.fits (s : State) (tt : Nat) (k : Task) : Bool :=
  k.nextUnit.isSome && (List.range 64).any fun c => (s.placeAt tt c).isSome

/-- The blocks that are restored with a saved one: those of its cluster that have not retired, itself first (R208). -/
def State.unitOf (s : State) (bid : Nat) (b : Block) : List Nat :=
  bid :: b.cluster.filter fun k => k != bid && (s.block? k).any (·.phase != .retired)

/-- The names that a saved block's slot table binds (R200). -/
def State.boundNames (s : State) (b : Block) : List Nat :=
  let h := s.saveBytes b 512 512
  (List.range 128).filter fun k => bitAt (fieldOf h (4 * k) 4) 31

/-- A saved block as it will stand in a place; none where it has fewer slots there than its slot table names (R202, R203). -/
def State.seated (s : State) (b : Block) (c cls : Nat) (f : Fit) : Option Block :=
  let b1 : Block := { b with core := c, place := f.place, places := f.places, carve := f.carve, borrowed := f.borrow,
                             cls := cls, phase := .restoring, parts := 0, placedAt := s.now }
  if (s.boundNames b).all (· < b1.names) then some b1 else none

/-- Restores one saved block on a core: its groups take slots there and run the restore handler. DEDUCED, unsafe: log entry 62. -/
def State.restore (s : State) (bid c : Nat) : Option State :=
  match s.block? bid with
  | none => none
  | some b =>
    match b.tt.bind fun t => SMap.find? s.box.table t with
    | none => none
    | some k =>
      if b.phase != .saved || s.blockStores bid then none
      else ((s.fit c b.ctx k.clsNow b.split).bind (s.seated b c k.clsNow)).map fun b1 =>
        let slots := s.freeSlots c (k.clsNow == 2) b.groups
        let s1 := (s.setBlock bid b1).modTask (b.tt.getD 0) fun q => { q with saved := q.saved.filter (· != bid) }
        let s2 := (List.range b.groups).foldl (fun t j => t.modGroup (32 * bid + j) fun g =>
          ({ g with slot := slots.getD j 0, cls := k.clsNow, halted := true } : Group).enterFw true) s1
        ((s2.lbRead b.ctx).seedSampler c b.ctx).blockLog b1 0x16 0 (toBytes 8 (s.areaVA b))

/-- Restores a block, and its cluster with it, on given cores of one die (R208). DEDUCED, unsafe: log entry 72. -/
def State.restoreOn (s : State) (bid : Nat) (cs : List Nat) : Option State :=
  match s.block? bid with
  | none => none
  | some b => ((s.unitOf bid b).zip cs).foldl (fun t x => t.bind fun t => t.restore x.1 x.2) (some s)

/-- Restores a block with its cluster, the block on the given core. -/
def State.restoreUnit (s : State) (bid c : Nat) : Option State :=
  match s.block? bid with
  | none => none
  | some b =>
    let cls := ((b.tt.bind fun t => SMap.find? s.box.table t).map (·.clsNow)).getD b.cls
    (s.clusterCores c b.ctx cls b.split (s.unitOf bid b).length).bind (s.restoreOn bid)

/-- Restores the blocks of a list that are still saved, each with its cluster on the cores with the most room. DESIGN CHOICE, unsafe: log
entry 69. -/
def State.restoreAll (s : State) : List Nat → Option State
  | [] => some s
  | k :: rest =>
    match s.block? k with
    | none => s.restoreAll rest
    | some b =>
      if b.phase != .saved then s.restoreAll rest
      else
        let seats (c : Nat) : Bool := ((s.fit c b.ctx 1 b.split).bind (s.seated b c 1)).isSome
        ((s.spreadCores seats b.ctx b.split (s.unitOf k b).length).bind (s.restoreOn k)).bind fun t => t.restoreAll rest

/-- The saved blocks of a co-resident task restored together (R141): none while another of its blocks still runs, halts or saves, or
when they do not all fit. The largest clusters come first. -/
def State.restoreTask (s : State) (tt : Nat) (k : Task) : Option State :=
  let size (bid : Nat) : Nat := ((s.block? bid).map fun b => (s.unitOf bid b).length).getD 0
  if (SMap.entries s.blocks).all fun b => b.2.tt != some tt || b.2.phase == .saved || b.2.phase == .retired then
    s.restoreAll (sortBy (fun a b => decide (size b ≤ size a)) k.saved)
  else none

/-- Saved blocks that may be restored from some core on (R144); those of a co-resident task only all together (R141). -/
def State.canRestore (s : State) (tt : Nat) (k : Task) : Bool :=
  if k.task.coRes then !k.saved.isEmpty && (s.restoreTask tt k).isSome
  else k.saved.any fun bid => (List.range 64).any fun c => (s.restoreUnit bid c).isSome

/-- The place of a task in the order of R140: class, then acceptance. -/
def Task.before (a b : Task) : Bool := decide (a.clsNow < b.clsNow) || (a.clsNow == b.clsNow && decide (a.acceptedAt < b.acceptedAt))

def Task.wants (k : Task) : Bool := k.st == .eligible || k.st == .running

/-- The task whose unit or saved block comes first among those that fit somewhere. -/
def State.turnOf (s : State) : Option Nat :=
  ((SMap.entries s.box.table).filter fun k => k.2.wants && (s.canRestore k.1 k.2 || s.fits k.1 k.2)).foldl
    (fun (best : Option (Nat × Task)) k => match best with
      | some (t, a) => if k.2.before a then some k else some (t, a)
      | none => some k) none |>.map (·.1)

/-- Since when the block of a task that has waited longest for a place waits: a block never placed since the task's passage to eligible,
one to be placed again since its loss, a saved one since its save (R142, R143). -/
def State.waitStart (s : State) (k : Task) : Option Nat :=
  let ts := (if k.nextBlock < k.task.blocks && !k.cut then [k.eligibleAt] else []) ++ (if k.again.isEmpty then [] else [k.waitSince])
    ++ k.saved.filterMap fun b => (s.block? b).map (·.placedAt)
  ts.foldl (fun (m : Option Nat) x => some (match m with | none => x | some y => min x y)) none

/-- Victims on a core for an express block, in order: background, then standard, the least recently placed first. -/
def State.victims (s : State) (c : Nat) : List Nat :=
  let on := (s.resident c).filter fun b => !b.2.isStation && (b.2.cls == 1 || b.2.cls == 3) && (b.2.phase == .live || b.2.phase == .stopped)
  (sortBy (fun (a b : Nat × Block) =>
    decide (b.2.cls < a.2.cls) || (a.2.cls == b.2.cls && decide (a.2.placedAt ≤ b.2.placedAt))) on).map (·.1)

/-- A state in which blocks are looked at as gone from their places. -/
def State.without (s : State) (bids : List Nat) : State :=
  bids.foldl (fun t k => t.modBlock k fun b => { b with phase := .saved }) s

/-- The shortest run of a core's victims whose going lets a block of a task fit there. -/
def State.displaceOn (s : State) (k : Task) (c : Nat) : Option (List Nat) :=
  let vs := s.victims c
  ((List.range (vs.length + 1)).map (vs.take ·)).find? fun xs => ((s.without xs).fit c k.ctx k.clsNow k.task.split).isSome

/-- The victims whose going lets a unit of a task fit from a core on: those of one core, or of as many cores of its die as the cluster
needs (R126, R143). -/
def State.displace (s : State) (c : Nat) (k : Task) : Option (List Nat) :=
  let runs := (List.range 8).filterMap fun j => (s.displaceOn k (c / 8 * 8 + (c + j) % 8)).map fun xs => (j, xs)
  if (runs.head?.map (·.1)) = some 0 && k.task.csize ≤ runs.length then some ((runs.take k.task.csize).map (·.2)).flatten else none

/-- Blocks that are on their way out already make room for a unit of a task from some core on. -/
def State.makingRoom (s : State) (k : Task) : Bool :=
  let out := ((SMap.entries s.blocks).filter fun b => b.2.phase == .halting).map (·.1)
  (List.range 64).any fun c => ((s.without out).clusterCores c k.ctx k.clsNow k.task.split k.task.csize).isSome

/-- The blocks pre-empted on a core for a waiting express or standard block (R143): background blocks, or, for an express block that
fits nowhere, the run that lets it fit. -/
def State.givesWay (s : State) (c : Nat) (k : Task) : List Nat :=
  let bg := (s.victims c).filter fun v => (s.block? v).any (·.cls == 3)
  if 1 < k.clsNow then []
  else if !bg.isEmpty then bg
  else if k.clsNow = 0 && !s.makingRoom k then (s.displace c k).getD []
  else []

/-- BLOCK_PLACE: the first unit in the order of R140 is placed; where a block waits that fits nowhere, others give way (R143). -/
def execBlockPlace (tt core : Nat) (s : State) : Host.Outcome State Fault Refusal :=
  match SMap.find? s.box.table tt with
  | none => .refused (.notPending "BLOCK_PLACE")
  | some k =>
    if !k.wants || (s.waitStart k).isNone || 64 ≤ core || s.canRestore tt k then .refused (.notPending "BLOCK_PLACE")
    else if s.fits tt k then
      if s.turnOf != some tt then .refused (.notPending "BLOCK_PLACE")
      else match s.placeAt tt core with
        | some s1 => .next ((List.range 8).foldl (fun t d => s.afterPlace t (core / 8 * 8 + d)) s1)
        | none => .refused (.notPending "BLOCK_PLACE")
    else
      let vs := s.givesWay core k
      match if vs.isEmpty then none else s.preemptAll vs with
      | some s1 => .next s1
      | none => .refused (.notPending "BLOCK_PLACE")

/-- BLOCK_RESTORE: a saved block returns to a core of its split, ahead of its task's unplaced blocks, with its cluster (R208); a
co-resident task's blocks only all together (R141). -/
def execBlockRestore (bid core : Nat) (s : State) : Host.Outcome State Fault Refusal :=
  match (s.block? bid).bind fun b => b.tt.bind fun t => (SMap.find? s.box.table t).map fun k => (t, k) with
  | none => .refused (.notPending "BLOCK_RESTORE")
  | some (tt, k) =>
    if s.turnOf != some tt then .refused (.notPending "BLOCK_RESTORE")
    else match if k.task.coRes then s.restoreTask tt k else s.restoreUnit bid core with
      | none => .refused (.notPending "BLOCK_RESTORE")
      | some s1 =>
        if (s1.block? bid).any fun b => b.core == core && b.phase == .restoring then
          .next ((if k.task.coRes then List.range 64 else (List.range 8).map (core / 8 * 8 + ·)).foldl s.afterPlace s1)
        else .refused (.notPending "BLOCK_RESTORE")

/-! ### LAUNCH_REPLY (R128, R359) -/

/-- LAUNCH_REPLY: the oldest LAUNCH is accepted or refused, also when its group is gone, and sd and pd of its group are written
(R128, R359). DESIGN CHOICE, unsafe: log entry 68. -/
def execLaunchReply (s : State) : Host.Outcome State Fault Refusal :=
  match s.box.launches with
  | [] => .refused (.notPending "LAUNCH_REPLY")
  | m :: rest =>
    if s.guard.power = 2 then .refused (.notPending "LAUNCH_REPLY") else
    let s0 := { s with box := { s.box with launches := rest } }
    let r := s0.judge m.ctx m.bytes
    let s1 := if bitAt r.2 31 || !(taskOfBytes m.bytes).coRes then r.1 else (List.range 64).foldl s.afterPlace r.1
    .next (s1.modGroup m.gid fun g =>
      let g1 := (g.setS m.sd (BitVec.ofNat 32 r.2)).setPreds m.pd m.lanes (if bitAt r.2 31 then 0 else m.lanes)
      { g1 with oplog := SMap.del g1.oplog m.op })

/-! ### Re-splits and time slices (R142, R143) -/

/-- 1 µs and 100 µs in cc. -/
def oneMicro : Nat := 2000

/-- RESPLIT_TIMEOUT (R142): an eligible task has waited longer than its context's threshold with no core of its split; one
core without an express block is drained for it. -/
def execResplitTimeout (tt core : Nat) (s : State) : Host.Outcome State Fault Refusal :=
  match SMap.find? s.box.table tt with
  | none => .refused (.notPending "RESPLIT_TIMEOUT")
  | some k =>
    let limit := oneMicro * (((s.ctx? k.ctx).map (·.req.resplit)).getD 0)
    let p := k.task.split
    let mine (b : Block) : Bool := b.vcount == p.v && b.spad == p.spad && b.scount == p.u && b.acc == p.acc
    if k.wants && k.clsNow != 2 && (s.waitStart k).any (fun t => decide (t + limit < s.now)) && decide (core < 64) && s.coreLive core
        && (List.range 64).all (fun c => (s.splitBlocks c).all fun b => b.2.borrowed || !mine b.2)
        && !s.hasExpress core && (s.resident core).any (fun b => !b.2.isStation) && (SMap.find? s.box.draining core).isNone
        && (SMap.entries s.box.draining).all (·.2.1 != tt) then
      .next { s with box := { s.box with draining := SMap.put s.box.draining core (tt, s.now) } }
    else .refused (.notPending "RESPLIT_TIMEOUT")

/-- DRAIN_TIMEOUT (R142): a draining core that is empty may be re-split; one that is not after its time has its remaining
blocks pre-empted. -/
def execDrainTimeout (core : Nat) (s : State) : Host.Outcome State Fault Refusal :=
  match SMap.find? s.box.draining core with
  | none => .refused (.notPending "DRAIN_TIMEOUT")
  | some (tt, t0) =>
    let rest := (s.resident core).filter fun b => !b.2.isStation
    if rest.isEmpty then .next { s with box := { s.box with draining := SMap.del s.box.draining core } }
    else
      let sl := (((SMap.find? s.box.table tt).bind fun k => s.ctx? k.ctx).map (·.req.slice)).getD 0
      let live := (rest.filter fun b => b.2.phase == .live || b.2.phase == .stopped).map (·.1)
      if t0 + oneMicro * (if sl = 0 then 100 else sl) < s.now && !live.isEmpty then
        match s.preemptAll live with
        | some s1 => .next s1
        | none => .refused (.notPending "DRAIN_TIMEOUT")
      else .refused (.notPending "DRAIN_TIMEOUT")

/-- SLICE_EXPIRY (R143): a standard block has waited its context's slice; blocks of other contexts that have been resident
on the core for longer than their own slice are pre-empted. -/
def execSliceExpiry (tt core : Nat) (s : State) : Host.Outcome State Fault Refusal :=
  match SMap.find? s.box.table tt with
  | none => .refused (.notPending "SLICE_EXPIRY")
  | some k =>
    let sliceOf (c : Nat) : Nat := oneMicro * (((s.ctx? c).map (·.req.slice)).getD 0)
    let vs := (s.resident core).filter fun b => !b.2.isStation && b.2.cls == 1 && (b.2.phase == .live || b.2.phase == .stopped) && b.2.ctx != k.ctx
      && decide (0 < sliceOf b.2.ctx) && decide (b.2.placedAt + sliceOf b.2.ctx < s.now)
    if k.wants && k.clsNow == 1 && (s.waitStart k).any (fun t => decide (t + sliceOf k.ctx ≤ s.now)) && !vs.isEmpty then
      match s.preemptAll (vs.map (·.1)) with
      | some s1 => .next s1
      | none => .refused (.notPending "SLICE_EXPIRY")
    else .refused (.notPending "SLICE_EXPIRY")

/-- BACKGROUND_PROMOTE (R143): 100 ms after its passage to eligible. -/
def execBackgroundPromote (tt : Nat) (s : State) : Host.Outcome State Fault Refusal :=
  match SMap.find? s.box.table tt with
  | none => .refused (.notPending "BACKGROUND_PROMOTE")
  | some k =>
    if k.task.cls == 3 && !k.promoted && k.wants && decide (k.eligibleAt + 100 * oneMilli ≤ s.now) then
      .next (s.modTask tt fun q => { q with promoted := true })
    else .refused (.notPending "BACKGROUND_PROMOTE")

/-! ### Retirement and completion (R145, R146) -/

/-- A record that a completion-area write met a final fault (R146). -/
def State.taskFault (s : State) (ctx cwa : Nat) : State :=
  match s.ctx? ctx with
  | none => s
  | some cx => s.logRecord cx.fn 0 fun r => eventBytes 0x0601 1 cx.fn ctx 0 0 cwa s.now r

/-- A write to the completion area; a final fault is logged and passed over. -/
def State.cwaWrite (s : State) (ctx cwa off : Nat) (bytes : List (BitVec 8)) : State :=
  match s.ctxWrite ctx (cwa + off) bytes with
  | .ok t => t
  | .error _ => s.taskFault ctx cwa

/-- The outcome of the signal box's reaching for a place of a completion area: the write can go, or has met a final answer; its page
gathers (R109); or its answer is awaited. -/
inductive CwaReach where
  | go (s : State) (final : Bool)
  | ask (s : State)
  | wait
  deriving DecidableEq, Repr

/-- The signal box has asked for a page and has no answer yet. -/
def State.boxAsked (s : State) (page : Nat) : Bool :=
  [s.servingDie (4096 * page), 17].any (fun die =>
    match SMap.find? s.xl.merge (pageKey die (4096 * page)) with
    | some m => m.waiters.contains .box || m.overflow
    | none => false) || s.xl.answers.any fun a => a.waiter == .box && a.page == page

/-- The signal box reaches for a place of a completion area (R146): as for any requester a miss gathers, a wake tries again, and only a
final answer is final (R109 to R111). A segment fault is final. -/
def State.cwaReach (s : State) (ctx va : Nat) (t : Rights) : CwaReach :=
  match s.ctx? ctx with
  | none => .go s true
  | some cx =>
    match cx.translate va t with
    | .error _ => .go s true
    | .ok (ia, _) =>
      match s.box.finals.find? fun f => f.1 == ia / 4096 && f.2 &&& t != 0 with
      | some _ => .go s true
      | none =>
        if s.boxAsked (ia / 4096) then .wait
        else match s.engineAt { w := .box, src := 17, fn := cx.fn } ctx ia t with
          | (s1, .ok _) => .go s1 false
          | (s1, .pend _) => .ask s1
          | (s1, .retry) => .ask s1
          | (_, .later) => .wait

/-- A write of the signal box that goes, or has met a final answer, which is then used up, and is logged (R146). -/
def State.cwaPut (s : State) (final : Bool) (ctx cwa off : Nat) (bytes : List (BitVec 8)) : State :=
  if !final then s.cwaWrite ctx cwa off bytes
  else
    let page := match (s.ctx? ctx).map fun cx => cx.translate (cwa + off) acWrite with
      | some (.ok (ia, _)) => ia / 4096
      | _ => 0
    ({ s with box := { s.box with finals := s.box.finals.filter (·.1 != page) } } : State).taskFault ctx cwa

/-- The four words of an exit record that BLKEXIT shows too: fmask, cause, gmask and fstat (R145, R287). -/
structure ExitSum where
  fmask : BitVec 32
  cause : Nat
  gmask : Nat
  fstat : BitVec 32
  deriving DecidableEq, Repr

/-- DEDUCED, unsafe: log entry 87. -/
def State.exitSum (s : State) (bid : Nat) (b : Block) : ExitSum :=
  -- an attributed fault that came after a group's exit shows only here (R249)
  let gs := ((Block.gids bid b).filterMap s.group?).map fun g => g.late.foldl (fun (h : Group) x => h.switchOff x.lanes x.cause) g
  let bad := gs.filter fun g => g.fmask != 0
  { fmask := gs.foldl (fun m g => m ||| g.fmask.setWidth 32) 0
    cause := ((bad.head?).map fun g => bits g.fmask.toNat 32 16).getD 0
    gmask := (bad.map fun g => 2 ^ g.idx).sum
    fstat := gs.foldl (fun m g => (lanes (g.present &&& ~~~g.helper)).foldl (fun n l => n ||| g.fst l) m) 0 }

/-- The exit record of a block (R145). -/
def exitRecord (b : Block) (x : ExitSum) (status now : Nat) : List (BitVec 8) :=
  toBytes 4 b.x ++ toBytes 2 b.y ++ toBytes 2 b.z ++ toBytes 4 x.fmask.toNat ++ toBytes 2 x.cause ++ toBytes 2 status
    ++ toBytes 4 x.fstat.toNat ++ toBytes 4 x.gmask ++ toBytes 8 now

/-- Takes a block and its groups away; a LAUNCH on its way to the signal box stays (R128): requests, stores, waiters and copy waits of its groups go with them, and accepted
requests are performed for nobody (R87, R89). -/
def State.dropBlock (s : State) (bid : Nat) : State :=
  match s.block? bid with
  | none => s
  | some b =>
    let mine (w : Requester) : Bool := match w with
      | .op g _ => g / 32 == bid
      | .copy k _ _ => k == bid
      | _ => false
    { s with
      groups := s.groups.filter fun g => g.1 / 32 != bid
      blocks := SMap.del s.blocks bid
      cores := s.cores.map fun c => (c.1, { c.2 with stores := c.2.stores.filter fun x => x.gid / 32 != bid,
                                                     lcrLog := c.2.lcrLog.filter fun x => x.gid / 32 != bid })
      md := { s.md with reqs := s.md.reqs.filter fun r => !mine r.who }
      issueQ := s.issueQ.filter fun q => q.1 / 32 != bid
      host := { s.host with ctxs := SMap.modify s.host.ctxs b.ctx fun c =>
        { c with saves := c.saves.filter fun x => !(b.area.any (·.1 == x.1)) && !(b.dump.any (·.1 == x.1)) } } }

/-- Writes a block's exit record, or only counts it, and notes it with its task (R145, R146); a record whose page must be awaited is owed. -/
def State.exitOf (s : State) (bid : Nat) (b : Block) (status : Nat) : State :=
  let x := s.exitSum bid b
  let s0 := s.blockLog b 0x11 status (toBytes 4 x.fmask.toNat ++ toBytes 4 x.cause ++ toBytes 4 x.gmask ++ toBytes 4 x.fstat.toNat)
  match b.tt.bind fun t => (SMap.find? s.box.table t).map fun k => (t, k) with
  | none => s0
  | some (t, k) =>
    -- a block whose record stands is run again for its cluster only (R89, R148)
    if k.redo.contains b.index then s0.modTask t fun q => { q with redo := q.redo.erase b.index }
    else
    let off := 64 + 32 * k.recs
    let bytes := exitRecord b x status s.now
    let owe (u : State) : State := u.modTask t fun q => { q with owed := q.owed ++ [(off, bytes)] }
    let s1 := if k.task.cap ≤ k.recs then s0 else match s0.cwaReach b.ctx (k.task.cwa + off) acWrite with
      | .go u final => u.cwaPut final b.ctx k.task.cwa off bytes
      | .ask u => owe u
      | .wait => owe s0
    s1.modTask t fun q => { q with retired := q.retired + 1, nbad := q.nbad + (if x.gmask != 0 || status != 0 then 1 else 0),
                                   fsum := q.fsum ||| x.fstat, recs := min (q.recs + 1) q.task.cap }

/-- A task whose blocks have all retired is completing (R135). -/
def State.settleTask (s : State) (tt : Nat) : State :=
  s.modTask tt fun k =>
    if k.wants && k.nextUnit.isNone && k.again.isEmpty && k.saved.isEmpty && (SMap.entries s.blocks).all (fun b => b.2.tt != some tt) then
      { k with st := .completing }
    else k

/-- A block may retire (R146): every group has exited, its stores are acknowledged, its commands and MEMOPs are done, and
its LAUNCHes are answered (R128). -/
def State.mayRetire (s : State) (bid : Nat) (b : Block) : Bool :=
  (b.phase == .live || b.phase == .halting || b.phase == .stopping)
    && (Block.gids bid b).all (fun k => (s.group? k).any fun g => !g.fw && g.live == 0 && g.migrating.isNone && g.mma.isNone
        && g.tileWords.isEmpty && g.kwords.isEmpty
        && (SMap.entries g.oplog).all fun o => o.2.kind != .store && o.2.kind != .atomic && o.2.kind != .launch)
    && !s.blockStores bid && b.cmds.isEmpty && s.md.memops.all fun m => m.bid != bid

/-- A block that retires before the rest of its cluster: its scratchpad stays in place, with the counts of its slots written
back (R208, R229). DEDUCED, unsafe: log entry 72. -/
def Block.remains (b : Block) : Block :=
  let w : Block := (SMap.entries b.slots).foldl (fun x sl => x.writeBack sl.2 true) b
  { w with phase := .retired, slots := [], area := none, dump := none, stopSrc := none, stopPending := none }

/-- A block leaves: with the last of its cluster, those that retired before it leave too (R208). DEDUCED, unsafe: log entry 72. -/
def State.leave (s : State) (bid : Nat) (b : Block) : State :=
  let rest := b.cluster.filter fun k => k != bid && (s.block? k).isSome
  if rest.any fun k => (s.block? k).any (·.phase != .retired) then (s.dropBlock bid).setBlock bid b.remains
  else (bid :: rest).foldl State.dropBlock s

/-- BLOCK_RETIRE (R146, R208, R229, R290). -/
def execBlockRetire (bid : Nat) (s : State) : Host.Outcome State Fault Refusal :=
  match s.block? bid with
  | none => .refused (.notPending "BLOCK_RETIRE")
  | some b =>
    if !s.mayRetire bid b then .refused (.notPending "BLOCK_RETIRE")
    else
      let s1 := (s.exitOf bid b 0).leave bid b
      let s2 := if (s1.resident b.core).any (fun x => x.2.ctx == b.ctx && x.2.phase != .retired) then s1 else s1.flushCore b.core b.ctx
      .next (match b.tt with
        | some t => s2.settleTask t
        | none => s2)

/-- Waiting tasks of a context that have become eligible (R136, R137). -/
def State.wakeTasks (s : State) (ctx : Nat) : State :=
  (SMap.entries s.box.table).foldl (fun t k =>
    if k.2.ctx == ctx && k.2.st == .waiting && t.clear ctx k.2.order k.2.task then
      t.modTask k.1 fun q => { q with st := .eligible, eligibleAt := s.now, waitSince := s.now }
    else t) s

/-- Frees a timetable entry; its generation advances (R129). -/
def State.freeTask (s : State) (tt : Nat) : State :=
  { s with box := { s.box with table := SMap.del s.box.table tt
                               gens := SMap.set 0 s.box.gens tt ((SMap.get 0 s.box.gens tt + 1) % 2 ^ 19) } }

/-- An earlier write to the line of `done` is still held: the add follows it (R45). -/
def State.cwaHeld (s : State) (ctx cwa : Nat) : Bool :=
  match (s.ctx? ctx).map fun (c : Context) => c.translate cwa acAtomic with
  | some (.ok (ia, _)) => s.lineHeld (ia / 128)
  | _ => false

/-- The last writes of a task: the summary is stored, then `done` takes its 1, then the entry is free and R136 is looked at again. -/
def State.completeTask (s : State) (tt : Nat) (k : Task) (badSum badDone : Bool) : State :=
  let s1 := s.cwaPut badSum k.ctx k.task.cwa 8 (toBytes 4 k.retired ++ toBytes 4 k.nbad ++ toBytes 4 k.fsum.toNat)
  let s2 := match (if badDone then .error 0 else s1.ctxRead k.ctx k.task.cwa 8 acAtomic) with
    | .ok x => s1.cwaPut false k.ctx k.task.cwa 0 (toBytes 8 ((ofBytes x + 1) % 2 ^ 64))
    | .error _ => s1.cwaPut true k.ctx k.task.cwa 0 []
  (s2.freeTask tt).wakeTasks k.ctx

/-- TASK_COMPLETE (R145, R146): the next record that is owed is written; after the last, a completing task's summary and its `done`. -/
def execTaskComplete (tt : Nat) (s : State) : Host.Outcome State Fault Refusal :=
  match SMap.find? s.box.table tt with
  | none => .refused (.notPending "TASK_COMPLETE")
  | some k =>
    match k.owed with
    | (off, bytes) :: rest =>
      (match s.cwaReach k.ctx (k.task.cwa + off) acWrite with
       | .go u final => .next ((u.cwaPut final k.ctx k.task.cwa off bytes).modTask tt fun q => { q with owed := rest })
       | .ask u => .next u
       | .wait => .refused (.notPending "TASK_COMPLETE"))
    | [] =>
      if k.st != .completing then .refused (.notPending "TASK_COMPLETE")
      else match s.cwaReach k.ctx (k.task.cwa + 8) acWrite with
        | .wait => .refused (.notPending "TASK_COMPLETE")
        | .ask u => .next u
        | .go u badSum =>
          match u.cwaReach k.ctx k.task.cwa acAtomic with
          | .wait => .refused (.notPending "TASK_COMPLETE")
          | .ask w => .next w
          | .go w badDone =>
            if w.cwaHeld k.ctx k.task.cwa then .refused (.notPending "TASK_COMPLETE") else .next (w.completeTask tt k badSum badDone)

end Sys2Proof.Machine
end

