-- ==== Sys2Proof/Machine/Tenancy.lean ====
section
/-! DEFINITION. Machine/Tenancy.lean: resets, fences, alarms, host links, power and the debug unlock (R39, R40, R65, R70, R71,
R86 to R95, R298). -/

namespace Sys2Proof.Machine

/-! ### Discarding a context (R87 steps 2 and 3, R88) -/

/-- MEMOPs lose the units that no home has accepted; those that homes have accepted are performed (R87, R89). -/
def State.cutMemops (s : State) (which : Memop → Bool) : State :=
  s.modMd fun m => { m with memops := (m.memops.map fun x => if which x then { x with units := [], asked := [] } else x).filter fun x =>
    !(which x && x.open_.isEmpty) }

/-- Everything a context runs is discarded: groups without a save, its timetable entries, its commands and watches; requests a
home has not accepted are refused. What a memory die sends for a unit of a MEMOP that it has accepted goes on. -/
def State.discardCtx (s : State) (ctx : Nat) : State :=
  let bs := (SMap.entries s.blocks).filter fun b => b.2.ctx == ctx
  let ts := (SMap.entries s.box.table).filter fun k => k.2.ctx == ctx
  -- the last block of the context leaves its cores (R290)
  let s1 := (bs.foldl (fun t b => t.dropBlock b.1) s).flushCtx ctx
  let s2 := ts.foldl (fun t k => t.freeTask k.1) s1
  let s3 : State := { s2 with
    md := { s2.md with reqs := s2.md.reqs.filter fun r => r.ctx != ctx || decide (18 ≤ r.src) || (match r.who with | .host _ => true | _ => false)
                       watches := s2.md.watches.filter (·.ctx != ctx), fired := s2.md.fired.filter (·.ctx != ctx)
                       cellReqs := s2.md.cellReqs.filter fun c => c.ctx != ctx || decide (18 ≤ c.src) }
    xl := { s2.xl with faultQ := s2.xl.faultQ.filter (·.ctx != ctx) }
    box := { s2.box with draining := s2.box.draining.filter fun d => !(d.2.any fun x => ts.any (·.1 == x.1))
                         launches := s2.box.launches.filter (·.ctx != ctx), stations := s2.box.stations.filter (· != ctx) }
    host := { s2.host with ctxs := SMap.modify s2.host.ctxs ctx fun c => { c with saves := [] } } }
  (s3.cutMemops (·.ctx == ctx)).settlePauses

/-- The contexts of a function. -/
def State.ctxsOf (s : State) (f : Nat) : List Nat := ((SMap.entries s.host.ctxs).filter (·.2.fn == f)).map (·.1)

/-! ### Function-level reset (R87) -/

/-- A function's host accesses end with step 1 of R87: its queued posted writes are discarded, and its reads complete with all ones, those
of CXL.mem with zero and poison (log entry 131). -/
def State.flrHost (s : State) (f : Nat) : State :=
  let mine := s.host.ops.filter (·.req.fn == f)
  let s1 := mine.foldl (fun t o => t.dropHost o.id) (s.modFunc f fun x => { x with posted := [] })
  let answer (o : HostOp) : HostDone :=
    { fn := f, ok := true, poisoned := o.req.cxl, data := List.replicate o.req.len (if o.req.cxl then 0 else 0xFF) }
  { s1 with host := { s1.host with
      ops := s1.host.ops.filter (·.req.fn != f)
      done := s1.host.done ++ (mine.filter (!·.req.write)).map answer } }

/-- Steps 1 to 4: no message and no access of the function any more, its groups, tasks and watches gone, its key destroyed. An
unlock of the function ends (R298), and so does its grant (R132). -/
def State.flrBegin (s : State) (f : Nat) : State :=
  let s1 := (s.ctxsOf f).foldl State.discardCtx (s.flrHost f)
  let s2 := s1.modFunc f fun x => { x with flr := 4, pending := [], holdoff := [], key := 0, frs := false, expgrant := false }
  { s2 with guard := { s2.guard with unlocked := s2.guard.unlocked &&& ~~~(BitVec.ofNat 64 (2 ^ f)) } }

/-- FUNCTION_LEVEL_RESET (R87): the host sets Initiate FLR, over link 0 (R70); also of a function that an alarm has fenced. -/
def execFunctionLevelReset (fn : Nat) (s : State) : Host.Outcome State Fault Refusal :=
  if 64 ≤ fn || (s.func fn).flr == 4 || !s.host.link0 then .refused (.notPending "FUNCTION_LEVEL_RESET") else .next (s.flrBegin fn)

/-- The IA that a leaf's page, starting at an IA, has at a place of device memory: none for a byte of a parity unit (R41, R42). -/
def State.iaAt (s : State) (base frame place : Nat) : Option Nat :=
  let page := base + (place / 4352 - frame / 4096) * 4096
  ((List.range 16).find? fun u => s.servingDie (page + 256 * u) == place % 4352 / 256).map fun u => page + 256 * u + place % 256

/-- The nonzero entries of a table of the page table in device memory, as (index, entry). -/
def tableEntries (s : State) (table : Nat) : List (Nat × BitVec 64) :=
  let idx := ((s.mem.filter fun c => c.1 / 4352 == table / 4096).filterMap fun c =>
    (s.iaAt table table c.1).map fun ia => (ia - table) / 8).eraseDups
  idx.map fun i => (i, s.entryAt (table + 8 * i))

/-- The leaves of the page table below a table of a level, as (IA, level, entry). -/
def leavesFrom (s : State) : Nat → Nat → Nat → List (Nat × BitVec 64)
  | 0, ia, table => (tableEntries s table).filterMap fun e =>
      if e.2.getLsbD 0 && !malformed 0 e.2 then some (ia + e.1 * 2 ^ 12, e.2) else none
  | n + 1, ia, table => ((tableEntries s table).map fun e =>
      let a := ia + e.1 * 2 ^ levelShift (n + 1)
      if !e.2.getLsbD 0 || malformed (n + 1) e.2 then []
      else if e.2.getLsbD 1 then leavesFrom s n a (leafFrame e.2)
      else [(a, e.2)]).flatten

/-- A part of a leaf's page: the leaf, the page's first IA, and the IAs it runs from and to. -/
structure PagePart where
  leaf : BitVec 64
  base : Nat
  lo : Nat
  hi : Nat
  deriving DecidableEq, Repr

/-- The IA in a part of a page that a place holds a byte of. -/
def State.partIA (s : State) (p : PagePart) (place : Nat) : Option Nat :=
  let frame := leafFrame p.leaf
  let size := 2 ^ sizeLog (leafSize p.leaf)
  let ia :=
    if leafF p.leaf then (if frame ≤ place ∧ place < frame + size then some (p.base + (place - frame)) else none)
    else if frame / 4096 ≤ place / 4352 ∧ place / 4352 < (frame + size) / 4096 then s.iaAt p.base frame place
    else none
  ia.filter fun a => decide (p.lo ≤ a) && decide (a < p.hi)
def State.inPart (s : State) (p : PagePart) (place : Nat) : Bool := (s.partIA p place).isSome

/-- The sectors of a part of a page in device memory hold no key's bytes any more. -/
def State.unkey (s : State) (p : PagePart) : State :=
  if leafF p.leaf then s else s.modMd fun m => { m with keyed := m.keyed.filter fun k => !s.inPart p (32 * k.1) }

/-- The sectors of a part of a page are poisoned and lost no more (R62, R65): whole sectors are written. -/
def State.unpoison (s : State) (p : PagePart) : State :=
  let far := leafF p.leaf
  let place (q : Nat) : Nat := if far then 32 * q - 2 ^ 52 else 32 * q
  let mine (q : Nat) : Bool := (decide (2 ^ 47 ≤ q) == far) && s.inPart p (place q)
  let sectors := if far || s.md.failed = 0 then [] else
    (List.range ((p.hi - p.lo) / 32)).map fun i => s.place p.leaf (p.lo + 32 * i) / 32
  s.modMd fun m => { m with
    poison := m.poison.filter fun q => !mine q.1
    cleared := sectors.foldl (fun c q => SMap.set false c q true) m.cleared }

/-- Writes zero to the part of a leaf's page that lies in an IA range (R87 step 4): in the model, the bytes that are not zero; whatever
key reads them, they are zero from then on. Its compressed blocks are compressed anew. -/
def State.zeroLeaf (s : State) (lo hi : Nat) (x : Nat × BitVec 64) : State :=
  let size := 2 ^ sizeLog (leafSize x.2)
  let start := x.1 / size * size
  let p : PagePart := { leaf := x.2, base := start, lo := max lo start, hi := min hi (start + size) }
  let cells := (if leafF x.2 then s.far else s.mem).filterMap fun c => (s.partIA p c.1).map fun ia => (c.1, ia)
  let plain : BitVec 64 := x.2 &&& ~~~(BitVec.ofNat 64 (2 ^ 6))
  let s1 := cells.foldl (fun t c => t.firmwareWrite 0 c.2 c.1 plain [0]) ((s.unkey p).unpoison p)
  let blocks := if leafZ x.2 && !leafF x.2 then (cells.map fun c => (dieOfPlace c.1, blockOf c.1)).eraseDups else []
  (blocks.foldl (fun t b => ((t.fitBlock true 0 b.1 b.2).map (·.1)).getD t) s1).unkey p

/-- Fills every page of a context's segments with zero. -/
def State.scrubCtx (s : State) (ctx : Nat) : State :=
  match s.ctx? ctx with
  | none => s
  | some cx =>
    let ls := leavesFrom s 4 0 s.xl.xroot
    ((List.range 8).map (SMap.get Segment.reset cx.segs)).foldl (fun t g =>
      if g.valid then
        let lo := g.offset * 4096
        let hi := lo + (g.limit + 1) * 4096
        (ls.filter fun x => decide (x.1 < hi) && decide (lo < x.1 + 2 ^ sizeLog (leafSize x.2))).foldl (fun u x => u.zeroLeaf lo hi x) t
      else t) s

/-- A context is gone: its cells are free again, and the cores keep no counts and no sampler of it. -/
def State.dropCtx (s : State) (ctx : Nat) : State :=
  { s with host := { s.host with ctxs := SMap.del s.host.ctxs ctx }
           cores := s.cores.map fun c => (c.1, { c.2 with lcr := c.2.lcr.filter fun e => e.1 / 102 != ctx
                                                          sampler := c.2.sampler.filter fun e => e.1 != ctx }) }

/-- Every request of a function that a home had accepted is performed (R87 step 3). -/
def State.quietFn (s : State) (f : Nat) : Bool :=
  !((s.md.held ++ s.md.uio).any fun h => h.req.fn == f) && !s.md.mirrorQ.any (fun u => u.req.fn == f)
    && s.md.memops.all fun m => ((s.ctx? m.ctx).map (·.fn)).getD 0 != f

/-- A function that an alarm had fenced and the PF has re-enabled works on, under a new key (R86, R94). DESIGN CHOICE, unsafe: log entry 132. -/
def State.reviveFn (s : State) (f : Nat) : State :=
  let s1 := s.modFunc f fun x => { x with flr := 0, key := s.host.nextKey }
  { s1 with host := { s1.host with nextKey := s1.host.nextKey + 1 } }

/-- FLRDONE (R87 steps 4 and 5): when the requests that homes had accepted are done, the fill; then the function's segments, contexts and
weights are cleared and FRS reports it ready; its key is a new one (R86). The rule does not speak of the placement of its event log:
it is cleared as well. A function that a class B alarm has fenced is filled and no more (R94): it stays disabled until the PF re-enables it.
DEDUCED, unsafe: log entry 75; DESIGN CHOICE, unsafe: log entry 132. -/
def execFlrdone (fn : Nat) (s : State) : Host.Outcome State Fault Refusal :=
  let f := s.func fn
  if (f.flr != 4 && f.flr != 6) || !s.quietFn fn then .refused (.notPending "FLRDONE")
  else
    let cs := s.ctxsOf fn
    let s1 := cs.foldl State.scrubCtx s
    if f.flr = 6 then .next (if f.disabled then s1.modFunc fn fun x => { x with flr := 5 } else s1.reviveFn fn)
    else
      let s2 := (cs.foldl State.dropCtx s1).setFunc fn { Func.reset with key := s1.host.nextKey, frs := true, disabled := f.disabled
                                                                         window := f.window }
      .next ({ s2 with host := { s2.host with nextKey := s2.host.nextKey + 1 } }.funcRecord 0 0 0x0402 0 fn 0xFFFF 0 0)

/-! ### Fencing a compute die (R89) -/

/-- The blocks of a task on a lost die: placed again, or gone with DIELOST and the task cut short. A block that had retired and
waited for its cluster runs again where its cluster is placed again, and its record stands: it writes no second one. DESIGN CHOICE, unsafe:
log entry 73. -/
def State.loseBlock (s : State) (bid : Nat) (b : Block) : State :=
  match b.tt.bind fun t => (SMap.find? s.box.table t).map fun k => (t, k) with
  | none => s.dropBlock bid
  | some (t, k) =>
    let again := b.rst && !(k.task.coRes && decide (s.deviceHolds k.task.split k.task.csize < k.task.blocks))
    let s := s.modTask t fun q => { q with saved := q.saved.filter (· != bid) }
    if again then (s.dropBlock bid).modTask t fun q =>
      { q with again := q.again ++ [b.index], waitSince := if q.again.isEmpty then s.now else q.waitSince
               redo := if b.phase == .retired then q.redo ++ [b.index] else q.redo }
    else if b.phase == .retired then s.dropBlock bid
    else ((s.exitOf bid b 1).dropBlock bid).modTask t fun q => { q with cut := true }

/-- Steps 1 to 4 of R89. The groups of blocks that had retired and wait for their cluster count as lost in the record. DESIGN CHOICE,
unsafe: log entry 133. A station block that finds no place waits for one (R133). -/
def State.fenceDie (s : State) (d : Nat) : State :=
  let s0 := { s with
    guard := { s.guard with fenced := s.guard.fenced ||| BitVec.ofNat 8 (2 ^ d) }
    md := { s.md with reqs := s.md.reqs.filter (·.src != d), cellReqs := s.md.cellReqs.filter (·.src != d)
                      watches := s.md.watches.filter (·.die != d) } }.cutMemops (·.src == d)
  let on := (SMap.entries s0.blocks).filter fun b => b.2.core / 8 == d && b.2.phase != .saved
  -- saved members of a lost block's cluster are lost with it: a cluster is placed anew as a whole (R89, R148)
  let mates := (on.map (·.2.cluster)).flatten
  let bs := on ++ (SMap.entries s0.blocks).filter fun b => b.2.phase == .saved && mates.contains b.1
  let n := (on.map (·.2.groups)).sum
  let s1 := bs.foldl (fun t b =>
    let t1 := if b.2.stopSrc.isSome then t.portSays 6 b.1 else t
    t1.loseBlock b.1 b.2) s0
  -- the last blocks of their contexts leave the die's cores (R290)
  let s1 := ((on.map (·.2.ctx)).eraseDups).foldl (fun t x => (List.range 8).foldl (fun t k => t.flushCore (8 * d + k) x) t) s1
  let s2 := (bs.filterMap (·.2.tt)).eraseDups.foldl State.settleTask s1
  let s3 := { s2 with
    box := { s2.box with vmap := (List.range 8).foldl (fun m k => SMap.set 64 m (8 * d + k) 64) s2.box.vmap
                         draining := s2.box.draining.filter fun c => c.1 / 8 != d }
    cores := s2.cores.filter fun c => c.1 / 8 != d }
  let s4 := (bs.filter (·.2.isStation)).foldl (fun t b => t.oweStation b.2.ctx) s3
  s4.settlePauses.logAndRaise 0 0 (eventBytes 0x0401 2 0xFF 0xFFFF n 0 0 s.now)

/-- COMPUTE_DIE_FATAL (R86): a fatal die report fences the die. -/
def execComputeDieFatal (die : Nat) (s : State) : Host.Outcome State Fault Refusal :=
  if 8 ≤ die || s.guard.fenced.getLsbD die then .refused (.notPending "COMPUTE_DIE_FATAL") else .next (s.fenceDie die)

/-- Ordered pairs of a port that are down. -/
def State.downPairs (s : State) (p : Nat) : Nat :=
  ((List.range 26).filter fun q => (usedPair p q && (s.link p q).downAt.isSome) || (usedPair q p && (s.link q p).downAt.isSome)).length

/-- PAIRDOWN_TIMEOUT (R26): a pair down for 10 µs is handed to the die-failure procedure. The lost die is the end with more pairs
down, the destination when they have as many; never the control die. DEDUCED, unsafe: log entry 80. -/
def execPairdownTimeout (src dst : Nat) (s : State) : Host.Outcome State Fault Refusal :=
  match (s.link src dst).downAt with
  | none => .refused (.notPending "PAIRDOWN_TIMEOUT")
  | some t =>
    if s.now < t + tenMicro || !usedPair src dst then .refused (.notPending "PAIRDOWN_TIMEOUT")
    else
      let p := if src = controlPort then dst else if dst = controlPort then src
        else if s.downPairs dst < s.downPairs src then src else dst
      let s1 := s.modLink src dst fun l => { l with downAt := some s.now }
      if 9 ≤ p then (if s.dieGone (p - 9) then .next s1 else .next (s1.memoryDieFails (p - 9)))
      else if s.guard.fenced.getLsbD (p - 1) then .next s1 else .next (s1.fenceDie (p - 1))

/-! ### Soft errors (R90) -/

/-- STATECORRUPT in a group: every lane of the group is switched off, with a handler or without (R441). -/
def State.corrupt (s : State) (gid : Nat) : State := s.modGroup gid fun g => if g.live = 0 then g else g.switchOff g.live 0x2A

/-- The record of an uncorrectable error, in the log of the function it concerns. -/
def State.sramRecord (s : State) (ctx : Nat) : State :=
  match s.ctx? ctx with
  | some c => s.funcRecord c.fn 0 0x0407 1 c.fn ctx 0 0
  | none => s

def State.groupCtx (s : State) (gid : Nat) : Nat := (((s.group? gid).bind fun g => s.block? g.bid).map (·.ctx)).getD 0

/-! ### Device reset and bring-up (R86, R91, R95) -/

/-- The machine after a reset and a bring-up that succeed: memory zero under new keys, every channel trained, the function link up.
A memory die that had failed is retired (R65). -/
def State.broughtUp (s : State) (version : Nat) : State :=
  let gone := (List.range 17).filter s.md.failed.getLsbD
  let ret := s.md.retired.or gone.head?
  { State.reset with
    pace := s.pace, picks := s.picks, free := s.free, inputs := s.inputs
    fab := { Fabric.reset with up := true }
    md := { MemDies.reset with retired := ret
                               failed := (gone.filter fun d => ret != some d).foldl (fun m d => m ||| BitVec.ofNat 17 (2 ^ d)) 0
                               lost := if (gone.filter fun d => ret != some d).isEmpty then 0 else s.md.lost }
    host := { HostSide.reset with link0 := true, link1 := true, nextKey := s.host.nextKey + 64
                                  funcs := (List.range 64).foldl (fun m f => SMap.set Func.reset m f
                                    { Func.reset with key := s.host.nextKey + f }) [] }
    guard := { Guardhouse.reset with up := true, identity := true, rollback := s.guard.rollback, version := version, challenge := s.guard.challenge } }

/-- A class C alarm (R94): the record while the control die still runs, then every key and the working copy of the identity key erased
and all dies halted. -/
def State.classC (s : State) (code : Nat) : State :=
  let s1 := s.logAndRaise 0 3 (eventBytes 0x0404 2 0xFF 0xFFFF 0 code 0 s.now)
  { s1 with host := { s1.host with funcs := s1.host.funcs.map fun f => (f.1, { f.2 with key := 0 }) }
            guard := { s1.guard with dead := true, identity := false } }

/-- A boot in which no image has verified leaves the device down; the third failure in it is a class C alarm (R91, R93). -/
def State.resetFails (s : State) (n : Nat) : State :=
  let s1 := { State.reset with pace := s.pace, picks := s.picks, free := s.free, inputs := s.inputs
                               md := { MemDies.reset with retired := s.md.retired, failed := s.md.failed, lost := s.md.lost }
                               host := { HostSide.reset with nextKey := s.host.nextKey }
                               guard := { Guardhouse.reset with badVerify := n, rollback := s.guard.rollback, challenge := s.guard.challenge } }
  if 3 ≤ n then s1.classC 6 else s1

/-- The boot ROM's checks of an image (R91). -/
def State.verifies (s : State) (x : BootImage) : Bool := x.signed && x.keyFused && decide (s.guard.rollback ≤ x.version)

/-- DEVICE_RESET (R86, R91, R95): power-on, PERST# or firmware. The boot ROM tries the images one after another, the recovery image after
the first, until one verifies or three have failed. Only a cold reset leaves a class C alarm (R94). DESIGN CHOICE, unsafe: log entry 78. -/
def execDeviceReset (b : Boot) (s : State) : Host.Outcome State Fault Refusal :=
  if s.guard.dead && !b.cold then .refused (.notPending "DEVICE_RESET")
  else
    let bad := (b.tries.takeWhile fun x => !s.verifies x).length
    match b.tries.find? s.verifies with
    | some x => .next (if 3 ≤ bad then s.resetFails 3 else s.broughtUp x.version)
    | none => .next (s.resetFails (min 3 bad))

/-- SRAMUE (R90). DEDUCED, unsafe: log entry 79. -/
def execSramue (p : SramPlace) (s : State) : Host.Outcome State Fault Refusal :=
  match p with
  | .group gid | .freight gid =>
    if (s.group? gid).isNone then .refused (.notPending "SRAMUE") else .next ((s.corrupt gid).sramRecord (s.groupCtx gid))
  | .block bid =>
    (match s.block? bid with
     | none => .refused (.notPending "SRAMUE")
     | some b => .next (((Block.gids bid b).foldl State.corrupt s).sramRecord b.ctx))
  | .l1 line =>
    .next { s with l1 := SMap.del s.l1 line, guard := { s.guard with corrected := s.guard.corrected + 1 } }
  | .corrected => .next { s with guard := { s.guard with corrected := s.guard.corrected + 1 } }
  | .control => .next (s.broughtUp s.guard.version)

/-! ### Alarms (R93, R94) -/

/-- Class of each trigger code: 0 A, 1 B, 2 C. -/
def alarmClass (code : Nat) : Option Nat :=
  match code with
  | 1 | 2 | 3 | 5 | 6 | 8 => some 2
  | 4 => some 0
  | 7 => some 1
  | _ => none

def State.takeAlarm (s : State) (code fn : Nat) : State :=
  match alarmClass code with
  | some 0 => s.logAndRaise 0 3 (eventBytes 0x0404 0 0xFF 0xFFFF 0 code 0 s.now)
  | some 1 =>
    let s1 := s.logAndRaise 0 3 (eventBytes 0x0404 1 fn 0xFFFF 0 code 0 s.now)
    if 64 ≤ fn then s1 else (s1.flrBegin fn).modFunc fn fun x => { x with disabled := true, flr := 6 }
  | some _ => s.classC code
  | none => s

/-- ALARM (R94). Code 7 names the function it is taken against. -/
def execAlarm (code fn : Nat) (s : State) : Host.Outcome State Fault Refusal :=
  if (alarmClass code).isNone || (code == 7 && decide (64 ≤ fn)) then .refused (.notPending "ALARM") else .next (s.takeAlarm code fn)

/-- DEBUG_UNLOCK (R93, R297, R298): one attempt against the last challenge; a bad one, or one of a scope or a function that there is not, is
an alarm. -/
def execDebugUnlock (scope fn : Nat) (valid : Bool) (s : State) : Host.Outcome State Fault Refusal :=
    let ok := valid && s.guard.fresh && decide (scope < 2) && decide (fn < 64)
    let s1 := { s with guard := { s.guard with fresh := false } }
    if ok then
      .next ({ s1 with guard := { s1.guard with
        unlocked := if scope = 0 then s1.guard.unlocked ||| BitVec.ofNat 64 (2 ^ fn) else s1.guard.unlocked
        unlockAll := s1.guard.unlockAll || scope == 1 } }.portSays 2 fn)
    else
      let n := s1.guard.badUnlock + 1
      let s2 := ({ s1 with guard := { s1.guard with badUnlock := n } }).portSays 3 fn
      .next (if 3 ≤ n then s2.takeAlarm 8 fn else s2.takeAlarm 7 fn)

/-- What the debug port reads (R293, R298): a comparator; bytes of a stopped block's dump; CHSTAT, LNKERR or PAIRRT of a pair (0, 1, 2) or
LASSTAT of a module (3); bytes of firmware memory by IA. -/
inductive PortRead where
  | comparator (ctx i : Nat)
  | dump (bid off n : Nat)
  | fabric (reg index : Nat)
  | firmware (ia n : Nat)
  deriving DecidableEq, Repr

/-- What the port answers to a read, which changes nothing: comparators and dumps of contexts with debug on, the fabric registers and
firmware memory under scope 1; none where it may not be read. DESIGN CHOICE, unsafe: log entry 154. -/
def State.portRead (s : State) : PortRead → Option (List (BitVec 8))
  | .comparator ctx i =>
    if s.debugOn ctx && decide (i < 8) then (s.ctx? ctx).map fun c => toBytes 8 (SMap.get 0 c.cmps i).toNat else none
  | .dump bid off n =>
    match s.block? bid with
    | some b => if s.debugOn b.ctx && b.phase == .stopped && b.dump.isSome then some (s.saveBytes { b with area := b.dump } off n) else none
    | none => none
  | .fabric reg index =>
    let l := s.link (index / 32) (index % 32)
    if !s.guard.unlockAll then none
    else if reg = 3 then some (toBytes 8 (s.lasstat index))
    else if reg < 3 && usedPair (index / 32) (index % 32) then
      some (toBytes 8 (if reg = 0 then l.chstat else if reg = 1 then l.lnkerr else l.pairrt))
    else none
  | .firmware ia n =>
    if !s.guard.unlockAll then none
    else match s.physical ia acRead with
      | .ok (pa, leaf) => some ((List.range n).map fun i => s.byteAt leaf (pa + i))
      | .error _ => none

/-! ### Host links (R70, R71) -/

def HostSide.hbctl (h : HostSide) : Nat :=
  let b (x : Bool) (k : Nat) : Nat := if x then 2 ^ k else 0
  b h.farperm 3 + b h.pool0 2 + b h.l1up 1 + b h.faralt 0

/-- Far requests on their way over a host link that may be used no more meet the replayable far-link fault (R70, R71): they gather at the
host bridge under reason 4 and go out again when far memory is reachable. -/
def State.recallFar (s : State) : State :=
  let back (t : State) (h : HeldWrite) : State :=
    (t.putReq { h.req with waiting := none, retryAt := none }).pend 17 (t.homeOf h.req) h.req
      ((h.req.lanes.head?.map (·.ia)).getD 0) 4
  s.md.uio.foldl back (s.modMd fun m => { m with uio := [] })

/-- FARALT follows its condition (R71): far requests outstanding on link 1 when it is set, and on link 0 when it is cleared, are not
performed there any more. -/
def State.refar (s : State) : State :=
  let want := s.host.farperm && s.host.pool0 && !s.host.l1up
  let s1 := { s with host := { s.host with faralt := want } }
  if want != s.host.faralt then s1.recallFar else s1

def State.hostlink (s : State) : State := s.funcRecord 0 0 0x0405 1 0xFF 0xFFFF (s.host.hbctl % 16) 0

/-- Host access ends with link 0 (R70): posted writes not issued yet are discarded, and accesses under way have nobody to answer. -/
def State.hostGone (s : State) : State :=
  let s1 : State := { s with host := { s.host with funcs := s.host.funcs.map fun (f : Nat × Func) => (f.1, { f.2 with posted := [] }) } }
  s1.host.ops.foldl (fun t o => (t.dropHost o.id).hostDone o.id true) s1

/-- HOST_LINK_CHANGE (R70): a link goes down or comes up; `pool` says for link 0 that its partner reaches the pool, for link 1 that
a switch answers. Link 0 down ends host access. DEDUCED, unsafe: log entry 84; DESIGN CHOICE, unsafe: log entry 85. -/
def execHostLinkChange (link : Nat) (up pool : Bool) (s : State) : Host.Outcome State Fault Refusal :=
  if 2 ≤ link then .refused (.notPending "HOST_LINK_CHANGE")
  else
    let s1 := if link = 0 then { s with host := { s.host with link0 := up, pool0 := up && pool } }
      else { s with host := { s.host with link1 := up, l1up := up && pool } }
    let s2 := if link = 0 && !up then s1.hostGone else s1
    let s3 := if link = 1 && s.host.l1up && !(up && pool) then s2.recallFar else s2
    .next s3.refar.hostlink

/-! ### Power and cooling (R39, R40) -/

/-- JUNCTION_THROTTLE (R39): from 100 °C one more sixteenth of the die's issue is gated at each reading, until it is at 97 °C.
DESIGN CHOICE, unsafe: log entry 86. -/
def execJunctionThrottle (die : Nat) (celsius : Nat) (s : State) : Host.Outcome State Fault Refusal :=
  if 8 ≤ die then .refused (.notPending "JUNCTION_THROTTLE")
  else
    let g := SMap.get 0 s.guard.gate die
    let g1 := if 100 ≤ celsius then min 16 (g + 1) else if celsius ≤ 97 then 0 else g
    .next { s with guard := { s.guard with temp := SMap.set 0 s.guard.temp die celsius, gate := SMap.set 0 s.guard.gate die g1 } }

/-- Nothing of a context is under way on a compute die: every store is acknowledged, no request or arrival of a group is on its way, and
every engine is quiet. -/
def State.allSettled (s : State) : Bool :=
  (s.cores.all fun c => c.2.stores.isEmpty) && s.arrivals.isEmpty && s.box.launches.isEmpty
    && ((SMap.entries s.groups).all fun g => s.groupSettled g.1 && g.2.migrating.isNone)
    && (SMap.entries s.blocks).all fun b => b.2.phase != .halting && b.2.phase != .restoring && b.2.phase != .stopping && b.2.cmds.isEmpty

/-- A settled block is saved as CTXSAVE saves it, in one go; none when its context has no area left for it (R40, R199, R437). -/
def State.saveNow (s : State) (bid : Nat) : Option State :=
  match s.block? bid with
  | none => none
  | some b =>
    ((Block.gids bid b).foldl (fun t k => t.bind (·.saveGrp k)) (s.reserveFor bid)).bind fun t =>
      (t.saveBlk (32 * bid)).map (·.endSave bid)

/-- A saved block is restored as CTXREST restores it, in one go, where it was. -/
def State.wakeNow (s : State) (bid : Nat) : State :=
  match s.block? bid with
  | none => s
  | some b =>
    let t := (Block.gids bid b).foldl (fun t k => t.bind (·.restGrp k)) (some s)
    ((t.bind (·.restCopy (32 * bid))).getD s).endRestore bid

/-- The blocks that hold places, all of them of station programs where no context has a runnable task. -/
def State.residents (s : State) : List Nat :=
  ((SMap.entries s.blocks).filter fun b => b.2.phase == .live || b.2.phase == .stopped).map (·.1)

/-- POWER_P2_ENTRY (R40): only when no context has a runnable task. Every context is saved, in the one step that stands for the 2 ms of
the entry; L1 and the prediction tables are lost (R152, R209). DEDUCED, unsafe: log entry 137. -/
def execPowerP2Entry (s : State) : Host.Outcome State Fault Refusal :=
  if s.guard.power != 0 || (SMap.entries s.box.table).any (·.2.wants) || !s.allSettled then .refused (.notPending "POWER_P2_ENTRY")
  else match s.residents.foldl (fun t k => t.bind (·.saveNow k)) (some s) with
    | none => .refused (.notPending "POWER_P2_ENTRY")
    | some t => .next { t with guard := { t.guard with power := 2 }, l1 := [] }

/-- POWER_P2_EXIT (R40): a LAUNCH, a watch that has fired or a host write to a watched word, which fires its watch, calls for P0; the
contexts are restored where they were. -/
def execPowerP2Exit (s : State) : Host.Outcome State Fault Refusal :=
  if s.guard.power != 2 || (s.md.fired.isEmpty && s.box.launches.isEmpty && s.host.nextEntry.isNone) then .refused (.notPending "POWER_P2_EXIT")
  else
    let saved := ((SMap.entries s.blocks).filter fun b => b.2.phase == .saved && b.2.isStation).map (·.1)
    .next (saved.foldl State.wakeNow { s with guard := { s.guard with power := 0 } })

/-- POWER_LOSS (R40): the module is off; only a full bring-up leaves that state. -/
def execPowerLoss (s : State) : Host.Outcome State Fault Refusal :=
  .next { State.reset with pace := s.pace, picks := s.picks, free := s.free, inputs := s.inputs
                           md := { MemDies.reset with retired := s.md.retired, failed := s.md.failed, lost := s.md.lost }
                           host := { HostSide.reset with nextKey := s.host.nextKey }
                           guard := { Guardhouse.reset with power := 3, rollback := s.guard.rollback, challenge := s.guard.challenge } }

end Sys2Proof.Machine
end

