-- ==== Sys2Proof/Machine/Mgmt.lean ====
section
/-! DEFINITION. Machine/Mgmt.lean: the management operations (R81 to R84, R92, R97, R98, R132, R283) and firmware's register
writes. -/

namespace Sys2Proof.Machine

/-- Firmware completes an entry: results from byte `8 + skip` of the entry on, then its status, the consumer word, then PF vector 4
(R81, R83). -/
def State.answerEntry (s : State) (h : MgmtHead) (status : Nat) (result : List (BitVec 8)) (skip : Nat := 0) : State :=
  let a := s.host.slot
  let n := s.host.consumer + 1
  let h1 := ((s.host.ringWrite (a + 8 + skip) result).ringWrite (a + 6) (toBytes 2 status)).ringWrite 0x4008 (toBytes 8 n)
  let h2 := if h1.produced < n then h1.ringWrite 0x4000 (toBytes 8 n) else h1
  ({ s with host := { h2 with
      consumer := n
      mgmt := s.host.mgmt ++ [{ tag := h.tag, status := status, result := (toBytes skip 0 ++ result ++ toBytes 56 0).take 56 }] } } : State).raiseVector 0 4

/-- An operation on the device as a whole: fn 0, no context, no byte that must be zero (R83). -/
def mgmtDevice (h : MgmtHead) : Bool := h.fn == 0 && h.ctx == 0xFF && !h.extra
/-- An operation on a function. -/
def mgmtFunction (h : MgmtHead) : Bool := decide (h.fn < 64) && h.ctx == 0xFF && !h.extra
/-- The global context that fn and ctx name. -/
def State.named (s : State) (h : MgmtHead) : Option Nat :=
  if h.extra then none
  else ((SMap.entries s.host.ctxs).find? fun c => c.2.fn == h.fn && c.2.lctx == h.ctx).map (·.1)

/-! ### CTXNEW, CTXRESET (R50, R132, R133) -/

/-- Operands within the limits of R132. -/
def ctxReqOk (r : CtxReq) : Bool :=
  decide (r.slice ≤ 1000000) && decide (1 ≤ r.resplit) && decide (r.resplit ≤ 1000000) && decide (r.ceil ≤ 1)
    && decide (r.heatk ≤ 12) && decide (1 ≤ r.epoch) && decide (r.epoch ≤ 1000) && decide (1 ≤ r.quota) && decide (r.quota ≤ 4096)
    && decide (r.ncell ≤ 69632) && decide (1 ≤ r.svunits) && decide (r.svunits ≤ 16777215)

/-- n consecutive cells that no context holds. -/
def State.freeCells (s : State) (n : Nat) : Option Nat :=
  let used := (SMap.entries s.host.ctxs).map fun c => (c.2.firstCell, c.2.req.ncell)
  (0 :: used.map fun (u : Nat × Nat) => u.1 + u.2).find? fun a =>
    decide (a + n ≤ 69632) && used.all fun (u : Nat × Nat) => decide (u.1 + u.2 ≤ a) || decide (a + n ≤ u.1)

/-- Whether save regions of the size asked for still fit device memory beside those granted. -/
def State.savesFit (s : State) (n : Nat) : Bool :=
  decide ((((SMap.entries s.host.ctxs).map fun c => c.2.req.svunits).sum + n) * 65536 ≤ deviceTop)

/-- The context CTXNEW makes. -/
def newContext (fn lctx cell now : Nat) (r : CtxReq) : Context :=
  { fn := fn, lctx := lctx, req := r, firstCell := cell, segs := [], born := now, epochs := 0, heat := [], saves := [], kept := [], lbBase := 0,
    lbN := 0, lbProd := 0, lbFlags := 0, ibase := 0, jbits := 0, bins := [], cmps := [], launches := 0 }

/-- CTXNEW. R83 gives the first device cell 4 bytes at offset 12 of the answer and also zeros in bytes 13 to 15: the model writes the four bytes.
DEDUCED, unsafe: log entry 75; DEDUCED, unsafe: log entry 76; DESIGN CHOICE, unsafe: log entry 151. -/
def execCtxnew (h : MgmtHead) (r : CtxReq) (s : State) : Host.Outcome State Fault Refusal :=
  let f := s.func h.fn
  if !mgmtFunction h || !ctxReqOk r || (r.ceil == 0 && h.fn != 0 && !f.expgrant) || f.disabled then .next (s.answerEntry h 2 [])
  else if f.flr != 0 then .next (s.answerEntry h 3 [])
  else
    let mine := (SMap.entries s.host.ctxs).filter (·.2.fn == h.fn)
    let lctx := (List.range (if h.fn = 0 then 128 else 32)).find? fun k => !mine.any (·.2.lctx == k)
    match lctx, SMap.freeKey s.host.ctxs 0 128, s.freeCells r.ncell with
    | some l, some c, some cell =>
      if !s.savesFit r.svunits then .next (s.answerEntry h 3 [])
      else match (s.setCtx c (newContext h.fn l cell s.now r)).startStation c with
        | none => .next (s.answerEntry h 3 [])
        | some s1 => .next (s1.answerEntry h 0 (toBytes 2 c ++ toBytes 1 l ++ toBytes 1 0 ++ toBytes 4 cell))
    | _, _, _ => .next (s.answerEntry h 3 [])

/-- CTXRESET (R88): the context is discarded, the record written, and its station program started again (R133). DEDUCED, unsafe: log entry 74. -/
def execCtxreset (h : MgmtHead) (s : State) : Host.Outcome State Fault Refusal :=
  match s.named h with
  | none => .next (s.answerEntry h 2 [])
  | some c =>
    let s1 := (s.discardCtx c).funcRecord h.fn 0 0x0403 0 h.fn c 0 0
    .next ((s1.oweStation c).answerEntry h 0 [])

/-! ### SEGSET (R97, R98) -/

def Segment.top (g : Segment) : Nat := g.base + g.limit
def Segment.meets (a b : Segment) : Bool :=
  a.valid && b.valid && decide (a.base ≤ b.top) && decide (b.base ≤ a.top)

/-- SEGSET's refusals (R98). -/
def State.segBad (s : State) (c : Nat) (cx : Context) (n : Nat) (g : Segment) : Bool :=
  g.valid &&
    (decide (2 ^ 52 ≤ g.offset * 4096 + (g.limit + 1) * 4096 - 1)
      || (List.range 8).any (fun k => k != n && (SMap.get Segment.reset cx.segs k).meets g)
      || (g.h && (SMap.entries s.host.ctxs).any fun x => x.1 != c && x.2.fn == cx.fn &&
            (List.range 8).any fun k => (SMap.get Segment.reset x.2.segs k).h && (SMap.get Segment.reset x.2.segs k).meets g))

/-- A segment with its fixed bits (R97); V = 0 removes it. -/
def segmentOf (b l o : BitVec 64) : Segment :=
  if b.getLsbD 0 then { b := b &&& 0x00FFFFFFFFFFF03F, l := l &&& 0x00000FFFFFFFFFFF, o := o &&& 0x000FFFFFFFFFF000 }
  else Segment.reset

def execSegset (h : MgmtHead) (seg : Nat) (b l o : DWord) (s : State) : Host.Outcome State Fault Refusal :=
  match (s.named h).bind fun c => (s.ctx? c).map fun x => (c, x) with
  | none => .next (s.answerEntry h 2 [])
  | some (c, cx) =>
    let g := segmentOf b l o
    if 8 ≤ seg || s.segBad c cx seg g then .next (s.answerEntry h 2 [])
    else .next ((s.setCtx c { cx with segs := SMap.set Segment.reset cx.segs seg g }).answerEntry h 0 [])

/-! ### WEIGHTS, LOGSET, EXPGRANT -/

/-- WEIGHTS (R83). It is the PF's write of a function's resources, and re-enables one that an alarm disabled (R94). DEDUCED, unsafe: log entry 75. -/
def execWeights (h : MgmtHead) (iw aw : Nat) (s : State) : Host.Outcome State Fault Refusal :=
  if !mgmtFunction h || iw = 0 || 255 < iw || aw = 0 || 255 < aw then .next (s.answerEntry h 2 [])
  else
    let s1 := s.modFunc h.fn fun f => { f with iw := iw, aw := aw, disabled := false }
    .next ((if (s.func h.fn).flr = 5 then s1.reviveFn h.fn else s1).answerEntry h 0 [])

/-- The whole of an area lies in the function's memory. -/
def State.holdsArea (s : State) (f : Nat) (c : Option Nat) (base n : Nat) : Bool :=
  (List.range (ceilDiv n 4096)).all fun k => (s.areaSeg f c (base + 4096 * k)).isSome

/-- LOGSET (R83, R84, R283): the function's event log, or with a context its logbook area; base 0 removes it. DEDUCED, unsafe: log entry 77. -/
def execLogset (h : MgmtHead) (base n : Nat) (s : State) : Host.Outcome State Fault Refusal :=
  let bad := h.extra || decide (64 ≤ h.fn) || base % 4096 != 0 || (base != 0 && (decide (n < 6) || decide (16 < n)))
  if bad then .next (s.answerEntry h 2 [])
  else if h.ctx = 0xFF then
    if base = 0 then .next ((s.modFunc h.fn fun f => { f with logBase := 0, logN := 0, logProd := 0 }).answerEntry h 0 [])
    else if !(s.holdsArea h.fn none base (32 * 2 ^ n)) || (s.areaSeg h.fn none (base - 16)).isNone then .next (s.answerEntry h 2 [])
    else
      let s1 := s.modFunc h.fn fun f => { f with logBase := base, logN := n, logProd := 0 }
      .next ((s1.funcWrite h.fn none (base - 8) (toBytes 8 0)).answerEntry h 0 [])
  else match (s.named h).bind fun c => (s.ctx? c).map fun x => (c, x) with
    | none => .next (s.answerEntry h 2 [])
    | some (c, cx) =>
      if base = 0 then .next (((s.setCtx c { cx with lbBase := 0, lbN := 0, lbProd := 0 }).lbRead c).answerEntry h 0 [])
      else if !(s.holdsArea h.fn (some c) base (4096 + 64 * 2 ^ n)) then .next (s.answerEntry h 2 [])
      else
        let prod := ofBytes ((s.funcRead h.fn (some c) base 8).getD [])
        let s1 := s.setCtx c { cx with lbBase := base, lbN := n, lbProd := prod }
        .next (((s1.funcWrite h.fn (some c) (base + 16) (toBytes 4 n)).lbRead c).answerEntry h 0 [])

def execExpgrant (h : MgmtHead) (allow : Nat) (s : State) : Host.Outcome State Fault Refusal :=
  if !mgmtFunction h || h.fn = 0 || 2 ≤ allow then .next (s.answerEntry h 2 [])
  else .next ((s.modFunc h.fn fun f => { f with expgrant := allow == 1 }).answerEntry h 0 [])

/-! ### FABREAD, FABWRITE (R32 to R35, R83) -/

/-- The register an index names: none where the index names no used pair or module. -/
def State.fabRegister (s : State) (reg i : Nat) : Option Nat :=
  if reg = 3 then (if i < 5 then some (s.lasstat i) else none)
  else if !usedPair (i / 32) (i % 32) then none
  else
    let l := s.link (i / 32) (i % 32)
    match reg with
    | 0 => some l.chstat
    | 1 => some l.lnkerr
    | 2 => some l.pairrt
    | _ => none

def execFabread (h : MgmtHead) (reg first count : Nat) (s : State) : Host.Outcome State Fault Refusal :=
  let vs := (List.range count).map fun k => s.fabRegister reg (first + k)
  if !mgmtDevice h || count = 0 || 4 < count || vs.any (·.isNone) then .next (s.answerEntry h 2 [])
  else .next (s.answerEntry h 0 (vs.map fun v => toBytes 8 (v.getD 0)).flatten 16)

/-- A FABWRITE: status 2 for a bad index, else the write and the register as it then reads. -/
def State.fabWrite (s : State) (h : MgmtHead) (reg index : Nat) (write : State → State) : State :=
  if !mgmtDevice h || (s.fabRegister reg index).isNone then s.answerEntry h 2 []
  else
    let s1 := write s
    s1.answerEntry h 0 (toBytes 8 ((s1.fabRegister reg index).getD 0)) 24

def execFabwriteLnkerr (h : MgmtHead) (index : Nat) (value : DWord) (s : State) : Host.Outcome State Fault Refusal :=
  .next (s.fabWrite h 1 index fun t => t.writeLnkerr (index / 32) (index % 32) value.toNat)
def execFabwritePairrt (h : MgmtHead) (index : Nat) (value : DWord) (s : State) : Host.Outcome State Fault Refusal :=
  .next (s.fabWrite h 2 index fun t => t.writePairrt (index / 32) (index % 32) value.toNat)
def execFabwriteRemreq (h : MgmtHead) (index : Nat) (value : DWord) (s : State) : Host.Outcome State Fault Refusal :=
  .next (s.fabWrite h 3 index fun t => t.writeRemreq index value.toNat)

/-! ### ATTEST, DIEFENCE, FARPOL -/

/-- Size of a report (R92). -/
def reportSize : Nat := 7491

/-- The whole of a run of bytes lies in the PF's H = 1 segments (R83). -/
def State.inHostView (s : State) (va n : Nat) : Bool := (unitRuns (n / 256 + 2) va n).all fun p => (s.hostSeg 0 p.1).isSome

/-- A function's configuration as R92 lists it: its weights, the unlocks in force (R298), and the segments and operands of its contexts. The order of the bytes is the
model's. DESIGN CHOICE, safe: log entry 14. -/
def State.configBytes (s : State) (f : Nat) : List (BitVec 8) :=
  let x := s.func f
  let seg (c : Context) (k : Nat) : List (BitVec 8) :=
    let g := SMap.get Segment.reset c.segs k
    toBytes 8 g.b.toNat ++ toBytes 8 g.l.toNat ++ toBytes 8 g.o.toNat
  let own (c : Context) : List (BitVec 8) :=
    let r := c.req
    ((List.range 8).map (seg c)).flatten ++ ([c.fn, c.lctx, r.stprog, r.starg, r.tarea, r.savea, r.slice, r.resplit, r.ceil, r.heatk, r.epoch,
      r.quota, r.ncell, r.svunits].map (toBytes 8)).flatten
  toBytes 8 x.iw ++ toBytes 8 x.aw ++ toBytes 1 (if s.guard.unlocked.getLsbD f then 1 else 0) ++ toBytes 1 (if s.guard.unlockAll then 1 else 0) ++ (((SMap.entries s.host.ctxs).filter (·.2.fn == f)).map fun c => own c.2).flatten

/-- Bytes 0 to 2,863 of a report (R92). -/
def State.reportBody (s : State) (f : Nat) (nonce : List (BitVec 8)) : List (BitVec 8) :=
  toBytes 4 1 ++ toBytes 4 reportSize ++ nonce ++ (List.range 64).map Config.romDigest
    ++ (List.range 64).map (Config.imageDigest s.guard.version) ++ toBytes 4 s.guard.version ++ toBytes 4 f
    ++ (List.range 64).map (Config.digest (s.configBytes f)) ++ (List.range 2592).map Config.identityKey

/-- ATTEST (R83, R92): nonce and buffer in the PF's H = 1 segments; the report signed by the device identity key. -/
def execAttest (h : MgmtHead) (nonce buf : Nat) (s : State) : Host.Outcome State Fault Refusal :=
  if !mgmtFunction h || !(s.inHostView nonce 64) || !(s.inHostView buf reportSize) then .next (s.answerEntry h 2 [])
  else
    match s.funcRead 0 none nonce 64, s.funcRead 0 none buf reportSize with
    | some n, some _ =>
      let body := s.reportBody h.fn n
      let sign := (List.range 4627).map (Config.signature s.free body)
      let s1 := { s with free := s.free + 1 }.funcWrite 0 none buf (body ++ sign)
      .next (s1.answerEntry h 0 (toBytes 4 reportSize) 24)
    | _, _ => .next (s.answerEntry h 2 [])

def execDiefence (h : MgmtHead) (die : Nat) (s : State) : Host.Outcome State Fault Refusal :=
  if !mgmtDevice h || 8 ≤ die || s.guard.fenced.getLsbD die then .next (s.answerEntry h 2 [])
  else .next ((s.fenceDie die).answerEntry h 0 [])

/-- FARPOL (R71, R83): FARPERM is written, FARALT follows its condition, a change of FARALT is recorded. -/
def execFarpol (h : MgmtHead) (allow : Nat) (s : State) : Host.Outcome State Fault Refusal :=
  if !mgmtDevice h || 2 ≤ allow then .next (s.answerEntry h 2 [])
  else
    let s1 := { s with host := { s.host with farperm := allow == 1 } }.refar
    let s2 := if s1.host.faralt != s.host.faralt then s1.hostlink else s1
    .next (s2.answerEntry h 0 (toBytes 8 s2.host.hbctl) 8)

/-! ### REGISTER_WRITE: registers that no other row writes (R32, R71, R100, R187) -/

/-- Firmware's write of HBCTL: FARPERM, and FARALT where its condition holds. -/
def State.writeHbctl (s : State) (x : Nat) : State :=
  let h := { s.host with farperm := bitAt x 3 }
  let ok := h.farperm && h.pool0 && !h.l1up
  let s1 := { s with host := { h with faralt := bitAt x 0 && ok } }
  let s2 := if s1.host.faralt && !s.host.faralt then s1.recallFar else s1
  if s2.host.faralt != s.host.faralt then s2.hostlink else s2

/-- A system register of a group written from outside its program: as SWR writes it, a lane register in every lane. -/
def State.writeSys (s : State) (gid num x : Nat) : Option State :=
  match s.group? gid with
  | none => none
  | some g =>
    if sysAccess false num != .rw || ((num == 0x00C || num == 0x00D) && kshpBad x) then none
    else
      let ls := lanes (g.present ||| g.helper)
      some (s.setGroup gid
        (if num = 0x002 then ls.foldl (fun h l => h.setFst l (fstatWrite x)) g
         else if num = 0x003 then ls.foldl (fun h l => h.setKst l (kstatWrite x)) g
         else g.sysWrite num x))

/-- REGISTER_WRITE. XROOT holds the address of a page (R100), of which the spec gives no layout: the model clears its low 12 bits and keeps
the others. A size that a BAR0/1 window cannot have is not taken (R74). DESIGN CHOICE, unsafe: log entry 152. -/
def execRegisterWrite (r : DevReg) (value : DWord) (s : State) : Host.Outcome State Fault Refusal :=
  match r with
  | .hbctl => .next (s.writeHbctl value.toNat)
  | .xroot => .next (s.modXl fun x => { x with xroot := value.toNat / 4096 * 4096 })
  | .chstat n =>
    if usedPair (n / 32) (n % 32) then .next (s.writeChstat (n / 32) (n % 32) value.toNat) else .refused (.notPending "REGISTER_WRITE")
  | .window fn =>
    .next (if decide (fn < 64) && windowOk value.toNat then s.modFunc fn fun f => { f with window := value.toNat } else s)
  | .sysreg gid num =>
    match s.writeSys gid num value.toNat with
    | some s1 => .next s1
    | none => .refused (.notPending "REGISTER_WRITE")

end Sys2Proof.Machine
end

