-- ==== Sys2Proof/Machine/Arrive.lean ====
section
/-! DEFINITION. Machine/Arrive.lean: an entry arrives at a clause: fetch, check, convergence and wait (R116, R156 to R158, R177,
R235, R249, R301 to R304, R317), and the word it comes to (R162, R295, R316, R319). -/

namespace Sys2Proof.Machine

/-! ### Fetch (R116, R304, R436) -/

/-- What a fetch gives: the clause, a wait for a page, or a final fault with its cause, reason and IA page. -/
inductive Fetched where
  | code (ws : List (BitVec 64))
  | wait
  | fault (cause reason page : Nat)
  deriving DecidableEq, Repr

/-- The IA of a VA for a fetch: through the segments, but firmware is fetched by IA (R436). -/
def State.fetchIA (s : State) (g : Group) (b : Block) (va : Nat) : Except Nat Nat :=
  if g.fw then .ok va
  else match s.ctx? b.ctx with
    | none => .error 0x10
    | some c => (c.translate va acExec).map (·.1)

/-- A group's fetch of a page is gathered already and not yet answered. -/
def State.fetchAsked (s : State) (gid ia : Nat) : Bool :=
  [s.servingDie ia, 17].any (fun die =>
    match SMap.find? s.xl.merge (pageKey die ia) with
    | some m => m.types.getLsbD 2 && (m.waiters.contains (.group gid) || m.overflow)
    | none => false) || s.xl.answers.any fun a => a.waiter == .group gid && a.page == ia / 4096

/-- The leaf with which a group's fetch reaches an IA: a group that waits on the page is one waiter, whatever it waits for (R109). -/
def State.fetchAt (s : State) (gid : Nat) (b : Block) (ia : Nat) : State × Option (BitVec 64) :=
  match s.fetchLeaf ia with
  | some l => (s, some l)
  | none =>
    if s.fetchAsked gid ia then (s, none)
    else ((s.engineAt { w := .group gid, src := dieOf b.core, fn := ((s.ctx? b.ctx).map (·.fn)).getD 0 }
        b.ctx ia acExec).1, none)

/-- The words of a clause once both ends are reached. -/
def State.codeAt (s : State) (g : Group) (b : Block) (clause ia n : Nat) (l m : BitVec 64) : Fetched :=
  let at_ (k : Nat) : Nat := match s.fetchIA g b (clause + 8 * k) with | .ok a => a | .error _ => ia
  let leaf (a : Nat) : BitVec 64 := if a / 256 = ia / 256 then l else m
  let as := (List.range (n + 1)).map at_
  match as.find? fun a => s.poisonedAt (leafF (leaf a)) a (s.place (leaf a) a) with
  | some a => .fault 0x13 0xFF (a / 4096 * 4096)
  | none => .code (as.map fun a => s.codeWord (leaf a) a)

/-- Fetches the whole clause of an entry. -/
def State.fetch (s : State) (gid : Nat) (g : Group) (b : Block) (clause : Nat) : State × Fetched :=
  match s.fetchIA g b clause with
  | .error c => (s, .fault c 0xFF 0)
  | .ok ia =>
    match s.fetchAt gid b ia with
    | (s1, none) => (s1, .wait)
    | (s1, some l) =>
      let n := hCount (s1.codeWord l ia).toNat + 1
      match s1.fetchIA g b (clause + 8 * n) with
      | .error c => (s1, .fault c 0xFF 0)
      | .ok ib =>
        match s1.fetchAt gid b ib with
        | (s2, none) => (s2, .wait)
        | (s2, some m) => (s2, s2.codeAt g b clause ia n l m)

/-- A final fetch fault: a trap at the header, or the entry's lanes are switched off; a speculative entry waits. -/
def State.fetchFault (s : State) (gid i : Nat) (g : Group) (e : Entry) (cause reason page : Nat) : State :=
  if e.spec || g.fw then s
  else if g.hasHandler then
    s.raise gid i { cause := cause, kind := 3, late := false, lanes := e.mask, tclause := e.clause, tword := 0,
                    record := some { fetchRecord e reason page e.mask with cause := cause } }
  else s.setGroup gid (g.switchOff e.mask cause)

/-- The clause has come in: it is checked (R317), a landed group may not run a matrix clause (R177), converging entries
fuse (R157), and a TPC beyond the clause goes on at the next header. -/
def State.takeCode (s : State) (gid i : Nat) (g : Group) (e : Entry) (ws : List (BitVec 64)) : State :=
  if !clauseOk ws then (if e.spec then s else s.badClause gid i)
  else
    let h := (ws.headD 0).toNat
    if g.landed.isSome && hClass h == 1 then (if e.spec then s else s.setGroup gid (g.switchOff e.mask 0x29))
    else
      let g1 := g.setEntry i { e with code := some ws }
      s.setGroup gid (if ws.length - 1 ≤ e.word then g1.moveTo i (e.clause + 8 * ws.length)
        else if hConv h then g1.fuseAt i true else g1)

/-! ### Waits (R158, R235, R249) -/

/-- The entry's wait is satisfied. -/
def Group.pass (g : Group) (i : Nat) : Group :=
  match g.entries[i]? with
  | none => g
  | some e => g.setEntry i { e with waited := true }

/-- An arrival of a group on a slot, by its name or at its object, that is not yet applied (R234). DEDUCED, unsafe: log entry 106. -/
def State.arriving (s : State) (gid bid n off : Nat) : Bool :=
  s.arrivals.any fun x => (x.to_ == .name bid n || x.to_ == .address bid off) && (match x.by_ with | .group k _ => k == gid | _ => false)

/-- A fault of a copy command on a slot is delivered at a wait on the slot (R249): late, or its lanes are switched off. -/
def State.waitFault (s : State) (gid i : Nat) (g : Group) (e : Entry) (f : LateFault) : State :=
  let g1 : Group := { g with late := g.late.erase f }
  if g.hasHandler then
    (s.setGroup gid g1).raise gid i
      { cause := f.cause, kind := f.kind, late := true, lanes := f.lanes, tclause := e.clause, tword := 0, record := some f }
  else s.setGroup gid (g1.switchOff (f.lanes &&& g1.live) f.cause)

/-- The wait on a bound slot: after the group's ticket or after a value of an s register. A satisfied wait is an acquire,
which line speculation holds (R216). -/
def State.slotWait (s : State) (gid i : Nat) (g : Group) (e : Entry) (h hb : Nat) (b : Block) (sl : Slot) : State :=
  match (if g.trap || e.spec then none else g.late.find? fun f => f.slot == some (hSlot h)) with
  | some f => s.waitFault gid i g e f
  | none =>
    let ok := if hMode h = 1 then !s.arriving gid hb (hSlot h) sl.off && passed sl.phase (b.ticket sl.off g.idx)
      else passed sl.phase ((g.sreg (hSreg h)).toNat % 2 ^ 16)
    if ok && g.lineSpec.isNone then s.setGroup gid (g.pass i) else s

/-- Evaluates the wait of entry i, which stands at word 0. A speculative entry waits where a fault would arise (R168). -/
def State.evalWait (s : State) (gid i : Nat) (g : Group) (b : Block) (e : Entry) : State :=
  let h := ((e.code.getD []).headD 0).toNat
  let off (cause : Nat) : State := if e.spec then s else s.setGroup gid (g.switchOff e.mask cause)
  if hMode h = 0 then s.setGroup gid (g.pass i)
  else if hMode h = 1 && hSlot h == 254 then
    if g.joinMember = 0 && g.joinArrived = 0 then s.setGroup gid (g.pass i) else s
  else if hMode h = 2 && decide (g.scount ≤ hSreg h) then (if e.spec then s else s.badClause gid i)
  else if hMode h = 1 && g.landed.isSome then off 0x29
  else
    let hb := s.hostBlock g b
    match s.block? hb with
    | none => off 0x22
    | some k =>
      match (if hSlot h < k.names then SMap.find? k.slots (hSlot h) else none) with
      | none => off 0x22
      | some sl => s.slotWait gid i g e h hb k sl

/-! ### Arrival (R304) -/

/-- Entry i takes the steps of its arrival that can be taken now. -/
def State.settleEntry (s : State) (gid i : Nat) : State :=
  match s.group? gid with
  | none => s
  | some g =>
    match s.block? g.bid, g.entries[i]? with
    | some b, some e =>
      let s1 := if e.code.isSome then s else
        match s.fetch gid g b e.clause with
        | (t, .code ws) => t.takeCode gid i g e ws
        | (t, .wait) => t
        | (t, .fault c r p) => t.fetchFault gid i g e c r p
      match (s1.group? gid).bind fun k => (k.entries[i]?).map fun f => (k, f) with
      | some (k, f) => if f.code.isSome && f.word == 0 && !f.waited then s1.evalWait gid i k b f else s1
      | none => s1
    | _, _ => s

/-- Whether a group may arrive and issue at all: it is not halted, on its way or about to trap (R160, R176, R431); firmware
runs until its ERET (R436). -/
def Group.runs (g : Group) : Bool :=
  if g.fw then !g.released
  else !g.halted && g.migrating.isNone && (g.trap || g.pendingTraps.isEmpty)

/-- Whether entry i may act: while a handler runs only the handler entry does (R432). -/
def Group.mayAct (g : Group) (i : Nat) : Bool := !g.trap || i + 1 == g.entries.length

/-- Every entry of a group arrives as far as it can, the lowest index first (R319). -/
def State.settleGroup (s : State) (gid : Nat) : State :=
  ((s.group? gid).elim [] fun g => g.entries.filterMap fun e => lowest e.mask).foldl (fun t l =>
    match (t.group? gid).bind fun g => (g.entryOf (bit l)).map fun i => (g, i) with
    | some (g, i) => if g.runs && g.mayAct i then t.settleEntry gid i else t
    | none => t) s

/-! ### The word an entry comes to (R295, R316, R319) -/

/-- Word k of the clause of an entry. -/
def Entry.wordAt (e : Entry) (k : Nat) : BitVec 64 := (e.code.getD []).getD (k + 1) 0

/-- The word at k is the first of a marked pair (R301). -/
def Entry.pairAt (e : Entry) (k : Nat) : Bool :=
  k % 2 == 0 && bitAt (hPairs ((e.code.getD []).headD 0).toNat) (k / 2)

/-- The active set of raw bits: a word with pg 13 to 15 acts for the whole entry (R316). -/
def Group.rawActive (g : Group) (e : Entry) (w : BitVec 64) : BitVec 32 :=
  let f := unpack w.toNat
  if 12 < f.pg then e.mask else g.active f.g e.mask

/-- Whether raw bits raise ILLEGAL for an entry: they are no instruction, or name an operand that it does not accept. -/
def Group.rawIllegal (g : Group) (e : Entry) (w : BitVec 64) : Bool :=
  g.rawActive e w != 0 && (match wordOf w with
    | some i => !g.accepts i
    | none => true)

/-- The guard of raw bits has a write in flight (R306). -/
def Group.rawHeld (g : Group) (w : BitVec 64) : Bool :=
  let f := unpack w.toNat
  f.pg < 12 && g.inFlight.contains (keyP f.pg)

/-- What an entry comes to: it waits or has been dealt with, or a word is to execute. -/
inductive Coming where
  | done (s : State)
  | run (s : State) (i : Instr)
  deriving DecidableEq, Repr

/-- A pair whose word k raises ILLEGAL executes neither word; lanes that go on pass both (R319). -/
def State.illegalPair (s : State) (gid i : Nat) (e : Entry) (k : Nat) (act : BitVec 32) : State :=
  let s1 := s.modGroup gid fun g => g.setEntry i { e with word := e.word + k }
  let s2 := s1.illegal gid i act
  if k = 1 then s2
  else s2.modGroup gid fun g =>
    match g.entries[i]? with
    | some f => if f.clause = e.clause && f.word == e.word + 1 then g.advance i else g
    | none => g

/-- A comparator hit (R293, R295): the word does not issue, and the block is to stop. -/
def State.hitComparator (s : State) (gid : Nat) (g : Group) (e : Entry) (c : Nat) : State :=
  (s.setGroup gid { g with passed := some { clause := e.clause, word := e.word, cmp := c, waits := true, other := false } }).modBlock g.bid fun b =>
    { b with stopPending := b.stopPending.or (some (stopCode (.cmp c) + 1)) }

/-- The comparator that hits the next word of an entry, or either word of a pair, which issues as one; none for firmware and
for a matched word that is still to issue; a comparator that has hit does not hit again before another word has issued (R293, R295). -/
def State.comparatorOf (s : State) (ctx : Nat) (g : Group) (e : Entry) : Option Nat :=
  if g.fw || g.passed.any (fun h => h.waits && h.clause == e.clause && h.word == e.word) then none
  else
    let off := (g.passed.filter fun h => !h.other).map (·.cmp)
    (s.comparator ctx off e.clause e.word).or (if e.pairAt e.word then s.comparator ctx off e.clause (e.word + 1) else none)

/-- What is left of a comparator's hit once a word of an entry has issued (R295); the second word of a matched pair issues with it. -/
def Hit.after (h : Hit) (e : Entry) : Option Hit :=
  if h.clause = e.clause && (h.word = e.word || (e.word = h.word + 1 && e.pairAt h.word)) then
    (if h.other then none else some { h with waits := false })
  else if h.waits then some { h with other := true }
  else none

/-- The word that entry i is about to issue. -/
def State.comeTo (s : State) (gid i : Nat) : Coming :=
  match s.group? gid with
  | none => .done s
  | some g =>
    match s.block? g.bid, g.entries[i]? with
    | some _, some e =>
      if !g.runs || !g.mayAct i || e.code.isNone || (e.word == 0 && !e.waited) then .done s
      else
        let w := e.wordAt e.word
        if g.rawHeld w then (match wordOf w with | some k => .run s k | none => .done s)
        else if e.pairAt e.word && g.rawHeld (e.wordAt (e.word + 1)) then .done s
        else if e.pairAt e.word && (g.rawIllegal e w || g.rawIllegal e (e.wordAt (e.word + 1))) then
          let k := if g.rawIllegal e w then 0 else 1
          .done (if e.spec then s else s.illegalPair gid i e k (g.rawActive e (e.wordAt (e.word + k))))
        else match wordOf w with
          | some k => .run s k
          | none =>
            .done (if g.rawActive e w = 0 then s.setGroup gid (g.advance i)
              else if e.spec then s else s.illegal gid i (g.rawActive e w))
    | _, _ => .done s

end Sys2Proof.Machine
end

