-- ==== Sys2Proof/Machine/Small.lean ====
section
/-! DEFINITION. Machine/Small.lean: the small-matrix words KSHAPE to KINV and KWORD_COMPLETE (R185, R275 to R281, R418 to
R422). -/

namespace Sys2Proof.Machine

/-! ### Rounded steps with their flags (R275) -/

/-- What a lane's run of an algorithm has raised: FSTAT flags, and KSTAT flags (1 SING, 2 NPD, 4 NANIN) with their steps in
order. -/
structure KAcc where
  fl : Flags
  ev : List (Nat × Nat)
  deriving DecidableEq, Repr

/-- A computation that rounds and raises flags. -/
abbrev KRun := StateM KAcc

def kFinish (f : Fmt) (r : Ex × Flags) : KRun Nat := fun a =>
  let x := f.finish r
  (x.1, { a with fl := a.fl ||| x.2 })
def kRaise (fl step : Nat) : KRun Unit := fun a => ((), { a with ev := a.ev ++ [(fl, step)] })
def kAdd (f : Fmt) (x y : Nat) : KRun Nat := kFinish f ((f.read x).add (f.read y))
def kMul (f : Fmt) (x y : Nat) : KRun Nat := kFinish f ((f.read x).mul (f.read y))
def kFma (f : Fmt) (x y z : Nat) : KRun Nat := kFinish f ((f.read x).fma (f.read y) (f.read z))
/-- fma(−x, y, z). -/
def kFms (f : Fmt) (x y z : Nat) : KRun Nat := kFinish f ((f.read x).neg.fma (f.read y) (f.read z))
def kDiv (f : Fmt) (x y : Nat) : KRun Nat := kFinish f ((f.read x).div (f.read y))
def kSqrt (f : Fmt) (x : Nat) : KRun Nat := kFinish f (f.read x).sqrt

def kZero? (f : Fmt) (x : Nat) : Bool := (f.read x).isZero
def kOne (f : Fmt) : Nat := f.bitsOf (.ofInt 1)
/-- A result NaN is canonical (R254, R275). -/
def kCanon (f : Fmt) (x : Nat) : Nat := if (f.read x).isNan then f.nan else x

/-- A matrix of c columns, row-major. -/
abbrev Mat := List Nat
def Mat.at (m : Mat) (c i j : Nat) : Nat := m.getD (i * c + j) 0
def Mat.put (m : Mat) (c i j x : Nat) : Mat := m.set (i * c + j) x
def Mat.build (r c : Nat) (f : Nat → Nat → Nat) : Mat := ((List.range r).map fun i => (List.range c).map (f i)).flatten
def Mat.buildM (r c : Nat) (f : Nat → Nat → KRun Nat) : KRun Mat :=
  ((List.range r).map fun i => (List.range c).map fun j => (i, j)).flatten.foldlM (fun m p => do
    let x ← f p.1 p.2
    return m ++ [x]) []

/-- Indices from lo up to hi − 1. -/
def fromTo (lo hi : Nat) : List Nat := (List.range hi).filter (lo ≤ ·)

/-! ### The algorithms (R276 to R281) -/

def kMulAdd (f : Fmt) (r n c : Nat) (a b : Mat) (init : Nat → Nat → Option Nat) : KRun Mat :=
  Mat.buildM r c fun i j => do
    match init i j with
    | some t0 => (List.range n).foldlM (fun t k => kFma f (a.at n i k) (b.at c k j) t) t0
    | none => do
      let t0 ← kMul f (a.at n i 0) (b.at c 0 j)
      (fromTo 1 n).foldlM (fun t k => kFma f (a.at n i k) (b.at c k j) t) t0

/-- KCHOL (R277). -/
def kChol (f : Fmt) (n : Nat) (a : Mat) : KRun Mat :=
  (List.range n).foldlM (fun (l : Mat) j => do
    let s ← (List.range j).foldlM (fun s k => kFms f (l.at n j k) (l.at n j k) s) (a.at n j j)
    let e := f.read s
    let zero := e.isZero
    if zero || (e.neg? && !e.isNan) then kRaise 2 j
    if zero then kRaise 1 j
    let d ← kSqrt f s
    (fromTo (j + 1) n).foldlM (fun (l : Mat) i => do
      let t ← (List.range j).foldlM (fun t k => kFms f (l.at n i k) (l.at n j k) t) (a.at n i j)
      let q ← kDiv f t d
      return l.put n i j q) (l.put n j j d)) (List.replicate (n * n) 0)

/-- KLDL (R278): L below the diagonal, D on it. -/
def kLdl (f : Fmt) (n : Nat) (a : Mat) : KRun Mat :=
  (List.range n).foldlM (fun (l : Mat) j => do
    let w ← (List.range j).foldlM (fun (w : List Nat) k => do
      let x ← kMul f (l.at n j k) (l.at n k k)
      return w ++ [x]) []
    let d ← (List.range j).foldlM (fun d k => kFms f (l.at n j k) (w.getD k 0) d) (a.at n j j)
    if kZero? f d then kRaise 1 j
    (fromTo (j + 1) n).foldlM (fun (l : Mat) i => do
      let t ← (List.range j).foldlM (fun t k => kFms f (l.at n i k) (w.getD k 0) t) (a.at n i j)
      let q ← kDiv f t d
      return l.put n i j q) (l.put n j j d)) (List.replicate (n * n) 0)

/-- The order of magnitudes in the pivot search: a NaN is larger than any number (R279). -/
def magLarger (f : Fmt) (x y : Nat) : Bool :=
  let a := f.read x
  let b := f.read y
  if b.isNan then false else if a.isNan then true else Ex.cmp a.abs b.abs false == .gt

/-- The state of KLU: U above and on the diagonal of `m`, L below it, and the pivots. -/
structure KLu where
  m : Mat
  l : Mat
  perm : List Nat
  par : Nat
  deriving DecidableEq, Repr

/-- Swaps rows p and j of a matrix in the columns below c0. -/
def Mat.swap (a : Mat) (n p j c0 : Nat) : Mat :=
  (List.range c0).foldl (fun (m : Mat) c => (m.put n p c (a.at n j c)).put n j c (a.at n p c)) a

/-- KLU (R279). -/
def kLu (f : Fmt) (n : Nat) (a : Mat) : KRun KLu :=
  (List.range n).foldlM (fun (x : KLu) j => do
    let m1 ← (fromTo 1 n).foldlM (fun (m : Mat) i => do
      let t ← (List.range (min i j)).foldlM (fun t k => kFms f (x.l.at n i k) (m.at n k j) t) (m.at n i j)
      return m.put n i j t) x.m
    let p := (fromTo (j + 1) n).foldl (fun p i => if magLarger f (m1.at n i j) (m1.at n p j) then i else p) j
    let y : KLu := if p = j then { x with m := m1 } else
      { m := m1.swap n p j n, l := x.l.swap n p j j, par := 1 - x.par,
        perm := (x.perm.set p (x.perm.getD j 0)).set j (x.perm.getD p 0) }
    if kZero? f (y.m.at n j j) then kRaise 1 j
    let l1 ← (fromTo (j + 1) n).foldlM (fun (l : Mat) i => do
      let q ← kDiv f (y.m.at n i j) (y.m.at n j j)
      return l.put n i j q) y.l
    return { y with l := l1 }) { m := a, l := List.replicate (n * n) 0, perm := List.range n, par := 0 }

/-- The result of KLU: unit-lower L below the diagonal, U on and above it. -/
def KLu.mat (x : KLu) (n : Nat) : Mat := Mat.build n n fun i j => if i ≤ j then x.m.at n i j else x.l.at n i j
/-- The pivot register. -/
def KLu.pivot (x : KLu) : Nat := ((x.perm.zipIdx.map fun p => p.1 % 8 * 2 ^ (3 * p.2)).sum) + x.par * 2 ^ 31

/-- A division of the solve: a zero divisor raises SING with the row as its step. -/
def kSolveDiv (f : Fmt) (i x y : Nat) : KRun Nat := do
  if kZero? f y then kRaise 1 i
  kDiv f x y

/-- KSOLVE of one column (R280): the factor, and b (already permuted for LU). -/
def kSolveCol (f : Fmt) (kind : Factor) (n : Nat) (a : Mat) (b : List Nat) : KRun (List Nat) := do
  let y ← (List.range n).foldlM (fun (y : List Nat) i => do
    let t ← (List.range i).foldlM (fun t k => kFms f (a.at n i k) (y.getD k 0) t) (b.getD i 0)
    let v ← if kind = .chol then kSolveDiv f i t (a.at n i i) else pure t
    return y ++ [v]) []
  let y ← if kind = .ldl then
      (List.range n).foldlM (fun (y : List Nat) i => do
        let v ← kSolveDiv f i (y.getD i 0) (a.at n i i)
        return y.set i v) y
    else pure y
  let u (i k : Nat) : Nat := if kind = .lu then a.at n i k else a.at n k i
  (List.range n).reverse.foldlM (fun (x : List Nat) i => do
    let t ← (fromTo (i + 1) n).foldlM (fun t k => kFms f (u i k) (x.getD k 0) t) (y.getD i 0)
    let v ← if kind = .ldl then pure t else kSolveDiv f i t (a.at n i i)
    return x.set i v) (List.replicate n 0)

/-- KSOLVE of every column in ascending order. -/
def kSolve (f : Fmt) (kind : Factor) (n c : Nat) (a b : Mat) (perm : List Nat) : KRun Mat := do
  let cols ← (List.range c).foldlM (fun (cs : List (List Nat)) j => do
    let x ← kSolveCol f kind n a ((List.range n).map fun i => b.at c (if kind = .lu then perm.getD i 0 else i) j)
    return cs ++ [x]) []
  return Mat.build n c fun i j => (cols.getD j []).getD i 0

/-- KDET (R281). -/
def kDet (f : Fmt) (n : Nat) (a : Mat) : KRun Nat := do
  let x ← kLu f n a
  (List.range n).foldlM (fun d i => kMul f d (x.m.at n i i)) (f.bitsOf (.ofInt (if x.par = 1 then -1 else 1)))

/-- KINV (R281). -/
def kInv (f : Fmt) (n : Nat) (a : Mat) : KRun Mat := do
  let x ← kLu f n a
  kSolve f .lu n n (x.mat n) (Mat.build n n fun i j => if i = j then kOne f else 0) x.perm

/-! ### Views (R185, R421) -/

/-- The matrix of a view in a lane, and writing one. -/
def Group.viewMat (g : Group) (j l : Nat) : Mat :=
  let v := g.view j
  (List.range (viewRows v * viewCols v)).map fun e =>
    if viewWide v then (g.vreg (viewBase v + 2 * e) l).toNat + (g.vreg (viewBase v + 2 * e + 1) l).toNat * 2 ^ 32
    else (g.vreg (viewBase v + e) l).toNat
def Group.putView (g : Group) (v l : Nat) (m : Mat) : Group :=
  m.zipIdx.foldl (fun h x => h.writeV (viewWide v) (viewBase v + (if viewWide v then 2 else 1) * x.2) l x.1) g

/-- Whether a pivot register holds a permutation of n rows. -/
def pivotOk (n x : Nat) : Bool :=
  let ps := (List.range n).map fun i => bits x (3 * i) 3
  ps.all (· < n) && ps.eraseDups.length == n

/-- A register operand of a lane. -/
def Group.regAt (g : Group) (d : Dst) (l : Nat) : Nat :=
  match d with
  | .v n => n
  | .s n => n
  | .idx k off => g.idxReg k off l

/-- The register operand of a word: a pivot or a determinant. -/
def kReg : Instr → Option Dst
  | .klu _ _ _ d _ | .kdet _ d _ _ => some d
  | .ksolve _ _ _ _ _ p _ => p
  | _ => none

/-- The flag predicate of a word, 12 for none. -/
def flagOf : Instr → Nat
  | .kadd _ _ _ _ fp | .kmul _ _ _ _ fp | .kmad _ _ _ _ fp | .ktrn _ _ _ fp | .kchol _ _ _ fp | .kldl _ _ _ fp
  | .klu _ _ _ _ fp | .ksolve _ _ _ _ _ _ fp | .kdet _ _ _ fp | .kinv _ _ _ fp => fp
  | _ => 12

/-- Sets the flag predicate in lanes. -/
def Group.flagLanes (g : Group) (i : Instr) (ls v : BitVec 32) : Group :=
  if flagOf i < 12 then g.setPreds (flagOf i) ls v else g

/-- Lanes whose own operands fail: a pivot that is no permutation (KSOLVE.lu), an indexed KDET pair (R183, R185, R418, R421). -/
def Group.laneBad (g : Group) (i : Instr) (act : BitVec 32) : BitVec 32 :=
  match i with
  | .ksolve _ .lu _ ka _ (some d) _ =>
    maskOf fun l => lane act l && !pivotOk (viewRows (g.view ka)) (g.vreg (g.regAt d l) l).toNat
  | .kdet _ (.idx k off) ka _ =>
    maskOf fun l => lane act l && viewWide (g.view ka) && !g.idxOk k off 2 true l
  | _ => 0

/-- A KDET of f64 elements names an even pair below the v count. -/
def Group.detBad (g : Group) : Instr → Bool
  | .kdet _ (.v n) ka _ => viewV (g.view ka) && viewWide (g.view ka) && (n % 2 == 1 || decide (g.vcount < n + 2))
  | _ => false

/-- A small-matrix word at issue: views and pivots are checked (IDXRANGE), then its engine part runs with the shapes of its
issue. A helper lane writes nothing where a view fails, zero where its own operand does (R184, R185), and gets a false flag. -/
def State.kWord (s : State) (i : Instr) (g : Guard) : Host.Outcome State Fault Refusal :=
  s.word i g fun is s1 =>
    if is.g.detBad i then s1.illegal is.gid is.i is.act
    else
      let bad := if is.g.viewsBad i then is.act else is.g.laneBad i is.act
      let real := bad &&& ~~~is.g.helper
      let start (is : Issue) (s : State) : State :=
        if is.act = 0 then s.goOn is
        else
          let w (x : BitVec 64) (k : Nat) : BitVec 32 := BitVec.ofNat 32 (x.toNat / 2 ^ (32 * k))
          let x : EngineExec := { clause := is.e.clause, word := is.e.word, raw := (encode i).getD 0, lanes := is.act,
                                  map := [w is.g.kshpa 0, w is.g.kshpa 1, w is.g.kshpb 0, w is.g.kshpb 1],
                                  base := ((kReg i).map fun d => is.g.dstRegs d is.act).getD [] }
          s.modGroup is.gid fun h => { h with kwords := h.kwords ++ [x] }
      let r := if real = 0 then (s1, false) else s1.faultAt is.gid is.i 3 real none
      if r.2 then r.1
      else
        let s2 := r.1.modGroup is.gid fun h =>
          if is.g.viewsBad i then h.flagLanes i (bad &&& is.g.helper) 0 else h.zeroDest i (bad &&& is.g.helper)
        match s2.survivors is bad with
        | none => s2
        | some is' => start is' s2

/-! ### The words -/

/-- KSHAPE (R420): the value of a view. -/
def viewWord (base rows cols : Nat) (wide : Bool) : Nat :=
  base % 256 * 2 ^ 8 + rows % 8 * 2 ^ 5 + cols % 8 * 2 ^ 2 + (if wide then 2 else 0) + 1
/-- Replaces a view in KSHPA or KSHPB. -/
def Group.setView (g : Group) (k x : Nat) : Group :=
  let put (r : BitVec 64) : BitVec 64 :=
    BitVec.ofNat 64 (r.toNat - bits r.toNat (16 * (k % 4)) 16 * 2 ^ (16 * (k % 4)) + x % 2 ^ 16 * 2 ^ (16 * (k % 4)))
  if k < 4 then { g with kshpa := put g.kshpa } else { g with kshpb := put g.kshpb }
def execKshape (g : Guard) (wide : Bool) (kd : Nat) (base : Src) (rows cols : Nat) (s : State) :
    Host.Outcome State Fault Refusal :=
  s.word (.kshape g wide kd base rows cols) g fun is s1 =>
    (s1.modGroup is.gid fun h => h.setView kd (viewWord (s.opnd is false base is.low) rows cols wide)).goOn is
def execKshapeClr (g : Guard) (kd : Nat) (s : State) : Host.Outcome State Fault Refusal :=
  s.word (.kshapeClr g kd) g fun is s1 =>
    (s1.modGroup is.gid fun h => h.setView kd (h.view kd - h.view kd % 2)).goOn is
def execKzero (g : Guard) (kd : Nat) (s : State) : Host.Outcome State Fault Refusal := s.kWord (.kzero g kd) g
def execKeye (g : Guard) (kd : Nat) (s : State) : Host.Outcome State Fault Refusal := s.kWord (.keye g kd) g
def execKadd (g : Guard) (kd ka kb fp : Nat) (s : State) : Host.Outcome State Fault Refusal := s.kWord (.kadd g kd ka kb fp) g
def execKmul (g : Guard) (kd ka kb fp : Nat) (s : State) : Host.Outcome State Fault Refusal := s.kWord (.kmul g kd ka kb fp) g
def execKmad (g : Guard) (kd ka kb fp : Nat) (s : State) : Host.Outcome State Fault Refusal := s.kWord (.kmad g kd ka kb fp) g
def execKtrn (g : Guard) (kd ka fp : Nat) (s : State) : Host.Outcome State Fault Refusal := s.kWord (.ktrn g kd ka fp) g
def execKchol (g : Guard) (kd ka fp : Nat) (s : State) : Host.Outcome State Fault Refusal := s.kWord (.kchol g kd ka fp) g
def execKldl (g : Guard) (kd ka fp : Nat) (s : State) : Host.Outcome State Fault Refusal := s.kWord (.kldl g kd ka fp) g
def execKlu (g : Guard) (kd ka : Nat) (piv : Dst) (fp : Nat) (s : State) : Host.Outcome State Fault Refusal :=
  s.kWord (.klu g kd ka piv fp) g
def execKsolve (g : Guard) (f : Factor) (kd ka kb : Nat) (piv : Option Dst) (fp : Nat) (s : State) :
    Host.Outcome State Fault Refusal := s.kWord (.ksolve g f kd ka kb piv fp) g
def execKdet (g : Guard) (d : Dst) (ka fp : Nat) (s : State) : Host.Outcome State Fault Refusal := s.kWord (.kdet g d ka fp) g
def execKinv (g : Guard) (kd ka fp : Nat) (s : State) : Host.Outcome State Fault Refusal := s.kWord (.kinv g kd ka fp) g

/-! ### Results -/

/-- What a lane's word writes: a view's matrix, and a register. -/
structure KOut where
  view : Option Mat
  reg : Option Nat
  deriving DecidableEq, Repr

/-- The elements of an n × n matrix on or below the diagonal. -/
def lowerOf (n : Nat) (a : Mat) : List Nat :=
  ((List.range n).map fun i => (List.range (i + 1)).map fun j => a.at n i j).flatten

/-- The inputs a word reads in a lane, for NANIN (R275). -/
def Group.kInputs (g : Group) (i : Instr) (l : Nat) : List Nat :=
  let m (j : Nat) : Mat := g.viewMat j l
  let n (j : Nat) : Nat := viewRows (g.view j)
  match i with
  | .kadd _ _ ka kb _ | .kmul _ _ ka kb _ => m ka ++ m kb
  | .kmad _ kd ka kb _ => m ka ++ m kb ++ m kd
  | .ktrn _ _ ka _ | .klu _ _ ka _ _ | .kdet _ _ ka _ | .kinv _ _ ka _ => m ka
  | .kchol _ _ ka _ | .kldl _ _ ka _ => lowerOf (n ka) (m ka)
  | .ksolve _ .lu _ ka kb _ _ => m ka ++ m kb
  | .ksolve _ _ _ ka kb _ _ => lowerOf (n ka) (m ka) ++ m kb
  | _ => []

/-- The algorithm of a word in a lane, where its register operand names r0. -/
def Group.kLane (g : Group) (f : Fmt) (i : Instr) (l r0 : Nat) : KRun KOut :=
  let m (j : Nat) : Mat := g.viewMat j l
  let r (j : Nat) : Nat := viewRows (g.view j)
  let c (j : Nat) : Nat := viewCols (g.view j)
  let view (x : KRun Mat) : KRun KOut := do return { view := some (← x), reg := none }
  match i with
  | .kzero _ kd => view (pure (Mat.build (r kd) (c kd) fun _ _ => 0))
  | .keye _ kd => view (pure (Mat.build (r kd) (c kd) fun a b => if a = b then kOne f else 0))
  | .kadd _ _ ka kb _ => view (Mat.buildM (r ka) (c ka) fun a b => kAdd f ((m ka).at (c ka) a b) ((m kb).at (c kb) a b))
  | .kmul _ _ ka kb _ => view (kMulAdd f (r ka) (c ka) (c kb) (m ka) (m kb) fun _ _ => none)
  | .kmad _ kd ka kb _ => view (kMulAdd f (r ka) (c ka) (c kb) (m ka) (m kb) fun a b => some ((m kd).at (c kd) a b))
  | .ktrn _ _ ka _ => view (pure (Mat.build (c ka) (r ka) fun a b => (m ka).at (c ka) b a))
  | .kchol _ _ ka _ => view (kChol f (r ka) (m ka))
  | .kldl _ _ ka _ => view (kLdl f (r ka) (m ka))
  | .klu _ _ ka _ _ => do
    let x ← kLu f (r ka) (m ka)
    return { view := some (x.mat (r ka)), reg := some x.pivot }
  | .ksolve _ k _ ka kb p _ =>
    let piv := match p with | some _ => (g.vreg r0 l).toNat | none => 0
    view (kSolve f k (r ka) (c kb) (m ka) (m kb) ((List.range (r ka)).map fun a => bits piv (3 * a) 3))
  | .kdet _ _ ka _ => do return { view := none, reg := some (← kDet f (r ka) (m ka)) }
  | .kinv _ _ ka _ => view (kInv f (r ka) (m ka))
  | _ => pure { view := none, reg := none }

/-- The destination view and register of a word. -/
def kDest : Instr → Option Nat × Option Dst
  | .klu _ kd _ p _ => (some kd, some p)
  | .kdet _ d _ _ => (none, some d)
  | i => ((kViews i).2.head?, none)

/-- A lane's results, flags and KSTAT; answers whether a flag was raised. -/
def Group.kApply (g : Group) (wide : Bool) (i : Instr) (old : Group) (l r0 : Nat) : Group × Bool :=
  let f := if wide then Fmt.f64 else Fmt.f32
  let nan := (old.kInputs i l).any fun x => (f.read x).isNan || (f.read x).isInf
  let o := old.kLane f i l r0 { fl := 0, ev := if nan then [(4, 0)] else [] }
  let d := kDest i
  let g1 := match d.1, o.1.view with
    | some kd, some m => g.putView (old.view kd) l (m.map (kCanon f))
    | _, _ => g
  let g2 := match d.2, o.1.reg with
    | some _, some x => (match i with
      | .kdet _ _ _ _ => g1.writeV wide r0 l (kCanon f x)
      | _ => g1.writeV false r0 l x)
    | _, _ => g1
  let fl := o.2.ev.foldl (fun a x => a ||| x.1) 0
  let step := (o.2.ev.head?.map (·.2)).getD 0
  ((g2.setKst l (kstatRaise (g2.kst l) fl step)).orFlags l o.2.fl, fl != 0)

/-- KWORD_COMPLETE (R422): the oldest small-matrix word of the group completes: results, flags and the flag predicate are written at once, and the entry goes on. DEDUCED, unsafe: log entry 48. -/
def execKwordComplete (gid : Nat) (s : State) : Host.Outcome State Fault Refusal :=
  match s.group? gid with
  | none => .refused (.notPending "KWORD_COMPLETE")
  | some g =>
    match g.kwords.head?, (g.kwords.head?.bind fun x => wordOf x.raw) with
    | some x, some i =>
      let old := g.shaped x.map
      let wide := viewWide (old.view (((kViews i).1 ++ (kViews i).2).headD 0))
      let r := (lanes x.lanes).foldl (fun (acc : Group × BitVec 32) l =>
        let y := acc.1.kApply wide i old l (SMap.get 0 x.base l - 1)
        (y.1, if y.2 then acc.2 ||| bit l else acc.2)) (g, 0)
      let g1 := r.1.flagLanes i x.lanes r.2
      .next ((s.setGroup gid { g1 with kwords := g.kwords.drop 1 }).entryOn gid x.clause x.word x.lanes)
    | _, _ => .refused (.notPending "KWORD_COMPLETE")

end Sys2Proof.Machine
end

