-- ==== Sys2Proof/Machine/Try.lean ====
section
/-! DEFINITION. Machine/Try.lean: what a word would do if it issued now. A word that no rule holds changes its group, its
block or its core's store buffer; the choice of what issues (R160) looks at nothing else. -/

namespace Sys2Proof.Machine

/-- The meaning of an instruction word, by the same meanings as the dispatch; an event is no word. DEDUCED, safe: log entry 88. -/
def State.attempt (s : State) (i : Instr) : Host.Outcome State Fault Refusal :=
  match i with
  | .nop => execNop s
  | .iadd g t d a b => execIadd g t d a b s
  | .isub g t d a b => execIsub g t d a b s
  | .iadds g t d a b => execIadds g t d a b s
  | .iaddc g wide d a b cin cout => execIaddc g wide d a b cin cout s
  | .imul g t d a b => execImul g t d a b s
  | .imulhi g t d a b => execImulhi g t d a b s
  | .imad g t d a b c => execImad g t d a b c s
  | .imadw g t d a b c => execImadw g t d a b c s
  | .idiv g t d a b => execIdiv g t d a b s
  | .irem g t d a b => execIrem g t d a b s
  | .imin g t d a b => execImin g t d a b s
  | .imax g t d a b => execImax g t d a b s
  | .iabs g t d a => execIabs g t d a s
  | .ineg g t d a => execIneg g t d a s
  | .and g wide d a b => execAnd g wide d a b s
  | .or g wide d a b => execOr g wide d a b s
  | .xor g wide d a b => execXor g wide d a b s
  | .andn g wide d a b => execAndn g wide d a b s
  | .not g wide d a => execNot g wide d a s
  | .iaddImm g t d a n => execIaddImm g t d a n s
  | .andImm g wide d a n => execAndImm g wide d a n s
  | .orImm g wide d a n => execOrImm g wide d a n s
  | .xorImm g wide d a n => execXorImm g wide d a n s
  | .shl g wide d a b => execShl g wide d a b s
  | .shr g wide d a b => execShr g wide d a b s
  | .sar g wide d a b => execSar g wide d a b s
  | .rot g wide d a b => execRot g wide d a b s
  | .fsh g wide d lo hi n => execFsh g wide d lo hi n s
  | .popc g wide d a => execPopc g wide d a s
  | .clz g wide d a => execClz g wide d a s
  | .ctz g wide d a => execCtz g wide d a s
  | .brev g wide d a => execBrev g wide d a s
  | .bfx g t d a ctl => execBfx g t d a ctl s
  | .bfi g wide d base ins ctl => execBfi g wide d base ins ctl s
  | .prmt g d a b sel => execPrmt g d a b sel s
  | .lea g t d a b sh => execLea g t d a b sh s
  | .icmp g t pd a b cc => execIcmp g t pd a b cc s
  | .icmpImm g t pd a cc n => execIcmpImm g t pd a cc n s
  | .sel g wide d a b pc => execSel g wide d a b pc s
  | .fadd g t d a b => execFadd g t d a b s
  | .fsub g t d a b => execFsub g t d a b s
  | .fmul g t d a b => execFmul g t d a b s
  | .ffma g t d a b c => execFfma g t d a b c s
  | .ffms g t d a b c => execFfms g t d a b c s
  | .fscale g t d a n => execFscale g t d a n s
  | .fdiv g t d a b => execFdiv g t d a b s
  | .fsqrt g t d a => execFsqrt g t d a s
  | .fmin g t d a b => execFmin g t d a b s
  | .fmax g t d a b => execFmax g t d a b s
  | .fminp g t d a b => execFminp g t d a b s
  | .fmaxp g t d a b => execFmaxp g t d a b s
  | .fabs g t d a => execFabs g t d a s
  | .fneg g t d a => execFneg g t d a s
  | .fcmp g t pd a b cc => execFcmp g t pd a b cc s
  | .fclass g t d a => execFclass g t d a s
  | .frcp g d a => execFrcp g d a s
  | .frsq g d a => execFrsq g d a s
  | .fexp2 g d a => execFexp2 g d a s
  | .flog2 g d a => execFlog2 g d a s
  | .fsin g d a => execFsin g d a s
  | .fcos g d a => execFcos g d a s
  | .ftanh g d a => execFtanh g d a s
  | .frnd g t d a m => execFrnd g t d a m s
  | .cvt g m nosat dt st d a => execCvt g m nosat dt st d a s
  | .pack g e d a b nosat h => execPack g e d a b nosat h s
  | .unpk g e d a q => execUnpk g e d a q s
  | .mxscale g e d a => execMxscale g e d a s
  | .mxq g e d a scale nosat => execMxq g e d a scale nosat s
  | .mxdq g e d a scale => execMxdq g e d a scale s
  | .hfma2 g bf d a b c => execHfma2 g bf d a b c s
  | .idot4 g sg sat d a b c => execIdot4 g sg sat d a b c s
  | .fdot2 g bf d a b c => execFdot2 g bf d a b c s
  | .plop g pd pa pb pc lut => execPlop g pd pa pb pc lut s
  | .ppack g d q => execPpack g d q s
  | .punpack g a q => execPunpack g a q s
  | .pmov g pd ps => execPmov g pd ps s
  | .pmovBit g pd a b => execPmovBit g pd a b s
  | .mov g wide d a => execMov g wide d a s
  | .movToIndex g k a => execMovToIndex g k a s
  | .movFromIndex g d k => execMovFromIndex g d k s
  | .movi g d m imm => execMovi g d m imm s
  | .bcast g vd sa n => execBcast g vd sa n s
  | .lanerd g wide sd va lane => execLanerd g wide sd va lane s
  | .lanewr g wide vd a lane => execLanewr g wide vd a lane s
  | .setxw g k lo hi => execSetxw g k lo hi s
  | .qswz g wide d a pat => execQswz g wide d a pat s
  | .qdiff g m d a => execQdiff g m d a s
  | .shflPick g wide d a b pc span => execShflPick g wide d a b pc span s
  | .shflRot g wide d a b pc span => execShflRot g wide d a b pc span s
  | .shflSlide g wide d a b pc span => execShflSlide g wide d a b pc span s
  | .shflFlip g wide d a b pc span => execShflFlip g wide d a b pc span s
  | .voteMask g d ps m pc => execVoteMask g d ps m pc s
  | .voteCount g d ps m pc => execVoteCount g d ps m pc s
  | .voteLead g d ps m pc => execVoteLead g d ps m pc s
  | .voteAgree g d ps m pc => execVoteAgree g d ps m pc s
  | .matchLead g wide d a m pc => execMatchLead g wide d a m pc s
  | .matchMask g wide d a m pc => execMatchMask g wide d a m pc s
  | .redux g op d a m pc => execRedux g op d a m pc s
  | .scan g op d a m seg => execScan g op d a m seg s
  | .join g m => execJoin g m s
  | .ld g t d sp base ord cache off => execLd g t d sp base ord cache off s
  | .st g t a sp base ord off => execSt g t a sp base ord off s
  | .ldc g run sd sp base ord cache off => execLdc g run sd sp base ord cache off s
  | .pref g sp base cache off => execPref g sp base cache off s
  | .cctlDrop g sp base off => execCctlDrop g sp base off s
  | .cctlDrop4k g sp base off => execCctlDrop4k g sp base off s
  | .cctlRenew g sp base off => execCctlRenew g sp base off s
  | .xclr g base rel off => execXclr g base rel off s
  | .memopFill g rec slot => execMemopFill g rec slot s
  | .memopAxpy g t rec slot => execMemopAxpy g t rec slot s
  | .memopAdd g t rec slot => execMemopAdd g t rec slot s
  | .memopMul g t rec slot => execMemopMul g t rec slot s
  | .memopReduce g wide rec slot => execMemopReduce g wide rec slot s
  | .fence g scope ord => execFence g scope ord s
  | .flsig g slot => execFlsig g slot s
  | .watch g slot base off => execWatch g slot base off s
  | .atomAdd g t v sp base ord off => execAtomAdd g t v sp base ord off s
  | .atomMin g t v sp base ord off => execAtomMin g t v sp base ord off s
  | .atomMax g t v sp base ord off => execAtomMax g t v sp base ord off s
  | .atomAnd g t v sp base ord off => execAtomAnd g t v sp base ord off s
  | .atomOr g t v sp base ord off => execAtomOr g t v sp base ord off s
  | .atomXor g t v sp base ord off => execAtomXor g t v sp base ord off s
  | .atomExch g t v sp base ord off => execAtomExch g t v sp base ord off s
  | .atomCas g t v sp base ord off => execAtomCas g t v sp base ord off s
  | .atomFadd g wide v sp base ord off => execAtomFadd g wide v sp base ord off s
  | .atomXadd g wide v base ord off => execAtomXadd g wide v base ord off s
  | .redAdd g t a sp base ord off => execRedAdd g t a sp base ord off s
  | .redMin g t a sp base ord off => execRedMin g t a sp base ord off s
  | .redMax g t a sp base ord off => execRedMax g t a sp base ord off s
  | .redAnd g t a sp base ord off => execRedAnd g t a sp base ord off s
  | .redOr g t a sp base ord off => execRedOr g t a sp base ord off s
  | .redXor g t a sp base ord off => execRedXor g t a sp base ord off s
  | .redFadd g wide a sp base ord off => execRedFadd g wide a sp base ord off s
  | .redXadd g wide a base ord off => execRedXadd g wide a base ord off s
  | .binit g name off => execBinit g name off s
  | .arrive g rlx name n => execArrive g rlx name n s
  | .arriveAddress g rlx peer a n => execArriveAddress g rlx peer a n s
  | .expectOnce g name n => execExpectOnce g name n s
  | .expectEach g name n => execExpectEach g name n s
  | .btestPa g d name => execBtestPa g d name s
  | .btestPb g d name => execBtestPb g d name s
  | .btestAll g d name => execBtestAll g d name s
  | .btestPassed g pd name t => execBtestPassed g pd name t s
  | .binval g name => execBinval g name s
  | .cpy g rec slot toGlobal => execCpy g rec slot toGlobal s
  | .cpym g rec slot mask spread => execCpym g rec slot mask spread s
  | .cpyr g rec slot => execCpyr g rec slot s
  | .cpyg g rec slot toGlobal => execCpyg g rec slot toGlobal s
  | .cpyx g slot => execCpyx g slot s
  | .acfg g tile n first => execAcfg g tile n first s
  | .azero g tile ver slot => execAzero g tile ver slot s
  | .afence g => execAfence g s
  | .mma g at_ tile ver reuse a bmap mode slot => execMma g at_ tile ver reuse a bmap mode slot s
  | .mmas g at_ tile ver reuse a bmap mode slot => execMmas g at_ tile ver reuse a bmap mode slot s
  | .ald g tile ver map slot => execAld g tile ver map slot s
  | .ast g tile ver now map slot => execAst g tile ver now map slot s
  | .ard g tile ver now d c0 n => execArd g tile ver now d c0 n s
  | .awr g tile ver a c0 n => execAwr g tile ver a c0 n s
  | .kshape g wide kd base rows cols => execKshape g wide kd base rows cols s
  | .kshapeClr g kd => execKshapeClr g kd s
  | .kzero g kd => execKzero g kd s
  | .keye g kd => execKeye g kd s
  | .kadd g kd ka kb fp => execKadd g kd ka kb fp s
  | .kmul g kd ka kb fp => execKmul g kd ka kb fp s
  | .kmad g kd ka kb fp => execKmad g kd ka kb fp s
  | .ktrn g kd ka fp => execKtrn g kd ka fp s
  | .kchol g kd ka fp => execKchol g kd ka fp s
  | .kldl g kd ka fp => execKldl g kd ka fp s
  | .klu g kd ka piv fp => execKlu g kd ka piv fp s
  | .ksolve g f kd ka kb piv fp => execKsolve g f kd ka kb piv fp s
  | .kdet g d ka fp => execKdet g d ka fp s
  | .kinv g kd ka fp => execKinv g kd ka fp s
  | .bra g disp hint => execBra g disp hint s
  | .brx g t => execBrx g t s
  | .call g disp => execCall g disp s
  | .callx g t => execCallx g t s
  | .ret g t => execRet g t s
  | .exit g => execExit g s
  | .yield g => execYield g s
  | .launch g sd sa pd => execLaunch g sd sa pd s
  | .migrate g pd a => execMigrate g pd a s
  | .trap g code => execTrap g code s
  | .bkpt g => execBkpt g s
  | .srd g d num => execSrd g d num s
  | .swr g a num => execSwr g a num s
  | .ctxsaveCopy g => execCtxsaveCopy g s
  | .ctxsaveAcc g => execCtxsaveAcc g s
  | .ctxsaveGrp g => execCtxsaveGrp g s
  | .ctxsaveBlk g => execCtxsaveBlk g s
  | .ctxrestBlk g => execCtxrestBlk g s
  | .ctxrestGrp g => execCtxrestGrp g s
  | .ctxrestAcc g => execCtxrestAcc g s
  | .ctxrestCopy g => execCtxrestCopy g s
  | .eret g => execEret g s
  | .hostint g => execHostint g s
  | .pmark g a => execPmark g a s
  | .logw g sN tag => execLogw g sN tag s
  | _ => .refused .noIssuer

end Sys2Proof.Machine
end

