-- ==== Sys2Proof/Machine/Select.lean ====
section
/-! DEFINITION. Machine/Select.lean: what issues: ISSUE_SELECT with the lane-cycle record, BRANCH_RESOLVE,
JOIN_WAIT_SATISFIED, TRAP_ENTRY and SAMPLE_TICK (R78, R158, R160 to R162, R169, R172, R179, R288, R289, R291, R431, R432). -/

namespace Sys2Proof.Machine

/-! ### Readiness (R160) -/

/-- The platform that serves a group: by its slot, or by its landing slot (R150). -/
def Group.platform (g : Group) : Nat :=
  match g.landed with
  | some (_, i) => 2 * i
  | none => g.slot % 4

/-- Groups that a platform of a core serves. -/
def State.served (s : State) (c p : Nat) : List (Nat × Group) :=
  (SMap.entries s.groups).filter fun x =>
    match s.block? x.2.bid with
    | some b => b.phase != .saved && x.2.coreOf b == c && x.2.platform == p
    | none => false

/-- Whether executing a word made anything of its group move: its own state or its block's commands. -/
def State.moved (s t : State) (gid : Nat) : Bool :=
  match s.group? gid with
  | none => false
  | some g =>
    decide (t.group? gid ≠ some g) || decide ((t.block? g.bid).map (·.cmds) ≠ (s.block? g.bid).map (·.cmds))

/-- The state after the next word of entry i has issued; none while some rule holds it. -/
def State.tryWord (s : State) (gid i : Nat) : Option State :=
  match s.comeTo gid i with
  | .done t => if s.moved t gid then some t else none
  | .run t w =>
    match ({ t with cur := some (gid, i) } : State).attempt w with
    | .next u => if s.moved u gid then some u else none
    | _ => none

/-- Whether the next word of entry i can issue: no rule holds it. -/
def State.wordReady (s : State) (gid i : Nat) : Bool := (s.tryWord gid i).isSome

/-- The second word of a pair can issue after the first, in the same cycle; a first word that ends its entry or traps takes it along. -/
def State.secondReady (s : State) (gid i : Nat) (e : Entry) : Bool :=
  match s.tryWord gid i with
  | none => false
  | some u =>
    match (u.group? gid).bind (·.entries[i]?) with
    | some f => f.clause != e.clause || f.word != e.word + 1 || u.wordReady gid i
    | none => true

/-- A clause where a speculative entry would fuse (R167). -/
def Group.wouldFuse (g : Group) (i : Nat) (e : Entry) : Bool :=
  e.word == 0 && g.entries.zipIdx.any fun f => f.2 != i && f.1.word == 0 && f.1.clause == e.clause &&
    (hConv ((e.code.getD []).headD 0).toNat || f.1.parent == e.parent)

/-- Entry i is ready: its next word can issue, and both words of a pair can (R160, R162). A speculative entry waits at a
word that a comparator would hit (R293). -/
def State.entryReady (s : State) (gid i : Nat) : Bool :=
  match (s.group? gid).bind fun g => (g.entries[i]?).map fun e => (g, e) with
  | none => false
  | some (g, e) =>
    let ctx := ((s.block? g.bid).map (·.ctx)).getD 0
    !(e.spec && (g.wouldFuse i e || (s.comparatorOf ctx g e).isSome)) && s.wordReady gid i && (!e.pairAt e.word || s.secondReady gid i e)

/-- The share of cycles in which a die's issue is gated (R39). -/
def State.gated (s : State) (c : Nat) : Bool := decide (s.now % 16 < SMap.get 0 s.guard.gate (dieOf c))

/-- Whether a group's surroundings let it issue: no pending stop, no MMA to resume first (R295), its freight state, its
function's reset (R172, R87). -/
def State.groupOpen (s : State) (c : Nat) (g : Group) (b : Block) : Bool :=
  g.fw || (b.stopPending.isNone && !bitAt g.mres.toNat 63 && (b.cls != 2 || (s.core c).freight == .open_)
    && (match s.ctx? b.ctx with | some x => (s.func x.fn).flr == 0 | none => false))

/-- The ready entries of a group. -/
def State.readyEntries (s : State) (c gid : Nat) : List Nat :=
  match s.group? gid with
  | none => []
  | some g =>
    match s.block? g.bid with
    | none => []
    | some b =>
      if s.groupOpen c g b && g.runs then
        (List.range g.entries.length).filter fun i => g.mayAct i && s.entryReady gid i
      else []

/-! ### Choosing entries (R162) -/

/-- The most populous of some entries, the lower index at a tie. -/
def Group.mostOf (g : Group) (is : List Nat) : Option Nat :=
  is.foldl (fun m i =>
    match m with
    | none => some i
    | some j => if count ((g.entries[j]?.map (·.mask)).getD 0) < count ((g.entries[i]?.map (·.mask)).getD 0) then some i
                else some j) none

/-- A word of the lane-select class: majors 0x01 to 0x65 with no s destination. -/
def laneSelect (w : BitVec 64) : Bool :=
  let m := (unpack w.toNat).major
  decide (1 ≤ m) && decide (m ≤ 0x65) &&
    (match wordOf w with | some i => !(usesAll i).wr.any Run.isS | none => true)

/-- The next word of an entry raises ILLEGAL or IDXRANGE. -/
def Group.faults (g : Group) (e : Entry) : Bool :=
  let w := e.wordAt e.word
  g.rawIllegal e w || (wordOf w).any fun i => g.badLanes i (g.rawActive e w) != 0

/-- The entries that issue, with a flag for a pair: of two, the one at the later clause is queued first, so that no entry
moves onto the other before that one has issued; but one whose word faults comes last, so that the other's word executes (R319), and of two
such the lower index first. -/
def Group.chooseEntries (g : Group) (ready : List Nat) : List Nat × Bool :=
  let at_ (i : Nat) : Entry := g.entries.getD i (Entry.at 0 0 0 0)
  let next (i : Nat) : BitVec 64 := (at_ i).wordAt (at_ i).word
  match (ready.find? fun i => 1024 ≤ (at_ i).idle).or (g.mostOf ready) with
  | none => ([], false)
  | some a =>
    if (at_ a).pairAt (at_ a).word then ([a], true)
    else match g.mostOf (ready.filter (· != a)) with
      | none => ([a], false)
      | some b =>
        if (at_ b).pairAt (at_ b).word || !laneSelect (next a) || !laneSelect (next b) then ([a], false)
        else
          let fa := g.faults (at_ a)
          let fb := g.faults (at_ b)
          let aFirst := if fa && fb then decide (a < b) else if fa != fb then fb else !decide ((at_ a).clause < (at_ b).clause)
          (if aFirst then [a, b] else [b, a], false)

/-! ### The lane-cycle record (R288, R289) -/

def Context.lcrOn (cx : Context) : Bool := cx.lbBase != 0 && cx.lbFlags.getLsbD 1

/-- The counters of a context's row, without the class. -/
def lcrCell (ctx row : Nat) : Nat := (ctx * 17 + row) * 6

/-- The lowest bin that holds a clause. -/
def Context.binOf (cx : Context) (clause : Nat) : Option Nat :=
  cx.bins.findIdx? fun b => decide (b.1 ≤ clause) && decide (clause < b.2)

def Core.lcrAdd (k : Core) (cell cls n : Nat) : Core :=
  { k with lcr := SMap.set 0 k.lcr (cell + cls - 1) ((SMap.get 0 k.lcr (cell + cls - 1) + n) % 2 ^ 32) }

/-- Counts lanes of an entry in a class: in the bin of its clause and in the totals (firmware stands in no bin); issues that may be squashed
are remembered. -/
def Core.lcrEntry (k : Core) (cx : Context) (ctx gid : Nat) (g : Group) (e : Entry) (cls : Nat) (ls : BitVec 32) : Core :=
  if ls = 0 then k
  else
    ((if g.fw then [] else (cx.binOf e.clause).toList) ++ [16]).foldl (fun (q : Core) row =>
      let q1 := q.lcrAdd (lcrCell ctx row) cls (count ls)
      let x : LcrIssue := { gid := gid, lanes := ls, row := lcrCell ctx row, cls := cls,
                            ident := if e.spec then e.parent else 0, line := g.lineSpec.isSome }
      if cls != 2 && (e.spec || g.lineSpec.isSome) then { q1 with lcrLog := q1.lcrLog ++ [x] }
      else q1) k

/-- One issue cycle of a group: every lane adds 1 to one class. `act` gives the active set of an issuing entry. -/
def Core.lcrIssue (k : Core) (cx : Context) (ctx gid : Nat) (g : Group) (act : Nat → Option (BitVec 32)) : Core :=
  let here := if g.fw then g.present &&& ~~~g.exited &&& ~~~g.helper else ~~~g.helper
  let k1 := k.lcrAdd (lcrCell ctx 16) 4 (32 - count (g.live &&& here))
  g.entries.zipIdx.foldl (fun (q : Core) f =>
    match act f.2 with
    | none => q.lcrEntry cx ctx gid g f.1 2 (f.1.mask &&& here)
    | some a =>
      (q.lcrEntry cx ctx gid g f.1 1 (f.1.mask &&& here &&& a)).lcrEntry cx ctx gid g f.1 3 (f.1.mask &&& here &&& ~~~a)) k1

/-- Each cycle in which no group issues on a platform adds 32 to class 5 of every context with a group served there. -/
def State.lcrIdle (s : State) (c p n : Nat) : State :=
  (((s.served c p).filterMap fun x => (s.block? x.2.bid).map (·.ctx)).eraseDups).foldl (fun t x =>
    match t.ctx? x with
    | some cx => if cx.lcrOn then t.modCore c fun k => k.lcrAdd (lcrCell x 16) 5 (32 * n) else t
    | none => t) s

/-- Cycles in which no platform of the device issues. -/
def State.lcrPass (s : State) (n : Nat) : State :=
  if n = 0 then s else s.cores.foldl (fun t c => (List.range 4).foldl (fun t p => t.lcrIdle c.1 p n) t) s

/-! ### Choosing a group (R78, R161) -/

/-- A candidate: group key, class, function and ready entries. -/
structure Cand where
  gid : Nat
  g : Group
  fn : Nat
  ctx : Nat
  ready : List Nat
  deriving DecidableEq, Repr

/-- The calendar of R78: the function chosen and the credits after. -/
def calendar (iw : Nat → Nat) (credits : SMap Int) (fs : List Nat) : Option Nat × SMap Int :=
  let total : Nat := (fs.map iw).sum
  let up := fs.foldl (fun (m : SMap Int) f => SMap.set 0 m f (SMap.get 0 credits f + (iw f : Int))) []
  let pick := fs.foldl (fun (m : Option Nat) f =>
    match m with
    | none => some f
    | some h => if SMap.get 0 up h < SMap.get 0 up f || (SMap.get 0 up h == SMap.get 0 up f && decide (f < h)) then some f
                else some h) none
  match pick with
  | none => (none, [])
  | some f => (some f, SMap.set 0 up f (SMap.get 0 up f - (total : Int)))

/-- The choice of a platform: class, function, oldest last issue, lower slot. -/
def State.choose (s : State) (st : Platform) (cs : List Cand) : Option Cand × SMap Int :=
  let cls := (cs.map (·.g.cls)).foldl min 4
  let top := cs.filter fun x => x.g.cls == cls
  let r := calendar (fun f => (s.func f).iw) st.credits ((top.map (·.fn)).eraseDups)
  match r.1 with
  | none => (none, r.2)
  | some f =>
    ((top.filter (·.fn == f)).foldl (fun (m : Option Cand) x =>
      match m with
      | none => some x
      | some y => if x.g.lastIssue < y.g.lastIssue || (x.g.lastIssue == y.g.lastIssue && decide (x.g.slot < y.g.slot))
                  then some x else some y) none, r.2)

/-- The held group issues again unless R161 asks for a choice. -/
def Platform.keeps (st : Platform) (now : Nat) (cs : List Cand) : Option Cand :=
  match st.held.bind fun h => cs.find? (·.gid == h) with
  | none => none
  | some x =>
    let clauseOpen := x.ready.any fun i => ((x.g.entries[i]?.map (·.mask)).getD 0) &&& st.ended != 0
    let higher := cs.any fun y => decide (y.g.cls < x.g.cls)
    if 64 ≤ now - st.since || (st.ended != 0 && (!clauseOpen || higher)) then none else some x

/-! ### ISSUE_SELECT (R161, R162) -/

/-- The entries of the chosen group are queued, idle counts move, and the lane-cycle record counts the cycle. -/
def State.issue (s : State) (c p : Nat) (st : Platform) (x : Cand) : State :=
  let pick := x.g.chooseEntries x.ready
  let at_ (i : Nat) : Entry := x.g.entries.getD i (Entry.at 0 0 0 0)
  let act (i : Nat) : Option (BitVec 32) :=
    if pick.1.contains i then
      let e := at_ i
      let a := x.g.rawActive e (e.wordAt e.word)
      some (if pick.2 then a ||| x.g.rawActive e (e.wordAt (e.word + 1)) else a)
    else none
  let e := at_ (pick.1.headD 0)
  let q := pick.1.map fun i => (x.gid, (lowest (at_ i).mask).getD 0)
  let g1 : Group := { x.g with
    lastIssue := s.now + 1
    entries := x.g.entries.zipIdx.map fun f =>
      { f.1 with idle := if pick.1.contains f.2 then 0 else min 1024 (f.1.idle + 1) } }
  let st1 : Platform := { st with ended := 0, issued := some (s.now, x.gid, e.clause, e.word) }
  let s1 := (s.setGroup x.gid g1).modCore c fun k =>
    { k with platforms := SMap.set Platform.reset k.platforms p st1
             expressAt := if x.g.cls = 0 then s.now else k.expressAt }
  let s2 : State := { s1 with issueQ := if pick.2 then q ++ q else q }
  match s.ctx? x.ctx with
  | some cx => if cx.lcrOn then s2.modCore c fun k => k.lcrIssue cx x.ctx x.gid x.g act else s2
  | none => s2

/-- The entry about to issue that a comparator hits: its word does not issue (R293). -/
def State.stopsAt (s : State) (x : Cand) : Option (Entry × Nat) :=
  (x.g.chooseEntries x.ready).1.findSome? fun i =>
    (x.g.entries[i]?).bind fun e => (s.comparatorOf x.ctx x.g e).map fun n => (e, n)

/-- The groups of a platform that can issue now. -/
def State.candidates (s : State) (c p : Nat) : List Cand :=
  (s.served c p).filterMap fun x =>
    match (s.block? x.2.bid).bind fun b => (s.ctx? b.ctx).map fun cx => (b, cx) with
    | none => none
    | some (b, cx) =>
      let r := s.readyEntries c x.1
      if r.isEmpty then none else some { gid := x.1, g := x.2, fn := cx.fn, ctx := b.ctx, ready := r }

/-- A platform chooses among its groups; an express group that is ready revokes freight first (R172). -/
def State.selectOn (s : State) (c p : Nat) : State :=
  let s1 := ((s.served c p).map (·.1)).foldl State.settleGroup s
  let cs0 := if s1.gated c then [] else s1.candidates c p
  let express := cs0.any (·.g.cls == 0)
  let s2 := if express then
      (if (s1.core c).freight == .open_ then s1.revoke c else s1).modCore c fun k => { k with expressAt := s1.now }
    else s1
  let cs := if express then cs0.filter fun x => x.g.cls != 2 || x.g.fw else cs0
  let st := SMap.get Platform.reset (s2.core c).platforms p
  let idle (t : State) : State := t.lcrIdle c p 1
  let go (q : Platform) (x : Cand) : State :=
    match s2.stopsAt x with
    | some (e, n) => idle (s2.hitComparator x.gid x.g e n)
    | none => s2.issue c p q x
  match st.keeps s2.now cs with
  | some x => go st x
  | none =>
    match s2.choose st cs with
    | (some x, cr) => go { st with held := some x.gid, since := s2.now, credits := cr } x
    | (none, cr) =>
      let st1 : Platform := { st with held := none, ended := 0, credits := cr }
      idle (s2.modCore c fun k => { k with platforms := SMap.set Platform.reset k.platforms p st1 })

/-- FREIGHT_REVOKE (R172): an express group of an OPEN core has become ready. -/
def execFreightRevoke (core : Nat) (s : State) : Host.Outcome State Fault Refusal :=
  if (s.core core).freight == .open_ && (List.range 4).any fun p => (s.candidates core p).any (·.g.cls == 0) then .next (s.revoke core)
  else .refused (.notPending "FREIGHT_REVOKE")

/-- ISSUE_SELECT (R161): a platform that serves a group makes its choice for this cycle; what it chooses issues next. -/
def execIssueSelect (core platform : Nat) (s : State) : Host.Outcome State Fault Refusal :=
  if !s.issueQ.isEmpty || s.guard.power != 0 || (s.served core platform).isEmpty then .refused (.notPending "ISSUE_SELECT")
  else .next (s.selectOn core platform)

/-- After a word of an entry has issued: comparators may hit again (R295), and a clause that ended frees the platform or
lets it choose (R161). -/
def State.afterWord (s : State) (gid : Nat) (g : Group) (b : Block) (e : Entry) : State :=
  match s.group? gid with
  | none => s
  | some h =>
    let stays := h.entries.any fun f => f.mask &&& e.mask != 0 && f.clause == e.clause && f.word == e.word
    if stays then s
    else
      let s1 := s.setGroup gid { h with passed := h.passed.bind (·.after e) }
      if e.word + 1 < e.words then s1
      else
        let yld := hYield ((e.code.getD []).headD 0).toNat
        s1.modCore (g.coreOf b) fun k =>
          let st := SMap.get Platform.reset k.platforms g.platform
          { k with platforms := SMap.set Platform.reset k.platforms g.platform
                     (if yld then { st with held := none } else { st with ended := e.mask }) }

/-! ### BRANCH_RESOLVE (R169) -/

/-- The group after a speculated branch has resolved: wrong lanes are squashed and form entries on the other side, the
rest stand. -/
def Group.resolve (g : Group) (sp : Spec) : Group × BitVec 32 :=
  let t := g.active sp.guard sp.mask
  let mine (e : Entry) : Bool := e.spec && e.parent == sp.ident
  let ls := (g.entries.filter mine).foldl (fun m e => m ||| e.mask) 0
  let wrongT := sp.predicted &&& ~~~t &&& ls
  let wrongN := ~~~sp.predicted &&& t &&& ls
  let wrong := wrongT ||| wrongN
  let g1 := (g.unshadow wrong sp.shadows sp.fShadow).dropLogLanes wrong
  let kept := (g1.entries.map fun e => if mine e then { e with mask := e.mask &&& ~~~wrong, spec := false } else e).filter
    (·.mask != 0)
  let new := (if wrongT = 0 then [] else [Entry.at sp.fall 0 wrongT sp.ident])
    ++ (if wrongN = 0 then [] else [Entry.at sp.target 0 wrongN sp.ident])
  let g2 : Group := { g1 with
    entries := kept ++ new
    specs := g1.specs.filter (·.ident != sp.ident)
    -- loads of the lanes that stand are speculative no more
    oplog := (SMap.entries g1.oplog).foldl (fun m x =>
      let own := (x.2.pending ||| x.2.notNow) &&& sp.mask != 0
      SMap.put m x.1 { x.2 with
        spec := x.2.spec && !own
        deferred := x.2.deferred.map fun d => (d.1, d.2.1, d.2.2 && d.2.1 &&& sp.mask == 0) }) g1.oplog }
  -- a clause whose header says so fuses whatever stands there (R157)
  let conv (h : Group) (i : Nat) : Bool := (h.entries[i]?).any fun e => hConv ((e.code.getD []).headD 0).toNat
  let g3 := (List.range g2.entries.length).reverse.foldl (fun h i => h.fuseAt i (conv h i)) g2
  ((g3.train sp.clause sp.mask t).collapse, wrong)

/-- Lanes of a load answered "not now" go out again, now not speculative (R118). -/
def State.askAgain (s : State) (gid slot : Nat) : State :=
  match (s.group? gid).bind fun g => SMap.find? g.oplog slot with
  | none => s
  | some o =>
    if o.spec || o.notNow = 0 then s
    else (s.putLog gid slot { o with pending := o.pending ||| o.notNow, notNow := 0 }).sendLanes gid slot o.notNow

/-- A branch can resolve: its predicate is written, the group is not frozen and not under line speculation. -/
def State.resolvable (s : State) (g : Group) (sp : Spec) : Bool :=
  g.runs && g.lineSpec.isNone && !(sp.guard.pg < 12 && g.inFlight.contains (keyP sp.guard.pg)) &&
    (match s.block? g.bid with
     | some b => b.cls != 2 || (s.core (g.coreOf b)).freight == .open_
     | none => false)

/-- BRANCH_RESOLVE (R169). -/
def execBranchResolve (gid n : Nat) (s : State) : Host.Outcome State Fault Refusal :=
  match (s.group? gid).bind fun g => (g.specs.find? (·.ident == n)).map fun sp => (g, sp) with
  | none => .refused (.notPending "BRANCH_RESOLVE")
  | some (g, sp) =>
    if !s.resolvable g sp then .refused (.notPending "BRANCH_RESOLVE")
    else
      let r := g.resolve sp
      let s1 := (s.setGroup gid r.1).squashLcr gid fun x => if x.ident = n then r.2 else 0
      let calm (k : Core) : Core := { k with lcrLog := (k.lcrLog.map fun x =>
        if x.gid = gid && x.ident = n then { x with ident := 0 } else x).filter fun x => x.ident != 0 || x.line }
      let s2 := (s1.cores.foldl (fun t c => t.setCore c.1 (calm c.2)) s1).pruneSpec gid
      -- requests still under way are speculative no more
      let s3 := s2.modMd fun m => { m with reqs := m.reqs.map fun (q : Req) =>
        match q.who with
        | .op k slot => if k = gid && (SMap.find? r.1.oplog slot).any (fun o => !o.spec) then { q with spec := false } else q
        | _ => q }
      .next ((SMap.entries r.1.oplog).foldl (fun t o => t.askAgain gid o.1) s3)

/-! ### JOIN_WAIT_SATISFIED (R158) -/

/-- An entry stands at word 0 of a clause whose header names the join barrier. -/
def Entry.atJoin (e : Entry) : Bool :=
  let h := ((e.code.getD []).headD 0).toNat
  e.word == 0 && e.code.isSome && hMode h == 1 && hSlot h == 254

def Group.joinDue (g : Group) : Bool :=
  (g.joinMember != 0 || g.joinArrived != 0) && g.joinMember &&& ~~~(g.joinArrived ||| g.exited) == 0
    && g.entries.all fun e => e.mask &&& g.joinArrived == 0 || e.atJoin

def Group.joinPass (g : Group) : Group :=
  let g1 := (List.range g.entries.length).reverse.foldl (fun h i =>
    if (h.entries[i]?).any Entry.atJoin then h.fuseAt i true else h) g
  { g1 with entries := g1.entries.map (fun e => if e.atJoin && !e.spec then { e with waited := true } else e)
            joinMember := 0, joinArrived := 0 }

def execJoinWaitSatisfied (gid : Nat) (s : State) : Host.Outcome State Fault Refusal :=
  match s.group? gid with
  | none => .refused (.notPending "JOIN_WAIT_SATISFIED")
  | some g =>
    if g.runs && !g.fw && g.joinDue then .next (s.setGroup gid g.joinPass) else .refused (.notPending "JOIN_WAIT_SATISFIED")

/-! ### TRAP_ENTRY (R431, R432) -/

/-- The oldest held cause is taken at the group's first boundary: after its handler, an executing MMA or a halt. -/
def Group.trapDue (g : Group) : Option TrapReq :=
  if g.trap || g.fw || g.halted || g.mma.isSome || bitAt g.mres.toNat 63 || g.migrating.isSome then none else g.pendingTraps.head?

/-- The request as it stands now: a load's fault names the first instruction not yet issued (R114). -/
def Group.trapNow (g : Group) (i : Nat) (t : TrapReq) : TrapReq :=
  match g.entries[i]?, t.record with
  | some e, some r => if r.kind = 1 && !t.late then { t with tclause := e.clause, tword := e.word } else t
  | _, _ => t

def execTrapEntry (gid : Nat) (s : State) : Host.Outcome State Fault Refusal :=
  match (s.group? gid).bind fun g => g.trapDue.map fun t => (g, t) with
  | none => .refused (.notPending "TRAP_ENTRY")
  | some (g, t) =>
    if s.recordWaits g t then .refused (.notPending "TRAP_ENTRY")
    else
    let s1 := (s.squashGroup gid).modGroup gid fun h => { h with pendingTraps := h.pendingTraps.drop 1 }
    match s1.group? gid with
    | none => .next s1
    | some h =>
      match h.entryOf t.lanes with
      | none => .next s1
      | some i =>
        .next (if h.hasHandler then s1.enterTrap gid i (h.trapNow i t)
          else s1.setGroup gid (h.switchOff (t.lanes &&& h.live) t.cause))

/-! ### Stall reasons and SAMPLE_TICK (R179, R291) -/

/-- What a word waits for: its registers in flight, by source (R179). -/
def Group.flightOf (g : Group) : List Nat × List Nat × List Nat :=
  let ops := SMap.entries g.oplog
  ((ops.map fun o => match o.2.kind with
      | .store | .mma => []
      | _ => flightKeys o.2.raw o.2.dregs).flatten,
   (({ g with oplog := [] } : Group)).inFlight,
   (ops.map fun o => (o.2.deferred.map fun d => flightKeys d.1 []).flatten).flatten)

/-- The copy word of an entry waits for a command to be free (R239). -/
def State.copyLimited (s : State) (gid : Nat) (g : Group) (b : Block) (e : Entry) : Bool :=
  (s.block? (s.hostBlock g b)).any fun k => k.cmds.any fun c => c.stage == 1 && c.gid == gid && c.clause == e.clause && c.word == e.word

/-- A MEMOP of a block that has 8 of them waits (R404). -/
def State.memopLimited (s : State) (is : Issue) (i : Instr) : Bool :=
  isMemop i && decide (8 ≤ (s.md.memops.filter fun m => m.bid == s.nameBlock is).length)

/-- The rank of R179 that holds for an entry that does not issue; 3 stands also for the waits of R160 that the table does
not name (acknowledgements, the store buffer, a fetch). -/
def State.entryStall (s : State) (c gid i : Nat) (g : Group) (b : Block) (e : Entry) : Nat :=
  if (b.cls = 2 && (s.core c).freight != .open_) || (if g.fw then g.released else g.halted) || b.stopPending.isSome then 1
  else if g.migrating.isSome then 4
  else if !g.runs || !g.mayAct i then 1
  else if s.entryReady gid i then 8
  else if e.code.isSome && e.word == 0 && !e.waited then 2
  else match wordOf (e.wordAt e.word) with
    | none => if e.spec then 6 else 3
    | some w =>
      let q := (guardOf w).getD always
      let is : Issue := { gid := gid, i := i, g := g, e := e, b := b, act := g.active q e.mask }
      let keys := g.readKeys is.act w ++ g.writeKeys is.act w
      let fl := g.flightOf
      if e.code.isNone || keys.any fl.1.contains || g.acquireHeld w || s.resourceHeld is w then 3
      else if keys.any fl.2.1.contains || s.matrixHeld is w || s.copyLimited gid g b e || s.memopLimited is w then 4
      else if keys.any fl.2.2.contains then 5
      else if e.spec || g.lineSpec.isSome then 6
      else if e.pairAt e.word && s.wordReady gid i then 7
      else 3

/-- The stall reason of a group: the highest in the table that holds for any of its entries. -/
def State.stallReason (s : State) (c gid : Nat) (g : Group) (b : Block) : Nat :=
  (g.entries.zipIdx.map fun f => s.entryStall c gid f.2 g b f.1).foldl min 8

/-- A group's place among the slots of its platform: general, freight, then landing slots. -/
def Group.slotOrder (g : Group) (b : Block) : Nat :=
  match g.landed with
  | some (_, i) => 128 + i
  | none => if b.cls = 2 then 64 + g.slot else g.slot

/-- One step of the Galois LFSR with mask 0xB400. -/
def lfsr16 (x : BitVec 16) : BitVec 16 := (x >>> 1) ^^^ (if x.getLsbD 0 then 0xB400 else 0)

/-- Writes the SAMPLE record of a tick on a platform: the group that issued there in this cycle, and the waiting group that
the pointer names. Answers the pointer after it. -/
def State.sample (s : State) (c ctx p ptr : Nat) : State × Nat :=
  let own : List (Nat × Group × Block) := (s.served c p).filterMap fun x => (s.block? x.2.bid).bind fun b =>
    if b.ctx = ctx then some (x.1, x.2, b) else none
  let issued : Option ((Nat × Group × Block) × Nat × Nat) :=
    match (SMap.get Platform.reset (s.core c).platforms p).issued with
    | some (t, gid, cl, w) => if t = s.now then (own.find? fun (x : Nat × Group × Block) => x.1 == gid).map fun x => (x, cl, w) else none
    | none => none
  let waiting := own.filter fun x => !issued.any fun y => y.1.1 == x.1
  let least (xs : List (Nat × Group × Block)) : Option (Nat × Group × Block) :=
    xs.foldl (fun (m : Option (Nat × Group × Block)) x =>
      match m with
      | none => some x
      | some y => if x.2.1.slotOrder x.2.2 < y.2.1.slotOrder y.2.2 then some x else some y) none
  let w := (least (waiting.filter fun x => ptr < x.2.1.slotOrder x.2.2 + 1)).or (least waiting)
  let ptr1 := match w with | some x => x.2.1.slotOrder x.2.2 + 1 | none => ptr
  let data (x : Option (Nat × Group × Block)) : List (BitVec 8) :=
    match x with
    | some (_, g, _) =>
      let e := g.entries.headD (Entry.at 0 0 0 0)
      toBytes 8 g.idx ++ toBytes 8 (tpcOf e.clause e.word).toNat
    | none => toBytes 8 0xFF
  let reason := match w with | some (gid, g, b) => s.stallReason c gid g b | none => 0
  match issued, w with
  | none, none => (s, ptr1)
  | some ((_, g, b), cl, wd), _ =>
    (s.logbook b c 3 (p + reason * 256) g.idx (tpcOf cl wd).toNat (data w), ptr1)
  | none, some (_, _, b) => (s.logbook b c 3 (p + reason * 256) 0xFF 0 (data w), ptr1)

/-- A context's sampler on a core is due. -/
def State.sampleDue (s : State) (c ctx : Nat) : Option (BitVec 16 × Nat × Nat × Nat) :=
  match s.ctx? ctx with
  | none => none
  | some cx =>
    if !cx.lbFlags.getLsbD 0 || cx.lbBase = 0 then none
    else (SMap.find? (s.core c).sampler ctx).bind fun x => if x.2.2.1 ≤ s.now then some x else none

/-- SAMPLE_TICK (R291). DESIGN CHOICE, unsafe: log entry 94; DESIGN CHOICE, unsafe: log entry 95; DEDUCED, unsafe: log entry 96. -/
def execSampleTick (core ctx : Nat) (s : State) : Host.Outcome State Fault Refusal :=
  match s.sampleDue core ctx, s.ctx? ctx with
  | some (x, t, _, ptr), some cx =>
    let r := s.sample core ctx (t % 4) ptr
    let y := lfsr16 x
    .next (r.1.modCore core fun k =>
      { k with sampler := SMap.put k.sampler ctx (y, t + 1, s.now + cx.ibase + y.toNat % 2 ^ cx.jbits, r.2) })
  | _, _ => .refused (.notPending "SAMPLE_TICK")

end Sys2Proof.Machine
end

