-- ==== Sys2Proof/Machine/Dispatch.lean ====
section
/-! DEFINITION. Machine/Dispatch.lean: the dispatch of every constructor of Instr to its meaning. -/

namespace Sys2Proof.Machine

def exec (i : Instr) (s : State) : Host.Outcome State Fault Refusal :=
  match i with
  | .nop => Sys2Proof.Machine.execNop s
  | .iadd g t d a b => Sys2Proof.Machine.execIadd g t d a b s
  | .isub g t d a b => Sys2Proof.Machine.execIsub g t d a b s
  | .iadds g t d a b => Sys2Proof.Machine.execIadds g t d a b s
  | .iaddc g wide d a b cin cout => Sys2Proof.Machine.execIaddc g wide d a b cin cout s
  | .imul g t d a b => Sys2Proof.Machine.execImul g t d a b s
  | .imulhi g t d a b => Sys2Proof.Machine.execImulhi g t d a b s
  | .imad g t d a b c => Sys2Proof.Machine.execImad g t d a b c s
  | .imadw g t d a b c => Sys2Proof.Machine.execImadw g t d a b c s
  | .idiv g t d a b => Sys2Proof.Machine.execIdiv g t d a b s
  | .irem g t d a b => Sys2Proof.Machine.execIrem g t d a b s
  | .imin g t d a b => Sys2Proof.Machine.execImin g t d a b s
  | .imax g t d a b => Sys2Proof.Machine.execImax g t d a b s
  | .iabs g t d a => Sys2Proof.Machine.execIabs g t d a s
  | .ineg g t d a => Sys2Proof.Machine.execIneg g t d a s
  | .and g wide d a b => Sys2Proof.Machine.execAnd g wide d a b s
  | .or g wide d a b => Sys2Proof.Machine.execOr g wide d a b s
  | .xor g wide d a b => Sys2Proof.Machine.execXor g wide d a b s
  | .andn g wide d a b => Sys2Proof.Machine.execAndn g wide d a b s
  | .not g wide d a => Sys2Proof.Machine.execNot g wide d a s
  | .iaddImm g t d a n => Sys2Proof.Machine.execIaddImm g t d a n s
  | .andImm g wide d a n => Sys2Proof.Machine.execAndImm g wide d a n s
  | .orImm g wide d a n => Sys2Proof.Machine.execOrImm g wide d a n s
  | .xorImm g wide d a n => Sys2Proof.Machine.execXorImm g wide d a n s
  | .shl g wide d a b => Sys2Proof.Machine.execShl g wide d a b s
  | .shr g wide d a b => Sys2Proof.Machine.execShr g wide d a b s
  | .sar g wide d a b => Sys2Proof.Machine.execSar g wide d a b s
  | .rot g wide d a b => Sys2Proof.Machine.execRot g wide d a b s
  | .fsh g wide d lo hi n => Sys2Proof.Machine.execFsh g wide d lo hi n s
  | .popc g wide d a => Sys2Proof.Machine.execPopc g wide d a s
  | .clz g wide d a => Sys2Proof.Machine.execClz g wide d a s
  | .ctz g wide d a => Sys2Proof.Machine.execCtz g wide d a s
  | .brev g wide d a => Sys2Proof.Machine.execBrev g wide d a s
  | .bfx g t d a ctl => Sys2Proof.Machine.execBfx g t d a ctl s
  | .bfi g wide d base ins ctl => Sys2Proof.Machine.execBfi g wide d base ins ctl s
  | .prmt g d a b sel => Sys2Proof.Machine.execPrmt g d a b sel s
  | .lea g t d a b sh => Sys2Proof.Machine.execLea g t d a b sh s
  | .icmp g t pd a b cc => Sys2Proof.Machine.execIcmp g t pd a b cc s
  | .icmpImm g t pd a cc n => Sys2Proof.Machine.execIcmpImm g t pd a cc n s
  | .sel g wide d a b pc => Sys2Proof.Machine.execSel g wide d a b pc s
  | .fadd g t d a b => Sys2Proof.Machine.execFadd g t d a b s
  | .fsub g t d a b => Sys2Proof.Machine.execFsub g t d a b s
  | .fmul g t d a b => Sys2Proof.Machine.execFmul g t d a b s
  | .ffma g t d a b c => Sys2Proof.Machine.execFfma g t d a b c s
  | .ffms g t d a b c => Sys2Proof.Machine.execFfms g t d a b c s
  | .fscale g t d a n => Sys2Proof.Machine.execFscale g t d a n s
  | .fdiv g t d a b => Sys2Proof.Machine.execFdiv g t d a b s
  | .fsqrt g t d a => Sys2Proof.Machine.execFsqrt g t d a s
  | .fmin g t d a b => Sys2Proof.Machine.execFmin g t d a b s
  | .fmax g t d a b => Sys2Proof.Machine.execFmax g t d a b s
  | .fminp g t d a b => Sys2Proof.Machine.execFminp g t d a b s
  | .fmaxp g t d a b => Sys2Proof.Machine.execFmaxp g t d a b s
  | .fabs g t d a => Sys2Proof.Machine.execFabs g t d a s
  | .fneg g t d a => Sys2Proof.Machine.execFneg g t d a s
  | .fcmp g t pd a b cc => Sys2Proof.Machine.execFcmp g t pd a b cc s
  | .fclass g t d a => Sys2Proof.Machine.execFclass g t d a s
  | .frcp g d a => Sys2Proof.Machine.execFrcp g d a s
  | .frsq g d a => Sys2Proof.Machine.execFrsq g d a s
  | .fexp2 g d a => Sys2Proof.Machine.execFexp2 g d a s
  | .flog2 g d a => Sys2Proof.Machine.execFlog2 g d a s
  | .fsin g d a => Sys2Proof.Machine.execFsin g d a s
  | .fcos g d a => Sys2Proof.Machine.execFcos g d a s
  | .ftanh g d a => Sys2Proof.Machine.execFtanh g d a s
  | .frnd g t d a m => Sys2Proof.Machine.execFrnd g t d a m s
  | .cvt g m nosat dt st d a => Sys2Proof.Machine.execCvt g m nosat dt st d a s
  | .pack g e d a b nosat h => Sys2Proof.Machine.execPack g e d a b nosat h s
  | .unpk g e d a q => Sys2Proof.Machine.execUnpk g e d a q s
  | .mxscale g e d a => Sys2Proof.Machine.execMxscale g e d a s
  | .mxq g e d a scale nosat => Sys2Proof.Machine.execMxq g e d a scale nosat s
  | .mxdq g e d a scale => Sys2Proof.Machine.execMxdq g e d a scale s
  | .hfma2 g bf d a b c => Sys2Proof.Machine.execHfma2 g bf d a b c s
  | .idot4 g sg sat d a b c => Sys2Proof.Machine.execIdot4 g sg sat d a b c s
  | .fdot2 g bf d a b c => Sys2Proof.Machine.execFdot2 g bf d a b c s
  | .plop g pd pa pb pc lut => Sys2Proof.Machine.execPlop g pd pa pb pc lut s
  | .ppack g d q => Sys2Proof.Machine.execPpack g d q s
  | .punpack g a q => Sys2Proof.Machine.execPunpack g a q s
  | .pmov g pd ps => Sys2Proof.Machine.execPmov g pd ps s
  | .pmovBit g pd a b => Sys2Proof.Machine.execPmovBit g pd a b s
  | .mov g wide d a => Sys2Proof.Machine.execMov g wide d a s
  | .movToIndex g k a => Sys2Proof.Machine.execMovToIndex g k a s
  | .movFromIndex g d k => Sys2Proof.Machine.execMovFromIndex g d k s
  | .movi g d m imm => Sys2Proof.Machine.execMovi g d m imm s
  | .bcast g vd sa n => Sys2Proof.Machine.execBcast g vd sa n s
  | .lanerd g wide sd va lane => Sys2Proof.Machine.execLanerd g wide sd va lane s
  | .lanewr g wide vd a lane => Sys2Proof.Machine.execLanewr g wide vd a lane s
  | .setxw g k lo hi => Sys2Proof.Machine.execSetxw g k lo hi s
  | .qswz g wide d a pat => Sys2Proof.Machine.execQswz g wide d a pat s
  | .qdiff g m d a => Sys2Proof.Machine.execQdiff g m d a s
  | .shflPick g wide d a b pc span => Sys2Proof.Machine.execShflPick g wide d a b pc span s
  | .shflRot g wide d a b pc span => Sys2Proof.Machine.execShflRot g wide d a b pc span s
  | .shflSlide g wide d a b pc span => Sys2Proof.Machine.execShflSlide g wide d a b pc span s
  | .shflFlip g wide d a b pc span => Sys2Proof.Machine.execShflFlip g wide d a b pc span s
  | .voteMask g d ps m pc => Sys2Proof.Machine.execVoteMask g d ps m pc s
  | .voteCount g d ps m pc => Sys2Proof.Machine.execVoteCount g d ps m pc s
  | .voteLead g d ps m pc => Sys2Proof.Machine.execVoteLead g d ps m pc s
  | .voteAgree g d ps m pc => Sys2Proof.Machine.execVoteAgree g d ps m pc s
  | .matchLead g wide d a m pc => Sys2Proof.Machine.execMatchLead g wide d a m pc s
  | .matchMask g wide d a m pc => Sys2Proof.Machine.execMatchMask g wide d a m pc s
  | .redux g op d a m pc => Sys2Proof.Machine.execRedux g op d a m pc s
  | .scan g op d a m seg => Sys2Proof.Machine.execScan g op d a m seg s
  | .join g m => Sys2Proof.Machine.execJoin g m s
  | .ld g t d sp base ord cache off => Sys2Proof.Machine.execLd g t d sp base ord cache off s
  | .st g t a sp base ord off => Sys2Proof.Machine.execSt g t a sp base ord off s
  | .ldc g run sd sp base ord cache off => Sys2Proof.Machine.execLdc g run sd sp base ord cache off s
  | .pref g sp base cache off => Sys2Proof.Machine.execPref g sp base cache off s
  | .cctlDrop g sp base off => Sys2Proof.Machine.execCctlDrop g sp base off s
  | .cctlDrop4k g sp base off => Sys2Proof.Machine.execCctlDrop4k g sp base off s
  | .cctlRenew g sp base off => Sys2Proof.Machine.execCctlRenew g sp base off s
  | .xclr g base rel off => Sys2Proof.Machine.execXclr g base rel off s
  | .memopFill g rec slot => Sys2Proof.Machine.execMemopFill g rec slot s
  | .memopAxpy g t rec slot => Sys2Proof.Machine.execMemopAxpy g t rec slot s
  | .memopAdd g t rec slot => Sys2Proof.Machine.execMemopAdd g t rec slot s
  | .memopMul g t rec slot => Sys2Proof.Machine.execMemopMul g t rec slot s
  | .memopReduce g wide rec slot => Sys2Proof.Machine.execMemopReduce g wide rec slot s
  | .fence g scope ord => Sys2Proof.Machine.execFence g scope ord s
  | .flsig g slot => Sys2Proof.Machine.execFlsig g slot s
  | .watch g slot base off => Sys2Proof.Machine.execWatch g slot base off s
  | .atomAdd g t v sp base ord off => Sys2Proof.Machine.execAtomAdd g t v sp base ord off s
  | .atomMin g t v sp base ord off => Sys2Proof.Machine.execAtomMin g t v sp base ord off s
  | .atomMax g t v sp base ord off => Sys2Proof.Machine.execAtomMax g t v sp base ord off s
  | .atomAnd g t v sp base ord off => Sys2Proof.Machine.execAtomAnd g t v sp base ord off s
  | .atomOr g t v sp base ord off => Sys2Proof.Machine.execAtomOr g t v sp base ord off s
  | .atomXor g t v sp base ord off => Sys2Proof.Machine.execAtomXor g t v sp base ord off s
  | .atomExch g t v sp base ord off => Sys2Proof.Machine.execAtomExch g t v sp base ord off s
  | .atomCas g t v sp base ord off => Sys2Proof.Machine.execAtomCas g t v sp base ord off s
  | .atomFadd g wide v sp base ord off => Sys2Proof.Machine.execAtomFadd g wide v sp base ord off s
  | .atomXadd g wide v base ord off => Sys2Proof.Machine.execAtomXadd g wide v base ord off s
  | .redAdd g t a sp base ord off => Sys2Proof.Machine.execRedAdd g t a sp base ord off s
  | .redMin g t a sp base ord off => Sys2Proof.Machine.execRedMin g t a sp base ord off s
  | .redMax g t a sp base ord off => Sys2Proof.Machine.execRedMax g t a sp base ord off s
  | .redAnd g t a sp base ord off => Sys2Proof.Machine.execRedAnd g t a sp base ord off s
  | .redOr g t a sp base ord off => Sys2Proof.Machine.execRedOr g t a sp base ord off s
  | .redXor g t a sp base ord off => Sys2Proof.Machine.execRedXor g t a sp base ord off s
  | .redFadd g wide a sp base ord off => Sys2Proof.Machine.execRedFadd g wide a sp base ord off s
  | .redXadd g wide a base ord off => Sys2Proof.Machine.execRedXadd g wide a base ord off s
  | .binit g name off => Sys2Proof.Machine.execBinit g name off s
  | .arrive g rlx name n => Sys2Proof.Machine.execArrive g rlx name n s
  | .arriveAddress g rlx peer a n => Sys2Proof.Machine.execArriveAddress g rlx peer a n s
  | .expectOnce g name n => Sys2Proof.Machine.execExpectOnce g name n s
  | .expectEach g name n => Sys2Proof.Machine.execExpectEach g name n s
  | .btestPa g d name => Sys2Proof.Machine.execBtestPa g d name s
  | .btestPb g d name => Sys2Proof.Machine.execBtestPb g d name s
  | .btestAll g d name => Sys2Proof.Machine.execBtestAll g d name s
  | .btestPassed g pd name t => Sys2Proof.Machine.execBtestPassed g pd name t s
  | .binval g name => Sys2Proof.Machine.execBinval g name s
  | .cpy g rec slot toGlobal => Sys2Proof.Machine.execCpy g rec slot toGlobal s
  | .cpym g rec slot mask spread => Sys2Proof.Machine.execCpym g rec slot mask spread s
  | .cpyr g rec slot => Sys2Proof.Machine.execCpyr g rec slot s
  | .cpyg g rec slot toGlobal => Sys2Proof.Machine.execCpyg g rec slot toGlobal s
  | .cpyx g slot => Sys2Proof.Machine.execCpyx g slot s
  | .acfg g tile n first => Sys2Proof.Machine.execAcfg g tile n first s
  | .azero g tile ver slot => Sys2Proof.Machine.execAzero g tile ver slot s
  | .afence g => Sys2Proof.Machine.execAfence g s
  | .mma g at_ tile ver reuse a bmap mode slot => Sys2Proof.Machine.execMma g at_ tile ver reuse a bmap mode slot s
  | .mmas g at_ tile ver reuse a bmap mode slot => Sys2Proof.Machine.execMmas g at_ tile ver reuse a bmap mode slot s
  | .ald g tile ver map slot => Sys2Proof.Machine.execAld g tile ver map slot s
  | .ast g tile ver now map slot => Sys2Proof.Machine.execAst g tile ver now map slot s
  | .ard g tile ver now d c0 n => Sys2Proof.Machine.execArd g tile ver now d c0 n s
  | .awr g tile ver a c0 n => Sys2Proof.Machine.execAwr g tile ver a c0 n s
  | .kshape g wide kd base rows cols => Sys2Proof.Machine.execKshape g wide kd base rows cols s
  | .kshapeClr g kd => Sys2Proof.Machine.execKshapeClr g kd s
  | .kzero g kd => Sys2Proof.Machine.execKzero g kd s
  | .keye g kd => Sys2Proof.Machine.execKeye g kd s
  | .kadd g kd ka kb fp => Sys2Proof.Machine.execKadd g kd ka kb fp s
  | .kmul g kd ka kb fp => Sys2Proof.Machine.execKmul g kd ka kb fp s
  | .kmad g kd ka kb fp => Sys2Proof.Machine.execKmad g kd ka kb fp s
  | .ktrn g kd ka fp => Sys2Proof.Machine.execKtrn g kd ka fp s
  | .kchol g kd ka fp => Sys2Proof.Machine.execKchol g kd ka fp s
  | .kldl g kd ka fp => Sys2Proof.Machine.execKldl g kd ka fp s
  | .klu g kd ka piv fp => Sys2Proof.Machine.execKlu g kd ka piv fp s
  | .ksolve g f kd ka kb piv fp => Sys2Proof.Machine.execKsolve g f kd ka kb piv fp s
  | .kdet g d ka fp => Sys2Proof.Machine.execKdet g d ka fp s
  | .kinv g kd ka fp => Sys2Proof.Machine.execKinv g kd ka fp s
  | .bra g disp hint => Sys2Proof.Machine.execBra g disp hint s
  | .brx g t => Sys2Proof.Machine.execBrx g t s
  | .call g disp => Sys2Proof.Machine.execCall g disp s
  | .callx g t => Sys2Proof.Machine.execCallx g t s
  | .ret g t => Sys2Proof.Machine.execRet g t s
  | .exit g => Sys2Proof.Machine.execExit g s
  | .yield g => Sys2Proof.Machine.execYield g s
  | .launch g sd sa pd => Sys2Proof.Machine.execLaunch g sd sa pd s
  | .migrate g pd a => Sys2Proof.Machine.execMigrate g pd a s
  | .trap g code => Sys2Proof.Machine.execTrap g code s
  | .bkpt g => Sys2Proof.Machine.execBkpt g s
  | .srd g d num => Sys2Proof.Machine.execSrd g d num s
  | .swr g a num => Sys2Proof.Machine.execSwr g a num s
  | .ctxsaveCopy g => Sys2Proof.Machine.execCtxsaveCopy g s
  | .ctxsaveAcc g => Sys2Proof.Machine.execCtxsaveAcc g s
  | .ctxsaveGrp g => Sys2Proof.Machine.execCtxsaveGrp g s
  | .ctxsaveBlk g => Sys2Proof.Machine.execCtxsaveBlk g s
  | .ctxrestBlk g => Sys2Proof.Machine.execCtxrestBlk g s
  | .ctxrestGrp g => Sys2Proof.Machine.execCtxrestGrp g s
  | .ctxrestAcc g => Sys2Proof.Machine.execCtxrestAcc g s
  | .ctxrestCopy g => Sys2Proof.Machine.execCtxrestCopy g s
  | .eret g => Sys2Proof.Machine.execEret g s
  | .hostint g => Sys2Proof.Machine.execHostint g s
  | .pmark g a => Sys2Proof.Machine.execPmark g a s
  | .logw g sN tag => Sys2Proof.Machine.execLogw g sN tag s
  | .ctxnew h r => Sys2Proof.Machine.execCtxnew h r s
  | .ctxreset h => Sys2Proof.Machine.execCtxreset h s
  | .segset h seg b l o => Sys2Proof.Machine.execSegset h seg b l o s
  | .weights h iw aw => Sys2Proof.Machine.execWeights h iw aw s
  | .logset h base n => Sys2Proof.Machine.execLogset h base n s
  | .fabread h reg first count => Sys2Proof.Machine.execFabread h reg first count s
  | .fabwriteLnkerr h index value => Sys2Proof.Machine.execFabwriteLnkerr h index value s
  | .fabwritePairrt h index value => Sys2Proof.Machine.execFabwritePairrt h index value s
  | .fabwriteRemreq h index value => Sys2Proof.Machine.execFabwriteRemreq h index value s
  | .attest h nonce buf => Sys2Proof.Machine.execAttest h nonce buf s
  | .diefence h die => Sys2Proof.Machine.execDiefence h die s
  | .farpol h allow => Sys2Proof.Machine.execFarpol h allow s
  | .expgrant h allow => Sys2Proof.Machine.execExpgrant h allow s
  | .flitReceive src dst damage => Sys2Proof.Machine.execFlitReceive src dst damage s
  | .ackFlitTimer src dst => Sys2Proof.Machine.execAckFlitTimer src dst s
  | .nakReplay src dst => Sys2Proof.Machine.execNakReplay src dst s
  | .replayTimeout src dst => Sys2Proof.Machine.execReplayTimeout src dst s
  | .pauseReceive src dst => Sys2Proof.Machine.execPauseReceive src dst s
  | .ackReceive src dst => Sys2Proof.Machine.execAckReceive src dst s
  | .channelDead src dst chans recovered => Sys2Proof.Machine.execChannelDead src dst chans recovered s
  | .channelState src dst => Sys2Proof.Machine.execChannelState src dst s
  | .linkChangeReport src dst => Sys2Proof.Machine.execLinkChangeReport src dst s
  | .channelRetrainStart src dst chans => Sys2Proof.Machine.execChannelRetrainStart src dst chans s
  | .channelTrainingEnd src dst chans ok => Sys2Proof.Machine.execChannelTrainingEnd src dst chans ok s
  | .relayedFlitForward via => Sys2Proof.Machine.execRelayedFlitForward via s
  | .pairdownTimeout src dst => Sys2Proof.Machine.execPairdownTimeout src dst s
  | .laserFail m => Sys2Proof.Machine.execLaserFail m s
  | .laserMonitorReport m => Sys2Proof.Machine.execLaserMonitorReport m s
  | .standbyCommit => Sys2Proof.Machine.execStandbyCommit s
  | .standbyLightOn => Sys2Proof.Machine.execStandbyLightOn s
  | .moduleRemoval m => Sys2Proof.Machine.execModuleRemoval m s
  | .moduleInsert m => Sys2Proof.Machine.execModuleInsert m s
  | .moduleWarmDone m => Sys2Proof.Machine.execModuleWarmDone m s
  | .standbyFail => Sys2Proof.Machine.execStandbyFail s
  | .eventVectorHoldoffExpiry fn vec => Sys2Proof.Machine.execEventVectorHoldoffExpiry fn vec s
  | .junctionThrottle die celsius => Sys2Proof.Machine.execJunctionThrottle die celsius s
  | .powerP2Entry => Sys2Proof.Machine.execPowerP2Entry s
  | .powerP2Exit => Sys2Proof.Machine.execPowerP2Exit s
  | .homeRequestAccept home src => Sys2Proof.Machine.execHomeRequestAccept home src s
  | .retryResend home src => Sys2Proof.Machine.execRetryResend home src s
  | .heldWritePerform home => Sys2Proof.Machine.execHeldWritePerform home s
  | .parityAck home => Sys2Proof.Machine.execParityAck home s
  | .parityDelta die => Sys2Proof.Machine.execParityDelta die s
  | .writeClassDecay line => Sys2Proof.Machine.execWriteClassDecay line s
  | .leaseRenewal home => Sys2Proof.Machine.execLeaseRenewal home s
  | .cellOperation die => Sys2Proof.Machine.execCellOperation die s
  | .cellMirrorUpdate die => Sys2Proof.Machine.execCellMirrorUpdate die s
  | .memopUnit home => Sys2Proof.Machine.execMemopUnit home s
  | .granuleRelease die block => Sys2Proof.Machine.execGranuleRelease die block s
  | .heatSample full => Sys2Proof.Machine.execHeatSample full s
  | .heatEpoch ctx => Sys2Proof.Machine.execHeatEpoch ctx s
  | .dramScrub die sector find => Sys2Proof.Machine.execDramScrub die sector find s
  | .memoryDieFailure die => Sys2Proof.Machine.execMemoryDieFailure die s
  | .hostLinkChange link up pool => Sys2Proof.Machine.execHostLinkChange link up pool s
  | .hostMemoryAccess r => Sys2Proof.Machine.execHostMemoryAccess r s
  | .uioCompletion => Sys2Proof.Machine.execUioCompletion s
  | .functionLevelReset fn => Sys2Proof.Machine.execFunctionLevelReset fn s
  | .flrdone fn => Sys2Proof.Machine.execFlrdone fn s
  | .computeDieFatal die => Sys2Proof.Machine.execComputeDieFatal die s
  | .sramue p => Sys2Proof.Machine.execSramue p s
  | .deviceReset b => Sys2Proof.Machine.execDeviceReset b s
  | .alarm code fn => Sys2Proof.Machine.execAlarm code fn s
  | .loglost fn => Sys2Proof.Machine.execLoglost fn s
  | .missRecord => Sys2Proof.Machine.execMissRecord s
  | .missRecordResend die page => Sys2Proof.Machine.execMissRecordResend die page s
  | .pageWalkDone page => Sys2Proof.Machine.execPageWalkDone page s
  | .fillInstall die => Sys2Proof.Machine.execFillInstall die s
  | .faultReady page => Sys2Proof.Machine.execFaultReady page s
  | .faultFinal page types => Sys2Proof.Machine.execFaultFinal page types s
  | .tlbInvalidation lo hi => Sys2Proof.Machine.execTlbInvalidation lo hi s
  | .pendingReply => Sys2Proof.Machine.execPendingReply s
  | .wakeReplay => Sys2Proof.Machine.execWakeReplay s
  | .finalReply => Sys2Proof.Machine.execFinalReply s
  | .hostFaultTimeout => Sys2Proof.Machine.execHostFaultTimeout s
  | .migration page newFrame far abortAt => Sys2Proof.Machine.execMigration page newFrame far abortAt s
  | .launchReply => Sys2Proof.Machine.execLaunchReply s
  | .blockPlace tt core => Sys2Proof.Machine.execBlockPlace tt core s
  | .resplitTimeout tt core => Sys2Proof.Machine.execResplitTimeout tt core s
  | .drainTimeout core => Sys2Proof.Machine.execDrainTimeout core s
  | .sliceExpiry tt core => Sys2Proof.Machine.execSliceExpiry tt core s
  | .backgroundPromote tt => Sys2Proof.Machine.execBackgroundPromote tt s
  | .preemptRequest bid => Sys2Proof.Machine.execPreemptRequest bid s
  | .blockRestore bid core => Sys2Proof.Machine.execBlockRestore bid core s
  | .blockRetire bid => Sys2Proof.Machine.execBlockRetire bid s
  | .taskComplete tt => Sys2Proof.Machine.execTaskComplete tt s
  | .issueSelect core platform => Sys2Proof.Machine.execIssueSelect core platform s
  | .loadComplete gid op => Sys2Proof.Machine.execLoadComplete gid op s
  | .branchResolve gid n => Sys2Proof.Machine.execBranchResolve gid n s
  | .renewalReply gid => Sys2Proof.Machine.execRenewalReply gid s
  | .storeAck core => Sys2Proof.Machine.execStoreAck core s
  | .freightRevoke core => Sys2Proof.Machine.execFreightRevoke core s
  | .freightClosed core => Sys2Proof.Machine.execFreightClosed core s
  | .freightReopen core => Sys2Proof.Machine.execFreightReopen core s
  | .joinWaitSatisfied gid => Sys2Proof.Machine.execJoinWaitSatisfied gid s
  | .arrivalApply => Sys2Proof.Machine.execArrivalApply s
  | .watchFire => Sys2Proof.Machine.execWatchFire s
  | .copyUnitDeliver bid cmd unit => Sys2Proof.Machine.execCopyUnitDeliver bid cmd unit s
  | .copyAdmit core => Sys2Proof.Machine.execCopyAdmit core s
  | .mmaChunkEnd gid => Sys2Proof.Machine.execMmaChunkEnd gid s
  | .mmaComplete gid => Sys2Proof.Machine.execMmaComplete gid s
  | .mmaResume gid => Sys2Proof.Machine.execMmaResume gid s
  | .tileWordComplete gid => Sys2Proof.Machine.execTileWordComplete gid s
  | .kwordComplete gid => Sys2Proof.Machine.execKwordComplete gid s
  | .trapEntry gid => Sys2Proof.Machine.execTrapEntry gid s
  | .debugStop bid src => Sys2Proof.Machine.execDebugStop bid src s
  | .stopRecord bid => Sys2Proof.Machine.execStopRecord bid s
  | .debugResume bid => Sys2Proof.Machine.execDebugResume bid s
  | .debugIdentify => Sys2Proof.Machine.execDebugIdentify s
  | .debugChallenge => Sys2Proof.Machine.execDebugChallenge s
  | .debugUnlock scope fn valid => Sys2Proof.Machine.execDebugUnlock scope fn valid s
  | .dbgcmpWrite ctx n value => Sys2Proof.Machine.execDbgcmpWrite ctx n value s
  | .sampleTick core ctx => Sys2Proof.Machine.execSampleTick core ctx s
  | .lcrFlush => Sys2Proof.Machine.execLcrFlush s
  | .logbookConfigRead ctx => Sys2Proof.Machine.execLogbookConfigRead ctx s
  | .registerWrite r value => Sys2Proof.Machine.execRegisterWrite r value s
  | .moduleOut m => Sys2Proof.Machine.execModuleOut m s
  | .powerLoss => Sys2Proof.Machine.execPowerLoss s
  | .msixTableWrite fn vec masked => Sys2Proof.Machine.execMsixTableWrite fn vec masked s
  | .migrateShippingDone gid => Sys2Proof.Machine.execMigrateShippingDone gid s

end Sys2Proof.Machine
end

