-- ==== Sys2Proof/Machine/Cycle.lean ====
section
/-! DEFINITION. Machine/Cycle.lean: what the machine does next: the word that was selected, an event that is due, or the next
platform's choice, and the passing of time (R160 to R162, R161, R169). -/

namespace Sys2Proof.Machine

/-! ### The selected word -/

/-- The entry of a group that holds a lane. -/
def Group.entryWith (g : Group) (l : Nat) : Option Nat := g.entries.findIdx? fun e => lane e.mask l

/-- What follows a word: the platform's bookkeeping, and no word is executing. -/
def finishWord (gid : Nat) (g : Group) (b : Block) (e : Entry) :
    Host.Outcome State Fault Refusal → Host.Outcome State Fault Refusal
  | .next t => .next { t.afterWord gid g b e with cur := none }
  | .fault f => .fault f
  | .refused r => .refused r

/-- Entry i of a group issues its next word: the word it comes to executes, or the entry is dealt with without one. -/
def State.issueEntry (s : State) (gid i : Nat) (again : List (Nat × Nat)) : Host.Outcome State Fault Refusal :=
  match s.group? gid with
  | none => .next s
  | some g =>
    match s.block? g.bid, g.entries[i]? with
    | some b, some e =>
      match s.comeTo gid i with
      | .done t => finishWord gid g b e (.next { t with issueQ := again })
      | .run t w => finishWord gid g b e (exec w { t with cur := some (gid, i) })
    | _, _ => .next s

/-- The first selected entry, named by its lowest lane, issues; it first takes the steps of its arrival (R304). A pair dealt
with at its first word does not issue its second (R319). -/
def State.issueNext (s : State) (gid l : Nat) (rest : List (Nat × Nat)) : Host.Outcome State Fault Refusal :=
  let s0 : State := { s with issueQ := rest }
  match (s0.group? gid).bind (·.entryWith l) with
  | none => .next s0
  | some i =>
    let s1 := if (s0.group? gid).any fun g => g.runs && g.mayAct i && (g.entries[i]?).any (fun e => e.code.isNone)
      then s0.settleEntry gid i else s0
    match (s1.group? gid).bind (·.entryWith l) with
    | none => .next s1
    | some j => s1.issueEntry gid j (rest.filter (· != (gid, l)))

/-! ### Events that are due -/

/-- An event as the meaning of its constructor, its arguments given. -/
abbrev Event := State → Host.Outcome State Fault Refusal

/-- The first of some events that is pending, and the state after it. DEDUCED, unsafe: log entry 114. -/
def State.firstOf (s : State) : List Event → Option State
  | [] => none
  | f :: rest =>
    match f s with
    | .next t => some t
    | _ => s.firstOf rest

def stopSrcOf (k : Nat) : StopSrc := if k = 0 then .bkpt else if k = 9 then .port else .cmp (k - 1)

/-- Events of groups and blocks that come before anything issues. -/
def State.groupEvents (s : State) : List Event :=
  ((SMap.entries s.groups).map fun g =>
    g.2.specs.map (fun sp => execBranchResolve g.1 sp.ident)
      ++ (if g.2.pendingTraps.isEmpty then [] else [execTrapEntry g.1])
      ++ (if g.2.migrating.isSome then [execMigrateShippingDone g.1] else [])
      ++ (if g.2.joinMember != 0 || g.2.joinArrived != 0 then [execJoinWaitSatisfied g.1] else [])).flatten
def State.blockEvents (s : State) : List Event :=
  ((SMap.entries s.blocks).map fun b =>
    (match b.2.stopPending with | some k => [execDebugStop b.1 (stopSrcOf (k - 1))] | none => [])
      ++ (if b.2.phase == .stopping then [execStopRecord b.1] else [])
      ++ (if b.2.phase == .halting || (b.2.phase == .live && b.2.borrowed && (s.core b.2.core).freight != .open_)
          then [execPreemptRequest b.1] else [])
      ++ [execBlockRetire b.1]).flatten

/-- Engines of the cores (R239, R264, R273, R274, R416, R422). -/
def State.engineEvents (s : State) : List Event :=
  ((SMap.entries s.groups).map fun g =>
    (if bitAt g.2.mres.toNat 63 then [execMmaResume g.1] else [])
      ++ (if g.2.mma.isSome then [execMmaComplete g.1, execMmaChunkEnd g.1] else [])
      ++ (if !g.2.tileWords.isEmpty then [execTileWordComplete g.1] else [])
      ++ (if !g.2.kwords.isEmpty then [execKwordComplete g.1] else [])
      ++ (SMap.entries g.2.oplog).map (fun o => execLoadComplete g.1 o.1)).flatten
    ++ (s.md.renewals.map fun r => execRenewalReply r.gid)
    ++ (s.cores.map fun c =>
        (if c.2.stores.isEmpty then [] else [execStoreAck c.1])
          ++ (if c.2.freight == .open_ then [] else [execFreightClosed c.1, execFreightReopen c.1])).flatten
    ++ ((SMap.entries s.blocks).map fun b => (if b.2.cmds.any (·.stage == 1) then [execCopyAdmit b.2.core] else []) ++ (b.2.cmds.map fun c =>
        ([mapUnit, listUnit] ++ (List.range 65).map (c.first + ·)).map fun u => execCopyUnitDeliver b.1 c.key u).flatten).flatten

/-- Receivers whose buffers have emptied send the resumes that are due (R17). -/
def State.sendResumes (s : State) : Host.Outcome State Fault Refusal :=
  let due := s.fab.links.any fun k => [0, 1, 2].any fun tc =>
    k.2.rxPause.getLsbD tc && decide (s.occupancy (k.1 / 32) (k.1 % 32) tc ≤ 320)
  if due then .next s.settlePauses else .refused (.notPending "PAUSE_RECEIVE")

/-- The photonic fabric, pair by pair (R15 to R24, R26, R36). -/
def State.linkEvents (s : State) : List Event :=
  (s.fab.links.map fun k =>
    let i := k.1 / 32
    let j := k.1 % 32
    [execFlitReceive i j 0, execAckReceive i j, execNakReplay i j, execPauseReceive j i, execChannelState j i, execLinkChangeReport i j,
     execAckFlitTimer i j, execReplayTimeout i j, execPairdownTimeout i j]).flatten
    ++ (s.fab.relayIn.map fun k => execRelayedFlitForward k.1)
    ++ ((List.range 5).map fun m => execLaserMonitorReport m) ++ [execStandbyCommit]
    ++ (if s.fab.links.any fun k => k.2.rxPause != 0 then [State.sendResumes] else [])

/-- Requests at the homes and the memory dies (R44 to R64). -/
def State.memoryEvents (s : State) : List Event :=
  ((s.md.reqs.map fun r => (s.homeOf r, r.src)).eraseDups.map fun p =>
      [execHomeRequestAccept p.1 p.2, execLeaseRenewal p.1, execRetryResend p.1 p.2]).flatten
    ++ (if s.md.held.isEmpty then [] else (List.range 17).map fun d => execHeldWritePerform d)
    ++ (if s.md.deltas.isEmpty then [] else (List.range 17).map fun d => execParityDelta d)
    ++ (if s.md.parityAcks.isEmpty then [] else (List.range 18).map fun d => execParityAck d)
    ++ (if s.md.uio.isEmpty then [] else [execUioCompletion])
    ++ (if s.md.cellReqs.isEmpty then [] else (List.range 17).map fun d => execCellOperation d)
    ++ (if s.md.mirrorQ.isEmpty then [] else (List.range 17).map fun d => execCellMirrorUpdate d)
    ++ (if s.md.memops.isEmpty then [] else (List.range 17).map fun d => execMemopUnit d)
    ++ (if s.md.heatQ.isEmpty then [] else [execHeatSample false])
    ++ ((SMap.entries s.md.zblocks).filterMap fun z =>
        if z.2.spare.isEmpty then none else some (execGranuleRelease (z.1 % 17) (z.1 / 17)))
    ++ (if s.md.overflows.isEmpty then [] else [State.writeOverflows])
    ++ (s.md.lines.filterMap fun l => if l.2.wclass = 0 then none else some (execWriteClassDecay l.1))

/-- Translation and fault gathering (R107 to R111); firmware answers from the tape. -/
def State.xlateEvents (s : State) : List Event :=
  (if s.xl.missQ.isEmpty then [] else [execMissRecord])
    ++ (s.xl.refused.map fun r => execMissRecordResend r.1.die r.1.page)
    ++ ((SMap.entries s.xl.collapse).filterMap fun c => if c.2.walking then some (execPageWalkDone c.1) else none)
    ++ (s.xl.fills.map fun f => execFillInstall f.1)
    ++ (s.xl.invals.map fun v => execTlbInvalidation v.lo v.hi)
    ++ (match s.xl.migration with
        | some m => [execMigration m.page m.newFrame m.far m.abortAt]
        | none => [])
    ++ (if s.xl.pendings.isEmpty then [] else [execPendingReply])
    ++ (if s.xl.answers.isEmpty then [] else [execWakeReplay, execFinalReply])
    ++ (if s.host.ops.isEmpty then [] else [execHostFaultTimeout])

/-- Barriers, watches and the signal box (R128 to R145, R231, R237). -/
def State.boxEvents (s : State) : List Event :=
  let cores := List.range 64
  (if s.arrivals.isEmpty then [] else [execArrivalApply]) ++ (if s.md.fired.isEmpty then [] else [execWatchFire])
    ++ (if s.box.launches.isEmpty then [] else [execLaunchReply])
    ++ ((SMap.entries s.box.table).map fun t =>
        [execTaskComplete t.1]
          ++ (t.2.saved.map fun b => cores.map fun c => execBlockRestore b c).flatten
          ++ (if t.2.wants then cores.map (fun c => execBlockPlace t.1 c) ++ [execBackgroundPromote t.1]
                ++ cores.map (fun c => execSliceExpiry t.1 c) ++ cores.map (fun c => execResplitTimeout t.1 c) else [])).flatten
    ++ ((SMap.entries s.box.draining).map fun d => execDrainTimeout d.1) ++ (if s.box.stations.isEmpty then [] else [State.placeStation])

/-- Timers and logs of the control die (R37, R60, R84, R290). -/
def State.timerEvents (s : State) : List Event :=
  (s.host.funcs.map fun f =>
    (f.2.holdoff.map fun v => execEventVectorHoldoffExpiry f.1 v.1) ++ (if f.2.dropped = 0 then [] else [execLoglost f.1])).flatten
    ++ ((SMap.entries s.host.ctxs).map fun c => execHeatEpoch c.1) ++ [execLcrFlush]

/-- Firmware takes the next entry of the management queue (R81): the operation it names, or status 1. -/
def State.takeEntry (s : State) : Host.Outcome State Fault Refusal :=
  match s.host.nextEntry with
  | none => .refused (.notPending "MANAGEMENT_QUEUE")
  | some e =>
    match decodeEntry e with
    | some i => exec i s
    | none => .next (s.answerEntry (entryHead e []) 1 [])

/-- The events of power state P2 (R40): the compute dies are gated, and nothing is placed on them. -/
def State.gatedEvents (s : State) : List Event :=
  s.linkEvents ++ s.memoryEvents ++ s.xlateEvents ++ [execPowerP2Exit] ++ s.timerEvents

/-- The events that may be due, in a fixed order. DESIGN CHOICE, safe: log entry 3. -/
def State.events (s : State) : List Event :=
  if s.guard.power = 2 then s.gatedEvents
  else s.groupEvents ++ s.blockEvents ++ s.engineEvents ++ s.linkEvents ++ s.memoryEvents ++ s.xlateEvents ++ s.boxEvents
    ++ s.timerEvents ++ [State.takeEntry]

/-- The states to which the events due now lead. DESIGN CHOICE, unsafe: log entry 4. -/
def State.due (s : State) : List State :=
  s.events.filterMap fun f => match f s with
    | .next t => some t
    | _ => none

/-- The next event that is due. What only the outside world, firmware or an accident brings about comes from the tape. -/
def State.nextEvent (s : State) : Option State :=
  s.firstOf s.events

/-! ### Platforms and time -/

/-- Platforms that serve a group, as 4 × core + platform. -/
def State.turns (s : State) : List Nat :=
  (SMap.entries s.groups).filterMap fun g =>
    match s.block? g.2.bid with
    | some b => if b.phase == .saved then none else some (4 * g.2.coreOf b + g.2.platform)
    | none => none

/-- The platform that chooses next in this cycle. -/
def State.nextTurn (s : State) : Option Nat :=
  (s.turns.filter fun k => s.turn ≤ k).foldl (fun (m : Option Nat) k =>
    match m with
    | none => some k
    | some j => some (min j k)) none

/-- The entries of a group that does not issue in a cycle grow idle (R153, R162); those of a group that issues are counted there. -/
def Group.idles (g : Group) (now n : Nat) : Group :=
  if g.fw then g
  else
    let m := if g.lastIssue = now + 1 then n - 1 else n
    { g with entries := g.entries.map fun e => { e with idle := min 1024 (e.idle + m) } }

/-- Time passes: by the next pace, or one cycle. A pace of more passes cycles in which nothing issues, as every cycle does in which the power
state gates issue; they count in the lane-cycle record (R288). DESIGN CHOICE, safe: log entry 3. -/
def State.tick (s0 : State) : State :=
  let s := s0.lcrPass (if s0.guard.power = 0 then s0.pace.headD 1 - 1 else s0.pace.headD 1)
  { s with now := s.now + s.pace.headD 1, pace := s.pace.drop 1, turn := 0
           groups := s.groups.map fun g => (g.1, g.2.map fun h => h.idles s.now (s.pace.headD 1)) }

/-- Ticks of samplers come at the end of their cycle (R291). -/
def State.sampleEvents (s : State) : List Event :=
  (s.cores.map fun c => (SMap.entries c.2.sampler).map fun x => execSampleTick c.1 x.1).flatten

/-- The next platform chooses; after the last one, samples are taken and time passes. DESIGN CHOICE, safe: log entry 112. -/
def State.cycle (s : State) : Host.Outcome State Fault Refusal :=
  match (if s.guard.power = 0 then s.nextTurn else none) with
  | some k => execIssueSelect (k / 4) (k % 4) { s with turn := k + 1 }
  | none => .next ((s.firstOf s.sampleEvents).getD s.tick)

/-- The choice of the input: the k-th event due, or the next platform's choice. DESIGN CHOICE, safe: log entry 3. -/
def State.pick (s : State) (k : Nat) : Host.Outcome State Fault Refusal :=
  match (if k = 0 then none else s.due[k - 1]?) with
  | some t => .next t
  | none => s.cycle

/-! ### The tape -/

/-- An instruction word: no agent outside can insert one. -/
def isWord (i : Instr) : Bool := (unparse i).isSome

/-- The oldest event of the tape happens. DESIGN CHOICE, safe: log entry 108; DESIGN CHOICE, safe: log entry 110. -/
def State.takeInput (s : State) (i : Instr) (rest : List Instr) : Host.Outcome State Fault Refusal :=
  if isWord i then .refused .notEvent else exec i { s with inputs := rest }

/-- A class C alarm or the loss of power stops everything but a device reset (R40, R94). DEDUCED, unsafe: log entry 115. -/
def State.stuck (s : State) : Option Fault :=
  if s.guard.dead then some .alarmHalt else if s.guard.power = 3 then some .powerOff else none

/-- What happens next when nothing keeps the machine stuck. DESIGN CHOICE, safe: log entry 3. -/
def State.advance (s : State) : Host.Outcome State Fault Refusal :=
  match s.issueQ with
  | (gid, l) :: rest => s.issueNext gid l rest
  | [] =>
    match s.inputs with
    | i :: rest => s.takeInput i rest
    | [] =>
      match s.picks with
      | k :: rest => { s with picks := rest }.pick k
      | [] =>
        match s.nextEvent with
        | some t => .next t
        | none => s.cycle

/-- What happens next while the machine is stuck: only a device reset on the tape. DEDUCED, unsafe: log entry 115. -/
def State.advanceStuck (s : State) (f : Fault) : Host.Outcome State Fault Refusal :=
  match s.inputs with
  | .deviceReset b :: rest => execDeviceReset b { s with inputs := rest }
  | _ => .fault f

/-! ### Placing one instruction (for State.withFetchWord; see the log) -/

/-- The class of the clause that may hold a word (R303). -/
def classFor (w : BitVec 64) : Nat :=
  let m := (unpack w.toNat).major
  ((List.range 4).find? fun c => classOk c m).getD 0

/-- The header of a clause of one word. -/
def headerFor (w : BitVec 64) : BitVec 64 := BitVec.ofNat 64 (0xC7 * 2 ^ 56 + classFor w * 2 ^ 49)

/-- The leaf of a readable, writable and executable 4 KiB page (R102) at PA 4,096. -/
def placedLeaf : BitVec 64 := 0x101D

/-- A valid segment 0 over the first 4 KiB page of VAs from 4,096 up, at the same IAs, open to every access (R97). -/
def placedSegment : Segment := { b := 0x100F, l := 0, o := 0x1000 }

/-- The request of a context whose fields do not matter here. -/
def placedReq : CtxReq :=
  { stprog := 0, starg := 0, tarea := 0, savea := 0, slice := 0, resplit := 0, ceil := 0, heatk := 0, epoch := 0, quota := 0,
    ncell := 0, svunits := 0 }

/-- A block of one group of 32 lanes with every register, on core 0. -/
def placedBlock : Block :=
  { Block.blank 0 0 1 { place := 0, places := 1, carve := 1, borrow := false } with
    vcount := 256, scount := 1024, spad := 65536, prog := 4096, cluster := [0] }

/-- A loaded program of one word: its clause in memory, translated; a context, a block and a group whose one entry stands at
the clause and is selected. DESIGN CHOICE, unsafe: log entry 1. -/
def State.placeWord (s : State) (w : BitVec 64) : State :=
  let code := toBytes 8 (headerFor w).toNat ++ toBytes 8 w.toNat
  let mem := (code.zipIdx).foldl (fun m x => Memory.write m (s.unitSpot 1 4096 + x.2) x.1) s.mem
  let cx := { newContext 0 0 0 s.now placedReq with segs := SMap.set Segment.reset [] 0 placedSegment }
  { s with
    mem := mem
    xl := { s.xl with tlb := SMap.set 0 s.xl.tlb (pageKey (s.servingDie 4096) 4096) placedLeaf }
    host := { s.host with ctxs := SMap.put s.host.ctxs 0 cx }
    blocks := SMap.put s.blocks 0 placedBlock
    groups := SMap.put s.groups 0 (Group.start 0 0 0 placedBlock)
    nextBlock := max 1 s.nextBlock
    issueQ := [(0, 0)] }

/-- A management entry that the control die reads next. DESIGN CHOICE, unsafe: log entry 1. -/
def State.placeEntry (s : State) (i : Option Instr) : State := { s with issueQ := [], inputs := i.toList ++ s.inputs }

end Sys2Proof.Machine
end

