-- ==== Sys2Proof/Machine/Step.lean ====
section
/-! DEFINITION. Machine/Step.lean: one step of the machine, and the placing of one instruction before it. -/

namespace Sys2Proof.Machine

/-- One step: while an alarm or the loss of power stops the machine only a device reset from the tape happens; else the word
that was selected issues, or the oldest event of the tape happens, or the next event that is due, or the next platform
chooses, or time passes. -/
def step (s : State) : Host.Outcome State Fault Refusal :=
  match s.stuck with
  | some f => s.advanceStuck f
  | none => s.advance

/-- The state with one instruction placed where the next step takes it: a 64-bit word in a clause of its own in memory,
fetched and issued by an entry that is selected; a management entry at the head of the tape. DESIGN CHOICE, unsafe: log entry 1. -/
def State.withFetchWord (s : State) (nbits w : Nat) : State :=
  if nbits ≤ 64 then s.placeWord (BitVec.ofNat 64 w) else s.placeEntry (decodeTableWord nbits w)

end Sys2Proof.Machine
end

