-- ==== Sys2Proof/Safety.lean ====
section
/-! DEFINITION. Safety.lean: the terms in which claims speak: when a word is ready to execute, what a word may change, and what
stays as it is. -/

namespace Sys2Proof.Machine

/-! ### When a word executes (R160, R182 to R184, R306) -/

/-- The issuer of a word with the guard's active set, when the word executes for all of it now: some lane is active, nothing
holds the word, it accepts its operands (R182, R186, R316), every indexed operand resolves, nothing is speculative, and no
attributed fault is due at it. -/
def State.canRun (s : State) (i : Instr) (q : Guard) : Option Issue :=
  (s.issuer.map (·.with q)).filter fun is =>
    is.act != 0 && !s.held is i && !is.g.scoreHeld is.act i && is.g.accepts i
      && is.g.badLanes i is.act == 0 && !is.e.spec && is.g.lineSpec.isNone && !(is.endsFence i && !is.g.late.isEmpty)

/-! ### The state in which a word executes -/

/-- The fences that a word leaves in force (R217): those that still wait, and a release fence that its write, atomic or arrival
has not yet ended (R215). -/
def State.fencesLeft (s : State) (is : Issue) (i : Instr) : List FenceHold :=
  (is.g.fences.filterMap fun f =>
    if (s.fenceWaits is f).1 || (s.fenceWaits is f).2 then some f
    else if (f.rel || !f.acq) && (is.act = 0 || !heldByRelease i) then some { lanes := 0, rel := false, acq := false, sc := false }
    else none).eraseDups

/-- The issuer as the meaning sees it: with the fences left in force. -/
def State.issueOf (s : State) (is : Issue) (i : Instr) : Issue := { is with g := { is.g with fences := s.fencesLeft is i } }

/-- The state in which the word's own effect takes place: the fences it has met are gone. -/
def State.entered (s : State) (is : Issue) (i : Instr) : State := s.setGroup is.gid (s.issueOf is i).g

/-- A word under a guard completes: whenever it can run now, its meaning answers a next state, which `P` relates to the
issuer. -/
def State.Completes (s : State) (i : Instr) (q : Guard) (P : Issue → State → Prop) : Prop :=
  ∀ is, s.canRun i q = some is → ∃ t, exec i s = .next t ∧ P is t

/-- As `Completes`, for an issuer of which `H` holds. -/
def State.CompletesIf (s : State) (i : Instr) (q : Guard) (H : Issue → Prop) (P : Issue → State → Prop) : Prop :=
  ∀ is, s.canRun i q = some is → H is → ∃ t, exec i s = .next t ∧ P is t

/-! ### Operands as bit vectors (R308, R309, R328) -/

/-- An operand of n bits, 32 or 64. -/
def State.bv (s : State) (is : Issue) (n : Nat) (a : Src) (l : Nat) : BitVec n := BitVec.ofNat n (s.opnd is (n == 64) a l)

/-- An operand of a word resolves in a lane: a direct one always, an indexed one within its window and the v count (R183). -/
def Issue.resolvesAt (is : Issue) (wide : Bool) (a : Src) (l : Nat) : Prop :=
  match a with
  | .idx k off => is.g.idxOk k off (if wide then 2 else 1) wide l = true
  | _ => True

/-! ### What a word leaves -/

/-- The value of a register destination in a lane. -/
def Group.dstVal (g : Group) (wide : Bool) (d : Dst) (l : Nat) : Nat :=
  match d with
  | .v n => g.readV wide n l
  | .s n => g.readS wide n
  | .idx k off => g.readV wide (g.idxReg k off l) l

/-- Whether register r of lane l belongs to a destination, for the working lanes. -/
def Issue.hitsV (is : Issue) (wide : Bool) (d : Dst) (r l : Nat) : Bool :=
  decide (l ∈ is.work d) &&
    match d with
    | .v n => r == n || (wide && r == n + 1)
    | .s _ => false
    | .idx k off => r == is.g.idxReg k off l || (wide && r == is.g.idxReg k off l + 1)
def hitsS (wide : Bool) (d : Dst) (r : Nat) : Bool :=
  match d with
  | .s n => r == n || (wide && r == n + 1)
  | _ => false

/-- `h` is `g` after its issuing entry went on, but for the registers of the destination (the fences that a word meets may
be dropped). -/
def Group.OnlyDst (g h : Group) (is : Issue) (wide : Bool) (d : Dst) : Prop :=
  (∀ r l, l < 32 → is.hitsV wide d r l = false → h.vreg r l = g.vreg r l) ∧
  (∀ r, hitsS wide d r = false → h.sreg r = g.sreg r)

/-- The state after a word that writes one result per working lane, or one uniform result (R186, R328): nothing outside the
issuing group changes; the group's entry goes on; the destination holds the result's low bits; no other register changes. -/
def State.Computes (s t : State) (is : Issue) (wide : Bool) (d : Dst) (f : Nat → Nat) : Prop :=
  ∃ h : Group, t = s.setGroup is.gid h ∧
    h = { is.g.advance is.i with v := h.v, s := h.s, fences := h.fences } ∧
    (∀ l ∈ is.work d, h.dstVal wide d l = f l % 2 ^ (if wide then 64 else 32)) ∧ is.g.OnlyDst h is wide d

/-- As `Computes`, with exception flags joined into FSTAT of every active lane (R190, R365). -/
def State.ComputesFlags (s t : State) (is : Issue) (wide : Bool) (d : Dst) (f : Nat → Nat × Flags) : Prop :=
  ∃ h : Group, t = s.setGroup is.gid h ∧
    h = { is.g.advance is.i with v := h.v, s := h.s, fstat := h.fstat, fences := h.fences } ∧
    (∀ l ∈ is.work d, h.dstVal wide d l = (f l).1 % 2 ^ (if wide then 64 else 32)) ∧ is.g.OnlyDst h is wide d ∧
    (∀ l < 32, h.fst l = if lane is.act l then is.g.fst l ||| ((f (if dstIsS d then is.low else l)).2).setWidth 32
      else is.g.fst l)

/-- As `Computes`, with a predicate written in every active lane. -/
def State.ComputesPred (s t : State) (is : Issue) (wide : Bool) (d : Dst) (f : Nat → Nat) (pd : Nat) (p : Nat → Bool) : Prop :=
  ∃ h : Group, t = s.setGroup is.gid h ∧
    h = { is.g.advance is.i with v := h.v, s := h.s, p := h.p, fences := h.fences } ∧
    (∀ l ∈ is.work d, h.dstVal wide d l = f l % 2 ^ (if wide then 64 else 32)) ∧ is.g.OnlyDst h is wide d ∧
    (∀ l < 32, lane is.act l → pd < 12 → h.pred pd l = p l) ∧
    (∀ k < 12, ∀ l < 32, (k ≠ pd ∨ lane is.act l = false) → h.pred k l = is.g.pred k l)

/-- The state after a word that writes one predicate in the active lanes (R326): no register changes, and no predicate but this
one, and it only in the active lanes. -/
def State.Decides (s t : State) (is : Issue) (pd : Nat) (f : Nat → Bool) : Prop :=
  ∃ h : Group, t = s.setGroup is.gid h ∧
    h = { is.g.advance is.i with p := h.p, fstat := h.fstat, fences := h.fences } ∧ (∀ l, h.fst l = is.g.fst l) ∧
    (∀ l < 32, lane is.act l → pd < 12 → h.pred pd l = f l) ∧
    (∀ k < 12, ∀ l < 32, (k ≠ pd ∨ lane is.act l = false) → h.pred k l = is.g.pred k l)

/-! ### Memory words -/

/-- The lanes of a mask reach memory: each forms its address in its space and passes its segment (R96, R99, R204, R205). -/
def State.Reaches (s : State) (is : Issue) (sp : Space) (base : Src) (off : Int) (n : Nat) (t : Rights) (ls : BitVec 32)
    (as : List LaneAddr) : Prop :=
  (lanes ls).map (fun l => s.reach is sp base off n n t l) = as.map Except.ok

/-- `t` is `s` with `h` for a group and new requests sent to the homes, tagged in order (R44, R64): what else may change is the
fabric that carries them, and the cores' store buffers and the L1, which a statement fixes of its own. -/
def State.Sends (s t : State) (gid : Nat) (h : Group) (new : List Req) : Prop :=
  t = { s.setGroup gid h with
          md := { s.md with reqs := s.md.reqs ++ new, nextTag := s.md.nextTag + new.length }
          fab := t.fab, cores := t.cores, l1 := t.l1 } ∧
    new.map (·.tag) = List.range' s.md.nextTag new.length

/-- As `Sends`, for requests to cells (R52) of an issuer's word, given as (lane, cell of the context, operation). -/
def State.CellSends (s t : State) (is : Issue) (h : Group) (who : Requester) (ops : List (Nat × Nat × CellOp)) : Prop :=
  let cx := s.ctx? is.b.ctx
  ∃ new : List CellReq,
    t = { s.setGroup is.gid h with
            md := { s.md with cellReqs := s.md.cellReqs ++ new, nextTag := s.md.nextTag + new.length }
            fab := t.fab, cores := t.cores } ∧
    new.map (fun c => { c with ticket := Ticket.here }) = ops.zipIdx.map fun x =>
      { tag := s.md.nextTag + x.2, src := dieOf (is.g.coreOf is.b), fn := (cx.map (·.fn)).getD 0, order := some is.gid,
        ticket := Ticket.here, retryAt := none, reply := Ticket.here, cell := (cx.map (·.firstCell)).getD 0 + x.1.2.1, ctx := is.b.ctx,
        who := who, lane := x.1.1, op := x.1.2.2 }

/-- The L1 of one die has lost the lines of some IAs, and nothing else of it has changed (R211). -/
def State.Drops (s t : State) (die : Nat) (ias : List Nat) : Prop :=
  t.l1 = s.l1.filter fun e => !ias.any fun ia => e.1 == die * 2 ^ 45 + ia / 128

/-- One posted store more in the buffer of the issuing core, and no other change of a core (R151, R393). -/
def State.Posts (s t : State) (is : Issue) (width sp od : Nat) (red : Bool) (ls : List (Nat × Nat × Nat × Nat)) : Prop :=
  let c := is.g.coreOf is.b
  let k := s.core c
  t.cores = SMap.set Core.reset s.cores c { k with
    nextStore := k.nextStore + 1
    stores := k.stores ++ [{ id := k.nextStore, gid := is.gid, clause := is.e.clause, word := is.e.word, od := od,
                             width := width, lanes := ls, sp := sp, red := red }] }

/-- Loaded bytes as they stand in the registers (R391): .i8 and .i16 extended by their sign, the other types by zeros. -/
def loadedAs (t : MemTy) (x : Nat) : Nat :=
  match t with
  | .i8 => ((BitVec.ofNat 8 x).signExtend 32).toNat
  | .i16 => ((BitVec.ofNat 16 x).signExtend 32).toNat
  | _ => x

/-- `h` has the registers of `g`, but that each lane of a list of accesses holds its value in its destination run (R391). -/
def Group.Loaded (g h : Group) (d : Dst) (t : MemTy) (as : List LaneAddr) (x : LaneAddr → Nat) : Prop :=
  ∀ r l, l < 32 → h.vreg r l =
    match as.find? fun a => a.lane == l && decide (g.dstReg d l ≤ r) && decide (r < g.dstReg d l + memRegs t) with
    | some a => BitVec.ofNat 32 (loadedAs t (x a) / 2 ^ (32 * (r - g.dstReg d l)))
    | none => g.vreg r l

/-- Blocks are those of `s`, but for scratchpad bytes that pass a test of block and offset. -/
def State.PadsChange (s t : State) (hit : Nat → Nat → Prop) : Prop :=
  ∀ k, (s.block? k = none → t.block? k = none) ∧
    ∀ b, s.block? k = some b → ∃ b', t.block? k = some b' ∧ b' = { b with scratch := b'.scratch } ∧
      ∀ o, ¬ hit k o → b'.byte o = b.byte o

/-! ### Barriers, copies and tiles -/

/-- Of a block that halts, the commands that have not started leave and the others stay (R144). -/
def Block.Started (b b' : Block) : Prop :=
  (∀ c ∈ b'.cmds, c ∈ b.cmds ∧ 2 ≤ c.stage) ∧
    ∀ c ∈ b.cmds, 2 ≤ c.stage → (∀ x ∈ b.cmds, x.stage < 2 → x.key ≠ c.key) → c ∈ b'.cmds

/-- The command that waits at an issuer's copy word: not yet running, of this group, clause and word. -/
def Block.waitsAt (b : Block) (is : Issue) : Option CopyCmd :=
  b.cmds.find? fun c =>
    c.stage < 2 && c.gid == is.gid && c.clause == is.e.clause && c.word == is.e.word && lane is.e.mask c.lane

/-- An engine's access of a type reaches an IA now, through this leaf (R99, R109, R249). -/
def State.AtHand (s : State) (ia : Nat) (t : Rights) (leaf : BitVec 64) : Prop :=
  s.cached (s.servingDie ia) ia = some leaf ∧ leafPermits leaf t = true ∧ (leafF leaf = true → s.farUp = true)

/-- A copy command runs (R239, R245): it is marked running, with the bytes it moves as then known, CPYR adds 1 to PEND_B, and the entry
that stands at its word goes on; nothing else changes. -/
def State.Admits (s t : State) (bid : Nat) (b : Block) (c : CopyCmd) (i : Nat) : Prop :=
  t = { s with
    blocks := SMap.put s.blocks bid { b with
      cmds := b.cmds.map fun x => if x.key = c.key then { c with stage := 2, total := if c.kind = 3 then 0 else c.units, known := c.size } else x
      slots := if c.kind = 3 then SMap.modify b.slots c.slot fun sl => { sl with pendB := sl.pendB + 1 } else b.slots }
    groups := t.groups } ∧
  ∀ g, s.group? c.gid = some g → g.entryAt c.clause c.word c.lanes = some i → t.groups = SMap.put s.groups c.gid (g.advance i)

/-! ### Events and operations -/

/-- An event or operation takes place: its meaning answers a next state, which `P` describes. -/
def State.Happens (s : State) (i : Instr) (P : State → Prop) : Prop := ∃ t, exec i s = .next t ∧ P t

/-- At most the fabric has changed (R9 to R34). -/
def State.InFabric (s t : State) : Prop := t = { s with fab := t.fab }

/-- The links of the other used pairs are as they were. -/
def State.LinkOnly (s t : State) (src dst : Nat) : Prop :=
  ∀ i j, usedPair i j → ¬(i = src ∧ j = dst) → t.link i j = s.link i j

/-- The device has written memory by itself (records, logs, completion areas), and nothing else has changed (R42, R45, R46, R56). -/
def State.Wrote (s t : State) : Prop :=
  t = { s with
    mem := t.mem, far := t.far, l1 := t.l1
    md := { s.md with poison := t.md.poison, cleared := t.md.cleared, keyed := t.md.keyed, lines := t.md.lines, watches := t.md.watches
                      fired := t.md.fired, held := t.md.held, overflows := t.md.overflows, deltas := t.md.deltas, nextTag := t.md.nextTag, stripeP := t.md.stripeP
                      zblocks := t.md.zblocks, reserve := t.md.reserve, nextGranule := t.md.nextGranule, zcount := t.md.zcount } }

/-- As `Wrote`, with a record for an event log and its vector (R37, R84). -/
def State.Logged (s t : State) : Prop :=
  ({ s with host := { s.host with rseq := t.host.rseq, msix := t.host.msix, funcs := t.host.funcs } } : State).Wrote t ∧
    t.host.rseq ≠ s.host.rseq

/-- The lanes of a request are those of one word in one unit, aligned, each lane once (R44, R59). -/
abbrev Req.oneUnit (r : Req) : Prop :=
  (r.lanes.map (·.lane)).Nodup ∧ r.lanes ≠ [] ∧ (r.width = 1 ∨ r.width = 2 ∨ r.width = 4 ∨ r.width = 8 ∨ r.width = 16) ∧
    (∀ a ∈ r.lanes, a.lane < 32 ∧ a.ia % r.width = 0) ∧ ∀ a ∈ r.lanes, ∀ b ∈ r.lanes, a.ia / 256 = b.ia / 256

/-- Memory takes a store's bytes (R42, R45, R76, R387), each where its IA's byte stands under the leaf: of the lanes that name one address the highest is written; through the leaf of the
store every other byte reads as before, and sectors that it does not touch are as they were. -/
def State.Stores (s t : State) (r : Req) (leaf : BitVec 64) : Prop :=
  let at_ (a : LaneAcc) : Nat := s.place leaf a.ia
  (∀ x, (∀ a ∈ r.lanes, x < at_ a ∨ at_ a + r.width ≤ x) → t.byteAt leaf x = s.byteAt leaf x) ∧
  (∀ a ∈ r.lanes, (∀ b ∈ r.lanes, b.ia = a.ia → b.lane ≤ a.lane) → ∀ k < r.width,
    t.byteAt leaf (at_ a + k) = BitVec.ofNat 8 (a.data / 2 ^ (8 * k))) ∧
  (∀ x, (∀ a ∈ r.lanes, x / 32 ≠ at_ a / 32) → t.readPhys (leafF leaf) x = s.readPhys (leafF leaf) x) ∧
  ∀ x, t.readPhys (!leafF leaf) x = s.readPhys (!leafF leaf) x

/-- Firmware completes a management entry (R81, R83): the consumer index goes on, the status and the result bytes stand in the
entry, and vector 4 of the PF is sent unless it is masked. -/
def State.Answered (s t : State) (h : MgmtHead) (status : Nat) (result : List (BitVec 8)) : Prop :=
  t = { s with host := { s.host with
    ring := t.host.ring
    consumer := s.host.consumer + 1
    mgmt := s.host.mgmt ++ [{ tag := h.tag, status := status, result := (result ++ toBytes 56 0).take 56 }]
    msix := t.host.msix, funcs := t.host.funcs } } ∧
  t.host.ringRead (s.host.slot + 6) 2 = toBytes 2 status ∧ t.host.ringRead 0x4008 8 = toBytes 8 (s.host.consumer + 1) ∧
  ((s.func 0).flr = 0 → SMap.get false (s.func 0).masked 4 = false →
    t.host.msix = s.host.msix ++ [(0, 4)] ∧ t.host.funcs = s.host.funcs)

/-- Lane l of a group stands at a word of a clause. -/
def Group.StandsAt (g : Group) (l clause word : Nat) : Prop :=
  ∃ e ∈ g.entries, lane e.mask l = true ∧ e.clause = clause ∧ e.word = word

end Sys2Proof.Machine

namespace Sys2Proof

/-- A source of an integer type as the number it stands for (R328). -/
def IntTy.read (t : IntTy) (x : Nat) : Int := if t.signed then (BitVec.ofNat t.width x).toInt else (BitVec.ofNat t.width x).toNat

/-- A result of an integer type as it is written to its register or pair (R328): reduced to the type's width, and extended to
32 bits by its sign or with zeros. -/
def IntTy.written (t : IntTy) (q : Int) : Nat :=
  if t.signed then ((BitVec.ofInt t.width q).signExtend (max 32 t.width)).toNat else (BitVec.ofInt t.width q).toNat

end Sys2Proof
end

