-- ==== Sys2Proof/WellFormed.lean ====
section
/-! DEFINITION. WellFormed.lean: which instructions of the syntax an encoding can hold (R305 to R312 and the field
tables of the instruction chapters), and which parameters of operations and events name something that exists. -/

namespace Sys2Proof

def Guard.wf (g : Guard) : Bool := decide (g.pg ≤ 12)

def Src.wf : Src → Bool
  | .v n => decide (n < 256)
  | .s n => decide (n < 1024)
  | .idx k o => decide (k < 4) && decide (o < 256)
  | .imm i => decide (-256 ≤ i) && decide (i ≤ 255)
  | .spec c => decide (c ≤ 13)

def Dst.wf : Dst → Bool
  | .v n => decide (n < 256)
  | .s n => decide (n < 1024)
  | .idx k o => decide (k < 4) && decide (o < 256)

/-- A destination of kind v or indexed. -/
def Dst.wfV (d : Dst) : Bool := d.wf && (match d with | .s _ => false | _ => true)

/-- A register source: v, s or indexed. -/
def Src.wfReg (a : Src) : Bool := a.wf && (match a with | .imm _ => false | .spec _ => false | _ => true)

def Src.wfRegImm (a : Src) : Bool := a.wf && (match a with | .spec _ => false | _ => true)

def Src.wfV (a : Src) : Bool := a.wf && (match a with | .v _ => true | .idx _ _ => true | _ => false)

/-- A 24-bit signed immediate. -/
def imm24Ok (i : Int) : Bool := decide (-8388608 ≤ i) && decide (i < 8388608)
def off16Ok (i : Int) : Bool := decide (-32768 ≤ i) && decide (i < 32768)
def dispWf (i : Int) : Bool := decide (-2147483648 ≤ i) && decide (i < 2147483648) && decide (i % 8 = 0)
def IntTy.is4 (t : IntTy) : Bool := decide (t.code < 4)
def IntTy.is2 (t : IntTy) : Bool := decide (t.code < 2)
def IntTy.isAbs (t : IntTy) : Bool := decide (t.code % 2 = 0)
def FTy.is2 (t : FTy) : Bool := decide (t.code < 2)
def slotWf (o : Option Nat) : Bool := match o with | none => true | some n => decide (n < 128)
def nWf (o : Option Src) : Bool := match o with | none => true | some a => a.wf
def qWf (q : List Nat) : Bool := decide (q.length = 8) && q.all (fun x => decide (x < 13))
def pairWf (src dst : Nat) : Bool := decide (src < 26) && decide (dst < 26) && decide (src ≠ dst)

def m3 (g : Guard) (d : Dst) (a b : Src) : Bool := g.wf && d.wf && a.wf && b.wf
def m4 (g : Guard) (d : Dst) (a b c : Src) : Bool := g.wf && d.wf && a.wf && b.wf && c.wf
def m2 (g : Guard) (d : Dst) (a : Src) : Bool := g.wf && d.wf && a.wf
def atomWf (g : Guard) (v : Nat) (sp : Space) (base : Src) (off : Int) : Bool :=
  g.wf && decide (v < 256) && atomSp sp && base.wfReg && off16Ok off
def redWf (g : Guard) (a : Src) (sp : Space) (base : Src) (o : Order) (off : Int) : Bool :=
  g.wf && a.wfRegImm && atomSp sp && base.wfReg && redOrd o && off16Ok off
def k3 (g : Guard) (kd ka kb fp : Nat) : Bool :=
  g.wf && decide (kd < 8) && decide (ka < 8) && decide (kb < 8) && decide (fp < 13)

/-- An instruction that the encoding can hold, or an event whose parameters exist. -/
def Instr.wf : Instr → Bool
  | .nop => true
  | .iadd g _ d a b | .isub g _ d a b | .iadds g _ d a b | .imul g _ d a b | .imin g _ d a b | .imax g _ d a b => m3 g d a b
  | .imulhi g t d a b | .idiv g t d a b | .irem g t d a b => m3 g d a b && t.is4
  | .iaddc g _ d a b ci co => m3 g d a b && decide (ci < 14) && decide (co < 13)
  | .imad g _ d a b c => m4 g d a b c
  | .imadw g t d a b c | .lea g t d a b c => m4 g d a b c && t.is2
  | .iabs g t d a => m2 g d a && t.isAbs
  | .ineg g _ d a => m2 g d a
  | .and g _ d a b | .or g _ d a b | .xor g _ d a b | .andn g _ d a b | .shl g _ d a b | .shr g _ d a b | .sar g _ d a b
  | .rot g _ d a b => m3 g d a b
  | .not g _ d a | .popc g _ d a | .clz g _ d a | .ctz g _ d a | .brev g _ d a => m2 g d a
  | .iaddImm g _ d a i => m2 g d a && imm24Ok i
  | .andImm g _ d a i | .orImm g _ d a i | .xorImm g _ d a i => m2 g d a && imm24Ok i
  | .fsh g _ d a b c | .bfi g _ d a b c => m4 g d a b c
  | .bfx g t d a c => m3 g d a c && t.is4
  | .prmt g d a b c => m4 g d a b c
  | .icmp g _ pd a b _ => g.wf && decide (pd < 12) && a.wf && b.wf
  | .icmpImm g _ pd a _ i => g.wf && decide (pd < 12) && a.wf && decide (-1048576 ≤ i) && decide (i < 1048576)
  | .sel g _ d a b pc => m3 g d a b && decide (pc < 12)
  | .fadd g _ d a b | .fsub g _ d a b | .fmul g _ d a b | .fscale g _ d a b | .fmin g _ d a b | .fmax g _ d a b
  | .fminp g _ d a b | .fmaxp g _ d a b => m3 g d a b
  | .ffma g _ d a b c | .ffms g _ d a b c => m4 g d a b c
  | .fdiv g t d a b => m3 g d a b && t.is2
  | .fsqrt g t d a => m2 g d a && t.is2
  | .fabs g _ d a | .fneg g _ d a => m2 g d a
  | .fcmp g _ pd a b _ => g.wf && decide (pd < 12) && a.wf && b.wf
  | .fclass g _ (.reg d) a => m2 g d a
  | .fclass g _ (.pred pd m) a => g.wf && decide (pd < 12) && m.wf && a.wf
  | .frcp g d a | .frsq g d a | .fexp2 g d a | .flog2 g d a | .fsin g d a | .fcos g d a | .ftanh g d a => m2 g d a
  | .frnd g _ d a _ => m2 g d a
  | .cvt g m ns dt sty d a => m2 g d a && cvtOk m ns dt sty
  | .pack g e d a b ns h => m3 g d a b && (decide (2 ≤ e.code) || (!ns && !h))
  | .unpk g e d a q => m2 g d a && decide (q ≤ unpkMax e)
  | .mxscale g _ d a => m2 g d a
  | .mxq g e d a sc ns => m3 g d a sc && (decide (e.code < 2) || !ns)
  | .mxdq g _ d a sc => m3 g d a sc
  | .hfma2 g _ d a b c | .idot4 g _ _ d a b c | .fdot2 g _ d a b c => m4 g d a b c
  | .plop g pd pa pb pc lut =>
    g.wf && decide (pd < 12) && decide (pa < 13) && decide (pb < 13) && decide (pc < 13) && decide (lut < 256)
  | .ppack g d q => g.wf && d.wf && qWf q
  | .punpack g a q => g.wf && a.wf && qWf q
  | .pmov g pd ps => g.wf && decide (pd < 12) && decide (ps < 13)
  | .pmovBit g pd a b => g.wf && decide (pd < 12) && a.wf && b.wf
  | .mov g _ d a => m2 g d a
  | .movToIndex g k a => g.wf && decide (k < 4) && a.wf
  | .movFromIndex g d k => g.wf && d.wf && decide (k < 4)
  | .movi g d _ i => g.wf && d.wf && decide (i < 4294967296)
  | .bcast g vd sa n => g.wf && decide (vd < 256) && decide (sa < 1024) && decide (1 ≤ n) && decide (n ≤ 16)
  | .lanerd g _ sd va ln => g.wf && decide (sd < 1024) && va.wfV && ln.wf
  | .lanewr g _ vd a ln => g.wf && decide (vd < 256) && a.wf && ln.wf
  | .setxw g k lo hi => g.wf && decide (k < 4) && lo.wf && hi.wf
  | .qswz g _ d a p => g.wf && d.wfV && a.wf && p.wf
  | .qdiff g _ d a => g.wf && d.wfV && a.wf
  | .shflPick g _ d a b pc sn | .shflRot g _ d a b pc sn | .shflSlide g _ d a b pc sn | .shflFlip g _ d a b pc sn =>
    g.wf && d.wfV && a.wf && b.wf && decide (pc < 13) && decide (sn < 5)
  | .voteMask g d ps m pc | .voteCount g d ps m pc | .voteLead g d ps m pc | .voteAgree g d ps m pc =>
    g.wf && d.wf && decide (ps < 13) && m.wf && decide (pc < 13)
  | .matchLead g _ d a m pc | .matchMask g _ d a m pc => g.wf && d.wfV && a.wf && m.wf && decide (pc < 13)
  | .redux g _ d a m pc => g.wf && d.wf && a.wf && m.wf && decide (pc < 13)
  | .scan g _ d a m sg => g.wf && d.wfV && a.wf && m.wf && sg.wf
  | .join g m => g.wf && m.wf
  | .ld g t d sp base o c off => g.wf && d.wfV && base.wfReg && ldOk t sp o c && ld128Ok t d && off16Ok off
  | .st g t a sp base o off => g.wf && a.wfRegImm && base.wfReg && stOk t sp o && off16Ok off
  | .ldc g r sd sp base o _ off =>
    g.wf && decide (r < 5) && decide (sd < 1024) && (sp == .global || sp == .const) && (o == .rlx || o == .acq)
      && base.wf && (match base with | .s _ => true | _ => false) && off16Ok off
  | .pref g sp base c off =>
    g.wf && (sp == .global || sp == .const) && (c == .normal || c == .stream) && base.wfReg && off16Ok off
  | .cctlDrop g sp base off | .cctlDrop4k g sp base off | .cctlRenew g sp base off =>
    g.wf && (sp == .global || sp == .const) && base.wfReg && off16Ok off
  | .xclr g base _ off => g.wf && base.wfReg && off16Ok off
  | .memopFill g r sl => g.wf && decide (r < 1024) && decide (sl < 128)
  | .memopAxpy g _ r sl | .memopAdd g _ r sl | .memopMul g _ r sl => g.wf && decide (r < 1024) && decide (sl < 128)
  | .memopReduce g _ r sl => g.wf && decide (r < 1024) && decide (sl < 128)
  | .fence g _ o => g.wf && (o != .rlx)
  | .flsig g sl => g.wf && slotWf sl
  | .watch g sl base off => g.wf && decide (sl < 128) && base.wfReg && off16Ok off
  | .atomAdd g t v sp base _ off | .atomMin g t v sp base _ off | .atomMax g t v sp base _ off
  | .atomAnd g t v sp base _ off | .atomOr g t v sp base _ off | .atomXor g t v sp base _ off
  | .atomExch g t v sp base _ off | .atomCas g t v sp base _ off => atomWf g v sp base off && t.is4
  | .atomFadd g _ v sp base _ off => atomWf g v sp base off
  | .atomXadd g _ v base _ off => g.wf && decide (v < 256) && base.wfReg && off16Ok off
  | .redAdd g t a sp base o off | .redMin g t a sp base o off | .redMax g t a sp base o off | .redAnd g t a sp base o off
  | .redOr g t a sp base o off | .redXor g t a sp base o off => redWf g a sp base o off && t.is4
  | .redFadd g _ a sp base o off => redWf g a sp base o off
  | .redXadd g _ a base o off => g.wf && a.wfRegImm && base.wfReg && redOrd o && off16Ok off
  | .binit g n off => g.wf && decide (n < 128) && off.wf
  | .arrive g _ n c => g.wf && decide (n < 128) && nWf c
  | .arriveAddress g _ _ a c => g.wf && a.wf && nWf c
  | .expectOnce g n a | .expectEach g n a => g.wf && decide (n < 128) && a.wf
  | .btestPa g d n | .btestPb g d n | .btestAll g d n => g.wf && d.wf && decide (n < 128)
  | .btestPassed g pd n t => g.wf && decide (pd < 12) && decide (n < 128) && t.wf
  | .binval g n => g.wf && decide (n < 128)
  | .cpy g r sl _ | .cpyg g r sl _ => g.wf && decide (r < 1024) && decide (sl < 128)
  | .cpym g r sl m _ => g.wf && decide (r < 1024) && decide (sl < 128) && decide (m < 256)
  | .cpyr g r sl => g.wf && decide (r < 1024) && decide (sl < 128)
  | .cpyx g sl => g.wf && decide (sl < 128)
  | .acfg g t n f => g.wf && decide (t < 64) && n.wfRegImm && f.wfRegImm
  | .azero g t v sl => g.wf && decide (t < 64) && decide (v < 256) && slotWf sl
  | .afence g => g.wf
  | .mma g at_ t v _ a bm _ sl =>
    g.wf && decide (at_.code < 4) && decide (t < 64) && decide (v < 256) && decide (bm < 1024) && slotWf sl
      && (match a with | .regs d => d.wfV | .map s => decide (s < 1024))
  | .mmas g at_ t v _ a bm _ sl =>
    g.wf && decide (4 ≤ at_.code) && decide (t < 64) && decide (v < 256) && decide (bm < 1024) && slotWf sl
      && (match a with | .regs d => d.wfV | .map s => decide (s < 1024))
  | .ald g t v mp sl => g.wf && decide (t < 64) && decide (v < 256) && decide (mp < 1024) && slotWf sl
  | .ast g t v now mp sl =>
    g.wf && decide (t < 64) && decide (v < 256) && decide (mp < 1024) && slotWf sl && (!now || v == 0)
  | .ard g t v now d c0 n =>
    g.wf && decide (t < 64) && decide (v < 256) && d.wfV && decide (c0 < 512) && decide (1 ≤ n) && decide (n ≤ 16)
      && (!now || v == 0)
  | .awr g t v a c0 n =>
    g.wf && decide (t < 64) && decide (v < 256) && a.wfV && decide (c0 < 512) && decide (1 ≤ n) && decide (n ≤ 16)
  | .kshape g _ kd base r c =>
    g.wf && decide (kd < 8) && base.wfRegImm && decide (1 ≤ r) && decide (r ≤ 6) && decide (1 ≤ c) && decide (c ≤ 6)
  | .kshapeClr g kd | .kzero g kd | .keye g kd => g.wf && decide (kd < 8)
  | .kadd g kd ka kb fp | .kmul g kd ka kb fp | .kmad g kd ka kb fp => k3 g kd ka kb fp
  | .ktrn g kd ka fp | .kchol g kd ka fp | .kldl g kd ka fp | .kinv g kd ka fp => k3 g kd ka 0 fp
  | .klu g kd ka pv fp => k3 g kd ka 0 fp && pv.wfV
  | .ksolve g f kd ka kb pv fp =>
    k3 g kd ka kb fp && (match f, pv with | .lu, some d => d.wfV | .lu, none => false | _, none => true | _, some _ => false)
  | .kdet g d ka fp => k3 g 0 ka 0 fp && d.wfV
  | .bra g disp h => g.wf && dispWf disp && decide (h < 3)
  | .call g disp => g.wf && dispWf disp
  | .brx g t | .callx g t | .ret g t => g.wf && t.wf
  | .exit g | .yield g | .bkpt g | .eret g | .hostint g => g.wf
  | .ctxsaveCopy g | .ctxsaveAcc g | .ctxsaveGrp g | .ctxsaveBlk g | .ctxrestBlk g | .ctxrestGrp g | .ctxrestAcc g
  | .ctxrestCopy g => g.wf
  | .launch g sd sa pd => g.wf && decide (sd < 1024) && decide (sa < 1024) && decide (pd < 12)
  | .migrate g pd a => g.wf && decide (pd < 12) && a.wf
  | .trap g c => g.wf && c.wf
  | .srd g d n => g.wf && d.wf && decide (n < 4096)
  | .swr g a n => g.wf && a.wf && decide (n < 4096)
  | .pmark g a => g.wf && a.wf
  | .logw g s tag => g.wf && decide (s < 1024) && decide (tag < 4096)
  -- operations and events: the parts they name exist
  | .ctxnew h _ | .ctxreset h => decide (h.fn < 256) && decide (h.ctx < 256)
  | .segset h _ _ _ _ | .weights h _ _ | .logset h _ _ | .fabread h _ _ _ | .fabwriteLnkerr h _ _
  | .fabwritePairrt h _ _ | .fabwriteRemreq h _ _ | .attest h _ _ | .diefence h _ | .farpol h _ | .expgrant h _ =>
    decide (h.fn < 256) && decide (h.ctx < 256)
  | .flitReceive s d _ | .ackFlitTimer s d | .nakReplay s d | .replayTimeout s d | .pauseReceive s d | .ackReceive s d
  | .channelDead s d _ _ | .channelState s d | .linkChangeReport s d | .channelRetrainStart s d _
  | .channelTrainingEnd s d _ _ | .pairdownTimeout s d => pairWf s d
  | .relayedFlitForward v => decide (v < 26)
  | .laserFail m | .laserMonitorReport m | .moduleRemoval m | .moduleInsert m | .moduleWarmDone m | .moduleOut m =>
    decide (m < 5)
  | .standbyCommit | .standbyLightOn | .standbyFail | .powerP2Entry | .powerP2Exit => true
  | .eventVectorHoldoffExpiry f v => decide (f < 64) && decide (v < 136)
  | .junctionThrottle die _ => decide (die < 8)
  | .homeRequestAccept h s | .retryResend h s => decide (h < 18) && decide (s < 18)
  | .heldWritePerform h | .parityAck h | .parityDelta h | .leaseRenewal h | .cellOperation h | .cellMirrorUpdate h
  | .memopUnit h | .memoryDieFailure h => decide (h < 18)
  | .writeClassDecay _ => true
  | .granuleRelease die _ => decide (die < 17)
  | .heatSample _ => true
  | .heatEpoch c => decide (c < 128)
  | .dramScrub die _ _ => decide (die < 17)
  | .hostLinkChange l _ _ => decide (l < 2)
  | .hostMemoryAccess r => decide (r.fn < 64)
  | .uioCompletion => true
  | .functionLevelReset f | .flrdone f | .loglost f => decide (f < 64)
  | .computeDieFatal d => decide (d < 8)
  | .sramue _ | .deviceReset _ => true
  | .alarm c f => decide (1 ≤ c) && decide (c ≤ 8) && decide (f < 64)
  | .missRecord => true
  | .missRecordResend d _ => decide (d < 18)
  | .pageWalkDone _ | .faultReady _ | .faultFinal _ _ | .tlbInvalidation _ _ | .pendingReply | .wakeReplay | .finalReply
  | .hostFaultTimeout | .migration _ _ _ _ => true
  | .fillInstall d => decide (d < 18)
  | .launchReply => true
  | .blockPlace tt c | .resplitTimeout tt c | .sliceExpiry tt c => decide (tt < 4096) && decide (c < 64)
  | .drainTimeout c | .storeAck c | .freightRevoke c | .freightClosed c | .freightReopen c | .copyAdmit c => decide (c < 64)
  | .backgroundPromote tt | .taskComplete tt => decide (tt < 4096)
  | .preemptRequest _ | .blockRetire _ | .stopRecord _ | .debugResume _ => true
  | .blockRestore _ c => decide (c < 64)
  | .issueSelect c p => decide (c < 64) && decide (p < 4)
  | .loadComplete _ op => decide (op < 16)
  | .branchResolve _ n => decide (n < 32)
  | .renewalReply _ | .joinWaitSatisfied _ | .arrivalApply | .watchFire | .copyUnitDeliver _ _ _ | .mmaChunkEnd _
  | .mmaComplete _ | .mmaResume _ | .tileWordComplete _ | .kwordComplete _ | .trapEntry _ | .migrateShippingDone _ => true
  | .debugStop _ _ | .debugIdentify | .debugChallenge => true
  | .debugUnlock sc f _ => decide (sc < 2) && decide (f < 64)
  | .dbgcmpWrite c i _ => decide (c < 128) && decide (i < 8)
  | .sampleTick c x => decide (c < 64) && decide (x < 128)
  | .lcrFlush => true
  | .logbookConfigRead c => decide (c < 128)
  | .registerWrite _ _ | .powerLoss => true
  | .msixTableWrite f v _ => decide (f < 64) && decide (v < 136)

end Sys2Proof
end

