-- ==== Sys2Proof/Certificates/Slice0/Obligations.lean ====
section
/-! DEFINITION. Certificates/Slice0/Obligations.lean: the statements about this model. -/

open Sys2Proof Sys2Proof.Machine

/-! ### Integer, bit, predicate and move words (chapter 13) -/

/-- The integer words of R330, IMADW (R332) and the immediate IADD (R335): with x, y and z the operands read under
R328, a word that can run completes, each working lane's destination holds the exact sum, product or choice written
under R328, and nothing else of the machine changes (no flag, R328). IADDC (R331): the sum of the operands and the
carry in, modulo 2^w, and the carry out in the predicate named; a uniform word's carry goes to every active lane. The
model's own choices in it: log entry 21. -/
def Obligations.IntegerArithmetic : Prop :=
  (∀ (s : State) (q : Guard) (t : IntTy) (d : Dst) (a b c : Src) (i : Int),
     let v (is : Issue) (p : Src) (l : Nat) : Int := t.read (s.opnd is t.is64 p l)
     let is (w : Instr) (f : Issue → Nat → Int) : Prop :=
       s.Completes w q fun is u => s.Computes u is t.is64 d fun l => t.written (f is l)
     is (.iadd q t d a b) (fun is l => v is a l + v is b l) ∧
     is (.isub q t d a b) (fun is l => v is a l - v is b l) ∧
     is (.iadds q t d a b) (fun is l => max t.lo (min t.hi (v is a l + v is b l))) ∧
     is (.imul q t d a b) (fun is l => v is a l * v is b l) ∧
     is (.imulhi q t d a b) (fun is l => v is a l * v is b l / 2 ^ t.width) ∧
     is (.imad q t d a b c) (fun is l => v is a l * v is b l + v is c l) ∧
     is (.imin q t d a b) (fun is l => min (v is a l) (v is b l)) ∧
     is (.imax q t d a b) (fun is l => max (v is a l) (v is b l)) ∧
     is (.iabs q t d a) (fun is l => |v is a l|) ∧
     is (.ineg q t d a) (fun is l => -v is a l) ∧
     is (.iaddImm q t d a i) (fun is l => v is a l + t.read (BitVec.ofInt t.width i).toNat) ∧
     s.Completes (.imadw q t d a b c) q fun is u => s.Computes u is true d fun l =>
       (BitVec.ofInt 64 (t.read (s.opnd is false a l) * t.read (s.opnd is false b l) + (s.opnd is true c l : Nat))).toNat) ∧
  (∀ (s : State) (q : Guard) (wide : Bool) (d : Dst) (a b : Src) (cin cout : Nat), cin ≤ 13 → cout ≤ 12 →
     let w := if wide then 64 else 32
     let c (is : Issue) (l : Nat) : Nat := if cin < 12 then (if is.g.pred cin l then 1 else 0) else cin - 12
     s.Completes (.iaddc q wide d a b cin cout) q fun is u =>
       let sum (l : Nat) := (s.bv is w a l).toNat + (s.bv is w b l).toNat + c is l
       s.ComputesPred u is wide d (fun l => sum l % 2 ^ w) cout fun l => decide (2 ^ w ≤ sum (if dstIsS d then is.low else l)))

/-- IDIV and IREM (R333): division rounds toward zero; by zero the quotient is all ones and the remainder x; the most negative
value by −1 gives itself and 0; no fault is raised and no flag is set. -/
def Obligations.IntegerDivision : Prop :=
  ∀ (s : State) (q : Guard) (t : IntTy) (d : Dst) (a b : Src),
    let x (is : Issue) (l : Nat) : Int := t.read (s.opnd is t.is64 a l)
    let y (is : Issue) (l : Nat) : Int := t.read (s.opnd is t.is64 b l)
    let minOver (is : Issue) (l : Nat) : Prop := t.signed = true ∧ x is l = -2 ^ (t.width - 1) ∧ y is l = -1
    (s.Completes (.idiv q t d a b) q fun is u => ∃ f : Nat → Int, (s.Computes u is t.is64 d fun l => t.written (f l)) ∧
      ∀ l, (y is l = 0 → f l = 2 ^ t.width - 1) ∧ (minOver is l → f l = x is l) ∧
        (y is l ≠ 0 → ¬ minOver is l → |f l| * |y is l| ≤ |x is l| ∧ |x is l| < (|f l| + 1) * |y is l| ∧
          (0 ≤ f l * (x is l * y is l)))) ∧
    (s.Completes (.irem q t d a b) q fun is u => ∃ f : Nat → Int, (s.Computes u is t.is64 d fun l => t.written (f l)) ∧
      ∀ l, (y is l = 0 → f l = x is l) ∧ (minOver is l → f l = 0) ∧
        (y is l ≠ 0 → ¬ minOver is l → |f l| < |y is l| ∧ y is l ∣ x is l - f l ∧ 0 ≤ f l * x is l))

/-- The bitwise words and their immediate forms (R334, R335), bit by bit at width w. BFX and BFI (R339), bit by bit:
BFX takes len bits from pos, where bits at or above the width read as the sign (.i) or 0, and extends them; BFI
replaces the bits from pos up to min(pos + len, w). -/
def Obligations.LogicAndFields : Prop :=
  (∀ (s : State) (q : Guard) (wide : Bool) (d : Dst) (a b : Src) (i : Int),
     let w := if wide then 64 else 32
     let is (k : Instr) (f : Issue → Nat → BitVec w) : Prop :=
       s.Completes k q fun is u => s.Computes u is wide d fun l => (f is l).toNat
     is (.and q wide d a b) (fun is l => s.bv is w a l &&& s.bv is w b l) ∧
     is (.or q wide d a b) (fun is l => s.bv is w a l ||| s.bv is w b l) ∧
     is (.xor q wide d a b) (fun is l => s.bv is w a l ^^^ s.bv is w b l) ∧
     is (.andn q wide d a b) (fun is l => s.bv is w a l &&& ~~~(s.bv is w b l)) ∧
     is (.not q wide d a) (fun is l => ~~~(s.bv is w a l)) ∧
     is (.andImm q wide d a i) (fun is l => s.bv is w a l &&& BitVec.ofInt w i) ∧
     is (.orImm q wide d a i) (fun is l => s.bv is w a l ||| BitVec.ofInt w i) ∧
     is (.xorImm q wide d a i) (fun is l => s.bv is w a l ^^^ BitVec.ofInt w i)) ∧
  (∀ (s : State) (q : Guard) (t : IntTy) (wide : Bool) (d : Dst) (a b c : Src), 32 ≤ t.width →
     let pos (is : Issue) (p : Src) (l : Nat) : Nat := (s.bv is 32 p l).toNat % 256
     let len (is : Issue) (p : Src) (l : Nat) : Nat := (s.bv is 32 p l).toNat / 256 % 256
     (s.Completes (.bfx q t d a b) q fun is u => ∃ f : Nat → BitVec t.width,
       (s.Computes u is t.is64 d fun l => (f l).toNat) ∧
       ∀ l, let x := s.bv is t.width a l
         let n := min (len is b l) t.width
         let field (k : Nat) : Bool :=
           if pos is b l + k < t.width then x.getLsbD (pos is b l + k) else t.signed && x.msb
         ∀ k < t.width, (f l).getLsbD k =
           if n = 0 then false else if k < n then field k else t.signed && field (n - 1)) ∧
     (let w := if wide then 64 else 32
      s.Completes (.bfi q wide d a b c) q fun is u => ∃ f : Nat → BitVec w,
       (s.Computes u is wide d fun l => (f l).toNat) ∧
       ∀ l, ∀ k < w, (f l).getLsbD k =
         if pos is c l ≤ k ∧ k < pos is c l + len is c l then (s.bv is w b l).getLsbD (k - pos is c l)
         else (s.bv is w a l).getLsbD k))

/-- The shift words (R336) and FSH (R337): the amount is bits 7:0 of the operand; a shift by the width or more gives 0, or the
sign for SAR; ROT takes the amount modulo the width; FSH takes it up to the width. -/
def Obligations.Shifts : Prop :=
  ∀ (s : State) (q : Guard) (wide : Bool) (d : Dst) (a b c : Src),
    let w := if wide then 64 else 32
    let n (is : Issue) (p : Src) (l : Nat) : Nat := (s.bv is 32 p l).toNat % 256
    let is (k : Instr) (f : Issue → Nat → BitVec w) : Prop :=
      s.Completes k q fun is u => s.Computes u is wide d fun l => (f is l).toNat
    is (.shl q wide d a b) (fun is l => s.bv is w a l <<< n is b l) ∧
    is (.shr q wide d a b) (fun is l => s.bv is w a l >>> n is b l) ∧
    is (.sar q wide d a b) (fun is l => (s.bv is w a l).sshiftRight (n is b l)) ∧
    is (.rot q wide d a b) (fun is l => (s.bv is w a l).rotateLeft (n is b l)) ∧
    is (.fsh q wide d a b c) (fun is l =>
      BitVec.setWidth w ((s.bv is w b l ++ s.bv is w a l) >>> min (n is c l) w))

/-- POPC, CLZ, CTZ and BREV (R338). -/
def Obligations.BitCounts : Prop :=
  ∀ (s : State) (q : Guard) (wide : Bool) (d : Dst) (a : Src),
    let w := if wide then 64 else 32
    let bits (is : Issue) (l k : Nat) : Bool := (s.bv is w a l).getLsbD k
    let is (k : Instr) (f : Issue → Nat → Nat) : Prop := s.Completes k q fun is u => s.Computes u is false d (f is)
    is (.popc q wide d a) (fun is l => ((List.range w).filter (bits is l)).length) ∧
    is (.clz q wide d a) (fun is l => ((List.range w).takeWhile fun k => !bits is l (w - 1 - k)).length) ∧
    is (.ctz q wide d a) (fun is l => ((List.range w).takeWhile fun k => !bits is l k).length) ∧
    s.Completes (.brev q wide d a) q fun is u => s.Computes u is wide d fun l => ((s.bv is w a l).reverse).toNat

/-- PRMT (R340), LEA (R341) and SEL (R343). -/
def Obligations.PermuteAddressSelect : Prop :=
  ∀ (s : State) (q : Guard) (t : IntTy) (wide : Bool) (d : Dst) (a b c : Src) (pc : Nat), t.width = 32 → pc < 12 →
    (s.Completes (.prmt q d a b c) q fun is u => ∃ f : Nat → BitVec 32, (s.Computes u is false d fun l => (f l).toNat) ∧
      ∀ l, ∀ i < 4,
        let nib := (s.bv is 32 c l).extractLsb' (4 * i) 4
        let byte := (s.bv is 32 b l ++ s.bv is 32 a l).extractLsb' (8 * (nib.extractLsb' 0 3).toNat) 8
        (f l).extractLsb' (8 * i) 8 = if nib.msb then (if byte.msb then 0xFF else 0) else byte) ∧
    (s.Completes (.lea q t d a b c) q fun is u => s.Computes u is true d fun l =>
      (s.bv is 64 a l + BitVec.ofInt 64 (t.read (s.opnd is false b l)) <<< ((s.bv is 32 c l).extractLsb' 0 4).toNat).toNat) ∧
    (s.Completes (.sel q wide d a b pc) q fun is u => s.Computes u is wide d fun l =>
      s.opnd is wide (if is.g.pred pc l then a else b) l)

/-- The comparisons: ICMP with both forms of its second operand (R342), FCMP (R369) and FCLASS into a predicate (R370)
set one predicate in the active lanes and change nothing else; FCLASS into a register writes the class mask. The
predicate words: PLOP (R344), PPACK and PUNPACK (R345) and PMOV (R346). Code 12 reads true. -/
def Obligations.ComparisonsAndPredicates : Prop :=
  (∀ (s : State) (q : Guard) (t : IntTy) (ft : FTy) (pd : Nat) (a b : Src) (i : Int) (d : Dst),
     let v (is : Issue) (p : Src) (l : Nat) : Int := t.read (s.opnd is t.is64 p l)
     let im : Int := t.read (BitVec.ofInt t.width i).toNat
     let x (is : Issue) (p : Src) (l : Nat) : Ex := s.fopnd is ft p l
     let sets (w : Instr) (f : Issue → Nat → Bool) : Prop := s.Completes w q fun is u => s.Decides u is pd (f is)
     let unord (is : Issue) (l : Nat) : Bool := (x is a l).isNan || (x is b l).isNan
     let ord (is : Issue) (l : Nat) (o : List Ordering) : Bool := !unord is l && o.contains ((x is a l).cmp (x is b l) false)
     sets (.icmp q t pd a b .eq) (fun is l => decide (v is a l = v is b l)) ∧
     sets (.icmp q t pd a b .ne) (fun is l => decide (v is a l ≠ v is b l)) ∧
     sets (.icmp q t pd a b .lt) (fun is l => decide (v is a l < v is b l)) ∧
     sets (.icmp q t pd a b .le) (fun is l => decide (v is a l ≤ v is b l)) ∧
     sets (.icmp q t pd a b .gt) (fun is l => decide (v is a l > v is b l)) ∧
     sets (.icmp q t pd a b .ge) (fun is l => decide (v is a l ≥ v is b l)) ∧
     sets (.icmpImm q t pd a .eq i) (fun is l => decide (v is a l = im)) ∧
     sets (.icmpImm q t pd a .ne i) (fun is l => decide (v is a l ≠ im)) ∧
     sets (.icmpImm q t pd a .lt i) (fun is l => decide (v is a l < im)) ∧
     sets (.icmpImm q t pd a .le i) (fun is l => decide (v is a l ≤ im)) ∧
     sets (.icmpImm q t pd a .gt i) (fun is l => decide (v is a l > im)) ∧
     sets (.icmpImm q t pd a .ge i) (fun is l => decide (v is a l ≥ im)) ∧
     sets (.fcmp q ft pd a b .eq) (fun is l => ord is l [.eq]) ∧
     sets (.fcmp q ft pd a b .ne) (fun is l => !ord is l [.eq]) ∧
     sets (.fcmp q ft pd a b .lt) (fun is l => ord is l [.lt]) ∧
     sets (.fcmp q ft pd a b .le) (fun is l => ord is l [.lt, .eq]) ∧
     sets (.fcmp q ft pd a b .gt) (fun is l => ord is l [.gt]) ∧
     sets (.fcmp q ft pd a b .ge) (fun is l => ord is l [.gt, .eq]) ∧
     sets (.fcmp q ft pd a b .num) (fun is l => !unord is l) ∧
     sets (.fcmp q ft pd a b .nan) (fun is l => unord is l) ∧
     sets (.fclass q ft (.pred pd b) a) (fun is l =>
       (s.opnd is false b l % 2 ^ 9) &&& classMask (fmtOf ft) (x is a l) != 0) ∧
     s.Completes (.fclass q ft (.reg d) a) q fun is u => s.Computes u is false d fun l => classMask (fmtOf ft) (x is a l)) ∧
  (∀ (s : State) (q : Guard) (pd pa pb pc lut ps : Nat) (a b : Src) (d : Dst) (qs : List Nat),
     let n (is : Issue) (p l : Nat) : Nat := if is.g.pred p l then 1 else 0
     (s.Completes (.plop q pd pa pb pc lut) q fun is u => s.Decides u is pd fun l =>
       lut.testBit (4 * n is pa l + 2 * n is pb l + n is pc l)) ∧
     (s.Completes (.pmov q pd ps) q fun is u => s.Decides u is pd fun l => is.g.pred ps l) ∧
     (s.Completes (.pmovBit q pd a b) q fun is u => s.Decides u is pd fun l =>
       (s.bv is 32 a l).getLsbD ((s.bv is 32 b l).toNat % 32)) ∧
     (qs.length = 8 → s.Completes (.ppack q d qs) q fun is u => ∃ f : Nat → Nat, s.Computes u is false d f ∧
       ∀ l, f l < 2 ^ 8 ∧ ∀ k < 8, (f l).testBit k = is.g.pred (qs.getD k 12) l) ∧
     (s.Completes (.punpack q a qs) q fun is u => ∃ h : Group, u = s.setGroup is.gid h ∧
       h = { is.g.advance is.i with p := h.p, fences := h.fences } ∧
       ∀ k < 12, ∀ l < 32, h.pred k l =
         match (qs.zipIdx.filter fun x => x.1 == k).getLast? with
         | some x => if lane is.act l then (s.bv is 32 a l).getLsbD x.2 else is.g.pred k l
         | none => is.g.pred k l))

/-- The moves: MOV (R347) and MOVI (R348) in every form, and BCAST (R349). LANERD and LANEWR (R350) and SETXW (R351).
A direct va is read whatever the lane's state; an absent lane reads 0; LANEWR writes only a lane that is live. -/
def Obligations.MovesAndLaneAccess : Prop :=
  (∀ (s : State) (q : Guard) (wide : Bool) (d : Dst) (a : Src) (k imm vd sa n : Nat), imm < 2 ^ 32 →
     let old (is : Issue) (l : Nat) : Nat := s.opnd is true (dstSrc d) l
     (s.Completes (.mov q wide d a) q fun is u => s.Computes u is wide d fun l => s.opnd is wide a l) ∧
     (s.Completes (.movFromIndex q d k) q fun is u => s.Computes u is false d fun l => (is.g.xreg k l).toNat) ∧
     (s.Completes (.movToIndex q k a) q fun is u => ∃ h : Group, u = s.setGroup is.gid h ∧
       h = { is.g.advance is.i with x := h.x, fences := h.fences } ∧
       ∀ j, ∀ l < 32, h.xreg j l = if j = k ∧ lane is.act l = true then (s.bv is 32 a l).setWidth 16 else is.g.xreg j l) ∧
     (s.Completes (.movi q d .b32 imm) q fun is u => s.Computes u is false d fun _ => imm) ∧
     (s.Completes (.movi q d .lo imm) q fun is u => s.Computes u is true d fun l => imm + old is l / 2 ^ 32 * 2 ^ 32) ∧
     (s.Completes (.movi q d .hi imm) q fun is u => s.Computes u is true d fun l => old is l % 2 ^ 32 + imm * 2 ^ 32) ∧
     (s.Completes (.movi q d .i64 imm) q fun is u => s.Computes u is true d fun _ =>
       ((BitVec.ofNat 32 imm).signExtend 64).toNat) ∧
     (s.Completes (.movi q d .n64 imm) q fun is u => s.Computes u is true d fun _ => imm) ∧
     (s.Completes (.bcast q vd sa n) q fun is u => ∃ h : Group, u = s.setGroup is.gid h ∧
       h = { is.g.advance is.i with v := h.v, fences := h.fences } ∧
       ∀ r, ∀ l < 32, h.vreg r l =
         if vd ≤ r ∧ r < vd + n ∧ lane is.act l = true then is.g.sreg (sa + (r - vd)) else is.g.vreg r l)) ∧
  (∀ (s : State) (q : Guard) (wide : Bool) (sd vd va k : Nat) (a ln lo hi : Src), k < 4 →
     let n (is : Issue) : Nat := (s.bv is 32 ln is.low).toNat % 32
     (s.Completes (.lanerd q wide sd (.v va) ln) q fun is u => s.Computes u is wide (.s sd) fun _ =>
       if is.g.standing (n is) then s.opnd is wide (.v va) (n is) else 0) ∧
     (s.Completes (.lanewr q wide vd a ln) q fun is u => ∃ h : Group, u = s.setGroup is.gid h ∧
       h = { is.g.advance is.i with v := h.v, fences := h.fences } ∧
       (lane is.g.live (n is) = true → h.readV wide vd (n is) = s.opnd is wide a is.low % 2 ^ (if wide then 64 else 32)) ∧
       ∀ r, ∀ l < 32, ¬ (lane is.g.live l = true ∧ l = n is ∧ (r = vd ∨ wide = true ∧ r = vd + 1)) → h.vreg r l = is.g.vreg r l) ∧
     (s.Completes (.setxw q k lo hi) q fun is u => ∃ h : Group, u = s.setGroup is.gid h ∧
       h = { is.g.advance is.i with xwin := h.xwin, fences := h.fences } ∧
       h.xwin = is.g.xwin.set k ((0 : BitVec 16) ++ (s.bv is 32 hi is.low).setWidth 8 ++ (s.bv is 32 lo is.low).setWidth 8)))

/-! ### Float and conversion words (chapter 14) -/

/-- The arithmetic words of R366: the exact result of the operands' exact values, rounded once to nearest even in the
type, with the special values of R367; the flags join FSTAT of every active lane (R365); nothing else changes. The
model's own choices in it: log entries 21, 116. The exact arithmetic behind R366 over the rationals: sums, products
and fused products of finite values are exact, and scaling multiplies by a power of two. -/
def Obligations.FloatArithmetic : Prop :=
  (∀ (s : State) (q : Guard) (t : FTy) (d : Dst) (a b c : Src),
     let x (is : Issue) (p : Src) (l : Nat) : Ex := s.fopnd is t p l
     let is (w : Instr) (f : Issue → Nat → Ex × Flags) : Prop :=
       s.Completes w q fun is u => s.ComputesFlags u is t.is64 d fun l => (fmtOf t).finish (f is l)
     is (.fadd q t d a b) (fun is l => (x is a l).add (x is b l)) ∧
     is (.fsub q t d a b) (fun is l => (x is a l).add (x is b l).neg) ∧
     is (.fmul q t d a b) (fun is l => (x is a l).mul (x is b l)) ∧
     is (.ffma q t d a b c) (fun is l => (x is a l).fma (x is b l) (x is c l)) ∧
     is (.ffms q t d a b c) (fun is l => (x is a l).fma (x is b l) (x is c l).neg) ∧
     is (.fscale q t d a b) (fun is l => ((x is a l).scale (s.bv is 32 b l).toInt, 0)) ∧
     is (.fdiv q t d a b) (fun is l => (x is a l).div (x is b l)) ∧
     is (.fsqrt q t d a) (fun is l => (x is a l).sqrt)) ∧
  (∀ (a b c : Bool) (m n k : Nat) (e f g j : Int),
     let v (s : Bool) (m : Nat) (e : Int) : ℚ := (if s then -(m : ℚ) else m) * 2 ^ e
     let x : Ex := .fin a m e false
     let y : Ex := .fin b n f false
     let z : Ex := .fin c k g false
     let holds (r : Ex × Flags) (q : ℚ) : Prop := r.2 = 0 ∧ ∃ s p h, r.1 = .fin s p h false ∧ v s p h = q
     holds (x.add y) (v a m e + v b n f) ∧ holds (x.mul y) (v a m e * v b n f) ∧
       holds (x.fma y z) (v a m e * v b n f + v c k g) ∧ holds (x.scale j, 0) (v a m e * 2 ^ j))

/-- The special values of R367, for every type: a NaN operand gives the canonical NaN (R254) and no flag; an invalid
operation gives it with NV; a finite number other than 0 over a zero gives an infinity with DZ; the root of −0 is −0.
Selection and sign (R368) and FRND (R372): no flag changes; −0 lies below +0; a result is one of the inputs, or the
canonical NaN; FRND gives the integral value nearest under the mode. The model's own choices in it: log entry 21. -/
def Obligations.FloatSpecialsAndSelection : Prop :=
  (∀ (t : FTy) (x y : Ex) (n k : Bool) (m : Nat) (e : Int), m ≠ 0 →
     let f := fmtOf t
     let inf (s : Bool) : Nat × Flags := (f.infMag + f.sign s, 0)
     (f.finish (Ex.nan.add x) = (f.nan, 0) ∧ f.finish (x.add .nan) = (f.nan, 0) ∧ f.finish (x.mul .nan) = (f.nan, 0) ∧
       f.finish (x.fma y .nan) = (f.nan, 0) ∧ f.finish (x.fma .nan y) = (f.nan, 0) ∧ f.finish (Ex.nan.div x) = (f.nan, 0) ∧
       f.finish (x.div .nan) = (f.nan, 0) ∧ f.finish Ex.nan.sqrt = (f.nan, 0)) ∧
     (f.finish ((Ex.inf n).add (.inf !n)) = (f.nan, flNV) ∧ f.finish ((Ex.inf n).mul (.zero k)) = (f.nan, flNV) ∧
       f.finish ((Ex.zero k).div (.zero n)) = (f.nan, flNV) ∧ f.finish ((Ex.inf n).div (.inf k)) = (f.nan, flNV) ∧
       f.finish (Ex.sqrt (.fin true m e false)) = (f.nan, flNV) ∧ f.finish (Ex.sqrt (.inf true)) = (f.nan, flNV)) ∧
     f.finish (Ex.div (.fin n m e false) (.zero k)) = ((inf (n != k)).1, flDZ) ∧
     f.finish ((Ex.zero n).add (.zero k)) = (f.sign (n && k), 0) ∧ f.finish (Ex.sqrt (.zero n)) = (f.sign n, 0) ∧
     f.finish ((Ex.inf n).add (.fin k m e false)) = inf n ∧ f.finish ((Ex.inf n).scale e, 0) = inf n) ∧
  (∀ (s : State) (q : Guard) (t : FTy) (d : Dst) (a b : Src) (m : RMode),
     let f := fmtOf t
     let x (is : Issue) (p : Src) (l : Nat) : Ex := s.fopnd is t p l
     let picks (w : Instr) (quiet : Bool) (o : Ordering) : Prop := s.Completes w q fun is u =>
       ∃ r : Nat → Nat, (s.ComputesFlags u is t.is64 d fun l => (r l, 0)) ∧ ∀ l,
         ((x is a l).isNan → (x is b l).isNan → r l = f.nan) ∧
         ((x is a l).isNan → ¬ (x is b l).isNan → r l = if quiet then f.bitsOf (x is b l) else f.nan) ∧
         (¬ (x is a l).isNan → (x is b l).isNan → r l = if quiet then f.bitsOf (x is a l) else f.nan) ∧
         (¬ (x is a l).isNan → ¬ (x is b l).isNan →
           r l = f.bitsOf (if (x is a l).cmp (x is b l) true = o then x is b l else x is a l))
     picks (.fmin q t d a b) true .gt ∧ picks (.fmax q t d a b) true .lt ∧
     picks (.fminp q t d a b) false .gt ∧ picks (.fmaxp q t d a b) false .lt ∧
     (s.Completes (.fabs q t d a) q fun is u => s.ComputesFlags u is t.is64 d fun l => (f.bitsOf (x is a l).abs, 0)) ∧
     (s.Completes (.fneg q t d a) q fun is u => s.ComputesFlags u is t.is64 d fun l => (f.bitsOf (x is a l).neg, 0)) ∧
     (s.Completes (.frnd q t d a m) q fun is u => s.ComputesFlags u is t.is64 d fun l =>
       (f.bitsOf ((x is a l).integral m), 0)))

/-- The approximating words (R371): each is one fixed function of the FP32 bits of its input, whatever the state, lane
or guard; the canonical NaN for a NaN, with no flag; and the special values of zeros, infinities, ones and negative
numbers. What else the function gives the spec leaves open within its bounds (the free value Config.approx). The
model's own choices in it: log entry 7. -/
def Obligations.Approximations : Prop :=
  ∃ rcp rsq exp2 log2 sin cos tanh : Nat → Nat × Flags,
    (∀ (s : State) (q : Guard) (d : Dst) (a : Src),
      let is (w : Instr) (f : Nat → Nat × Flags) : Prop :=
        s.Completes w q fun is u => s.ComputesFlags u is false d fun l => f (s.f32Bits is a l)
      is (.frcp q d a) rcp ∧ is (.frsq q d a) rsq ∧ is (.fexp2 q d a) exp2 ∧ is (.flog2 q d a) log2 ∧
        is (.fsin q d a) sin ∧ is (.fcos q d a) cos ∧ is (.ftanh q d a) tanh) ∧
    (∀ f ∈ [rcp, rsq, exp2, log2, sin, cos, tanh], ∀ x, 0x7F800000 < x % 2 ^ 31 → f x = (0x7FC00000, 0)) ∧
    (rcp 0 = (0x7F800000, flDZ) ∧ rcp 0x80000000 = (0xFF800000, flDZ) ∧ rcp 0x7F800000 = (0, 0) ∧
      rcp 0xFF800000 = (0x80000000, 0) ∧ rcp 0x3F800000 = (0x3F800000, 0) ∧ rcp 1 = (0x7F800000, flOF ||| flNX)) ∧
    (rsq 0 = (0x7F800000, flDZ) ∧ rsq 0x80000000 = (0xFF800000, flDZ) ∧ rsq 0x7F800000 = (0, 0) ∧
      rsq 0xBF800000 = (0x7FC00000, flNV)) ∧
    (exp2 0xFF800000 = (0, 0) ∧ exp2 0x7F800000 = (0x7F800000, 0) ∧ exp2 0x43000000 = (0x7F800000, flOF ||| flNX) ∧
      exp2 0 = (0x3F800000, 0)) ∧
    (log2 0 = (0xFF800000, flDZ) ∧ log2 0x80000000 = (0xFF800000, flDZ) ∧ log2 0xBF800000 = (0x7FC00000, flNV) ∧
      log2 0x7F800000 = (0x7F800000, 0) ∧ log2 0x3F800000 = (0, 0)) ∧
    (sin 0x7F800000 = (0x7FC00000, flNV) ∧ sin 0 = (0, 0) ∧ sin 0x80000000 = (0x80000000, 0) ∧
      cos 0xFF800000 = (0x7FC00000, flNV) ∧ cos 0 = (0x3F800000, 0) ∧ cos 0x80000000 = (0x3F800000, 0)) ∧
    (tanh 0x7F800000 = (0x3F800000, 0) ∧ tanh 0xFF800000 = (0xBF800000, 0) ∧ tanh 0x80000000 = (0x80000000, 0) ∧
      tanh 0x42000000 = (0x3F800000, 0))

/-- CVT (R373, R374): between integers the value modulo 2^w, no flag; from a float to an integer rounded under the
mode and saturated, with NV for a NaN or a value out of range and NX for an inexact one; into a float format rounded
under the mode. PACK (R375) and UNPK (R376). -/
def Obligations.ConversionAndPacking : Prop :=
  (∀ (s : State) (q : Guard) (m : RMode) (nosat : Bool) (dt st : CvtTy) (d : Dst) (a : Src),
     let v (is : Issue) (l : Nat) : Ex := s.cvtSrc is st a l
     s.Completes (.cvt q m nosat dt st d a) q fun is u => ∃ f : Nat → Nat × Flags, s.ComputesFlags u is dt.is64 d f ∧
       ∀ l,
         (∀ t p, cvtInt dt = some t → cvtInt st = some p → f l = (t.written (p.read (s.opnd is st.is64 a l)), 0)) ∧
         (∀ t, cvtInt dt = some t → cvtInt st = none →
           (v is l = .nan → f l = (0, flNV)) ∧
           (∀ n, v is l = .inf n → f l = (t.written (if n then t.lo else t.hi), flNV)) ∧
           (∀ n k e x, v is l = .fin n k e false → (Ex.fin n k e false).integral m = .fin n x 0 false →
             let r : Int := if n then -x else x
             f l = (t.written (max t.lo (min t.hi r)),
               if r < t.lo ∨ t.hi < r then flNV else if (v is l).cmp (.ofInt r) false = .eq then 0 else flNX))) ∧
         (∀ g, cvtFmt dt = some g → st ≠ .e8m0 → f l = g.round m nosat (v is l)) ∧
         (dt = .f32 → st = .e8m0 → f l = (if (s.bv is 32 a l).setWidth 8 = (0xFF : BitVec 8) then 0x7FC00000
           else (Fmt.f32.round .rn false (.fin false 1 ((((s.bv is 32 a l).setWidth 8 : BitVec 8).toNat : Int) - 127) false)).1, 0))) ∧
  (∀ (s : State) (q : Guard) (d : Dst) (a b : Src) (nosat h : Bool) (k : Nat),
     let x (is : Issue) (p : Src) (l : Nat) : Ex := s.fopnd is .f32 p l
     let old (is : Issue) (l : Nat) : Nat := s.opnd is false (dstSrc d) l
     let wide (e : PackTy) (f : Fmt) : Prop := s.Completes (.pack q e d a b false false) q fun is u =>
       s.ComputesFlags u is false d fun l =>
         let r := f.round .rn false (x is a l)
         let t := f.round .rn false (x is b l)
         (r.1 + 2 ^ 16 * t.1, r.2 ||| t.2)
     let narrow (e : PackTy) (f : Fmt) : Prop := s.Completes (.pack q e d a b nosat h) q fun is u =>
       s.ComputesFlags u is false d fun l =>
         let r := f.round .rn nosat (x is a l)
         let t := f.round .rn nosat (x is b l)
         (if h then old is l % 2 ^ 16 + 2 ^ 16 * (r.1 + 2 ^ 8 * t.1) else old is l / 2 ^ 16 * 2 ^ 16 + (r.1 + 2 ^ 8 * t.1),
          r.2 ||| t.2)
     let widens (e : UnpkTy) (f : Fmt) : Prop := s.Completes (.unpk q e d a k) q fun is u =>
       s.Computes u is false d fun l => (Fmt.f32.round .rn false (f.read ((s.bv is 32 a l).extractLsb' (f.width * k) f.width).toNat)).1
     (wide .f16 .f16 ∧ wide .bf16 .bf16 ∧ narrow .e4m3 .e4m3 ∧ narrow .e5m2 .e5m2) ∧
     (widens .f16 .f16 ∧ widens .bf16 .bf16 ∧ widens .e4m3 .e4m3 ∧ widens .e5m2 .e5m2 ∧ widens .e3m2 .e3m2 ∧
       widens .e2m3 .e2m3 ∧ widens .e2m1 .e2m1))

/-- MX scaling: MXSCALE's shared scale over the active lanes that are no helper lanes (R377), MXQ (R378) and MXDQ
(R379). The paired and dot-product words: HFMA2 (R380), FDOT2 (R381) and IDOT4 (R382). The model's own choices in it:
log entries 53, 116, 117. -/
def Obligations.ScalingAndDotProducts : Prop :=
  (∀ (s : State) (q : Guard) (e : MxElt) (d : Dst) (a sc : Src) (nosat : Bool),
     let x (is : Issue) (l : Nat) : Ex := s.fopnd is .f32 a l
     let k (is : Issue) (l : Nat) : Nat := (s.bv is 32 sc l).toNat % 256
     (s.Completes (.mxscale q e d a) q fun is u => ∃ v : Nat, (s.Computes u is false d fun _ => v) ∧
       ((∃ l ∈ lanes is.own, x is l = .nan) → v = 0xFF) ∧
       ((∀ l ∈ lanes is.own, x is l ≠ .nan) →
         ((∀ l ∈ lanes is.own, (x is l).isInf ∨ (x is l).isZero) → v = 127) ∧
         (∀ l ∈ lanes is.own, ¬ (x is l).isInf → ¬ (x is l).isZero →
           (∀ j ∈ lanes is.own, (x is j).isInf ∨ (x is j).abs.cmp (x is l).abs false ≠ .gt) →
           (v : Int) = max 0 (min 254 ((x is l).log2 - mxEmax e + 127))))) ∧
     (s.Completes (.mxq q e d a sc nosat) q fun is u => s.ComputesFlags u is false d fun l =>
       (mxFmt e).round .rn nosat (if k is l = 255 then .nan else (x is l).scale (127 - (k is l : Int)))) ∧
     (s.Completes (.mxdq q e d a sc) q fun is u => s.ComputesFlags u is false d fun l =>
       if k is l = 255 then (0x7FC00000, 0)
       else Fmt.f32.round .rn false (((mxFmt e).read ((s.bv is 32 a l).toNat % 2 ^ (mxFmt e).width)).scale ((k is l : Int) - 127)))) ∧
  (∀ (s : State) (q : Guard) (bf sat : Bool) (d : Dst) (a b c : Src),
     let f := halfFmt bf
     let h (is : Issue) (p : Src) (k l : Nat) : Ex := s.half is f p k l
     let byte (sg : Bool) (is : Issue) (p : Src) (k l : Nat) : Int :=
       let x := (s.bv is 32 p l).extractLsb' (8 * k) 8
       if sg then x.toInt else x.toNat
     let dot (sg : DotSign) (sa sb : Bool) (t : IntTy) : Prop := s.Completes (.idot4 q sg sat d a b c) q fun is u =>
       s.Computes u is false d fun l =>
         let p (k : Nat) : Int := byte sa is a k l * byte sb is b k l
         let v := t.read (s.opnd is false c l) + (p 0 + p 1 + p 2 + p 3)
         t.written (if sat then max t.lo (min t.hi v) else v)
     (s.Completes (.hfma2 q bf d a b c) q fun is u => s.ComputesFlags u is false d fun l =>
       let r (k : Nat) := f.finish ((h is a k l).fma (h is b k l) (h is c k l))
       ((r 0).1 + 2 ^ 16 * (r 1).1, (r 0).2 ||| (r 1).2)) ∧
     (s.Completes (.fdot2 q bf d a b c) q fun is u => ∃ r : Nat → Nat × Flags, s.ComputesFlags u is false d r ∧ ∀ l,
       let z := s.fopnd is .f32 c l
       let ops := [z, h is a 0 l, h is b 0 l, h is a 1 l, h is b 1 l]
       let p := (h is a 0 l).mul (h is b 0 l)
       let p' := (h is a 1 l).mul (h is b 1 l)
       ((∃ x ∈ ops, x = .nan) → r l = (0x7FC00000, 0)) ∧
       ((∀ x ∈ ops, x ≠ .nan) → (p.1 = .nan ∨ p'.1 = .nan ∨ (∃ x ∈ [z, p.1, p'.1], ∃ y ∈ [z, p.1, p'.1], x = .inf true ∧ y = .inf false)) →
         r l = (0x7FC00000, flNV)) ∧
       ((∀ x ∈ ops, x ≠ .nan ∧ x.isInf = false) → r l = Fmt.f32.round .rn false ((p.1.addFin p'.1).addFin z))) ∧
     (dot .i8i8 true true .i32 ∧ dot .n8n8 false false .n32 ∧ dot .i8n8 true false .i32 ∧ dot .n8i8 false true .i32))

/-! ### Lane-exchange words (chapter 16) -/

/-- QSWZ and QDIFF (R425) and the four modes of SHFL (R426), where the exchanged operand resolves in every lane that supplies a
value (R423). A lane that SHFL finds outside its span, or not active, or a helper, keeps its own value; pc says which. -/
def Obligations.LaneShuffles : Prop :=
  ∀ (s : State) (q : Guard) (wide : Bool) (d : Dst) (a b : Src) (pc span : Nat), span ≤ 4 → dstIsS d = false →
    let n : Nat := if span = 0 then 32 else 2 ^ span
    let bval (is : Issue) (l : Nat) : Nat := match b with
      | .v _ | .s _ => s.opnd is false b is.low
      | _ => s.opnd is false b l
    let swz (is : Issue) (l : Nat) : Nat := 4 * (l / 4) + bval is l / 2 ^ (2 * (l % 4)) % 4
    let x (is : Issue) (l : Nat) : Nat := (s.bv is 32 b l).toNat % 32
    let lo (l : Nat) : Nat := l - l % n
    let takes (w : Instr) (src : Issue → Nat → Option Nat) : Prop :=
      s.Completes w q fun is u =>
        let from_ (l : Nat) : Nat := match src is l with | some j => if lane is.own j then j else l | none => l
        (∀ l ∈ lanes is.act, is.resolvesAt wide a (from_ l)) →
        s.ComputesPred u is wide d (fun l => s.opnd is wide a (from_ l)) pc fun l =>
          match src is l with | some j => lane is.own j | none => true
    (s.Completes (.qswz q wide d a b) q fun is u => (∀ l ∈ lanes is.act, is.resolvesAt wide a (swz is l)) →
      s.Computes u is wide d fun l => s.opnd is wide a (swz is l)) ∧
    (let differs (m : QDiff) (hi lo : Nat → Nat) : Prop :=
      s.Completes (.qdiff q m d a) q fun is u =>
        (∀ l ∈ lanes is.act, is.resolvesAt false a (hi l) ∧ is.resolvesAt false a (lo l)) →
        s.ComputesFlags u is false d fun l =>
          Fmt.f32.finish ((s.fopnd is .f32 a (hi l)).add (s.fopnd is .f32 a (lo l)).neg)
     differs .fh (fun l => l ||| 1) (fun l => l - l % 2) ∧
     differs .fv (fun l => l ||| 2) (fun l => l - 2 * (l / 2 % 2)) ∧
     differs .ch (fun l => l - l % 4 + 1) (fun l => l - l % 4) ∧
     differs .cv (fun l => l - l % 4 + 2) (fun l => l - l % 4)) ∧
    takes (.shflPick q wide d a b pc span) (fun is l => some (lo l + x is l % n)) ∧
    takes (.shflRot q wide d a b pc span) (fun is l => some (lo l + (l - lo l + x is l) % n)) ∧
    takes (.shflFlip q wide d a b pc span) (fun is l => some (lo l + (l - lo l ^^^ x is l % n))) ∧
    takes (.shflSlide q wide d a b pc span) (fun is l =>
      let j : Int := l + ((s.bv is 32 b l).setWidth 6).toInt
      if lo l ≤ j ∧ j < lo l + n then some j.toNat else none)

/-- VOTE, MATCH, REDUX and SCAN (R424, R427) over the participants: the members, within the block size and no helper
lanes, that are active. The complete predicate says whether every member takes part. JOIN (R428): the members named
that stand in the split table join the member mask, and the active lanes have arrived. -/
def Obligations.VotesAndJoin : Prop :=
  (∀ (s : State) (q : Guard) (wide : Bool) (d : Dst) (a m seg : Src) (ps pc : Nat),
     let member (is : Issue) (l : Nat) : Bool :=
       (s.bv is 32 m is.low).getLsbD l && lane is.g.present l && !lane is.g.helper l
     let part (is : Issue) : List Nat := (lanes is.act).filter (member is)
     let yes (is : Issue) : List Nat := (part is).filter (is.g.pred ps)
     let all (is : Issue) : Bool := (List.range 32).all fun l => !member is l || lane is.act l
     let good (is : Issue) : Prop := ∀ l ∈ part is, is.resolvesAt wide a l
     let like (is : Issue) (l : Nat) : List Nat := (part is).filter fun k => s.opnd is wide a k == s.opnd is wide a l
     let votes (w : Instr) (f : Issue → Nat) : Prop :=
       s.Completes w q fun is u => s.ComputesPred u is false d (fun _ => f is) pc fun _ => all is
     let ops : List (RedOp × BitVec 32 × (BitVec 32 → BitVec 32 → BitVec 32)) :=
       [(.addN32, 0, (· + ·)), (.minI32, 0x7FFFFFFF, fun x y => if x.sle y then x else y),
        (.maxI32, 0x80000000, fun x y => if x.sle y then y else x), (.minN32, 0xFFFFFFFF, fun x y => if x ≤ y then x else y),
        (.maxN32, 0, fun x y => if x ≤ y then y else x), (.and, 0xFFFFFFFF, (· &&& ·)), (.or, 0, (· ||| ·)), (.xor, 0, (· ^^^ ·))]
     votes (.voteMask q d ps m pc) (fun is => ((yes is).map (2 ^ ·)).sum) ∧
     votes (.voteCount q d ps m pc) (fun is => (yes is).length) ∧
     votes (.voteLead q d ps m pc) (fun is => (yes is).headD 32) ∧
     votes (.voteAgree q d ps m pc) (fun is => if (yes is).length = 0 ∨ (yes is).length = (part is).length then 1 else 0) ∧
     (dstIsS d = false → s.Completes (.matchMask q wide d a m pc) q fun is u => good is →
       s.ComputesPred u is false d (fun l => if l ∈ part is then ((like is l).map (2 ^ ·)).sum else 0) pc fun _ => all is) ∧
     (dstIsS d = false → s.Completes (.matchLead q wide d a m pc) q fun is u => good is →
       s.ComputesPred u is false d (fun l => if l ∈ part is then (like is l).headD 32 else 32) pc fun _ => all is) ∧
     (∀ o ∈ ops, s.Completes (.redux q o.1 d a m pc) q fun is u => (∀ l ∈ part is, is.resolvesAt false a l) →
       s.ComputesPred u is false d (fun _ => ((part is).foldl (fun r l => o.2.2 r (s.bv is 32 a l)) o.2.1).toNat) pc
         fun _ => all is) ∧
     (dstIsS d = false → ∀ o ∈ ops, s.Completes (.scan q o.1 d a m seg) q fun is u =>
       (∀ l ∈ part is, is.resolvesAt false a l) →
       let start (l : Nat) : Nat := ((List.range (l + 1)).filter fun k => (s.bv is 32 seg is.low).getLsbD k).getLastD 0
       s.Computes u is false d fun l => if l ∈ part is
         then (((part is).filter fun k => start l ≤ k ∧ k ≤ l).foldl (fun r k => o.2.2 r (s.bv is 32 a k)) o.2.1).toNat
         else is.g.dstVal false d l)) ∧
  (∀ (s : State) (q : Guard) (m : Src), s.Completes (.join q m) q fun is u => ∃ h : Group, u = s.setGroup is.gid h ∧
     h = { is.g.advance is.i with joinMember := h.joinMember, joinArrived := h.joinArrived, fences := h.fences } ∧
     ∀ l < 32, lane h.joinMember l = (lane is.g.joinMember l || ((s.bv is 32 m is.low).getLsbD l && lane is.g.live l)) ∧
       lane h.joinArrived l = (lane is.g.joinArrived l || lane is.act l))

/-! ### Memory, atomics and fences (chapter 15) -/

/-- LD from scratchpads (R206, R391): each active lane's run receives the bytes at its address of the block's
scratchpad, or of a peer's; nothing else changes. ST to the block's own scratchpad (R206, R387, R393): each byte that
some lane stores to holds the byte of the highest such lane; every other byte, register and part of the machine is as
before. Helper lanes store nothing (R170). The model's own choices in it: log entry 103. -/
def Obligations.ScratchpadAccess : Prop :=
  (∀ (s : State) (q : Guard) (t : MemTy) (d : Dst) (sp : Space) (base : Src) (ord : Order) (c : CacheOp) (off : Int),
     sp = .scratch ∨ sp = .peer → dstIsS d = false →
     s.Completes (.ld q t d sp base ord c off) q fun is u =>
       ∀ as, s.Reaches is sp base off t.bytes acRead is.act as → (∀ a ∈ as, (s.block? (s.padOf is sp a.rank)).isSome) →
         ∃ h, u = s.setGroup is.gid h ∧ h = { is.g.advance is.i with v := h.v, fences := h.fences } ∧
           is.g.Loaded h d t as fun a => ((s.block? (s.padOf is sp a.rank)).map (·.readN a.a t.bytes)).getD 0) ∧
  (∀ (s : State) (q : Guard) (t : MemTy) (a base : Src) (ord : Order) (off : Int),
     s.Completes (.st q t a .scratch base ord off) q fun is u => is.g.late = [] → is.own ≠ 0 →
       ∀ as, s.Reaches is .scratch base off t.bytes acWrite is.own as →
         ∃ h b b', s.block? (s.hostBlock is.g is.b) = some b ∧
           u = { s.setGroup is.gid h with blocks := SMap.put s.blocks (s.hostBlock is.g is.b) b' } ∧
           h = { is.g.advance is.i with padWrote := h.padWrote, fences := h.fences } ∧ b' = { b with scratch := b'.scratch } ∧
           ∀ o, b'.byte o = match (as.filter fun x => decide (x.a ≤ o) && decide (o < x.a + t.bytes)).getLast? with
             | some x => BitVec.ofNat 8 (s.storeValue is t a x.lane / 2 ^ (8 * (o - x.a)))
             | none => b.byte o)

/-- LD of the global, constant and stack spaces (R391): a lane whose bytes are at hand (its group's own posted stores,
or a leased line) is served at once; when every lane is served by its home, an operand-log entry holds the lanes and
one request per 256-byte unit goes out. LD of cells sends one read per lane (R391, R52). The model's own choices in
it: log entries 27, 118. LDC (R392) whose run no store and no leased line holds: its parts of 16 bytes go to their
homes in one operand-log entry. -/
def Obligations.MemoryLoads : Prop :=
  (∀ (s : State) (q : Guard) (t : MemTy) (d : Dst) (sp : Space) (base : Src) (ord : Order) (c : CacheOp) (off : Int),
     let i : Instr := .ld q t d sp base ord c off
     dstIsS d = false →
     (sp = .global ∨ sp = .const ∨ sp = .stack → s.Completes i q fun is u =>
       ∀ as, s.Reaches is sp base off t.bytes acRead is.act as →
         let by_ (a : LaneAddr) : Serve := s.serve is (a.chk && odOf i % 4 == 0) a.ia t.bytes
         (∀ x : LaneAddr → Nat, (∀ a ∈ as, by_ a = .data (x a)) → ∃ h, u = { s.setGroup is.gid h with l1 := u.l1 } ∧
           h = { is.g.advance is.i with v := h.v, fences := h.fences } ∧ is.g.Loaded h d t as x ∧ (c ≠ .last → u.l1 = s.l1)) ∧
         ((∀ a ∈ as, by_ a = .home) → ∃ h new o, s.Sends u is.gid h new ∧ u.cores = s.cores ∧ u.l1 = s.l1 ∧
           h = { is.g.advance is.i with oplog := SMap.put is.g.oplog is.g.freeLog o, fences := h.fences } ∧
           o.kind = .load ∧ o.pending = is.act ∧ o.clause = is.e.clause ∧ o.word = is.e.word ∧
           new.map (·.lanes) = perUnit (as.map loadAcc) ∧
           ∀ r ∈ new, r.who = .op is.gid is.g.freeLog ∧ r.kind = .load ∧ r.width = t.bytes ∧ r.ctx = is.b.ctx)) ∧
     (sp = .cell → s.Completes i q fun is u => ∀ as, s.Reaches is .cell base off t.bytes acRead is.act as →
       ∃ h o, s.CellSends u is h (.op is.gid is.g.freeLog) (as.map fun a => (a.lane, a.a, .read (t == .b64))) ∧
         u.cores = s.cores ∧
         h = { is.g.advance is.i with oplog := SMap.put is.g.oplog is.g.freeLog o, fences := h.fences } ∧
         o.kind = .cell ∧ o.pending = is.act)) ∧
  (∀ (s : State) (q : Guard) (run sd : Nat) (sp : Space) (base : Src) (ord : Order) (c : CacheOp) (off : Int),
     let i : Instr := .ldc q run sd sp base ord c off
     let len := 4 * 2 ^ run
     s.Completes i q fun is u => ∀ parts, s.ldcReach is sp base off len = .ok parts →
       (∀ p ∈ parts, s.serve is (p.chk && odOf i % 4 == 0) p.ia (min len 16) = .home) →
       ∃ h new o, s.Sends u is.gid h new ∧ u.cores = s.cores ∧ u.l1 = s.l1 ∧
         h = { is.g.advance is.i with oplog := SMap.put is.g.oplog is.g.freeLog o, fences := h.fences } ∧
         o.kind = .ldc ∧ o.pending = is.act ∧ new.map (·.lanes) = perUnit parts ∧
         ∀ r ∈ new, r.who = .op is.gid is.g.freeLog ∧ r.kind = .load ∧ r.ctx = is.b.ctx)

/-- Posted writes (R393, R397, R398): ST and RED to memory through segments that do not check, ST to a peer, and XCLR
and RED.xadd to cells wait in the core's store buffer, where it has room, and are on their way; no register changes. The model's own
choices in it: log entries 27, 103, 118. -/
def Obligations.PostedWrites : Prop :=
  ∀ (s : State) (q : Guard) (t : MemTy) (it : IntTy) (wide rel : Bool) (a base : Src) (sp : Space) (ord : Order) (off : Int),
    let lane4 (v : LaneAddr → Nat) (x : LaneAddr) : Nat × Nat × Nat × Nat := (x.lane, x.a, x.ia, v x)
    let gone (is : Issue) (h : Group) : Prop := h = { is.g.advance is.i with fences := h.fences }
    let posts (i : Instr) (n : Nat) (r : Rights) (kind : ReqKind) (red : Bool) (v : Issue → LaneAddr → Nat) : Prop :=
      s.Completes i q fun is u => is.g.late = [] → is.own ≠ 0 → ∀ as, s.Reaches is sp base off n r is.own as →
        (red = false → ∀ x ∈ as, x.chk = false) → s.storeRoom is (as.map (·.a)) = true →
        ∃ h new, s.Sends u is.gid h new ∧ gone is h ∧ s.Posts u is n sp.code (odOf i) red (as.map (lane4 (v is))) ∧
          s.Drops u (dieOf (is.g.coreOf is.b)) (as.map (·.ia)) ∧ (new.map (·.lanes)).flatten.length = as.length ∧
          ∀ k ∈ new, k.who = .store (is.g.coreOf is.b) (s.core (is.g.coreOf is.b)).nextStore ∧ k.kind = kind ∧ k.width = n ∧
            ∀ y ∈ k.lanes, ∃ x ∈ as, y = { lane := x.lane, va := x.a, ia := x.ia, data := v is x, data2 := 0 }
    let red (i : Instr) (kind : ReqKind) : Prop :=
      posts i (if it.is64 then 8 else 4) acAtomic kind true fun is x => s.opnd is it.is64 a x.lane
    (sp = .global ∨ sp = .const ∨ sp = .stack →
      posts (.st q t a sp base ord off) t.bytes acWrite .store false (fun is x => s.storeValue is t a x.lane) ∧
      red (.redAdd q it a sp base ord off) .add ∧ red (.redMin q it a sp base ord off) .min ∧
      red (.redMax q it a sp base ord off) .max ∧ red (.redAnd q it a sp base ord off) .and ∧
      red (.redOr q it a sp base ord off) .or ∧ red (.redXor q it a sp base ord off) .xor ∧
      posts (.redFadd q wide a sp base ord off) (if wide then 8 else 4) acAtomic .fadd true
        (fun is x => s.opnd is wide a x.lane)) ∧
    (s.Completes (.st q t a .peer base ord off) q fun is u => is.g.late = [] → is.own ≠ 0 →
      ∀ as, s.Reaches is .peer base off t.bytes acWrite is.own as → s.storeRoom is (as.map (·.a)) = true → ∃ h, u = { s.setGroup is.gid h with cores := u.cores } ∧
        gone is h ∧ s.Posts u is t.bytes 2 (odOf (.st q t a .peer base ord off)) false
          (as.map fun x => (x.lane, x.a, s.padOf is .peer x.rank * 2 ^ 20 + x.a, s.storeValue is t a x.lane))) ∧
    (s.Completes (.xclr q base rel off) q fun is u => is.g.late = [] → is.own ≠ 0 →
      ∀ as, s.Reaches is .cell base off 8 acWrite is.own as → s.storeRoom is (as.map fun x => 8 * x.a) = true →
        ∃ h, gone is h ∧
        s.CellSends u is h (.store (is.g.coreOf is.b) (s.core (is.g.coreOf is.b)).nextStore)
          ((highestOnly as).map fun x => (x.lane, x.a, .xclr)) ∧
        s.Posts u is 8 5 (odOf (.xclr q base rel off)) true (as.map fun x => (x.lane, 8 * x.a, 0, 0))) ∧
    (s.Completes (.redXadd q wide a base ord off) q fun is u => is.g.late = [] → is.own ≠ 0 →
      ∀ as, s.Reaches is .cell base off 8 acAtomic is.own as → s.storeRoom is (as.map fun x => 8 * x.a) = true → ∃ h, gone is h ∧
        s.CellSends u is h (.store (is.g.coreOf is.b) (s.core (is.g.coreOf is.b)).nextStore)
          (as.map fun x => (x.lane, x.a, .xadd wide (s.opnd is wide a x.lane))) ∧
        s.Posts u is 8 5 (odOf (.redXadd q wide a base ord off)) true (as.map fun x => (x.lane, 8 * x.a, 0, 0)))

/-- One step of an atomic at its location (R396): add modulo 2^w, the lesser or greater by the type's sign, the
bitwise operations, exchange, compare and swap, and the float sum rounded at the location. ATOM on memory (R396,
R397): an operand-log entry holds the lanes, and their operands go to the homes, the compare value and the new value
for cas; ATOM.xadd goes to the cells' dies in ascending lane order. The model's own choices in it: log entries 27,
118. -/
def Obligations.MemoryAtomics : Prop :=
  (∀ (sg : Bool) (wide : Bool) (old x y : BitVec (if wide then 64 else 32)),
     let w := if wide then 64 else 32
     let gives (k : ReqKind) (r : BitVec (if wide then 64 else 32)) : Prop := atomStep k sg w old.toNat x.toNat y.toNat = (r.toNat, 0)
     let below : Prop := if sg then old.toInt ≤ x.toInt else old.toNat ≤ x.toNat
     gives .add (old + x) ∧ (below → gives .min old ∧ gives .max x) ∧ (¬ below → gives .min x ∧ gives .max old) ∧
       gives .and (old &&& x) ∧ gives .or (old ||| x) ∧ gives .xor (old ^^^ x) ∧ gives .exch x ∧
       gives .cas (if old = x then y else old) ∧
       (let f := if wide then Fmt.f64 else Fmt.f32
        atomStep .fadd sg w old.toNat x.toNat y.toNat = f.finish ((f.read old.toNat).add (f.read x.toNat)))) ∧
  (∀ (s : State) (q : Guard) (t : IntTy) (wide : Bool) (v : Nat) (base : Src) (sp : Space) (ord : Order) (off : Int),
     let held (is : Issue) (h : Group) (o : OpEntry) : Prop :=
       h = { is.g.advance is.i with oplog := SMap.put is.g.oplog is.g.freeLog o, fences := h.fences } ∧
         o.kind = .atomic ∧ o.pending = is.own ∧ o.clause = is.e.clause ∧ o.word = is.e.word
     let goes (i : Instr) (k : ReqKind) (sg w : Bool) (ops : Issue → Nat → Nat × Nat) : Prop :=
       s.Completes i q fun is u => is.g.late = [] → is.own ≠ 0 →
         let n := if w then 8 else 4
         ∀ as, s.Reaches is sp base off n acAtomic is.own as → ∃ h new o, s.Sends u is.gid h new ∧ held is h o ∧
           u.cores = s.cores ∧ s.Drops u (dieOf (is.g.coreOf is.b)) (as.map (·.ia)) ∧
           new.map (·.lanes) = perUnit (as.map fun x =>
             { lane := x.lane, va := x.a, ia := x.ia, data := (ops is x.lane).1, data2 := (ops is x.lane).2 }) ∧
           ∀ r ∈ new, r.who = .op is.gid is.g.freeLog ∧ r.kind = k ∧ r.signed = sg ∧ r.width = n ∧ r.ctx = is.b.ctx
     let atom (i : Instr) (k : ReqKind) : Prop := goes i k t.signed t.is64 fun is l =>
       (is.g.readV t.is64 v l, if k = .cas then is.g.readV t.is64 (v + if t.is64 then 2 else 1) l else 0)
     (sp = .global ∨ sp = .const ∨ sp = .stack →
       atom (.atomAdd q t v sp base ord off) .add ∧ atom (.atomMin q t v sp base ord off) .min ∧
       atom (.atomMax q t v sp base ord off) .max ∧ atom (.atomAnd q t v sp base ord off) .and ∧
       atom (.atomOr q t v sp base ord off) .or ∧ atom (.atomXor q t v sp base ord off) .xor ∧
       atom (.atomExch q t v sp base ord off) .exch ∧ atom (.atomCas q t v sp base ord off) .cas ∧
       goes (.atomFadd q wide v sp base ord off) .fadd false wide (fun is l => (is.g.readV wide v l, 0))) ∧
     (s.Completes (.atomXadd q wide v base ord off) q fun is u => is.g.late = [] → is.own ≠ 0 →
       ∀ as, s.Reaches is .cell base off 8 acAtomic is.own as → ∃ h o, held is h o ∧ u.cores = s.cores ∧
         s.CellSends u is h (.op is.gid is.g.freeLog)
           (as.map fun x => (x.lane, x.a, .xadd wide (is.g.readV wide v x.lane)))))

/-- ATOM and RED on scratchpads (R49, R396, R397): the lanes that name one location act on it in ascending order; each lane of an
ATOM receives the value it found; the location keeps the last value; the flags of a location's steps join FSTAT of its lanes;
no other byte, register or part of the machine changes. -/
def Obligations.ScratchpadAtomics : Prop :=
  ∀ (s : State) (q : Guard) (t : IntTy) (wide : Bool) (v : Nat) (a base : Src) (sp : Space) (ord : Order) (off : Int),
    sp = .scratch ∨ sp = .peer →
    let acts (i : Instr) (k : ReqKind) (sg w ret : Bool) (ops : Issue → Nat → Nat × Nat) : Prop :=
      s.Completes i q fun is u => is.g.late = [] → is.own ≠ 0 →
        let n := if w then 8 else 4
        ∀ as, s.Reaches is sp base off n acAtomic is.own as → (∀ x ∈ as, (s.block? (s.padOf is sp x.rank)).isSome) →
          (∀ x ∈ as, ∀ y ∈ as, s.padOf is sp x.rank = s.padOf is sp y.rank → x.rank = y.rank) →
          let same (x y : LaneAddr) : Bool := x.rank == y.rank && x.a == y.a
          let start (x : LaneAddr) : Nat := ((s.block? (s.padOf is sp x.rank)).map (·.readN x.a n)).getD 0
          let after (x : LaneAddr) (ls : List LaneAddr) : Nat :=
            ls.foldl (fun r y => (atomStep k sg (8 * n) r (ops is y.lane).1 (ops is y.lane).2).1) (start x)
          ∃ h, u = { s.setGroup is.gid h with blocks := u.blocks } ∧
            h = { is.g.advance is.i with v := h.v, fstat := h.fstat, fences := h.fences } ∧
            s.PadsChange u (fun k o => ∃ x ∈ as, s.padOf is sp x.rank = k ∧ x.a ≤ o ∧ o < x.a + n) ∧
            (∀ x ∈ as, ((u.block? (s.padOf is sp x.rank)).map (·.readN x.a n)).getD 0 = after x (as.filter (same x)) % 2 ^ (8 * n)) ∧
            (∀ x ∈ as, ret = true →
              h.readV w v x.lane = after x (as.filter fun y => same x y && decide (y.lane < x.lane)) % 2 ^ (8 * n)) ∧
            (∀ r l, l < 32 → (ret = false ∨ lane is.own l = false ∨ ¬ (r = v ∨ w = true ∧ r = v + 1)) → h.vreg r l = is.g.vreg r l) ∧
            (k ≠ .fadd → ∀ l, h.fst l = is.g.fst l)
    let atom (i : Instr) (k : ReqKind) : Prop := acts i k t.signed t.is64 true fun is l =>
      (is.g.readV t.is64 v l, if k = .cas then is.g.readV t.is64 (v + if t.is64 then 2 else 1) l else 0)
    let red (i : Instr) (k : ReqKind) : Prop := acts i k t.signed t.is64 false fun is l => (s.opnd is t.is64 a l, 0)
    (atom (.atomAdd q t v sp base ord off) .add ∧ atom (.atomMin q t v sp base ord off) .min ∧
      atom (.atomMax q t v sp base ord off) .max ∧ atom (.atomAnd q t v sp base ord off) .and ∧
      atom (.atomOr q t v sp base ord off) .or ∧ atom (.atomXor q t v sp base ord off) .xor ∧
      atom (.atomExch q t v sp base ord off) .exch ∧ atom (.atomCas q t v sp base ord off) .cas ∧
      acts (.atomFadd q wide v sp base ord off) .fadd false wide true (fun is l => (is.g.readV wide v l, 0))) ∧
    (red (.redAdd q t a sp base ord off) .add ∧ red (.redMin q t a sp base ord off) .min ∧
      red (.redMax q t a sp base ord off) .max ∧ red (.redAnd q t a sp base ord off) .and ∧
      red (.redOr q t a sp base ord off) .or ∧ red (.redXor q t a sp base ord off) .xor ∧
      acts (.redFadd q wide a sp base ord off) .fadd false wide false (fun is l => (s.opnd is wide a l, 0)))

/-- PREF (R394) asks for the line of each lane whose address forms without fault; CCTL (R395) drops those lines, or
those 4 KiB, from the die's L1, or asks for renewals of the lines it holds. Neither faults, and neither changes a
register. FENCE (R399): at block scope or wider a fence over the active lanes comes into force, with its order; at
lane or group scope nothing but the entry's place changes. FLSIG (R400), with the group's stores and atomics
acknowledged, posts one arrival, or nothing without a slot;
WATCH (R401) sends its arm to the word's home. The model's own choices in it: log entries 27, 102. -/
def Obligations.HintsAndFences : Prop :=
  (∀ (s : State) (q : Guard) (sp : Space) (base : Src) (c : CacheOp) (off : Int),
     let gone (is : Issue) (h : Group) : Prop := h = { is.g.advance is.i with fences := h.fences }
     let die (is : Issue) : Nat := dieOf (is.g.coreOf is.b)
     let ias (is : Issue) : List Nat :=
       (lanes is.act).filterMap fun l => match s.reach is sp base off 1 1 acRead l with | .ok a => some a.ia | .error _ => none
     let lines (is : Issue) : List Nat := ((ias is).map fun a => a / 128 * 128).eraseDups
     (s.Completes (.pref q sp base c off) q fun is u => ∃ h new, s.Sends u is.gid h new ∧ gone is h ∧ u.cores = s.cores ∧
       u.l1 = s.l1 ∧ new.map (fun r => r.lanes.map (·.ia)) = (lines is).map ([·]) ∧
       ∀ r ∈ new, r.who = .pref (die is) ∧ r.kind = .load) ∧
     (s.Completes (.cctlDrop q sp base off) q fun is u => ∃ h, u = { s.setGroup is.gid h with l1 := u.l1 } ∧ gone is h ∧
       s.Drops u (die is) (ias is)) ∧
     (s.Completes (.cctlDrop4k q sp base off) q fun is u => ∃ h, u = { s.setGroup is.gid h with l1 := u.l1 } ∧ gone is h ∧
       ∀ e, e ∈ u.l1 ↔ e ∈ s.l1 ∧ ¬ (e.1 / 2 ^ 45 = die is ∧ ∃ a ∈ ias is, a / 4096 = e.1 % 2 ^ 45 / 32)) ∧
     (s.Completes (.cctlRenew q sp base off) q fun is u => ∃ h new, s.Sends u is.gid h new ∧ gone is h ∧ u.cores = s.cores ∧
       u.l1 = s.l1 ∧
       new.map (fun r => r.lanes.map (·.ia)) = ((lines is).filter fun ia => (s.l1Line (die is) ia).isSome).map ([·]) ∧
       ∀ r ∈ new, r.who = .pref (die is) ∧ r.kind = .renew)) ∧
  (∀ (s : State) (q : Guard) (sc : Scope) (ord : Order) (slot : Nat) (base : Src) (off : Int),
     let gone (is : Issue) (h : Group) : Prop := h = { is.g.advance is.i with fences := h.fences }
     (s.Completes (.fence q sc ord) q fun is u => is.g.late = [] → u = s.setGroup is.gid { is.g.advance is.i with
       fences := s.fencesLeft is (.fence q sc ord) ++ (if sc = .lane ∨ sc = .grp then [] else
         [{ lanes := is.act, rel := ord != .acq, acq := ord != .rel, sc := ord == .sc }]) }) ∧
     (s.Completes (.flsig q none) q fun is u => is.g.late = [] → s.releaseHeld is 0xFFFFFFFF = false → ∃ h, u = s.setGroup is.gid h ∧ gone is h) ∧
     (s.Completes (.flsig q (some slot)) q fun is u => is.g.late = [] → is.own ≠ 0 → s.nameOk is slot = true →
       s.releaseHeld is 0xFFFFFFFF = false → ∃ h, gone is h ∧ u = { s.setGroup is.gid h with arrivals := s.arrivals ++
         [{ to_ := .name (s.nameBlock is) slot, a := 1, y := 0, by_ := .group is.gid is.act, due := s.now + 4 }] }) ∧
     (s.Completes (.watch q slot base off) q fun is u => is.own ≠ 0 → s.nameOk is slot = true →
       ∀ a, s.reach is .global base off 8 8 acRead is.lowOwn = .ok a → ∃ h r, s.Sends u is.gid h [r] ∧ gone is h ∧
         u.cores = s.cores ∧ s.Drops u (dieOf (is.g.coreOf is.b)) [a.ia] ∧ r.kind = .watch ∧ r.slot = slot ∧
         r.bid = s.nameBlock is ∧ r.lanes.map (·.ia) = [a.ia]))

/-- MEMOP (R402 to R404): a record that passes its checks and reaches memory becomes one MEMOP of the block, cut into its units;
a block has at most 8; no register changes. -/
def Obligations.MemopIssue : Prop :=
  ∀ (s : State) (q : Guard) (t : MemopTy) (wide : Bool) (rec_ slot : Nat),
    let issues (i : Instr) (kind ty : Nat) : Prop := s.Completes i q fun is u =>
      let rs := (List.range 8).map fun k => is.g.sreg (rec_ + k)
      let n := memopSize kind ty
      is.g.late = [] → is.own ≠ 0 → (s.md.memops.filter fun m => m.bid == s.nameBlock is).length < 8 → s.nameOk is slot = true →
      memopBad kind ty rs = false →
      (kind = 4 → memopReg rs 7 % 8 = 0 ∧ memopReg rs 7 / 8 < s.cellCount is.b.ctx) →
      ∀ cx, s.ctx? is.b.ctx = some cx →
      (kind ≠ 4 → cx.rangeFault acWrite 9 (memopY rs) (n * memopReg rs 4) = none) →
      (kind ≠ 0 → cx.rangeFault acRead 9 (memopX rs)
        (if kind = 4 then (memopReg rs 4 - 1) * memopReg rs 6 + n else n * memopReg rs 4) = none) →
      ∃ h m, h = { is.g.advance is.i with fences := h.fences } ∧
        u = { s.setGroup is.gid h with md := { s.md with memops := s.md.memops ++ [m], nextMemop := s.md.nextMemop + 1 } } ∧
        m.gid = is.gid ∧ m.bid = s.nameBlock is ∧ m.lane = is.lowOwn ∧ m.kind = kind ∧ m.ty = ty ∧ m.regs = rs ∧ m.slot = slot ∧
        m.units = memopUnits kind ty rs
    issues (.memopFill q rec_ slot) 0 0 ∧ issues (.memopAxpy q t rec_ slot) 1 (memopTyCode t) ∧
    issues (.memopAdd q t rec_ slot) 2 (memopTyCode t) ∧ issues (.memopMul q t rec_ slot) 3 (memopTyCode t) ∧
    issues (.memopReduce q wide rec_ slot) 4 (if wide then 1 else 0)

/-! ### Barriers and copies (chapters 09 and 15) -/

/-- BINIT, EXPECT, BTEST and BINVAL (R227 to R229, R233, R235, R405) on the block's slots: what each leaves of the
slot, of the object in scratchpad and of the registers. The model's own choices in it: log entry 32. -/
def Obligations.BarrierWords : Prop :=
  ∀ (s : State) (q : Guard) (name : Nat) (a : Src) (d : Dst) (pd : Nat),
    let gone (is : Issue) (h : Group) : Prop := h = { is.g.advance is.i with fences := h.fences }
    let becomes (is : Issue) (u : State) (b b' : Block) : Prop :=
      s.block? (s.nameBlock is) = some b ∧ ∃ h, gone is h ∧ u = (s.setGroup is.gid h).setBlock (s.nameBlock is) b'
    let bound (is : Issue) (b : Block) (sl : Slot) : Prop :=
      s.block? (s.nameBlock is) = some b ∧ name < b.names ∧ SMap.find? b.slots name = some sl
    (s.Completes (.binit q name a) q fun is u => is.own ≠ 0 → ∀ b, s.block? (s.nameBlock is) = some b →
      let o := s.opnd is false a is.lowOwn
      o % 16 = 0 → o + 80 ≤ b.spad → name < b.names → SMap.find? b.slots name = none → b.badState o = false →
      ∃ b', becomes is u b b' ∧ b' = { b with scratch := b'.scratch, slots := SMap.put b.slots name (slotOfHead o (b.head o)) } ∧
        b'.head o = b.head o + 2 ^ 48 ∧ (∀ j < 32, b'.ticket o j = (b.head o + 65535) % 65536) ∧
        ∀ k, (k < o ∨ o + 80 ≤ k) → b'.byte k = b.byte k) ∧
    (s.Completes (.expectOnce q name a) q fun is u => is.own ≠ 0 → ∀ b sl, bound is b sl →
      let n := s.opnd is false a is.lowOwn
      sl.pendB + n < 2 ^ 32 → sl.expB < 2 ^ 32 → ¬ (sl.expA = 0 ∧ sl.expB = 0) →
      becomes is u b { b with slots := SMap.put b.slots name { sl with pendB := sl.pendB + n } }) ∧
    (s.Completes (.expectEach q name a) q fun is u => is.own ≠ 0 → ∀ b sl, bound is b sl →
      let n := (s.bv is 32 a is.lowOwn).toInt
      0 ≤ sl.pendB + n → sl.pendB + n < 2 ^ 32 → 0 ≤ sl.expB + n → sl.expB + n < 2 ^ 32 →
      ¬ (sl.expA = 0 ∧ sl.expB + n = 0) →
      let eb := (sl.expB + n).toNat
      becomes is u b (let sl' : Slot := if n < 0 ∧ sl.pendB + n = 0 ∧ sl.pendA = 0
          then { sl with phase := (sl.phase + 1) % 65536, pendA := sl.expA, pendB := eb, expB := eb }
          else { sl with pendB := (sl.pendB + n).toNat, expB := eb }
        { b with slots := SMap.put b.slots name sl' })) ∧
    (s.Completes (.btestPa q d name) q fun is u => ∀ b sl, bound is b sl →
      s.Computes u is false d fun _ => sl.phase % 2 ^ 16 + sl.pendA % 2 ^ 16 * 2 ^ 16) ∧
    (s.Completes (.btestPb q d name) q fun is u => ∀ b sl, bound is b sl → s.Computes u is false d fun _ => sl.pendB) ∧
    (s.Completes (.btestAll q d name) q fun is u => ∀ b sl, bound is b sl →
      s.Computes u is true d fun _ => sl.phase % 2 ^ 16 + sl.pendA % 2 ^ 16 * 2 ^ 16 + sl.pendB % 2 ^ 32 * 2 ^ 32) ∧
    (s.Completes (.btestPassed q pd name a) q fun is u => ∀ b sl, bound is b sl →
      let past := (BitVec.ofNat 16 sl.phase - BitVec.ofNat 16 (s.opnd is false a is.low)).toNat
      s.Decides u is pd fun _ => decide (1 ≤ past ∧ past ≤ 2 ^ 15)) ∧
    (s.Completes (.binval q name) q fun is u => is.own ≠ 0 → ∀ b sl, bound is b sl →
      ∃ b', becomes is u b b' ∧ b' = { b with scratch := b'.scratch, slots := SMap.del b.slots name } ∧
        b'.head sl.off = sl.head false ∧ ∀ k, (k < sl.off ∨ sl.off + 16 ≤ k) → b'.byte k = b.byte k)

/-- ARRIVE (R231, R234, R405) sends one arrival: as many threads as the active lanes that are not helper lanes, or the
count named; 4 cc later for a name, and for the address form 4 cc later on the own core or 40 cc later at a peer. The
model's own choices in it: log entry 32. ARRIVAL_APPLY (R231): the oldest arrival that is ready leaves its pending
counts less, or, when both become 0 or one overcounts, the next phase with the expected counts; a group of the block
that is at home holds the old phase as its ticket. WATCH_FIRE (R237): the oldest fired watch sends one arrival and
ends power state P2. -/
def Obligations.Arrivals : Prop :=
  (∀ (s : State) (q : Guard) (rlx peer : Bool) (name : Nat) (a : Src) (n : Option Src),
     let counts (is : Issue) (c : Nat) : Prop := match n with
       | none => c = count is.own
       | some x => c = s.opnd is false x is.lowOwn ∧ c < 2 ^ 16
     let sends (is : Issue) (u : State) (to_ : ArriveTo) (c due : Nat) : Prop :=
       ∃ h : Group, h = { is.g.advance is.i with fences := h.fences } ∧ u = { s.setGroup is.gid h with
         arrivals := s.arrivals ++ [{ to_ := to_, a := c, y := 0, by_ := .group is.gid is.own, due := s.now + due }] }
     (s.Completes (.arrive q rlx name n) q fun is u => (rlx = false → is.g.late = []) → is.own ≠ 0 →
       s.nameOk is name = true → (s.slotOf (s.nameBlock is) name).isSome → ∀ c, counts is c →
       sends is u (.name (s.nameBlock is) name) c 4) ∧
     (s.Completes (.arriveAddress q rlx peer a n) q fun is u => (rlx = false → is.g.late = []) → is.own ≠ 0 →
       let sp : Space := if peer then .peer else .scratch
       ∀ rank o, s.address is sp a 0 1 1 is.lowOwn = .ok rank o → ∀ c, counts is c →
       sends is u (.address (s.padOf is sp rank) o) c (if peer then 40 else 4))) ∧
  (∀ s : State,
     (∀ x bid n b sl, s.arrivals.find? s.arrivalReady = some x → x.to_ = .name bid n → s.block? bid = some b →
       b.phase ≠ .saved → b.phase ≠ .restoring → SMap.find? b.slots n = some sl →
       let sl' : Slot := if sl.pendA < x.a ∨ sl.pendB < x.y ∨ (x.a = sl.pendA ∧ x.y = sl.pendB)
         then { sl with phase := (sl.phase + 1) % 65536, pendA := sl.expA, pendB := sl.expB }
         else { sl with pendA := sl.pendA - x.a, pendB := sl.pendB - x.y }
       ∃ t b', exec .arrivalApply s = .next t ∧ t.arrivals = s.arrivals.erase x ∧ t.mem = s.mem ∧ t.block? bid = some b' ∧
         b' = { b with scratch := b'.scratch, slots := SMap.put b.slots n sl' } ∧
         (x.a ≤ sl.pendA → x.y ≤ sl.pendB → t.groups = s.groups) ∧
         (∀ gid ls g, x.by_ = .group gid ls → s.group? gid = some g → g.bid = bid → g.landed = none →
           b'.ticket sl.off g.idx = sl.phase % 2 ^ 16)) ∧
     (∀ w rest, s.md.fired = w :: rest → ∃ t k, exec .watchFire s = .next t ∧ t = { s with
       fab := t.fab
       md := { s.md with fired := rest }
       guard := { s.guard with power := if s.guard.power = 2 then 0 else s.guard.power }
       arrivals := s.arrivals ++ [{ to_ := .name w.bid w.slot, a := 1, y := 0, by_ := .watch, due := s.now, ticket := k }] }))

/-- The copy words (R239 to R241, R407, R408): the first issue makes the command, with its registers and the group's
next identifier, and asks the map record's home for its 64 bytes; a later issue, after they have come, admits it when
it is the oldest that may run. CPYX cancels the group's commands on a slot. The model's own choices in it: log entry
30. COPY_ADMIT (R239): the oldest copy word of a core that may run is admitted. COPY_UNIT_DELIVER (R242 to R244): the
map record that has come is taken; a unit of a running command asks the homes for each element of it that lies in
bounds, or hands them its scratchpad bytes; a unit into scratchpad whose answers have come lands: each byte of each
element as read, or its fill, at each destination; one byte arrival there for the unit's bytes. The model's own
choices in it: log entries 29, 31. -/
def Obligations.Copies : Prop :=
  (∀ (s : State) (q : Guard) (r slot mask : Nat) (dir spread : Bool),
     let copies (i : Instr) (kind m mode : Nat) : Prop :=
       (s.Completes i q fun is u => is.g.late = [] → is.own ≠ 0 → s.nameOk is slot = true →
         ∀ b cx ia chk, s.block? (s.nameBlock is) = some b → b.waitsAt is = none →
         let id := is.g.idx * 2 ^ 16 + is.g.copyCount % 2 ^ 16
         let va := (is.g.sreg r).toNat + (is.g.sreg (r + 1)).toNat * 2 ^ 32
         (∀ x ∈ b.cmds ++ b.ghosts, x.key ≠ is.gid * 2 ^ 32 + id) → va % 64 = 0 → s.ctx? b.ctx = some cx →
         cx.translate va acRead = .ok (ia, chk) →
         ∃ h c k, h = { is.g with copyCount := is.g.copyCount + 1, fences := h.fences } ∧
           u = { (s.setGroup is.gid h).setBlock (s.nameBlock is) { b with cmds := b.cmds ++ [c] } with
             fab := u.fab, md := { s.md with reqs := s.md.reqs ++ [k], nextTag := s.md.nextTag + 1 } } ∧
           c.id = id ∧ c.kind = kind ∧ c.slot = slot ∧ c.mmask = m ∧ c.mode = mode ∧ c.gid = is.gid ∧ c.lane = is.lowOwn ∧
           c.clause = is.e.clause ∧ c.word = is.e.word ∧ c.stage = 0 ∧ c.regs = (List.range 8).map (fun k => is.g.sreg (r + k)) ∧
           c.map = [] ∧ c.flight = [(mapUnit, 1)] ∧ k.who = .copy (s.nameBlock is) c.key mapUnit ∧ k.kind = .load ∧
           k.width = 64 ∧ k.ctx = b.ctx ∧ k.lanes.map (fun a => (a.va, a.ia)) = [(va, ia)]) ∧
       (s.Completes i q fun is u => is.g.late = [] → is.own ≠ 0 →
         ∀ b c, s.block? (s.nameBlock is) = some b → b.waitsAt is = some c → c.stage = 1 →
         s.nextCopy b.core = some (s.nameBlock is, c) → c.bad b = false → is.g.entryAt c.clause c.word c.lanes = some is.i →
         (s.entered is i).Admits u (s.nameBlock is) b c is.i)
     copies (.cpy q r slot dir) 1 0 (if dir then 1 else 0) ∧ copies (.cpym q r slot mask spread) 2 mask (if spread then 2 else 0) ∧
     copies (.cpyr q r slot) 3 0 0 ∧ copies (.cpyg q r slot dir) 4 0 (if dir then 1 else 0) ∧
     (s.Completes (.cpyx q slot) q fun is u => is.own ≠ 0 → ∀ b, s.block? (s.nameBlock is) = some b →
       let cs := b.cmds.filter fun c => c.gid == is.gid && c.slot == slot && decide (2 ≤ c.stage)
       ((∀ c ∈ cs, c.toGlobal = false) → u.mem = s.mem ∧ u.far = s.far) ∧
       ((∀ c ∈ cs, c.fails = []) →
         ∃ h, u.groups = SMap.put s.groups is.gid h ∧ h = { is.g.advance is.i with fences := h.fences }) ∧
       ∃ b', u.block? (s.nameBlock is) = some b' ∧
         ∀ c, (c ∈ cs → c ∉ b'.cmds) ∧ (c ∉ cs → (∀ x ∈ b.cmds, x.key = c.key → x = c) → (c ∈ b'.cmds ↔ c ∈ b.cmds)))) ∧
  (∀ s : State,
     (∀ core bid b c g i, s.nextCopy core = some (bid, c) → s.block? bid = some b → c.bad b = false →
       s.group? c.gid = some g → g.entryAt c.clause c.word c.lanes = some i →
       ∃ t, exec (.copyAdmit core) s = .next t ∧ s.Admits t bid b c i) ∧
     (∀ bid b c, s.block? bid = some b → b.cmds.find? (fun x => x.key == c.key) = some c → (∀ x ∈ b.ghosts, x.key ≠ c.key) →
       c.fails = [] →
       (s.unitReady c mapUnit = true → exec (.copyUnitDeliver bid c.key mapUnit) s = .next (s.setBlock bid { b with
         cmds := b.cmds.map fun x => if x.key = c.key then
           { x.taken mapUnit with stage := max 1 x.stage, map := SMap.getRun 0 c.got (2 ^ 40 * mapUnit) 64 } else x })) ∧
       (∀ u < mapUnit, s.unitReady c u = true → c.toGlobal = false → c.kind ≠ 3 →
         let ds := c.dests bid b
         let to_ := if c.spread then [ds.getD (u % max 1 ds.length) bid] else ds
         ∃ t, exec (.copyUnitDeliver bid c.key u) s = .next t ∧ t.mem = s.mem ∧ t.far = s.far ∧ t.groups = s.groups ∧ t.md = s.md ∧
           t.arrivals = s.arrivals ++ to_.map (fun d =>
             { to_ := .name d c.slot, a := 0, y := c.unitLen u, by_ := .engine c.gid c.lane, due := s.now }) ∧
           (∀ d ∈ to_, ∀ k, s.block? d = some k → ∃ k', t.block? d = some k' ∧
             k' = { k with scratch := k'.scratch, cmds := k'.cmds } ∧
             ∀ e ∈ c.elems u, ∀ j < c.rec_.bytes, k'.byte (c.place ds.length (256 * u + e.at_ + j)) =
               match e.va with
               | some _ => SMap.get 0 c.got (2 ^ 40 * u + e.at_ + j)
               | none => c.rec_.fillBytes.getD j 0) ∧
           ∃ b', t.block? bid = some b' ∧ b'.cmds = b.cmds.filterMap fun x =>
             if x.key = c.key then (if x.done.length + 1 = x.units then none else some { x.taken u with done := x.done ++ [u] })
             else some x)) ∧
     (∀ bid b cx c u, s.block? bid = some b → s.ctx? b.ctx = some cx → b.phase = .live →
       b.cmds.find? (fun x => x.key == c.key) = some c → (∀ x ∈ b.ghosts, x.key ≠ c.key) → c.stage = 2 →
       c.underWay mapUnit = false → c.underWay listUnit = false → c.map ≠ [] → (c.kind = 3 ∨ c.kind = 4 → c.list.isSome) →
       u ≤ c.first + 64 → u < c.units → u < mapUnit → u ∉ c.done → c.underWay u = false → s.copyFlight b.core < 64 →
       (c.toGlobal = true → c.kind ≠ 4 ∧ ∀ e ∈ c.elems u, ∀ va, e.va = some va → c.clashes va = false) →
       let acc := (c.elems u).filterMap fun e => e.va.map fun va =>
         (va, if c.toGlobal then ofBytes ((List.range c.rec_.bytes).map fun k => b.byte (c.off + 256 * u + e.at_ + k)) else e.at_)
       ∀ ia : Nat → Nat, (∀ x ∈ acc, ∃ chk, cx.translate x.1 (c.rights u) = .ok (ia x.1, chk)) →
       let ls := acc.zipIdx.map fun x => { lane := x.2, va := x.1.1, ia := ia x.1.1, data := x.1.2, data2 := 0 }
       ∃ t new, exec (.copyUnitDeliver bid c.key u) s = .next t ∧
         t = { s.setBlock bid { b with cmds := b.cmds.map fun x =>
             if x.key = c.key then { x with flight := x.flight ++ [(u, (perUnit ls).length)] } else x } with
           fab := t.fab, free := s.free + 256, md := { s.md with reqs := s.md.reqs ++ new, nextTag := s.md.nextTag + new.length } } ∧
         new.map (·.lanes) = perUnit ls ∧ ∀ r ∈ new, r.who = .copy bid c.key u ∧
           r.kind = (if c.toGlobal then .copyWrite else .copyRead) ∧ r.width = c.rec_.bytes ∧ r.ctx = b.ctx))

/-! ### Matrix and small-matrix words (chapters 10 and 16) -/

/-- ACFG and AFENCE (R263, R271, R411, R412): a tile is configured over free units, which become zero, or released;
AFENCE drops the copies that the matrix engine keeps. TILE_WORD_COMPLETE (R414, R415, R417): AZERO zeroes the rows of
its lanes; ALD and AWR move elements into them from scratchpad, widened exactly, or from registers; ARD and AST move
them out. A written tile's version advances, and the entry goes on. The model's own choices in it: log entry 46. -/
def Obligations.Tiles : Prop :=
  (∀ (s : State) (q : Guard) (tile : Nat) (n first : Src),
     let gone (is : Issue) (h : Group) : Prop := h = { is.g.advance is.i with fences := h.fences }
     (s.Completes (.acfg q tile n first) q fun is u =>
       let k := s.opnd is false n is.low
       let f := s.opnd is false first is.low
       let zeroed (us : List Nat) (b' : Block) : Prop :=
         b'.accs = is.b.accs.filter fun e => decide (e.1 / 3072 ∉ us)
       (k = 0 → SMap.find? is.b.tiles tile = none → ∃ h, u = s.setGroup is.gid h ∧ gone is h) ∧
       (k = 0 → ∀ d, SMap.find? is.b.tiles tile = some d → (∀ x ∈ s.busyTiles is.g.bid, x.1 ≠ tile) →
         ∃ h b', u = (s.setGroup is.gid h).setBlock is.g.bid b' ∧ gone is h ∧
           b' = { is.b with accs := b'.accs, tiles := SMap.del is.b.tiles tile } ∧ zeroed d.units b') ∧
       (k = 1 ∨ k = 2 ∨ k = 4 → f + k ≤ is.b.acc → SMap.find? is.b.tiles tile = none →
         (∀ e ∈ SMap.entries is.b.tiles, ∀ x ∈ e.2.units, x < f ∨ f + k ≤ x) →
         ∃ h b', u = (s.setGroup is.gid h).setBlock is.g.bid b' ∧ gone is h ∧
           b' = { is.b with accs := b'.accs, tiles := SMap.put is.b.tiles tile { n := k, first := f, ver := 0 } } ∧
           zeroed ((List.range k).map (f + ·)) b')) ∧
     (s.Completes (.afence q) q fun is u => ∃ h, u = (s.setGroup is.gid h).setBlock is.g.bid { is.b with copies := [] } ∧
       h = { is.g.advance is.i with padWrote := [], fences := h.fences })) ∧
  (∀ (s : State) (gid : Nat) (g : Group) (x : EngineExec) (i : Instr) (b : Block) (t0 : Nat × Option Nat × Bool) (d : Tile) (j : Nat),
     s.group? gid = some g → g.tileWords.head? = some x → wordOf x.raw = some i → s.block? g.bid = some b → tileOf i = some t0 →
     SMap.find? b.tiles t0.1 = some d → g.entryAt x.clause x.word x.lanes = some j →
     let m := rowMapOf x.map
     let n := rowBytes m.fmt
     let at_ (l c : Nat) : Nat := m.base + l * m.stride + c * n
     ∃ t h b', exec (.tileWordComplete gid) s = .next t ∧ t = { s with
         groups := SMap.put s.groups gid h, blocks := SMap.put s.blocks g.bid b', arrivals := t.arrivals } ∧
       h = { g.advance j with v := h.v, padWrote := h.padWrote, tileWords := g.tileWords.drop 1 } ∧
       b' = { b with accs := b'.accs, scratch := b'.scratch, tiles :=
         if t0.2.2 then SMap.modify b.tiles t0.1 (fun e => { e with ver := (e.ver + 1) % 256 }) else b.tiles } ∧
       (∀ q u v sl, i = .azero q u v sl → h.v = g.v ∧ b'.scratch = b.scratch ∧
         ∀ l < 32, ∀ c, b'.acc32 d l c = if lane x.lanes l ∧ c < 96 * d.n then 0 else b.acc32 d l c) ∧
       (∀ q u v mp sl, i = .ald q u v mp sl → h.v = g.v ∧ b'.scratch = b.scratch ∧
         ∀ l < 32, ∀ c, b'.acc32 d l c = if lane x.lanes l ∧ m.c0 ≤ c ∧ c < m.c0 + m.cn
           then BitVec.ofNat 32 (let e := b.readN (at_ l (c - m.c0)) n
             if m.fmt = 0 then e else (Fmt.f32.round .rn false ((rowFmt m.fmt).read e)).1)
           else b.acc32 d l c) ∧
       (∀ q u v a c0 k, i = .awr q u v a c0 k → h.v = g.v ∧ b'.scratch = b.scratch ∧
         ∀ l < 32, ∀ c, b'.acc32 d l c = if lane x.lanes l ∧ c0 ≤ c ∧ c < c0 + k
           then g.vreg (x.reg l + (c - c0)) l else b.acc32 d l c) ∧
       (∀ q u v nw a c0 k, i = .ard q u v nw a c0 k → b'.accs = b.accs ∧ b'.scratch = b.scratch ∧
         ∀ r, ∀ l < 32, h.vreg r l = if lane x.lanes l ∧ x.reg l ≤ r ∧ r < x.reg l + k
           then b.acc32 d l (c0 + (r - x.reg l)) else g.vreg r l) ∧
       (∀ q u v nw mp sl, i = .ast q u v nw mp sl → h.v = g.v ∧ b'.accs = b.accs ∧
         (∀ o, (∀ l < 32, lane x.lanes l → o < at_ l 0 ∨ at_ l m.cn ≤ o) → b'.byte o = b.byte o) ∧
         (m.cn * n ≤ m.stride → ∀ l < 32, lane x.lanes l → ∀ c < m.cn, b'.readN (at_ l c) n =
           (let e := (b.acc32 d l (m.c0 + c)).toNat
            if m.fmt = 0 then e else ((rowFmt m.fmt).round .rn m.nosat (Fmt.f32.read e)).1) % 2 ^ (8 * n))))

/-- MMA and MMAS begin (R264, R270, R410, R413): with a configured tile and maps that pass their checks, the group's
matrix engine holds the word, its rows, maps and chunks, an operand-log entry stands for it, and the A of an earlier
word is latched no more; AZERO, ALD, AST, ARD
and AWR (R414 to R416) hold the group's tile engine. The entry stays at the word. The model's own choices in it: log
entry 49. -/
def Obligations.MatrixIssue : Prop :=
  ∀ (s : State) (q : Guard) (ty : MatTy) (tile ver bmap map c0 n : Nat) (reuse now : Bool) (a : ASrc) (d : Dst) (mode : MmaMode)
    (slot : Option Nat),
    let begins (i : Instr) (scaled : Bool) : Prop := s.Completes i q fun is u =>
      ∀ t bt k ch, SMap.find? is.b.tiles tile = some t →
        let bm := matMapOf (is.g.record4 bmap)
        let am := match a with | .map _ => some (matMapOf (ASrc.mapOf is.g a)) | .regs _ => none
        (ty = .mx4 → bm.type = 8 → is.g.longRun is.act a = (false, 0)) → matCheck scaled ty am bm (96 * t.n) is.b.spad = some (bt, k, ch) →
        ∃ h b' m o, u = { (s.setGroup is.gid h).setBlock is.g.bid b' with free := s.free + 1 } ∧
          h = { is.g with mma := some m, padWrote := [], latch := none, oplog := SMap.put is.g.oplog is.g.freeLog o,
                          fences := h.fences } ∧ b' = { is.b with copies := b'.copies } ∧ o.kind = .mma ∧ o.pending = is.act ∧
          m.clause = is.e.clause ∧ m.word = is.e.word ∧ m.tile = tile ∧ m.ver = ver ∧ m.rows = is.act ∧ m.chunk = 0 ∧
          m.chunks = k / ch ∧ m.bmap = is.g.record4 bmap ∧ m.halt = false ∧
          (is.g.latch = none → m.latched = false ∧ m.abase = is.g.aBase a is.act ∧ m.aloc = m.amap ∧ ∀ l < 32, lane is.act l →
            (m.a.getD l [], m.ascale.getD l []) = is.g.rowNow is.b a m.amap ty k (k / ch) l)
    let holds (i : Instr) (regs : Bool) (cols : Group → Nat) (r : Group → List (BitVec 32)) (bad : Issue → RowMap → Bool) : Prop :=
      s.Completes i q fun is u => ∀ t, SMap.find? is.b.tiles tile = some t → cols is.g ≠ 0 → cols is.g ≤ 96 * t.n →
        bad is (rowMapOf (r is.g)) = false → ∃ h x, u = s.setGroup is.gid h ∧
          h = { is.g with tileWords := is.g.tileWords ++ [x], fences := h.fences } ∧ x.clause = is.e.clause ∧
          x.word = is.e.word ∧ x.raw = (encode i).getD 0 ∧ x.lanes = is.act ∧ x.map = r is.g ∧
          (regs → ∀ l < 32, lane is.act l → x.reg l = is.g.runBase d l)
    let mapped (i : Instr) (load : Bool) : Prop :=
      holds i false (fun g => let m := rowMapOf (g.record4 map); if m.cn = 0 then 0 else m.c0 + m.cn) (·.record4 map)
        fun is m => m.bad load ((highest is.act).getD 0) is.b.spad
    begins (.mma q ty tile ver reuse a bmap mode slot) false ∧ begins (.mmas q ty tile ver reuse a bmap mode slot) true ∧
    holds (.azero q tile ver slot) false (fun _ => 1) (fun _ => []) (fun _ _ => false) ∧
    mapped (.ald q tile ver map slot) true ∧ mapped (.ast q tile ver now map slot) false ∧
    holds (.ard q tile ver now d c0 n) true (fun _ => c0 + n) (fun _ => []) (fun _ _ => false) ∧
    holds (.awr q tile ver d c0 n) true (fun _ => c0 + n) (fun _ => []) (fun _ _ => false)

/-- A chunk of an MMA (R259): each element of the tile's rows becomes the exact sum of its old value and the chunk's
products, rounded once, where nothing the word reads has changed since its issue. After its last chunk it completes
(R265): the version of its tile advances, its slot receives one arrival, its A is latched if it is to be used again
(R270), MRES is clear, and its entry goes on. A stopped one resumes at its chunk (R274). The model's own choices in it: log entries 43, 44, 45. -/
def Obligations.MatrixProduct : Prop :=
  ∀ (s : State) (gid : Nat) (g : Group), s.group? gid = some g →
    (∀ m b w d bt k ch, g.mma = some m → s.mmaParts g m = some (b, w, d, bt, k, ch) → m.chunks = k / ch → m.chunk < m.chunks →
      (∀ i < 32, lane m.rows i → (m.a.getD i [], m.ascale.getD i []) = g.rowNow b w.a m.amap w.ty k (k / ch) i) →
      (m.latched = false → m.abase = g.aBase w.a m.rows ∧ m.aloc = m.amap) →
      b.copies = [] → (∀ o, SMap.get 0 m.old o = b.byte o) →
      let bm := matMapOf m.bmap
      let ks := (List.range ch).map (ch * m.chunk + ·)
      let x (i q : Nat) : Ex := let r := g.rowNow b w.a m.amap w.ty k (k / ch) i
        matValue w.ty (r.2.getD m.chunk 127) (r.1.getD q 0)
      let y (c q : Nat) : Ex := if bm.ext ≤ c then Ex.zero false
        else matValue bt (if w.scaled then (b.byte (bm.scale + 4 * c + m.chunk)).toNat else 0)
          (bitsAt b.byte (bm.bitOf bt.bits q c) bt.bits)
      let start (i c : Nat) : BitVec 32 := if w.mode = .ovr ∧ m.chunk = 0 then 0 else b.acc32 d i c
      let sum (i c : Nat) : Ex := ks.foldl (fun acc q =>
        let p := ((x i q).mul (y c q)).1
        (acc.add (if w.mode = .sub then p.neg else p)).1) (Fmt.f32.read (start i c).toNat)
      let stop : Bool := m.halt && decide (m.chunk + 1 < m.chunks)
      ∃ t b', exec (.mmaChunkEnd gid) s = .next t ∧ t = { (s.setBlock g.bid b').setGroup gid { g with
          mma := if stop then none else some { m with chunk := m.chunk + 1 }
          mres := if stop then mresOf { m with chunk := m.chunk + 1 } else g.mres } with free := t.free } ∧
        b' = { b with accs := b'.accs, copies := b'.copies } ∧
        ∀ i < 32, ∀ c < 96 * d.n, b'.acc32 d i c =
          if lane m.rows i then BitVec.ofNat 32 (Fmt.f32.round .rn false (sum i c)).1 else b.acc32 d i c) ∧
    (∀ m b, g.mma = some m → m.chunks ≤ m.chunk → s.block? g.bid = some b →
      ∃ t h, exec (.mmaComplete gid) s = .next t ∧
        t.block? g.bid = some { b with tiles := SMap.modify b.tiles m.tile fun d => { d with ver := (d.ver + 1) % 256 } } ∧
        t.arrivals = s.arrivals ++ (match ((wordOf m.raw).bind mmaWord).bind (·.slot) with
          | none => []
          | some n => [{ to_ := .name (s.hostBlock g b) n, a := 1, y := 0, by_ := .engine gid ((lowest m.rows).getD 0),
                         due := s.now }]) ∧
        (∀ i, g.entryAt m.clause m.word m.rows = some i → t.groups = SMap.put s.groups gid h ∧
          h = { g.advance i with mma := none, mres := 0, latch := m.latch, oplog := h.oplog }) ∧ t.mem = s.mem) ∧
    (∀ k0 o m0 p, s.mayResume g = true → g.mmaSlot = some k0 → SMap.find? g.oplog k0 = some o → m0.raw = o.raw →
      m0.tile = bits g.mres.toNat 57 6 →
      m0.bmap = (List.range 4).map (fun j => BitVec.ofNat 32 (SMap.get 0 o.data 0 / 2 ^ (32 * j))) → s.mmaParts g m0 = some p →
      ∃ m, exec (.mmaResume gid) s = .next { s.setGroup gid { g with mma := some m } with free := s.free + 1 } ∧
        m.tile = m0.tile ∧ m.rows = o.pending ∧ m.chunk = bits g.mres.toNat 37 16 ∧ m.clause = o.clause ∧ m.word = o.word ∧
        m.bmap = m0.bmap)

/-- KSHAPE sets a view of KSHPA or KSHPB and KSHAPE.clr its valid bit (R420); the other small-matrix words, with views
and operands that pass their checks (R185, R421), hold the group's small-matrix engine with their lanes. The model's
own choices in it: log entry 48. KWORD_COMPLETE (R276, R422) for f32 views: each active lane's destination view holds
zeros, the identity, the transpose, the rounded sums, or the products summed by rounded fused steps in ascending
order; the registers of other lanes and the scalar registers stay, and the entry goes on. The model's own choices in
it: log entry 47. -/
def Obligations.SmallMatrices : Prop :=
  (∀ (s : State) (q : Guard) (wide : Bool) (kd ka kb fp rows cols : Nat) (base : Src) (f : Factor) (d : Dst) (p : Option Dst),
     let shapes (i : Instr) (v : Issue → Nat) : Prop := kd < 8 → s.Completes i q fun is u =>
       ∃ h, u = s.setGroup is.gid h ∧ h = { is.g.advance is.i with kshpa := h.kshpa, kshpb := h.kshpb, fences := h.fences } ∧
         ∀ j < 8, h.view j = if j = kd then v is % 2 ^ 16 else is.g.view j
     let holds (i : Instr) : Prop := s.Completes i q fun is u =>
       is.g.detBad i = false → is.g.viewsBad i = false → is.g.laneBad i is.act = 0 →
       ∃ h x, u = s.setGroup is.gid h ∧ h = { is.g with kwords := is.g.kwords ++ [x], p := h.p, fences := h.fences } ∧
         (∀ j l, h.pred j l = is.g.pred j l) ∧ x.clause = is.e.clause ∧
         x.word = is.e.word ∧ x.raw = (encode i).getD 0 ∧ x.lanes = is.act ∧ is.g.shaped x.map = is.g
     shapes (.kshape q wide kd base rows cols) (fun is => (s.opnd is false base is.low) % 256 * 2 ^ 8 + rows % 8 * 2 ^ 5 +
       cols % 8 * 2 ^ 2 + (if wide then 2 else 0) + 1) ∧
     shapes (.kshapeClr q kd) (fun is => is.g.view kd - is.g.view kd % 2) ∧
     holds (.kzero q kd) ∧ holds (.keye q kd) ∧ holds (.kadd q kd ka kb fp) ∧ holds (.kmul q kd ka kb fp) ∧
     holds (.kmad q kd ka kb fp) ∧ holds (.ktrn q kd ka fp) ∧ holds (.kchol q kd ka fp) ∧ holds (.kldl q kd ka fp) ∧
     holds (.klu q kd ka d fp) ∧ holds (.ksolve q f kd ka kb p fp) ∧ holds (.kdet q d ka fp) ∧ holds (.kinv q kd ka fp)) ∧
  (∀ (s : State) (gid : Nat) (g : Group) (x : EngineExec) (i : Instr) (j : Nat),
     s.group? gid = some g → g.kwords.head? = some x → wordOf x.raw = some i →
     g.entryAt x.clause x.word x.lanes = some j →
     let old := g.shaped x.map
     let rd (v : Nat) : Nat := viewRows (old.view v)
     let cd (v : Nat) : Nat := viewCols (old.view v)
     let el (v l a b : Nat) : Nat := (g.vreg (viewBase (old.view v) + cd v * a + b) l).toNat
     let fma (l ka kb a b : Nat) (t : Nat) (k : Nat) : Nat := (Fmt.f32.finish
       ((Fmt.f32.read (el ka l a k)).fma (Fmt.f32.read (el kb l k b)) (Fmt.f32.read t))).1
     ∃ t h, exec (.kwordComplete gid) s = .next t ∧ t = s.setGroup gid h ∧
       h = { g.advance j with v := h.v, p := h.p, fstat := h.fstat, kstat := h.kstat, kwords := g.kwords.drop 1 } ∧
       (∀ l < 32, lane x.lanes l = false → ∀ r, h.vreg r l = g.vreg r l) ∧
       let gives (kd : Nat) (rs cs : Nat) (vs : List Nat) (f : Nat → Nat → Nat → Nat) : Prop :=
         (∀ v ∈ kd :: vs, viewWide (old.view v) = false) → ∀ l < 32, lane x.lanes l → ∀ a < rs, ∀ b < cs,
           h.vreg (viewBase (old.view kd) + cs * a + b) l = BitVec.ofNat 32 (kCanon Fmt.f32 (f l a b))
       (∀ q kd, i = .kzero q kd → gives kd (rd kd) (cd kd) [] fun _ _ _ => 0) ∧
       (∀ q kd, i = .keye q kd → gives kd (rd kd) (cd kd) [] fun _ a b => if a = b then 0x3F800000 else 0) ∧
       (∀ q kd ka fp, i = .ktrn q kd ka fp → gives kd (cd ka) (rd ka) [ka] fun l a b => el ka l b a) ∧
       (∀ q kd ka kb fp, i = .kadd q kd ka kb fp → rd kb = rd ka → cd kb = cd ka → gives kd (rd ka) (cd ka) [ka, kb] fun l a b =>
         (Fmt.f32.finish ((Fmt.f32.read (el ka l a b)).add (Fmt.f32.read (el kb l a b)))).1) ∧
       (∀ q kd ka kb fp, i = .kmul q kd ka kb fp → cd ka = rd kb → 0 < cd ka → gives kd (rd ka) (cd kb) [ka, kb] fun l a b =>
         (fromTo 1 (cd ka)).foldl (fma l ka kb a b)
           (Fmt.f32.finish ((Fmt.f32.read (el ka l a 0)).mul (Fmt.f32.read (el kb l 0 b)))).1) ∧
       (∀ q kd ka kb fp, i = .kmad q kd ka kb fp → cd ka = rd kb → rd kd = rd ka → cd kd = cd kb → gives kd (rd ka) (cd kb) [ka, kb] fun l a b =>
         (List.range (cd ka)).foldl (fma l ka kb a b) (el kd l a b)))

/-! ### Control words (chapter 13) -/

/-- NOP, BRA and CALL (R352, R354, R355): each active lane stands at the target, word 0, and each other lane of the
entry at the next header; CALL leaves the next header in v30:31 of its active lanes. The predicate of BRA is ready,
and the handler's entry is not split (R432). BRX, CALLX and RET (R353, R356): each active lane goes to the address in
its own pair, which is aligned and below 2^56, the others to the next header; CALLX leaves the next header in v30:31,
after the targets are read. An identifier is free for a split (log entry 135). -/
def Obligations.Branches : Prop :=
  (∀ (s : State) (q : Guard) (disp : Int) (hint : Nat),
     let target (is : Issue) : Nat := (BitVec.ofNat 64 is.e.next + BitVec.ofInt 64 disp).toNat
     let whole (is : Issue) : Prop := is.act = is.e.mask ∨ is.g.isHandler is.i = false
     let go (is : Issue) (h : Group) : Prop :=
       ∀ l < 32, lane is.e.mask l → h.StandsAt l (if lane is.act l then target is else is.e.next) 0
     (s.Completes .nop always fun is u => ∃ h, u = s.setGroup is.gid h ∧ h = { is.g.advance is.i with fences := h.fences }) ∧
     (s.Completes (.bra q disp hint) q fun is u => (q.pg < 12 → is.g.inFlight.contains (keyP q.pg) = false) → whole is →
       is.g.identFree = true →
       ∃ h, u = s.setGroup is.gid h ∧ h = { is.g with entries := h.entries, up := h.up, preds := h.preds } ∧ go is h) ∧
     (s.Completes (.call q disp) q fun is u => whole is → is.g.identFree = true → ∃ h, u = s.setGroup is.gid h ∧
       h = { is.g with entries := h.entries, up := h.up, v := h.v, fences := h.fences } ∧ go is h ∧
       ∀ r, ∀ l < 32, h.vreg r l = if lane is.act l ∧ (r = 30 ∨ r = 31) then BitVec.ofNat 32 (is.e.next / 2 ^ (32 * (r - 30)))
         else is.g.vreg r l)) ∧
  (∀ (s : State) (q : Guard) (t : Dst),
     let goes (i : Instr) (link : Bool) : Prop := s.Completes i q fun is u =>
       let to_ (l : Nat) : Nat := s.opnd is true (dstSrc t) l
       (∀ l < 32, lane is.act l → to_ l % 8 = 0 ∧ to_ l < 2 ^ 56) → is.g.isHandler is.i = false → is.g.identFree = true →
       ∃ h, u = s.setGroup is.gid h ∧ h = { is.g with entries := h.entries, up := h.up, v := h.v, fences := h.fences } ∧
         (∀ l < 32, lane is.e.mask l → h.StandsAt l (if lane is.act l then to_ l else is.e.next) 0) ∧
         ∀ r, ∀ l < 32, h.vreg r l = if link ∧ lane is.act l ∧ (r = 30 ∨ r = 31)
           then BitVec.ofNat 32 (is.e.next / 2 ^ (32 * (r - 30))) else is.g.vreg r l
     goes (.brx q t) false ∧ goes (.callx q t) true ∧ goes (.ret q t) false)

/-- EXIT (R357): the active lanes have exited and stand in no entry; the entry's other lanes go to the next header. YIELD
(R358): the platform holds no group. -/
def Obligations.ExitYield : Prop :=
  ∀ (s : State) (q : Guard),
    (s.Completes (.exit q) q fun is u => is.g.late = [] → is.g.fw = false →
      ∃ h, u = s.setGroup is.gid h ∧
        h = { is.g with entries := h.entries, up := h.up, exited := h.exited, trap := h.trap, fences := h.fences } ∧
        (∀ l < 32, lane is.act l → lane h.exited l = true ∧ lane h.live l = false) ∧ (is.g.trap = false → h.trap = false) ∧
        (is.g.live &&& ~~~is.act &&& ~~~is.g.helper ≠ 0 → (∀ e ∈ is.g.entries.take is.i, e.mask &&& ~~~is.act ≠ 0) →
          (∀ l < 32, lane h.exited l = (lane is.g.exited l || lane is.act l)) ∧
          ∀ l < 32, lane is.e.mask l → lane is.act l = false → h.StandsAt l is.e.next 0)) ∧
    (s.Completes (.yield q) q fun is u =>
      let c := is.g.coreOf is.b
      let p := match is.g.landed with | some (_, i) => 2 * i | none => is.g.slot % 4
      let k := s.core c
      let st : Platform := { SMap.get Platform.reset k.platforms p with held := none }
      ∃ h, u = (s.setGroup is.gid h).setCore c { k with platforms := SMap.set Platform.reset k.platforms p st } ∧
        h = { is.g.advance is.i with fences := h.fences })

/-- TRAP and BKPT (R361, R362, R431, R441) with a handler, in a group that is not in one already: TCAUSE holds the cause and the
code, TPC the place after the word, and every lane of the entry stands at the handler; no register changes. With none, TRAP
switches its active lanes off with cause 4 and BKPT only goes on; with debug on BKPT asks for a stop. -/
def Obligations.Traps : Prop :=
  ∀ (s : State) (q : Guard) (code : Src),
    let free (is : Issue) : Prop := is.g.trap = false ∧ is.g.mma = none ∧ bitAt is.g.mres.toNat 63 = false ∧ is.g.halted = false ∧ is.g.fw = false ∧
      is.g.pendingTraps = [] ∧ is.g.specs = [] ∧ is.g.entryOf is.e.mask = some is.i
    let traps (is : Issue) (u : State) (cause kind clause word : Nat) : Prop :=
      ∃ h, u.group? is.gid = some h ∧ h.trap = true ∧ h.pendingTraps = [] ∧
        h.tcause = BitVec.ofNat 32 (kind * 2 ^ 16 + cause) ∧
        h.tpc = BitVec.ofNat 64 (word % 16 * 2 ^ 60 + clause / 8 % 2 ^ 53 * 8) ∧
        h.v = is.g.v ∧ h.s = is.g.s ∧ h.p = is.g.p ∧ h.x = is.g.x ∧ h.fstat = is.g.fstat ∧ h.fmask = is.g.fmask ∧
        ∀ l < 32, lane is.e.mask l → h.StandsAt l (bits is.g.tvec.toNat 3 53 * 8) 0
    let gone (is : Issue) (h : Group) : Prop := h = { is.g.advance is.i with fences := h.fences }
    (s.Completes (.trap q code) q fun is u =>
      (is.g.hasHandler = true → free is → traps is u 4 (s.opnd is false code is.low % 256) is.e.next 0) ∧
      (is.g.hasHandler = false → is.g.fw = false → ∃ h, u = s.setGroup is.gid h ∧
        h = { is.g with entries := h.entries, up := h.up, exited := h.exited, fmask := h.fmask, fences := h.fences } ∧
        h.fmask = (is.g.switchOff is.act 4).fmask ∧ ∀ l < 32, lane is.act l → lane h.live l = false)) ∧
    (s.Completes (.bkpt q) q fun is u =>
      (s.debugOn is.b.ctx = true → ∃ h, gone is h ∧ u = (s.setGroup is.gid h).setBlock is.g.bid
        { is.b with stopPending := is.b.stopPending.or (some 1) }) ∧
      (s.debugOn is.b.ctx = false → is.g.hasHandler = true → free is → traps is u 5 0
        (if is.e.word + 1 < is.e.words then is.e.clause else is.e.next)
        (if is.e.word + 1 < is.e.words then is.e.word + 1 else 0)) ∧
      (s.debugOn is.b.ctx = false → is.g.hasHandler = false → ∃ h, u = s.setGroup is.gid h ∧ gone is h))

/-- MIGRATE (R176, R360) of a reconverged group with nothing outstanding: it sets out for a free landing slot of the
rank it names (with a MIGRATE record where the context has a logbook), or its predicate says at once that it is there
already or cannot go; no register changes. On arrival it
stands at the clause after MIGRATE with the predicate true. The model's own choices in it: log entry 26. -/
def Obligations.Migration : Prop :=
  ∀ (s : State) (q : Guard) (pd : Nat) (a : Src),
    (s.Completes (.migrate q pd a) q fun is u =>
      let x := s.opnd is false a is.low
      let rank := x / 2 ^ 20 % 16
      is.g.entries.length = 1 → SMap.entries is.g.oplog = [] → s.storesPending is 0xFFFFFFFF = false → x / 2 ^ 24 % 256 = 0 →
      rank < is.b.csize →
      let tells (v : Bool) : Prop := ∃ h, u = s.setGroup is.gid h ∧ h = { is.g.advance is.i with p := h.p, fences := h.fences } ∧
        (pd < 12 → ∀ l < 32, lane is.g.live l → h.pred pd l = v) ∧
        ∀ k < 12, ∀ l < 32, (k ≠ pd ∨ lane is.g.live l = false) → h.pred k l = is.g.pred k l
      let sets (dest : Nat × Nat) : Prop :=
        ∃ h, h = { is.g with migrating := some dest, fences := h.fences } ∧
          u = { s.setGroup is.gid h with host := u.host, mem := u.mem, far := u.far, md := u.md, l1 := u.l1 } ∧
          ((∀ cx, s.ctx? is.b.ctx = some cx → cx.lbBase = 0) → u = s.setGroup is.gid h)
      (is.b.cls = 2 → tells false) ∧
      (is.b.cls ≠ 2 → rank = is.b.clrank → is.g.landed = none → tells true) ∧
      (is.b.cls ≠ 2 → rank = is.b.clrank → is.g.landed ≠ none → sets (is.b.core, 2)) ∧
      (is.b.cls ≠ 2 → rank ≠ is.b.clrank → ∀ k d, is.b.cluster[rank]? = some k → s.block? k = some d →
        match s.freeLanding d.core with
        | some i => sets (d.core, i)
        | none => tells false)) ∧
    (∀ gid g core i e, s.group? gid = some g → g.migrating = some (core, i) → i ≠ 3 → g.entries[0]? = some e →
      ∃ h, exec (.migrateShippingDone gid) s = .next (s.setGroup gid h) ∧
        h = { g with migrating := none, landed := if i < 2 then some (core, i) else none, p := h.p, entries := h.entries,
                     up := h.up } ∧
        (∀ l < 32, lane e.mask l → h.StandsAt l e.next 0) ∧
        ∀ q' p' a', ((e.code.getD [])[e.word + 1]?).bind wordOf = some (.migrate q' p' a') → p' < 12 →
          ∀ l < 32, lane g.live l → h.pred p' l = true)

/-- LAUNCH (R128, R359): an operand-log entry holds it and its record of 128 bytes is read in 32 parts. A load that is
complete, with nothing deferred, frees its entry (R164); a LAUNCH whose record has come goes to the signal box, and leaves the log. The
answer to the oldest one writes sd and pd: a refusal has bit 31 set and the predicate false (R130). The model's own
choices in it: log entries 27, 118. -/
def Obligations.LaunchPath : Prop :=
  ∀ (s : State),
    (∀ q sd sa pd, s.Completes (.launch q sd sa pd) q fun is u => is.g.late = [] → is.own ≠ 0 →
      ∀ a, s.reach is .global (.s sa) 0 128 128 acRead 0 = .ok a → ∃ h new o, s.Sends u is.gid h new ∧ u.cores = s.cores ∧
        u.l1 = s.l1 ∧ h = { is.g.advance is.i with oplog := SMap.put is.g.oplog is.g.freeLog o, fences := h.fences } ∧
        o.kind = .launch ∧ o.pending = is.act ∧ new.map (·.lanes) = perUnit (recordParts a.a a.ia) ∧
        ∀ r ∈ new, r.who = .op is.gid is.g.freeLog ∧ r.kind = .load ∧ r.ctx = is.b.ctx) ∧
    (∀ gid op g o, s.group? gid = some g → SMap.find? g.oplog op = some o → op < 16 → o.pending = 0 → o.notNow = 0 →
      o.unconfirmed = false → (∀ k ∈ o.replies, s.landed k = true) → o.faulted = 0 → o.deferred = [] →
      (o.kind ≠ .launch → exec (.loadComplete gid op) s = .next (s.setGroup gid { g with oplog := SMap.del g.oplog op })) ∧
      (∀ q sd sa pd, o.kind = .launch → wordOf o.raw = some (.launch q sd sa pd) →
        ∃ m, exec (.loadComplete gid op) s = .next { s.setGroup gid { g with
            oplog := SMap.put (SMap.del g.oplog op) (launchSlot op) o } with box := { s.box with launches := s.box.launches ++ [m] } } ∧
          m.gid = gid ∧ m.op = launchSlot op ∧ m.sd = sd ∧ m.pd = pd ∧ m.bytes = o.launchBytes)) ∧
    (∀ m rest g cx r, s.guard.power ≠ 2 → s.box.launches = m :: rest → s.group? m.gid = some g → s.ctx? m.ctx = some cx →
      s.refusal m.ctx cx (taskOfBytes m.bytes) = some r →
      ∃ t h, exec .launchReply s = .next t ∧ t.group? m.gid = some h ∧ t.box = { s.box with launches := rest } ∧ t.mem = s.mem ∧
        h = { g with s := h.s, p := h.p, oplog := SMap.del g.oplog m.op } ∧ bitAt r 31 = true ∧
        (∀ k, h.sreg k = if k = m.sd then BitVec.ofNat 32 r else g.sreg k) ∧
        (m.pd < 12 → ∀ l < 32, lane m.lanes l → h.pred m.pd l = false))

/-! ### System words and firmware words (chapters 07, 08 and 17) -/

/-- SRD (R188 to R197, R434) writes the register's value, 32 or 64 bits wide, for each lane; SWR (R435) changes that register
alone, by its writable bits. -/
def Obligations.SystemRegisters : Prop :=
  ∀ (s : State) (q : Guard) (d : Dst) (a : Src) (n : Nat),
    (s.Completes (.srd q d n) q fun is u =>
      (∀ x ∈ [(0x000, fun _ => is.g.gstat), (0x001, fun _ => is.g.fmask.toNat), (0x002, fun l => (is.g.fst l).toNat),
          (0x003, fun l => (is.g.kst l).toNat), (0x004, fun _ => is.g.mres.toNat), (0x005, fun _ => is.g.slim.toNat),
          (0x006, fun _ => is.g.sbase.toNat), (0x008, fun _ => (is.g.win 0).toNat), (0x009, fun _ => (is.g.win 1).toNat),
          (0x00A, fun _ => (is.g.win 2).toNat), (0x00B, fun _ => (is.g.win 3).toNat), (0x00C, fun _ => is.g.kshpa.toNat),
          (0x00D, fun _ => is.g.kshpb.toNat), (0x010, fun _ => is.g.tvec.toNat), (0x011, fun _ => is.g.tpc.toNat),
          (0x012, fun _ => is.g.tcause.toNat), (0x020, fun _ => s.ctxid is.b.ctx)],
        n = x.1 → s.Computes u is (sysWide n) d x.2) ∧
      (is.g.fw = true → ∀ k < 8, ∀ cx, s.ctx? is.b.ctx = some cx →
        let g := SMap.get Segment.reset cx.segs k
        (n = 0x100 + 3 * k → s.Computes u is true d fun _ => g.b.toNat) ∧
        (n = 0x101 + 3 * k → s.Computes u is true d fun _ => g.l.toNat) ∧
        (n = 0x102 + 3 * k → s.Computes u is true d fun _ => g.o.toNat))) ∧
    (s.Completes (.swr q a n) q fun is u =>
      let x (l : Nat) : BitVec 64 := BitVec.ofNat 64 (s.opnd is (sysWide n) a l)
      let leaves (P : Group → Prop) (f : Group → Group) : Prop :=
        ∃ h, u = s.setGroup is.gid h ∧ h = { f (is.g.advance is.i) with fences := h.fences } ∧ P h
      (n = 0x001 → leaves (fun _ => True) fun g => { g with
        fmask := (g.fmask &&& 0x0001FFFFFFFFFFFF &&& ~~~(x is.low) &&& 0x00010000FFFFFFFF) ||| (x is.low &&& 0x0000FFFF00000000) }) ∧
      (n = 0x002 → ∃ f, leaves (fun h => ∀ l < 32, h.fst l = if lane is.act l then (x l).setWidth 32 &&& 0x1F else is.g.fst l)
        fun g => { g with fstat := f }) ∧
      (n = 0x003 → ∃ f, leaves (fun h => ∀ l < 32, h.kst l = if lane is.act l then (x l).setWidth 32 &&& 0x707 else is.g.kst l)
        fun g => { g with kstat := f }) ∧
      (∀ k < 4, n = 0x008 + k → leaves (fun _ => True) fun g => { g with xwin := g.xwin.set k ((x is.low).setWidth 32 &&& 0xFFFF) }) ∧
      (n = 0x00C → kshpBad (x is.low).toNat = false → leaves (fun _ => True) fun g => { g with kshpa := x is.low }) ∧
      (n = 0x00D → kshpBad (x is.low).toNat = false → leaves (fun _ => True) fun g => { g with kshpb := x is.low }) ∧
      (n = 0x010 → leaves (fun _ => True) fun g => { g with tvec := x is.low &&& 0x00FFFFFFFFFFFFF8 }) ∧
      (n = 0x011 → leaves (fun _ => True) fun g => { g with tpc := x is.low &&& 0xF0FFFFFFFFFFFFF8 }))

/-- ERET (R433, R438): in a trap handler the entry goes to the clause and word of TPC and TRAP clears. In firmware the
group is released, and when all groups of a restored block are, each leaves firmware at its loaded split table and the
block is live. The model's own choices in it: log entry 99. HOSTINT (R439) sends vector 8 + LCTX of the context's
function, or leaves it pending while it is masked. PMARK and LOGW (R440) only go on where the context has no logbook,
and otherwise add one record. -/
def Obligations.ReturnAndHostWords : Prop :=
  (∀ (s : State) (q : Guard),
     s.Completes (.eret q) q fun is u =>
       (is.g.fw = false → is.g.trap = true → ∃ h, u = s.setGroup is.gid h ∧
         h = { is.g with entries := h.entries, up := h.up, trap := false, fences := h.fences } ∧
         ∀ l < 32, lane is.e.mask l → h.StandsAt l (bits is.g.tpc.toNat 3 53 * 8) (bits is.g.tpc.toNat 60 4)) ∧
       (is.g.fw = true →
         let others := (Block.gids is.g.bid is.b).filter (· ≠ is.gid)
         let free := is.b.parts.getLsbD 4 && is.b.traffic.all s.landed && others.all fun k => (s.group? k).any (·.released)
         (free = false → ∃ h, u = s.setGroup is.gid h ∧ h = { is.g with released := true, fences := h.fences }) ∧
         (free = true → is.gid ∈ Block.gids is.g.bid is.b → is.b.heldArrivals = [] →
           (∀ r ∈ s.md.reqs, ∀ k o, r.who = .op k o → k ∉ Block.gids is.g.bid is.b) →
           (∀ k ∈ Block.gids is.g.bid is.b, ∀ g, s.group? k = some g → ∀ o ∈ SMap.entries g.oplog, o.2.pending = 0) →
           u.block? is.g.bid = some { is.b with
             phase := if is.b.stopSrc.isSome then .stopped else .live, parts := 0, traffic := []
             area := if is.b.borrowed then is.b.area else none } ∧
           u.mem = s.mem ∧ ∀ k ∈ Block.gids is.g.bid is.b, ∀ g, s.group? k = some g → ∃ h, u.group? k = some h ∧
             h = { g with entries := g.resume, resume := [], fw := false, halted := is.b.stopSrc.isSome, grpSaved := false
                          grpLoaded := false, released := false, fences := h.fences }))) ∧
  (∀ (s : State) (q : Guard) (a : Src) (n tag : Nat),
     let gone (is : Issue) (u : State) : Prop := ∃ h, u = s.setGroup is.gid h ∧ h = { is.g.advance is.i with fences := h.fences }
     let logs (i : Instr) : Prop := s.Completes i q fun is u => ∀ cx, s.ctx? is.b.ctx = some cx →
       (cx.lbBase = 0 → gone is u) ∧
       (cx.lbBase ≠ 0 → cx.lbProd < 2 ^ 64 →
         (cx.lbProd + 1 + 2 ^ 64 - ofBytes ((s.funcRead cx.fn (some is.b.ctx) (cx.lbBase + 8) 8).getD [])) % 2 ^ 64 ≤ 2 ^ cx.lbN →
         u.ctx? is.b.ctx = some { cx with lbProd := (cx.lbProd + 1) % 2 ^ 64 } ∧
         ∃ h, h = { is.g.advance is.i with fences := h.fences } ∧
           u = { s.setGroup is.gid h with host := u.host, mem := u.mem, far := u.far, md := u.md, l1 := u.l1 })
     (s.Completes (.hostint q) q fun is u => is.own ≠ 0 → is.g.late = [] → s.releaseHeld is 0xFFFFFFFF = false → ∀ cx, s.ctx? is.b.ctx = some cx →
       let f := s.func cx.fn
       let v := 8 + cx.lctx
       ∃ h, h = { is.g.advance is.i with fences := h.fences } ∧
         (f.flr = 0 → SMap.get false f.masked v = false →
           u = { s.setGroup is.gid h with host := { s.host with msix := s.host.msix ++ [(cx.fn, v)] } }) ∧
         (f.flr = 0 → SMap.get false f.masked v = true →
           u = (s.setGroup is.gid h).setFunc cx.fn { f with pending := SMap.set false f.pending v true }) ∧
         (f.flr ≠ 0 → u = s.setGroup is.gid h)) ∧
     logs (.pmark q a) ∧ logs (.logw q n tag))

/-- CTXSAVE and CTXREST in firmware (R199 to R202, R437): each part, with the parts before it done and nothing that it
waits for under way, writes the named bytes into the block's save area at the part's offset, or takes them from
there, and the firmware entry goes on. .blk of the last group writes the header and the scratchpad image, and with
every write acknowledged leaves the block saved. The model's own choices in it: log entries 57, 58, 59, 60. -/
def Obligations.SaveAndRestore : Prop :=
  ∀ (s : State) (q : Guard),
    let gone (is : Issue) (h : Group) : Prop := h = { is.g.advance is.i with fences := h.fences }
    let did (is : Issue) (ps : List Nat) : Prop := is.g.fw = true ∧ is.gid / 32 = is.g.bid ∧
      s.block? is.g.bid = some is.b ∧ ∀ p ∈ ps, is.b.parts.getLsbD p = true
    let first (is : Issue) (p : Nat) : Prop := is.b.parts.getLsbD p = false
    -- runs of bytes go into the save area of a block, then a part of the block is marked
    let saves (t : State) (is : Issue) (runs : List (Nat × List (BitVec 8))) (p : Nat) : State :=
      (runs.foldl (fun u r => u.saveWrite is.g.bid is.b r.1 r.2) t).modBlock is.g.bid fun b => { b with parts := b.parts ||| BitVec.ofNat 8 (2 ^ p) }
    -- a run of the save area
    let area (is : Issue) (o n : Nat) : List (BitVec 8) := s.saveBytes is.b o n
    let takes (is : Issue) (u : State) (h : Group) (b' : Block) : Prop :=
      u = { (s.setGroup is.gid h).setBlock is.g.bid b' with fab := u.fab }
    (s.CompletesIf (.ctxsaveCopy q) q (fun is => did is [] ∧ first is 0 ∧ s.copyBusy is.g.bid is.b = false)
      fun is u => ∃ h t b', gone is h ∧
        let mine (w : Requester) : Bool := (is.b.cmds ++ is.b.ghosts).any fun c => ofCopy is.g.bid c.key w
        let left (c : CopyCmd) : CopyCmd := { c with flight := [], replies := [], got := [], fails := [] }
        let cs := (is.b.cmds.filter fun c => c.stage == 2).take 32
        t = { (s.entered is (.ctxsaveCopy q)).setBlock is.g.bid b' with
          md := { s.md with reqs := s.md.reqs.filter fun r => !mine r.who, held := s.md.held.filter fun h => !mine h.req.who } } ∧
        b' = { is.b with cmds := cs.map left, ghosts := [] } ∧
        u = (saves t is [(is.b.copyOff, (((cs.map fun c => (left c).progress).flatten ++ toBytes 2048 0).take 2048))] 0).setGroup is.gid h) ∧
    (s.CompletesIf (.ctxsaveAcc q) q (fun is => did is [0] ∧ first is 1 ∧ s.engineBusy is.g.bid = false) fun is u =>
      ∃ h, gone is h ∧ u = (saves (s.entered is (.ctxsaveAcc q)) is
        [(1024, ((List.range (3072 * is.b.acc)).map fun k => toBytes 4 (SMap.get 0 is.b.accs k).toNat).flatten), (32, is.b.tileFields)] 1).setGroup
          is.gid h) ∧
    (s.CompletesIf (.ctxsaveGrp q) q (fun is => did is [0, 1] ∧ is.g.grpSaved = false ∧ s.groupSettled is.gid = true) fun is u =>
      ∃ h t, h = { is.g.unsure.advance is.i with grpSaved := true, fences := h.fences } ∧
        t = ((s.entered is (.ctxsaveGrp q)).saveWrite is.g.bid is.b (is.b.grpOff + is.g.idx * is.b.recSize) is.g.unsure.saved).saveWrite
          is.g.bid is.b (is.b.sOff + 4 * is.b.scount * is.g.idx) ((List.range is.b.scount).map fun i => toBytes 4 (is.g.sreg i).toNat).flatten ∧
        u = (t.detach is.gid).setGroup is.gid h) ∧
    (let all (is : Issue) : Prop := did is [0, 1] ∧ is.g.grpSaved = true ∧
        ∀ k ∈ Block.gids is.g.bid is.b, ∃ g, s.group? k = some g ∧ g.grpSaved = true
     (s.CompletesIf (.ctxsaveBlk q) q (fun is => all is ∧ first is 3 ∧
         ((s.blockStores is.g.bid = false ∧ s.padBusy is.g.bid is.b = false) ∨ is.b.borrowed = true)) fun is u =>
       let b1 := (SMap.entries is.b.slots).foldl (fun x sl => x.writeBack sl.2 true) is.b
       let runs := [(0, (s.header b1).1), (224, (s.header b1).2), (is.b.padOff, (List.range is.b.spad).map b1.byte)]
       u = saves ((s.entered is (.ctxsaveBlk q)).setBlock is.g.bid b1) is runs 3) ∧
     s.CompletesIf (.ctxsaveBlk q) q (fun is => all is ∧ is.b.parts.getLsbD 3 = true ∧ s.saveAcked is.b = true) fun is u =>
       u.block? is.g.bid = some { is.b with
         phase := .saved, parts := 0, traffic := [], scratch := [], accs := [], tiles := [], copies := [], slots := [], placedAt := s.now } ∧
       ∀ k ∈ Block.gids is.g.bid is.b, ∃ h, u.group? k = some h ∧ h.fw = false ∧ h.halted = true ∧ h.entries = []) ∧
    (s.CompletesIf (.ctxrestBlk q) q (fun is => did is [] ∧ first is 7) fun is u => ∃ h b', gone is h ∧ takes is u h b' ∧
      b' = { is.b with scratch := b'.scratch, slots := b'.slots, parts := is.b.parts ||| 128, traffic := b'.traffic } ∧
      (∀ o < is.b.spad, b'.byte o = (area is is.b.padOff is.b.spad).getD o 0) ∧
      (is.b.slots = [] → ∀ k < 128, (SMap.find? b'.slots k).isSome = bitAt (fieldOf (area is 512 512) (4 * k) 4) 31)) ∧
    (s.CompletesIf (.ctxrestGrp q) q (fun is => did is [7] ∧ is.g.grpLoaded = false) fun is u => ∃ h b', takes is u h b' ∧
      b' = { is.b with traffic := b'.traffic } ∧
      h = { (is.g.loaded (area is (is.b.grpOff + is.g.idx * is.b.recSize) is.b.recSize)).advance is.i with
        s := h.s, grpLoaded := true, fences := h.fences } ∧
      ∀ i < is.b.scount, h.sreg i = word4 (area is (is.b.sOff + 4 * is.b.scount * is.g.idx) (4 * is.b.scount)) i) ∧
    (s.CompletesIf (.ctxrestAcc q) q (fun is => did is [7] ∧ is.g.grpLoaded = true ∧ first is 5)
      fun is u => ∃ h b', gone is h ∧ takes is u h b' ∧
        b' = { is.b with accs := b'.accs, tiles := b'.tiles, parts := is.b.parts ||| 32, traffic := b'.traffic } ∧
        (∀ k < 3072 * is.b.acc, SMap.get 0 b'.accs k = word4 (area is 1024 (12288 * is.b.acc)) k) ∧
        ∀ k < 64, let f := fieldOf (area is 32 192) k 1
          SMap.find? b'.tiles k = if bitAt f 7 then some { n := f % 8, first := fieldOf (area is 32 192) (64 + k) 1,
                                                           ver := fieldOf (area is 32 192) (128 + k) 1 } else none) ∧
    (s.CompletesIf (.ctxrestCopy q) q (fun is => did is [7, 5] ∧ is.g.grpLoaded = true ∧ first is 4) fun is u =>
      let cs := (is.b.cmds.take (fieldOf (area is 224 1) 0 1)).zipIdx.map fun c =>
        c.1.resumed (((area is is.b.copyOff 2048).drop (64 * c.2)).take 64)
      (cs = [] → ∃ h b', gone is h ∧ takes is u h b' ∧ b' = { is.b with cmds := [], parts := is.b.parts ||| 16, traffic := b'.traffic }) ∧
      ∀ cx, is.b.ghosts = [] → (cs.map (·.key)).Nodup → s.ctx? is.b.ctx = some cx →
        ∀ ia : CopyCmd → Nat, (∀ c ∈ cs, c.mapVA % 64 = 0 ∧ ∃ chk, cx.translate c.mapVA acRead = .ok (ia c, chk)) →
        ∃ h b' new, gone is h ∧ u = { (s.setGroup is.gid h).setBlock is.g.bid b' with
            fab := u.fab, md := { s.md with reqs := s.md.reqs ++ new, nextTag := s.md.nextTag + new.length } } ∧
          b' = { is.b with cmds := cs.map fun c => { c with flight := [(mapUnit, 1)] }, parts := is.b.parts ||| 16, traffic := b'.traffic } ∧
          new.map (fun k => (k.who, k.kind, k.width, k.lanes.map (·.ia))) =
            cs.map fun c => (Requester.copy is.g.bid c.key mapUnit, ReqKind.load, 64, [ia c]))

/-! ### Management operations (chapter 03) -/

/-- WEIGHTS, EXPGRANT, SEGSET, LOGSET, CTXNEW and CTXRESET (R82, R83, R84, R88, R97, R98, R132): an entry is completed
with status 0 and its effect, or with status 2 and none. The model's own choices in it: log entries 74, 75, 76, 77,
108, 132, 151. -/
def Obligations.ManagementOfFunctions : Prop :=
  ∀ (s : State) (h : MgmtHead),
    let f := s.func h.fn
    let ofFn : Prop := h.fn < 64 ∧ h.ctx = 0xFF ∧ h.extra = false
    let wrong (t : State) : Prop := s.Answered t h 2 []
    (∀ iw aw, let good : Prop := ofFn ∧ 1 ≤ iw ∧ iw ≤ 255 ∧ 1 ≤ aw ∧ aw ≤ 255
      (good → s.Happens (.weights h iw aw) fun t =>
        let u := s.setFunc h.fn { f with iw := iw, aw := aw, disabled := false }
        (if f.flr = 5 then u.reviveFn h.fn else u).Answered t h 0 []) ∧
      (¬good → s.Happens (.weights h iw aw) wrong)) ∧
    (∀ allow, let good : Prop := ofFn ∧ h.fn ≠ 0 ∧ allow ≤ 1
      (good → s.Happens (.expgrant h allow) fun t => (s.setFunc h.fn { f with expgrant := allow == 1 }).Answered t h 0 []) ∧
      (¬good → s.Happens (.expgrant h allow) wrong)) ∧
    (∀ c cx seg b l o, s.named h = some c → s.ctx? c = some cx →
      let put (g : Segment) : State := s.setCtx c { cx with segs := SMap.set Segment.reset cx.segs seg g }
      let g : Segment := { b := b &&& 0x00FFFFFFFFFFF03F, l := l &&& 0x00000FFFFFFFFFFF, o := o &&& 0x000FFFFFFFFFF000 }
      let sets (x : Segment) : Prop := s.Happens (.segset h seg b l o) fun t => (put x).Answered t h 0 []
      let refused : Prop := s.Happens (.segset h seg b l o) wrong
      (8 ≤ seg → refused) ∧ (seg < 8 → b.getLsbD 0 = false → sets Segment.reset) ∧
      (seg < 8 → b.getLsbD 0 = true → 2 ^ 52 < g.offset * 4096 + (g.limit + 1) * 4096 → refused) ∧
      (seg < 8 → b.getLsbD 0 = true → (∃ k < 8, k ≠ seg ∧ (SMap.get Segment.reset cx.segs k).meets g = true) → refused) ∧
      (seg < 8 → b.getLsbD 0 = true → g.offset * 4096 + (g.limit + 1) * 4096 ≤ 2 ^ 52 →
        (∀ k < 8, k ≠ seg → (SMap.get Segment.reset cx.segs k).meets g = false) →
        (g.h = true → ∀ x ∈ SMap.entries s.host.ctxs, x.1 ≠ c → x.2.fn = cx.fn → ∀ k < 8,
          (SMap.get Segment.reset x.2.segs k).h = true → (SMap.get Segment.reset x.2.segs k).meets g = false) → sets g)) ∧
    (∀ base n, ofFn →
      (base = 0 → s.Happens (.logset h base n) fun t =>
        (s.setFunc h.fn { f with logBase := 0, logN := 0, logProd := 0 }).Answered t h 0 []) ∧
      ((base % 4096 ≠ 0 ∨ (base ≠ 0 ∧ (n < 6 ∨ 16 < n))) → s.Happens (.logset h base n) wrong) ∧
      (base ≠ 0 → base % 4096 = 0 → 6 ≤ n → n ≤ 16 → s.holdsArea h.fn none base (32 * 2 ^ n) = true →
        (s.areaSeg h.fn none (base - 16)).isSome → s.Happens (.logset h base n) fun t => ∃ u,
        (s.setFunc h.fn { f with logBase := base, logN := n, logProd := 0 }).Wrote u ∧ u.Answered t h 0 [])) ∧
    (∀ r l c cell s1, ofFn → ctxReqOk r = true → f.disabled = false → f.flr = 0 → (r.ceil = 0 → h.fn = 0 ∨ f.expgrant = true) →
      (List.range (if h.fn = 0 then 128 else 32)).find? (fun k =>
        !((SMap.entries s.host.ctxs).filter (·.2.fn == h.fn)).any (·.2.lctx == k)) = some l →
      SMap.freeKey s.host.ctxs 0 128 = some c → s.freeCells r.ncell = some cell → s.savesFit r.svunits = true →
      (s.setCtx c (newContext h.fn l cell s.now r)).startStation c = some s1 →
      s.Happens (.ctxnew h r) fun t => s1.Answered t h 0 (toBytes 2 c ++ toBytes 1 l ++ toBytes 1 0 ++ toBytes 4 cell)) ∧
    (∀ c, s.named h = some c → s.Happens (.ctxreset h) fun t => ∃ u, (s.discardCtx c).Logged u ∧
      (u.oweStation c).Answered t h 0 [])

/-- FABREAD, FABWRITE, ATTEST, DIEFENCE and FARPOL (R32 to R35, R71, R83, R89, R92): registers named by an index of a
used pair or a module are read and written, 8 bytes each, a report is left in the buffer, and FARPERM takes the value.
The model's own choices in it: log entry 108. -/
def Obligations.ManagementOfDevice : Prop :=
  ∀ (s : State) (h : MgmtHead),
    let dev : Prop := h.fn = 0 ∧ h.ctx = 0xFF ∧ h.extra = false
    let wrong (t : State) : Prop := s.Answered t h 2 []
    (∀ reg first n, dev → 1 ≤ n → n ≤ 4 →
      (∀ x : Nat → Nat, (∀ k < n, s.fabRegister reg (first + k) = some (x k)) → s.Happens (.fabread h reg first n) fun t =>
        s.Answered t h 0 (toBytes 16 0 ++ ((List.range n).map fun k => toBytes 8 (x k)).flatten)) ∧
      ((∃ k < n, s.fabRegister reg (first + k) = none) → s.Happens (.fabread h reg first n) wrong)) ∧
    (∀ i j x, dev → s.fab.up = true → usedPair i j = true → s.Happens (.fabwriteLnkerr h (32 * i + j) x) fun t => ∃ u,
      s.InFabric u ∧ s.LinkOnly u i j ∧ u.link i j = { s.link i j with crcFail := x.toNat / 2 ^ 32, replay := x.toNat % 2 ^ 32 } ∧
      u.Answered t h 0 (toBytes 24 0 ++ toBytes 8 x.toNat)) ∧
    (∀ i j x, dev → s.fab.up = true → usedPair i j = true →
      let share := bits x.toNat 2 3
      let minch := bits x.toNat 7 5
      let via := bits x.toNat 12 5
      let bad : Prop := share = 0 ∨ 16 < minch ∨ 26 ≤ via ∨ via = i ∨ via = j
      let reads (t u : State) : Prop := u.Answered t h 0 (toBytes 24 0 ++ toBytes 8 (u.link i j).pairrt)
      (bad → s.Happens (.fabwritePairrt h (32 * i + j) x) fun t => ∃ u, reads t u ∧ s.InFabric u ∧ s.LinkOnly u i j ∧
        u.link i j = { s.link i j with badwr := true }) ∧
      (¬bad → s.Happens (.fabwritePairrt h (32 * i + j) x) fun t => ∃ u, reads t u ∧ let l := u.link i j
        l.via = via ∧ l.minch = minch ∧ l.share = share ∧ l.act = bitAt x.toNat 6 ∧ l.colact = bitAt x.toNat 5 ∧
        l.badwr = ((s.link i j).badwr && !bitAt x.toNat 1))) ∧
    (∀ i j x, j < 32 → usedPair i j = false → s.Happens (.fabwriteLnkerr h (32 * i + j) x) wrong) ∧
    (∀ m x, dev → m < 5 → m < s.fab.lasers.length →
      let l := s.laser m
      let writes (P : State → Prop) : Prop := s.Happens (.fabwriteRemreq h m x) fun t => ∃ u,
        u.Answered t h 0 (toBytes 24 0 ++ toBytes 8 (u.lasstat m)) ∧ P u
      (x.getLsbD 4 = false ∨ l.state = 0 → writes fun u => u = s) ∧
      (x.getLsbD 4 = true → l.state = 4 → writes fun u => s.InFabric u ∧ u.laser m = { l with state := 5, remreq := true }) ∧
      (x.getLsbD 4 = true → l.state = 1 ∨ l.state = 2 → writes fun u => s.InFabric u ∧ u.laser m = { l with remreq := true }) ∧
      (x.getLsbD 4 = true → l.state = 3 → s.standby = none → writes fun u => u = s) ∧
      (∀ k, x.getLsbD 4 = true → l.state = 3 → s.standby = some k → s.fab.standbyFor = none → writes fun u =>
        u.fab.standbyFor = some (m, k) ∧ u.laser m = { l with remreq := true, planes := 15, lost := l.planes, failedAt := none })) ∧
    (∀ nonce buf n b, h.fn < 64 ∧ h.ctx = 0xFF ∧ h.extra = false → s.inHostView nonce 64 = true → s.inHostView buf reportSize = true →
      s.funcRead 0 none nonce 64 = some n → s.funcRead 0 none buf reportSize = some b → s.Happens (.attest h nonce buf) fun t => ∃ u,
      ({ s with free := s.free + 1 } : State).Wrote u ∧ u.Answered t h 0 (toBytes 24 0 ++ toBytes 4 7491)) ∧
    (∀ die, dev →
      (die < 8 → s.guard.fenced.getLsbD die = false → s.Happens (.diefence h die) fun t => ∃ u : State, u.Answered t h 0 [] ∧
        u.guard = { s.guard with fenced := s.guard.fenced ||| BitVec.ofNat 8 (2 ^ die), port := u.guard.port }) ∧
      (8 ≤ die ∨ s.guard.fenced.getLsbD die = true → s.Happens (.diefence h die) wrong)) ∧
    (∀ allow, dev →
      let on := decide (allow = 1) && s.host.pool0 && !s.host.l1up
      (allow ≤ 1 → s.Happens (.farpol h allow) fun t => t.host.farperm = decide (allow = 1) ∧ t.host.faralt = on ∧
        (s.md.uio = [] → t.groups = s.groups) ∧ t.blocks = s.blocks ∧ t.host.consumer = s.host.consumer + 1) ∧
      (2 ≤ allow → s.Happens (.farpol h allow) wrong))

/-! ### Links, channels and laser modules (chapters 01 and 21) -/

/-- The link layer (R12 to R18, R24): a flit with a good CRC and the next sequence number is accepted; any other is
counted or dropped and answered with one nak; what is not acknowledged is sent again in order; a pause holds new flits
of its class; a relayed flit goes on under the next link's numbers. The model's own choices in it: log entries 12, 13,
27, 56, 120. -/
def Obligations.LinkEvents : Prop :=
  ∀ (s : State) (i j : Nat), s.fab.up = true → usedPair i j = true →
    let l := s.link i j
    let back := s.link j i
    -- no pair of the port goes over this link as its relay
    let alone : Prop := ∀ d < 26, (s.link i d).relayVia ≠ some j
    let resends (t : State) (from_ : List (Flit × Nat)) (m : Link) : Prop := s.InFabric t ∧ s.LinkOnly t i j ∧
      t.link i j = { m with
        buf := from_.map (fun x => (x.1, s.now)), wire := l.wire ++ onWire l.txLive l.txG (from_.map (·.1))
        txG := l.txG + 16 * from_.length, resent := l.resent + from_.length, replay := min (l.replay + from_.length) 0xFFFFFFFF }
    (∀ w rest, l.wire = w :: rest → w.hit = false → w.live = l.rxLive → w.flit.seq = l.expSeq → w.flit.relay = false →
      s.Happens (.flitReceive i j 0) fun t => s.InFabric t ∧
        (t.link i j).expSeq = (l.expSeq + 1) % 4096 ∧ (t.link i j).wire = rest ∧ (t.link i j).nakSent = false ∧
        (t.link i j).rxG = w.g + 16 ∧ (31 ≤ l.unacked → back.txLive ≠ 0 → (t.link i j).unacked = 0) ∧
        (w.flit.tc ≠ 3 → w.flit.pseq = some l.pairExp → l.pairHold = [] →
          SMap.get 0 (t.link i j).accepted w.flit.tc = SMap.get 0 l.accepted w.flit.tc + 1)) ∧
    (∀ w rest d, l.wire = w :: rest → w.hit = true ∨ w.live ≠ l.rxLive ∨ crcPasses d = false →
      s.Happens (.flitReceive i j d) fun t => s.InFabric t ∧ (t.link i j).expSeq = l.expSeq ∧
        (t.link i j).crcFail = min (l.crcFail + 1) 0xFFFFFFFF ∧ (t.link i j).nakSent = true ∧ (t.link i j).wire = rest) ∧
    (l.unacked ≠ 0 → l.ackAt + 64 ≤ s.now → back.txLive ≠ 0 → s.Happens (.ackFlitTimer i j) fun t =>
      s.InFabric t ∧ (t.link i j).unacked = 0 ∧ (t.link i j).ackAt = s.now ∧ (t.link i j).expSeq = l.expSeq) ∧
    (∀ a, l.ackIn = some a → l.queue = [] → alone → s.Happens (.ackReceive i j) fun t => s.InFabric t ∧ s.LinkOnly t i j ∧
      ∃ b, t.link i j = { l with ackIn := none, buf := b } ∧
        (∀ old x new, l.buf = old ++ x :: new → (∀ y ∈ old, y.1.seq ≠ a) → x.1.seq = a → b = x :: new) ∧
        ((∀ y ∈ l.buf, y.1.seq ≠ a) → b = if l.seq = a then [] else l.buf)) ∧
    (∀ a old x new, l.nakIn = some a → l.queue = [] → alone → l.txLive ≠ 0 → l.buf = old ++ x :: new → (∀ y ∈ old, y.1.seq ≠ a) →
      x.1.seq = a → s.Happens (.nakReplay i j) fun t => resends t (x :: new) { l with nakIn := none }) ∧
    (∀ f t0 rest, l.buf = (f, t0) :: rest → l.queue = [] → alone → l.txLive ≠ 0 → t0 + 512 ≤ s.now →
      s.Happens (.replayTimeout i j) fun t => resends t l.buf l) ∧
    (∀ f rest, back.ctlIn = f :: rest → f.kind = 2 ∨ f.kind = 3 → l.queue = [] → alone → s.Happens (.pauseReceive i j) fun t =>
      let c := BitVec.ofNat 4 (2 ^ (f.info.toNat % 4))
      s.InFabric t ∧ t.link j i = { back with ctlIn := rest } ∧
        t.link i j = { l with txPause := if f.kind = 2 then l.txPause ||| c else l.txPause &&& ~~~c }) ∧
    (∀ f rest, SMap.get [] s.fab.relayIn i = f :: rest → f.odst = j → f.opsrc ≠ j → f.tc < 3 → f.pseq.isSome →
      s.mayForward i f = true → alone →
      s.Happens (.relayedFlitForward i) fun t => s.InFabric t ∧ SMap.get [] t.fab.relayIn i = rest ∧
        let f' := { f with seq := l.seq, ack := back.expSeq }
        (t.link i j).seq = (l.seq + 1) % 4096 ∧ (t.link i j).buf = l.buf ++ [(f', s.now)] ∧ (t.link i j).txG = l.txG + 16 ∧
        (t.link i j).wire = l.wire ++ [{ flit := f', live := l.txLive, g := l.txG, hit := false }])

/-- Lost and returning channels (R20 to R22, R26): a dead channel leaves the receiver's stripe, the sender follows the
receiver's report, the control die's CHSTAT follows both ends, a lit dead channel trains for 20 µs and joins or waits
100 ms, and a pair down for 10 µs costs a die. The model's own choices in it: log entries 80, 82, 110, 120, 122. -/
def Obligations.ChannelEvents : Prop :=
  ∀ (s : State) (i j : Nat) (c : BitVec 16), s.fab.up = true → usedPair i j = true →
    let l := s.link i j
    let back := s.link j i
    let reports (t : State) : Prop := ∃ k, (t.link i j).report = some ((l.report.map (·.1)).getD l.rxLive, k)
    (c &&& l.rxLive ≠ 0 → s.Happens (.channelDead i j c true) fun t => s.InFabric t ∧ s.LinkOnly t i j ∧
      t.link i j = { l with lowPwr := l.lowPwr ||| (c &&& l.rxLive), wire := hitBy (c &&& l.rxLive) l.wire }) ∧
    (c &&& l.rxLive ≠ 0 → s.Happens (.channelDead i j c false) fun t => s.InFabric t ∧
      (t.link i j).rxLive = l.rxLive &&& ~~~c ∧ (t.link i j).rxDead = l.rxDead ||| (c &&& l.rxLive) ∧ (t.link i j).rxG = 0 ∧
      (t.link i j).wire = hitBy (c &&& l.rxLive) l.wire ∧ reports t) ∧
    (∀ f rest, back.ctlIn = f :: rest → f.kind = 4 → l.queue = [] → (∀ d < 26, (s.link i d).relayVia ≠ some j) →
      s.Happens (.channelState i j) fun t =>
        let live : BitVec 16 := f.info.setWidth 16
        s.InFabric t ∧ (t.link j i).ctlIn = rest ∧ (t.link i j).txLive = live ∧ (t.link i j).stale = false ∧
        (l.buf = [] → (t.link i j).txG = 0) ∧
        (∀ old x new, l.buf = old ++ x :: new → (∀ y ∈ old, y.1.seq ≠ bits f.info.toNat 16 12) → x.1.seq = bits f.info.toNat 16 12 →
          live ≠ 0 → (t.link i j).wire = l.wire ++ onWire live 0 ((x :: new).map (·.1)))) ∧
    (∀ b k, l.report = some (b, k) → s.landed k = true → l.stale = false ∨ back.txLive = 0 → s.Happens (.linkChangeReport i j) fun t =>
      (t.link i j).report = none ∧ (t.link i j).chLive = l.rxLive ∧ (t.link i j).chDead = l.rxDead ∧
      t = { s with fab := t.fab, host := t.host, mem := t.mem, far := t.far, l1 := t.l1, md := t.md }) ∧
    (c ≠ 0 → c &&& l.rxDead &&& s.lit = c → s.steady l c = true → s.Happens (.channelRetrainStart i j c) fun t =>
      s.InFabric t ∧ s.LinkOnly t i j ∧ let m := t.link i j
        m = { l with training := l.training ||| c, trainEnd := m.trainEnd, rxDead := l.rxDead &&& ~~~c, chDead := l.chDead &&& ~~~c
                     chMode := m.chMode } ∧
        m.chMode = m.mode ∧ ∀ k < 16, c.getLsbD k = true → SMap.get 0 m.trainEnd k = s.now + 40000) ∧
    (c ≠ 0 → c &&& l.training = c → (∀ k < 16, c.getLsbD k = true → SMap.get 0 l.trainEnd k ≤ s.now) →
      (s.Happens (.channelTrainingEnd i j c true) fun t => s.InFabric t ∧
        (t.link i j).rxLive = l.rxLive ||| c ∧ (t.link i j).training = l.training &&& ~~~c ∧ (t.link i j).rxG = 0 ∧ reports t) ∧
      s.Happens (.channelTrainingEnd i j c false) fun t => s.InFabric t ∧ s.LinkOnly t i j ∧ let m := t.link i j
        m = { l with training := l.training &&& ~~~c, rxDead := l.rxDead ||| c, chDead := l.chDead ||| c, retryAt := m.retryAt
                     chMode := m.chMode } ∧
        m.chMode = m.mode ∧ ∀ k < 16, c.getLsbD k = true → SMap.get 0 m.retryAt k = s.now + 200000000) ∧
    (∀ t0, l.downAt = some t0 → t0 + 20000 ≤ s.now → s.Happens (.pairdownTimeout i j) fun t =>
      let p := if i = 0 then j else if j = 0 then i else if s.downPairs j < s.downPairs i then i else j
      (t.link i j).downAt = some s.now ∧ (p < 9 → t.guard.fenced.getLsbD (p - 1) = true) ∧ (9 ≤ p → t.dieGone (p - 9) = true))

/-- Laser modules (R27 to R31, R483, R484): a failed module's planes go dark on every pair at once, the standby takes
them over, and a module leaves and returns through its states. The model's own choices in it: log entries 83, 110. -/
def Obligations.LaserEvents : Prop :=
  ∀ (s : State) (m : Nat), m < 5 → s.fab.lasers.length = 5 →
    let l := s.laser m
    -- module k becomes x and no other part of the machine but the fabric and the log changes
    let becomes (t : State) (k : Nat) (x : Laser) : Prop := t.laser k = x ∧ (∀ n < 5, n ≠ k → t.laser n = s.laser n)
    let logged (t : State) : Prop := ({ s with fab := t.fab } : State).Logged t
    (l.state = 3 → s.fab.up = true → s.Happens (.laserFail m) fun t => s.InFabric t ∧
      becomes t m { l with state := 4, planes := 15, lost := if l.planes = 15 then l.lost else l.planes
                           failedAt := some s.now, recorded := false } ∧
      ∀ i j, usedPair i j = true →
        (t.link i j).txLive = (s.link i j).txLive &&& ~~~planeChannels l.planes ∧
        (t.link i j).rxLive = (s.link i j).rxLive &&& ~~~planeChannels l.planes ∧ (t.link i j).chLive = (t.link i j).rxLive) ∧
    (l.recorded = false → l.failedAt ≠ none → s.restriped = true → s.Happens (.laserMonitorReport m) fun t =>
      logged t ∧ becomes t m { l with recorded := true } ∧ t.fab.links = s.fab.links) ∧
    (∀ k, s.fab.standbyFor = none → s.standby = some k → s.toReplace = some m → (∀ t0, l.failedAt = some t0 → t0 + 20000 ≤ s.now) →
      l.failedAt ≠ none → s.Happens .standbyCommit fun t =>
        t = { s with fab := { s.fab with standbyFor := some (m, k), standbyLit := false } }) ∧
    (∀ k < 5, s.fab.standbyFor = some (m, k) → s.fab.standbyLit = false → s.fab.up = true → s.Happens .standbyLightOn fun t =>
      s.InFabric t ∧ becomes t k { s.laser k with state := 3, planes := l.lost, since := s.now } ∧ t.fab.standbyLit = true ∧
      ∀ i j, usedPair i j = true →
        t.link i j = (s.link i j).train (planeChannels l.lost &&& ~~~(s.link i j).rxLive) s.now) ∧
    (∀ n, s.fab.standbyFor = some (n, m) → s.fab.standbyLit = false → s.restriped = true → s.Happens .standbyFail fun t =>
      logged t ∧ t.fab.standbyFor = none ∧ t.fab.links = s.fab.links ∧
      becomes t m { l with state := 4, planes := 15, lost := 15, failedAt := some s.now, recorded := true }) ∧
    (l.remreq = true → l.planes = 15 → l.state ≠ 0 → l.out = false → s.moving m = false → s.Happens (.moduleRemoval m) fun t =>
      logged t ∧ becomes t m { l with state := 5, out := true } ∧ t.fab.links = s.fab.links) ∧
    (l.state = 5 → l.out = true → s.Happens (.moduleOut m) fun t => s.InFabric t ∧ t.fab.links = s.fab.links ∧
      becomes t m { l with state := 0, planes := 15, remreq := false, out := false }) ∧
    (l.state = 0 → s.Happens (.moduleInsert m) fun t => s.InFabric t ∧ t.fab.links = s.fab.links ∧
      becomes t m { l with state := 1, planes := 15 }) ∧
    (l.state = 1 → s.Happens (.moduleWarmDone m) fun t => logged t ∧ becomes t m { l with state := 2 } ∧
      t.fab.links = s.fab.links)

/-! ### Homes (chapters 02, 03 and 15) -/

/-- What a home does with the next request of a source (R44, R45, R47, R73, R79, R87, R105, R109): a function in reset gets
nothing; one not admitted is sent again after a delay that doubles; a page not cached is gathered; a load's bytes land
in its registers; a store's bytes are performed at once, or when the leases have ended, or by the far link. The
model's own choices in it: log entries 27, 34, 36. -/
def Obligations.HomeRequests : Prop :=
  ∀ (s : State) (home src : Nat) (r : Req) (rest : List Req), s.md.reqs = r :: rest → r.src = src → s.homeOf r = home →
    let ia := (r.lanes.head?.map (·.ia)).getD 0
    let looked : Prop := r.kind ≠ .renew ∧ r.waiting = none ∧ r.retryAt = none ∧ s.arrived r = true ∧
      s.cellBefore home r.tag (s.reqGroup r) = false ∧ s.hostHeld home r = false
    let admitted : Prop := looked ∧ (s.func r.fn).flr = 0 ∧ s.admits home src r.fn = true ∧ r.spec = false
    let served (leaf : BitVec 64) : Prop := admitted ∧ s.cached home ia = some leaf ∧ leafPermits leaf r.kind.access = true ∧
      leafF leaf = false ∧ (∀ a ∈ r.lanes, a.chk = false) ∧ r.oneUnit ∧ s.poisonLanes leaf r = 0
    let left (t : State) : Prop := t.md.reqs = s.md.reqs.filter fun x => x.tag != r.tag
    (looked → src < 18 → (s.func r.fn).flr ≠ 0 → s.Happens (.homeRequestAccept home src) fun t =>
      t = { s with fab := t.fab, md := { s.md with reqs := t.md.reqs } } ∧ left t) ∧
    (looked → (s.func r.fn).flr = 0 → s.admits home src r.fn = false → s.Happens (.homeRequestAccept home src) fun t =>
      let d := s.retryDelay home src
      t = { s with fab := t.fab, md := { s.md with reqs := t.md.reqs, delay := t.md.delay } } ∧
      (∃ n, t.md.reqs = s.md.reqs.map fun x => if x.tag = r.tag then { x with retryAt := some (s.now + d), reply := n } else x) ∧
      SMap.get 0 t.md.delay (17 * src + home) = min 512 (2 * d)) ∧
    (∀ w, admitted → s.cached home ia = none → s.waiterOf r = some w → SMap.find? s.xl.merge (pageKey home ia) = none →
      s.mergeCount home < 256 → s.Happens (.homeRequestAccept home src) fun t =>
        t.groups = s.groups ∧ t.mem = s.mem ∧ t.blocks = s.blocks ∧ t.cores = s.cores ∧
        t.md.reqs = (s.md.reqs.map fun x => if x.tag = r.tag then { x with waiting := some (ia / 4096) } else x) ∧
        ∃ n, t.xl = { s.xl with
          merge := SMap.put s.xl.merge (pageKey home ia)
            { waiters := [w], types := r.kind.access, overflow := false, ctx := r.ctx, reason := 0 }
          missQ := s.xl.missQ ++ [{ die := home, page := ia / 4096, types := r.kind.access, waiters := 1, ctx := r.ctx, reason := 0,
                                    time := s.now, ticket := n }]
          pendings := s.xl.pendings ++ [(home, ia / 4096, w)] }) ∧
    (∀ leaf gid slot g o q ty d sp b od c off, served leaf → r.kind = .load → r.who = .op gid slot →
      s.group? gid = some g → SMap.find? g.oplog slot = some o → o.kind = .load → r.width = ty.bytes →
      wordOf o.raw = some (.ld q ty (.v d) sp b od c off) → s.Happens (.homeRequestAccept home src) fun t =>
        ∃ h n, t.group? gid = some h ∧ (∀ k, k ≠ gid → t.group? k = s.group? k) ∧ t.mem = s.mem ∧ left t ∧
          h = { g with v := h.v, oplog := SMap.put g.oplog slot { o with
            pending := o.pending &&& ~~~r.laneMask, notNow := o.notNow &&& ~~~r.laneMask, replies := o.replies ++ [n] } } ∧
          (∀ a ∈ r.lanes, ∀ k < memRegs ty, h.vreg (d + k) a.lane =
            BitVec.ofNat 32 (loadedAs ty (s.bytesAt leaf (s.place leaf a.ia) r.width) / 2 ^ (32 * k))) ∧
          ∀ x l, l < 32 → (x < d ∨ d + memRegs ty ≤ x ∨ ∀ a ∈ r.lanes, a.lane ≠ l) → h.vreg x l = g.vreg x l) ∧
    (∀ leaf, served leaf → r.kind = .store → leafZ leaf = false → s.writable r.ilines = true →
      s.Happens (.homeRequestAccept home src) fun t => s.Stores t r leaf ∧ t.groups = s.groups ∧ t.cores = s.cores ∧ left t) ∧
    (∀ leaf, served leaf → r.kind = .store → s.writable r.ilines = false →
      s.Happens (.homeRequestAccept home src) fun t => t.mem = s.mem ∧ t.groups = s.groups ∧ t.cores = s.cores ∧ left t ∧
        t.md.held = s.md.held ++ [{ req := r, pa := s.place leaf ia, leaf := leaf }]) ∧
    (∀ t0, r.retryAt = some t0 → t0 ≤ s.now → s.landed r.reply = true → r.oneUnit → (∀ c ∈ s.md.cellReqs, c.retryAt = none) →
      s.Happens (.retryResend home src) fun t => ∃ n, t = { s with
        fab := t.fab
        md := { s.md with reqs := s.md.reqs.map fun x =>
          if x.tag = r.tag then { r with waiting := none, retryAt := none, ticket := n } else x } }) ∧
    (∀ h later, s.md.held = h :: later → s.homeOf h.req = home → (∀ p ∈ h.req.ilines, s.lineFree p = true) →
      leafF h.leaf = false → leafZ h.leaf = false → h.req.kind = .store → h.req.oneUnit → s.poisonLanes h.leaf h.req = 0 →
      s.Happens (.heldWritePerform home) fun t => s.Stores t h.req h.leaf ∧ t.md.held = later ∧ t.groups = s.groups ∧
        t.md.reqs = s.md.reqs) ∧
    (let there := s.uioReady s.md.uio []
     there ≠ [] → (∀ h ∈ there, leafF h.leaf = true ∧ h.req.kind = .store ∧ h.req.oneUnit ∧ s.poisonLanes h.leaf h.req = 0) →
      s.Happens .uioCompletion fun t => ∃ h ∈ there, s.Stores t h.req h.leaf ∧ t.md.uio = s.md.uio.erase h ∧
        t.groups = s.groups ∧ t.free = s.free + 1)

/-- Parity, acknowledgements and write classes (R42, R45, R46, R49, R62, R64, R190, R208): a delta is applied to the parity
unit once and its tag is kept 64 µs; the home acknowledges; the store buffer lets the lanes go and each lane's flags join
its FSTAT. The model's own choices in it: log entry 42. -/
def Obligations.WriteAcknowledgements : Prop :=
  ∀ (s : State),
    (∀ d rest, s.md.deltas = d :: rest → s.landed d.ticket = true → s.Happens (.parityDelta d.pdie) fun t =>
        let again := s.md.tags.any fun x => x.1 == d.tag && x.2.1 == d.pdie
        let applies : Bool := !again && s.keepsParity
        ∃ (u : State) (n : Ticket), u = { s with
            fab := t.fab, mem := u.mem
            md := { s.md with
              deltas := rest, parityAcks := s.md.parityAcks ++ [{ d with ticket := n }]
              tags := (s.md.tags.filter fun x => s.now < x.2.2.1 + 128000) ++ if again then [] else [(d.tag, d.pdie, s.now, d.results)]
              zblocks := u.md.zblocks, reserve := u.md.reserve, nextGranule := u.md.nextGranule, zcount := u.md.zcount } } ∧
          (t = u ∨ u.Logged t) ∧
          ((leafZ d.leaf && applies) = false → t = u ∧ u.md.zblocks = s.md.zblocks ∧ u.md.reserve = s.md.reserve ∧
            u.md.nextGranule = s.md.nextGranule ∧ u.md.zcount = s.md.zcount) ∧
          (applies = false → u.mem = s.mem) ∧
          (applies = true → (∀ x ∈ d.bytes, x.1 < 256) →
            (∀ k < 256, Memory.read u.mem (slotAt d.stripe d.pdie k) =
              (d.bytes.filter fun x => x.1 == k).foldl (fun b x => b ^^^ x.2) (Memory.read s.mem (slotAt d.stripe d.pdie k))) ∧
            ∀ a, a < slotAt d.stripe d.pdie 0 ∨ slotAt d.stripe d.pdie 256 ≤ a → Memory.read u.mem a = Memory.read s.mem a)) ∧
    (∀ d rest c id, s.md.parityAcks = d :: rest → s.landed d.ticket = true → d.req.who = .store c id →
      s.Happens (.parityAck d.home) fun t => ∃ n, t = { s with
        fab := t.fab
        md := { s.md with parityAcks := rest }
        cores := SMap.set Core.reset s.cores c { s.core c with acks := (s.core c).acks ++
          [{ id := id, ok := d.req.laneMask &&& ~~~d.poison, poison := d.poison, flags := d.flags, ticket := n }] } }) ∧
    (∀ d rest id va, s.md.parityAcks = d :: rest → s.landed d.ticket = true → d.req.who = .memop id va → d.poison = 0 →
      s.Happens (.parityAck d.home) fun t => ∃ n, t = { s with
        fab := t.fab
        md := { s.md with
          parityAcks := rest
          memops := s.md.memops.map fun m => if m.id = id then
            { m with open_ := m.open_.map fun u => if u.va = va then { u with left := u.left - 1, replies := u.replies ++ [n] } else u } else m } }) ∧
    (∀ c (a : StoreAnswer) rest b g, (s.core c).acks = a :: rest → s.landed a.ticket = true → a.poison = 0 →
      (s.core c).stores.find? (fun x => x.id == a.id) = some b →
      s.group? b.gid = some g → s.Happens (.storeAck c) fun t => ∃ h, t = { s.setGroup b.gid h with cores := t.cores } ∧
        h = { g with fstat := h.fstat, specs := h.specs, lineSpec := h.lineSpec } ∧
        (h.specs.map fun x => { x with fShadow := [] }) = (g.specs.map fun x => { x with fShadow := [] }) ∧
        (h.lineSpec.map fun x => { x with fShadow := [] }) = (g.lineSpec.map fun x => { x with fShadow := [] }) ∧
        (∀ l < 32, h.fst l = if lane a.ok l then
          g.fst l ||| ((a.flags.find? fun (x : Nat × BitVec 5) => x.1 == l).elim 0 fun x => x.2.setWidth 32) else g.fst l) ∧
        (∀ k, k ≠ c → t.core k = s.core k) ∧
        t.core c = { s.core c with
          acks := rest
          stores := ((s.core c).stores.map fun x =>
            if x.id = a.id then { x with lanes := x.lanes.filter fun y => !lane a.ok y.1 } else x).filter fun x => !x.lanes.isEmpty }) ∧
    (∀ c b, (∀ a ∈ (s.core c).acks, s.landed a.ticket = false) → (s.core c).stores.find? (fun x => x.sp == 2) = some b →
      s.Happens (.storeAck c) fun t => t.groups = s.groups ∧ t.mem = s.mem ∧
      (t.core c).stores = ((s.core c).stores.filter fun x => x.id != b.id) ∧
      s.PadsChange t (fun k o => ∃ x ∈ b.lanes, x.2.2.1 / 2 ^ 20 = k ∧ x.2.2.1 % 2 ^ 20 ≤ o ∧ o < x.2.2.1 % 2 ^ 20 + b.width) ∧
      ∀ x, b.lanes.getLast? = some x → ∀ k, t.block? (x.2.2.1 / 2 ^ 20) = some k →
        k.readN (x.2.2.1 % 2 ^ 20) b.width = x.2.2.2 % 2 ^ (8 * b.width)) ∧
    (∀ n, let l := SMap.get Line.reset s.md.lines n
      l.wclass ≠ 0 → l.wclassAt + 4096 ≤ s.now → s.Happens (.writeClassDecay n) fun t => t = { s with md := { s.md with
        lines := SMap.set Line.reset s.md.lines n { l with wclass := l.wclass - 1, wclassAt := l.wclassAt + 4096 } } })

/-- Renewals, cells, MEMOP and granules (R44, R46, R48, R50 to R55, R57, R79, R212): a renewal is answered with a new lease and
with whether its version is current, and confirms the load if so; a cell takes each operation once, at its server and
then at its mirror; a MEMOP's next unit is asked of its home in one request, a fill's elements join the home's
writes, each of which performs its update, and a unit whose writes are done sends its bytes' arrival; granules a block no longer
needs go back, to the reserve first. The model's own choices in it: log entry 29. -/
def Obligations.HomeEngines : Prop :=
  ∀ (s : State),
    (∀ home r leaf gid slot, (List.range 8).findSome? (fun k => s.nextReq home k (·.kind == .renew) s.md.reqs []) = some r →
      let ia := (r.lanes.head?.map (·.ia)).getD 0
      let p := ia / 128
      let l := SMap.get Line.reset s.md.lines p
      let e := s.now + 1024 / 2 ^ (l.wclass - (s.now - l.wclassAt) / 4096)
      (s.func r.fn).flr = 0 → s.admits home r.src r.fn = true → s.cached home ia = some leaf →
      leafPermits leaf r.kind.access = true → leafF leaf = false → leafO leaf = false → s.lineHeld p = false → r.who = .op gid slot →
      s.Happens (.leaseRenewal home) fun t => t.groups = s.groups ∧ t.mem = s.mem ∧
        t.md.reqs = (s.md.reqs.filter fun x => x.tag != r.tag) ∧
        SMap.get Line.reset t.md.lines p = { l with leaseEnd := max l.leaseEnd e } ∧
        ∃ n, t.md.renewals = s.md.renewals ++ [n] ∧ n.gid = gid ∧ n.slot = slot ∧ n.die = r.src ∧ n.line = p ∧
          n.ok = decide (l.version = r.version) ∧ n.version = l.version ∧ n.leaseEnd = e ∧ n.lanes = r.lanes ∧
          n.bytes = s.lineBytes leaf p) ∧
    (∀ n g o, s.md.renewals.find? (fun r => r.gid == n.gid && s.landed r.ticket) = some n → s.group? n.gid = some g →
      SMap.find? g.oplog n.slot = some o → o.unconfirmed = true → n.ok = true → n.poison = 0 → n.leaseEnd ≠ 0 →
      s.Happens (.renewalReply n.gid) fun t => t = { s with
        md := { s.md with renewals := s.md.renewals.erase n }
        l1 := SMap.put s.l1 (n.die * 2 ^ 45 + n.line) { bytes := n.bytes, version := n.version, leaseEnd := n.leaseEnd, bad := n.bad }
        groups := SMap.put s.groups n.gid { g with
          lineSpec := none, oplog := SMap.put g.oplog n.slot { o with unconfirmed := false, stale := 0 } }
        cores := t.cores }) ∧
    (∀ r rest die, s.md.cellReqs = r :: rest → s.cellServer r.cell = some die → r.retryAt = none → s.landed r.ticket = true →
      s.cellBefore die r.tag r.order = false → s.reqBefore die r.tag r.order = false → (s.func r.fn).flr = 0 →
      let c := s.cellAt r.cell
      (s.admits die r.src r.fn = false → (∀ x ∈ rest, x.tag ≠ r.tag) → s.Happens (.cellOperation die) fun t => ∃ n, t = { s with
        fab := t.fab
        md := { s.md with
          cellReqs := { r with retryAt := some (s.now + s.retryDelay die r.src), reply := n } :: rest
          delay := t.md.delay } }) ∧
      (∀ w gid slot g o, s.admits die r.src r.fn = true → r.op = .read w → s.cellBusy r.cell = false → r.who = .op gid slot →
        s.group? gid = some g → SMap.find? g.oplog slot = some o →
        s.Happens (.cellOperation die) fun t => (∀ k, t.cellAt k = s.cellAt k) ∧ t.md.cellReqs = rest ∧ t.mem = s.mem ∧
          ∃ n, t.groups = SMap.put s.groups gid (({ g with oplog := SMap.put g.oplog slot { o with replies := o.replies ++ [n] } } :
            Group).land slot [(r.lane, c.value w)])) ∧
      (s.admits die r.src r.fn = true → r.op.updates = true → s.cellMirrored r.cell = true →
        s.Happens (.cellOperation die) fun t => ∃ n, t = { s with fab := t.fab, md := { s.md with
          cellReqs := rest, cells := SMap.set Cell.zero s.md.cells r.cell (r.op.apply c)
          mirrorQ := s.md.mirrorQ ++ [{ req := r, value := r.value c, applied := false, ticket := n }], delay := t.md.delay } }) ∧
      (∀ k id, s.admits die r.src r.fn = true → r.op.updates = true → s.cellMirrored r.cell = false → r.who = .store k id →
        s.Happens (.cellOperation die) fun t =>
        t.cellAt r.cell = r.op.apply c ∧ t.md.cellReqs = rest ∧ t.groups = s.groups ∧ t.mem = s.mem ∧
        ∃ n, t.core k = { s.core k with acks := (s.core k).acks ++
          [{ id := id, ok := s.namedBy k id r, poison := 0, flags := [], ticket := n }] })) ∧
    (∀ u rest, s.md.mirrorQ = u :: rest → u.req.op.updates = true → (∀ x ∈ s.md.mirrorQ, x.applied = false) → s.landed u.ticket = true →
      let die := (u.req.cell % 17 + 1) % 17
      s.Happens (.cellMirrorUpdate die) fun t => ∃ n, t = { s with
        fab := t.fab
        md := { s.md with
          mirrorQ := s.md.mirrorQ.map fun x => if x = u then { u with applied := true, ticket := n } else x
          mirrors := SMap.set Cell.zero s.md.mirrors u.req.cell (u.req.op.apply (SMap.get Cell.zero s.md.mirrors u.req.cell))
          tags := (s.md.tags.filter fun x => s.now < x.2.2.1 + 128000) ++ [(u.req.tag, die, s.now, [(u.req.lane, u.value)])] } }) ∧
    (∀ u rest k id, s.md.mirrorQ = u :: rest → u.applied = true → s.landed u.ticket = true → u.req.who = .store k id →
      (∀ x ∈ rest, x.req.cell = u.req.cell → x.req.op.updates = true) →
      s.Happens (.cellMirrorUpdate (u.req.cell % 17)) fun t => ∃ n, t = { s with
        fab := t.fab
        md := { s.md with mirrorQ := rest }
        cores := SMap.set Core.reset s.cores k { s.core k with acks := (s.core k).acks ++
          [{ id := id, ok := s.namedBy k id u.req, poison := 0, flags := [], ticket := n }] } }) ∧
    (∀ m later cx u us ia chk, s.md.memops = m :: later → s.ctx? m.ctx = some cx → m.open_ = [] → m.units = u :: us →
      (m.view cx).translate u.1 (if m.kind = 4 then acRead else acWrite) = .ok (ia, chk) →
      s.Happens (.memopUnit (s.servingDie ia)) fun t => ∃ n, t = { s with
        fab := t.fab
        md := { s.md with
          nextTag := s.md.nextTag + 1
          memops := s.md.memops.map fun x => if x.id = m.id then { x with units := x.units.erase u, asked := x.asked ++ [u] } else x
          reqs := s.md.reqs ++ [{
            reqBase m.src m.ctx cx.fn (.memop m.id u.1) (if m.kind = 4 then .reduce else .range)
              [{ lane := 0, va := u.1, ia := ia, data := u.2, data2 := 0 }] 1 with tag := s.md.nextTag, ticket := n }] } }) ∧
    (∀ m later cx u us, s.md.memops = m :: later → m.kind = 0 → m.ty < 16 → s.ctx? m.ctx = some cx → m.open_ = u :: us → u.stage = 0 →
      leafF u.leaf = false →
      let k := u.bytes / 8
      s.Happens (.memopUnit u.home) fun t => ∃ ws : List HeldWrite,
        t = { s with md := { s.md with
          nextTag := s.md.nextTag + k, held := s.md.held ++ ws
          memops := s.md.memops.map fun x => if x.id = m.id then
            { x with open_ := x.open_.map fun y => if y.va = u.va then { y with stage := 2, left := k, replies := [] } else y } else x } } ∧
        ws.length = k ∧ ∀ i < k, ∃ h a, ws[i]? = some h ∧ h.leaf = u.leaf ∧ h.req.lanes = [a] ∧ h.req.kind = .elem ∧ h.req.width = 8 ∧
          h.req.slot / 16 = 0 ∧ h.req.who = .memop m.id u.va ∧ a.ia = u.ia + 8 * i ∧
          a.data = (m.regs.getD 2 0).toNat + (m.regs.getD 3 0).toNat * 2 ^ 32) ∧
    (∀ h later a, s.md.held = h :: later → h.req.lanes = [a] → h.req.kind = .elem → (∀ p ∈ h.req.ilines, s.lineFree p = true) →
      leafF h.leaf = false → leafZ h.leaf = false → h.req.width ≤ 8 → a.ia % h.req.width = 0 → s.poisonLanes h.leaf h.req = 0 → a.lane < 32 →
      s.Happens (.heldWritePerform (s.homeOf h.req)) fun t =>
        let pa := s.place h.leaf a.ia
        let x := if h.req.slot / 16 = 0 then a.data
          else memopElem (h.req.slot / 16) (h.req.slot % 16) a.data2 a.data (s.bytesAt h.leaf pa h.req.width)
        t.groups = s.groups ∧ t.md.held = later ∧ t.md.memops = s.md.memops ∧ ∀ b, t.byteAt h.leaf b =
          if pa ≤ b ∧ b < pa + h.req.width then BitVec.ofNat 8 (x / 2 ^ (8 * (b - pa))) else s.byteAt h.leaf b) ∧
    (∀ m later cx u us, s.md.memops = m :: later → s.ctx? m.ctx = some cx → m.open_ = u :: us → u.stage = 2 → u.left = 0 →
      (∀ n ∈ u.replies, s.landed n = true) → u.poison = false → s.Happens (.memopUnit u.home) fun t =>
        t.groups = s.groups ∧ t.mem = s.mem ∧ (∀ x ∈ t.md.memops, x.id = m.id → ∀ y ∈ x.open_, y.va ≠ u.va) ∧
        ∃ n, t.arrivals = s.arrivals ++
          [{ to_ := .name m.bid m.slot, a := 0, y := u.bytes, by_ := .engine m.gid m.lane, due := s.now, ticket := n }]) ∧
    (∀ die block z, SMap.find? s.md.zblocks (17 * block + die) = some z → z.spare ≠ [] →
      s.Happens (.granuleRelease die block) fun t =>
        let k := 17 * z.ctx + die
        let taken := SMap.get 0 s.md.reserve k
        let back := min taken z.spare.length
        t = { s with md := { s.md with
          zblocks := if z.granules = [] then SMap.del s.md.zblocks (17 * block + die)
            else SMap.put s.md.zblocks (17 * block + die) { z with spare := [] }
          reserve := SMap.set 0 s.md.reserve k (taken - back)
          stock := SMap.set 0 s.md.stock die (SMap.get 0 s.md.stock die + (z.spare.length - back)) } })

/-- Heat, scrub and a lost memory die (R60, R61, R63, R65, R238): a sample adds 1 up to 255, an epoch halves every
counter, before a sample of its cycle; a corrected error is counted, one that the stripe rebuilds is logged, another poisons its
sector; a failed die is marked and its watches fire. The model's own choices in it: log entry 41. -/
def Obligations.MemoryUpkeep : Prop :=
  ∀ (s : State) (die : Nat),
    (∀ h rest c, s.md.heatQ = h :: rest → s.landed h.ticket = true → s.epochDue h.ctx = false → s.ctx? h.ctx = some c →
      s.Happens (.heatSample false) fun t =>
      t = { s.setCtx h.ctx { c with heat := SMap.set 0 c.heat h.page (min 255 (SMap.get 0 c.heat h.page + 1)) } with
        md := { s.md with heatQ := rest } }) ∧
    (∀ h rest, s.md.heatQ = h :: rest → s.landed h.ticket = true → s.epochDue h.ctx = false → s.Happens (.heatSample true) fun t =>
      t.md.heatQ = rest ∧ SMap.get 0 t.md.heatDrop h.die = SMap.get 0 s.md.heatDrop h.die + 1 ∧ t.host.ctxs = s.host.ctxs ∧
      t.groups = s.groups) ∧
    (∀ ctx c, s.ctx? ctx = some c → c.born + (c.epochs + 1) * (c.req.epoch * 2000000) ≤ s.now → SMap.wf 0 c.heat = true →
      s.Happens (.heatEpoch ctx) fun t => ∃ h, t = s.setCtx ctx { c with epochs := c.epochs + 1, heat := h } ∧
        ∀ p, SMap.get 0 h p = SMap.get 0 c.heat p / 2) ∧
    (∀ sector, die < 17 → sector < deviceTop / 4096 * 8 → s.dieGone die = false →
      let counted : State := { s with md := { s.md with
        corrected := SMap.set 0 s.md.corrected die (SMap.get 0 s.md.corrected die + 1) } }
      (s.Happens (.dramScrub die sector .corrected) fun t => t = counted) ∧
      let poisoned (t : State) : Prop := ∃ u : State, u.Logged t ∧ u = { s with md := { s.md with
        poison := (s.scrubbed die sector).foldl (fun p x => SMap.set false p (slotSector x.1 die x.2) true) s.md.poison } }
      (s.canRebuild die (s.scrubbed die sector) = true → s.Happens (.dramScrub die sector .rebuilt) fun t => counted.Logged t) ∧
      (s.canRebuild die (s.scrubbed die sector) = false → s.Happens (.dramScrub die sector .rebuilt) poisoned) ∧
      s.Happens (.dramScrub die sector .poisoned) poisoned) ∧
    (die < 17 → s.dieGone die = false → s.Happens (.memoryDieFailure die) fun t =>
      t.dieGone die = true ∧ (∀ w ∈ t.md.watches, w.home ≠ die) ∧
      ∀ w ∈ s.md.watches, w.home = die → w ∈ t.md.fired)

/-! ### Translation and replayable faults (chapter 04) -/

/-- Gathering of faults (R107, R109 to R112): a miss record opens a collapse entry or joins its page's, or is refused
when 1,024 are open and sent again after a delay that doubles to 64 µs; a walk ends in fills to the dies concerned or
in a page fault record; an installed fill wakes every recorded waiter. The model's own choices in it: log entry 104.
-/
def Obligations.FaultGathering : Prop :=
  ∀ (s : State),
    let becomes (t : State) (x : Xlate) : Prop := t = { s with xl := x, fab := t.fab }
    -- an event that brings a record to the collapse stage, after it has left its queue
    let taken (i : Instr) (x : Xlate) (m : MissRec) (d : Nat) : Prop :=
      (∀ c, SMap.find? s.xl.collapse m.page = some c → s.Happens i fun t =>
        becomes t { x with collapse := SMap.put s.xl.collapse m.page { c with
          dies := c.dies ||| BitVec.ofNat 18 (2 ^ m.die), types := c.types ||| m.types, waiters := c.waiters + m.waiters
          time := min c.time m.time, ctx := if m.time < c.time then m.ctx else c.ctx
          reason := if c.reason = 0 then m.reason else c.reason } }) ∧
      (SMap.find? s.xl.collapse m.page = none → (SMap.entries s.xl.collapse).length < 1024 → s.Happens i fun t => ∃ ns,
        becomes t { x with collapse := SMap.put s.xl.collapse m.page {
          dies := BitVec.ofNat 18 (2 ^ m.die), waiters := m.waiters, overflow := false, types := m.types, ctx := m.ctx
          time := m.time, reason := m.reason, walking := true, reads := ns } }) ∧
      (SMap.find? s.xl.collapse m.page = none → 1024 ≤ (SMap.entries s.xl.collapse).length → s.Happens i fun t => ∃ n,
        becomes t { x with refusals := x.refusals + 1, refused := x.refused ++ [({ m with ticket := n }, d, s.now + d)] })
    (∀ m rest, s.xl.missQ = m :: rest → s.landed m.ticket = true → taken .missRecord { s.xl with missQ := rest } m 2000) ∧
    (∀ m d t0 rest, s.xl.refused = (m, d, t0) :: rest → t0 ≤ s.now → s.landed m.ticket = true →
      taken (.missRecordResend m.die m.page) { s.xl with refused := rest } m (min 128000 (2 * d))) ∧
    (∀ page c, SMap.find? s.xl.collapse page = some c → c.walking = true → (∀ n ∈ c.reads, s.landed n = true) →
      ((SMap.entries s.xl.collapse).filter fun x => x.2.walking && decide (x.2.time < c.time)).length < 32 →
      -- the record of a walk that stopped, or of a leaf that does not serve, with its reason, level and entry
      let recorded (r l : Nat) (e : BitVec 64) : Prop := s.Happens (.pageWalkDone page) fun t => t = { s with xl := t.xl } ∧
        (SMap.find? t.xl.collapse page).map (·.walking) = some false ∧ t.xl.faultSeq = (s.xl.faultSeq + 1) % 2 ^ 32 ∧
        ∃ f, t.xl.faultQ = s.xl.faultQ ++ [f] ∧ f.ia = page * 4096 ∧ f.entry = e ∧ f.reason = r ∧ f.level = l ∧ f.dies = c.dies ∧
          f.access = c.types.shown ∧ f.ctx = c.ctx ∧ f.seq = s.xl.faultSeq ∧ f.time = c.time
      (∀ e, s.walk (page * 4096) = .leaf e → c.reason = 0 → leafPermits e c.types = true → s.Happens (.pageWalkDone page) fun t =>
        t = { s with xl := t.xl, fab := t.fab } ∧ SMap.find? t.xl.collapse page = none ∧
        ∀ d < 18, c.dies.getLsbD d = true → ∃ n, { die := d, page := page, leaf := e, ticket := n } ∈ t.xl.fills) ∧
      (∀ e, s.walk (page * 4096) = .leaf e → c.reason = 0 → leafPermits e c.types = false → recorded 1 (sizeLevel (leafSize e)) e) ∧
      (∀ e, s.walk (page * 4096) = .leaf e → c.reason ≠ 0 → recorded c.reason (sizeLevel (leafSize e)) e) ∧
      (∀ r l e, s.walk (page * 4096) = .stop r l e → recorded r l e)) ∧
    (∀ f rest, s.xl.fills = f :: rest → s.landed f.ticket = true → f.page < 2 ^ 40 →
      (s.xl.tlb.filter fun e => e.1 / 2 ^ 40 == f.die).length < 16384 → s.Happens (.fillInstall f.die) fun t =>
      t = { s with xl := t.xl, fab := t.fab } ∧ t.xl.fills = rest ∧
      t.xl.tlb = (if f.leaf.getLsbD 0 then SMap.set 0 s.xl.tlb (f.die * 2 ^ 40 + f.page) f.leaf else s.xl.tlb) ∧
      SMap.find? t.xl.merge (f.die * 2 ^ 40 + f.page) = none ∧
      ∀ m, SMap.find? s.xl.merge (f.die * 2 ^ 40 + f.page) = some m → ∀ w ∈ m.waiters,
        ∃ n, { die := f.die, page := f.page, waiter := w, final := none, ticket := n } ∈ t.xl.answers) ∧
    (∀ x rest, s.xl.pendings = x :: rest → s.Happens .pendingReply fun t => becomes t { s.xl with pendings := rest })

/-- Answers (R108, R111, R113, R114, R225): ready fills the page, final reaches the waiters of its access
types, a woken request goes out again, a final one leaves its lanes faulted and their registers as they are. The model's
own choices in it: log entry 109. Invalidation and migration (R108, R120 to R122): an invalidation reaches every die, which drops the
range and acknowledges when what it had accepted is done; a migration withdraws W, copies the page unit by unit with its poison,
and puts the new entry in place, or the old one back. The model's own choices in it: log entry 51. -/
def Obligations.FaultAnswers : Prop :=
  (∀ (s : State),
    (∀ page c e, SMap.find? s.xl.collapse page = some c → c.walking = false → s.xl.fwWrites = [] →
      s.walk (page * 4096) = .leaf e → s.Happens (.faultReady page) fun t => t = { s with xl := t.xl, fab := t.fab } ∧
        SMap.find? t.xl.collapse page = none ∧ (∀ f ∈ t.xl.faultQ, f.ia / 4096 ≠ page) ∧
        ∀ d < 18, c.dies.getLsbD d = true → ∃ n, { die := d, page := page, leaf := e, ticket := n } ∈ t.xl.fills) ∧
    (∀ page c types, SMap.find? s.xl.collapse page = some c → c.walking = false → page < 2 ^ 40 →
      (∀ p, SMap.find? s.xl.collapse p ≠ none → p < 2 ^ 40) → s.Happens (.faultFinal page types) fun t =>
      let reason := ((s.xl.faultQ.find? fun f => f.ia == page * 4096).map (·.reason)).getD 0
      t = { s with xl := t.xl, fab := t.fab } ∧ SMap.find? t.xl.collapse page = none ∧ (∀ f ∈ t.xl.faultQ, f.ia ≠ page * 4096) ∧
      ∀ d < 18, c.dies.getLsbD d = true → ∀ m, SMap.find? s.xl.merge (d * 2 ^ 40 + page) = some m → ∀ w ∈ m.waiters,
        ∃ n, { die := d, page := page, waiter := w, final := some (types.setWidth 7, reason), ticket := n } ∈ t.xl.answers) ∧
    (∀ a rest gid r, s.xl.answers = a :: rest → s.landed a.ticket = true → a.waiter = .group gid → s.groupSaved gid = false →
      s.waitingOf a.die a.page (.group gid) = [r] →
      (a.final = none → r.oneUnit → (∀ l ∈ r.lanes, s.reform r l = .ok l) → s.Happens .wakeReplay fun t => ∃ n, t = { s with
        xl := { s.xl with answers := rest }, fab := t.fab
        md := { s.md with reqs := s.md.reqs.map fun x =>
          if x.tag = r.tag then { r with waiting := none, retryAt := none, ticket := n } else x } }) ∧
      (∀ types reason slot g o, a.final = some (types, reason) → types &&& acExec = 0 → r.kind.access &&& types ≠ 0 →
        r.who = .op gid slot → r.kind ≠ .watch → s.group? gid = some g → SMap.find? g.oplog slot = some o → o.kind = .load →
        r.laneMask &&& g.helper = 0 →
        s.Happens .finalReply fun t => ∃ k, t = { s.setGroup gid { g with oplog := SMap.put g.oplog slot { o with
            pending := o.pending &&& ~~~r.laneMask, notNow := o.notNow &&& ~~~r.laneMask
            faulted := o.faulted ||| r.laneMask, causes := k } } with
          xl := { s.xl with answers := rest }, md := { s.md with reqs := s.md.reqs.filter fun x => x.tag != r.tag } } ∧
          ∀ l < 32, lane r.laneMask l → (SMap.get (0, 0, 0) k l).1 = (if reason = 3 then 0x14 else if reason = 4 then 0x15 else 0x12)))) ∧
  (∀ (s : State) (lo hi : Nat),
    let under (v : Inval) : Prop := s.xl.invals.find? (fun x => x.lo == lo && x.hi == hi) = some v
    let put (v v' : Inval) : List Inval := s.xl.invals.map fun y => if y = v then v' else y
    (∀ pa x, (∀ v ∈ s.xl.invals, v.lo ≠ lo ∨ v.hi ≠ hi) → s.xl.fwWrites = [(pa, x)] → pa % 8 = 0 →
      let spot := s.unitSpot (pa / 4096) pa
      s.poisonedAt false pa spot = false →
      s.Happens (.tlbInvalidation lo hi) fun t => t.groups = s.groups ∧ t.blocks = s.blocks ∧ t.xl.fwWrites = [] ∧
        t.xl.tlb = s.xl.tlb ∧ t.entryAt pa = x ∧
        (∀ a, (a < spot ∨ spot + 8 ≤ a) → t.byteAt deviceLeaf a = s.byteAt deviceLeaf a) ∧
        ∃ v, t.xl.invals = s.xl.invals ++ [v] ∧ v.lo = lo ∧ v.hi = hi ∧ v.fin = [] ∧ v.acks = [] ∧
          v.todo.map (·.1) = ((List.range 17).filter fun d => !s.dieGone d) ++ [17]) ∧
    (∀ v d more, under v → v.todo = d :: more → s.landed d.2 = true → s.Happens (.tlbInvalidation lo hi) fun t =>
      -- a page that a leaf maps lies outside the range
      let outside (page : Nat) (e : BitVec 64) : Prop :=
        let sz := 2 ^ sizeLog (leafSize e)
        let a := page * 4096 / sz * sz
        hi < a ∨ a + sz ≤ lo
      t = { s with xl := { s.xl with
        tlb := t.xl.tlb, fills := t.xl.fills, invals := put v { v with todo := more, fin := v.fin ++ [d.1] } } } ∧
      (∀ e, e ∈ t.xl.tlb ↔ e ∈ s.xl.tlb ∧ (e.1 / 2 ^ 40 ≠ d.1 ∨ outside (e.1 % 2 ^ 40) e.2)) ∧
      t.xl.fills.length = s.xl.fills.length ∧ ∀ f ∈ t.xl.fills, (f.die ≠ d.1 ∨ outside f.page f.leaf ∨ f.leaf.getLsbD 0 = false) ∧
        ∃ k ∈ s.xl.fills, f = { k with leaf := f.leaf } ∧ (f.leaf = k.leaf ∨ f.leaf = k.leaf &&& ~~~1)) ∧
    (∀ v d more, under v → v.todo = [] → v.fin = d :: more → s.rangeDone d lo hi = true →
      s.Happens (.tlbInvalidation lo hi) fun t => ∃ n, t = { s with fab := t.fab, xl := { s.xl with
        invals := put v { v with fin := more, acks := v.acks ++ [n] } } }) ∧
    (∀ v, under v → v.todo = [] → v.fin = [] → (∀ a ∈ v.acks, s.landed a = true) → s.Happens (.tlbInvalidation lo hi) fun t =>
      t = { s with xl := { s.xl with invals := s.xl.invals.erase v } })) ∧
  (∀ (s : State) (page frame : Nat) (far : Bool) (at? : Option Nat),
    let clean : Prop := s.md.poison = [] ∧ s.md.lost = 0 ∧ s.md.unbuilt = [] ∧ s.xl.fwWrites = []
    let goes (P : State → Prop) : Prop := s.Happens (.migration page frame far at?) P
    (let at_ := s.entryPA (page * 4096)
     let e := s.entryAt at_
     let sz := 2 ^ sizeLog (leafSize e)
     clean → s.xl.xroot % 4096 = 0 → s.xl.migration = none → e.getLsbD 0 = true → e.getLsbD 1 = false → frame * 4096 % sz = 0 →
      (far = true ∨ frame * 4096 + sz ≤ deviceTop) → goes fun t =>
        t.groups = s.groups ∧ t.blocks = s.blocks ∧ t.xl.tlb = s.xl.tlb ∧
        t.entryAt at_ = e &&& ~~~8 ∧ (∃ v, t.xl.invals = s.xl.invals ++ [v] ∧
          v.lo = page * 4096 / sz * sz ∧ v.hi = page * 4096 / sz * sz + sz - 1) ∧
        ∃ m, t.xl.migration = some m ∧ m.page = page ∧ m.newFrame = frame ∧ m.far = far ∧ m.abortAt = at? ∧ m.entryAt = at_ ∧
          m.old = e ∧ m.live = true ∧ m.stage = 1 ∧ m.unit = 0 ∧ m.bad = [] ∧ m.flit = none) ∧
    (∀ m : Machine.Migration, s.xl.migration = some m → m.page = page → s.invalidating m = false →
      let now (t : State) (k : Machine.Migration) : Prop := t.xl.migration = some k ∧ t.groups = s.groups ∧ t.blocks = s.blocks
      (m.stage = 1 → goes fun t => t = { s with xl := { s.xl with migration := some { m with stage := 2 } } }) ∧
      (m.stage = 2 → m.abortAt ≠ some m.unit → m.unit < m.size / 256 → m.flit = none → goes fun t => ∃ n,
        t = { s with fab := t.fab, xl := { s.xl with migration := some { m with flit := some n } } }) ∧
      (∀ n, m.stage = 2 → m.abortAt ≠ some m.unit → m.unit < m.size / 256 → m.flit = some n → s.landed n = true →
        leafZ m.old = false → goes fun t =>
        let ia := m.base + 256 * m.unit
        let src := s.place m.old ia
        let dst := s.place m.new ia
        let bad (k : Nat) : Bool := s.poisonedAt (leafF m.old) (ia + 32 * k) (src + 32 * k)
        (∃ b, now t { m with unit := m.unit + 1, bad := b, flit := none } ∧ ((∀ k < 8, bad k = false) → b = m.bad)) ∧
        (∀ k < 256, t.byteAt m.new (dst + k) = s.byteAt m.old (src + k)) ∧
        ∀ k < 8, SMap.get false t.md.poison (poisonKey (leafF m.new) (dst + 32 * k)) = bad k) ∧
      (m.stage = 2 → m.abortAt = some m.unit → m.entryAt % 8 = 0 → clean → goes fun t => now t { m with stage := 4 } ∧
        t.entryAt m.entryAt = m.old) ∧
      (m.stage = 2 → m.abortAt ≠ some m.unit → m.size / 256 ≤ m.unit → m.bad = [] → m.entryAt % 8 = 0 → clean → goes fun t =>
        now t { m with stage := 3 } ∧ t.entryAt m.entryAt = m.new ∧
        ∀ x ∈ t.l1, x ∈ s.l1 ∧ x.1 % 2 ^ 45 * 128 / m.size ≠ m.base / m.size) ∧
      (m.stage = 3 → s.xl.collapse = [] → goes fun t => t = { s with xl := { s.xl with migration := none } }) ∧
      (m.stage = 4 → s.xl.collapse = [] → goes fun t => ∃ u, s.Logged u ∧ t = { u with xl := { u.xl with migration := none } })))

/-! ### Host access, resets, alarms and power (chapters 01, 03 and 11) -/

/-- The host's side (R37, R70 to R72, R75, R77, R81, R84, R87, R100, R117): an access inside one unit of a segment goes to
its home; one outside is discarded or answered as unsupported or poisoned; one of the management queue reads or writes it; during a
function-level reset reads answer ones; vectors are masked, pending and held off; FARALT follows its condition, and a far access on a
link that has gone waits at the bridge. The model's own choices in it: log entries 38, 39, 40, 84, 131, 138, 139, 152. -/
def Obligations.HostAccess : Prop :=
  ∀ (s : State) (r : HostReq),
    let f := s.func r.fn
    let n := if r.write then r.data.length else r.len
    let answered (d : HostDone) : State := { s with host := { s.host with done := s.host.done ++ [d] } }
    let outside : State := if r.write then s
      else answered { fn := r.fn, ok := r.cxl, poisoned := r.cxl, data := if r.cxl then List.replicate r.len 0 else [] }
    let up : Prop := s.host.link0 = true
    let here : Prop := up ∧ f.flr = 0 ∧ f.disabled = false ∧ n ≠ 0
    let serves : Prop := here ∧ (r.cxl = true ∨ r.bar = 0 ∧ r.va + n ≤ f.window)
    let alone : Prop := f.posted = [] ∧ ∀ o ∈ s.host.ops, o.req.fn ≠ r.fn
    (up → f.flr ≠ 0 → r.write = true → s.Happens (.hostMemoryAccess r) fun t => t = s) ∧
    (up → f.flr ≠ 0 → r.write = false → r.cxl = true → s.Happens (.hostMemoryAccess r) fun t => t = outside) ∧
    (up → f.flr ≠ 0 → r.write = false → r.cxl = false → s.Happens (.hostMemoryAccess r) fun t =>
      t = answered { fn := r.fn, ok := true, poisoned := false, data := List.replicate r.len 0xFF }) ∧
    (up → f.flr = 0 → f.disabled = true ∨ n = 0 → s.Happens (.hostMemoryAccess r) fun t => t = outside) ∧
    (here → r.cxl = false → r.bar = 2 → s.Happens (.hostMemoryAccess r) fun t =>
      t = if r.write then s.tableWrite r.fn r.va r.data
        else answered { fn := r.fn, ok := true, poisoned := false, data := s.tableRead r.fn r.va n }) ∧
    (here → r.cxl = false → r.bar ≠ 2 → r.bar ≠ 0 ∨ f.window < r.va + n → s.Happens (.hostMemoryAccess r) fun t => t = outside) ∧
    (serves → onRing r n = false → r.va % 256 + n ≤ 256 →
      s.hostView r.fn r.va n (if r.write then acWrite else acRead) = none → s.Happens (.hostMemoryAccess r) fun t => t = outside) ∧
    (serves → onRing r n = true → r.write = false → s.Happens (.hostMemoryAccess r) fun t =>
      t = answered { fn := r.fn, ok := true, poisoned := false, data := s.host.ringRead r.va n }) ∧
    (serves → onRing r n = true → r.write = true → alone → s.Happens (.hostMemoryAccess r) fun t =>
      t = { s with host := { s.host with ring := t.host.ring, funcs := t.host.funcs } } ∧ t.host.ringRead r.va n = r.data) ∧
    (∀ c ia, serves → onRing r n = false → r.va % 256 + n ≤ 256 → alone →
      s.hostView r.fn r.va n (if r.write then acWrite else acRead) = some (c, ia) → s.Happens (.hostMemoryAccess r) fun t =>
        t = { s with fab := t.fab, md := { s.md with reqs := t.md.reqs, nextTag := s.md.nextTag + 1 }, host := { s.host with
          nextHost := s.host.nextHost + 1, funcs := t.host.funcs, ops := t.host.ops } } ∧
        (∃ o, t.host.ops = s.host.ops ++ [o] ∧ o.id = s.host.nextHost ∧ o.left = 1 ∧ o.req.va = r.va ∧ o.req.fn = r.fn) ∧
        ∃ q, t.md.reqs = s.md.reqs ++ [q] ∧ q.who = .host s.host.nextHost ∧ q.src = 17 ∧ q.ctx = c ∧ q.fn = r.fn ∧ q.width = n ∧
          q.kind = (if r.write then .store else .load) ∧
          q.lanes = [{ lane := 0, va := r.va, ia := ia, data := if r.write then ofBytes r.data else 0, data2 := 0 }]) ∧
    (∀ o q, s.host.ops = [o] → o.began + 2000000 ≤ s.now → q ∈ s.md.reqs → q.who = .host o.id → q.waiting.isSome → o.req = r →
      f.posted = [] → s.Happens .hostFaultTimeout fun t =>
        t = { s with
          md := { s.md with reqs := s.md.reqs.filter fun x => x.who != .host o.id }
          host := { outside.host with ops := [] } }) ∧
    (∀ up pool, (s.Happens (.hostLinkChange 0 up pool) fun t => t.host.link0 = up ∧ t.host.pool0 = (up && pool) ∧
        t.host.faralt = (s.host.farperm && (up && pool) && !s.host.l1up) ∧ ((∀ h ∈ s.md.uio, h.req.spec = false) → t.blocks = s.blocks) ∧
        (s.md.uio = [] → t.groups = s.groups)) ∧
      s.Happens (.hostLinkChange 1 up pool) fun t => t.host.link1 = up ∧ t.host.l1up = (up && pool) ∧
        t.host.faralt = (s.host.farperm && s.host.pool0 && !(up && pool)) ∧ ((∀ h ∈ s.md.uio, h.req.spec = false) → t.blocks = s.blocks) ∧
        (s.md.uio = [] → t.groups = s.groups)) ∧
    (∀ h w, let k := 17 * 2 ^ 40 + ((h.req.lanes.head?.map (·.ia)).getD 0) / 4096
      s.md.uio = [h] → s.host.l1up = true → h.req.spec = false → s.waiterOf h.req = some w → SMap.find? s.xl.merge k = none →
      s.mergeCount 17 < 256 → s.Happens (.hostLinkChange 1 false false) fun t => t.md.uio = [] ∧ t.groups = s.groups ∧
        (∃ q ∈ t.md.reqs, q.tag = h.req.tag ∧ q.lanes = h.req.lanes ∧
          q.waiting = some (((h.req.lanes.head?.map (·.ia)).getD 0) / 4096)) ∧
        SMap.find? t.xl.merge k =
          some { waiters := [w], types := h.req.kind.access, overflow := false, ctx := h.req.ctx, reason := 4 }) ∧
    (∀ fn v, let x := s.func fn
      (∀ m, up → msixEntries fn ≤ v → s.Happens (.msixTableWrite fn v m) fun t => t = s) ∧
      (up → v < msixEntries fn → s.Happens (.msixTableWrite fn v true) fun t =>
        t = s.setFunc fn { x with masked := SMap.set false x.masked v true }) ∧
      (up → v < msixEntries fn → SMap.get false x.pending v = true → x.flr = 0 → s.Happens (.msixTableWrite fn v false) fun t =>
        t.host.msix = s.host.msix ++ [(fn, v)] ∧ SMap.get false (t.func fn).pending v = false ∧
        SMap.get false (t.func fn).masked v = false) ∧
      (SMap.get false x.holdoff v = true → SMap.get 0 x.raisedAt v - 1 + 20000 ≤ s.now → x.flr = 0 →
        SMap.get false x.masked v = false → s.Happens (.eventVectorHoldoffExpiry fn v) fun t =>
          t.host.msix = s.host.msix ++ [(fn, v)] ∧ SMap.get false (t.func fn).holdoff v = false ∧
          SMap.get 0 (t.func fn).raisedAt v = s.now + 1) ∧
      (x.logBase ≠ 0 → x.dropped ≠ 0 → s.logRoom fn = true → s.Happens (.loglost fn) fun t =>
        (t.func fn).dropped = 0 ∧ s.Logged t)) ∧
    (∀ x : BitVec 64,
      (s.Happens (.registerWrite .xroot x) fun t => t = { s with xl := { s.xl with xroot := (x &&& 0xFFFFFFFFFFFFF000).toNat } }) ∧
      (∀ fn, s.Happens (.registerWrite (.window fn) x) fun t =>
        t = if fn < 64 ∧ windowOk x.toNat = true then s.setFunc fn { s.func fn with window := x.toNat } else s) ∧
      (s.Happens (.registerWrite .hbctl x) fun t => ((∀ h ∈ s.md.uio, h.req.spec = false) → t.blocks = s.blocks) ∧ t.host.farperm = x.getLsbD 3 ∧
        t.host.faralt = (x.getLsbD 0 && x.getLsbD 3 && s.host.pool0 && !s.host.l1up) ∧ (s.md.uio = [] → t.groups = s.groups)) ∧
      ∀ gid g, s.group? gid = some g →
        (s.Happens (.registerWrite (.sysreg gid 0x010) x) fun t => t = s.setGroup gid { g with tvec := x &&& 0x00FFFFFFFFFFFFF8 }) ∧
        s.Happens (.registerWrite (.sysreg gid 0x011) x) fun t => t = s.setGroup gid { g with tpc := x &&& 0xF0FFFFFFFFFFFFF8 })

/-- Resets, fences, alarms and power (R39, R40, R86, R87, R89 to R95, R298): a function-level reset takes the
function's blocks, key and grants away and its completion gives it new ones; a fatal die is fenced; every lane of a corrupt
group is switched off; a class C alarm halts all dies; a device reset leaves zero memory; a valid token unlocks. The
model's own choices in it: log entries 65, 75, 78, 79, 86, 110, 131, 132, 137. -/
def Obligations.ResetsAndAlarms : Prop :=
  ∀ (s : State) (fn die code : Nat),
    let f := s.func fn
    (fn < 64 → f.flr ≠ 4 → s.host.link0 = true → s.Happens (.functionLevelReset fn) fun t =>
      (t.func fn).flr = 4 ∧ (t.func fn).key = 0 ∧ (t.func fn).pending = [] ∧ (t.func fn).posted = [] ∧
      (t.func fn).expgrant = false ∧ t.guard.unlocked = s.guard.unlocked &&& ~~~(BitVec.ofNat 64 (2 ^ fn)) ∧
      ∀ k b cx, s.block? k = some b → s.ctx? b.ctx = some cx → cx.fn = fn → t.block? k = none) ∧
    (f.flr = 4 → s.quietFn fn = true → s.Happens (.flrdone fn) fun t =>
      (t.func fn).flr = 0 ∧ (t.func fn).frs = true ∧ (t.func fn).disabled = f.disabled ∧ (t.func fn).window = f.window ∧ (t.func fn).key = s.host.nextKey ∧ (t.func fn).iw = 1 ∧ (t.func fn).aw = 1 ∧
      t.host.nextKey = s.host.nextKey + 1 ∧ (∀ c cx, t.ctx? c = some cx → cx.fn ≠ fn) ∧ t.groups = s.groups) ∧
    (f.flr = 6 → s.quietFn fn = true → s.Happens (.flrdone fn) fun t => t.host.ctxs = s.host.ctxs ∧ t.groups = s.groups ∧
      (f.disabled = true → (t.func fn).flr = 5 ∧ (t.func fn).disabled = true ∧ t.host.nextKey = s.host.nextKey) ∧
      (f.disabled = false → (t.func fn).flr = 0 ∧ (t.func fn).key = s.host.nextKey ∧ t.host.nextKey = s.host.nextKey + 1)) ∧
    (die < 8 → s.guard.fenced.getLsbD die = false → s.Happens (.computeDieFatal die) fun t =>
      t.guard.fenced = s.guard.fenced ||| BitVec.ofNat 8 (2 ^ die) ∧ (∀ r ∈ t.md.reqs, r.src ≠ die) ∧
      ∀ w ∈ t.md.watches, w.die ≠ die) ∧
    (∀ gid g, s.group? gid = some g → s.Happens (.sramue (.group gid)) fun t =>
      t.group? gid = some (if g.live = 0 then g else g.switchOff g.live 0x2A) ∧ t.blocks = s.blocks) ∧
    (∀ k, s.Happens (.sramue (.l1 k)) fun t =>
      t = { s with l1 := SMap.del s.l1 k, guard := { s.guard with corrected := s.guard.corrected + 1 } }) ∧
    (s.Happens (.sramue .corrected) fun t => t = { s with guard := { s.guard with corrected := s.guard.corrected + 1 } }) ∧
    (∀ cold tries x, s.guard.dead = false ∨ cold = true → tries.find? s.verifies = some x →
      (tries.takeWhile fun y => !s.verifies y).length < 3 → s.Happens (.deviceReset ⟨cold, tries⟩) fun t =>
      t.guard.up = true ∧ t.guard.dead = false ∧ t.guard.power = 0 ∧ t.guard.fenced = 0 ∧ t.guard.version = x.version ∧
      t.host.link0 = true ∧ t.host.link1 = true ∧ t.mem = [] ∧ t.far = [] ∧ t.blocks = [] ∧ t.groups = [] ∧
      t.box = SignalBox.reset ∧ t.now = 0 ∧ (∀ k < 64, (t.func k).key = s.host.nextKey + k) ∧
      ∀ i j, usedPair i j = true → (t.link i j).rxLive = 0xFFFF) ∧
    (∀ cold tries, s.guard.dead = false ∨ cold = true → (∀ x ∈ tries, s.verifies x = false) →
      s.Happens (.deviceReset ⟨cold, tries⟩) fun t => t.guard.up = false ∧ t.guard.dead = decide (3 ≤ tries.length) ∧
      t.blocks = [] ∧ t.groups = []) ∧
    (∀ x : BootImage, s.verifies x = (x.signed && x.keyFused && decide (s.guard.rollback ≤ x.version))) ∧
    (code ∈ [1, 2, 3, 5, 6, 8] → s.Happens (.alarm code fn) fun t => t.guard = { s.guard with dead := true, identity := false } ∧
      ∀ k, (t.func k).key = 0) ∧
    (s.Happens (.alarm 4 fn) fun t => s.Logged t) ∧
    (fn < 64 → s.Happens (.alarm 7 fn) fun t => (t.func fn).disabled = true ∧ (t.func fn).flr = 6 ∧ t.guard.dead = s.guard.dead) ∧
    (fn < 64 → s.guard.fresh = true → s.Happens (.debugUnlock 0 fn true) fun t => t = { s with guard := { s.guard with
      fresh := false, unlocked := s.guard.unlocked ||| BitVec.ofNat 64 (2 ^ fn), port := t.guard.port } }) ∧
    (fn < 64 → s.guard.fresh = true → s.Happens (.debugUnlock 1 fn true) fun t => t = { s with guard := { s.guard with
      fresh := false, unlockAll := true, port := t.guard.port } }) ∧
    (∀ scope valid, fn < 64 → s.guard.badUnlock < 2 → valid = false ∨ 2 ≤ scope → s.Happens (.debugUnlock scope fn valid) fun t => t.guard.badUnlock = s.guard.badUnlock + 1 ∧
      t.guard.fresh = false ∧ t.guard.dead = s.guard.dead ∧ (t.func fn).disabled = true) ∧
    (∀ c, die < 8 → s.Happens (.junctionThrottle die c) fun t =>
      let g := SMap.get 0 s.guard.gate die
      t = { s with guard := { s.guard with
        temp := SMap.set 0 s.guard.temp die c
        gate := SMap.set 0 s.guard.gate die (if 100 ≤ c then min 16 (g + 1) else if c ≤ 97 then 0 else g) } }) ∧
    (∀ u, s.guard.power = 0 → (∀ k ∈ SMap.entries s.box.table, k.2.wants = false) → s.allSettled = true →
      s.residents.foldl (fun t k => t.bind (·.saveNow k)) (some s) = some u →
      s.Happens .powerP2Entry fun t => t = { u with guard := { u.guard with power := 2 }, l1 := [] }) ∧
    (let saved := (SMap.entries s.blocks).filter fun b => b.2.phase == .saved && b.2.isStation
     s.guard.power = 2 → s.md.fired ≠ [] ∨ s.box.launches ≠ [] ∨ s.host.nextEntry.isSome = true →
      s.Happens .powerP2Exit fun t => t = (saved.map (·.1)).foldl State.wakeNow { s with guard := { s.guard with power := 0 } }) ∧
    (s.Happens .powerLoss fun t => t.guard.power = 3 ∧ t.mem = [] ∧ t.blocks = [] ∧ t.groups = [] ∧ t.guard.up = false)

/-! ### The signal box, the issue of words and the debug port (chapters 06, 07, 13 and 14) -/

/-- The signal box places and takes away blocks (R127, R129, R135 to R146): a task's next block starts on a core with
its task's fields and its groups at the program's first clause; a block that may retire leaves with its groups and is
counted; a completing task's entry is free and its generation goes on; a background task is promoted. The model's own
choices in it: log entries 4, 69, 70. Freight gives way to express (R172, R173): an open core with an express block is
revoked, its freight MMAs asked to stop at a chunk's end; idle, it is closed; 256 cycles after the last express issue,
or with no express block, it opens. -/
def Obligations.BlocksAndFreight : Prop :=
  (∀ (s : State) (tt core bid : Nat),
     (∀ k i f, SMap.find? s.box.table tt = some k → (k.st = .eligible ∨ k.st = .running) → k.nextUnit = some i → k.task.csize = 1 →
       k.clsNow ≠ 0 → core < 64 → s.turnOf = some tt → s.canRestore tt k = false → f.borrow = false →
       s.fit core k.ctx k.clsNow k.task.split = some f →
       s.Happens (.blockPlace tt core) fun t => t.nextBlock = s.nextBlock + 1 ∧ t.now = s.now ∧
         SMap.find? t.box.table tt = some { k with
           st := .running, again := k.again.filter (· != i), nextBlock := if k.again = [] then i + 1 else k.nextBlock } ∧
         ∃ b, t.block? s.nextBlock = some b ∧ b.ctx = k.ctx ∧ b.tt = some tt ∧ b.index = i ∧ b.x = i % k.task.gx ∧
           b.y = i / k.task.gx % k.task.gy ∧ b.z = i / (k.task.gx * k.task.gy) ∧ b.core = core ∧ b.place = f.place ∧
           b.phase = .live ∧ b.cls = k.clsNow ∧ b.bsize = k.task.bsize ∧ b.groups = (k.task.bsize + 31) / 32 ∧
           b.vcount = 8 * k.task.vreg ∧ b.scount = 8 * k.task.sreg ∧ b.spad = 32768 * k.task.spad ∧ b.acc = k.task.acc ∧
           b.prog = k.task.prog ∧ b.args = k.task.args ∧ b.scratch = [] ∧ b.slots = [] ∧
           ∀ j < b.groups, ∃ sl, t.group? (32 * s.nextBlock + j) = some (Group.start s.nextBlock j sl b)) ∧
     (∀ b, s.block? bid = some b → s.mayRetire bid b = true → (∀ x ∈ b.cluster, x = bid) →
       (∀ j k, b.tt = some j → SMap.find? s.box.table j = some k → b.index ∉ k.redo) → s.Happens (.blockRetire bid) fun t =>
       t.block? bid = none ∧ (∀ k, k / 32 = bid → t.group? k = none) ∧ t.nextBlock = s.nextBlock ∧
       ∀ j k, b.tt = some j → SMap.find? s.box.table j = some k → ∃ k', SMap.find? t.box.table j = some k' ∧
         k'.retired = k.retired + 1 ∧ k'.recs = min (k.recs + 1) k.task.cap ∧
         k'.fsum = k.fsum ||| (s.exitSum bid b).fstat ∧ (k'.st = k.st ∨ k'.st = .completing)) ∧
     (∀ k, let reach (va : Nat) (ac : Rights) : Prop := ∃ cx ia chk leaf, s.ctx? k.ctx = some cx ∧ cx.translate va ac = .ok (ia, chk) ∧
         s.AtHand ia ac leaf ∧ s.admits (s.servingDie ia) 17 cx.fn = true ∧ s.boxAsked (ia / 4096) = false ∧
         ∀ f ∈ s.box.finals, f.1 ≠ ia / 4096
       SMap.find? s.box.table tt = some k → k.st = .completing → k.owed = [] → reach (k.task.cwa + 8) acWrite →
       reach k.task.cwa acAtomic → (∀ x ∈ s.md.backoff, x.1 ≠ .box) → s.cwaHeld k.ctx k.task.cwa = false →
       s.Happens (.taskComplete tt) fun t =>
       SMap.find? t.box.table tt = none ∧ SMap.get 0 t.box.gens tt = (SMap.get 0 s.box.gens tt + 1) % 2 ^ 19 ∧
       t.groups = s.groups ∧ t.blocks = s.blocks) ∧
     (∀ k, SMap.find? s.box.table tt = some k → k.task.flags % 4 = 3 → k.promoted = false → (k.st = .eligible ∨ k.st = .running) →
       k.eligibleAt + 200000000 ≤ s.now → s.Happens (.backgroundPromote tt) fun t =>
         t = { s with box := { s.box with table := SMap.put s.box.table tt { k with promoted := true } } })) ∧
  (∀ (s : State) (core : Nat),
     let k := s.core core
     (k.freight = .open_ → (∃ p < 4, ∃ x ∈ s.candidates core p, x.g.cls = 0) → (∀ b ∈ s.resident core, b.2.cls = 2 → b.2.borrowed = false) →
       s.Happens (.freightRevoke core) fun t => t = { s.setCore core { k with freight := .revoking } with groups := t.groups } ∧
         ∀ b ∈ s.resident core, b.2.cls = 2 → ∀ j ∈ Block.gids b.1 b.2, ∀ g, s.group? j = some g →
           t.group? j = some { g with mma := g.mma.map fun m => { m with halt := true } }) ∧
     (k.freight = .revoking → s.freightIdle core = true → s.Happens (.freightClosed core) fun t =>
       t = s.setCore core { k with freight := .closed, expressAt := max k.expressAt s.now }) ∧
     (((k.freight = .closed ∧ k.expressAt + 256 ≤ s.now) ∨ (k.freight ≠ .open_ ∧ s.hasExpress core = false)) →
       s.Happens (.freightReopen core) fun t => t = s.setCore core { k with freight := .open_ }))

/-- Pre-emption and re-splits (R142 to R144, R178, R202, R208, R436): a block that is asked to go halts, and once it
is quiet its groups enter firmware; a block that overstays its slice before a waiting one of another context is asked;
a saved block returns to a core with its groups in the restore entry; a core is drained for a task that has waited too
long, and given up when empty. The model's own choices in it: log entries 11, 71. -/
def Obligations.Preemption : Prop :=
  ∀ (s : State) (tt core bid : Nat) (b : Block),
    let alone : Prop := b.csize ≤ 1 ∧ b.tt ≠ none ∧ ∀ j k, b.tt = some j → SMap.find? s.box.table j = some k → k.task.coRes = false
    let halts (t : State) : Prop :=
      (∃ b', t.block? bid = some b' ∧ b'.area.isSome = true ∧ b' = { b with phase := .halting, area := b'.area, cmds := b'.cmds } ∧
        b.Started b') ∧
      ∀ k ∈ Block.gids bid b, ∀ g, t.group? k = some g → g.halted = true
    s.block? bid = some b →
    (alone → b.phase = .live → (s.reserveFor bid).isSome = true → s.Happens (.preemptRequest bid) halts) ∧
    (b.phase = .halting → s.quiet bid = true →
      (∀ k ∈ Block.gids bid b, ∃ g, s.group? k = some g ∧ g.fw = false ∧ g.migrating = none) →
      (∃ k ∈ Block.gids bid b, ∃ g, s.group? k = some g ∧ g.live ≠ 0) →
      s.Happens (.preemptRequest bid) fun t => t = { s with groups := t.groups } ∧
        (∀ k ∈ Block.gids bid b, ∀ g, s.group? k = some g → t.group? k = some { g with
          fw := true, resume := g.entries, entries := [Entry.at (8 * Config.firmware false) 0 0xFFFFFFFF 0] }) ∧
        ∀ k, k ∉ Block.gids bid b → t.group? k = s.group? k) ∧
    (∀ k own other t0, SMap.find? s.box.table tt = some k → (k.st = .eligible ∨ k.st = .running) → k.clsNow = 1 →
      s.ctx? k.ctx = some own → s.waitStart k = some t0 → t0 + 2000 * own.req.slice ≤ s.now →
      alone → b.phase = .live → b.cls = 1 → b.core = core → b.ctx ≠ k.ctx → s.ctx? b.ctx = some other → 0 < other.req.slice →
      b.placedAt + 2000 * other.req.slice < s.now → s.resident core = [(bid, b)] →
      (s.reserveFor bid).isSome = true → s.Happens (.sliceExpiry tt core) halts) ∧
    (∀ k f, b.phase = .saved → b.tt = some tt → SMap.find? s.box.table tt = some k → s.turnOf = some tt → k.task.coRes = false →
      (∀ x ∈ b.cluster, x = bid) → s.blockStores bid = false → core < 64 → k.clsNow ≠ 0 →
      s.fit core b.ctx k.clsNow b.split = some f → (s.seated b core k.clsNow f).isSome = true →
      s.Happens (.blockRestore bid core) fun t =>
        t.block? bid = some { b with
          core := core, place := f.place, places := f.places, carve := f.carve, borrowed := f.borrow, cls := k.clsNow,
          phase := .restoring, parts := 0, placedAt := s.now } ∧
        (∀ j < b.groups, ∀ g, s.group? (32 * bid + j) = some g → ∃ sl, t.group? (32 * bid + j) = some { g with
          slot := sl, cls := k.clsNow, halted := true, fw := true, resume := g.entries
          entries := [Entry.at (8 * Config.firmware true) 0 0xFFFFFFFF 0] }) ∧
        SMap.find? t.box.table tt = some { k with saved := k.saved.filter (· != bid) }) ∧
    (∀ k cx t0, SMap.find? s.box.table tt = some k → (k.st = .eligible ∨ k.st = .running) →
      k.clsNow ≠ 2 → s.ctx? k.ctx = some cx → s.waitStart k = some t0 → t0 + 2000 * cx.req.resplit < s.now → s.coreLive core = true →
      (∀ c < 64, ∀ x ∈ s.splitBlocks c, x.2.borrowed = true ∨ ¬(x.2.vcount = k.task.split.v ∧ x.2.spad = k.task.split.spad ∧
        x.2.scount = k.task.split.u ∧ x.2.acc = k.task.split.acc)) →
      s.hasExpress core = false → (∃ x ∈ s.resident core, x.2.isStation = false) → SMap.find? s.box.draining core = none →
      (∀ x ∈ SMap.entries s.box.draining, x.2.1 ≠ tt) → s.Happens (.resplitTimeout tt core) fun t =>
        t = { s with box := { s.box with draining := SMap.put s.box.draining core (tt, s.now) } }) ∧
    (∀ w, SMap.find? s.box.draining core = some w → (∀ x ∈ s.resident core, x.2.isStation = true) → s.Happens (.drainTimeout core) fun t =>
      t = { s with box := { s.box with draining := SMap.del s.box.draining core } })

/-- What issues (R78, R158, R160 to R162, R169, R431, R432): a platform selects entries of one group, at most two, and
the ready entry of its only group; a resolved branch is speculated on no more, and a right prediction leaves the
registers; a join that all members reached lets its waiting entries go; a held cause is taken at the handler, or
switches its lanes off. The model's own choices in it: log entries 3, 88. -/
def Obligations.WhatIssues : Prop :=
  ∀ (s : State) (core p gid : Nat),
    (s.issueQ = [] → s.guard.power = 0 → s.served core p ≠ [] → s.Happens (.issueSelect core p) fun t =>
      t.now = s.now ∧ t.issueQ.length ≤ 2 ∧ (∃ k, ∀ x ∈ t.issueQ, x.1 = k) ∧
      ∀ g i e b cx, (s.served core p).map (·.1) = [gid] → let s1 := s.settleGroup gid
        s1.served core p = [(gid, g)] → s1.readyEntries core gid = [i] → g.entries[i]? = some e → e.mask ≠ 0 →
        s1.block? g.bid = some b → s1.ctx? b.ctx = some cx → s1.gated core = false → s1.debugOn b.ctx = false →
        g.cls ≠ 0 → g.cls < 4 → e.pairAt e.word = false → ∃ l, lowest e.mask = some l ∧ t.issueQ = [(gid, l)]) ∧
    (∀ g n sp, s.group? gid = some g → SMap.entries g.oplog = [] → g.specs.find? (·.ident == n) = some sp →
      s.resolvable g sp = true → s.Happens (.branchResolve gid n) fun t => t.mem = s.mem ∧ t.now = s.now ∧
        ∃ h, t.group? gid = some h ∧ (∀ x ∈ h.specs, x.ident ≠ n) ∧ h.exited = g.exited ∧
          (sp.predicted = g.active sp.guard sp.mask → h.v = g.v ∧ h.fstat = g.fstat ∧ ∀ k l, h.pred k l = g.pred k l) ∧
          h.s = g.s) ∧
    (∀ g, s.group? gid = some g → g.runs = true → g.fw = false → g.joinDue = true →
      s.Happens (.joinWaitSatisfied gid) fun t => ∃ h, t = s.setGroup gid h ∧
        h = { g with entries := h.entries, up := h.up, joinMember := 0, joinArrived := 0 } ∧
        (∀ e ∈ h.entries, e.atJoin = true → e.spec = false → e.waited = true) ∧ h.live = g.live) ∧
    (∀ g x b i e, s.group? gid = some g → s.block? g.bid = some b → g.pendingTraps.head? = some x → x.record = none → g.trap = false →
      g.fw = false → g.halted = false → g.mma = none → bitAt g.mres.toNat 63 = false → g.migrating = none → g.specs = [] →
      g.lineSpec = none → g.entries[i]? = some e → g.entryOf e.mask = some i → g.entryOf x.lanes = some i →
      s.Happens (.trapEntry gid) fun t => ∃ h, t.group? gid = some h ∧ h.pendingTraps = g.pendingTraps.drop 1 ∧
        h.v = g.v ∧ h.s = g.s ∧ h.p = g.p ∧ h.x = g.x ∧ h.fstat = g.fstat ∧
        (g.hasHandler = true → h.trap = true ∧ h.fmask = g.fmask ∧
          h.tcause = BitVec.ofNat 32 ((if x.late then 2 ^ 31 else 0) + x.kind % 256 * 2 ^ 16 + x.cause % 2 ^ 16) ∧
          h.tpc = BitVec.ofNat 64 (x.tword % 16 * 2 ^ 60 + x.tclause / 8 % 2 ^ 53 * 8) ∧
          ∀ l < 32, lane e.mask l → h.StandsAt l (bits g.tvec.toNat 3 53 * 8) 0) ∧
        (g.hasHandler = false → h.trap = false ∧ h.fmask = (g.switchOff (x.lanes &&& g.live) x.cause).fmask ∧
          ∀ l < 32, lane x.lanes l → lane h.live l = false))

/-- The debug port, the logbook and the counters (R284, R290, R291, R293 to R295, R297, R299): a stop halts a block
with a dump area or is refused, its record follows when it is quiet, and a resume frees its groups; comparators keep
their defined bits and are read through the port; a sampler steps its shift register; the lane-cycle counts go to their areas; a logbook out of use
has no settings. The model's own choices in it: log entries 65, 66, 67, 111. -/
def Obligations.DebugAndLogbook : Prop :=
  ∀ (s : State) (bid core ctx i : Nat) (x : DWord),
    (∀ b src, let code := match src with | StopSrc.bkpt => 0 | StopSrc.cmp n => 1 + n | StopSrc.port => 9
      s.block? bid = some b → s.debugOn b.ctx = true → b.phase = .live → b.cluster = [bid] →
      (src = .port ∨ b.stopPending = some (code + 1)) →
        (s.allExited bid b = true → s.Happens (.debugStop bid src) fun t => t = s.setBlock bid { b with stopPending := none }) ∧
        (s.allExited bid b = false → s.reserveArea b.ctx b.saveSize = none → s.Happens (.debugStop bid src) fun t =>
          t = { s.setBlock bid { b with stopPending := none } with guard := { s.guard with port := s.guard.port ++ [(5, bid)] } }) ∧
        ∀ r, s.allExited bid b = false → s.reserveArea b.ctx b.saveSize = some r → s.Happens (.debugStop bid src) fun t =>
          (∃ b', t.block? bid = some b' ∧ b.Started b' ∧ b' = { b with
            phase := .stopping, stopSrc := some code, stopPending := none, dump := some r.2, cmds := b'.cmds }) ∧
          ∀ k ∈ Block.gids bid b, ∀ g, t.group? k = some g → g.halted = true) ∧
    (∀ b, s.block? bid = some b → b.phase = .stopping → s.engineBusy bid = false → s.copyBusy bid b = false → s.Happens (.stopRecord bid) fun t =>
      t.block? bid = some { b with phase := .stopped } ∧ t.groups = s.groups ∧
      t.guard = { s.guard with port := s.guard.port ++ [(4, bid)] }) ∧
    (∀ b, s.block? bid = some b → b.phase = .stopped → b.stopSrc.isSome = true → b.cluster = [bid] →
      s.Happens (.debugResume bid) fun t =>
        t.block? bid = some { b with phase := .live, stopSrc := none, dump := none } ∧
        (∀ k ∈ Block.gids bid b, ∀ g, s.group? k = some g → t.group? k = some { g with halted := false }) ∧
        ∀ k, k ∉ Block.gids bid b → t.group? k = s.group? k) ∧
    (s.Happens .debugIdentify fun t => t = { s with guard := { s.guard with port := s.guard.port ++ [(0, 0)] } }) ∧
    (s.Happens .debugChallenge fun t => ∃ nonce, t = { s with guard := { s.guard with
      challenge := s.guard.challenge + 1, fresh := true, port := s.guard.port ++ [(1, nonce)] } }) ∧
    (∀ c, s.ctx? ctx = some c → s.debugOn ctx = true → i < 8 → s.Happens (.dbgcmpWrite ctx i x) fun t =>
      s.portRead (.comparator ctx i) = some (toBytes 8 (SMap.get 0 c.cmps i).toNat) ∧
      t = s.setCtx ctx { c with cmps := SMap.set 0 c.cmps i (x &&& 0x8FFFFFFFFFFFFFFC) }) ∧
    (∀ r tick at_ ptr cx, s.ctx? ctx = some cx → SMap.find? (s.core core).sampler ctx = some (r, tick, at_, ptr) →
      cx.lbFlags.getLsbD 0 = true → cx.lbBase ≠ 0 → at_ ≤ s.now → s.Happens (.sampleTick core ctx) fun t =>
        let y : BitVec 16 := (r >>> 1) ^^^ (if r.getLsbD 0 then 0xB400 else 0)
        t.groups = s.groups ∧ t.blocks = s.blocks ∧ ∃ n,
          SMap.find? (t.core core).sampler ctx = some (y, tick + 1, s.now + cx.ibase + y.toNat % 2 ^ cx.jbits, n)) ∧
    (s.host.lcrAt + 2000000 ≤ s.now → s.Happens .lcrFlush fun t => t.host.lcrAt = s.now ∧ t.groups = s.groups ∧ t.blocks = s.blocks ∧
      ∀ c cx k, s.ctx? c = some cx → k / 102 = c → (s.core core).lcrLog = [] → SMap.get 0 (t.core core).lcr k = 0) ∧
    (∀ c, s.ctx? ctx = some c →
      (c.lbBase = 0 → s.Happens (.logbookConfigRead ctx) fun t =>
        t = s.setCtx ctx { c with lbFlags := 0, ibase := 0, jbits := 0, bins := [] }) ∧
      (c.lbBase ≠ 0 → s.Happens (.logbookConfigRead ctx) fun t => ∃ d, t = s.setCtx ctx d ∧ d = { c with lbFlags := d.lbFlags, ibase := d.ibase, jbits := d.jbits, bins := d.bins } ∧
        (∀ w, s.funcRead c.fn (some ctx) (c.lbBase + 24) 4 = some w →
          d.ibase = if 64 ≤ ofBytes w ∧ ofBytes w ≤ 2 ^ 20 then ofBytes w else 0) ∧
        (∀ w, s.funcRead c.fn (some ctx) (c.lbBase + 28) 1 = some w → d.jbits = if ofBytes w ≤ 15 then ofBytes w else 0)))

/-! ### The encoding, the step and the whole machine (chapters 12, 03 and 06) -/

/-- Decode and encode agree (R305, R316): every well-formed instruction word decodes, from the word that encodes it, to itself. -/
def Obligations.EncodeDecodes : Prop :=
  ∀ (i : Instr) (w : BitVec 64), i.wf = true → encode i = some w → decode w = .ok i

/-- Every word has one meaning (R305, R314, R316): a word that decodes is well-formed, and but for NOP, which ignores its other
bits, it is the encoding of what it decodes to. -/
def Obligations.DecodeEncodes : Prop :=
  ∀ (w : BitVec 64) (i : Instr), decode w = .ok i → i.wf = true ∧ (i ≠ .nop → encode i = some w)

/-- Words as the spec writes them out (R307 to R312, R316, and the instruction chapters' examples): NOP, IADDC, ICMP with an immediate,
PPACK, MOVI, FCMP, CVT, REDUX, FENCE, an exchange of lanes' values in memory, ARRIVE, MMA, KCHOL, CALL, LAUNCH, SWR and CTXSAVE; an
unassigned major, the guard 13 and a nonzero reserved bit do not decode. -/
def Obligations.DecodedWords : Prop :=
  decode 0x0060000000000000 = .ok .nop ∧
  decode 0x046100400400600C = .ok (.iaddc ⟨false, 12⟩ false (.v 4) (.v 4) (.v 6) 12 0) ∧
  decode 0x2861001003A003E8 = .ok (.icmpImm ⟨false, 12⟩ .n32 1 (.v 3) .ge 1000) ∧
  decode 0x6160009210543076 = .ok (.ppack ⟨false, 12⟩ (.v 9) [0, 1, 2, 3, 4, 5, 6, 7]) ∧
  decode 0x646000303F800000 = .ok (.movi ⟨false, 12⟩ (.v 3) .b32 0x3F800000) ∧
  decode 0x3B60002006409002 = .ok (.fcmp ⟨false, 12⟩ .f32 2 (.v 6) (.s 9) .lt) ∧
  decode 0x5061002005142000 = .ok (.cvt ⟨false, 12⟩ .rz false .i32 .f32 (.v 2) (.v 5)) ∧
  decode 0x6D60405003DFF006 = .ok (.redux ⟨false, 12⟩ .addN32 (.s 5) (.v 3) (.imm (-1)) 6) ∧
  decode 0x7664000000030000 = .ok (.fence ⟨false, 12⟩ .dev .sc) ∧
  decode 0x800900240A000000 = .ok (.atomExch ⟨false, 1⟩ .n32 2 .global (.s 10) .rlx 0) ∧
  decode 0x9160003000000000 = .ok (.arrive ⟨false, 12⟩ false 3 none) ∧
  decode 0xA36000000100A004 = .ok (.mma ⟨false, 12⟩ .e4m3 0 0 false (.regs (.v 16)) 40 .acc (some 4)) ∧
  decode 0xB760200000020000 = .ok (.kchol ⟨false, 12⟩ 1 0 2) ∧
  decode 0xC26000000FE80000 = .ok (.call ⟨false, 12⟩ 0xFE8) ∧
  decode 0xC86040A40C004000 = .ok (.launch ⟨false, 12⟩ 10 12 4) ∧
  decode 0xD16000043C011000 = .ok (.swr ⟨false, 12⟩ (.s 60) 0x011) ∧
  decode 0xD260000000000002 = .ok (.ctxsaveGrp ⟨false, 12⟩) ∧
  decode 0xC700000000000000 = .error .unassigned ∧
  decode 0xC568000000000000 = .error .badGuard ∧
  decode 0xA260000000000001 = .error .badField

/-- A step runs the decoded instruction (R160, R162, R304, R305): the selected entry's next word, and an event that
the tape names. A word is followed by the platform's bookkeeping, which is given in full by finishWord. The model's
own choices in it: log entries 3, 112, 115. A fetched clause is what memory holds (R4, R116, R301, R304): the header
at the clause's address and as many words after it as the header says, each of 8 bytes in little-endian order, through
the leaf that serves its addresses. -/
def Obligations.StepRunsDecoded : Prop :=
  (∀ (s : State) (i : Instr), s.stuck = none →
     (∀ gid l rest g b j e, s.issueQ = (gid, l) :: rest → s.group? gid = some g → s.block? g.bid = some b →
       g.entryWith l = some j → g.entries[j]? = some e → g.runs = true → g.mayAct j = true → e.code.isSome = true →
       (e.word = 0 → e.waited = true) → e.pairAt e.word = false → decode (e.wordAt e.word) = .ok i →
       step s = finishWord gid g b e (exec i { s with issueQ := rest, cur := some (gid, j) })) ∧
     (∀ rest, s.issueQ = [] → s.inputs = i :: rest → encode i = none → step s = exec i { s with inputs := rest })) ∧
  (∀ (s : State) (gid clause ia : Nat) (g : Group) (b : Block) (c : Context) (leaf : BitVec 64),
     g.fw = false → s.ctx? b.ctx = some c → ia % 256 + 136 ≤ 256 →
     (∀ k ≤ 16, ∃ chk, c.translate (clause + 8 * k) acExec = .ok (ia + 8 * k, chk)) →
     (∀ k ≤ 16, s.AtHand (ia + 8 * k) acExec leaf ∧ s.poisonedAt (leafF leaf) (ia + 8 * k) (leafPA leaf (ia + 8 * k)) = false) →
     ∃ ws, s.fetch gid g b clause = (s, .code ws) ∧ ws.length = bits (ws.headD 0).toNat 52 4 + 2 ∧
       ∀ k < ws.length, ws.getD k 0 =
         BitVec.ofNat 64 (ofBytes ((List.range 8).map fun n => s.byteAt leaf (leafPA leaf (ia + 8 * k) + n))))

/-- Memory keeps its canonical form, whatever step is taken from whatever state (R42, R96): addresses rise strictly
and no listed byte is 0, in device memory and in far memory. The model's own choices in it: log entries 5, 6. -/
def Obligations.StepKeepsMemory : Prop :=
  ∀ (s t : State), Memory.wf s.mem = true → SMap.wf (0 : BitVec 8) s.far = true → step s = .next t →
    Memory.wf t.mem = true ∧ SMap.wf (0 : BitVec 8) t.far = true

/-- What device reset leaves (R86, R95): memory in canonical form, every byte 0; no block, group, context, request or translation;
no key, unlock, fence or alarm; bring-up still to come. Time 0 and the free values' count are the model's choice (log entries 2
and 78). -/
def Obligations.AfterReset : Prop :=
  Memory.wf State.reset.mem = true ∧ (∀ far a, State.reset.readPhys far a = 0) ∧
    State.reset.guard.up = false ∧ State.reset.guard.dead = false ∧ State.reset.guard.fenced = 0 ∧
    State.reset.guard.unlocked = 0 ∧ State.reset.guard.unlockAll = false ∧ State.reset.stuck = none ∧
    (∀ k, State.reset.block? k = none) ∧ (∀ k, State.reset.group? k = none) ∧ (∀ k, State.reset.ctx? k = none) ∧
    (∀ f, State.reset.func f = Func.reset) ∧ (∀ c, State.reset.core c = Core.reset) ∧
    State.reset.md.reqs = [] ∧ State.reset.xl.tlb = [] ∧ State.reset.l1 = [] ∧ State.reset.box = SignalBox.reset ∧
    State.reset.now = 0 ∧ State.reset.free = 0
end

