-- ==== Sys2Proof/Laws/SMap.lean ====
section
/-! SUPPORT. Laws/SMap.lean: what reading after writing gives in sparse data, and that every operation keeps the canonical
form. Device memory is one such map. -/

namespace Sys2Proof.Machine

/-! ### Reading after writing -/

theorem SMap.get_drop_le {α : Type} (d : α) (m : SMap α) (k k' : Nat) (h : k' ≤ k) :
    SMap.get d (m.dropWhile fun e => decide (e.1 ≤ k)) k' = d := by
  induction m with
  | nil => rfl
  | cons e m ih =>
    obtain ⟨j, w⟩ := e
    by_cases hj : j ≤ k
    · simpa [List.dropWhile, hj] using ih
    · simp only [List.dropWhile, hj, decide_false, SMap.get]
      rw [if_neg (by omega), if_pos (by omega)]

theorem SMap.get_drop_gt {α : Type} (d : α) (m : SMap α) (k k' : Nat) (h : k < k') :
    SMap.get d (m.dropWhile fun e => decide (e.1 ≤ k)) k' = SMap.get d m k' := by
  induction m with
  | nil => rfl
  | cons e m ih =>
    obtain ⟨j, w⟩ := e
    by_cases hj : j ≤ k
    · simp only [List.dropWhile, hj, decide_true, SMap.get]
      rw [ih, if_neg (by omega), if_neg (by omega)]
    · simp [List.dropWhile, hj]

@[simp] theorem SMap.get_set_same {α : Type} [DecidableEq α] (d : α) (m : SMap α) (k : Nat) (v : α) :
    SMap.get d (SMap.set d m k v) k = v := by
  induction m with
  | nil => by_cases h : v = d <;> simp [SMap.set, SMap.get, h]
  | cons e m ih =>
    obtain ⟨j, w⟩ := e
    simp only [SMap.set]
    split
    · split
      · rename_i h hv; simp only [SMap.get]; rw [if_neg (by omega), if_pos h, hv]
      · simp [SMap.get]
    · split
      · split
        · rename_i hv; rw [get_drop_le _ _ _ _ (Nat.le_refl _), hv]
        · simp [SMap.get]
      · simp only [SMap.get]; rw [if_neg (by omega), if_neg (by omega), ih]

theorem SMap.get_set_other {α : Type} [DecidableEq α] (d : α) (m : SMap α) (k k' : Nat) (v : α) (h : k' ≠ k) :
    SMap.get d (SMap.set d m k v) k' = SMap.get d m k' := by
  induction m with
  | nil => by_cases hv : v = d <;> simp [SMap.set, SMap.get, hv]; intro e; exact absurd e h
  | cons e m ih =>
    obtain ⟨j, w⟩ := e
    simp only [SMap.set]
    split
    · split
      · rfl
      · simp only [SMap.get]; rw [if_neg h]
        split
        · rw [if_neg (by omega), if_pos (by omega)]
        · rfl
    · split
      · subst_vars
        split
        · simp only [SMap.get]; rw [if_neg h]
          split
          · rw [get_drop_le _ _ _ _ (by omega)]
          · rw [get_drop_gt _ _ _ _ (by omega)]
        · simp only [SMap.get]; rw [if_neg h, if_neg h]
      · simp only [SMap.get, ih]

theorem SMap.get_set {α : Type} [DecidableEq α] (d : α) (m : SMap α) (k k' : Nat) (v : α) :
    SMap.get d (SMap.set d m k v) k' = if k' = k then v else SMap.get d m k' := by
  split
  · subst_vars; simp
  · rename_i h; exact get_set_other d m k k' v h

@[simp] theorem SMap.find_put_same {α : Type} [DecidableEq α] (m : SMap (Option α)) (k : Nat) (v : α) :
    SMap.find? (SMap.put m k v) k = some v := by simp [SMap.find?, SMap.put]
theorem SMap.find_put_other {α : Type} [DecidableEq α] (m : SMap (Option α)) (k k' : Nat) (v : α) (h : k' ≠ k) :
    SMap.find? (SMap.put m k v) k' = SMap.find? m k' := SMap.get_set_other _ _ _ _ _ h
@[simp] theorem SMap.find_del_same {α : Type} [DecidableEq α] (m : SMap (Option α)) (k : Nat) :
    SMap.find? (SMap.del m k) k = none := by simp [SMap.find?, SMap.del]
theorem SMap.find_del_other {α : Type} [DecidableEq α] (m : SMap (Option α)) (k k' : Nat) (h : k' ≠ k) :
    SMap.find? (SMap.del m k) k' = SMap.find? m k' := SMap.get_set_other _ _ _ _ _ h
theorem SMap.find_modify_same {α : Type} [DecidableEq α] (m : SMap (Option α)) (k : Nat) (f : α → α) :
    SMap.find? (SMap.modify m k f) k = (SMap.find? m k).map f := by
  simp only [SMap.modify]
  split <;> simp_all
theorem SMap.find_modify_other {α : Type} [DecidableEq α] (m : SMap (Option α)) (k k' : Nat) (f : α → α) (h : k' ≠ k) :
    SMap.find? (SMap.modify m k f) k' = SMap.find? m k' := by
  simp only [SMap.modify]
  split
  · rfl
  · exact SMap.find_put_other _ _ _ _ h

/-! ### The canonical form -/

theorem SMap.wfFrom_mono {α : Type} [DecidableEq α] (d : α) (m : SMap α) (lo hi : Nat) (h : lo ≤ hi)
    (w : SMap.wfFrom d hi m = true) : SMap.wfFrom d lo m = true := by
  cases m with
  | nil => rfl
  | cons e m =>
    simp only [SMap.wfFrom, Bool.and_eq_true, decide_eq_true_eq] at w ⊢
    exact ⟨⟨by omega, w.1.2⟩, w.2⟩

theorem SMap.wfFrom_drop {α : Type} [DecidableEq α] (d : α) (m : SMap α) (lo k : Nat) (w : SMap.wfFrom d lo m = true) :
    SMap.wfFrom d lo (m.dropWhile fun e => decide (e.1 ≤ k)) = true := by
  induction m generalizing lo with
  | nil => rfl
  | cons e m ih =>
    obtain ⟨j, v⟩ := e
    by_cases hj : j ≤ k
    · simp only [List.dropWhile, hj, decide_true]
      simp only [SMap.wfFrom, Bool.and_eq_true, decide_eq_true_eq] at w
      exact SMap.wfFrom_mono d _ lo (j + 1) (by omega) (ih _ w.2)
    · simpa [List.dropWhile, hj] using w

theorem SMap.wfFrom_set {α : Type} [DecidableEq α] (d : α) (m : SMap α) (lo k : Nat) (v : α) (h : lo ≤ k)
    (w : SMap.wfFrom d lo m = true) : SMap.wfFrom d lo (SMap.set d m k v) = true := by
  induction m generalizing lo with
  | nil => by_cases hv : v = d <;> simp [SMap.set, SMap.wfFrom, hv, h]
  | cons e m ih =>
    obtain ⟨j, u⟩ := e
    have w' := w
    simp only [SMap.wfFrom, Bool.and_eq_true, decide_eq_true_eq] at w
    simp only [SMap.set]
    split
    · split
      · exact w'
      · simp only [SMap.wfFrom, Bool.and_eq_true, decide_eq_true_eq]
        exact ⟨⟨h, by assumption⟩, ⟨by omega, w.1.2⟩, w.2⟩
    · split
      · split
        · exact SMap.wfFrom_mono d _ lo (j + 1) (by omega) (SMap.wfFrom_drop d m _ k w.2)
        · simp only [SMap.wfFrom, Bool.and_eq_true, decide_eq_true_eq]
          refine ⟨⟨h, by assumption⟩, ?_⟩
          subst_vars; exact w.2
      · simp only [SMap.wfFrom, Bool.and_eq_true, decide_eq_true_eq]
        exact ⟨w.1, ih _ (by omega) w.2⟩

/-- Writing keeps the canonical form. -/
theorem SMap.wf_set {α : Type} [DecidableEq α] (d : α) (m : SMap α) (k : Nat) (v : α) (w : SMap.wf d m = true) :
    SMap.wf d (SMap.set d m k v) = true := SMap.wfFrom_set d m 0 k v (Nat.zero_le _) w

/-- Dropping entries keeps the canonical form. -/
theorem SMap.wfFrom_keep {α : Type} [DecidableEq α] (d : α) (m : SMap α) (lo : Nat) (p : Nat → Bool)
    (w : SMap.wfFrom d lo m = true) : SMap.wfFrom d lo (SMap.keep m p) = true := by
  induction m generalizing lo with
  | nil => rfl
  | cons e m ih =>
    simp only [SMap.wfFrom, Bool.and_eq_true, decide_eq_true_eq] at w
    simp only [SMap.keep, List.filter]
    split
    · simp only [SMap.wfFrom, Bool.and_eq_true, decide_eq_true_eq]
      exact ⟨w.1, ih _ w.2⟩
    · exact SMap.wfFrom_mono d _ lo (e.1 + 1) (by omega) (ih _ w.2)

/-- A canonical map is determined by what it reads: equal contents are equal data. -/
theorem SMap.wf_ext {α : Type} [DecidableEq α] (d : α) (m n : SMap α) (lo : Nat) (hm : SMap.wfFrom d lo m = true)
    (hn : SMap.wfFrom d lo n = true) (h : ∀ k, SMap.get d m k = SMap.get d n k) : m = n := by
  induction m generalizing n lo with
  | nil =>
    cases n with
    | nil => rfl
    | cons e n =>
      have := h e.1
      simp only [SMap.wfFrom, Bool.and_eq_true, decide_eq_true_eq] at hn
      simp [SMap.get] at this
      exact absurd this.symm hn.1.2
  | cons e m ih =>
    have below {q : SMap α} {a k : Nat} (w : SMap.wfFrom d a q = true) (hk : k < a) : SMap.get d q k = d := by
      cases q with
      | nil => rfl
      | cons x q =>
        simp only [SMap.wfFrom, Bool.and_eq_true, decide_eq_true_eq] at w
        simp only [SMap.get]; rw [if_neg (by omega), if_pos (by omega)]
    simp only [SMap.wfFrom, Bool.and_eq_true, decide_eq_true_eq] at hm
    cases n with
    | nil => have := h e.1; simp [SMap.get] at this; exact absurd this hm.1.2
    | cons x n =>
      simp only [SMap.wfFrom, Bool.and_eq_true, decide_eq_true_eq] at hn
      have key : e.1 = x.1 := by
        rcases Nat.lt_trichotomy e.1 x.1 with c | c | c
        · have := h e.1; simp only [SMap.get] at this
          rw [if_pos trivial, if_neg (by omega), if_pos c] at this; exact absurd this hm.1.2
        · exact c
        · have := h x.1; simp only [SMap.get] at this
          rw [if_neg (by omega), if_pos c, if_pos trivial] at this; exact absurd this.symm hn.1.2
      have val : e.2 = x.2 := by have := h e.1; simpa [SMap.get, key] using this
      have rest : m = n := by
        refine ih n (e.1 + 1) hm.2 (key ▸ hn.2) fun k => ?_
        rcases Nat.lt_or_ge e.1 k with c | c
        · have := h k; simp only [SMap.get] at this
          rwa [if_neg (by omega), if_neg (by omega), if_neg (by omega), if_neg (by omega)] at this
        · rw [below hm.2 (by omega), below (a := e.1 + 1) (key ▸ hn.2) (by omega)]
      rw [rest]; congr 1; exact Prod.ext key val

/-! ### Device memory -/

@[simp] theorem Memory.read_write_same (m : Memory) (a : Nat) (b : BitVec 8) : Memory.read (Memory.write m a b) a = b := by
  simp [Memory.read, Memory.write]
theorem Memory.read_write_other (m : Memory) (a c : Nat) (b : BitVec 8) (h : c ≠ a) :
    Memory.read (Memory.write m a b) c = Memory.read m c := SMap.get_set_other _ _ _ _ _ h
/-- Writing a byte keeps memory canonical. -/
theorem Memory.wf_write (m : Memory) (a : Nat) (b : BitVec 8) (w : Memory.wf m = true) : Memory.wf (Memory.write m a b) = true :=
  SMap.wf_set _ _ _ _ w
/-- Writing a list of bytes keeps memory canonical. -/
theorem Memory.wf_writeAll (m : Memory) (l : List (Nat × BitVec 8)) (w : Memory.wf m = true) :
    Memory.wf (Memory.writeAll m l) = true := by
  induction l generalizing m with
  | nil => exact w
  | cons e l ih => exact ih _ (Memory.wf_write _ _ _ w)

end Sys2Proof.Machine
end

