-- ==== Sys2Proof/Laws/Words.lean ====
section
/-! SUPPORT. Laws/Words.lean: what the shared operations of the instruction words do. -/

namespace Sys2Proof.Machine

/-! ### Going on changes the split table alone -/

/-- `g` with the registers, flags, fences and join masks of `h`. -/
def Group.dress (g h : Group) : Group :=
  { g with v := h.v, s := h.s, p := h.p, x := h.x, fstat := h.fstat, kstat := h.kstat, xwin := h.xwin, fences := h.fences,
           joinMember := h.joinMember, joinArrived := h.joinArrived }

theorem Group.collapseOnce_dress (g h : Group) : (g.dress h).collapseOnce = (g.collapseOnce).dress h := by
  simp only [Group.collapseOnce, show (g.dress h).bareIdent = g.bareIdent from rfl]
  cases g.bareIdent <;> rfl
theorem Group.collapse_dress (g h : Group) : (g.dress h).collapse = (g.collapse).dress h := by
  simp only [Group.collapse]
  generalize List.range 32 = l
  induction l generalizing g with
  | nil => rfl
  | cons a l ih => simp only [List.foldl_cons, Group.collapseOnce_dress, ih]
theorem Group.fuseAt_dress (g h : Group) (i : Nat) (c : Bool) : (g.dress h).fuseAt i c = (g.fuseAt i c).dress h := by
  simp only [Group.fuseAt, show (g.dress h).entries = g.entries from rfl]
  cases g.entries[i]? with
  | none => rfl
  | some e =>
    simp only
    split
    · rfl
    · split
      · rfl
      · exact Group.collapse_dress { g with entries := _ } h
theorem Group.moveTo_dress (g h : Group) (i t : Nat) : (g.dress h).moveTo i t = (g.moveTo i t).dress h := by
  simp only [Group.moveTo, show (g.dress h).entries = g.entries from rfl]
  cases g.entries[i]? with
  | none => rfl
  | some e => exact Group.fuseAt_dress (g.setEntry i _) h i false
theorem Group.advance_dress (g h : Group) (i : Nat) : (g.dress h).advance i = (g.advance i).dress h := by
  simp only [Group.advance, show (g.dress h).entries = g.entries from rfl]
  cases g.entries[i]? with
  | none => rfl
  | some e =>
    simp only
    split
    · rfl
    · exact Group.moveTo_dress g h i _

theorem Group.collapse_frame (g : Group) : g.collapse = { g with entries := g.collapse.entries, up := g.collapse.up } := by
  simp only [Group.collapse]
  generalize List.range 32 = l
  induction l generalizing g with
  | nil => rfl
  | cons a l ih =>
    simp only [List.foldl_cons]
    rw [ih g.collapseOnce]
    simp only [Group.collapseOnce]
    cases g.bareIdent <;> rfl
theorem Group.fuseAt_frame (g : Group) (i : Nat) (c : Bool) :
    g.fuseAt i c = { g with entries := (g.fuseAt i c).entries, up := (g.fuseAt i c).up } := by
  simp only [Group.fuseAt]
  cases g.entries[i]? with
  | none => rfl
  | some e =>
    simp only
    split
    · rfl
    · split
      · rfl
      · rw [Group.collapse_frame]
theorem Group.moveTo_frame (g : Group) (i t : Nat) :
    g.moveTo i t = { g with entries := (g.moveTo i t).entries, up := (g.moveTo i t).up } := by
  simp only [Group.moveTo]
  cases g.entries[i]? with
  | none => rfl
  | some e => simp only; rw [Group.fuseAt_frame]; rfl
/-- Going on changes the entries and the identifiers alone. -/
theorem Group.advance_frame (g : Group) (i : Nat) :
    g.advance i = { g with entries := (g.advance i).entries, up := (g.advance i).up } := by
  simp only [Group.advance]
  cases g.entries[i]? with
  | none => rfl
  | some e =>
    simp only
    split
    · rfl
    · rw [Group.moveTo_frame]

/-! ### Putting a group back -/

theorem SMap.set_set {α : Type} [DecidableEq α] (d : α) (m : SMap α) (k : Nat) (u v : α) (hu : u ≠ d) (hv : v ≠ d) :
    SMap.set d (SMap.set d m k u) k v = SMap.set d m k v := by
  induction m with
  | nil => simp [SMap.set, hu, hv]
  | cons e m ih =>
    obtain ⟨j, w⟩ := e
    simp only [SMap.set, if_neg hu, if_neg hv]
    split
    · simp [SMap.set, hv]
    · split
      · simp [SMap.set, hv]
      · simp only [SMap.set]; rw [if_neg (by assumption), if_neg (by assumption), ih]
theorem SMap.put_put {α : Type} [DecidableEq α] (m : SMap (Option α)) (k : Nat) (u v : α) :
    SMap.put (SMap.put m k u) k v = SMap.put m k v := SMap.set_set _ _ _ _ _ (by simp) (by simp)

@[simp] theorem State.setGroup_setGroup (s : State) (gid : Nat) (g h : Group) :
    (s.setGroup gid g).setGroup gid h = s.setGroup gid h := by simp [State.setGroup, SMap.put_put]
@[simp] theorem State.group_setGroup (s : State) (gid : Nat) (g : Group) : (s.setGroup gid g).group? gid = some g := by
  simp [State.group?, State.setGroup]
theorem State.modGroup_of (s : State) (gid : Nat) (g : Group) (f : Group → Group) (h : s.group? gid = some g) :
    s.modGroup gid f = s.setGroup gid (f g) := by
  simp only [State.modGroup, State.setGroup, SMap.modify, State.group?] at *
  rw [h]
@[simp] theorem State.modGroup_setGroup (s : State) (gid : Nat) (g : Group) (f : Group → Group) :
    (s.setGroup gid g).modGroup gid f = s.setGroup gid (f g) := by
  rw [State.modGroup_of _ _ g _ (State.group_setGroup ..), State.setGroup_setGroup]

/-! ### A word that can execute -/

theorem State.issuer_group (s : State) (is : Issue) (h : s.issuer = some is) :
    s.group? is.gid = some is.g ∧ is.g.entries[is.i]? = some is.e ∧ s.block? is.g.bid = some is.b := by
  simp only [State.issuer] at h
  split at h
  · cases h
  · split at h
    · cases h
    · split at h
      · cases h; exact ⟨by assumption, by assumption, by assumption⟩
      · cases h

theorem State.canRun_spec (s : State) (i : Instr) (q : Guard) (is : Issue) (h : s.canRun i q = some is) :
    (∃ is0, s.issuer = some is0 ∧ is = is0.with q) ∧ s.group? is.gid = some is.g ∧ is.g.entries[is.i]? = some is.e ∧
    is.act ≠ 0 ∧ s.held is i = false ∧ is.g.scoreHeld is.act i = false ∧ is.g.accepts i = true ∧
    is.g.badLanes i is.act = 0 ∧ is.e.spec = false ∧ is.g.lineSpec = none ∧ (is.endsFence i = true → is.g.late = []) := by
  simp only [State.canRun, Option.filter_eq_some_iff, Option.map_eq_some_iff] at h
  obtain ⟨⟨is0, h0, rfl⟩, h⟩ := h
  simp only [Bool.and_eq_true, bne_iff_ne, ne_eq, Bool.not_eq_true', beq_iff_eq, Option.isNone_iff_eq_none,
    Bool.and_eq_false_iff] at h
  have hg := State.issuer_group s is0 h0
  refine ⟨⟨is0, h0, rfl⟩, hg.1, hg.2.1, h.1.1.1.1.1.1.1, h.1.1.1.1.1.1.2, h.1.1.1.1.1.2, h.1.1.1.1.2, h.1.1.1.2, h.1.1.2, h.1.2, ?_⟩
  intro hf
  rcases h.2 with h2 | h2
  · rw [hf] at h2; cases h2
  · simpa using h2

/-- A word that can execute answers its effect. -/
theorem State.word_canRun (s : State) (i : Instr) (q : Guard) (is : Issue) (run : Issue → State → State)
    (h : s.canRun i q = some is) :
    s.word i q run = .next (run (s.issueOf is i) (s.setGroup is.gid (s.issueOf is i).g)) := by
  obtain ⟨⟨is0, h0, rfl⟩, hg, he, ha, hh, -, hu, hb, hsp, hl, hlate⟩ := State.canRun_spec s i q is h
  have hset : s.settleFences (is0.with q) i = s.setGroup (is0.with q).gid (s.issueOf (is0.with q) i).g := by
    simp only [State.settleFences]
    rw [State.modGroup_of _ _ _ _ hg]; rfl
  have hnow : (is0.with q).now (s.settleFences (is0.with q) i) = s.issueOf (is0.with q) i := by
    rw [hset]; simp [Issue.now, State.issueOf]
  simp only [State.word, h0, hh, Bool.false_eq_true, if_false]
  rw [hnow, hset]
  congr 1
  have hu' : (s.issueOf (is0.with q) i).g.accepts i = true := hu
  have hb' : (s.issueOf (is0.with q) i).g.badLanes i (s.issueOf (is0.with q) i).act = 0 := hb
  have ha' : (s.issueOf (is0.with q) i).act ≠ 0 := ha
  simp only [State.perform, if_neg ha', hu', hb', Bool.not_true, Bool.false_eq_true, if_false, if_true]
  have hsh : (s.issueOf (is0.with q) i).g.shadowed (is0.with q).i (is0.with q).act i = (s.issueOf (is0.with q) i).g := by
    simp only [Group.shadowed, State.issueOf]
    rw [he]; simp [hsp, hl]
  have hm : (s.setGroup (is0.with q).gid (s.issueOf (is0.with q) i).g).modGroup (s.issueOf (is0.with q) i).gid
      (fun g => g.shadowed (s.issueOf (is0.with q) i).i (s.issueOf (is0.with q) i).act i)
      = s.setGroup (is0.with q).gid (s.issueOf (is0.with q) i).g := by
    show (s.setGroup (is0.with q).gid _).modGroup (is0.with q).gid _ = _
    rw [State.modGroup_setGroup]; exact congrArg _ hsh
  have hn : (s.issueOf (is0.with q) i).now (s.setGroup (is0.with q).gid (s.issueOf (is0.with q) i).g) = s.issueOf (is0.with q) i := by
    simp [Issue.now, State.issueOf]
  rw [hm, hn]
  split
  · rename_i hf
    have : (s.issueOf (is0.with q) i).g.late = [] := hlate hf
    simp [State.lateGate, this]
  · rfl

/-! ### Operands read the registers, which the fences do not touch -/

@[simp] theorem State.opnd_issueOf (s : State) (is : Issue) (i : Instr) (w : Bool) (a : Src) (l : Nat) :
    s.opnd (s.issueOf is i) w a l = s.opnd is w a l := rfl
@[simp] theorem State.fopnd_issueOf (s : State) (is : Issue) (i : Instr) (t : FTy) (a : Src) (l : Nat) :
    s.fopnd (s.issueOf is i) t a l = s.fopnd is t a l := rfl
@[simp] theorem State.half_issueOf (s : State) (is : Issue) (i : Instr) (f : Fmt) (a : Src) (h l : Nat) :
    s.half (s.issueOf is i) f a h l = s.half is f a h l := rfl
@[simp] theorem State.bv_issueOf (s : State) (is : Issue) (i : Instr) (n : Nat) (a : Src) (l : Nat) :
    s.bv (s.issueOf is i) n a l = s.bv is n a l := rfl
@[simp] theorem Group.pred_issueOf (s : State) (is : Issue) (i : Instr) (p l : Nat) :
    (s.issueOf is i).g.pred p l = is.g.pred p l := rfl

/-! ### Registers -/

theorem Group.vreg_setV (g : Group) (r l r' l' : Nat) (x : BitVec 32) (h : l < 32) (h' : l' < 32) :
    (g.setV r l x).vreg r' l' = if r' = r ∧ l' = l then x else g.vreg r' l' := by
  simp only [Group.vreg, Group.setV, SMap.get_set]
  by_cases e : r' = r ∧ l' = l
  · rw [if_pos e, if_pos (by omega)]
  · rw [if_neg e, if_neg (by omega)]
@[simp] theorem Group.vreg_setS (g : Group) (r r' l' : Nat) (x : BitVec 32) : (g.setS r x).vreg r' l' = g.vreg r' l' := rfl
theorem Group.sreg_setS (g : Group) (r r' : Nat) (x : BitVec 32) :
    (g.setS r x).sreg r' = if r' = r then x else g.sreg r' := by simp only [Group.sreg, Group.setS, SMap.get_set]
@[simp] theorem Group.sreg_setV (g : Group) (r l r' : Nat) (x : BitVec 32) : (g.setV r l x).sreg r' = g.sreg r' := rfl

theorem Group.writeV_frame (g : Group) (wide : Bool) (r l x : Nat) : g.writeV wide r l x = { g with v := (g.writeV wide r l x).v } := by
  cases wide <;> rfl
theorem Group.vreg_writeV (g : Group) (wide : Bool) (r l x r' l' : Nat) (h : l < 32) (h' : l' < 32)
    (n : ¬ (l' = l ∧ (r' = r ∨ (wide = true ∧ r' = r + 1)))) : (g.writeV wide r l x).vreg r' l' = g.vreg r' l' := by
  cases wide
  · simp only [Group.writeV, Bool.false_eq_true, if_false]
    rw [Group.vreg_setV _ _ _ _ _ _ h h', if_neg]; rintro ⟨rfl, rfl⟩; simp at n
  · simp only [Group.writeV, if_true]
    rw [Group.vreg_setV _ _ _ _ _ _ h h', if_neg, Group.vreg_setV _ _ _ _ _ _ h h', if_neg]
    · rintro ⟨rfl, rfl⟩; simp at n
    · rintro ⟨rfl, rfl⟩; simp at n
theorem two_words (x : Nat) : x % 2 ^ 32 + x / 2 ^ 32 % 2 ^ 32 * 2 ^ 32 = x % 2 ^ 64 := by omega
theorem Group.readV_writeV (g : Group) (wide : Bool) (r l x : Nat) (h : l < 32) :
    (g.writeV wide r l x).readV wide r l = x % 2 ^ (if wide then 64 else 32) := by
  cases wide
  · simp [Group.readV, Group.writeV, Group.vreg_setV _ _ _ _ _ _ h h]
  · simp only [Group.readV, Group.writeV, if_true, Group.vreg_setV _ _ _ _ _ _ h h]
    simp only [Nat.left_eq_add, Nat.succ_ne_self, and_true, and_self, if_true, if_false, BitVec.toNat_ofNat]
    simpa using two_words x
theorem Group.readV_of (g h : Group) (wide : Bool) (r l : Nat) (e : g.vreg r l = h.vreg r l)
    (e' : wide = true → g.vreg (r + 1) l = h.vreg (r + 1) l) : g.readV wide r l = h.readV wide r l := by
  cases wide <;> simp_all [Group.readV]

theorem lanes_lt (m : BitVec 32) (l : Nat) (h : l ∈ lanes m) : l < 32 := by
  simp only [lanes, List.mem_filter, List.mem_range] at h; exact h.1
theorem mem_lanes (m : BitVec 32) (l : Nat) : l ∈ lanes m ↔ l < 32 ∧ lane m l = true := by simp [lanes, lane]
theorem lanes_nodup (m : BitVec 32) : (lanes m).Nodup := List.Nodup.filter _ List.nodup_range

/-- Writing lanes changes the v and s registers alone. -/
theorem Group.writeLanes_frame (g : Group) (wide : Bool) (d : Dst) (ls : List Nat) (f : Nat → Nat) :
    g.writeLanes wide d ls f = { g with v := (g.writeLanes wide d ls f).v, s := (g.writeLanes wide d ls f).s } := by
  induction ls generalizing g with
  | nil => rfl
  | cons a ls ih =>
    simp only [Group.writeLanes, List.foldl_cons] at ih ⊢
    have h := ih (g.put wide d a (f a))
    rw [h]
    cases d <;> cases wide <;> rfl

/-- The register number of a v destination in a lane. -/
def Group.regIn (g : Group) (d : Dst) (l : Nat) : Nat := match d with | .v n => n | .s n => n | .idx k off => g.idxReg k off l

theorem Group.put_v (g : Group) (wide : Bool) (d : Dst) (l x : Nat) (h : dstIsS d = false) :
    g.put wide d l x = g.writeV wide (g.regIn d l) l x := by cases d <;> first | rfl | cases h

theorem Group.writeLanes_v (g : Group) (wide : Bool) (d : Dst) (ls : List Nat) (f : Nat → Nat) (hd : dstIsS d = false)
    (hl : ∀ l ∈ ls, l < 32) (hn : ls.Nodup) :
    (∀ l ∈ ls, (g.writeLanes wide d ls f).readV wide (g.regIn d l) l = f l % 2 ^ (if wide then 64 else 32)) ∧
    (∀ r l, l < 32 → ¬ (l ∈ ls ∧ (r = g.regIn d l ∨ (wide = true ∧ r = g.regIn d l + 1))) →
      (g.writeLanes wide d ls f).vreg r l = g.vreg r l) ∧
    (∀ r, (g.writeLanes wide d ls f).sreg r = g.sreg r) := by
  induction ls generalizing g with
  | nil => exact ⟨by simp, fun _ _ _ _ => rfl, fun _ => rfl⟩
  | cons a ls ih =>
    have ha := hl a (by simp)
    have hput := Group.put_v g wide d a (f a) hd
    have hreg : ∀ l, (g.put wide d a (f a)).regIn d l = g.regIn d l := by
      intro l; rw [hput, Group.writeV_frame]; cases d <;> rfl
    obtain ⟨h1, h2, h3⟩ := ih (g.put wide d a (f a)) (fun l h => hl l (by simp [h])) (List.nodup_cons.mp hn).2
    simp only [hreg] at h1 h2
    have e : g.writeLanes wide d (a :: ls) f = (g.put wide d a (f a)).writeLanes wide d ls f := rfl
    have hna := (List.nodup_cons.mp hn).1
    refine ⟨?_, ?_, ?_⟩
    · intro l hm
      rw [e]
      rcases List.mem_cons.mp hm with rfl | hm
      · rw [Group.readV_of _ (g.put wide d l (f l)) wide _ l (h2 _ _ ha (fun h => hna h.1)) (fun _ => h2 _ _ ha (fun h => hna h.1)),
          hput, Group.readV_writeV _ _ _ _ _ ha]
      · exact h1 l hm
    · intro r l hl32 hnot
      rw [e, h2 r l hl32 (fun h => hnot ⟨by simp [h.1], h.2⟩), hput, Group.vreg_writeV _ _ _ _ _ _ _ ha hl32]
      rintro ⟨rfl, h⟩; exact hnot ⟨by simp, h⟩
    · intro r; rw [e, h3, hput]; cases wide <;> rfl

theorem Group.writeS_spec (g : Group) (wide : Bool) (n x : Nat) :
    (g.writeS wide n x).readS wide n = x % 2 ^ (if wide then 64 else 32) ∧
    (∀ r, ¬ (r = n ∨ (wide = true ∧ r = n + 1)) → (g.writeS wide n x).sreg r = g.sreg r) ∧
    (∀ r l, (g.writeS wide n x).vreg r l = g.vreg r l) := by
  cases wide
  · refine ⟨by simp [Group.readS, Group.writeS, Group.sreg_setS], fun r h => ?_, fun _ _ => rfl⟩
    simp only [Group.writeS, Bool.false_eq_true, if_false, Group.sreg_setS]
    rw [if_neg]; simpa using h
  · refine ⟨?_, fun r h => ?_, fun _ _ => rfl⟩
    · simp only [Group.readS, Group.writeS, if_true, Group.sreg_setS]
      simp only [Nat.left_eq_add, Nat.succ_ne_self, if_false, BitVec.toNat_ofNat]
      simpa using two_words x
    · simp only [Group.writeS, if_true, Group.sreg_setS]
      simp only [true_and, not_or] at h
      rw [if_neg h.2, if_neg h.1]

/-- What writing the working lanes of a word leaves in the registers. -/
theorem Issue.writeLanes_spec (is : Issue) (wide : Bool) (d : Dst) (f : Nat → Nat) :
    (∀ l ∈ is.work d, (is.g.writeLanes wide d (is.work d) f).dstVal wide d l = f l % 2 ^ (if wide then 64 else 32)) ∧
    is.g.OnlyDst (is.g.writeLanes wide d (is.work d) f) is wide d := by
  by_cases hd : dstIsS d = true
  · cases d with
    | s n =>
      have hw : is.work (.s n) = (lanes is.act).take 1 := rfl
      rw [hw]
      cases hc : lanes is.act with
      | nil => exact ⟨by simp, fun _ _ _ _ => rfl, fun _ _ => rfl⟩
      | cons a l =>
        have e : is.g.writeLanes wide (.s n) [a] f = is.g.writeS wide n (f a) := rfl
        have hs := Group.writeS_spec is.g wide n (f a)
        refine ⟨?_, ?_, ?_⟩
        · intro l hl; simp only [List.take, List.mem_singleton] at hl; subst hl; exact hs.1
        · intro r l _ _; exact hs.2.2 r l
        · intro r h
          refine hs.2.1 r ?_
          simp only [hitsS, Bool.or_eq_false_iff, beq_eq_false_iff_ne, Bool.and_eq_false_iff] at h
          rintro (h' | h')
          · exact h.1 h'
          · rcases h.2 with h'' | h''
            · rw [h'.1] at h''; cases h''
            · exact h'' h'.2
    | v n => cases hd
    | idx k o => cases hd
  · simp only [Bool.not_eq_true] at hd
    have hw : is.work d = lanes is.act := by simp [Issue.work, hd]
    obtain ⟨h1, h2, h3⟩ := Group.writeLanes_v is.g wide d (lanes is.act) f hd (lanes_lt _) (lanes_nodup _)
    rw [hw]
    refine ⟨?_, ?_, fun r _ => h3 r⟩
    · intro l hl
      have := h1 l hl
      rw [Group.writeLanes_frame]
      cases d with
      | v n => rw [Group.writeLanes_frame] at this; exact this
      | s n => cases hd
      | idx k o => rw [Group.writeLanes_frame] at this; exact this
    · intro r l hl h
      refine h2 r l hl ?_
      rintro ⟨hm, hr⟩
      rw [← hw] at hm
      cases d with
      | v n => simp [Issue.hitsV, hm] at h; rcases hr with hr | hr; exacts [h.1 hr, h.2 hr.1 hr.2]
      | s n => cases hd
      | idx k o => simp [Issue.hitsV, hm] at h; rcases hr with hr | hr; exacts [h.1 hr, h.2 hr.1 hr.2]

/-! ### Masks, predicates and flags -/

theorem lane_bit (l k : Nat) (hk : k < 32) : lane (bit l) k = decide (k = l) := by
  simp only [lane, bit, BitVec.getLsbD_ofNat, Nat.testBit_two_pow, hk, decide_true, Bool.true_and]
  by_cases h : l = k <;> simp [h, eq_comm]
theorem lane_maskOf (p : Nat → Bool) (l : Nat) (h : l < 32) : lane (maskOf p) l = p l := by
  have key : ∀ (ls : List Nat) (m : BitVec 32),
      lane (ls.foldl (fun m l => if p l then m ||| bit l else m) m) l = (lane m l || (decide (l ∈ ls) && p l)) := by
    intro ls
    induction ls with
    | nil => simp
    | cons a ls ih =>
      intro m
      rw [List.foldl_cons, ih]
      by_cases e : l = a
      · subst e
        cases hp : p l <;> simp [lane, BitVec.getLsbD_or]
        have := lane_bit l l h; simp [lane] at this; simp [this]
      · by_cases hp : p a = true
        · have := lane_bit a l h; simp only [lane, e, decide_false] at this
          simp [lane, BitVec.getLsbD_or, hp, this, e]
        · simp [hp, e]
  rw [maskOf, key]; simp [h, lane]
@[simp] theorem lane_and (a b : BitVec 32) (l : Nat) : lane (a &&& b) l = (lane a l && lane b l) := by simp [lane]
@[simp] theorem lane_or (a b : BitVec 32) (l : Nat) : lane (a ||| b) l = (lane a l || lane b l) := by simp [lane]
theorem lane_not (a : BitVec 32) (l : Nat) (h : l < 32) : lane (~~~a) l = !lane a l := by simp [lane, h]

theorem Group.setPreds_frame (g : Group) (k : Nat) (ls vs : BitVec 32) : g.setPreds k ls vs = { g with p := (g.setPreds k ls vs).p } := by
  simp only [Group.setPreds]; split <;> rfl
theorem Group.pred_setPreds (g : Group) (k j l : Nat) (ls vs : BitVec 32) (hj : j < 12) (hl : l < 32) :
    (g.setPreds k ls vs).pred j l = if j = k ∧ lane ls l = true then lane vs l else g.pred j l := by
  simp only [Group.setPreds, Group.pred, hj, if_true]
  by_cases hk : k < 12
  · simp only [hk, if_true, Group.setPredMask, Group.predMask, SMap.get_set]
    by_cases e : j = k
    · simp only [e, if_true, lane_or, lane_and, lane_not _ _ hl, true_and]
      cases lane ls l <;> simp
    · simp [e]
  · simp only [hk, if_false]; rw [if_neg]; rintro ⟨rfl, -⟩; exact hk hj

theorem Group.joinFlags_frame (g : Group) (ls : List Nat) (f : Nat → Flags) :
    g.joinFlags ls f = { g with fstat := (g.joinFlags ls f).fstat } := by
  induction ls generalizing g with
  | nil => rfl
  | cons a ls ih => simp only [Group.joinFlags, List.foldl_cons] at ih ⊢; rw [ih (g.orFlags a (f a))]; rfl
theorem Group.fst_joinFlags (g : Group) (ls : List Nat) (f : Nat → Flags) (hn : ls.Nodup) (l : Nat) :
    (g.joinFlags ls f).fst l = if l ∈ ls then g.fst l ||| (f l).setWidth 32 else g.fst l := by
  induction ls generalizing g with
  | nil => rfl
  | cons a ls ih =>
    have h := ih (g.orFlags a (f a)) (List.nodup_cons.mp hn).2
    simp only [Group.joinFlags, List.foldl_cons] at h ⊢
    rw [h]
    have ha := (List.nodup_cons.mp hn).1
    have hf : (g.orFlags a (f a)).fst l = if l = a then g.fst a ||| (f a).setWidth 32 else g.fst l := by
      simp only [Group.orFlags, Group.fst, Group.setFst, SMap.get_set]
    rw [hf]
    by_cases e : l = a
    · subst e; simp [ha]
    · simp [e]

/-! ### The forms of the lane-select words -/

theorem Issue.work_issueOf (s : State) (is : Issue) (i : Instr) (d : Dst) : (s.issueOf is i).work d = is.work d := rfl

/-- A word with one register result per working lane computes it. -/
theorem State.word_alu (s : State) (i : Instr) (q : Guard) (is : Issue) (wide : Bool) (d : Dst) (f : Issue → Nat → Nat)
    (h : s.canRun i q = some is) :
    ∃ t, s.word i q (fun is' => State.alu is' wide d (f is')) = .next t ∧ s.Computes t is wide d (f (s.issueOf is i)) := by
  refine ⟨_, State.word_canRun s i q is _ h, ?_⟩
  have hs := Issue.writeLanes_spec (s.issueOf is i) wide d (f (s.issueOf is i))
  have hf := Group.writeLanes_frame (s.issueOf is i).g wide d (is.work d) (f (s.issueOf is i))
  generalize hw : (s.issueOf is i).g.writeLanes wide d (is.work d) (f (s.issueOf is i)) = w at hf
  have hs' : (∀ l ∈ is.work d, w.dstVal wide d l = f (s.issueOf is i) l % 2 ^ (if wide then 64 else 32)) ∧
    is.g.OnlyDst w is wide d := by subst hw; exact hs
  have hw' : w = is.g.dress w := by rw [hf]; rfl
  refine ⟨w.advance is.i, ?_, ?_, ?_, ?_⟩
  · simp only [State.alu, State.goOn, Issue.work_issueOf, hw]
    show ((s.setGroup is.gid _).setGroup is.gid w).modGroup is.gid _ = _
    simp only [State.setGroup_setGroup, State.modGroup_setGroup]; rfl
  · rw [hw', Group.advance_dress, Group.advance_frame, hf]; rfl
  · intro l hl; rw [← hs'.1 l hl, hw', Group.advance_dress]; cases d <;> rfl
  · refine ⟨fun r l hl h => ?_, fun r h => ?_⟩
    · rw [← hs'.2.1 r l hl h, hw', Group.advance_dress]; rfl
    · rw [← hs'.2.2 r h, hw', Group.advance_dress]; rfl

/-- The group that a word leaves, with its entry gone on. -/
theorem State.goOn_setGroup (s : State) (is is' : Issue) (g0 g : Group) (h : is'.gid = is.gid) (hi : is'.i = is.i) :
    State.goOn ((s.setGroup is.gid g0).setGroup is.gid g) is' = s.setGroup is.gid (g.advance is.i) := by
  simp only [State.goOn, h, hi, State.setGroup_setGroup, State.modGroup_setGroup]

/-- A word with one result and exception flags per lane computes them. -/
theorem State.word_falu (s : State) (i : Instr) (q : Guard) (is : Issue) (wide : Bool) (d : Dst) (f : Issue → Nat → Nat × Flags)
    (h : s.canRun i q = some is) :
    ∃ t, s.word i q (fun is' => State.falu is' wide d (f is')) = .next t ∧
      s.ComputesFlags t is wide d (f (s.issueOf is i)) := by
  refine ⟨_, State.word_canRun s i q is _ h, ?_⟩
  have hs := Issue.writeLanes_spec (s.issueOf is i) wide d (fun l => (f (s.issueOf is i) l).1)
  have hf := Group.writeLanes_frame (s.issueOf is i).g wide d (is.work d) (fun l => (f (s.issueOf is i) l).1)
  generalize hw : (s.issueOf is i).g.writeLanes wide d (is.work d) (fun l => (f (s.issueOf is i) l).1) = w at hf
  have hs' : (∀ l ∈ is.work d, w.dstVal wide d l = (f (s.issueOf is i) l).1 % 2 ^ (if wide then 64 else 32)) ∧
    is.g.OnlyDst w is wide d := by subst hw; exact hs
  have hj := Group.joinFlags_frame w (lanes is.act) fun l => (f (s.issueOf is i) (if dstIsS d then is.low else l)).2
  have hv := Group.fst_joinFlags w (lanes is.act) (fun l => (f (s.issueOf is i) (if dstIsS d then is.low else l)).2) (lanes_nodup _)
  generalize hu : (w.joinFlags (lanes is.act) fun l => (f (s.issueOf is i) (if dstIsS d then is.low else l)).2) = u at hj hv
  have hw' : u = is.g.dress u := by rw [hj, hf]; rfl
  refine ⟨u.advance is.i, ?_, ?_, ?_, ⟨fun r l hl h => ?_, fun r h => ?_⟩, ?_⟩
  · simp only [State.falu, Issue.work_issueOf, hw]
    rw [show (lanes (s.issueOf is i).act) = lanes is.act from rfl, show (s.issueOf is i).low = is.low from rfl, hu]
    exact State.goOn_setGroup s is _ _ _ rfl rfl
  · rw [hw', Group.advance_dress, Group.advance_frame, hj, hf]; rfl
  · intro l hl; rw [← hs'.1 l hl, hw', Group.advance_dress, hj]; cases d <;> rfl
  · rw [← hs'.2.1 r l hl h, hw', Group.advance_dress, hj]; rfl
  · rw [← hs'.2.2 r h, hw', Group.advance_dress, hj]; rfl
  · intro l hl
    have e : (u.advance is.i).fst l = u.fst l := by rw [Group.advance_frame]; rfl
    have e' : w.fst l = is.g.fst l := by rw [hf]; rfl
    rw [e, hv, e']
    by_cases hm : lane is.act l = true
    · rw [if_pos ((mem_lanes _ _).2 ⟨hl, hm⟩), if_pos hm]
    · rw [if_neg (fun c => hm ((mem_lanes _ _).1 c).2), if_neg hm]

/-- A word that writes one predicate decides it. -/
theorem State.word_pred (s : State) (i : Instr) (q : Guard) (is : Issue) (pd : Nat) (f : Issue → Nat → Bool)
    (h : s.canRun i q = some is) :
    ∃ t, s.word i q (fun is' => State.predAlu is' pd fun l => (f is' l, 0)) = .next t ∧
      s.Decides t is pd (f (s.issueOf is i)) := by
  refine ⟨_, State.word_canRun s i q is _ h, ?_⟩
  have hp := Group.setPreds_frame (s.issueOf is i).g pd is.act (maskOf fun l => lane is.act l && f (s.issueOf is i) l)
  have hv := fun k l (hk : k < 12) (hl : l < 32) =>
    Group.pred_setPreds (s.issueOf is i).g pd k l is.act (maskOf fun l => lane is.act l && f (s.issueOf is i) l) hk hl
  generalize hw : (s.issueOf is i).g.setPreds pd is.act (maskOf fun l => lane is.act l && f (s.issueOf is i) l) = w at hp hv
  have hj := Group.joinFlags_frame w (lanes is.act) fun _ => (0 : Flags)
  have hfl := Group.fst_joinFlags w (lanes is.act) (fun _ => (0 : Flags)) (lanes_nodup _)
  generalize hu : w.joinFlags (lanes is.act) (fun _ => (0 : Flags)) = u at hj hfl
  have hw' : u = is.g.dress u := by rw [hj, hp]; rfl
  have e : ∀ k l, (u.advance is.i).pred k l = w.pred k l := by intro k l; rw [Group.advance_frame, hj]; rfl
  refine ⟨u.advance is.i, ?_, ?_, ?_, ?_, ?_⟩
  · simp only [State.predAlu]
    rw [show (s.issueOf is i).act = is.act from rfl, hw, hu]
    exact State.goOn_setGroup s is _ _ _ rfl rfl
  · rw [hw', Group.advance_dress, Group.advance_frame, hj, hp]; rfl
  · intro l
    have e1 : (u.advance is.i).fst l = u.fst l := by rw [Group.advance_frame]; rfl
    have e2 : w.fst l = is.g.fst l := by rw [hp]; rfl
    rw [e1, hfl, e2]; split <;> simp
  · intro l hl ha hk
    rw [e, hv pd l hk hl, if_pos ⟨rfl, ha⟩, lane_maskOf _ _ hl, ha]; simp
  · intro k hk l hl hne
    rw [e, hv k l hk hl, if_neg]; · rfl
    rintro ⟨rfl, h⟩; rcases hne with h' | h'
    · exact h' rfl
    · rw [h] at h'; cases h'

theorem State.predWord_canRun (s : State) (i : Instr) (q : Guard) (is : Issue) (run : Issue → State → State)
    (h : s.canRun i q = some is) : s.predWord i q run = s.word i q run := by
  obtain ⟨⟨is0, h0, rfl⟩, -, -, -, -, hsc, -⟩ := State.canRun_spec s i q is h
  simp only [State.predWord, h0, hsc, Bool.false_eq_true, if_false]

/-- What a word with a register result and a predicate leaves. -/
theorem State.computesPred_of (s : State) (is : Issue) (i : Instr) (wide : Bool) (d : Dst) (f : Nat → Nat) (pd : Nat)
    (vs : BitVec 32) :
    s.ComputesPred (State.goOn ((s.setGroup is.gid (s.issueOf is i).g).setGroup is.gid
      (((s.issueOf is i).g.writeLanes wide d (is.work d) f).setPreds pd is.act vs)) is) is wide d f pd (lane vs) := by
  have hs := Issue.writeLanes_spec (s.issueOf is i) wide d f
  have hf := Group.writeLanes_frame (s.issueOf is i).g wide d (is.work d) f
  generalize hw : (s.issueOf is i).g.writeLanes wide d (is.work d) f = w at hf
  have hs' : (∀ l ∈ is.work d, w.dstVal wide d l = f l % 2 ^ (if wide then 64 else 32)) ∧
    is.g.OnlyDst w is wide d := by subst hw; exact hs
  have hp := Group.setPreds_frame w pd is.act vs
  have hv := fun k l (hk : k < 12) (hl : l < 32) => Group.pred_setPreds w pd k l is.act vs hk hl
  generalize hu : w.setPreds pd is.act vs = u at hp hv
  have hw' : u = is.g.dress u := by rw [hp, hf]; rfl
  have e : ∀ k l, (u.advance is.i).pred k l = u.pred k l := by intro k l; rw [Group.advance_frame]; rfl
  refine ⟨u.advance is.i, State.goOn_setGroup s is _ _ _ rfl rfl, ?_, ?_, ⟨fun r l hl h => ?_, fun r h => ?_⟩, ?_, ?_⟩
  · rw [hw', Group.advance_dress, Group.advance_frame, hp, hf]; rfl
  · intro l hl; rw [← hs'.1 l hl, hw', Group.advance_dress, hp]; cases d <;> rfl
  · rw [← hs'.2.1 r l hl h, hw', Group.advance_dress, hp]; rfl
  · rw [← hs'.2.2 r h, hw', Group.advance_dress, hp]; rfl
  · intro l hl ha hk; rw [e, hv pd l hk hl, if_pos ⟨rfl, ha⟩]
  · intro k hk l hl hne
    rw [e, hv k l hk hl, if_neg]
    · rw [hf]; rfl
    · rintro ⟨rfl, h⟩; rcases hne with h' | h'
      · exact h' rfl
      · rw [h] at h'; cases h'

end Sys2Proof.Machine
end

