-- ==== Sys2Proof/Laws/Ints.lean ====
section
/-! SUPPORT. Laws/Ints.lean: integer operands and results over bit vectors (R328). -/

namespace Sys2Proof.Machine

theorem sext_toInt (n x : Nat) (hn : 0 < n) : sext n x = (BitVec.ofNat n x).toInt := by
  obtain ⟨k, rfl⟩ : ∃ k, n = k + 1 := ⟨n - 1, by omega⟩
  have e : (2 : Nat) ^ (k + 1) = 2 * 2 ^ k := by rw [Nat.pow_succ]; omega
  have e' : ((2 ^ (k + 1) : Nat) : Int) = 2 ^ (k + 1) := by push_cast; rfl
  simp only [sext, BitVec.toInt_eq_toNat_cond, BitVec.toNat_ofNat, Nat.add_sub_cancel]
  by_cases h : x % 2 ^ (k + 1) < 2 ^ k
  · rw [if_pos h, if_pos (by omega)]
  · rw [if_neg h, if_neg (by omega), e']
theorem wrap_toNat (n : Nat) (x : Int) : wrap n x = (BitVec.ofInt n x).toNat := by
  simp [wrap, BitVec.toNat_ofInt]

end Sys2Proof.Machine

namespace Sys2Proof

theorem IntTy.width_pos (t : IntTy) : 0 < t.width := by cases t <;> decide

/-- The two readings of a source agree. -/
theorem IntTy.val_eq (t : IntTy) (x : Nat) : t.val x = t.read x := by
  simp only [IntTy.val, IntTy.read]
  split
  · exact Machine.sext_toInt _ _ t.width_pos
  · simp

theorem short_result (w : Nat) (q : Int) (h : 0 < w) :
    Machine.wrap 32 (Machine.sext w (Machine.wrap w q)) = ((BitVec.ofInt w q).signExtend 32).toNat := by
  rw [Machine.wrap_toNat 32, Machine.wrap_toNat w, Machine.sext_toInt _ _ h, BitVec.ofNat_toNat, BitVec.setWidth_eq]
  rfl

/-- The two writings of a result agree. -/
theorem IntTy.result_eq (t : IntTy) (q : Int) : t.result q = t.written q := by
  cases t
  case i32 => show Machine.wrap 32 q = ((BitVec.ofInt 32 q).signExtend 32).toNat; rw [Machine.wrap_toNat, BitVec.signExtend_eq]
  case i64 => show Machine.wrap 64 q = ((BitVec.ofInt 64 q).signExtend 64).toNat; rw [Machine.wrap_toNat, BitVec.signExtend_eq]
  case i16 => exact short_result 16 q (by decide)
  case i8 => exact short_result 8 q (by decide)
  all_goals exact Machine.wrap_toNat _ q

theorem IntTy.result_lt (t : IntTy) (q : Int) : t.result q < 2 ^ (if t.is64 then 64 else 32) := by
  have small : ∀ (w : Nat) (x : Int), Machine.wrap w x < 2 ^ w := by
    intro w x; rw [Machine.wrap_toNat]; exact BitVec.isLt _
  cases t <;> simp [IntTy.result, IntTy.width, IntTy.signed, IntTy.is64] <;>
    first | exact small _ _ | exact Nat.lt_trans (small _ _) (by decide)

end Sys2Proof
end

