-- ==== Sys2Proof/Laws/State.lean ====
section
/-! SUPPORT. Laws/State.lean: what each update of the state leaves, field by field, and what reading after it gives. -/

namespace Sys2Proof.Machine

/-! ### setGroup changes groups alone -/

@[simp] theorem State.setGroup_now (s : State) (gid : Nat) (g : Group) : (s.setGroup gid g).now = s.now := rfl
@[simp] theorem State.setGroup_pace (s : State) (gid : Nat) (g : Group) : (s.setGroup gid g).pace = s.pace := rfl
@[simp] theorem State.setGroup_picks (s : State) (gid : Nat) (g : Group) : (s.setGroup gid g).picks = s.picks := rfl
@[simp] theorem State.setGroup_free (s : State) (gid : Nat) (g : Group) : (s.setGroup gid g).free = s.free := rfl
@[simp] theorem State.setGroup_inputs (s : State) (gid : Nat) (g : Group) : (s.setGroup gid g).inputs = s.inputs := rfl
@[simp] theorem State.setGroup_issueQ (s : State) (gid : Nat) (g : Group) : (s.setGroup gid g).issueQ = s.issueQ := rfl
@[simp] theorem State.setGroup_cur (s : State) (gid : Nat) (g : Group) : (s.setGroup gid g).cur = s.cur := rfl
@[simp] theorem State.setGroup_turn (s : State) (gid : Nat) (g : Group) : (s.setGroup gid g).turn = s.turn := rfl
@[simp] theorem State.setGroup_mem (s : State) (gid : Nat) (g : Group) : (s.setGroup gid g).mem = s.mem := rfl
@[simp] theorem State.setGroup_far (s : State) (gid : Nat) (g : Group) : (s.setGroup gid g).far = s.far := rfl
@[simp] theorem State.setGroup_md (s : State) (gid : Nat) (g : Group) : (s.setGroup gid g).md = s.md := rfl
@[simp] theorem State.setGroup_xl (s : State) (gid : Nat) (g : Group) : (s.setGroup gid g).xl = s.xl := rfl
@[simp] theorem State.setGroup_l1 (s : State) (gid : Nat) (g : Group) : (s.setGroup gid g).l1 = s.l1 := rfl
@[simp] theorem State.setGroup_fab (s : State) (gid : Nat) (g : Group) : (s.setGroup gid g).fab = s.fab := rfl
@[simp] theorem State.setGroup_host (s : State) (gid : Nat) (g : Group) : (s.setGroup gid g).host = s.host := rfl
@[simp] theorem State.setGroup_guard (s : State) (gid : Nat) (g : Group) : (s.setGroup gid g).guard = s.guard := rfl
@[simp] theorem State.setGroup_box (s : State) (gid : Nat) (g : Group) : (s.setGroup gid g).box = s.box := rfl
@[simp] theorem State.setGroup_cores (s : State) (gid : Nat) (g : Group) : (s.setGroup gid g).cores = s.cores := rfl
@[simp] theorem State.setGroup_blocks (s : State) (gid : Nat) (g : Group) : (s.setGroup gid g).blocks = s.blocks := rfl
@[simp] theorem State.setGroup_nextBlock (s : State) (gid : Nat) (g : Group) : (s.setGroup gid g).nextBlock = s.nextBlock := rfl
@[simp] theorem State.setGroup_arrivals (s : State) (gid : Nat) (g : Group) : (s.setGroup gid g).arrivals = s.arrivals := rfl

/-! ### modGroup changes groups alone -/

@[simp] theorem State.modGroup_now (s : State) (gid : Nat) (f : Group → Group) : (s.modGroup gid f).now = s.now := rfl
@[simp] theorem State.modGroup_pace (s : State) (gid : Nat) (f : Group → Group) : (s.modGroup gid f).pace = s.pace := rfl
@[simp] theorem State.modGroup_picks (s : State) (gid : Nat) (f : Group → Group) : (s.modGroup gid f).picks = s.picks := rfl
@[simp] theorem State.modGroup_free (s : State) (gid : Nat) (f : Group → Group) : (s.modGroup gid f).free = s.free := rfl
@[simp] theorem State.modGroup_inputs (s : State) (gid : Nat) (f : Group → Group) : (s.modGroup gid f).inputs = s.inputs := rfl
@[simp] theorem State.modGroup_issueQ (s : State) (gid : Nat) (f : Group → Group) : (s.modGroup gid f).issueQ = s.issueQ := rfl
@[simp] theorem State.modGroup_cur (s : State) (gid : Nat) (f : Group → Group) : (s.modGroup gid f).cur = s.cur := rfl
@[simp] theorem State.modGroup_turn (s : State) (gid : Nat) (f : Group → Group) : (s.modGroup gid f).turn = s.turn := rfl
@[simp] theorem State.modGroup_mem (s : State) (gid : Nat) (f : Group → Group) : (s.modGroup gid f).mem = s.mem := rfl
@[simp] theorem State.modGroup_far (s : State) (gid : Nat) (f : Group → Group) : (s.modGroup gid f).far = s.far := rfl
@[simp] theorem State.modGroup_md (s : State) (gid : Nat) (f : Group → Group) : (s.modGroup gid f).md = s.md := rfl
@[simp] theorem State.modGroup_xl (s : State) (gid : Nat) (f : Group → Group) : (s.modGroup gid f).xl = s.xl := rfl
@[simp] theorem State.modGroup_l1 (s : State) (gid : Nat) (f : Group → Group) : (s.modGroup gid f).l1 = s.l1 := rfl
@[simp] theorem State.modGroup_fab (s : State) (gid : Nat) (f : Group → Group) : (s.modGroup gid f).fab = s.fab := rfl
@[simp] theorem State.modGroup_host (s : State) (gid : Nat) (f : Group → Group) : (s.modGroup gid f).host = s.host := rfl
@[simp] theorem State.modGroup_guard (s : State) (gid : Nat) (f : Group → Group) : (s.modGroup gid f).guard = s.guard := rfl
@[simp] theorem State.modGroup_box (s : State) (gid : Nat) (f : Group → Group) : (s.modGroup gid f).box = s.box := rfl
@[simp] theorem State.modGroup_cores (s : State) (gid : Nat) (f : Group → Group) : (s.modGroup gid f).cores = s.cores := rfl
@[simp] theorem State.modGroup_blocks (s : State) (gid : Nat) (f : Group → Group) : (s.modGroup gid f).blocks = s.blocks := rfl
@[simp] theorem State.modGroup_nextBlock (s : State) (gid : Nat) (f : Group → Group) : (s.modGroup gid f).nextBlock = s.nextBlock := rfl
@[simp] theorem State.modGroup_arrivals (s : State) (gid : Nat) (f : Group → Group) : (s.modGroup gid f).arrivals = s.arrivals := rfl

/-! ### setBlock changes blocks alone -/

@[simp] theorem State.setBlock_now (s : State) (bid : Nat) (b : Block) : (s.setBlock bid b).now = s.now := rfl
@[simp] theorem State.setBlock_pace (s : State) (bid : Nat) (b : Block) : (s.setBlock bid b).pace = s.pace := rfl
@[simp] theorem State.setBlock_picks (s : State) (bid : Nat) (b : Block) : (s.setBlock bid b).picks = s.picks := rfl
@[simp] theorem State.setBlock_free (s : State) (bid : Nat) (b : Block) : (s.setBlock bid b).free = s.free := rfl
@[simp] theorem State.setBlock_inputs (s : State) (bid : Nat) (b : Block) : (s.setBlock bid b).inputs = s.inputs := rfl
@[simp] theorem State.setBlock_issueQ (s : State) (bid : Nat) (b : Block) : (s.setBlock bid b).issueQ = s.issueQ := rfl
@[simp] theorem State.setBlock_cur (s : State) (bid : Nat) (b : Block) : (s.setBlock bid b).cur = s.cur := rfl
@[simp] theorem State.setBlock_turn (s : State) (bid : Nat) (b : Block) : (s.setBlock bid b).turn = s.turn := rfl
@[simp] theorem State.setBlock_mem (s : State) (bid : Nat) (b : Block) : (s.setBlock bid b).mem = s.mem := rfl
@[simp] theorem State.setBlock_far (s : State) (bid : Nat) (b : Block) : (s.setBlock bid b).far = s.far := rfl
@[simp] theorem State.setBlock_md (s : State) (bid : Nat) (b : Block) : (s.setBlock bid b).md = s.md := rfl
@[simp] theorem State.setBlock_xl (s : State) (bid : Nat) (b : Block) : (s.setBlock bid b).xl = s.xl := rfl
@[simp] theorem State.setBlock_l1 (s : State) (bid : Nat) (b : Block) : (s.setBlock bid b).l1 = s.l1 := rfl
@[simp] theorem State.setBlock_fab (s : State) (bid : Nat) (b : Block) : (s.setBlock bid b).fab = s.fab := rfl
@[simp] theorem State.setBlock_host (s : State) (bid : Nat) (b : Block) : (s.setBlock bid b).host = s.host := rfl
@[simp] theorem State.setBlock_guard (s : State) (bid : Nat) (b : Block) : (s.setBlock bid b).guard = s.guard := rfl
@[simp] theorem State.setBlock_box (s : State) (bid : Nat) (b : Block) : (s.setBlock bid b).box = s.box := rfl
@[simp] theorem State.setBlock_cores (s : State) (bid : Nat) (b : Block) : (s.setBlock bid b).cores = s.cores := rfl
@[simp] theorem State.setBlock_nextBlock (s : State) (bid : Nat) (b : Block) : (s.setBlock bid b).nextBlock = s.nextBlock := rfl
@[simp] theorem State.setBlock_groups (s : State) (bid : Nat) (b : Block) : (s.setBlock bid b).groups = s.groups := rfl
@[simp] theorem State.setBlock_arrivals (s : State) (bid : Nat) (b : Block) : (s.setBlock bid b).arrivals = s.arrivals := rfl

/-! ### modBlock changes blocks alone -/

@[simp] theorem State.modBlock_now (s : State) (bid : Nat) (f : Block → Block) : (s.modBlock bid f).now = s.now := rfl
@[simp] theorem State.modBlock_pace (s : State) (bid : Nat) (f : Block → Block) : (s.modBlock bid f).pace = s.pace := rfl
@[simp] theorem State.modBlock_picks (s : State) (bid : Nat) (f : Block → Block) : (s.modBlock bid f).picks = s.picks := rfl
@[simp] theorem State.modBlock_free (s : State) (bid : Nat) (f : Block → Block) : (s.modBlock bid f).free = s.free := rfl
@[simp] theorem State.modBlock_inputs (s : State) (bid : Nat) (f : Block → Block) : (s.modBlock bid f).inputs = s.inputs := rfl
@[simp] theorem State.modBlock_issueQ (s : State) (bid : Nat) (f : Block → Block) : (s.modBlock bid f).issueQ = s.issueQ := rfl
@[simp] theorem State.modBlock_cur (s : State) (bid : Nat) (f : Block → Block) : (s.modBlock bid f).cur = s.cur := rfl
@[simp] theorem State.modBlock_turn (s : State) (bid : Nat) (f : Block → Block) : (s.modBlock bid f).turn = s.turn := rfl
@[simp] theorem State.modBlock_mem (s : State) (bid : Nat) (f : Block → Block) : (s.modBlock bid f).mem = s.mem := rfl
@[simp] theorem State.modBlock_far (s : State) (bid : Nat) (f : Block → Block) : (s.modBlock bid f).far = s.far := rfl
@[simp] theorem State.modBlock_md (s : State) (bid : Nat) (f : Block → Block) : (s.modBlock bid f).md = s.md := rfl
@[simp] theorem State.modBlock_xl (s : State) (bid : Nat) (f : Block → Block) : (s.modBlock bid f).xl = s.xl := rfl
@[simp] theorem State.modBlock_l1 (s : State) (bid : Nat) (f : Block → Block) : (s.modBlock bid f).l1 = s.l1 := rfl
@[simp] theorem State.modBlock_fab (s : State) (bid : Nat) (f : Block → Block) : (s.modBlock bid f).fab = s.fab := rfl
@[simp] theorem State.modBlock_host (s : State) (bid : Nat) (f : Block → Block) : (s.modBlock bid f).host = s.host := rfl
@[simp] theorem State.modBlock_guard (s : State) (bid : Nat) (f : Block → Block) : (s.modBlock bid f).guard = s.guard := rfl
@[simp] theorem State.modBlock_box (s : State) (bid : Nat) (f : Block → Block) : (s.modBlock bid f).box = s.box := rfl
@[simp] theorem State.modBlock_cores (s : State) (bid : Nat) (f : Block → Block) : (s.modBlock bid f).cores = s.cores := rfl
@[simp] theorem State.modBlock_nextBlock (s : State) (bid : Nat) (f : Block → Block) : (s.modBlock bid f).nextBlock = s.nextBlock := rfl
@[simp] theorem State.modBlock_groups (s : State) (bid : Nat) (f : Block → Block) : (s.modBlock bid f).groups = s.groups := rfl
@[simp] theorem State.modBlock_arrivals (s : State) (bid : Nat) (f : Block → Block) : (s.modBlock bid f).arrivals = s.arrivals := rfl

/-! ### setCore changes cores alone -/

@[simp] theorem State.setCore_now (s : State) (c : Nat) (k : Core) : (s.setCore c k).now = s.now := rfl
@[simp] theorem State.setCore_pace (s : State) (c : Nat) (k : Core) : (s.setCore c k).pace = s.pace := rfl
@[simp] theorem State.setCore_picks (s : State) (c : Nat) (k : Core) : (s.setCore c k).picks = s.picks := rfl
@[simp] theorem State.setCore_free (s : State) (c : Nat) (k : Core) : (s.setCore c k).free = s.free := rfl
@[simp] theorem State.setCore_inputs (s : State) (c : Nat) (k : Core) : (s.setCore c k).inputs = s.inputs := rfl
@[simp] theorem State.setCore_issueQ (s : State) (c : Nat) (k : Core) : (s.setCore c k).issueQ = s.issueQ := rfl
@[simp] theorem State.setCore_cur (s : State) (c : Nat) (k : Core) : (s.setCore c k).cur = s.cur := rfl
@[simp] theorem State.setCore_turn (s : State) (c : Nat) (k : Core) : (s.setCore c k).turn = s.turn := rfl
@[simp] theorem State.setCore_mem (s : State) (c : Nat) (k : Core) : (s.setCore c k).mem = s.mem := rfl
@[simp] theorem State.setCore_far (s : State) (c : Nat) (k : Core) : (s.setCore c k).far = s.far := rfl
@[simp] theorem State.setCore_md (s : State) (c : Nat) (k : Core) : (s.setCore c k).md = s.md := rfl
@[simp] theorem State.setCore_xl (s : State) (c : Nat) (k : Core) : (s.setCore c k).xl = s.xl := rfl
@[simp] theorem State.setCore_l1 (s : State) (c : Nat) (k : Core) : (s.setCore c k).l1 = s.l1 := rfl
@[simp] theorem State.setCore_fab (s : State) (c : Nat) (k : Core) : (s.setCore c k).fab = s.fab := rfl
@[simp] theorem State.setCore_host (s : State) (c : Nat) (k : Core) : (s.setCore c k).host = s.host := rfl
@[simp] theorem State.setCore_guard (s : State) (c : Nat) (k : Core) : (s.setCore c k).guard = s.guard := rfl
@[simp] theorem State.setCore_box (s : State) (c : Nat) (k : Core) : (s.setCore c k).box = s.box := rfl
@[simp] theorem State.setCore_blocks (s : State) (c : Nat) (k : Core) : (s.setCore c k).blocks = s.blocks := rfl
@[simp] theorem State.setCore_nextBlock (s : State) (c : Nat) (k : Core) : (s.setCore c k).nextBlock = s.nextBlock := rfl
@[simp] theorem State.setCore_groups (s : State) (c : Nat) (k : Core) : (s.setCore c k).groups = s.groups := rfl
@[simp] theorem State.setCore_arrivals (s : State) (c : Nat) (k : Core) : (s.setCore c k).arrivals = s.arrivals := rfl

/-! ### modCore changes cores alone -/

@[simp] theorem State.modCore_now (s : State) (c : Nat) (f : Core → Core) : (s.modCore c f).now = s.now := rfl
@[simp] theorem State.modCore_pace (s : State) (c : Nat) (f : Core → Core) : (s.modCore c f).pace = s.pace := rfl
@[simp] theorem State.modCore_picks (s : State) (c : Nat) (f : Core → Core) : (s.modCore c f).picks = s.picks := rfl
@[simp] theorem State.modCore_free (s : State) (c : Nat) (f : Core → Core) : (s.modCore c f).free = s.free := rfl
@[simp] theorem State.modCore_inputs (s : State) (c : Nat) (f : Core → Core) : (s.modCore c f).inputs = s.inputs := rfl
@[simp] theorem State.modCore_issueQ (s : State) (c : Nat) (f : Core → Core) : (s.modCore c f).issueQ = s.issueQ := rfl
@[simp] theorem State.modCore_cur (s : State) (c : Nat) (f : Core → Core) : (s.modCore c f).cur = s.cur := rfl
@[simp] theorem State.modCore_turn (s : State) (c : Nat) (f : Core → Core) : (s.modCore c f).turn = s.turn := rfl
@[simp] theorem State.modCore_mem (s : State) (c : Nat) (f : Core → Core) : (s.modCore c f).mem = s.mem := rfl
@[simp] theorem State.modCore_far (s : State) (c : Nat) (f : Core → Core) : (s.modCore c f).far = s.far := rfl
@[simp] theorem State.modCore_md (s : State) (c : Nat) (f : Core → Core) : (s.modCore c f).md = s.md := rfl
@[simp] theorem State.modCore_xl (s : State) (c : Nat) (f : Core → Core) : (s.modCore c f).xl = s.xl := rfl
@[simp] theorem State.modCore_l1 (s : State) (c : Nat) (f : Core → Core) : (s.modCore c f).l1 = s.l1 := rfl
@[simp] theorem State.modCore_fab (s : State) (c : Nat) (f : Core → Core) : (s.modCore c f).fab = s.fab := rfl
@[simp] theorem State.modCore_host (s : State) (c : Nat) (f : Core → Core) : (s.modCore c f).host = s.host := rfl
@[simp] theorem State.modCore_guard (s : State) (c : Nat) (f : Core → Core) : (s.modCore c f).guard = s.guard := rfl
@[simp] theorem State.modCore_box (s : State) (c : Nat) (f : Core → Core) : (s.modCore c f).box = s.box := rfl
@[simp] theorem State.modCore_blocks (s : State) (c : Nat) (f : Core → Core) : (s.modCore c f).blocks = s.blocks := rfl
@[simp] theorem State.modCore_nextBlock (s : State) (c : Nat) (f : Core → Core) : (s.modCore c f).nextBlock = s.nextBlock := rfl
@[simp] theorem State.modCore_groups (s : State) (c : Nat) (f : Core → Core) : (s.modCore c f).groups = s.groups := rfl
@[simp] theorem State.modCore_arrivals (s : State) (c : Nat) (f : Core → Core) : (s.modCore c f).arrivals = s.arrivals := rfl

/-! ### setCtx changes host alone -/

@[simp] theorem State.setCtx_now (s : State) (c : Nat) (x : Context) : (s.setCtx c x).now = s.now := rfl
@[simp] theorem State.setCtx_pace (s : State) (c : Nat) (x : Context) : (s.setCtx c x).pace = s.pace := rfl
@[simp] theorem State.setCtx_picks (s : State) (c : Nat) (x : Context) : (s.setCtx c x).picks = s.picks := rfl
@[simp] theorem State.setCtx_free (s : State) (c : Nat) (x : Context) : (s.setCtx c x).free = s.free := rfl
@[simp] theorem State.setCtx_inputs (s : State) (c : Nat) (x : Context) : (s.setCtx c x).inputs = s.inputs := rfl
@[simp] theorem State.setCtx_issueQ (s : State) (c : Nat) (x : Context) : (s.setCtx c x).issueQ = s.issueQ := rfl
@[simp] theorem State.setCtx_cur (s : State) (c : Nat) (x : Context) : (s.setCtx c x).cur = s.cur := rfl
@[simp] theorem State.setCtx_turn (s : State) (c : Nat) (x : Context) : (s.setCtx c x).turn = s.turn := rfl
@[simp] theorem State.setCtx_mem (s : State) (c : Nat) (x : Context) : (s.setCtx c x).mem = s.mem := rfl
@[simp] theorem State.setCtx_far (s : State) (c : Nat) (x : Context) : (s.setCtx c x).far = s.far := rfl
@[simp] theorem State.setCtx_md (s : State) (c : Nat) (x : Context) : (s.setCtx c x).md = s.md := rfl
@[simp] theorem State.setCtx_xl (s : State) (c : Nat) (x : Context) : (s.setCtx c x).xl = s.xl := rfl
@[simp] theorem State.setCtx_l1 (s : State) (c : Nat) (x : Context) : (s.setCtx c x).l1 = s.l1 := rfl
@[simp] theorem State.setCtx_fab (s : State) (c : Nat) (x : Context) : (s.setCtx c x).fab = s.fab := rfl
@[simp] theorem State.setCtx_guard (s : State) (c : Nat) (x : Context) : (s.setCtx c x).guard = s.guard := rfl
@[simp] theorem State.setCtx_box (s : State) (c : Nat) (x : Context) : (s.setCtx c x).box = s.box := rfl
@[simp] theorem State.setCtx_cores (s : State) (c : Nat) (x : Context) : (s.setCtx c x).cores = s.cores := rfl
@[simp] theorem State.setCtx_blocks (s : State) (c : Nat) (x : Context) : (s.setCtx c x).blocks = s.blocks := rfl
@[simp] theorem State.setCtx_nextBlock (s : State) (c : Nat) (x : Context) : (s.setCtx c x).nextBlock = s.nextBlock := rfl
@[simp] theorem State.setCtx_groups (s : State) (c : Nat) (x : Context) : (s.setCtx c x).groups = s.groups := rfl
@[simp] theorem State.setCtx_arrivals (s : State) (c : Nat) (x : Context) : (s.setCtx c x).arrivals = s.arrivals := rfl

/-! ### modCtx changes host alone -/

@[simp] theorem State.modCtx_now (s : State) (c : Nat) (f : Context → Context) : (s.modCtx c f).now = s.now := rfl
@[simp] theorem State.modCtx_pace (s : State) (c : Nat) (f : Context → Context) : (s.modCtx c f).pace = s.pace := rfl
@[simp] theorem State.modCtx_picks (s : State) (c : Nat) (f : Context → Context) : (s.modCtx c f).picks = s.picks := rfl
@[simp] theorem State.modCtx_free (s : State) (c : Nat) (f : Context → Context) : (s.modCtx c f).free = s.free := rfl
@[simp] theorem State.modCtx_inputs (s : State) (c : Nat) (f : Context → Context) : (s.modCtx c f).inputs = s.inputs := rfl
@[simp] theorem State.modCtx_issueQ (s : State) (c : Nat) (f : Context → Context) : (s.modCtx c f).issueQ = s.issueQ := rfl
@[simp] theorem State.modCtx_cur (s : State) (c : Nat) (f : Context → Context) : (s.modCtx c f).cur = s.cur := rfl
@[simp] theorem State.modCtx_turn (s : State) (c : Nat) (f : Context → Context) : (s.modCtx c f).turn = s.turn := rfl
@[simp] theorem State.modCtx_mem (s : State) (c : Nat) (f : Context → Context) : (s.modCtx c f).mem = s.mem := rfl
@[simp] theorem State.modCtx_far (s : State) (c : Nat) (f : Context → Context) : (s.modCtx c f).far = s.far := rfl
@[simp] theorem State.modCtx_md (s : State) (c : Nat) (f : Context → Context) : (s.modCtx c f).md = s.md := rfl
@[simp] theorem State.modCtx_xl (s : State) (c : Nat) (f : Context → Context) : (s.modCtx c f).xl = s.xl := rfl
@[simp] theorem State.modCtx_l1 (s : State) (c : Nat) (f : Context → Context) : (s.modCtx c f).l1 = s.l1 := rfl
@[simp] theorem State.modCtx_fab (s : State) (c : Nat) (f : Context → Context) : (s.modCtx c f).fab = s.fab := rfl
@[simp] theorem State.modCtx_guard (s : State) (c : Nat) (f : Context → Context) : (s.modCtx c f).guard = s.guard := rfl
@[simp] theorem State.modCtx_box (s : State) (c : Nat) (f : Context → Context) : (s.modCtx c f).box = s.box := rfl
@[simp] theorem State.modCtx_cores (s : State) (c : Nat) (f : Context → Context) : (s.modCtx c f).cores = s.cores := rfl
@[simp] theorem State.modCtx_blocks (s : State) (c : Nat) (f : Context → Context) : (s.modCtx c f).blocks = s.blocks := rfl
@[simp] theorem State.modCtx_nextBlock (s : State) (c : Nat) (f : Context → Context) : (s.modCtx c f).nextBlock = s.nextBlock := rfl
@[simp] theorem State.modCtx_groups (s : State) (c : Nat) (f : Context → Context) : (s.modCtx c f).groups = s.groups := rfl
@[simp] theorem State.modCtx_arrivals (s : State) (c : Nat) (f : Context → Context) : (s.modCtx c f).arrivals = s.arrivals := rfl

/-! ### setFunc changes host alone -/

@[simp] theorem State.setFunc_now (s : State) (n : Nat) (x : Func) : (s.setFunc n x).now = s.now := rfl
@[simp] theorem State.setFunc_pace (s : State) (n : Nat) (x : Func) : (s.setFunc n x).pace = s.pace := rfl
@[simp] theorem State.setFunc_picks (s : State) (n : Nat) (x : Func) : (s.setFunc n x).picks = s.picks := rfl
@[simp] theorem State.setFunc_free (s : State) (n : Nat) (x : Func) : (s.setFunc n x).free = s.free := rfl
@[simp] theorem State.setFunc_inputs (s : State) (n : Nat) (x : Func) : (s.setFunc n x).inputs = s.inputs := rfl
@[simp] theorem State.setFunc_issueQ (s : State) (n : Nat) (x : Func) : (s.setFunc n x).issueQ = s.issueQ := rfl
@[simp] theorem State.setFunc_cur (s : State) (n : Nat) (x : Func) : (s.setFunc n x).cur = s.cur := rfl
@[simp] theorem State.setFunc_turn (s : State) (n : Nat) (x : Func) : (s.setFunc n x).turn = s.turn := rfl
@[simp] theorem State.setFunc_mem (s : State) (n : Nat) (x : Func) : (s.setFunc n x).mem = s.mem := rfl
@[simp] theorem State.setFunc_far (s : State) (n : Nat) (x : Func) : (s.setFunc n x).far = s.far := rfl
@[simp] theorem State.setFunc_md (s : State) (n : Nat) (x : Func) : (s.setFunc n x).md = s.md := rfl
@[simp] theorem State.setFunc_xl (s : State) (n : Nat) (x : Func) : (s.setFunc n x).xl = s.xl := rfl
@[simp] theorem State.setFunc_l1 (s : State) (n : Nat) (x : Func) : (s.setFunc n x).l1 = s.l1 := rfl
@[simp] theorem State.setFunc_fab (s : State) (n : Nat) (x : Func) : (s.setFunc n x).fab = s.fab := rfl
@[simp] theorem State.setFunc_guard (s : State) (n : Nat) (x : Func) : (s.setFunc n x).guard = s.guard := rfl
@[simp] theorem State.setFunc_box (s : State) (n : Nat) (x : Func) : (s.setFunc n x).box = s.box := rfl
@[simp] theorem State.setFunc_cores (s : State) (n : Nat) (x : Func) : (s.setFunc n x).cores = s.cores := rfl
@[simp] theorem State.setFunc_blocks (s : State) (n : Nat) (x : Func) : (s.setFunc n x).blocks = s.blocks := rfl
@[simp] theorem State.setFunc_nextBlock (s : State) (n : Nat) (x : Func) : (s.setFunc n x).nextBlock = s.nextBlock := rfl
@[simp] theorem State.setFunc_groups (s : State) (n : Nat) (x : Func) : (s.setFunc n x).groups = s.groups := rfl
@[simp] theorem State.setFunc_arrivals (s : State) (n : Nat) (x : Func) : (s.setFunc n x).arrivals = s.arrivals := rfl

/-! ### modFunc changes host alone -/

@[simp] theorem State.modFunc_now (s : State) (n : Nat) (f : Func → Func) : (s.modFunc n f).now = s.now := rfl
@[simp] theorem State.modFunc_pace (s : State) (n : Nat) (f : Func → Func) : (s.modFunc n f).pace = s.pace := rfl
@[simp] theorem State.modFunc_picks (s : State) (n : Nat) (f : Func → Func) : (s.modFunc n f).picks = s.picks := rfl
@[simp] theorem State.modFunc_free (s : State) (n : Nat) (f : Func → Func) : (s.modFunc n f).free = s.free := rfl
@[simp] theorem State.modFunc_inputs (s : State) (n : Nat) (f : Func → Func) : (s.modFunc n f).inputs = s.inputs := rfl
@[simp] theorem State.modFunc_issueQ (s : State) (n : Nat) (f : Func → Func) : (s.modFunc n f).issueQ = s.issueQ := rfl
@[simp] theorem State.modFunc_cur (s : State) (n : Nat) (f : Func → Func) : (s.modFunc n f).cur = s.cur := rfl
@[simp] theorem State.modFunc_turn (s : State) (n : Nat) (f : Func → Func) : (s.modFunc n f).turn = s.turn := rfl
@[simp] theorem State.modFunc_mem (s : State) (n : Nat) (f : Func → Func) : (s.modFunc n f).mem = s.mem := rfl
@[simp] theorem State.modFunc_far (s : State) (n : Nat) (f : Func → Func) : (s.modFunc n f).far = s.far := rfl
@[simp] theorem State.modFunc_md (s : State) (n : Nat) (f : Func → Func) : (s.modFunc n f).md = s.md := rfl
@[simp] theorem State.modFunc_xl (s : State) (n : Nat) (f : Func → Func) : (s.modFunc n f).xl = s.xl := rfl
@[simp] theorem State.modFunc_l1 (s : State) (n : Nat) (f : Func → Func) : (s.modFunc n f).l1 = s.l1 := rfl
@[simp] theorem State.modFunc_fab (s : State) (n : Nat) (f : Func → Func) : (s.modFunc n f).fab = s.fab := rfl
@[simp] theorem State.modFunc_guard (s : State) (n : Nat) (f : Func → Func) : (s.modFunc n f).guard = s.guard := rfl
@[simp] theorem State.modFunc_box (s : State) (n : Nat) (f : Func → Func) : (s.modFunc n f).box = s.box := rfl
@[simp] theorem State.modFunc_cores (s : State) (n : Nat) (f : Func → Func) : (s.modFunc n f).cores = s.cores := rfl
@[simp] theorem State.modFunc_blocks (s : State) (n : Nat) (f : Func → Func) : (s.modFunc n f).blocks = s.blocks := rfl
@[simp] theorem State.modFunc_nextBlock (s : State) (n : Nat) (f : Func → Func) : (s.modFunc n f).nextBlock = s.nextBlock := rfl
@[simp] theorem State.modFunc_groups (s : State) (n : Nat) (f : Func → Func) : (s.modFunc n f).groups = s.groups := rfl
@[simp] theorem State.modFunc_arrivals (s : State) (n : Nat) (f : Func → Func) : (s.modFunc n f).arrivals = s.arrivals := rfl

/-! ### modMd changes md alone -/

@[simp] theorem State.modMd_now (s : State) (f : MemDies → MemDies) : (s.modMd f).now = s.now := rfl
@[simp] theorem State.modMd_pace (s : State) (f : MemDies → MemDies) : (s.modMd f).pace = s.pace := rfl
@[simp] theorem State.modMd_picks (s : State) (f : MemDies → MemDies) : (s.modMd f).picks = s.picks := rfl
@[simp] theorem State.modMd_free (s : State) (f : MemDies → MemDies) : (s.modMd f).free = s.free := rfl
@[simp] theorem State.modMd_inputs (s : State) (f : MemDies → MemDies) : (s.modMd f).inputs = s.inputs := rfl
@[simp] theorem State.modMd_issueQ (s : State) (f : MemDies → MemDies) : (s.modMd f).issueQ = s.issueQ := rfl
@[simp] theorem State.modMd_cur (s : State) (f : MemDies → MemDies) : (s.modMd f).cur = s.cur := rfl
@[simp] theorem State.modMd_turn (s : State) (f : MemDies → MemDies) : (s.modMd f).turn = s.turn := rfl
@[simp] theorem State.modMd_mem (s : State) (f : MemDies → MemDies) : (s.modMd f).mem = s.mem := rfl
@[simp] theorem State.modMd_far (s : State) (f : MemDies → MemDies) : (s.modMd f).far = s.far := rfl
@[simp] theorem State.modMd_xl (s : State) (f : MemDies → MemDies) : (s.modMd f).xl = s.xl := rfl
@[simp] theorem State.modMd_l1 (s : State) (f : MemDies → MemDies) : (s.modMd f).l1 = s.l1 := rfl
@[simp] theorem State.modMd_fab (s : State) (f : MemDies → MemDies) : (s.modMd f).fab = s.fab := rfl
@[simp] theorem State.modMd_host (s : State) (f : MemDies → MemDies) : (s.modMd f).host = s.host := rfl
@[simp] theorem State.modMd_guard (s : State) (f : MemDies → MemDies) : (s.modMd f).guard = s.guard := rfl
@[simp] theorem State.modMd_box (s : State) (f : MemDies → MemDies) : (s.modMd f).box = s.box := rfl
@[simp] theorem State.modMd_cores (s : State) (f : MemDies → MemDies) : (s.modMd f).cores = s.cores := rfl
@[simp] theorem State.modMd_blocks (s : State) (f : MemDies → MemDies) : (s.modMd f).blocks = s.blocks := rfl
@[simp] theorem State.modMd_nextBlock (s : State) (f : MemDies → MemDies) : (s.modMd f).nextBlock = s.nextBlock := rfl
@[simp] theorem State.modMd_groups (s : State) (f : MemDies → MemDies) : (s.modMd f).groups = s.groups := rfl
@[simp] theorem State.modMd_arrivals (s : State) (f : MemDies → MemDies) : (s.modMd f).arrivals = s.arrivals := rfl

/-! ### modXl changes xl alone -/

@[simp] theorem State.modXl_now (s : State) (f : Xlate → Xlate) : (s.modXl f).now = s.now := rfl
@[simp] theorem State.modXl_pace (s : State) (f : Xlate → Xlate) : (s.modXl f).pace = s.pace := rfl
@[simp] theorem State.modXl_picks (s : State) (f : Xlate → Xlate) : (s.modXl f).picks = s.picks := rfl
@[simp] theorem State.modXl_free (s : State) (f : Xlate → Xlate) : (s.modXl f).free = s.free := rfl
@[simp] theorem State.modXl_inputs (s : State) (f : Xlate → Xlate) : (s.modXl f).inputs = s.inputs := rfl
@[simp] theorem State.modXl_issueQ (s : State) (f : Xlate → Xlate) : (s.modXl f).issueQ = s.issueQ := rfl
@[simp] theorem State.modXl_cur (s : State) (f : Xlate → Xlate) : (s.modXl f).cur = s.cur := rfl
@[simp] theorem State.modXl_turn (s : State) (f : Xlate → Xlate) : (s.modXl f).turn = s.turn := rfl
@[simp] theorem State.modXl_mem (s : State) (f : Xlate → Xlate) : (s.modXl f).mem = s.mem := rfl
@[simp] theorem State.modXl_far (s : State) (f : Xlate → Xlate) : (s.modXl f).far = s.far := rfl
@[simp] theorem State.modXl_md (s : State) (f : Xlate → Xlate) : (s.modXl f).md = s.md := rfl
@[simp] theorem State.modXl_l1 (s : State) (f : Xlate → Xlate) : (s.modXl f).l1 = s.l1 := rfl
@[simp] theorem State.modXl_fab (s : State) (f : Xlate → Xlate) : (s.modXl f).fab = s.fab := rfl
@[simp] theorem State.modXl_host (s : State) (f : Xlate → Xlate) : (s.modXl f).host = s.host := rfl
@[simp] theorem State.modXl_guard (s : State) (f : Xlate → Xlate) : (s.modXl f).guard = s.guard := rfl
@[simp] theorem State.modXl_box (s : State) (f : Xlate → Xlate) : (s.modXl f).box = s.box := rfl
@[simp] theorem State.modXl_cores (s : State) (f : Xlate → Xlate) : (s.modXl f).cores = s.cores := rfl
@[simp] theorem State.modXl_blocks (s : State) (f : Xlate → Xlate) : (s.modXl f).blocks = s.blocks := rfl
@[simp] theorem State.modXl_nextBlock (s : State) (f : Xlate → Xlate) : (s.modXl f).nextBlock = s.nextBlock := rfl
@[simp] theorem State.modXl_groups (s : State) (f : Xlate → Xlate) : (s.modXl f).groups = s.groups := rfl
@[simp] theorem State.modXl_arrivals (s : State) (f : Xlate → Xlate) : (s.modXl f).arrivals = s.arrivals := rfl

/-! ### modTask changes box alone -/

@[simp] theorem State.modTask_now (s : State) (t : Nat) (f : Task → Task) : (s.modTask t f).now = s.now := rfl
@[simp] theorem State.modTask_pace (s : State) (t : Nat) (f : Task → Task) : (s.modTask t f).pace = s.pace := rfl
@[simp] theorem State.modTask_picks (s : State) (t : Nat) (f : Task → Task) : (s.modTask t f).picks = s.picks := rfl
@[simp] theorem State.modTask_free (s : State) (t : Nat) (f : Task → Task) : (s.modTask t f).free = s.free := rfl
@[simp] theorem State.modTask_inputs (s : State) (t : Nat) (f : Task → Task) : (s.modTask t f).inputs = s.inputs := rfl
@[simp] theorem State.modTask_issueQ (s : State) (t : Nat) (f : Task → Task) : (s.modTask t f).issueQ = s.issueQ := rfl
@[simp] theorem State.modTask_cur (s : State) (t : Nat) (f : Task → Task) : (s.modTask t f).cur = s.cur := rfl
@[simp] theorem State.modTask_turn (s : State) (t : Nat) (f : Task → Task) : (s.modTask t f).turn = s.turn := rfl
@[simp] theorem State.modTask_mem (s : State) (t : Nat) (f : Task → Task) : (s.modTask t f).mem = s.mem := rfl
@[simp] theorem State.modTask_far (s : State) (t : Nat) (f : Task → Task) : (s.modTask t f).far = s.far := rfl
@[simp] theorem State.modTask_md (s : State) (t : Nat) (f : Task → Task) : (s.modTask t f).md = s.md := rfl
@[simp] theorem State.modTask_xl (s : State) (t : Nat) (f : Task → Task) : (s.modTask t f).xl = s.xl := rfl
@[simp] theorem State.modTask_l1 (s : State) (t : Nat) (f : Task → Task) : (s.modTask t f).l1 = s.l1 := rfl
@[simp] theorem State.modTask_fab (s : State) (t : Nat) (f : Task → Task) : (s.modTask t f).fab = s.fab := rfl
@[simp] theorem State.modTask_host (s : State) (t : Nat) (f : Task → Task) : (s.modTask t f).host = s.host := rfl
@[simp] theorem State.modTask_guard (s : State) (t : Nat) (f : Task → Task) : (s.modTask t f).guard = s.guard := rfl
@[simp] theorem State.modTask_cores (s : State) (t : Nat) (f : Task → Task) : (s.modTask t f).cores = s.cores := rfl
@[simp] theorem State.modTask_blocks (s : State) (t : Nat) (f : Task → Task) : (s.modTask t f).blocks = s.blocks := rfl
@[simp] theorem State.modTask_nextBlock (s : State) (t : Nat) (f : Task → Task) : (s.modTask t f).nextBlock = s.nextBlock := rfl
@[simp] theorem State.modTask_groups (s : State) (t : Nat) (f : Task → Task) : (s.modTask t f).groups = s.groups := rfl
@[simp] theorem State.modTask_arrivals (s : State) (t : Nat) (f : Task → Task) : (s.modTask t f).arrivals = s.arrivals := rfl

/-! ### dropL1 changes l1 alone -/

@[simp] theorem State.dropL1_now (s : State) (die ia : Nat) : (s.dropL1 die ia).now = s.now := rfl
@[simp] theorem State.dropL1_pace (s : State) (die ia : Nat) : (s.dropL1 die ia).pace = s.pace := rfl
@[simp] theorem State.dropL1_picks (s : State) (die ia : Nat) : (s.dropL1 die ia).picks = s.picks := rfl
@[simp] theorem State.dropL1_free (s : State) (die ia : Nat) : (s.dropL1 die ia).free = s.free := rfl
@[simp] theorem State.dropL1_inputs (s : State) (die ia : Nat) : (s.dropL1 die ia).inputs = s.inputs := rfl
@[simp] theorem State.dropL1_issueQ (s : State) (die ia : Nat) : (s.dropL1 die ia).issueQ = s.issueQ := rfl
@[simp] theorem State.dropL1_cur (s : State) (die ia : Nat) : (s.dropL1 die ia).cur = s.cur := rfl
@[simp] theorem State.dropL1_turn (s : State) (die ia : Nat) : (s.dropL1 die ia).turn = s.turn := rfl
@[simp] theorem State.dropL1_mem (s : State) (die ia : Nat) : (s.dropL1 die ia).mem = s.mem := rfl
@[simp] theorem State.dropL1_far (s : State) (die ia : Nat) : (s.dropL1 die ia).far = s.far := rfl
@[simp] theorem State.dropL1_md (s : State) (die ia : Nat) : (s.dropL1 die ia).md = s.md := rfl
@[simp] theorem State.dropL1_xl (s : State) (die ia : Nat) : (s.dropL1 die ia).xl = s.xl := rfl
@[simp] theorem State.dropL1_fab (s : State) (die ia : Nat) : (s.dropL1 die ia).fab = s.fab := rfl
@[simp] theorem State.dropL1_host (s : State) (die ia : Nat) : (s.dropL1 die ia).host = s.host := rfl
@[simp] theorem State.dropL1_guard (s : State) (die ia : Nat) : (s.dropL1 die ia).guard = s.guard := rfl
@[simp] theorem State.dropL1_box (s : State) (die ia : Nat) : (s.dropL1 die ia).box = s.box := rfl
@[simp] theorem State.dropL1_cores (s : State) (die ia : Nat) : (s.dropL1 die ia).cores = s.cores := rfl
@[simp] theorem State.dropL1_blocks (s : State) (die ia : Nat) : (s.dropL1 die ia).blocks = s.blocks := rfl
@[simp] theorem State.dropL1_nextBlock (s : State) (die ia : Nat) : (s.dropL1 die ia).nextBlock = s.nextBlock := rfl
@[simp] theorem State.dropL1_groups (s : State) (die ia : Nat) : (s.dropL1 die ia).groups = s.groups := rfl
@[simp] theorem State.dropL1_arrivals (s : State) (die ia : Nat) : (s.dropL1 die ia).arrivals = s.arrivals := rfl

/-! ### putLog changes groups alone -/

@[simp] theorem State.putLog_now (s : State) (gid slot : Nat) (o : OpEntry) : (s.putLog gid slot o).now = s.now := rfl
@[simp] theorem State.putLog_pace (s : State) (gid slot : Nat) (o : OpEntry) : (s.putLog gid slot o).pace = s.pace := rfl
@[simp] theorem State.putLog_picks (s : State) (gid slot : Nat) (o : OpEntry) : (s.putLog gid slot o).picks = s.picks := rfl
@[simp] theorem State.putLog_free (s : State) (gid slot : Nat) (o : OpEntry) : (s.putLog gid slot o).free = s.free := rfl
@[simp] theorem State.putLog_inputs (s : State) (gid slot : Nat) (o : OpEntry) : (s.putLog gid slot o).inputs = s.inputs := rfl
@[simp] theorem State.putLog_issueQ (s : State) (gid slot : Nat) (o : OpEntry) : (s.putLog gid slot o).issueQ = s.issueQ := rfl
@[simp] theorem State.putLog_cur (s : State) (gid slot : Nat) (o : OpEntry) : (s.putLog gid slot o).cur = s.cur := rfl
@[simp] theorem State.putLog_turn (s : State) (gid slot : Nat) (o : OpEntry) : (s.putLog gid slot o).turn = s.turn := rfl
@[simp] theorem State.putLog_mem (s : State) (gid slot : Nat) (o : OpEntry) : (s.putLog gid slot o).mem = s.mem := rfl
@[simp] theorem State.putLog_far (s : State) (gid slot : Nat) (o : OpEntry) : (s.putLog gid slot o).far = s.far := rfl
@[simp] theorem State.putLog_md (s : State) (gid slot : Nat) (o : OpEntry) : (s.putLog gid slot o).md = s.md := rfl
@[simp] theorem State.putLog_xl (s : State) (gid slot : Nat) (o : OpEntry) : (s.putLog gid slot o).xl = s.xl := rfl
@[simp] theorem State.putLog_l1 (s : State) (gid slot : Nat) (o : OpEntry) : (s.putLog gid slot o).l1 = s.l1 := rfl
@[simp] theorem State.putLog_fab (s : State) (gid slot : Nat) (o : OpEntry) : (s.putLog gid slot o).fab = s.fab := rfl
@[simp] theorem State.putLog_host (s : State) (gid slot : Nat) (o : OpEntry) : (s.putLog gid slot o).host = s.host := rfl
@[simp] theorem State.putLog_guard (s : State) (gid slot : Nat) (o : OpEntry) : (s.putLog gid slot o).guard = s.guard := rfl
@[simp] theorem State.putLog_box (s : State) (gid slot : Nat) (o : OpEntry) : (s.putLog gid slot o).box = s.box := rfl
@[simp] theorem State.putLog_cores (s : State) (gid slot : Nat) (o : OpEntry) : (s.putLog gid slot o).cores = s.cores := rfl
@[simp] theorem State.putLog_blocks (s : State) (gid slot : Nat) (o : OpEntry) : (s.putLog gid slot o).blocks = s.blocks := rfl
@[simp] theorem State.putLog_nextBlock (s : State) (gid slot : Nat) (o : OpEntry) : (s.putLog gid slot o).nextBlock = s.nextBlock := rfl
@[simp] theorem State.putLog_arrivals (s : State) (gid slot : Nat) (o : OpEntry) : (s.putLog gid slot o).arrivals = s.arrivals := rfl

/-! ### Reading after an update -/

@[simp] theorem State.group?_setGroup_same (s : State) (gid : Nat) (g : Group) : (s.setGroup gid g).group? gid = some g :=
  SMap.find_put_same ..
theorem State.group?_setGroup_other (s : State) (gid k : Nat) (g : Group) (h : k ≠ gid) :
    (s.setGroup gid g).group? k = s.group? k := SMap.find_put_other _ _ _ _ h
@[simp] theorem State.group?_modGroup_same (s : State) (gid : Nat) (f : Group → Group) :
    (s.modGroup gid f).group? gid = (s.group? gid).map f := SMap.find_modify_same ..
theorem State.group?_modGroup_other (s : State) (gid k : Nat) (f : Group → Group) (h : k ≠ gid) :
    (s.modGroup gid f).group? k = s.group? k := SMap.find_modify_other _ _ _ _ h
@[simp] theorem State.block?_setBlock_same (s : State) (bid : Nat) (b : Block) : (s.setBlock bid b).block? bid = some b :=
  SMap.find_put_same ..
theorem State.block?_setBlock_other (s : State) (bid k : Nat) (b : Block) (h : k ≠ bid) :
    (s.setBlock bid b).block? k = s.block? k := SMap.find_put_other _ _ _ _ h
@[simp] theorem State.block?_modBlock_same (s : State) (bid : Nat) (f : Block → Block) :
    (s.modBlock bid f).block? bid = (s.block? bid).map f := SMap.find_modify_same ..
theorem State.block?_modBlock_other (s : State) (bid k : Nat) (f : Block → Block) (h : k ≠ bid) :
    (s.modBlock bid f).block? k = s.block? k := SMap.find_modify_other _ _ _ _ h
@[simp] theorem State.core_setCore_same (s : State) (c : Nat) (k : Core) : (s.setCore c k).core c = k := SMap.get_set_same ..
theorem State.core_setCore_other (s : State) (c d : Nat) (k : Core) (h : d ≠ c) : (s.setCore c k).core d = s.core d :=
  SMap.get_set_other _ _ _ _ _ h
@[simp] theorem State.core_modCore_same (s : State) (c : Nat) (f : Core → Core) : (s.modCore c f).core c = f (s.core c) :=
  State.core_setCore_same ..
theorem State.core_modCore_other (s : State) (c d : Nat) (f : Core → Core) (h : d ≠ c) : (s.modCore c f).core d = s.core d :=
  State.core_setCore_other _ _ _ _ h
@[simp] theorem State.ctx?_setCtx_same (s : State) (c : Nat) (x : Context) : (s.setCtx c x).ctx? c = some x :=
  SMap.find_put_same ..
theorem State.ctx?_setCtx_other (s : State) (c d : Nat) (x : Context) (h : d ≠ c) : (s.setCtx c x).ctx? d = s.ctx? d :=
  SMap.find_put_other _ _ _ _ h
@[simp] theorem State.func_setFunc_same (s : State) (n : Nat) (x : Func) : (s.setFunc n x).func n = x := SMap.get_set_same ..
theorem State.func_setFunc_other (s : State) (n m : Nat) (x : Func) (h : m ≠ n) : (s.setFunc n x).func m = s.func m :=
  SMap.get_set_other _ _ _ _ _ h

@[simp] theorem State.group?_setBlock (s : State) (bid : Nat) (b : Block) (j : Nat) : (s.setBlock bid b).group? j = s.group? j := rfl
@[simp] theorem State.group?_modBlock (s : State) (bid : Nat) (f : Block → Block) (j : Nat) : (s.modBlock bid f).group? j = s.group? j := rfl
@[simp] theorem State.group?_setCore (s : State) (c : Nat) (k : Core) (j : Nat) : (s.setCore c k).group? j = s.group? j := rfl
@[simp] theorem State.group?_modCore (s : State) (c : Nat) (f : Core → Core) (j : Nat) : (s.modCore c f).group? j = s.group? j := rfl
@[simp] theorem State.group?_modMd (s : State) (f : MemDies → MemDies) (j : Nat) : (s.modMd f).group? j = s.group? j := rfl
@[simp] theorem State.group?_setCtx (s : State) (c : Nat) (x : Context) (j : Nat) : (s.setCtx c x).group? j = s.group? j := rfl
@[simp] theorem State.block?_setGroup (s : State) (gid : Nat) (g : Group) (j : Nat) : (s.setGroup gid g).block? j = s.block? j := rfl
@[simp] theorem State.block?_modGroup (s : State) (gid : Nat) (f : Group → Group) (j : Nat) : (s.modGroup gid f).block? j = s.block? j := rfl
@[simp] theorem State.block?_setCore (s : State) (c : Nat) (k : Core) (j : Nat) : (s.setCore c k).block? j = s.block? j := rfl
@[simp] theorem State.block?_modCore (s : State) (c : Nat) (f : Core → Core) (j : Nat) : (s.modCore c f).block? j = s.block? j := rfl
@[simp] theorem State.block?_modMd (s : State) (f : MemDies → MemDies) (j : Nat) : (s.modMd f).block? j = s.block? j := rfl
@[simp] theorem State.block?_setCtx (s : State) (c : Nat) (x : Context) (j : Nat) : (s.setCtx c x).block? j = s.block? j := rfl
@[simp] theorem State.core_setGroup (s : State) (gid : Nat) (g : Group) (j : Nat) : (s.setGroup gid g).core j = s.core j := rfl
@[simp] theorem State.core_modGroup (s : State) (gid : Nat) (f : Group → Group) (j : Nat) : (s.modGroup gid f).core j = s.core j := rfl
@[simp] theorem State.core_setBlock (s : State) (bid : Nat) (b : Block) (j : Nat) : (s.setBlock bid b).core j = s.core j := rfl
@[simp] theorem State.core_modBlock (s : State) (bid : Nat) (f : Block → Block) (j : Nat) : (s.modBlock bid f).core j = s.core j := rfl
@[simp] theorem State.core_modMd (s : State) (f : MemDies → MemDies) (j : Nat) : (s.modMd f).core j = s.core j := rfl
@[simp] theorem State.ctx?_setGroup (s : State) (gid : Nat) (g : Group) (j : Nat) : (s.setGroup gid g).ctx? j = s.ctx? j := rfl
@[simp] theorem State.ctx?_modGroup (s : State) (gid : Nat) (f : Group → Group) (j : Nat) : (s.modGroup gid f).ctx? j = s.ctx? j := rfl
@[simp] theorem State.ctx?_setBlock (s : State) (bid : Nat) (b : Block) (j : Nat) : (s.setBlock bid b).ctx? j = s.ctx? j := rfl
@[simp] theorem State.ctx?_setCore (s : State) (c : Nat) (k : Core) (j : Nat) : (s.setCore c k).ctx? j = s.ctx? j := rfl
@[simp] theorem State.ctx?_modMd (s : State) (f : MemDies → MemDies) (j : Nat) : (s.modMd f).ctx? j = s.ctx? j := rfl

/-! ### An update of what is not there, and two updates of one place -/

theorem State.modGroup_none (s : State) (gid : Nat) (f : Group → Group) (h : s.group? gid = none) : s.modGroup gid f = s := by
  simp only [State.modGroup, SMap.modify, State.group?] at *; rw [h]
theorem State.modGroup_some (s : State) (gid : Nat) (g : Group) (f : Group → Group) (h : s.group? gid = some g) :
    s.modGroup gid f = s.setGroup gid (f g) := by
  simp only [State.modGroup, State.setGroup, SMap.modify, State.group?] at *; rw [h]
theorem State.modBlock_none (s : State) (bid : Nat) (f : Block → Block) (h : s.block? bid = none) : s.modBlock bid f = s := by
  simp only [State.modBlock, SMap.modify, State.block?] at *; rw [h]
theorem State.modBlock_some (s : State) (bid : Nat) (b : Block) (f : Block → Block) (h : s.block? bid = some b) :
    s.modBlock bid f = s.setBlock bid (f b) := by
  simp only [State.modBlock, State.setBlock, SMap.modify, State.block?] at *; rw [h]

end Sys2Proof.Machine
end

