-- ==== Sys2Proof/Laws/Ops.lean ====
section
/-! SUPPORT. Laws/Ops.lean: what the shared operations change, and that writes keep memory's canonical form. -/

namespace Sys2Proof.Machine

/-! ### A fold of steps that each keep something -/

theorem foldl_keeps {α β : Type} (P : α → Prop) (f : α → β → α) (l : List β) (a : α) (h : P a)
    (step : ∀ a b, P a → P (f a b)) : P (l.foldl f a) := by
  induction l generalizing a with
  | nil => exact h
  | cons b l ih => exact ih _ (step a b h)

/-! ### Links: sending changes the fabric alone (R13 to R18) -/

/-- Two states that differ in the fabric alone. -/
def State.SameButFab (s t : State) : Prop := t = { s with fab := t.fab }

theorem State.SameButFab.refl (s : State) : s.SameButFab s := rfl
theorem State.SameButFab.trans {s t u : State} (h : s.SameButFab t) (k : t.SameButFab u) : s.SameButFab u := by
  unfold State.SameButFab at *; rw [k, h]
theorem State.setLink_fab (s : State) (i j : Nat) (l : Link) : s.SameButFab (s.setLink i j l) := by
  unfold State.SameButFab State.setLink; split <;> rfl
theorem State.modLink_fab (s : State) (i j : Nat) (f : Link → Link) : s.SameButFab (s.modLink i j f) := State.setLink_fab ..
theorem State.withFab (s : State) (f : Fabric) : s.SameButFab { s with fab := f } := rfl
theorem State.transmit_fab (s : State) (i j : Nat) (f : Flit) : s.SameButFab (s.transmit i j f) := by
  unfold State.transmit
  refine State.SameButFab.trans ?_ ((State.modLink_fab _ i j _).trans (State.modLink_fab _ j i _))
  split
  · exact State.modLink_fab ..
  · exact .refl s
theorem State.pumpFrom_fab (i j : Nat) (fs : List Flit) :
    ∀ (s : State) (kept : List Flit), s.SameButFab (s.pumpFrom i j fs kept) := by
  induction fs with
  | nil => intro s kept; exact State.modLink_fab ..
  | cons f fs ih =>
    intro s kept
    simp only [State.pumpFrom]
    split
    · exact ih ..
    · split
      · exact (State.transmit_fab ..).trans (ih ..)
      · split
        · split
          · exact (State.transmit_fab ..).trans (ih ..)
          · exact ih ..
        · exact ih ..
theorem State.pump_fab (s : State) (i j : Nat) : s.SameButFab (s.pump i j) :=
  foldl_keeps (State.SameButFab s) _ _ _ (State.pumpFrom_fab i j _ s []) (fun _ b h => h.trans (State.pumpFrom_fab i b _ _ []))
theorem State.send_fab (s : State) (i j tc kind : Nat) (info : BitVec 40) (payload : BitVec 512) :
    s.SameButFab (s.send i j tc kind info payload).1 :=
  (State.modLink_fab s i j _).trans ((State.withFab _ _).trans (State.pump_fab ..))
theorem State.message_fab (s : State) (i j tc : Nat) : s.SameButFab (s.message i j tc).1 := by
  unfold State.message
  split
  · exact .refl s
  · exact State.send_fab ..

/-! ### Requests (R44) -/

/-- A request takes the next tag and goes to the end of the queue; beside it only the fabric changes. -/
theorem State.request_spec (s : State) (r : Req) : ∃ n : Ticket, s.request r = { s with
    fab := (s.request r).fab
    md := { s.md with nextTag := s.md.nextTag + 1, reqs := s.md.reqs ++ [{ r with tag := s.md.nextTag, ticket := n }] } } := by
  have h := State.message_fab s (portOfSource r.src) (portOfMemory ((r.lanes.head?.map fun l => s.servingDie l.ia).getD 0)) 0
  unfold State.SameButFab at h
  refine ⟨(s.message (portOfSource r.src) (portOfMemory ((r.lanes.head?.map fun l => s.servingDie l.ia).getD 0)) 0).2, ?_⟩
  simp only [State.request]
  generalize s.message _ _ _ = f at h
  obtain ⟨f1, f2⟩ := f
  simp only at h ⊢
  rw [h]

/-- The requests of a word: one for each unit, tagged in order; beside them only the fabric changes. -/
theorem State.requests_spec (r : Req) (us : List (List LaneAcc)) : ∀ s : State, ∃ new : List Req,
    us.foldl (fun t u => t.request { r with lanes := u }) s = { s with
      fab := (us.foldl (fun t u => t.request { r with lanes := u }) s).fab
      md := { s.md with nextTag := s.md.nextTag + new.length, reqs := s.md.reqs ++ new } } ∧
    new.map (·.lanes) = us ∧ new.map (·.tag) = List.range' s.md.nextTag new.length ∧
    ∀ q ∈ new, q = { r with lanes := q.lanes, tag := q.tag, ticket := q.ticket } := by
  induction us with
  | nil => intro s; exact ⟨[], by simp, rfl, rfl, by simp⟩
  | cons u us ih =>
    intro s
    obtain ⟨n, hn⟩ := State.request_spec s { r with lanes := u }
    obtain ⟨new, h, hl, ht, hq⟩ := ih (s.request { r with lanes := u })
    refine ⟨{ r with lanes := u, tag := s.md.nextTag, ticket := n } :: new, ?_, by simp [hl], ?_, ?_⟩
    · simp only [List.foldl_cons]
      rw [h, hn]
      simp only [List.length_cons, List.append_assoc, List.singleton_append]
      rw [show s.md.nextTag + 1 + new.length = s.md.nextTag + (new.length + 1) by omega]
    · simp only [List.map_cons, List.length_cons, List.range'_succ]
      rw [ht, hn]
    · intro q hq'
      rcases List.mem_cons.1 hq' with rfl | h'
      · rfl
      · exact hq q h'

/-! ### Lanes leave the split table (R159, R189) -/

theorem Group.retireIn_frame (g : Group) (ls : BitVec 32) : g.retireIn ls =
    { g with exited := (g.retireIn ls).exited, entries := (g.retireIn ls).entries, up := (g.retireIn ls).up } := by
  simp only [Group.retireIn]; rw [Group.collapse_frame]
theorem Group.retire_frame (g : Group) (ls : BitVec 32) : g.retire ls = { g with
    exited := (g.retire ls).exited, entries := (g.retire ls).entries, up := (g.retire ls).up, resume := (g.retire ls).resume } := by
  simp only [Group.retire]
  split
  · rw [Group.retireIn_frame]
  · rw [Group.retireIn_frame]
/-- A switch-off changes the split table, the exited lanes and FMASK alone. -/
theorem Group.switchOff_frame (g : Group) (ls : BitVec 32) (cause : Nat) : g.switchOff ls cause = { g with
    exited := (g.switchOff ls cause).exited, entries := (g.switchOff ls cause).entries, up := (g.switchOff ls cause).up,
    resume := (g.switchOff ls cause).resume, fmask := (g.switchOff ls cause).fmask } := by
  simp only [Group.switchOff]
  split
  · rfl
  · rw [Group.retire_frame]

/-! ### Squashing (R169, R180) -/

theorem State.squashLcr_frame (s : State) (gid : Nat) (hit : LcrIssue → BitVec 32) :
    s.squashLcr gid hit = { s with cores := (s.squashLcr gid hit).cores } := by
  simp only [State.squashLcr]
  exact foldl_keeps (fun t : State => t = { s with cores := t.cores }) _ _ _ rfl (fun a b h => by rw [h]; rfl)
theorem State.pruneSpec_frame (s : State) (gid : Nat) : s.pruneSpec gid = { s with md := (s.pruneSpec gid).md } := rfl
/-- Squashing a group changes that group, the requests under way and the lane-cycle counts alone. -/
theorem State.squashGroup_frame (s : State) (gid : Nat) : s.squashGroup gid = { s with
    groups := (s.modGroup gid Group.squashAll).groups, cores := (s.squashGroup gid).cores, md := (s.squashGroup gid).md } := by
  simp only [State.squashGroup]
  rw [State.pruneSpec_frame, State.squashLcr_frame]; rfl

/-! ### Writes keep the canonical form (R42, R45) -/

/-- Device and far memory are in canonical form. -/
def State.MemOk (s : State) : Prop := Memory.wf s.mem = true ∧ SMap.wf (0 : BitVec 8) s.far = true

theorem State.rekey_memOk (s : State) (leaf : BitVec 64) (sec : Nat) (h : s.MemOk) : (s.rekey leaf sec).MemOk := by
  simp only [State.rekey]
  split
  · exact h
  · refine ⟨?_, h.2⟩
    show Memory.wf (ite _ _ _) = true
    split
    · exact h.1
    · exact Memory.wf_writeAll _ _ h.1
theorem State.performWrite_memOk (s : State) (leaf : BitVec 64) (ia pa : Nat) (w : List (Nat × BitVec 8)) (h : s.MemOk) :
    (s.performWrite leaf ia pa w).MemOk := by
  simp only [State.performWrite]
  split
  · refine ⟨h.1, ?_⟩
    show SMap.wf (0 : BitVec 8) (List.foldl _ _ _) = true
    exact foldl_keeps (fun m => SMap.wf (0 : BitVec 8) m = true) _ _ _ h.2 (fun m x hm => SMap.wf_set _ _ _ _ hm)
  · have k := foldl_keeps State.MemOk (fun (t : State) sec => t.rekey leaf sec)
      ((((s.standing (leafF leaf) ia pa w).map fun x => x.1 / 32).eraseDups)) s h (fun t sec ht => State.rekey_memOk t leaf sec ht)
    exact ⟨Memory.wf_writeAll _ _ k.1, k.2⟩
/-- Fitting a block changes the granules, the reserve and the counters alone. -/
theorem State.fitBlock_frame (s : State) (force : Bool) (ctx die block : Nat) (p : State × Nat) (h : s.fitBlock force ctx die block = some p) :
    p.1 = { s with md := { s.md with
      zblocks := p.1.md.zblocks, reserve := p.1.md.reserve, nextGranule := p.1.md.nextGranule, zcount := p.1.md.zcount } } := by
  simp only [State.fitBlock] at h
  split at h
  · cases h
  · cases h; rfl
theorem State.fitBlock_memOk (s : State) (force : Bool) (ctx die block : Nat) (p : State × Nat) (h : s.fitBlock force ctx die block = some p)
    (k : s.MemOk) : p.1.MemOk := by
  rw [State.fitBlock_frame s force ctx die block p h]; exact k
/-- A write of the device that is performed keeps both memories canonical. -/
theorem State.writeNow_memOk (s t : State) (ctx ia pa : Nat) (leaf : BitVec 64) (bytes : List (BitVec 8)) (h : s.MemOk)
    (e : s.writeNow ctx ia pa leaf bytes = some t) : t.MemOk := by
  have k := State.performWrite_memOk s leaf ia pa ((List.range bytes.length).map fun i => (pa + i, bytes.getD i 0)) h
  simp only [State.writeNow] at e
  split at e
  · cases e; exact k
  · split at e
    · obtain ⟨p, hp, rfl⟩ := Option.map_eq_some_iff.1 e
      have q : p.1.MemOk := State.fitBlock_memOk _ _ _ _ _ p hp (by split <;> exact k)
      split
      · exact q
      · exact q
    · cases e
      split <;> exact k
/-- The device's write, performed or held, keeps both memories canonical. -/
theorem State.deviceWrite?_memOk (s t : State) (ctx ia pa : Nat) (leaf : BitVec 64) (bytes : List (BitVec 8)) (h : s.MemOk)
    (e : s.deviceWrite? ctx ia pa leaf bytes = some t) : t.MemOk := by
  simp only [State.deviceWrite?] at e
  split at e
  · exact State.writeNow_memOk s t ctx ia pa leaf bytes h e
  · cases e; exact h
theorem State.deviceWrite_memOk (s : State) (ctx ia pa : Nat) (leaf : BitVec 64) (bytes : List (BitVec 8)) (h : s.MemOk) :
    (s.deviceWrite ctx ia pa leaf bytes).MemOk := by
  simp only [State.deviceWrite]
  cases e : s.deviceWrite? ctx ia pa leaf bytes with
  | none => exact h
  | some t => exact State.deviceWrite?_memOk s t ctx ia pa leaf bytes h e

/-- A write by the device changes what `State.Wrote` lists, and nothing else. -/
theorem State.Wrote.trans {s t u : State} (h : s.Wrote t) (k : t.Wrote u) : s.Wrote u := by
  unfold State.Wrote at *; rw [k, h]
theorem State.rekey_frame (s : State) (leaf : BitVec 64) (sec : Nat) : s.Wrote (s.rekey leaf sec) := by
  unfold State.Wrote
  simp only [State.rekey]
  split
  · rfl
  · rfl
theorem State.performWrite_frame (s : State) (leaf : BitVec 64) (ia pa : Nat) (w : List (Nat × BitVec 8)) :
    s.Wrote (s.performWrite leaf ia pa w) := by
  simp only [State.performWrite]
  split
  · rfl
  · have k := foldl_keeps (State.Wrote s) (fun (t : State) sec => t.rekey leaf sec)
      ((((s.standing (leafF leaf) ia pa w).map fun x => x.1 / 32).eraseDups)) s rfl (fun t sec ht => ht.trans (State.rekey_frame t leaf sec))
    refine k.trans ?_
    rfl
theorem State.fitBlock_wrote (s : State) (force : Bool) (ctx die block : Nat) (p : State × Nat) (h : s.fitBlock force ctx die block = some p) :
    s.Wrote p.1 := by
  have k := State.fitBlock_frame s force ctx die block p h
  unfold State.Wrote
  rw [k]
theorem State.writeNow_frame (s t : State) (ctx ia pa : Nat) (leaf : BitVec 64) (bytes : List (BitVec 8))
    (e : s.writeNow ctx ia pa leaf bytes = some t) : s.Wrote t := by
  have k := State.performWrite_frame s leaf ia pa ((List.range bytes.length).map fun i => (pa + i, bytes.getD i 0))
  simp only [State.writeNow] at e
  split at e
  · cases e; exact k
  · split at e
    · obtain ⟨p, hp, rfl⟩ := Option.map_eq_some_iff.1 e
      have q := State.fitBlock_wrote _ _ _ _ _ p hp
      have r : s.Wrote p.1 := by
        refine (k.trans ?_).trans q
        split <;> rfl
      split
      · exact r
      · exact r.trans rfl
    · cases e
      refine k.trans ?_
      split <;> rfl
theorem State.deviceWrite?_frame (s t : State) (ctx ia pa : Nat) (leaf : BitVec 64) (bytes : List (BitVec 8))
    (e : s.deviceWrite? ctx ia pa leaf bytes = some t) : s.Wrote t := by
  simp only [State.deviceWrite?] at e
  split at e
  · exact State.writeNow_frame s t ctx ia pa leaf bytes e
  · cases e; rfl
theorem State.deviceWrite_frame (s : State) (ctx ia pa : Nat) (leaf : BitVec 64) (bytes : List (BitVec 8)) :
    s.Wrote (s.deviceWrite ctx ia pa leaf bytes) := by
  simp only [State.deviceWrite]
  cases e : s.deviceWrite? ctx ia pa leaf bytes with
  | none => rfl
  | some t => exact State.deviceWrite?_frame s t ctx ia pa leaf bytes e

end Sys2Proof.Machine
end

