-- ==== Sys2Proof/Tests/Slice0.lean ====
section
/-! SUPPORT. Tests/Slice0.lean: words written out from the spec's encodings and what they decode to; terms that no encoding
holds; states and operands that meet the hypotheses of the statements; and worked examples of the spec, one step each. -/

namespace Sys2Proof.Tests

-- one theorem after the other: each has its own evaluation in the kernel
set_option Elab.async false

open Sys2Proof.Machine

/-! ### A small machine -/

/-- A group of 32 lanes alone in its block, one page of memory at VA 4,096; its one entry is at its word. The group and the
block may be changed first. -/
def ready (g : Group → Group := id) (b : Block → Block := id) : State :=
  let s := State.reset.placeWord 0
  { s with
    cur := some (0, 0)
    groups := SMap.put s.groups 0 (g (Group.start 0 0 0 placedBlock))
    blocks := SMap.put s.blocks 0 (b placedBlock) }

/-- Scalar registers and, in every lane, vector registers of a group. -/
def sregs (xs : List (Nat × BitVec 32)) (g : Group) : Group := xs.foldl (fun g x => g.setS x.1 x.2) g
def vregs (xs : List (Nat × BitVec 32)) (g : Group) : Group :=
  xs.foldl (fun g x => (List.range 32).foldl (fun g l => g.setV x.1 l x.2) g) g

/-- A word can run, its issuer meets `P`, and its meaning answers a next state. -/
def meets (s : State) (i : Instr) (P : Issue → Bool := fun _ => true) : Bool :=
  match s.canRun i always with
  | some is => P is && (match exec i s with | .next _ => true | _ => false)
  | none => false

/-- An event takes place. -/
def happens (s : State) (i : Instr) : Bool := match exec i s with | .next _ => true | _ => false

/-- Every lane of a mask reaches memory. -/
def reaches (s : State) (is : Issue) (sp : Space) (base : Src) (off : Int) (n : Nat) (t : Rights) (ls : BitVec 32) : Bool :=
  (lanes ls).all fun l => match s.reach is sp base off n n t l with | .ok _ => true | .error _ => false

/-- Lanes that all reach memory have their addresses, as `State.Reaches` asks. -/
theorem exists_of_reaches (s : State) (is : Issue) (sp : Space) (base : Src) (off : Int) (n : Nat) (t : Rights) (ls : BitVec 32)
    (h : reaches s is sp base off n t ls = true) : ∃ as, s.Reaches is sp base off n t ls as := by
  unfold reaches at h
  unfold State.Reaches
  generalize lanes ls = xs at h ⊢
  induction xs with
  | nil => exact ⟨[], rfl⟩
  | cons x xs ih =>
    rw [List.all_cons, Bool.and_eq_true] at h
    obtain ⟨as, has⟩ := ih h.2
    cases hx : s.reach is sp base off n n t x with
    | error e => simp [hx] at h
    | ok a => exact ⟨a :: as, by simp [hx, has]⟩

/-! ### Words (R305 to R316 and the field tables) -/

theorem test_decode_integer_1 : [
    (0x0060000000000000, .nop),
    (0x00FFFFFFFFFFFFFF, .nop),
    (0x0160009E00DFD000, .iadd ⟨false, 12⟩ .i32 (.v 9) (.spec 0) (.imm (-3))),
    (0x021B004406008000, .isub ⟨false, 3⟩ .n64 (.v 4) (.s 6) (.v 8)),
    (0x0364001002CFF000, .iadds ⟨false, 12⟩ .i16 (.v 1) (.v 2) (.imm 255)),
    (0x046100400400600C, .iaddc ⟨false, 12⟩ false (.v 4) (.v 4) (.v 6) 12 0),
    (0x04AB0060040080CD, .iaddc ⟨true, 5⟩ true (.v 6) (.v 4) (.v 8) 13 12),
    (0x05670030FF7FF000, .imul ⟨false, 12⟩ .n8 (.v 3) (.v 255) (.s 1023)),
    (0x0661003001002000, .imulhi ⟨false, 12⟩ .n32 (.v 3) (.v 1) (.v 2)),
    (0x076102EC0203C0E0, .imad ⟨false, 12⟩ .n32 (.v 46) (.imm 2) (.v 60) (.v 224)),
    (0x0861002000001002, .imadw ⟨false, 12⟩ .n32 (.v 2) (.v 0) (.v 1) (.v 2)),
    (0x0960005006007000, .idiv ⟨false, 12⟩ .i32 (.v 5) (.v 6) (.v 7)),
    (0x0A62004006008000, .irem ⟨false, 12⟩ .i64 (.v 4) (.v 6) (.v 8)),
    (0x0B65004005006000, .imin ⟨false, 12⟩ .n16 (.v 4) (.v 5) (.v 6))].all (fun p => decide (decodeTableWord 64 p.1 = some p.2)) = true := by decide +kernel

theorem test_decode_integer_2 : [
    (0x0C66004005006000, .imax ⟨false, 12⟩ .i8 (.v 4) (.v 5) (.v 6)),
    (0x0D62004006000000, .iabs ⟨false, 12⟩ .i64 (.v 4) (.v 6)),
    (0x0E60904006000000, .ineg ⟨false, 12⟩ .i32 (.idx 1 4) (.v 6)),
    (0x2460404404010000, .iaddImm ⟨false, 12⟩ .i32 (.s 4) (.s 4) 65536),
    (0x2261003004C07002, .icmp ⟨false, 12⟩ .n32 3 (.v 4) (.imm 7) .lt),
    (0x2861001003A003E8, .icmpImm ⟨false, 12⟩ .n32 1 (.v 3) .ge 1000),
    (0x2361001002C00004, .sel ⟨false, 12⟩ false (.v 1) (.v 2) (.imm 0) 4)].all (fun p => decide (decodeTableWord 64 p.1 = some p.2)) = true := by decide +kernel

theorem test_decode_bits_1 : [
    (0x1061001002003000, .and ⟨false, 12⟩ false (.v 1) (.v 2) (.v 3)),
    (0x1163002004006000, .or ⟨false, 12⟩ true (.v 2) (.v 4) (.v 6)),
    (0x1261001002DFF000, .xor ⟨false, 12⟩ false (.v 1) (.v 2) (.imm (-1))),
    (0x1319001002003000, .andn ⟨false, 3⟩ false (.v 1) (.v 2) (.v 3)),
    (0x1463002004000000, .not ⟨false, 12⟩ true (.v 2) (.v 4)),
    (0x2561001002800000, .andImm ⟨false, 12⟩ false (.v 1) (.v 2) (-8388608)),
    (0x26630020047FFFFF, .orImm ⟨false, 12⟩ true (.v 2) (.v 4) 8388607),
    (0x2761001002000001, .xorImm ⟨false, 12⟩ false (.v 1) (.v 2) 1),
    (0x1561001002C07000, .shl ⟨false, 12⟩ false (.v 1) (.v 2) (.imm 7)),
    (0x1663002004006000, .shr ⟨false, 12⟩ true (.v 2) (.v 4) (.v 6)),
    (0x1760001002006000, .sar ⟨false, 12⟩ false (.v 1) (.v 2) (.v 6)),
    (0x1762002004006000, .sar ⟨false, 12⟩ true (.v 2) (.v 4) (.v 6)),
    (0x1861001002006000, .rot ⟨false, 12⟩ false (.v 1) (.v 2) (.v 6)),
    (0x1961001002003C18, .fsh ⟨false, 12⟩ false (.v 1) (.v 2) (.v 3) (.imm 24))].all (fun p => decide (decodeTableWord 64 p.1 = some p.2)) = true := by decide +kernel

theorem test_decode_bits_2 : [
    (0x1A63001002000000, .popc ⟨false, 12⟩ true (.v 1) (.v 2)),
    (0x1B63000002000000, .clz ⟨false, 12⟩ true (.v 0) (.v 2)),
    (0x1C61000002000000, .ctz ⟨false, 12⟩ false (.v 0) (.v 2)),
    (0x1D61000002000000, .brev ⟨false, 12⟩ false (.v 0) (.v 2)),
    (0x1E60001002003000, .bfx ⟨false, 12⟩ .i32 (.v 1) (.v 2) (.v 3)),
    (0x1F63002004006009, .bfi ⟨false, 12⟩ true (.v 2) (.v 4) (.v 6) (.v 9)),
    (0x2061001002003408, .prmt ⟨false, 12⟩ (.v 1) (.v 2) (.v 3) (.s 8)),
    (0x2161008414007C02, .lea ⟨false, 12⟩ .n32 (.v 8) (.s 20) (.v 7) (.imm 2))].all (fun p => decide (decodeTableWord 64 p.1 = some p.2)) = true := by decide +kernel

theorem test_decode_float_1 : [
    (0x3060001002003000, .fadd ⟨false, 12⟩ .f32 (.v 1) (.v 2) (.v 3)),
    (0x3161002004006000, .fsub ⟨false, 12⟩ .f64 (.v 2) (.v 4) (.v 6)),
    (0x3262001002D00000, .fmul ⟨false, 12⟩ .f16 (.v 1) (.v 2) (.imm (-256))),
    (0x3318004001002004, .ffma ⟨false, 3⟩ .f32 (.v 4) (.v 1) (.v 2) (.v 4)),
    (0x3463004001002003, .ffms ⟨false, 12⟩ .bf16 (.v 4) (.v 1) (.v 2) (.v 3)),
    (0x3560004002003000, .fmin ⟨false, 12⟩ .f32 (.v 4) (.v 2) (.v 3)),
    (0x3661004002006000, .fmax ⟨false, 12⟩ .f64 (.v 4) (.v 2) (.v 6)),
    (0x3762004002003000, .fminp ⟨false, 12⟩ .f16 (.v 4) (.v 2) (.v 3)),
    (0x3863004002003000, .fmaxp ⟨false, 12⟩ .bf16 (.v 4) (.v 2) (.v 3)),
    (0x3960004003000000, .fabs ⟨false, 12⟩ .f32 (.v 4) (.v 3)),
    (0x3A60004002000000, .fneg ⟨false, 12⟩ .f32 (.v 4) (.v 2)),
    (0x3B60002006409002, .fcmp ⟨false, 12⟩ .f32 2 (.v 6) (.s 9) .lt),
    (0x3C60004002000000, .fclass ⟨false, 12⟩ .f32 (.reg (.v 4)) (.v 2)),
    (0x3C61007002C03001, .fclass ⟨false, 12⟩ .f64 (.pred 7 (.imm 3)) (.v 2))].all (fun p => decide (decodeTableWord 64 p.1 = some p.2)) = true := by decide +kernel

theorem test_decode_float_2 : [
    (0x3D60004002003000, .fdiv ⟨false, 12⟩ .f32 (.v 4) (.v 2) (.v 3)),
    (0x3E61004002000000, .fsqrt ⟨false, 12⟩ .f64 (.v 4) (.v 2)),
    (0x3F6000400A000000, .frcp ⟨false, 12⟩ (.v 4) (.v 10)),
    (0x406000400B000000, .frsq ⟨false, 12⟩ (.v 4) (.v 11)),
    (0x416000400C000000, .fexp2 ⟨false, 12⟩ (.v 4) (.v 12)),
    (0x426000400D000000, .flog2 ⟨false, 12⟩ (.v 4) (.v 13)),
    (0x436000400E000000, .fsin ⟨false, 12⟩ (.v 4) (.v 14)),
    (0x446000400F000000, .fcos ⟨false, 12⟩ (.v 4) (.v 15)),
    (0x4560004010000000, .ftanh ⟨false, 12⟩ (.v 4) (.v 16)),
    (0x4661004002007000, .fscale ⟨false, 12⟩ .f64 (.v 4) (.v 2) (.v 7)),
    (0x4760001002000004, .frnd ⟨false, 12⟩ .f32 (.v 1) (.v 2) .rna)].all (fun p => decide (decodeTableWord 64 p.1 = some p.2)) = true := by decide +kernel

theorem test_decode_convert : [
    (0x5061002005142000, .cvt ⟨false, 12⟩ .rz false .i32 .f32 (.v 2) (.v 5)),
    (0x506000200554D000, .cvt ⟨false, 12⟩ .rn true .e5m2 .f32 (.v 2) (.v 5)),
    (0x5162002005006003, .pack ⟨false, 12⟩ .e4m3 (.v 2) (.v 5) (.v 6) true true),
    (0x5160002005006000, .pack ⟨false, 12⟩ .f16 (.v 2) (.v 5) (.v 6) false false),
    (0x5266002005000007, .unpk ⟨false, 12⟩ .e2m1 (.v 2) (.v 5) 7),
    (0x5360002001000000, .mxscale ⟨false, 12⟩ .e4m3 (.v 2) (.v 1)),
    (0x5460003001002000, .mxq ⟨false, 12⟩ .e4m3 (.v 3) (.v 1) (.v 2) false),
    (0x5461003001DFF001, .mxq ⟨false, 12⟩ .e5m2 (.v 3) (.v 1) (.imm (-1)) true),
    (0x5560004003002000, .mxdq ⟨false, 12⟩ .e4m3 (.v 4) (.v 3) (.v 2)),
    (0x5663004001002003, .hfma2 ⟨false, 12⟩ true (.v 4) (.v 1) (.v 2) (.v 3)),
    (0x5766004001002003, .idot4 ⟨false, 12⟩ .i8n8 true (.v 4) (.v 1) (.v 2) (.v 3)),
    (0x5862004001002003, .fdot2 ⟨false, 12⟩ false (.v 4) (.v 1) (.v 2) (.v 3))].all (fun p => decide (decodeTableWord 64 p.1 = some p.2)) = true := by decide +kernel

theorem test_decode_predicates_and_moves_1 : [
    (0x6060003000001C0C, .plop ⟨false, 12⟩ 3 0 1 12 192),
    (0x6160009210543076, .ppack ⟨false, 12⟩ (.v 9) [0, 1, 2, 3, 4, 5, 6, 7]),
    (0x6161009210543076, .punpack ⟨false, 12⟩ (.v 9) [0, 1, 2, 3, 4, 5, 6, 7]),
    (0x626000400C000000, .pmov ⟨false, 12⟩ 4 12),
    (0x6261004007C05000, .pmovBit ⟨false, 12⟩ 4 (.v 7) (.imm 5)),
    (0x6361000010000000, .mov ⟨false, 12⟩ false (.v 0) (.v 16)),
    (0x6363002404000000, .mov ⟨false, 12⟩ true (.v 2) (.s 4)),
    (0x6364003007000000, .movToIndex ⟨false, 12⟩ 3 (.v 7)),
    (0x6365007002000000, .movFromIndex ⟨false, 12⟩ (.v 7) 2),
    (0x646000303F800000, .movi ⟨false, 12⟩ (.v 3) .b32 0x3F800000),
    (0x64600042FFFFFFFF, .movi ⟨false, 12⟩ (.v 4) .hi 0xFFFFFFFF),
    (0x6561008404C04000, .bcast ⟨false, 12⟩ 8 4 4),
    (0x6660409004C1F000, .lanerd ⟨false, 12⟩ false 9 (.v 4) (.imm 31)),
    (0x6663008404002000, .lanewr ⟨false, 12⟩ true 8 (.s 4) (.v 2))].all (fun p => decide (decodeTableWord 64 p.1 = some p.2)) = true := by decide +kernel

theorem test_decode_predicates_and_moves_2 : [
    (0x6760001C28C3F000, .setxw ⟨false, 12⟩ 1 (.imm 40) (.imm 63))].all (fun p => decide (decodeTableWord 64 p.1 = some p.2)) = true := by decide +kernel

theorem test_decode_exchange_1 : [
    (0x6861002004C1B000, .qswz ⟨false, 12⟩ true (.v 2) (.v 4) (.imm 27)),
    (0x6963002004000000, .qdiff ⟨false, 12⟩ .cv (.v 2) (.v 4)),
    (0x6A6000200400500C, .shflPick ⟨false, 12⟩ false (.v 2) (.v 4) (.v 5) 12 0),
    (0x6A6500200400601C, .shflRot ⟨false, 12⟩ true (.v 2) (.v 4) (.v 6) 12 1),
    (0x6A62002004DFF043, .shflSlide ⟨false, 12⟩ false (.v 2) (.v 4) (.imm (-1)) 3 4),
    (0x6A63002004C01020, .shflFlip ⟨false, 12⟩ false (.v 2) (.v 4) (.imm 1) 0 2),
    (0x6B60405002DFF006, .voteMask ⟨false, 12⟩ (.s 5) 2 (.imm (-1)) 6),
    (0x6B6140500CDFF006, .voteCount ⟨false, 12⟩ (.s 5) 12 (.imm (-1)) 6),
    (0x6B6240500CDFF006, .voteLead ⟨false, 12⟩ (.s 5) 12 (.imm (-1)) 6),
    (0x6B6340500CDFF006, .voteAgree ⟨false, 12⟩ (.s 5) 12 (.imm (-1)) 6),
    (0x6C6100200440600C, .matchLead ⟨false, 12⟩ true (.v 2) (.v 4) (.s 6) 12),
    (0x6C62002004406001, .matchMask ⟨false, 12⟩ false (.v 2) (.v 4) (.s 6) 1),
    (0x6D60405003DFF006, .redux ⟨false, 12⟩ .addN32 (.s 5) (.v 3) (.imm (-1)) 6),
    (0x6E67002004DFF407, .scan ⟨false, 12⟩ .xor (.v 2) (.v 4) (.imm (-1)) (.s 7))].all (fun p => decide (decodeTableWord 64 p.1 = some p.2)) = true := by decide +kernel

theorem test_decode_exchange_2 : [
    (0x6F60000DFF000000, .join ⟨false, 12⟩ (.imm (-1)))].all (fun p => decide (decodeTableWord 64 p.1 = some p.2)) = true := by decide +kernel

theorem test_decode_memory_1 : [
    (0x7062008414010040, .ld ⟨false, 12⟩ .b32 (.v 8) .global (.s 20) .acq .normal 64),
    (0x7065A03004108000, .ld ⟨false, 12⟩ .i8 (.idx 2 3) .scratch (.v 4) .rlx .normal (-32768)),
    (0x70600034043C0001, .ld ⟨false, 12⟩ .b8 (.v 3) .const (.s 4) .rlx .last 1),
    (0x7162005006020008, .st ⟨false, 12⟩ .b32 (.v 5) .global (.v 6) .rel 8),
    (0x7164008004400010, .st ⟨false, 12⟩ .b128 (.v 8) .stack (.v 4) .rlx 16),
    (0x726344040F300000, .ldc ⟨false, 12⟩ 3 64 .const (.s 15) .rlx .normal 0),
    (0x7360000006040080, .pref ⟨false, 12⟩ .global (.v 6) .stream 128),
    (0x7460000006520004, .xclr ⟨false, 12⟩ (.v 6) true 4),
    (0x796000000600FFFC, .cctlDrop ⟨false, 12⟩ .global (.v 6) (-4)),
    (0x796100000630FFFC, .cctlDrop4k ⟨false, 12⟩ .const (.v 6) (-4)),
    (0x796200000600FFFC, .cctlRenew ⟨false, 12⟩ .global (.v 6) (-4)),
    (0x7560410020000000, .memopFill ⟨false, 12⟩ 16 2),
    (0x7560410020010000, .memopAxpy ⟨false, 12⟩ .f32 16 2),
    (0x75624107F0020000, .memopAdd ⟨false, 12⟩ .f16 16 127)].all (fun p => decide (decodeTableWord 64 p.1 = some p.2)) = true := by decide +kernel

theorem test_decode_memory_2 : [
    (0x7563410000030000, .memopMul ⟨false, 12⟩ .bf16 16 0),
    (0x7561410050040000, .memopReduce ⟨false, 12⟩ true 16 5),
    (0x7664000000030000, .fence ⟨false, 12⟩ .dev .sc),
    (0x7662000000060000, .fence ⟨false, 12⟩ .blk .ar),
    (0x7760000030000000, .flsig ⟨false, 12⟩ (some 3)),
    (0x7760000FF0000000, .flsig ⟨false, 12⟩ none),
    (0x7863002404000000, .watch ⟨false, 12⟩ 2 (.s 4) 0)].all (fun p => decide (decodeTableWord 64 p.1 = some p.2)) = true := by decide +kernel

theorem test_decode_atomics_1 : [
    (0x7A6000240A000000, .atomAdd ⟨false, 12⟩ .i32 2 .global (.s 10) .rlx 0),
    (0x7B6100240A110008, .atomMin ⟨false, 12⟩ .n32 2 .scratch (.s 10) .acq 8),
    (0x7C6200240A220010, .atomMax ⟨false, 12⟩ .i64 2 .peer (.s 10) .rel 16),
    (0x7D6300240A030018, .atomAnd ⟨false, 12⟩ .n64 2 .global (.s 10) .sc 24),
    (0x7E6000240A160020, .atomOr ⟨false, 12⟩ .i32 2 .scratch (.s 10) .ar 32),
    (0x7F6100240A200028, .atomXor ⟨false, 12⟩ .n32 2 .peer (.s 10) .rlx 40),
    (0x806200240A010030, .atomExch ⟨false, 12⟩ .i64 2 .global (.s 10) .acq 48),
    (0x816300240A120038, .atomCas ⟨false, 12⟩ .n64 2 .scratch (.s 10) .rel 56),
    (0x826100200A06FFF8, .atomFadd ⟨false, 12⟩ true 2 .global (.v 10) .ar (-8)),
    (0x836000200A530004, .atomXadd ⟨false, 12⟩ false 2 (.v 10) .sc 4),
    (0x8461C0140A000000, .redAdd ⟨false, 12⟩ .n32 (.imm 1) .global (.s 10) .rlx 0),
    (0x856200240A12FFF8, .redMin ⟨false, 12⟩ .i64 (.v 2) .scratch (.s 10) .rel (-8)),
    (0x8663C0140A23FFF0, .redMax ⟨false, 12⟩ .n64 (.imm 1) .peer (.s 10) .sc (-16)),
    (0x876000240A00FFE8, .redAnd ⟨false, 12⟩ .i32 (.v 2) .global (.s 10) .rlx (-24))].all (fun p => decide (decodeTableWord 64 p.1 = some p.2)) = true := by decide +kernel

theorem test_decode_atomics_2 : [
    (0x8861C0140A12FFE0, .redOr ⟨false, 12⟩ .n32 (.imm 1) .scratch (.s 10) .rel (-32)),
    (0x896200240A23FFD8, .redXor ⟨false, 12⟩ .i64 (.v 2) .peer (.s 10) .sc (-40)),
    (0x8A6000200A120004, .redFadd ⟨false, 12⟩ false (.v 2) .scratch (.v 10) .rel 4),
    (0x8B6100800B500000, .redXadd ⟨false, 12⟩ true (.v 8) (.v 11) .rlx 0)].all (fun p => decide (decodeTableWord 64 p.1 = some p.2)) = true := by decide +kernel

theorem test_decode_barriers_and_copies_1 : [
    (0x9060001414000000, .binit ⟨false, 12⟩ 1 (.s 20)),
    (0x9160003000000000, .arrive ⟨false, 12⟩ false 3 none),
    (0x9165003000000C09, .arrive ⟨false, 12⟩ true 3 (some (.imm 9))),
    (0x9162000004001000, .arriveAddress ⟨false, 12⟩ false false (.v 4) none),
    (0x9167000004002403, .arriveAddress ⟨false, 12⟩ true true (.v 4) (some (.s 3))),
    (0x9260003404000000, .expectOnce ⟨false, 12⟩ 3 (.s 4)),
    (0x926107FDF9000000, .expectEach ⟨false, 12⟩ 127 (.imm (-7))),
    (0x9360004003000000, .btestPa ⟨false, 12⟩ (.v 4) 3),
    (0x9361404003000000, .btestPb ⟨false, 12⟩ (.s 4) 3),
    (0x9362004003000000, .btestAll ⟨false, 12⟩ (.v 4) 3),
    (0x9363005003402000, .btestPassed ⟨false, 12⟩ 5 3 (.s 2)),
    (0x9460003000000000, .binval ⟨false, 12⟩ 3),
    (0x9560404000000000, .cpy ⟨false, 12⟩ 4 0 false),
    (0x9560408010010000, .cpy ⟨false, 12⟩ 8 1 true)].all (fun p => decide (decodeTableWord 64 p.1 = some p.2)) = true := by decide +kernel

theorem test_decode_barriers_and_copies_2 : [
    (0x96604B0000F00000, .cpym ⟨false, 12⟩ 176 0 15 false),
    (0x96604B0078120000, .cpym ⟨false, 12⟩ 176 7 129 true),
    (0x9760408020000000, .cpyr ⟨false, 12⟩ 8 2),
    (0x9860408020010000, .cpyg ⟨false, 12⟩ 8 2 true),
    (0x9960000020000000, .cpyx ⟨false, 12⟩ 2)].all (fun p => decide (decodeTableWord 64 p.1 = some p.2)) = true := by decide +kernel

theorem test_decode_matrix : [
    (0xA060005C02C08000, .acfg ⟨false, 12⟩ 5 (.imm 2) (.imm 8)),
    (0xA160140C000000FF, .azero ⟨false, 12⟩ 5 3 none),
    (0xA260000000000000, .afence ⟨false, 12⟩),
    (0xA36000000100A004, .mma ⟨false, 12⟩ .e4m3 0 0 false (.regs (.v 16)) 40 .acc (some 4)),
    (0xA363FFFF40CFFEFF, .mma ⟨false, 12⟩ .bf16 63 255 true (.map 12) 1023 .sub none),
    (0xA46404089080A100, .mmas ⟨false, 12⟩ .mx4 1 2 false (.regs (.idx 1 8)) 40 .ovr (some 0)),
    (0xA560040800005006, .ald ⟨false, 12⟩ 1 2 20 (some 6)),
    (0xA660000400005006, .ast ⟨false, 12⟩ 0 1 false 20 (some 6)),
    (0xA6600802000180FF, .ast ⟨false, 12⟩ 2 0 true 96 none),
    (0xA760080C02C03F80, .ard ⟨false, 12⟩ 2 3 false (.v 44) 7 16),
    (0xA760080202CFF800, .ard ⟨false, 12⟩ 2 0 true (.v 44) 511 1),
    (0xA8600824B0104180, .awr ⟨false, 12⟩ 2 9 (.idx 3 1) 8 4)].all (fun p => decide (decodeTableWord 64 p.1 = some p.2)) = true := by decide +kernel

theorem test_decode_small_matrix_1 : [
    (0xB0600900C08C0000, .kshape ⟨false, 12⟩ false 0 (.imm 8) 2 2),
    (0xB0602900C10C0000, .kshape ⟨false, 12⟩ false 1 (.imm 16) 2 2),
    (0xB060E001000C0000, .kshapeClr ⟨false, 12⟩ 7),
    (0xB1606000000C0000, .kzero ⟨false, 12⟩ 3),
    (0xB2608000000C0000, .keye ⟨false, 12⟩ 4),
    (0xB360298000000000, .kadd ⟨false, 12⟩ 1 2 3 0),
    (0xB4604E0000010000, .kmul ⟨false, 12⟩ 2 3 4 1),
    (0xB560728000020000, .kmad ⟨false, 12⟩ 3 4 5 2),
    (0xB6602800000C0000, .ktrn ⟨false, 12⟩ 1 2 12),
    (0xB760200000020000, .kchol ⟨false, 12⟩ 1 0 2),
    (0xB8603C00000B0000, .kldl ⟨false, 12⟩ 1 7 11),
    (0xB960200005820000, .klu ⟨false, 12⟩ 1 0 (.v 88) 2),
    (0xBA606500058C0000, .ksolve ⟨false, 12⟩ .lu 3 1 2 (some (.v 88)) 12),
    (0xBA606501000C0000, .ksolve ⟨false, 12⟩ .ldl 3 1 2 none 12)].all (fun p => decide (decodeTableWord 64 p.1 = some p.2)) = true := by decide +kernel

theorem test_decode_small_matrix_2 : [
    (0xBA606502000C0000, .ksolve ⟨false, 12⟩ .chol 3 1 2 none 12),
    (0xBB601400006C0000, .kdet ⟨false, 12⟩ (.v 6) 5 12),
    (0xBC60280000040000, .kinv ⟨false, 12⟩ 1 2 4)].all (fun p => decide (decodeTableWord 64 p.1 = some p.2)) = true := by decide +kernel

theorem test_decode_control : [
    (0xC060FFFFFEE00000, .bra ⟨false, 12⟩ (-288) 0),
    (0xC018000010002000, .bra ⟨false, 3⟩ 4096 2),
    (0xC160000000000006, .brx ⟨false, 12⟩ (.v 6)),
    (0xC26000000FE80000, .call ⟨false, 12⟩ 4072),
    (0xC36000000000041E, .callx ⟨false, 12⟩ (.s 30)),
    (0xC46000000000001E, .ret ⟨false, 12⟩ (.v 30)),
    (0xC5A8000000000000, .exit ⟨true, 5⟩),
    (0xC660000000000000, .yield ⟨false, 12⟩),
    (0xC86040A40C004000, .launch ⟨false, 12⟩ 10 12 4),
    (0xC960000406001000, .migrate ⟨false, 12⟩ 1 (.s 6)),
    (0xCA60000C2A000000, .trap ⟨false, 12⟩ (.imm 42)),
    (0xCB60000000000000, .bkpt ⟨false, 12⟩)].all (fun p => decide (decodeTableWord 64 p.1 = some p.2)) = true := by decide +kernel

theorem test_decode_system : [
    (0xD060404000011000, .srd ⟨false, 12⟩ (.s 4) 17),
    (0xD16000043C011000, .swr ⟨false, 12⟩ (.s 60) 17),
    (0xD260000000000000, .ctxsaveCopy ⟨false, 12⟩),
    (0xD260000000000001, .ctxsaveAcc ⟨false, 12⟩),
    (0xD260000000000002, .ctxsaveGrp ⟨false, 12⟩),
    (0xD260000000000003, .ctxsaveBlk ⟨false, 12⟩),
    (0xD360000000000003, .ctxrestBlk ⟨false, 12⟩),
    (0xD360000000000002, .ctxrestGrp ⟨false, 12⟩),
    (0xD360000000000001, .ctxrestAcc ⟨false, 12⟩),
    (0xD360000000000000, .ctxrestCopy ⟨false, 12⟩),
    (0xD460000000000000, .eret ⟨false, 12⟩),
    (0xD560000000000000, .hostint ⟨false, 12⟩),
    (0xD660000C05000000, .pmark ⟨false, 12⟩ (.imm 5)),
    (0xD760000408000007, .logw ⟨false, 12⟩ 8 7)].all (fun p => decide (decodeTableWord 64 p.1 = some p.2)) = true := by decide +kernel

/-! ### What no encoding holds (R305 to R312 and the field tables) -/

/-- Every instruction of a list is refused. -/
def noneWf (xs : List Instr) : Bool := xs.all fun i => !i.wf

/-- A guard 13; register, index, immediate and special numbers one past their ranges. -/
theorem test_wf_operands :
    noneWf [.exit ⟨false, 13⟩, .iadd ⟨true, 15⟩ .i32 (.v 1) (.v 1) (.v 1), .mov always false (.v 256) (.v 1), .mov always false (.s 1024) (.v 1),
      .mov always false (.idx 4 0) (.v 1), .mov always false (.idx 0 256) (.v 1), .mov always false (.v 1) (.v 256),
      .mov always false (.v 1) (.s 1024), .mov always false (.v 1) (.idx 4 0), .mov always false (.v 1) (.idx 3 256),
      .mov always false (.v 1) (.imm 256), .mov always false (.v 1) (.imm (-257)), .mov always false (.v 1) (.spec 14)] = true := by decide +kernel

/-- Operands of a kind the field does not take. -/
theorem test_wf_kinds :
    noneWf [.qdiff always .fh (.s 1) (.v 1), .ld always .b32 (.s 2) .global (.s 4) .rlx .normal 0, .ld always .b32 (.v 2) .global (.imm 4) .rlx .normal 0,
      .st always .b32 (.spec 1) .global (.s 4) .rlx 0, .lanerd always false 1 (.s 2) (.v 3), .acfg always 0 (.spec 0) (.imm 0),
      .ldc always 0 0 .global (.v 4) .rlx .normal 0, .klu always 1 2 (.s 3) 12, .ksolve always .lu 1 2 3 none 12,
      .ksolve always .chol 1 2 3 (some (.v 4)) 12, .kdet always (.s 1) 2 12, .shflPick always false (.s 1) (.v 1) (.v 1) 12 4] = true := by
  decide +kernel

/-- Immediates, offsets and displacements out of range or out of step. -/
theorem test_wf_immediates :
    noneWf [.iaddImm always .i32 (.v 1) (.v 1) 8388608, .andImm always false (.v 1) (.v 1) (-8388609), .icmpImm always .i32 0 (.v 1) .eq 1048576,
      .icmpImm always .i32 0 (.v 1) .eq (-1048577), .movi always (.v 1) .b32 4294967296, .bra always 4 0, .bra always 2147483648 0,
      .bra always (-2147483656) 0, .call always 12, .xclr always (.v 2) false 32768, .cctlDrop always .global (.s 4) (-32769)] = true := by decide +kernel

/-- Types that the word does not have. -/
theorem test_wf_types :
    noneWf [.imulhi always .i16 (.v 1) (.v 1) (.v 1), .idiv always .n8 (.v 1) (.v 1) (.v 1), .imadw always .i64 (.v 2) (.v 1) (.v 1) (.v 4),
      .lea always .n64 (.v 2) (.v 1) (.v 1) (.v 4), .iabs always .n32 (.v 1) (.v 1), .bfx always .i16 (.v 1) (.v 1) (.v 1),
      .fdiv always .f16 (.v 1) (.v 1) (.v 1), .fsqrt always .bf16 (.v 1) (.v 1), .cvt always .rz false .i32 .i64 (.v 1) (.v 2),
      .cvt always .rn true .f32 .f64 (.v 1) (.v 2), .cvt always .rn false .e8m0 .f16 (.v 1) (.v 2), .cvt always .rn false .i8 .e8m0 (.v 1) (.v 2),
      .pack always .f16 (.v 1) (.v 1) (.v 1) true false, .pack always .bf16 (.v 1) (.v 1) (.v 1) false true, .unpk always .e2m1 (.v 1) (.v 2) 8,
      .unpk always .f16 (.v 1) (.v 2) 2, .mxq always .e2m1 (.v 1) (.v 2) (.v 3) true, .atomAdd always .i16 1 .global (.s 4) .rlx 0,
      .mma always .mx4 0 0 true (.regs (.v 4)) 0 .acc none, .mmas always .f16 0 0 true (.regs (.v 4)) 0 .acc none] = true := by decide +kernel

/-- Predicates, slots, names, tiles, lanes and spans one past their ranges. -/
theorem test_wf_fields :
    noneWf [.icmp always .i32 12 (.v 1) (.v 1) .eq, .iaddc always false (.v 1) (.v 1) (.v 1) 14 12, .iaddc always false (.v 1) (.v 1) (.v 1) 12 13,
      .sel always false (.v 1) (.v 1) (.v 1) 12, .plop always 0 13 0 0 0, .plop always 0 0 0 0 256, .ppack always (.v 1) [0, 1, 2, 3, 4, 5, 6],
      .ppack always (.v 1) [0, 1, 2, 3, 4, 5, 6, 13], .pmov always 12 0, .movToIndex always 4 (.v 1), .bcast always 256 0 1, .bcast always 0 0 17,
      .shflRot always false (.v 1) (.v 1) (.v 1) 13 0, .shflRot always false (.v 1) (.v 1) (.v 1) 12 5, .binit always 128 (.imm 0),
      .arrive always false 128 none, .arrive always false 0 (some (.spec 14)), .cpym always 0 0 256 false, .cpyx always 128, .acfg always 64 (.imm 1) (.imm 0),
      .azero always 0 256 none, .azero always 0 0 (some 128), .ast always 0 1 true 0 none, .ard always 0 0 false (.v 0) 0 17,
      .ard always 0 0 false (.v 0) 512 1, .awr always 0 0 (.v 0) 0 0, .kshape always false 8 (.v 0) 1 1, .kshape always false 0 (.v 0) 7 1,
      .kshape always false 0 (.v 0) 1 0, .kzero always 8, .kadd always 0 0 0 13, .bra always 0 3, .launch always 1024 0 0, .launch always 0 0 12,
      .migrate always 12 (.v 0), .srd always (.v 0) 4096, .swr always (.v 0) 4096, .logw always 0 4096] = true := by decide +kernel

/-- Spaces, orders and sizes that a memory word does not take. -/
theorem test_wf_memory :
    noneWf [.ld always .b16 (.v 2) .cell (.v 4) .rlx .normal 0, .ld always .b32 (.v 2) .global (.v 4) .rel .normal 0,
      .ld always .b32 (.v 2) .scratch (.v 4) .rlx .stream 0, .ld always .b128 (.v 2) .global (.v 4) .rlx .normal 0,
      .ld always .b128 (.idx 0 0) .global (.v 4) .rlx .normal 0, .st always .b32 (.v 2) .const (.v 4) .rlx 0, .st always .i8 (.v 2) .global (.v 4) .rlx 0,
      .st always .b32 (.v 2) .global (.v 4) .acq 0, .pref always .scratch (.v 4) .normal 0, .pref always .global (.v 4) .last 0,
      .atomAdd always .n32 2 .cell (.v 4) .rlx 0, .redAdd always .n32 (.v 2) .global (.v 4) .acq 0, .redXadd always true (.spec 0) (.v 4) .rlx 0,
      .fence always .blk .rlx, .ldc always 5 0 .global (.s 4) .rlx .normal 0, .ldc always 0 0 .stack (.s 4) .rlx .normal 0,
      .memopFill always 1024 0, .memopReduce always true 0 128] = true := by decide +kernel

/-- Operations and events that name nothing that exists. -/
theorem test_wf_events :
    noneWf [.weights { tag := 0, fn := 256, ctx := 0, extra := false } 1 1, .ackFlitTimer 3 3, .ackFlitTimer 26 0, .relayedFlitForward 26, .laserFail 5,
      .eventVectorHoldoffExpiry 64 0, .eventVectorHoldoffExpiry 0 136, .junctionThrottle 8 0, .homeRequestAccept 18 0, .granuleRelease 17 0, .heatEpoch 128,
      .hostLinkChange 2 true true, .functionLevelReset 64, .computeDieFatal 8, .alarm 9 0, .alarm 0 0, .fillInstall 18, .blockPlace 4096 0,
      .blockPlace 0 64, .dbgcmpWrite 0 8 0, .sampleTick 64 0, .msixTableWrite 0 136 true] = true := by decide +kernel

/-! ### Words that do not decode (R305, R313, R316) and management entries (R81 to R83, R132) -/

/-- An unassigned major; the guards 13 and 15; a nonzero reserved bit, a type past the row's, an operand code past the last. -/
theorem test_decode_refused :
    decode 0xC700000000000000 = .error .unassigned ∧ decode 0xC568000000000000 = .error .badGuard ∧ decode 0xC578000000000000 = .error .badGuard ∧
    decode 0xA260000000000001 = .error .badField ∧ decode 0x0664003001002000 = .error .badField ∧ decode 0x016000300100E00E = .error .badField ∧
    decodeTableWord 64 0x0768000000000000 = none := by decide +kernel

/-- An entry of op `op`, tag 7, fn 2 and ctx `c`, its operands at their offsets. -/
def entry (op c : Nat) (xs : List (Nat × Nat)) : Nat :=
  xs.foldl (fun w x => w + x.2 * 2 ^ (8 * x.1)) (op + 7 * 2 ^ 16 + 2 * 2 ^ 32 + c * 2 ^ 40)

theorem test_decode_entries_1 :
    let h (c : Nat) : MgmtHead := { tag := 7, fn := 2, ctx := c, extra := false }
    let r : CtxReq := { stprog := 4096, starg := 5, tarea := 8192, savea := 65536, slice := 100, resplit := 200, ceil := 1, heatk := 12, epoch := 10
                        quota := 64, ncell := 69632, svunits := 3 }
    ([(entry 1 0xFF [(8, 4096), (16, 5), (24, 8192), (32, 65536), (40, 100), (44, 200), (48, 1), (49, 12), (50, 10), (52, 64), (54, 69632), (58, 3)],
        .ctxnew (h 0xFF) r),
      (entry 2 3 [], .ctxreset (h 3)), (entry 3 3 [(8, 7), (16, 0x100F), (24, 9), (32, 0x2000)], .segset (h 3) 7 0x100F 9 0x2000),
      (entry 4 0xFF [(8, 3), (9, 255)], .weights (h 0xFF) 3 255), (entry 5 0xFF [(8, 0x123000), (16, 16)], .logset (h 0xFF) 0x123000 16),
      (entry 6 0xFF [(8, 1), (10, 500), (12, 4)], .fabread (h 0xFF) 1 500 4)].all fun (x : Nat × Instr) =>
      decide (decodeTableWord 512 x.1 = some x.2)) = true := by decide +kernel

/-- The three registers FABWRITE writes, and an entry with a byte its operation does not use; op 12 is none. -/
theorem test_decode_entries_2 :
    let h : MgmtHead := { tag := 7, fn := 2, ctx := 0xFF, extra := false }
    ([(entry 7 0xFF [(8, 1), (10, 500), (24, 9)], .fabwriteLnkerr h 500 9), (entry 7 0xFF [(8, 2), (10, 500), (24, 9)], .fabwritePairrt h 500 9),
      (entry 7 0xFF [(8, 3), (10, 4), (24, 16)], .fabwriteRemreq h 4 16), (entry 8 0xFF [(16, 4096), (24, 8192)], .attest h 4096 8192),
      (entry 9 0xFF [(8, 7)], .diefence h 7), (entry 10 0xFF [(8, 1)], .farpol h 1), (entry 11 0xFF [(8, 1)], .expgrant h 1),
      (entry 11 0xFF [(8, 1), (63, 1)], .expgrant { h with extra := true } 1)].all fun (x : Nat × Instr) =>
      decide (decodeTableWord 512 x.1 = some x.2)) && (decodeTableWord 512 (entry 12 0xFF [])).isNone = true := by decide +kernel

/-- The only context, changed. -/
def withCtx (f : Context → Context) (s : State) : State := { s with host := { s.host with ctxs := s.host.ctxs.map fun e =>
  (e.1, e.2.map f) } }

/-- The state that an instruction leaves. -/
def after (s : State) (i : Instr) : State := match exec i s with | .next t => t | _ => s

/-! ### Words that run: integer to lane-exchange words -/

theorem test_witness_IntegerArithmetic :
    [Instr.iadd always .i32 (.v 1) (.v 2) (.v 3), .isub always .n64 (.v 4) (.s 6) (.v 8), .iadds always .i16 (.v 1) (.v 2) (.imm 255),
     .imul always .n8 (.v 3) (.v 255) (.s 1023), .imulhi always .n32 (.v 3) (.v 1) (.v 2),
     .imad always .n32 (.idx 3 0) (.imm 2) (.v 60) (.v 224), .imin always .n16 (.v 4) (.v 5) (.v 6),
     .imax always .i8 (.v 4) (.v 5) (.v 6), .iabs always .i64 (.v 4) (.v 6), .ineg always .i32 (.s 1) (.imm 6),
     .iaddImm always .i32 (.s 4) (.s 4) (-8388608), .imadw always .n32 (.v 254) (.v 0) (.v 1) (.v 2),
     .iaddc always false (.v 4) (.v 4) (.v 6) 0 0, .iaddc always true (.v 4) (.v 4) (.v 6) 11 11,
     .iaddc always false (.s 4) (.imm 1) (.s 6) 12 12, .iaddc always false (.v 4) (.v 4) (.v 6) 13 12].all
      (fun i => meets (ready) i) = true := by decide +kernel

/-- Division by 0, the most negative value by −1, and an ordinary division. -/
theorem test_witness_IntegerDivision :
    let s := ready (vregs [(1, 0x80000000), (2, 0xFFFFFFFF), (3, 0xFFFFFFF9)])
    let x (is : Issue) (p : Src) : Int := IntTy.read .i32 (s.opnd is false p 31)
    meets s (.idiv always .i32 (.v 5) (.v 1) (.imm 0)) (fun is => x is (.imm 0) == 0) &&
    meets s (.irem always .i32 (.v 5) (.v 1) (.imm 0)) &&
    meets s (.idiv always .i32 (.v 5) (.v 1) (.v 2)) (fun is => x is (.v 1) == -2 ^ 31 && x is (.v 2) == -1) &&
    meets s (.irem always .i32 (.v 5) (.v 1) (.v 2)) &&
    meets s (.idiv always .i32 (.v 5) (.v 3) (.imm 2)) (fun is => x is (.v 3) == -7 && x is (.imm 2) == 2) &&
    meets s (.irem always .i64 (.v 4) (.v 6) (.v 8)) = true := by decide +kernel

theorem test_witness_LogicAndFields :
    [Instr.and always false (.v 1) (.v 2) (.v 3), .or always true (.v 2) (.v 4) (.v 6), .xor always false (.v 1) (.v 2) (.imm (-1)),
     .andn always false (.s 1) (.s 2) (.s 3), .not always true (.v 2) (.v 4), .andImm always false (.v 1) (.v 2) 8388607,
     .orImm always true (.v 2) (.v 4) (-8388608), .xorImm always false (.v 1) (.v 2) 1, .bfx always .i32 (.v 1) (.v 2) (.v 3),
     .bfx always .n64 (.v 2) (.v 4) (.v 8), .bfi always true (.v 2) (.v 4) (.v 6) (.v 10)].all (fun i => meets (ready) i) = true ∧
    32 ≤ IntTy.width .i32 ∧ 32 ≤ IntTy.width .n64 := by decide +kernel

theorem test_witness_Shifts :
    [Instr.shl always false (.v 1) (.v 2) (.imm 32), .shr always true (.v 2) (.v 4) (.imm 63), .sar always false (.v 1) (.v 2) (.v 6),
     .sar always true (.v 2) (.v 4) (.v 6), .rot always false (.v 1) (.v 2) (.imm 33),
     .fsh always false (.v 1) (.v 2) (.v 3) (.imm 24)].all (fun i => meets (ready) i) = true := by decide +kernel

theorem test_witness_BitCounts :
    [Instr.popc always true (.v 1) (.v 2), .clz always true (.v 0) (.v 2), .ctz always false (.s 0) (.s 2),
     .brev always false (.v 0) (.v 2)].all (fun i => meets (ready) i) = true := by decide +kernel

theorem test_witness_PermuteAddressSelect :
    [Instr.prmt always (.v 1) (.v 2) (.v 3) (.s 8), .lea always .n32 (.v 8) (.s 20) (.v 7) (.imm 15),
     .lea always .i32 (.v 8) (.s 20) (.v 7) (.imm 0), .sel always true (.v 2) (.v 4) (.imm 0) 11,
     .sel always false (.v 2) (.v 4) (.imm 0) 0].all (fun i => meets (ready) i) = true ∧ IntTy.width .n32 = 32 := by decide +kernel

theorem test_witness_ComparisonsAndPredicates :
    ([.eq, .ne, .lt, .le, .gt, .ge].all fun c : ICc => meets (ready) (.icmp always .n32 11 (.v 4) (.imm 7) c) &&
      meets (ready) (.icmpImm always .i64 0 (.v 4) c (-1048576))) &&
    ([.eq, .ne, .lt, .le, .gt, .ge, .num, .nan].all fun c : FCc => meets (ready) (.fcmp always .f64 2 (.v 6) (.v 8) c)) &&
    ([Instr.fclass always .f32 (.reg (.v 4)) (.v 2), .fclass always .f64 (.pred 7 (.imm 3)) (.v 2), .plop always 3 0 11 12 192,
      .pmov always 4 12, .pmovBit always 4 (.v 7) (.imm 31), .ppack always (.v 9) [0, 1, 2, 3, 4, 5, 6, 12],
      .punpack always (.v 9) [0, 0, 2, 12, 4, 5, 6, 11]].all fun i => meets (ready) i) = true := by decide +kernel

/-- LANERD of lane 31 that stands and of one that is absent; LANEWR of a live lane and of one that has exited. -/
theorem test_witness_MovesAndLaneAccess :
    let small := ready (fun g => { g with present := 0x0000000F, exited := 0x8, entries := g.entries.map fun e => { e with mask := 7 } })
    ([Instr.mov always false (.v 0) (.v 16), .mov always true (.v 2) (.s 4), .movToIndex always 3 (.v 7), .movFromIndex always (.v 7) 2,
      .movi always (.v 3) .b32 0xFFFFFFFF, .movi always (.v 4) .lo 0, .movi always (.v 4) .hi 0xFFFFFFFF, .movi always (.s 4) .i64 0x80000000,
      .movi always (.v 254) .n64 1, .bcast always 240 1008 16, .bcast always 8 4 1, .lanerd always false 9 (.v 4) (.imm 31),
      .lanewr always true 8 (.s 4) (.v 2), .setxw always 3 (.imm 40) (.imm 255), .setxw always 0 (.imm 0) (.imm 0)].all
        fun i => meets (ready) i) &&
    meets small (.lanerd always false 9 (.v 4) (.imm 4)) (fun is => !is.g.standing 4) &&
    meets small (.lanewr always false 9 (.v 4) (.imm 2)) (fun is => lane is.g.live 2) &&
    meets small (.lanewr always false 9 (.v 4) (.imm 3)) (fun is => !lane is.g.live 3) = true := by decide +kernel

theorem test_witness_FloatArithmetic :
    [Instr.fadd always .f32 (.v 1) (.v 2) (.v 3), .fsub always .f64 (.v 2) (.v 4) (.v 6), .fmul always .f16 (.v 1) (.v 2) (.imm (-256)),
     .ffma always .f32 (.v 4) (.v 1) (.v 2) (.v 4), .ffms always .bf16 (.v 4) (.v 1) (.v 2) (.v 3), .fscale always .f64 (.v 4) (.v 2) (.v 7),
     .fdiv always .f32 (.s 4) (.s 2) (.imm 3), .fsqrt always .f64 (.v 4) (.v 2)].all (fun i => meets (ready) i) = true := by
  decide +kernel

/-- Operands that are both NaN, NaN on either side, neither, and zeros of both signs. -/
theorem test_witness_FloatSpecialsAndSelection :
    let s := ready (vregs [(1, 0x7FC00001), (2, 0xFF800001), (3, 0x80000000), (4, 0), (5, 0xBF800000)])
    let nan (p : Src) (is : Issue) : Bool := (s.fopnd is .f32 p 0).isNan
    meets s (.fmin always .f32 (.v 9) (.v 1) (.v 2)) (fun is => nan (.v 1) is && nan (.v 2) is) &&
    meets s (.fmax always .f32 (.v 9) (.v 1) (.v 3)) (fun is => nan (.v 1) is && !nan (.v 3) is) &&
    meets s (.fminp always .f32 (.v 9) (.v 3) (.v 2)) (fun is => !nan (.v 3) is && nan (.v 2) is) &&
    meets s (.fmaxp always .f32 (.v 9) (.v 4) (.v 3))
      (fun is => (s.fopnd is .f32 (.v 4) 0).cmp (s.fopnd is .f32 (.v 3) 0) true == .gt) &&
    meets s (.fabs always .f32 (.v 9) (.v 5)) && meets s (.fneg always .f64 (.v 8) (.v 4)) &&
    ([.rn, .rz, .rd, .ru, .rna].all fun m => meets s (.frnd always .f32 (.v 9) (.v 5) m)) = true := by decide +kernel

theorem test_witness_Approximations :
    ([Instr.frcp always (.v 1) (.v 2), .frsq always (.v 1) (.v 2), .fexp2 always (.v 1) (.v 2), .flog2 always (.v 1) (.v 2),
      .fsin always (.v 1) (.v 2), .fcos always (.v 1) (.v 2), .ftanh always (.v 1) (.v 2)].all fun i => meets (ready) i) = true ∧
    0x7F800000 < 0x7F800001 % 2 ^ 31 ∧ 0x7F800000 < 0xFFFFFFFF % 2 ^ 31 := by decide +kernel

/-- Sources of CVT: an integer, a NaN, an infinity, an exact and an inexact float, and a scale. -/
theorem test_witness_ConversionAndPacking :
    let s := ready (vregs [(1, 0x7FC00000), (2, 0xFF800000), (3, 0x40200000), (4, 0x000000FF)])
    let v (t : CvtTy) (p : Src) (is : Issue) : Ex := s.cvtSrc is t p 0
    meets s (.cvt always .rn false .i8 .n64 (.v 8) (.v 2)) && meets s (.cvt always .rz false .i32 .f32 (.v 8) (.v 1)) (fun is => v .f32 (.v 1) is == .nan) &&
    meets s (.cvt always .rz false .n16 .f32 (.v 8) (.v 2)) (fun is => v .f32 (.v 2) is == .inf true) &&
    meets s (.cvt always .rz false .i32 .f32 (.v 8) (.v 3)) (fun is => match v .f32 (.v 3) is with
      | .fin n k e false => (Ex.fin n k e false).integral .rz == .fin n 2 0 false
      | _ => false) &&
    meets s (.cvt always .ru true .e5m2 .f32 (.v 8) (.v 3)) && meets s (.cvt always .rn false .f32 .e8m0 (.v 8) (.v 4)) &&
    ([Instr.pack always .f16 (.v 2) (.v 5) (.v 6) false false, .pack always .bf16 (.v 2) (.v 5) (.v 6) false false,
      .pack always .e4m3 (.v 2) (.v 5) (.v 6) true true, .pack always .e5m2 (.v 2) (.v 5) (.v 6) false false,
      .unpk always .f16 (.v 2) (.v 5) 1, .unpk always .bf16 (.v 2) (.v 5) 0, .unpk always .e4m3 (.v 2) (.v 5) 3,
      .unpk always .e5m2 (.v 2) (.v 5) 0, .unpk always .e3m2 (.v 2) (.v 5) 4, .unpk always .e2m3 (.v 2) (.v 5) 4,
      .unpk always .e2m1 (.v 2) (.v 5) 7].all fun i => meets s i) = true := by decide +kernel

/-- MXSCALE over lanes with a NaN, with only zeros, and with a largest finite value; the words of its section and the dot products,
with the special operands of FDOT2. -/
theorem test_witness_ScalingAndDotProducts :
    let s := ready (vregs [(1, 0x7FC00000), (2, 0), (3, 0x43FA0000), (4, 0x00007C00), (5, 0x3C003C00), (6, 0x00FF)])
    meets s (.mxscale always .e4m3 (.v 9) (.v 1)) (fun is => (lanes is.own).any fun l => s.fopnd is .f32 (.v 1) l == .nan) &&
    meets s (.mxscale always .e5m2 (.v 9) (.v 2)) (fun is => (lanes is.own).all fun l => (s.fopnd is .f32 (.v 2) l).isZero) &&
    meets s (.mxscale always .e2m1 (.v 9) (.v 3)) (fun is => (lanes is.own).all fun l => !(s.fopnd is .f32 (.v 3) l).isZero) &&
    meets s (.mxq always .e4m3 (.v 9) (.v 3) (.v 6) true) (fun is => (s.bv is 32 (.v 6) 0).toNat % 256 == 255) &&
    meets s (.mxq always .e3m2 (.v 9) (.v 3) (.v 2) false) && meets s (.mxdq always .e2m3 (.v 9) (.v 3) (.imm (-1))) &&
    meets s (.hfma2 always false (.v 9) (.v 5) (.v 5) (.v 5)) && meets s (.fdot2 always false (.v 9) (.v 5) (.v 5) (.v 1)) &&
    meets s (.fdot2 always false (.v 9) (.v 4) (.v 2) (.v 3)) (fun is =>
      ((s.half is .f16 (.v 4) 0 0).mul (s.half is .f16 (.v 2) 0 0)).1 == .nan) &&
    meets s (.fdot2 always true (.v 9) (.v 5) (.v 5) (.v 3)) &&
    ([.i8i8, .n8n8, .i8n8, .n8i8].all fun g => meets s (.idot4 always g true (.v 9) (.v 5) (.v 6) (.v 1))) = true := by decide +kernel

theorem test_witness_LaneShuffles :
    ([Instr.qswz always true (.v 2) (.v 4) (.imm 27), .qswz always false (.idx 0 2) (.idx 1 4) (.s 2), .qdiff always .fh (.v 2) (.v 4),
      .qdiff always .fv (.v 2) (.v 4), .qdiff always .ch (.v 2) (.v 4), .qdiff always .cv (.v 2) (.v 4),
      .shflPick always false (.v 2) (.v 4) (.v 5) 12 0, .shflRot always true (.v 2) (.v 4) (.v 6) 11 1,
      .shflSlide always false (.v 2) (.v 4) (.imm (-1)) 3 4, .shflFlip always false (.v 2) (.v 4) (.imm 1) 0 2].all
        fun i => meets (ready) i) = true ∧ dstIsS (.v 2) = false ∧ dstIsS (.idx 0 2) = false ∧
    ∀ is : Issue, is.resolvesAt true (.v 4) 31 := by
  refine ⟨by decide +kernel, rfl, rfl, fun _ => trivial⟩

/-- A vote with every member present, one with an absent member, and the words over participants. -/
theorem test_witness_VotesAndJoin :
    let part := ready (fun g => { g with entries := g.entries.map fun e => { e with mask := 0x0000FFFF } })
    ([Instr.voteMask always (.s 5) 2 (.imm (-1)) 6, .voteCount always (.v 5) 12 (.imm (-1)) 12, .voteLead always (.v 5) 0 (.imm 0) 11,
      .voteAgree always (.v 5) 0 (.v 3) 12, .matchMask always true (.v 2) (.v 4) (.s 6) 1, .matchLead always false (.v 2) (.v 4) (.imm (-1)) 12,
      .join always (.imm (-1))].all fun i => meets (ready) i && meets part i) &&
    ([.addN32, .minI32, .maxI32, .minN32, .maxN32, .and, .or, .xor].all fun o =>
      meets part (.redux always o (.s 5) (.v 3) (.imm (-1)) 6) && meets part (.scan always o (.v 5) (.v 3) (.imm (-1)) (.imm 5))) &&
    meets part (.voteAgree always (.v 5) 0 (.imm (-1)) 12) (fun is => !lane is.act 31 && lane is.g.present 31) = true := by
  decide +kernel

/-! ### Memory words -/

/-- Base registers: s20:s21 holds VA 4,096, v6:v7 the same in every lane, v4 a scratchpad address at the block's end, v5 a cell. -/
def mem0 (b : Block → Block := id) : State :=
  withCtx (fun c => { c with req := { c.req with ncell := 4 } })
    (ready (fun g => { sregs [(20, 4096)] (vregs [(6, 4096), (4, 65532), (5, 24)] g) with slim := 16, sbase := 4096 })
      fun k => { b k with args := 4096, cunits := 16 })

/-- LD and ST at both ends of the scratchpad, and LD of the block's own through the cluster. -/
theorem test_witness_ScratchpadAccess :
    let s := mem0
    let at_ (sp : Space) (base : Src) (off : Int) (n : Nat) (is : Issue) : Bool :=
      reaches s is sp base off n acRead is.act && (s.block? (s.padOf is sp 0)).isSome && is.g.late.isEmpty && is.own != 0
    meets s (.ld always .b32 (.v 8) .scratch (.v 4) .rlx .normal 0) (at_ .scratch (.v 4) 0 4) &&
    meets s (.ld always .i8 (.idx 2 3) .scratch (.v 8) .rlx .normal 0) (at_ .scratch (.v 8) 0 1) &&
    meets s (.ld always .b128 (.v 8) .peer (.v 8) .acq .normal 16) (at_ .peer (.v 8) 16 16) &&
    meets s (.st always .b32 (.v 8) .scratch (.v 4) .rlx 0) (at_ .scratch (.v 4) 0 4) &&
    meets s (.st always .b8 (.imm (-1)) .scratch (.v 8) .rel 32767) (at_ .scratch (.v 8) 32767 1) = true := by decide +kernel

/-- A load from home, from the constant and stack spaces, of the group's own posted store, of cells; LDC of 4 and of 64 bytes. -/
theorem test_witness_MemoryLoads :
    let s := mem0
    let own : State := { s with cores := SMap.set Core.reset s.cores 0 { s.core 0 with nextStore := 1, stores :=
      [{ id := 0, gid := 0, clause := 4096, word := 0, od := 0, width := 4, lanes := [(0, 4096, 4096, 7)], sp := 0, red := false }] } }
    let home (s : State) (sp : Space) (base : Src) (off : Int) (n : Nat) (is : Issue) : Bool :=
      (lanes is.act).all fun l => match s.reach is sp base off n n acRead l with
        | .ok a => s.serve is false a.ia n == .home
        | .error _ => false
    meets s (.ld always .b32 (.v 8) .global (.s 20) .acq .normal 64) (home s .global (.s 20) 64 4) &&
    meets s (.ld always .b64 (.v 8) .const (.v 8) .rlx .normal 4088) (home s .const (.v 8) 4088 8) &&
    meets s (.ld always .i16 (.v 8) .stack (.v 8) .rlx .normal 14) (home s .stack (.v 8) 14 2) &&
    meets own (.ld always .b32 (.v 8) .global (.s 20) .rlx .normal 0) (fun is =>
      (lanes is.act).all fun l => match own.reach is .global (.s 20) 0 4 4 acRead l with
        | .ok a => own.serve is false a.ia 4 == .data 7
        | .error _ => false) &&
    meets s (.ld always .b64 (.v 8) .cell (.v 5) .rlx .normal 0) (fun is => reaches s is .cell (.v 5) 0 8 acRead is.act) &&
    ([((0, 4092) : Nat × Int), (4, 0)].all fun (x : Nat × Int) => meets s (.ldc always x.1 64 .global (.s 20) .rlx .normal x.2) fun is =>
      match s.ldcReach is .global (.s 20) x.2 (4 * 2 ^ x.1) with
      | .ok ps => ps.all fun p => s.serve is p.chk p.ia (min (4 * 2 ^ x.1) 16) == .home
      | .error _ => false) = true := by decide +kernel

/-- Posted writes of every kind; the segment does not check, and the store buffer has room for every lane. -/
theorem test_witness_PostedWrites :
    let s := mem0
    let ok (sp : Space) (base : Src) (off : Int) (n : Nat) (t : Rights) (is : Issue) : Bool :=
      is.g.late.isEmpty && is.own != 0 && s.storeRoom is ((List.range 32).map (64 * ·)) &&
        s.storeRoom is ((lanes is.own).filterMap fun l => match s.reach is sp base off n n t l with
          | .ok a => some (if sp = .cell then 8 * a.a else a.a)
          | .error _ => none) && (lanes is.own).all fun l => match s.reach is sp base off n n t l with
        | .ok a => !a.chk
        | .error _ => false
    meets s (.st always .b32 (.v 8) .global (.v 6) .rel 8) (ok .global (.v 6) 8 4 acWrite) &&
    meets s (.st always .b128 (.v 8) .stack (.v 9) .rlx 0) (ok .stack (.v 9) 0 16 acWrite) &&
    meets s (.st always .b32 (.v 8) .peer (.v 4) .rlx 0) (ok .peer (.v 4) 0 4 acWrite) &&
    ([Instr.redAdd always .n32 (.v 2) .global (.s 20) .rlx 0, .redMin always .i32 (.v 2) .global (.s 20) .rel 0,
      .redMax always .n32 (.imm 1) .global (.s 20) .rlx 0, .redAnd always .n32 (.v 2) .global (.s 20) .rlx 0,
      .redOr always .n32 (.v 2) .global (.s 20) .rlx 0, .redXor always .n32 (.v 2) .global (.s 20) .sc 0,
      .redFadd always false (.v 2) .global (.s 20) .rlx 0].all fun i => meets s i (ok .global (.s 20) 0 4 acAtomic)) &&
    meets s (.redAdd always .n64 (.v 2) .global (.s 20) .rlx 4088) (ok .global (.s 20) 4088 8 acAtomic) &&
    meets s (.xclr always (.v 5) true 0) (ok .cell (.v 5) 0 8 acWrite) &&
    meets s (.redXadd always true (.v 8) (.v 5) .rlx (-24)) (ok .cell (.v 5) (-24) 8 acAtomic) = true := by decide +kernel

/-- Atomics on memory and on cells; one value below the other and the other way round, signed and natural. -/
theorem test_witness_MemoryAtomics :
    let s := mem0
    let ok (sp : Space) (base : Src) (n : Nat) (is : Issue) : Bool :=
      is.g.late.isEmpty && is.own != 0 && reaches s is sp base 0 n acAtomic is.own
    ([Instr.atomAdd always .n32 2 .global (.s 20) .rlx 0, .atomMin always .i32 2 .global (.s 20) .acq 0,
      .atomMax always .n32 2 .global (.s 20) .rel 0, .atomAnd always .n32 2 .global (.s 20) .sc 0,
      .atomOr always .n32 2 .global (.s 20) .ar 0, .atomXor always .n32 255 .global (.s 20) .rlx 0,
      .atomExch always .n32 0 .global (.s 20) .rlx 0, .atomCas always .n32 2 .global (.s 20) .rlx 0,
      .atomFadd always false 2 .global (.s 20) .rlx 0].all fun i => meets s i (ok .global (.s 20) 4)) &&
    meets s (.atomCas always .n64 2 .global (.s 20) .rlx 0) (ok .global (.s 20) 8) &&
    meets s (.atomXadd always true 2 (.v 5) .sc 0) (ok .cell (.v 5) 8) = true ∧
    ((0x80000000 : BitVec 32).toInt ≤ (1 : BitVec 32).toInt) ∧ ¬((0x80000000 : BitVec 32).toNat ≤ (1 : BitVec 32).toNat) := by
  decide +kernel

theorem test_witness_ScratchpadAtomics :
    let s := mem0
    let ok (sp : Space) (n : Nat) (is : Issue) : Bool :=
      is.g.late.isEmpty && is.own != 0 && reaches s is sp (.v 4) (-4) n acAtomic is.own && (s.block? (s.padOf is sp 0)).isSome
    ([Instr.atomAdd always .n32 2 .scratch (.v 4) .rlx (-4), .atomMin always .i32 2 .peer (.v 4) .acq (-4),
      .atomMax always .n32 2 .scratch (.v 4) .rel (-4), .atomAnd always .n32 2 .scratch (.v 4) .sc (-4),
      .atomOr always .n32 2 .scratch (.v 4) .ar (-4), .atomXor always .n32 2 .scratch (.v 4) .rlx (-4),
      .atomExch always .n32 2 .scratch (.v 4) .rlx (-4), .atomCas always .n64 2 .scratch (.v 4) .rlx (-4),
      .atomFadd always true 2 .scratch (.v 4) .rlx (-4), .redAdd always .n32 (.v 2) .peer (.v 4) .rlx (-4),
      .redMin always .i32 (.v 2) .scratch (.v 4) .rlx (-4), .redMax always .n64 (.v 2) .scratch (.v 4) .rlx (-4),
      .redAnd always .n32 (.imm 3) .scratch (.v 4) .rlx (-4), .redOr always .n32 (.v 2) .scratch (.v 4) .rlx (-4),
      .redXor always .n32 (.v 2) .scratch (.v 4) .sc (-4), .redFadd always false (.v 2) .scratch (.v 4) .rel (-4)].all
        fun i => meets s i fun is => ok .scratch 8 is && ok .peer 8 is) = true := by decide +kernel

/-- Hints on a page that is mapped and off it; fences of each scope; FLSIG with the highest name, with none; WATCH. -/
theorem test_witness_HintsAndFences :
    let s := mem0
    ([Instr.pref always .global (.v 6) .stream 128, .pref always .const (.v 8) .normal 0, .pref always .global (.v 8) .normal 0,
      .cctlDrop always .global (.v 6) (-4), .cctlDrop4k always .global (.v 6) 4, .cctlRenew always .global (.s 20) 0].all
        fun i => meets s i) &&
    ([.lane, .grp, .blk, .clu, .dev, .sys].all fun sc => [.acq, .rel, .sc, .ar].all fun o =>
      meets s (.fence always sc o) fun is => is.g.late.isEmpty) &&
    meets s (.flsig always none) (fun is => is.g.late.isEmpty && !s.releaseHeld is 0xFFFFFFFF) &&
    meets s (.flsig always (some 7)) (fun is => is.g.late.isEmpty && is.own != 0 && s.nameOk is 7 && !s.releaseHeld is 0xFFFFFFFF) &&
    meets s (.watch always 0 (.s 20) 4088) (fun is => is.own != 0 && s.nameOk is 0 &&
      match s.reach is .global (.s 20) 4088 8 8 acRead is.lowOwn with | .ok _ => true | .error _ => false) = true := by
  decide +kernel

/-- A record of each operation, from s16 up, that passes its checks within the page. -/
theorem test_witness_MemopIssue :
    let with_ (xs : List (Nat × BitVec 32)) : State :=
      withCtx (fun c => { c with req := { c.req with ncell := 4 } }) (ready (sregs xs))
    let ok (s : State) (kind ty : Nat) (is : Issue) : Bool :=
      let rs := (List.range 8).map fun k => is.g.sreg (16 + k)
      let n := memopSize kind ty
      is.g.late.isEmpty && is.own != 0 && decide ((s.md.memops.filter fun m => m.bid == s.nameBlock is).length < 8) &&
      s.nameOk is 2 && !memopBad kind ty rs &&
      (kind != 4 || memopReg rs 7 % 8 == 0 && decide (memopReg rs 7 / 8 < s.cellCount is.b.ctx)) &&
      match s.ctx? is.b.ctx with
      | some cx => (kind == 4 || cx.rangeFault acWrite 9 (memopY rs) (n * memopReg rs 4) == none) &&
          (kind == 0 || cx.rangeFault acRead 9 (memopX rs)
            (if kind = 4 then (memopReg rs 4 - 1) * memopReg rs 6 + n else n * memopReg rs 4) == none)
      | none => false
    let two := with_ [(16, 4096), (18, 6144), (20, 512)]
    let fill := with_ [(16, 4096), (18, 1), (20, 512)]
    let axpy := with_ [(16, 4096), (18, 6144), (20, 512), (21, 0x40000000)]
    let red := with_ [(18, 4096), (20, 512), (22, 8), (23, 24)]
    meets fill (.memopFill always 16 2) (ok fill 0 0) && meets axpy (.memopAxpy always .f32 16 2) (ok axpy 1 (memopTyCode .f32)) &&
    meets two (.memopAdd always .f16 16 2) (ok two 2 (memopTyCode .f16)) &&
    meets two (.memopMul always .bf16 16 2) (ok two 3 (memopTyCode .bf16)) &&
    meets red (.memopReduce always true 16 2) (ok red 4 1) && meets red (.memopReduce always false 16 2) (ok red 4 0) = true := by
  decide +kernel

/-! ### Barriers, copies, tiles and small matrices -/

/-- Slot 7 bound at offset 16, one arrival and four bytes short of its phase. -/
def slot7 : Slot := { off := 16, phase := 65535, pendA := 1, expA := 1, pendB := 4, expB := 4, peer := false, guard := false }
def bound7 (sl : Slot := slot7) (b : Block) : Block := { b with slots := SMap.put b.slots 7 sl }

/-- BINIT at the lowest and at the highest place of an object, EXPECT in both forms and in each clause, BTEST and BINVAL. -/
theorem test_witness_BarrierWords :
    let fresh (o : Nat) := ready (vregs [(4, BitVec.ofNat 32 o)]) fun b => b.writeN o 16 (2 ^ 16 + 2 ^ 32)
    let binds (o n : Nat) : Bool := meets (fresh o) (.binit always n (.v 4)) fun is => is.own != 0 && match (fresh o).block? 0 with
      | some b => o % 16 == 0 && decide (o + 80 ≤ b.spad) && decide (n < b.names) && (SMap.find? b.slots n).isNone && !b.badState o
      | none => false
    let s := ready id (bound7)
    let last := ready id (bound7 { slot7 with pendA := 0 })
    let bound (s : State) (is : Issue) : Bool := is.own != 0 && s.nameBlock is == 0 && (s.slotOf 0 7).isSome
    binds 0 0 && binds 65456 7 &&
    meets s (.expectOnce always 7 (.imm 255)) (bound s) && meets s (.expectOnce always 7 (.imm 0)) (bound s) &&
    meets s (.expectEach always 7 (.imm (-4))) (bound s) && meets last (.expectEach always 7 (.imm (-4))) (bound last) &&
    meets s (.expectEach always 7 (.imm 255)) (bound s) && meets s (.btestPa always (.v 4) 7) (bound s) &&
    meets s (.btestPb always (.s 4) 7) (bound s) && meets s (.btestAll always (.v 4) 7) (bound s) &&
    meets s (.btestPassed always 5 7 (.imm (-2))) (bound s) && meets s (.binval always 7) (bound s) = true := by decide +kernel

/-- ARRIVE by name, with and without a count, and by address; arrivals that leave counts, complete the phase, and overcount. -/
theorem test_witness_Arrivals :
    let s := ready (vregs [(4, 16)]) (bound7)
    let ok (is : Issue) : Bool := is.g.late.isEmpty && is.own != 0 && s.nameOk is 7 && (s.slotOf (s.nameBlock is) 7).isSome
    let at_ (sp : Space) (is : Issue) : Bool :=
      is.own != 0 && match s.address is sp (.v 4) 0 1 1 is.lowOwn with | .ok _ _ => true | .bad _ _ => false
    let due (a y : Nat) : State := { s with arrivals := [{ to_ := .name 0 7, a := a, y := y, by_ := .group 0 1, due := 0 }] }
    let w : Watch := { ia := 4096, ctx := 0, bid := 0, slot := 7, die := 0, home := 1 }
    meets s (.arrive always false 7 none) ok && meets s (.arrive always true 7 (some (.imm 0))) ok &&
    meets s (.arriveAddress always false false (.v 4) none) (at_ .scratch) &&
    meets s (.arriveAddress always true true (.v 4) (some (.imm 1))) (at_ .peer) &&
    ([due 1 0, due 1 4, due 0 4, due 2 0].all fun t => happens t .arrivalApply && (t.arrivals.find? t.arrivalReady).isSome &&
      (t.block? 0).any fun b => b.phase != .saved && b.phase != .restoring && (SMap.find? b.slots 7).isSome) &&
    happens { s with md := { s.md with fired := [w] } } .watchFire = true := by decide +kernel

/-- The page of memory with a copy map at VA 4,160: one dimension of 64 elements of 2^esize bytes from VA 4,096. -/
def mapped (esize : BitVec 8) (s : State) : State :=
  let bytes : List (Nat × BitVec 8) := [(4161, 0x10), (4168, esize), (4169, 1), (4171, 1), (4176, 64), (4212, 16)]
  let spot (ia : Nat) : Nat := ((s.cached (s.servingDie ia) ia).map fun leaf => s.place leaf ia).getD 0
  { s with mem := bytes.foldl (fun m x => Memory.write m (spot x.1) x.2) s.mem }

/-- An IA of the placed page's first unit is at hand for an access. -/
def near (s : State) (ia : Nat) (t : Rights) : Bool := match s.cached (s.servingDie ia) ia with
  | some leaf => leafPermits leaf t && (!leafF leaf || s.farUp) && !s.poisonedAt (leafF leaf) ia (s.place leaf ia) &&
    s.admits (s.servingDie ia) 0 0
  | none => false

/-- The links are up. -/
def linked (s : State) : State := { s with fab := { s.fab with up := true } }

/-- Every flit sent so far has landed. -/
def allLanded (s : State) : State :=
  { s with fab := { s.fab with links := s.fab.links.map fun e => (e.1, { e.2 with accepted := e.2.sent }) } }

/-- Each home looks at the oldest request that has landed at it, and the flits of its answer land. -/
def servedAll (s : State) : State :=
  allLanded ((List.range 17).foldl (fun t d => after t (.homeRequestAccept d 0)) (allLanded s))

/-- The first issue of each copy word, the second that is admitted, CPYX, COPY_ADMIT, and the request and the delivery of a unit. -/
theorem test_witness_Copies :
    let regs : List (Nat × BitVec 32) := [(16, 4160), (21, 1), (22, 1024)]
    let s := linked (mapped 0 (ready (sregs regs)))
    let r := linked (mapped 2 (ready (sregs ((23, 1) :: regs))))
    let makes (s : State) (is : Issue) : Bool := is.g.late.isEmpty && is.own != 0 && s.nameOk is 2 &&
      (match s.block? (s.nameBlock is), s.ctx? is.b.ctx with
       | some b, some cx => (b.waitsAt is).isNone && b.cmds.isEmpty && b.ghosts.isEmpty && cx.translate 4160 acRead == .ok (4160, false)
       | _, _ => false)
    let read (s : State) (i : Instr) : State := after (servedAll (after s i)) (.copyUnitDeliver 0 0 mapUnit)
    let admits (s : State) (i : Instr) : Bool :=
      let t := read s i
      meets t i fun is => match t.block? (t.nameBlock is) with
        | some b => (match b.waitsAt is with
          | some c => c.stage == 1 && t.nextCopy b.core == some (t.nameBlock is, c) && !c.bad b &&
              is.g.entryAt c.clause c.word c.lanes == some is.i
          | none => false)
        | none => false
    let asked := after s (.cpy always 16 2 false)
    let mapIn := servedAll asked
    let waiting := read s (.cpy always 16 2 false)
    let running := after waiting (.copyAdmit 0)
    let sent := after running (.copyUnitDeliver 0 0 0)
    let come := servedAll sent
    let one (t : State) (p : CopyCmd → Bool) : Bool := (t.block? 0).any fun b => b.phase == .live && b.ghosts.isEmpty &&
      match b.cmds with | [c] => c.key == 0 && c.fails.isEmpty && p c | _ => false
    meets s (.cpy always 16 2 false) (makes s) && meets s (.cpym always 16 2 1 true) (makes s) &&
    meets r (.cpyr always 16 2) (makes r) && meets s (.cpyg always 16 2 true) (makes s) &&
    admits s (.cpy always 16 2 false) && admits s (.cpym always 16 2 1 false) && admits r (.cpyr always 16 2) &&
    admits s (.cpyg always 16 2 false) && meets s (.cpyx always 2) (fun is => is.own != 0) &&
    happens waiting (.copyAdmit 0) && one mapIn (mapIn.unitReady · mapUnit) && happens mapIn (.copyUnitDeliver 0 0 mapUnit) &&
    happens running (.copyUnitDeliver 0 0 0) && one running (fun c => c.stage == 2 && !c.underWay mapUnit && !c.underWay listUnit &&
      !c.map.isEmpty && c.kind == 1 && decide (0 < c.units) && c.done.isEmpty && !c.underWay 0 && !c.toGlobal &&
      decide (running.copyFlight 0 < 64) && (c.elems 0).all fun e => match e.va with
        | some va => (match running.ctx? 0 with
            | some cx => cx.translate va acCopyRead == .ok (va, false)
            | none => false)
        | none => true) &&
    one come (fun c => come.unitReady c 0 && !c.toGlobal && c.kind != 3) && happens come (.copyUnitDeliver 0 0 0) = true := by
  decide +kernel

/-- A block with four accumulator units and tile 5 over the first one, at version 3; a row map at s20 and a matrix map at s40. -/
def tiled (xs : List (Nat × BitVec 32) := [(41, 0x00080010)]) : State :=
  ready (sregs ([(20, 0x1000), (21, 0x00020010), (22, 2)] ++ xs))
    fun b => { b with acc := 4, tiles := SMap.put b.tiles 5 { n := 1, first := 0, ver := 3 } }

/-- ACFG of each size and the releases; AFENCE; and each word of the tile engine as it completes. -/
theorem test_witness_Tiles :
    let free := ready id fun b => { b with acc := 4 }
    let done (i : Instr) : Bool :=
      let t := after (tiled) i
      happens t (.tileWordComplete 0) && (t.group? 0).any fun g => g.tileWords.any fun x => wordOf x.raw == some i &&
        (tileOf i).isSome && (g.entryAt x.clause x.word x.lanes).isSome
    meets free (.acfg always 0 (.imm 0) (.imm 0)) (fun is => (SMap.find? is.b.tiles 0).isNone) &&
    meets (tiled) (.acfg always 5 (.imm 0) (.imm 9)) (fun is =>
      (SMap.find? is.b.tiles 5).isSome && ((tiled).busyTiles is.g.bid).all fun x => x.1 != 5) &&
    meets free (.acfg always 63 (.imm 4) (.imm 0)) && meets free (.acfg always 0 (.imm 1) (.imm 3)) &&
    meets (tiled) (.acfg always 1 (.imm 2) (.imm 2)) (fun is => (SMap.entries is.b.tiles).all fun e => e.2.units.all fun x => decide (x < 2)) &&
    meets (tiled) (.afence always) &&
    done (.azero always 5 3 none) && done (.ald always 5 3 20 (some 7)) && done (.ast always 5 3 false 20 none) &&
    done (.ast always 5 0 true 20 none) && done (.ard always 5 3 false (.v 44) 80 16) && done (.awr always 5 3 (.v 44) 0 1) = true := by
  decide +kernel

/-- MMA with A in registers and MMAS with A by a map, and the words of the tile engine, on a configured tile. -/
theorem test_witness_MatrixIssue :
    let ok (scaled : Bool) (ty : MatTy) (a : ASrc) (is : Issue) : Bool := match SMap.find? is.b.tiles 5 with
      | some t => (matCheck scaled ty (match a with | .map _ => some (matMapOf (ASrc.mapOf is.g a)) | .regs _ => none)
          (matMapOf (is.g.record4 40)) (96 * t.n) is.b.spad).isSome
      | none => false
    let mx := tiled [(41, 0x00080010), (42, 4), (43, 4096), (49, 0x00200040), (50, 0x14), (51, 8192)]
    let rows (i : Instr) : Bool := meets (tiled) i fun is => (SMap.find? is.b.tiles 5).isSome &&
      !(rowMapOf (is.g.record4 20)).bad true ((highest is.act).getD 0) is.b.spad
    meets (tiled) (.mma always .e4m3 5 3 false (.regs (.v 16)) 40 .acc (some 4)) (ok false .e4m3 (.regs (.v 16))) &&
    rows (.azero always 5 3 none) && rows (.ald always 5 3 20 none) && rows (.ast always 5 3 false 20 none) &&
    rows (.ard always 5 3 false (.v 44) 95 1) && rows (.awr always 5 3 (.v 44) 80 16) &&
    meets mx (.mmas always .mx8e4 5 3 true (.map 48) 40 .sub none) (ok true .mx8e4 (.map 48)) = true := by decide +kernel

/-- An MMA before its first chunk and after its last, and one that stopped and may resume. -/
theorem test_witness_MatrixProduct :
    let s := after (tiled) (.mma always .e4m3 5 3 false (.regs (.v 16)) 40 .acc (some 4))
    let at_ (n : Nat) : State := s.modGroup 0 fun g => { g with mma := g.mma.map fun m => { m with chunk := n } }
    let stopped := s.modGroup 0 fun g => { g with mma := none, mres := (g.mma.map fun m => mresOf { m with chunk := 1 }).getD 0 }
    ((s.group? 0).any fun g => g.mma.any fun m => match s.mmaParts g m with
      | some (b, w, _, _, k, ch) => m.chunks == k / ch && decide (m.chunk < m.chunks) && b.copies.isEmpty && m.old == b.scratch &&
          (List.range 32).all fun i => (m.a.getD i [], m.ascale.getD i []) == g.rowNow b w.a m.amap w.ty k (k / ch) i
      | none => false) &&
    happens (at_ 2) (.mmaComplete 0) && ((at_ 2).group? 0).any (fun g => g.mma.any fun m => decide (m.chunks ≤ m.chunk)) &&
    happens stopped (.mmaResume 0) && (stopped.group? 0).any (fun g => stopped.mayResume g && g.mmaSlot.any fun k =>
      (SMap.find? g.oplog k).any fun o => (s.group? 0).any fun h => h.mma.any fun m => m.raw == o.raw &&
        m.tile == bits g.mres.toNat 57 6 &&
        m.bmap == (List.range 4).map (fun j => BitVec.ofNat 32 (SMap.get 0 o.data 0 / 2 ^ (32 * j))) && (stopped.mmaParts g m).isSome) =
      true := by decide +kernel

/-- Views k0, k1 and k2 of 2 × 2 f32 elements from v8, v16 and v24; k7 is not set. -/
def viewed (v : Nat) : State := ready fun g => { vregs [(40, BitVec.ofNat 32 v)] g with kshpa := 0x184910490849 }

/-- KSHAPE of the first and the last view; each small-matrix word with views that agree; and each word of its second part as it
completes. -/
theorem test_witness_SmallMatrices :
    let s := viewed 0o10
    let ok (i : Instr) : Bool := meets s i fun is => !is.g.detBad i && !is.g.viewsBad i && is.g.laneBad i is.act == 0
    let done (i : Instr) : Bool :=
      let t := after s i
      happens t (.kwordComplete 0) && (t.group? 0).any fun g => g.kwords.any fun x => wordOf x.raw == some i &&
        (g.entryAt x.clause x.word x.lanes).isSome && (0 : Nat) < viewCols ((g.shaped x.map).view 0) &&
        viewRows ((g.shaped x.map).view 0) == viewRows ((g.shaped x.map).view 2)
    meets s (.kshape always false 0 (.imm 8) 1 1) && meets s (.kshape always true 7 (.s 8) 6 6) && meets s (.kshapeClr always 2) &&
    ok (.kzero always 0) && ok (.keye always 1) && ok (.kadd always 0 1 2 12) && ok (.kmul always 0 1 2 0) && ok (.kmad always 0 1 2 11) &&
    ok (.ktrn always 0 1 12) && ok (.kchol always 0 1 2) && ok (.kldl always 0 1 12) && ok (.klu always 0 1 (.v 60) 12) &&
    ok (.ksolve always .lu 0 1 2 (some (.v 40)) 12) && ok (.ksolve always .chol 0 1 2 none 12) && ok (.ksolve always .ldl 0 1 2 none 12) &&
    ok (.kdet always (.v 60) 1 12) && ok (.kinv always 0 1 12) && done (.kzero always 0) && done (.keye always 0) &&
    done (.ktrn always 0 1 12) && done (.kadd always 0 1 2 12) && done (.kmul always 0 1 2 0) && done (.kmad always 0 1 2 12) = true := by
  decide +kernel

/-! ### Control and system words -/

/-- Branches whose guard is ready, taken by all lanes and by none; indirect ones at the lowest and the highest target. -/
theorem test_witness_Branches :
    let s := ready (vregs [(6, 0xFFFFFFF8), (7, 0x00FFFFFF)])
    let to_ (n : Nat) (is : Issue) : Bool := (lanes is.act).all fun l =>
      let x := s.opnd is true (.v n) l
      x % 8 == 0 && decide (x < 2 ^ 56) && !is.g.isHandler is.i && is.g.identFree
    meets s .nop && meets s (.bra always (-8) 2) (fun is => is.act == is.e.mask && is.g.identFree) && meets s (.call always 4072) (fun is => !is.g.isHandler is.i && is.g.identFree) &&
    meets s (.brx always (.v 8)) (to_ 8) && meets s (.brx always (.v 6)) (to_ 6) && meets s (.callx always (.v 6)) (to_ 6) &&
    meets s (.ret always (.v 8)) (to_ 8) = true ∧
    ((s.canRun (.bra ⟨false, 3⟩ 8 0) ⟨true, 3⟩).any fun is => !is.g.inFlight.contains (keyP 3)) = true := by decide +kernel

/-- EXIT of every lane, and of the lanes of one entry while another entry stands; YIELD. -/
theorem test_witness_ExitYield :
    let halves (e : Entry) : List Entry := [{ e with mask := 0x0000FFFF }, { e with clause := 8192, mask := 0xFFFF0000 }]
    let two := ready fun g => { g with entries := (g.entries.map halves).flatten }
    meets (ready) (.exit always) (fun is => is.g.late.isEmpty && !is.g.fw) &&
    meets two (.exit always) (fun is => is.g.late.isEmpty && !is.g.fw && is.g.live &&& ~~~is.act &&& ~~~is.g.helper != 0 &&
      (is.g.entries.take is.i).all fun e => e.mask &&& ~~~is.act != 0) &&
    meets (ready) (.yield always) = true := by decide +kernel

/-- TRAP and BKPT with a handler and without one, and BKPT with debug on. -/
theorem test_witness_Traps :
    let h := ready fun g => { g with tvec := 0x500000 }
    let d := { (ready) with guard := { (ready).guard with unlocked := 1 } }
    let free (is : Issue) : Bool := is.g.hasHandler && !is.g.trap && is.g.mma.isNone && !is.g.halted && !is.g.fw && is.g.specs.isEmpty &&
      is.g.entryOf is.e.mask == some is.i
    meets h (.trap always (.imm 255)) free && meets (ready) (.trap always (.imm 0)) (fun is => !is.g.hasHandler && !is.g.fw) &&
    meets h (.bkpt always) (fun is => free is && !h.debugOn is.b.ctx) && meets (ready) (.bkpt always) (fun is => !is.g.hasHandler) &&
    meets d (.bkpt always) (fun is => d.debugOn is.b.ctx) = true := by decide +kernel

/-- MIGRATE to the group's own rank, to rank 1 of a cluster of two, from a landing slot, of freight, and the end of the journey. -/
theorem test_witness_Migration :
    let pair (g : Group → Group) (b : Block → Block) : State :=
      let s := ready (fun g0 => sregs [(6, 0x00100000)] (g g0)) fun k => b { k with csize := 2, cluster := [0, 1] }
      { s with blocks := SMap.put s.blocks 1 { placedBlock with core := 1, csize := 2, clrank := 1, cluster := [0, 1] } }
    let ok (s : State) (is : Issue) : Bool := is.g.entries.length == 1 && (SMap.entries is.g.oplog).isEmpty &&
      !s.storesPending is 0xFFFFFFFF && decide (s.opnd is false (.s 6) is.low / 2 ^ 20 % 16 < is.b.csize)
    let s := pair id id
    let fr := pair (fun g => { g with cls := 2 }) fun b => { b with cls := 2 }
    let away := pair (fun g => { g with landed := some (1, 0) }) id
    let going := after s (.migrate always 1 (.s 6))
    meets s (.migrate always 0 (.imm 0)) (fun is => is.b.cls != 2 && is.g.landed.isNone) &&
    meets s (.migrate always 1 (.s 6)) (fun is => ok s is && is.b.cls != 2 && (s.freeLanding 1).isSome) &&
    meets fr (.migrate always 11 (.s 6)) (fun is => ok fr is && is.b.cls == 2) &&
    meets away (.migrate always 1 (.imm 0)) (fun is => is.g.landed.isSome) &&
    happens going (.migrateShippingDone 0) && ((going.group? 0).any fun g => g.migrating == some (1, 0) && !g.entries.isEmpty) = true := by
  decide +kernel

/-- LAUNCH of a record in memory; a complete load and a LAUNCH whose record has come; the answer to a malformed record. -/
theorem test_witness_LaunchPath :
    let s := ready (sregs [(12, 4096)])
    let read := (after s (.launch always 10 12 4)).modGroup 0 fun g => { g with oplog := g.oplog.map fun e => (e.1, e.2.map fun o => { o with pending := 0 }) }
    let load := (after (ready (sregs [(20, 4096)])) (.ld always .b32 (.v 8) .global (.s 20) .rlx .normal 0)).modGroup 0
      fun g => { g with oplog := g.oplog.map fun e => (e.1, e.2.map fun o => { o with pending := 0 }) }
    let done (t : State) (kind : OpKind) : Bool := happens t (.loadComplete 0 0) && (t.group? 0).any fun g => g.live != 0 &&
      (SMap.find? g.oplog 0).any fun o => o.kind == kind && o.pending == 0 && o.notNow == 0 && !o.unconfirmed && o.deferred.isEmpty && o.replies.all (fun k => t.landed k) &&
        o.faulted == 0
    let sent := after read (.loadComplete 0 0)
    meets s (.launch always 10 12 4) (fun is => is.g.late.isEmpty && is.own != 0 &&
      match s.reach is .global (.s 12) 0 128 128 acRead 0 with | .ok _ => true | .error _ => false) &&
    done read .launch && done load .load && happens sent .launchReply && (match sent.box.launches, sent.ctx? 0 with
      | m :: _, some cx => (sent.refusal 0 cx (taskOfBytes m.bytes)).isSome
      | _, _ => false) = true := by decide +kernel

/-- SRD of every register of its list, a context's segments in firmware, and SWR of every register of its list. -/
theorem test_witness_SystemRegisters :
    let fw := ready fun g => { g with fw := true }
    let s := ready (sregs [(4, 0x00000849)])
    ([0x000, 0x001, 0x002, 0x003, 0x004, 0x005, 0x006, 0x008, 0x009, 0x00A, 0x00B, 0x00C, 0x00D, 0x010, 0x011, 0x012, 0x020].all
      fun n => meets s (.srd always (.v 8) n)) &&
    ((List.range 8).all fun k => [0x100, 0x101, 0x102].all fun r => meets fw (.srd always (.s 8) (r + 3 * k)) fun is =>
      is.g.fw && (fw.ctx? is.b.ctx).isSome) &&
    ([0x001, 0x002, 0x003, 0x008, 0x009, 0x00A, 0x00B, 0x010, 0x011].all fun n => meets s (.swr always (.v 8) n)) &&
    ([0x00C, 0x00D].all fun n => meets s (.swr always (.s 4) n) fun is => !kshpBad (s.opnd is true (.s 4) is.low)) = true := by
  decide +kernel

/-- ERET from a trap, from firmware while another group is not done and for the last one; HOSTINT sent, masked and in reset; the
logbook words without an area and with one. -/
theorem test_witness_ReturnAndHostWords :
    let trap := ready fun g => { g with trap := true, tpc := 0x1000000000400300 }
    let fw (b : Block → Block) := ready (fun g => { g with fw := true, resume := g.entries }) b
    let last := fw fun b => { b with parts := 0x10, phase := .restoring }
    let wait := fw id
    let vec (f : Func → Func) : State := (ready).setFunc 0 (f ((ready).func 0))
    let book := withCtx (fun c => { c with lbBase := 4096, lbN := 6, lbProd := 63 }) (ready)
    meets trap (.eret always) (fun is => !is.g.fw && is.g.trap) &&
    meets wait (.eret always) (fun is => is.g.fw && !is.b.parts.getLsbD 4) &&
    meets last (.eret always) (fun is => is.g.fw && is.b.parts.getLsbD 4 && (Block.gids is.g.bid is.b) == [0] && is.b.heldArrivals.isEmpty && last.md.reqs.isEmpty &&
      (SMap.entries is.g.oplog).isEmpty) &&
    meets (ready) (.hostint always) (fun is => is.own != 0 && is.g.late.isEmpty && !(ready).releaseHeld is 0xFFFFFFFF && ((ready).ctx? is.b.ctx).isSome) &&
    meets (vec fun f => { f with masked := SMap.set false f.masked 8 true }) (.hostint always) &&
    meets (vec fun f => { f with flr := 4 }) (.hostint always) &&
    meets (ready) (.pmark always (.imm 5)) && meets (ready) (.logw always 1020 4095) &&
    meets book (.pmark always (.imm 5)) (fun is => (book.ctx? is.b.ctx).any fun c => c.lbBase != 0 && decide
      ((c.lbProd + 1 + 2 ^ 64 - ofBytes ((book.funcRead c.fn (some is.b.ctx) (c.lbBase + 8) 8).getD [])) % 2 ^ 64 ≤ 2 ^ c.lbN)) &&
    meets book (.logw always 8 0) = true := by decide +kernel

/-- Each part of a save and of a restore, once the parts before it are done. -/
theorem test_witness_SaveAndRestore :
    let fw (p : BitVec 8) (g : Group → Group := id) := ready (fun k => g { k with fw := true })
      fun b => { b with parts := p, spad := 16, scount := 8, vcount := 8, acc := 0, phase := .halting }
    let at_ (ps : List Nat) (is : Issue) : Bool :=
      is.g.fw && is.gid / 32 == is.g.bid && (List.range 8).all fun k => is.b.parts.getLsbD k == ps.contains k
    meets (fw 0) (.ctxsaveCopy always) (at_ []) &&
    meets (fw 1) (.ctxsaveAcc always) (fun is => at_ [0] is && !(fw 1).engineBusy is.g.bid) &&
    meets (fw 3) (.ctxsaveGrp always) (fun is => at_ [0, 1] is && !is.g.grpSaved && (fw 3).groupSettled is.gid) &&
    meets (fw 3 fun g => { g with grpSaved := true }) (.ctxsaveBlk always) (fun is => at_ [0, 1] is && is.g.grpSaved &&
      !(fw 3).blockStores is.g.bid) &&
    meets (fw 0) (.ctxrestBlk always) (at_ []) && meets (fw 128) (.ctxrestGrp always) (fun is => at_ [7] is && !is.g.grpLoaded) &&
    meets (fw 128 fun g => { g with grpLoaded := true }) (.ctxrestAcc always) (at_ [7]) &&
    meets (fw 160 fun g => { g with grpLoaded := true }) (.ctxrestCopy always) (at_ [5, 7]) = true := by decide +kernel

/-! ### Management, links, channels and modules -/

/-- An image that verifies. -/
def image : BootImage := { signed := true, keyFused := true, version := 1 }

/-- The machine after bring-up. -/
def up : State := match execDeviceReset ⟨true, [image]⟩ State.reset with | .next t => t | _ => State.reset

/-- The heads of entries about function fn as a whole, and about its context 0. -/
def ofFn (fn : Nat) : MgmtHead := { tag := 7, fn := fn, ctx := 0xFF, extra := false }
def ofCtx : MgmtHead := { tag := 7, fn := 0, ctx := 0, extra := false }

theorem test_witness_up : up.fab.up = true ∧ up.fab.lasers.length = 5 ∧ (up.link 0 1).rxLive = 0xFFFF := by decide +kernel

theorem test_witness_ManagementOfFunctions :
    let s := ready
    let r : CtxReq := { stprog := 4096, starg := 0, tarea := 0, savea := 0, slice := 1000000, resplit := 1, ceil := 0, heatk := 12
                        epoch := 1, quota := 4096, ncell := 4, svunits := 1 }
    let cells : CtxReq := { r with ncell := 69632, svunits := 16777215 }
    let none_ := { s with host := { s.host with ctxs := [] } }
    let good (r : CtxReq) : Bool := ctxReqOk r && SMap.freeKey none_.host.ctxs 0 128 == some 0 && none_.freeCells r.ncell == some 0 &&
      none_.savesFit r.svunits && !(s.func 0).disabled && (s.func 0).flr == 0
    let seg (n : Nat) (b l o : DWord) : Bool := happens s (.segset ofCtx n b l o) && s.named ofCtx == some 0
    happens s (.weights (ofFn 63) 1 255) && happens s (.weights (ofFn 0) 0 1) && happens s (.weights (ofFn 64) 1 1) &&
    happens s (.expgrant (ofFn 1) 1) && happens s (.expgrant (ofFn 0) 1) && seg 8 1 0 0 && seg 7 0 0 0 &&
    seg 1 0x100001 0 0xFFFFFFFFFF000 && seg 1 0x100001 1 0xFFFFFFFFFF000 && seg 1 0x1001 0 0 &&
    happens s (.logset (ofFn 0) 0 0) && happens s (.logset (ofFn 0) 4097 6) && happens s (.logset (ofFn 0) 4096 5) &&
    good r && happens s (.ctxnew (ofFn 0) cells) = true := by
  decide +kernel

/-- A station starts wherever the free pick falls, where a core has room for it. -/
theorem exists_startStation (s : State) (ctx : Nat) (hc : (s.ctx? ctx).isSome = true)
    (h : ((List.range 64).filter fun c => s.coreLive c && !s.mixes c ctx false && decide (s.stations c < 2)
      && decide ((s.usedSlots c false).length < 64)).length ≠ 0) : (s.startStation ctx).isSome = true := by
  unfold State.startStation
  cases hx : s.ctx? ctx with
  | none => simp [hx] at hc
  | some cx =>
    simp only []
    generalize (List.range 64).filter _ = cs at h ⊢
    have hlt : Config.freePick s.free % cs.length < cs.length := Nat.mod_lt _ (Nat.pos_of_ne_zero h)
    rw [List.getElem?_eq_getElem hlt]
    rfl

theorem test_witness_ManagementOfFunctions_station :
    let s := { (ready) with host := { (ready).host with ctxs := [] } }
    let r : CtxReq := { stprog := 4096, starg := 0, tarea := 0, savea := 0, slice := 1000000, resplit := 1, ceil := 0, heatk := 12
                        epoch := 1, quota := 4096, ncell := 4, svunits := 1 }
    ((s.setCtx 0 (newContext 0 0 0 s.now r)).startStation 0).isSome = true :=
  exists_startStation _ _ (by decide +kernel) (by decide +kernel)

/-- A log of 64 records within two pages above VA 4,096. -/
theorem test_witness_ManagementOfFunctions_log :
    let s := withCtx (fun c => { c with segs := SMap.set Segment.reset [] 0 { placedSegment with l := 1 } }) (ready)
    s.holdsArea 0 none 8192 (32 * 2 ^ 6) && (s.areaSeg 0 none (8192 - 16)).isSome && happens s (.logset (ofFn 0) 8192 6) = true := by
  decide +kernel

theorem test_witness_ManagementOfDevice :
    let s := up
    let module (n : Nat) (req : Bool) : State :=
      { s with fab := { s.fab with lasers := s.fab.lasers.set 0 { (s.laser 0) with state := n, remreq := req } } }
    happens s (.fabread (ofFn 0) 0 (32 * 25 + 24) 1) && happens s (.fabread (ofFn 0) 3 1 4) && happens s (.fabread (ofFn 0) 3 2 4) &&
    (s.fabRegister 3 4).isSome && (s.fabRegister 3 5).isNone && (s.fabRegister 0 (32 * 25 + 24)).isSome &&
    happens s (.fabwriteLnkerr (ofFn 0) (32 * 1 + 9) 5) && happens s (.fabwritePairrt (ofFn 0) 1 0x2408) &&
    happens s (.fabwritePairrt (ofFn 0) 1 0) && !usedPair 3 3 && happens s (.fabwriteLnkerr (ofFn 0) (32 * 3 + 3) 5) &&
    ([0, 1, 2, 3, 4].all fun n => happens (module n false) (.fabwriteRemreq (ofFn 0) 0 0x10)) && s.standby == some 4 &&
    s.fab.standbyFor.isNone && happens s (.fabwriteRemreq (ofFn 0) 0 0x10) && happens s (.fabwriteRemreq (ofFn 0) 4 0) &&
    happens s (.diefence (ofFn 0) 7) && happens s (.diefence (ofFn 0) 8) &&
    happens { s with guard := { s.guard with fenced := 1 } } (.diefence (ofFn 0) 0) && happens s (.farpol (ofFn 0) 1) &&
    s.md.uio.isEmpty && happens s (.farpol (ofFn 0) 0) && happens s (.farpol (ofFn 0) 2) = true := by decide +kernel

/-- A flit of class 0, with a kind and an info as the control messages of class 3 carry them. -/
def flit (seq kind : Nat) (info : BitVec 40) : Flit :=
  { seq := seq, ack := 0, tc := 0, nak := false, relay := false, opsrc := 1, odst := 9, pseq := some 0, kind := kind, info := info, payload := 0 }
/-- A flit on the wire over the full stripe. -/
def sentFlit (f : Flit) : Sent := { flit := f, live := 0xFFFF, g := 0, hit := false }

theorem test_witness_LinkEvents :
    let s (f g : Link → Link) : State := (up.modLink 1 9 f).modLink 9 1 g
    let f0 := flit 0 9 0
    let relayed := { up with fab := { up.fab with relayIn := SMap.set [] up.fab.relayIn 1 [{ f0 with opsrc := 2 }] } }
    let late := { (s (fun l => { l with buf := [(f0, 0)] }) id) with now := 512 }
    let acks := { (s (fun l => { l with unacked := 1, ackAt := 0 }) id) with now := 64 }
    usedPair 1 9 && ((List.range 26).all fun d => (up.link 1 d).relayVia.isNone) && (up.link 1 9).queue.isEmpty && (up.link 9 1).txLive != 0 &&
    (up.link 1 9).txLive != 0 && (up.link 1 9).pairExp == 0 && (up.link 1 9).expSeq == 0 && (up.link 1 9).rxLive == 0xFFFF &&
    happens (s (fun l => { l with wire := [sentFlit f0], unacked := 31 }) id) (.flitReceive 1 9 0) &&
    happens (s (fun l => { l with wire := [{ sentFlit f0 with hit := true }] }) id) (.flitReceive 1 9 0) && !crcPasses 1 &&
    happens (s (fun l => { l with wire := [sentFlit f0] }) id) (.flitReceive 1 9 1) &&
    happens acks (.ackFlitTimer 1 9) && happens (s (fun l => { l with ackIn := some 3, buf := [(flit 3 9 0, 0)] }) id) (.ackReceive 1 9) &&
    happens (s (fun l => { l with ackIn := some 0, buf := [(f0, 0)] }) id) (.ackReceive 1 9) &&
    happens (s (fun l => { l with nakIn := some 0, buf := [(f0, 0)] }) id) (.nakReplay 1 9) && happens late (.replayTimeout 1 9) &&
    happens (s id fun l => { l with ctlIn := [flit 0 2 3] }) (.pauseReceive 1 9) &&
    happens (s id fun l => { l with ctlIn := [flit 0 3 0] }) (.pauseReceive 1 9) &&
    happens relayed (.relayedFlitForward 1) && relayed.mayForward 1 { f0 with opsrc := 2 } = true := by decide +kernel

theorem test_witness_ChannelEvents :
    let s (f g : Link → Link) : State := (up.modLink 1 9 f).modLink 9 1 g
    let at_ (t : Nat) (f : Link → Link) : State := { (s f id) with now := t }
    let dead (l : Link) : Link := { l with rxLive := 0xFFF0, rxDead := 0x000F }
    let ends := noteTime [] 0x000F 40000
    let trained (l : Link) : Link := { l with training := 0x000F, trainEnd := ends }
    happens up (.channelDead 1 9 1 true) && happens up (.channelDead 1 9 0xFFFF false) && (1 : BitVec 16) &&& (up.link 1 9).rxLive != 0 &&
    happens (s (fun l => { l with buf := [(flit 5 9 0, 0)] }) fun l => { l with ctlIn := [flit 0 4 0x5FFF0] }) (.channelState 1 9) &&
    ((List.range 26).all fun d => (up.link 1 d).relayVia.isNone) && (up.link 1 9).queue.isEmpty &&
    happens (s (fun l => { l with report := some (0xFFFF, Ticket.here) }) id) (.linkChangeReport 1 9) && up.landed Ticket.here &&
    happens (at_ 2000000 dead) (.channelRetrainStart 1 9 0x000F) && (0x000F &&& ((at_ 2000000 dead).link 1 9).rxDead &&& (at_ 2000000 dead).lit) == 0x000F &&
    (at_ 2000000 dead).steady ((at_ 2000000 dead).link 1 9) 0x000F && ((List.range 4).all fun k => SMap.get 0 ends k == 40000) &&
    happens (at_ 40000 trained) (.channelTrainingEnd 1 9 0x000F true) && happens (at_ 40000 trained) (.channelTrainingEnd 1 9 1 false) &&
    happens (at_ 20000 fun l => { l with downAt := some 0 }) (.pairdownTimeout 1 9) = true := by decide +kernel

theorem test_witness_LaserEvents :
    let m (k : Nat) (f : Laser → Laser) (s : State) : State :=
      { s with fab := { s.fab with lasers := s.fab.lasers.set k (f (s.laser k)) } }
    let failed := m 0 (fun l => { l with state := 4, planes := 15, lost := l.planes, failedAt := some 0, recorded := false }) up
    let later := { failed with now := 20000 }
    let committed := after later .standbyCommit
    (up.laser 0).state == 3 && happens up (.laserFail 0) && happens failed (.laserMonitorReport 0) && (failed.laser 0).state == 4 &&
    failed.restriped && happens later .standbyCommit && later.standby == some 4 && later.toReplace == some 0 &&
    happens committed .standbyLightOn && committed.fab.standbyFor == some (0, 4) && !committed.fab.standbyLit && committed.restriped &&
    happens committed .standbyFail && !up.moving 4 &&
    happens (m 4 (fun l => { l with remreq := true, planes := 15 }) up) (.moduleRemoval 4) &&
    happens (m 4 (fun l => { l with state := 5, recorded := true, out := true }) up) (.moduleOut 4) &&
    happens (m 4 (fun l => { l with state := 0 }) up) (.moduleInsert 4) && happens (m 4 (fun l => { l with state := 1 }) up) (.moduleWarmDone 4) =
      true := by decide +kernel

/-! ### Homes -/

/-- A state whose entry holds a word, after the word; its requests have reached their homes. -/
def sent (w : BitVec 64) (i : Instr) : State :=
  let s := after ((mem0).modGroup 0 fun g => { g with entries := g.entries.map fun e => { e with code := some [headerFor w, w] } }) i
  { s with md := { s.md with reqs := s.md.reqs.map fun r => { r with ticket := Ticket.here } } }

/-- A home's next request is looked at, admitted and served from the page that its die holds. -/
def servedAt (s : State) : Bool := match s.md.reqs with
  | r :: _ =>
    let home := s.homeOf r
    let ia := (r.lanes.head?.map (·.ia)).getD 0
    r.kind != .renew && r.waiting.isNone && r.retryAt.isNone && s.arrived r && !s.cellBefore home r.tag (s.reqGroup r) && !s.hostHeld home r &&
      (s.func r.fn).flr == 0 && s.admits home r.src r.fn && !r.spec && r.lanes.all (fun a => !a.chk) && decide r.oneUnit &&
      (s.md.poison.isEmpty && s.md.lost == 0) && match s.cached home ia with
      | some leaf => leafPermits leaf r.kind.access && !leafF leaf && !leafZ leaf && s.writable r.ilines
      | none => false
  | [] => false

/-- A load and a store that are served, of 4 and of 16 bytes; a request of a function in reset, one not admitted, one whose page
is not held and one to be sent again; a store that is held back, one held whose leases have ended, and one on the far link. -/
theorem test_witness_HomeRequests :
    let ld : Instr := .ld always .b32 (.v 8) .global (.s 20) .rlx .nolease 64
    let s := sent ((encode ld).getD 0) ld
    let w := sent 0 (.st always .b32 (.v 8) .global (.s 20) .rlx 64)
    let first (s : State) (p : Req → Bool) : Bool := match s.md.reqs with | r :: _ => p r | [] => false
    let home (s : State) : Nat := (s.md.reqs.head?.map s.homeOf).getD 0
    let accept (s : State) : Bool := happens s (.homeRequestAccept (home s) 0)
    let flr : State := s.setFunc 0 { s.func 0 with flr := 4 }
    let cold : State := { s with xl := { s.xl with tlb := [] } }
    let again : State := { s with md := { s.md with reqs := s.md.reqs.map fun r => ({ r with retryAt := some s.now } : Req) } }
    let leaf := (w.cached (home w) 4096).getD 0
    let full : State := { s with md := { s.md with held := (List.range 128).map fun _ =>
      ({ req := s.md.reqs.headD (reqBase 0 0 0 (.pref 0) .load [] 1), pa := 0, leaf := 0 } : HeldWrite) } }
    let busy : State := { w with md := { w.md with lines := SMap.set Line.reset w.md.lines 32 { Line.reset with leaseEnd := w.now + 9 } } }
    let held : State := { w with md := { w.md with reqs := [], held := w.md.reqs.map fun r => ({ req := r, pa := 4160, leaf := leaf } : HeldWrite) } }
    let far : State := { held with md := { held.md with held := [], uio := held.md.held.map fun h => ({ h with leaf := h.leaf ||| 0x100 } : HeldWrite) } }
    servedAt s && accept s && (first s fun r => r.kind == .load && !r.alloc && r.who == .op 0 0 && r.width == 4) &&
    ((s.group? 0).any fun g => (SMap.find? g.oplog 0).any fun o => wordOf o.raw == some ld) &&
    servedAt w && accept w && (first w fun r => r.kind == .store) && accept flr && accept full &&
    (first full fun r => full.arrived r && !full.admits (home full) r.src r.fn && (full.func r.fn).flr == 0) && accept busy &&
    (first busy fun r => !busy.writable r.ilines && busy.admits (home busy) r.src r.fn) && accept cold &&
    (first cold fun r => (cold.cached (home cold) 4096).isNone && (cold.waiterOf r).isSome && cold.mergeCount (home cold) == 0) &&
    happens again (.retryResend (home s) 0) && again.md.cellReqs.isEmpty && (first again fun r => again.landed r.reply && decide r.oneUnit) &&
    happens held (.heldWritePerform (home w)) && (held.md.held.all fun h => held.homeOf h.req == home w && !leafF h.leaf && !leafZ h.leaf &&
      decide h.req.oneUnit && h.req.ilines.all fun p => held.lineFree p) &&
    !far.md.uio.isEmpty && (far.md.uio.all fun h => leafF h.leaf && far.landed h.req.ticket && decide h.req.oneUnit) = true := by decide +kernel

/-- A load request of lane 0 for VA 4,096. -/
def request (who : Requester) (kind : ReqKind) : Req :=
  reqBase 0 0 0 who kind [{ lane := 0, va := 4096, ia := 4096, data := 0, data2 := 0 }] 4

/-- An operation-log entry of a load that lane 0 waits for. -/
def pendingLoad : OpEntry :=
  { kind := .load, clause := 4096, word := 0, raw := 0, pending := 1, vas := [], data := [], faulted := 0, causes := [], deferred := []
    dregs := [], od := 0, sp := 0, spec := false, notNow := 0, unconfirmed := false, replies := [] }

/-- A fill of one word that MEMOP 0 of block 0 still has to write; its home may have accepted it. -/
def fill8 : Memop := { id := 0, gid := 0, bid := 0, lane := 0, ctx := 0, kind := 0, ty := 0, regs := [0, 0, 1, 0], slot := 2, units := [(4096, 8)]
                       asked := [], open_ := [], fails := [], src := 0, clause := 4096, word := 0
                       segs := SMap.set Segment.reset [] 0 placedSegment }
def accepted8 (f : RangeUnit → RangeUnit := id) : Memop :=
  { fill8 with units := [], open_ := [f { va := 4096, bytes := 8, home := (mem0).servingDie 4096, ia := 4096, leaf := placedLeaf, stage := 0
                                          left := 0, replies := [], got := [], bad := [], poison := false }] }
/-- The memory dies changed. -/
def dies (f : MemDies → MemDies) : State := { (mem0) with md := f (mem0).md }
/-- The home of IA 4,096 holds as many requests of die 0 as it may. -/
def crowd (m : MemDies) : MemDies :=
  { m with held := (List.range 128).map fun _ => ({ req := request (.pref 0) .load, pa := 0, leaf := 0 } : HeldWrite) }

/-- A delta whose tag is new and one whose tag is kept, its answer and the store buffer's; the answer that a MEMOP waits for; a peer
store at the block's last bytes; a write class that decays. -/
theorem test_witness_WriteAcknowledgements :
    let d (w : Requester) : Delta :=
      { tag := 9, home := 2, pdie := 3, stripe := 5, bytes := [(0, 1), (255, 2)], req := request w .store
        results := [], flags := [], poison := 0, leaf := placedLeaf, ticket := Ticket.here }
    let own (sp : Nat) (at_ : Nat) (acks : List StoreAnswer) : State :=
      { (mem0) with cores := SMap.set Core.reset (mem0).cores 0 { (mem0).core 0 with acks := acks, stores :=
        [{ id := 7, gid := 0, clause := 4096, word := 0, od := 0, width := 4, lanes := [(0, 4096, at_, 7), (31, 4096, at_, 8)], sp := sp, red := false }] } }
    happens (dies fun m => { m with deltas := [d (.store 0 7)] }) (.parityDelta 3) &&
    happens (dies fun m => { m with deltas := [d (.store 0 7)], tags := [(9, 3, 0, [])] }) (.parityDelta 3) &&
    (mem0).landed Ticket.here && !leafZ placedLeaf && (mem0).keepsParity && ((d (.memop 0 4096)).bytes.all fun x => decide (x.1 < 256)) &&
    happens (dies fun m => { m with parityAcks := [d (.store 0 7)] }) (.parityAck 2) &&
    happens (dies fun m => { m with parityAcks := [d (.memop 0 4096)], memops := [accepted8] }) (.parityAck 2) &&
    happens (own 0 4096 [{ id := 7, ok := 0x80000000, poison := 0, flags := [(31, 3)], ticket := Ticket.here }]) (.storeAck 0) &&
    happens (own 2 65532 []) (.storeAck 0) && ((own 2 65532 []).block? 0).isSome &&
    happens { (dies fun m => { m with lines := SMap.set Line.reset m.lines 32 { Line.reset with wclass := 3 } }) with now := 4096 }
      (.writeClassDecay 32) = true := by decide +kernel

/-- A renewal and its answer; a cell read, refused, updated with a mirror and without one, and the mirror; a fill's unit; granules
back. -/
theorem test_witness_HomeEngines :
    let renew := dies fun m => { m with reqs := [request (.op 0 0) .renew] }
    let home := (mem0).servingDie 4096
    let n : Renewal := { gid := 0, slot := 0, die := 0, ok := true, line := 32, bytes := List.replicate 128 0, version := 0, leaseEnd := 1024
                         lanes := (request (.op 0 0) .renew).lanes, poison := 0, bad := 0, ticket := Ticket.here }
    let op (o : OpEntry) (s : State) : State := { s with groups := SMap.modify s.groups 0 fun g => { g with oplog := SMap.put g.oplog 0 o } }
    let reply := op { pendingLoad with unconfirmed := true } (dies fun m => { m with renewals := [n] })
    let cell (c : CellOp) (w : Requester) : CellReq :=
      { tag := 9, src := 0, fn := 0, order := some 0, ticket := Ticket.here, retryAt := none
        reply := Ticket.here, cell := home, ctx := 0, who := w, lane := 0, op := c }
    let one := dies fun m => { m with cellReqs := [cell (.xadd true 1) (.store 0 7)] }
    let read := op pendingLoad (dies fun m => { m with cellReqs := [cell (.read true) (.op 0 0)] })
    let full := { one with md := crowd one.md }
    let gone := { one with md := { one.md with failed := BitVec.ofNat 17 (2 ^ ((home + 1) % 17)) } }
    let fill (f : RangeUnit → RangeUnit) := dies fun d => { d with memops := [accepted8 f] }
    let ask := dies fun d => { d with memops := [fill8] }
    let elem : Req := { request (.memop 0 4096) .elem with width := 8 }
    let due := dies fun d => { d with held := [{ req := elem, pa := 4096, leaf := placedLeaf }] }
    let mirror (c : CellOp) (a : Bool) := dies fun m => { m with mirrorQ := [{ req := cell c (.store 0 7), value := 0, applied := a, ticket := Ticket.here }] }
    let open_ (s : State) : Bool := (s.cellServer home == some home) && !s.cellBefore home 9 (some 0) && !s.reqBefore home 9 (some 0) &&
      (s.func 0).flr == 0
    happens renew (.leaseRenewal home) && (((List.range 8).findSome? fun k => renew.nextReq home k (·.kind == .renew) renew.md.reqs []) ==
      some (request (.op 0 0) .renew)) && renew.admits home 0 0 && (match renew.cached home 4096 with
      | some l => leafPermits l acRead && !leafF l && !leafO l && !renew.lineHeld 32
      | none => false) &&
    happens reply (.renewalReply 0) && ((reply.group? 0).any fun g => (SMap.find? g.oplog 0).any (·.unconfirmed)) &&
    open_ one && one.admits home 0 0 && happens one (.cellOperation home) && one.cellMirrored home &&
    open_ full && !full.admits home 0 0 && happens full (.cellOperation home) &&
    open_ read && !read.cellBusy home && happens read (.cellOperation home) &&
    happens gone (.cellOperation home) && !gone.cellMirrored home && open_ gone &&
    happens (mirror .xclr false) (.cellMirrorUpdate ((home + 1) % 17)) && (CellOp.xclr).updates &&
    happens (mirror .xclr true) (.cellMirrorUpdate home) &&
    happens ask (.memopUnit home) && ((ask.ctx? 0).any fun cx => (fill8.view cx).translate 4096 acWrite == .ok (4096, false)) &&
    happens (fill id) (.memopUnit home) && (fill id).landed Ticket.here && !leafF placedLeaf && !leafZ placedLeaf &&
    happens due (.heldWritePerform home) && elem.ilines.all due.lineFree && due.poisonLanes placedLeaf elem == 0 && due.homeOf elem == home &&
    happens (fill fun u => { u with stage := 2, replies := [Ticket.here] }) (.memopUnit home) &&
    happens (dies fun d => { d with zblocks := SMap.put d.zblocks (17 * 5 + 3) { granules := [1], spare := [2, 3], ctx := 0 } })
      (.granuleRelease 3 5) = true := by decide +kernel

/-- A sample taken and one dropped; an epoch; sectors of data and of parity that are corrected, rebuilt and poisoned; the last die. -/
theorem test_witness_MemoryUpkeep :
    let s := withCtx (fun c => { c with req := { c.req with epoch := 1 }, heat := [(1, 255)] }) (ready)
    let hot := { s with md := { s.md with heatQ := [{ die := 2, ctx := 0, page := 1, ticket := Ticket.here }] } }
    let top := deviceTop / 4096 * 8 - 1
    !hot.epochDue 0 && happens hot (.heatSample false) && happens hot (.heatSample true) && happens { s with now := 2000000 } (.heatEpoch 0) &&
    ((s.ctx? 0).any fun c => SMap.wf 0 c.heat) && happens s (.dramScrub 16 top .corrected) && !s.dieGone 16 &&
    let bad := { s with md := { s.md with poison := SMap.set false [] (slotSector 0 1 0) true } }
    let block := { s with md := { s.md with zblocks := SMap.put s.md.zblocks 0 { granules := [1], spare := [], ctx := 0 } } }
    s.canRebuild 0 (s.scrubbed 0 0) && happens s (.dramScrub 0 0 .rebuilt) && s.canRebuild 16 (s.scrubbed 16 top) &&
    happens s (.dramScrub 16 top .rebuilt) && !bad.canRebuild 0 (bad.scrubbed 0 0) && happens bad (.dramScrub 0 0 .rebuilt) &&
    ([0, 1].all fun d => !s.inBlock d 0 && happens s (.dramScrub d 0 .poisoned)) && (block.scrubbed 0 0).length == 64 &&
    happens block (.dramScrub 0 0 .poisoned) && slotSector 0 0 0 != slotSector 0 1 0 &&
    happens s (.memoryDieFailure 16) = true := by decide +kernel

/-- A page table that leads IAs 4,096, 8,192 and 12,288 to a leaf each, the last one without W. -/
def table : List (Nat × BitVec 64) := [(0x20000, 0x21003), (0x21000, 0x22003), (0x22000, 0x23003), (0x23000, 0x24003), (0x24008, 0x101D), (0x24010, 0x201D), (0x24018, 0x3005)]

/-- A machine whose page table holds those leaves. -/
def pageMapped : State :=
  let bytes := (table.map fun x => (toBytes 8 x.2.toNat).zipIdx.map fun b => (x.1 + b.2, b.1)).flatten
  { (ready) with xl := { (ready).xl with xroot := 0x20000 }
                 mem := bytes.foldl (fun m x => Memory.write m ((ready).unitSpot (x.1 / 4096) x.1) x.2) (ready).mem }

/-- Two pages, with their segment open to the host: a nonce and a report buffer. -/
theorem test_witness_ManagementOfDevice_attest :
    let s := withCtx (fun c => { c with segs := SMap.set Segment.reset [] 0 { placedSegment with b := 0x101F, l := 1 } }) pageMapped
    s.inHostView 4096 64 && s.inHostView 4096 reportSize && (s.funcRead 0 none 4096 64).isSome && (s.funcRead 0 none 4096 reportSize).isSome =
      true := by decide +kernel

theorem test_witness_FaultGathering :
    let s := ready
    let walks := pageMapped
    let m : MissRec := { die := 2, page := 1, types := 1, waiters := 1, ctx := 0, reason := 0, time := 0, ticket := Ticket.here }
    let c : Collapse := { dies := 4, waiters := 1, overflow := false, types := 1, ctx := 0, time := 0, reason := 0, walking := true, reads := [Ticket.here] }
    let xl (s : State) (f : Xlate → Xlate) : State := { s with xl := f s.xl }
    let w : Merge := { waiters := [.group 0], types := 1, overflow := false, ctx := 0, reason := 0 }
    let full := (List.range 1024).map fun k => (k + 2, some c)
    let walk (s : State) (c : Collapse) (p : Nat := 1) : Bool :=
      happens (xl s fun x => { x with collapse := SMap.put x.collapse p c }) (.pageWalkDone p)
    s.landed m.ticket && happens (xl s fun x => { x with missQ := [m] }) .missRecord &&
    happens (xl s fun x => { x with missQ := [m], collapse := SMap.put x.collapse 1 c }) .missRecord &&
    happens (xl s fun x => { x with missQ := [m], collapse := full }) .missRecord &&
    happens (xl s fun x => { x with refused := [(m, 2000, 0)] }) (.missRecordResend 2 1) &&
    walk walks c && walks.walk 4096 == .leaf 0x101D && leafPermits 0x101D 1 && walk walks { c with types := 2 } 3 && walks.walk 12288 == .leaf 0x3005 &&
    !leafPermits 0x3005 2 &&
    walk walks { c with reason := 2 } && walk s c && (match s.walk 4096 with
      | .stop .. => true
      | .leaf _ => false) &&
    happens (xl s fun x => { x with fills := [{ die := 2, page := 1, leaf := 0x101D, ticket := Ticket.here }]
                                    merge := SMap.put x.merge (pageKey 2 4096) w }) (.fillInstall 2) &&
    happens (xl s fun x => { x with pendings := [(2, 1, .group 0)] }) .pendingReply = true := by decide +kernel

/-- Ready and final answers, a woken request and a final one. -/
theorem test_witness_FaultAnswers :
    let s := ready
    let walks := pageMapped
    let c : Collapse := { dies := 4, waiters := 1, overflow := false, types := 1, ctx := 0, time := 0, reason := 0, walking := false, reads := [] }
    let xl (s : State) (f : Xlate → Xlate) : State := { s with xl := f s.xl }
    let open_ := xl walks fun x => { x with collapse := SMap.put x.collapse 1 c }
    let home := s.servingDie 4096
    let a (f : Option (Rights × Nat)) : Answer := { die := home, page := 1, waiter := .group 0, final := f, ticket := Ticket.here }
    let r := { request (.op 0 0) .load with waiting := some 1 }
    let wait (f : Option (Rights × Nat)) : State :=
      let t := xl s fun x => { x with answers := [a f] }
      { t with
        md := { t.md with reqs := [r] }
        groups := SMap.modify t.groups 0 fun g => { g with oplog := SMap.put g.oplog 0 (pendingLoad) } }
    happens open_ (.faultReady 1) && walks.walk 4096 == .leaf 0x101D && walks.xl.fwWrites.isEmpty && happens open_ (.faultFinal 1 1) &&
    happens (wait none) .wakeReplay && ((wait none).waitingOf home 1 (.group 0) == [r]) && decide r.oneUnit &&
    (match (wait none).reform r (r.lanes.headD ⟨0, 0, 0, 0, 0, false⟩) with
      | .ok l => [l] == r.lanes
      | .error _ => false) && !(wait none).groupSaved 0 && s.landed Ticket.here &&
    happens (wait (some (1, 3))) .finalReply && r.kind.access &&& 1 != 0 && ((1 : Rights) &&& acExec) == 0 = true := by decide +kernel

/-- The steps of an invalidation: firmware's entry write, a die that drops its leaves, one that has finished, and the end. -/
theorem test_witness_FaultAnswers_invalidation :
    let s := ready
    let at_ (v : Inval) : State := { s with xl := { s.xl with invals := [v] } }
    let v : Inval := { lo := 4096, hi := 8191, todo := [], fin := [], acks := [] }
    happens { s with xl := { s.xl with fwWrites := [(0x24008, 0)] } } (.tlbInvalidation 4096 8191) && s.md.poison.isEmpty &&
    !s.poisonedAt false 0x24008 (s.unitSpot 0x24 0x24008) &&
    happens (at_ { v with todo := [(2, Ticket.here)] }) (.tlbInvalidation 4096 8191) && s.landed Ticket.here &&
    happens (at_ { v with fin := [2] }) (.tlbInvalidation 4096 8191) && (at_ { v with fin := [2] }).rangeDone 2 4096 8191 &&
    happens (at_ { v with acks := [Ticket.here] }) (.tlbInvalidation 4096 8191) = true := by decide +kernel

/-- The steps of a migration within device memory and to far memory: W withdrawn, a unit copied, aborted, the new entry put in place,
and both ends. -/
theorem test_witness_FaultAnswers_migration :
    let s := pageMapped
    let m : Machine.Migration :=
      { page := 1, newFrame := 0x30, far := false, abortAt := none, entryAt := 0x24008, old := 0x101D, live := true
        stage := 1, unit := 0, bad := [], flit := none }
    let at_ (m : Machine.Migration) : State := { s with xl := { s.xl with migration := some m } }
    let goes (m : Machine.Migration) : Bool := happens (at_ m) (.migration 1 0x30 false none) && !(at_ m).invalidating m
    happens s (.migration 1 0x30 false none) && happens s (.migration 1 0 true none) && s.entryPA 4096 == 0x24008 &&
    s.entryAt 0x24008 == 0x101D && leafFrame 0x101D == 4096 && sizeLog (leafSize 0x101D) == 12 && s.xl.migration.isNone &&
    s.md.poison.isEmpty && s.md.lost == 0 && s.xl.fwWrites.isEmpty && s.xl.xroot % 4096 == 0 && s.xl.collapse.isEmpty && m.size == 4096 &&
    goes m && goes { m with stage := 2, unit := 15 } &&
    goes { m with stage := 2, unit := 15, flit := some Ticket.here } && s.landed Ticket.here && !leafZ m.old && s.md.unbuilt.isEmpty &&
    m.entryAt % 8 == 0 && goes { m with stage := 2, abortAt := some 3, unit := 3 } &&
    goes { m with stage := 2, unit := 16 } && goes { m with stage := 3 } && goes { m with stage := 4 } = true := by decide +kernel

/-! ### Host, resets and the signal box -/

/-- The placed page open to the host, link 0 up. -/
def hosted : State :=
  let s := withCtx (fun c => { c with segs := SMap.set Segment.reset [] 0 { placedSegment with b := 0x101F } }) (ready)
  { s with host := { s.host with link0 := true } }
/-- A function changed. -/
def fnWith (n : Nat) (g : Func → Func) (s : State) : State := s.setFunc n (g (s.func n))

/-- Accesses inside a segment, outside every segment and in the queue, over BARs and over CXL; in reset and disabled; one too late. -/
theorem test_witness_HostAccess :
    let s := hosted
    let r (w cxl : Bool) (va : Nat) : HostReq :=
      { fn := 0, cxl := cxl, relaxed := false, va := va, data := if w then [1, 2] else [], len := if w then 0 else 8, write := w }
    let n (w : Bool) : Nat := if w then 2 else 8
    let does (s : State) (r : HostReq) : Bool := happens s (.hostMemoryAccess r)
    let view (w : Bool) (va : Nat) : Option (Nat × Nat) := s.hostView 0 va (n w) (if w then acWrite else acRead)
    let o : HostOp := { id := 5, began := 0, req := r false false 4096, left := 1, got := [], home := 2 }
    let q : Req := { request (.host 5) .load with waiting := some 1 }
    let late : State := { s with now := 2000000, host := { s.host with ops := [o] }, md := { s.md with reqs := [q] } }
    ([true, false].all fun w => happens s (.hostMemoryAccess { r w false 64 with bar := 2 }) &&
      happens s (.hostMemoryAccess { r w false 4096 with bar := 4 }) &&
      happens (fnWith 0 (fun x => { x with window := 2 ^ 34 }) s) (.hostMemoryAccess (r w false (2 ^ 34 - 1)))) &&
    decide (4096 + 8 ≤ (s.func 0).window) &&
    (s.host.link0 && (s.func 0).posted.isEmpty && s.host.ops.isEmpty && (s.func 0).flr == 0) &&
    ([true, false].all fun w => does s (r w true 4096) && !onRing (r w true 4096) (n w) && view w 4096 == some (0, 4096) &&
      does s (r w false 0x8000) && does s (r w true 0x8000) && !onRing (r w false 0x8000) (n w) && (view w 0x8000).isNone &&
      does s (r w false 0x4000) && onRing (r w false 0x4000) (n w) && does s (r w false 0) &&
      ([true, false].all fun cxl => does (fnWith 0 (fun x => { x with flr := 4 }) s) (r w cxl 4096) &&
        does (fnWith 0 (fun x => { x with disabled := true }) s) (r w cxl 4096))) &&
    happens late .hostFaultTimeout && ([0, 1].all fun l => [true, false].all fun u => happens s (.hostLinkChange l u true)) = true := by
  decide +kernel

/-- A far access that link 1 takes with it. -/
theorem test_witness_HostAccess_recall :
    let s := hosted
    let h : HeldWrite := { req := request (.op 0 0) .load, pa := 0, leaf := 0x11D }
    let far : State := { s with host := { s.host with link1 := true, l1up := true }, md := { s.md with uio := [h] } }
    happens far (.hostLinkChange 1 false false) && (far.waiterOf h.req).isSome && (SMap.find? far.xl.merge (17 * 2 ^ 40 + 1)).isNone &&
    far.mergeCount 17 == 0 && !h.req.spec = true := by decide +kernel

/-- Vectors masked, unmasked, beyond the table and held off; a log that lost a record; registers written. -/
theorem test_witness_HostAccess_vectors :
    let s := hosted
    let log (s : State) : State := fnWith 0 (fun x => { x with logBase := 4096, logN := 6, dropped := 1 }) s
    ([true, false].all fun m => happens s (.msixTableWrite 0 136 m) && happens s (.msixTableWrite 1 40 m)) &&
    happens s (.msixTableWrite 0 8 true) && decide (8 < msixEntries 0) &&
    happens (fnWith 0 (fun x => { x with pending := SMap.set false x.pending 8 true }) s) (.msixTableWrite 0 8 false) &&
    happens { fnWith 0 (fun x => { x with holdoff := SMap.set false x.holdoff 8 true, raisedAt := SMap.set 0 x.raisedAt 8 1 }) s with now := 20000 }
      (.eventVectorHoldoffExpiry 0 8) && happens (log s) (.loglost 0) && (log s).logRoom 0 &&
    happens s (.registerWrite .xroot 0x20FFF) && happens s (.registerWrite .hbctl 9) &&
    happens s (.registerWrite (.window 63) (2 ^ 34)) && windowOk (2 ^ 34) && !windowOk (2 ^ 33) && happens s (.registerWrite (.window 5) (2 ^ 33)) &&
    happens s (.registerWrite (.sysreg 0 0x010) (-1)) && happens s (.registerWrite (.sysreg 0 0x011) (-1)) = true := by decide +kernel

theorem test_witness_ResetsAndAlarms :
    let s : State := { (ready) with host := { (ready).host with link0 := true } }
    -- blocks whose groups have been saved, of a context with room for a save area
    let p := withCtx (fun c => { c with req := { c.req with svunits := 4096 } })
      (ready (fun g => { g with grpSaved := true }) fun b => { b with parts := 15 })
    let f (g : Func → Func) : State := fnWith 63 g s
    let g (h : Guardhouse → Guardhouse) : State := { s with guard := h s.guard }
    let old : BootImage := { image with version := 4 }
    let strict := g fun x => { x with rollback := 5 }
    happens s (.functionLevelReset 0) && happens s (.functionLevelReset 63) && s.quietFn 63 &&
    ([4, 6].all fun k => [false, true].all fun d => let t := f fun x => { x with flr := k, disabled := d }
      happens t (.flrdone 63) && t.quietFn 63) &&
    happens s (.computeDieFatal 0) && happens s (.computeDieFatal 7) && happens s (.sramue (.group 0)) &&
    ((s.group? 0).any fun g => g.live != 0 && !g.hasHandler) && happens s (.sramue (.l1 5)) && happens s (.sramue .corrected) &&
    happens s (.deviceReset ⟨true, [image]⟩) && happens s (.deviceReset ⟨false, [old, image]⟩) && s.verifies image &&
    happens (g fun x => { x with dead := true }) (.deviceReset ⟨true, [image]⟩) && !strict.verifies old &&
    happens strict (.deviceReset ⟨true, []⟩) && happens strict (.deviceReset ⟨false, [old, old]⟩) && happens strict (.deviceReset ⟨true, [old, old, old]⟩) &&
    ([1, 2, 3, 4, 5, 6, 7, 8].all fun k => happens s (.alarm k 0)) && ([0, 1].all fun k => happens (g fun x => { x with fresh := true }) (.debugUnlock k 63 true)) &&
    happens (g fun x => { x with badUnlock := 1, fresh := true }) (.debugUnlock 2 63 true) &&
    happens (g fun x => { x with badUnlock := 1, fresh := true }) (.debugUnlock 0 0 false) &&
    happens s (.junctionThrottle 7 100) && happens s (.junctionThrottle 0 97) && happens s (.junctionThrottle 0 98) &&
    p.allSettled && (SMap.entries p.box.table).isEmpty && happens p .powerP2Entry && p.residents == [0] &&
    (p.residents.foldl (fun t k => t.bind (·.saveNow k)) (some p)).isSome &&
    ([{ s with guard := { s.guard with power := 2 }, host := s.host.ringWrite 0x4000 [1] },
      { s with guard := { s.guard with power := 2 }, md := { s.md with fired := [{ ia := 4096, ctx := 0, bid := 0, slot := 7, die := 0, home := 1 }] } }].all
      fun t => happens t .powerP2Exit && (t.host.nextEntry.isSome || !t.md.fired.isEmpty)) && happens s .powerLoss = true := by decide +kernel

/-- A task of two blocks of 33 lanes, class 1, of context 0, the first of them to be placed. -/
def task : Task :=
  let k : TaskRec := { taskOfBytes [] with prog := 4096, gx := 2, gy := 1, gz := 1, bsize := 33, csize := 1, flags := 1, vreg := 1, spad := 1, sreg := 1 }
  { st := .eligible, ctx := 0, task := k, order := 0, acceptedAt := 0, eligibleAt := 0, nextBlock := 0, again := [], saved := [], retired := 0
    nbad := 0, fsum := 0, recs := 0, promoted := false, cut := false, owed := [], redo := [], waitSince := 0 }

/-- A state whose task table holds a task at entry 9; its context may be changed and time goes on. -/
def tasks (k : Task := task) (s : State := ready) (now : Nat := 0) : State :=
  withCtx (fun c => { c with req := { c.req with svunits := 4096, slice := 1, resplit := 1 } })
    { s with now := now, box := { s.box with table := SMap.put s.box.table 9 k } }

theorem test_witness_BlocksAndFreight :
    let s := tasks
    let gone : State := tasks { task with retired := 0 } (ready (fun g => { g with exited := g.present, entries := [] }) fun b => { b with tt := some 9 })
    let done := tasks { task with st := .completing, task := { task.task with cwa := 4096 } }
    let back : State := { (tasks { task with task := { task.task with flags := 3 } }) with now := 200000000 }
    happens s (.blockPlace 9 63) && (s.turnOf == some 9) && !s.canRestore 9 task && (s.fit 63 0 1 task.task.split).any (!·.borrow) &&
    ((List.range 8).all fun d => !s.hasExpress (56 + d)) && (task.nextUnit == some 0) &&
    happens gone (.blockRetire 0) && ((gone.block? 0).any fun b => gone.mayRetire 0 b && b.cluster == [0]) &&
    happens done (.taskComplete 9) && ((done.ctx? 0).any fun cx => [(4104, acWrite), (4096, acAtomic)].all fun (x : Nat × Rights) =>
      match cx.translate x.1 x.2 with
      | .ok y => near done y.1 x.2 && done.admits (done.servingDie y.1) 17 cx.fn && !done.boxAsked (y.1 / 4096)
      | .error _ => false) && done.box.finals.isEmpty && happens back (.backgroundPromote 9) = true := by decide +kernel

theorem test_witness_Preemption :
    let own (f : Block → Block) : State := tasks task (ready id fun b => f { b with tt := some 9 })
    let s := own id
    let idle := own fun b => { b with phase := .halting }
    let others : State := { (tasks task (ready id fun b => { b with tt := some 8, ctx := 1 }) 10000) with box := { (tasks).box with
      table := SMap.put (tasks).box.table 8 task } }
    let two : State := { others with host := { others.host with ctxs := SMap.put others.host.ctxs 1 ((others.ctx? 0).getD
      (newContext 0 1 0 0 placedReq)) } }
    let away := tasks { task with saved := [0] } (ready id fun b => { b with tt := some 9, phase := .saved, area := some (0, 8), vcount := 8, scount := 8 })
    let split := tasks task (ready id fun b => { b with tt := some 9, vcount := 16 }) 2001
    let drain : State := { (tasks) with blocks := [], groups := [], box := { (tasks).box with draining := SMap.put [] 0 (9, 0) } }
    happens s (.preemptRequest 0) && (s.reserveFor 0).isSome && happens idle (.preemptRequest 0) && idle.quiet 0 &&
    happens two (.sliceExpiry 9 0) && (two.reserveFor 0).isSome && ((two.resident 0).length == 1) && (two.waitStart task == some 0) &&
    happens away (.blockRestore 0 5) && (away.turnOf == some 9) && !away.blockStores 0 &&
    ((away.block? 0).any fun b => (away.fit 5 b.ctx 1 b.split).isSome) &&
    happens split (.resplitTimeout 9 0) && split.coreLive 0 && !split.hasExpress 0 && !(split.splitBlocks 0).isEmpty &&
    (split.waitStart task == some 0) && ((split.resident 0).any fun x => !x.2.isStation) && (SMap.find? split.box.draining 0).isNone &&
    ((List.range 64).all fun c => (split.splitBlocks c).all fun x => x.2.vcount != task.task.split.v) &&
    happens drain (.drainTimeout 0) && ((drain.resident 0).all fun x => x.2.isStation) = true := by decide +kernel

/-! ### Issue, debug, and the step -/

/-- The entry of the ready group comes to a word at 4,096. -/
def atWord (w : BitVec 64) (f : Group → Group := id) : State :=
  ready fun g => f { g with entries := g.entries.map fun e => { e with code := some [headerFor w, w], waited := true } }

/-- Freight is revoked by an express group that is ready, closed and opened again, by its clock and with no express block. -/
theorem test_witness_BlocksAndFreight_freight :
    let s (f : Freight) (cls t : Nat) : State :=
      let u := atWord 0x0060000000000000 fun g => { g with cls := cls }
      { u with
        now := t, cores := SMap.set Core.reset u.cores 0 { u.core 0 with freight := f }
        blocks := SMap.put u.blocks 0 { placedBlock with cls := cls } }
    happens (s .open_ 0 0) (.freightRevoke 0) && ((List.range 4).any fun p => ((s .open_ 0 0).candidates 0 p).any fun x => x.g.cls == 0) &&
    ((s .open_ 0 0).resident 0).all (fun b => !b.2.borrowed) && happens (s .revoking 0 0) (.freightClosed 0) &&
    (s .revoking 0 0).freightIdle 0 && happens (s .closed 0 256) (.freightReopen 0) && happens (s .revoking 1 0) (.freightReopen 0) &&
    !(s .revoking 1 0).hasExpress 0 = true := by decide +kernel

/-- One ready entry is selected; a right and a wrong prediction; a join that all lanes reached; a trap of lane 5 with a handler
and without one. -/
theorem test_witness_WhatIssues :
    let s : State := { (atWord 0x0060000000000000) with issueQ := [] }
    let one (x : Spec) : State := atWord 0x0060000000000000 fun g => { g with specs := [x] }
    let spec : Spec := { ident := 1, clause := 4096, word := 0, target := 8192, fall := 4112, mask := 0xFFFFFFFF, predicted := 0xFFFFFFFF, guard := always
                         shadows := [], fShadow := [] }
    let join : State := atWord 0 fun g => { g with joinMember := 0xFFFFFFFF, joinArrived := 0xFFFFFFFF, entries := g.entries.map fun e =>
      { e with code := some [BitVec.ofNat 64 (2 ^ 45 + 254 * 2 ^ 37)], waited := false } }
    let t : TrapReq := { cause := 2, kind := 1, late := false, lanes := 32, tclause := 4096, tword := 0, record := none }
    let trap (v : BitVec 64) : State := ready fun g => { g with tvec := v, pendingTraps := [t] }
    let held (s : State) : Bool := (s.group? 0).any fun g => g.pendingTraps == [t] && g.entryOf 32 == some 0 &&
      g.entryOf 0xFFFFFFFF == some 0 && g.mma.isNone && g.specs.isEmpty
    happens s (.issueSelect 0 0) && ((s.served 0 0).map (·.1) == [0]) && ((s.settleGroup 0).readyEntries 0 0 == [0]) && !s.gated 0 &&
    s.guard.power == 0 && happens (one spec) (.branchResolve 0 1) && happens (one { spec with predicted := 0 }) (.branchResolve 0 1) &&
    ((one spec).group? 0).any (fun g => (one spec).resolvable g spec && (SMap.entries g.oplog).isEmpty && g.active always spec.mask == spec.predicted) &&
    happens join (.joinWaitSatisfied 0) && ((join.group? 0).any fun g => g.runs && !g.fw && g.joinDue) && happens (trap 0x500000) (.trapEntry 0) && held (trap 0x500000) &&
    happens (trap 0) (.trapEntry 0) && held (trap 0) = true := by decide +kernel

/-- A stop with an area and without one, its record and the resume; the port's answers; a comparator; a sample, a flush and the
logbook's settings with an area and without. -/
theorem test_witness_DebugAndLogbook :
    let on (n : Nat) (f : Block → Block) : State :=
      let s := withCtx (fun c => { c with req := { c.req with svunits := n }, lbBase := 4096, lbFlags := 1, ibase := 64 }) (ready id f)
      { s with guard := { s.guard with unlocked := 1 } }
    let stopped (p : BlockPhase) : State := on 4096 fun b => { b with phase := p, stopSrc := some 9, dump := some (0, 8) }
    let s := on 0 id
    let smp : State := { s with cores := SMap.set Core.reset s.cores 0 { s.core 0 with sampler := SMap.put [] 0 (0x8001, 0, 5, 0) }, now := 5 }
    let off : State := withCtx (fun c => { c with lbBase := 0 }) s
    happens s (.debugStop 0 .port) && (s.reserveArea 0 ((s.block? 0).getD placedBlock).saveSize).isNone &&
    happens (on 4096 id) (.debugStop 0 .port) && ((on 4096 id).reserveArea 0 ((s.block? 0).getD placedBlock).saveSize).isSome &&
    happens (on 4096 fun b => { b with stopPending := some 9 }) (.debugStop 0 (.cmp 7)) && happens (stopped .stopping) (.stopRecord 0) &&
    (stopped .stopping).quiet 0 && happens (stopped .stopped) (.debugResume 0) && happens s .debugIdentify && happens s .debugChallenge &&
    ([0, 7].all fun n => happens s (.dbgcmpWrite 0 n (-1))) && s.debugOn 0 && happens smp (.sampleTick 0 0) &&
    happens { s with now := 2000000 } .lcrFlush && happens s (.logbookConfigRead 0) && happens off (.logbookConfigRead 0) = true := by
  decide +kernel

/-- Well-formed words that have an encoding, one with the highest value of each of its fields; words that decode. -/
theorem test_witness_EncodeDecodes :
    ([Instr.nop, .iadds ⟨true, 12⟩ .i32 (.v 255) (.v 255) (.spec 13), .bra always (-33554432) 2, .ld ⟨true, 11⟩ .b128 (.v 252) .const (.s 1022)
        .sc .last 32767, .redux always .addN32 (.s 1023) (.v 3) (.imm (-128)) 11, .ksolve always .lu 7 0 2 (some (.v 255)) 12].map fun i =>
      (i.wf, (encode i).isSome)) = List.replicate 6 (true, true) := by decide +kernel

theorem test_witness_DecodeEncodes :
    (decode 0x046100400400600C = .ok (.iaddc ⟨false, 12⟩ false (.v 4) (.v 4) (.v 6) 12 0)) ∧ decode 0x0060000000000001 = .ok .nop := by
  decide +kernel

/-- A selected entry at a word that decodes; an event on the tape. -/
theorem test_witness_StepRunsDecoded :
    let s : State := { (atWord 0x0060000000000000) with issueQ := [(0, 0)], cur := none }
    let t : State := { (ready) with issueQ := [], inputs := [.powerLoss] }
    let done (s : State) : Bool := match step s with | .next _ => true | _ => false
    s.stuck.isNone && ((s.group? 0).any fun g => g.runs && g.mayAct 0 && g.entryWith 0 == some 0 && match g.entries[0]? with
      | some e => e.code.isSome && (e.word == 0 && e.waited) && !e.pairAt e.word && (decode (e.wordAt e.word) == .ok .nop)
      | none => false) && (s.block? 0).isSome && done s && (encode .powerLoss).isNone && t.stuck.isNone && done t = true := by
  decide +kernel

/-- A clause at the start of a unit, whose page is held. -/
theorem test_witness_FetchReadsMemory :
    let s := ready
    ((s.ctx? 0).any fun c => (List.range 17).all fun k => match c.translate (4096 + 8 * k) acExec with
      | .ok x => x.1 == 4096 + 8 * k && (match s.cached (s.servingDie x.1) x.1 with
        | some leaf => leaf == placedLeaf && leafPermits leaf acExec && !leafF leaf && !s.poisonedAt (leafF leaf) x.1 (s.place leaf x.1)
        | none => false)
      | .error _ => false) && ((s.group? 0).any fun g => !g.fw) = true := by decide +kernel

theorem test_witness_StepKeepsMemory :
    let s := State.reset.withFetchWord 64 0x0060000000000000
    Memory.wf s.mem && SMap.wf (0 : BitVec 8) s.far && (match step s with | .next _ => true | _ => false) = true := by decide +kernel

/-! ### Worked examples of the spec, one word each (R328 to R341, R367, R369, R372, R374, R378, R424) -/

/-- A group after a word that decodes. -/
def runs (s : State) (w : BitVec 64) : Group := match decode w with
  | .ok i => ((after s i).group? 0).getD (Group.start 0 0 0 placedBlock)
  | .error _ => Group.start 0 0 0 placedBlock

/-- R329, R331: the saturated and the wrapped sum, and the high half of the product read either way. -/
theorem test_saturated_sum_and_high_product :
    let s := ready (vregs [(1, 0x80000000), (2, 0xFFFFFFFF)])
    ([0x0360003001002000, 0x0160003001002000, 0x0661003001002000, 0x0660003001002000].map fun w => (runs s w).vreg 3 31) =
      [0x80000000, 0x7FFFFFFF, 0x7FFFFFFF, 0] := by decide +kernel

/-- R331 and R332: the carry of the low half goes to p0 and into the high half; a wide product and sum. -/
theorem test_carry_and_wide_product :
    let s := ready (vregs [(4, 0xFFFFFFFF), (5, 1), (6, 2), (7, 0)])
    let g := runs s 0x046100400400600C
    let h := runs { s with groups := SMap.put s.groups 0 g } 0x04610050050070C0
    let w := runs (ready (vregs [(0, 0xFFFFFFFF), (1, 0xFFFFFFFF), (2, 1)])) 0x0861002000001002
    (h.vreg 4 0, h.vreg 5 0, h.predMask 0, w.vreg 2 31, w.vreg 3 31) = (1, 2, 0xFFFFFFFF, 2, 0xFFFFFFFE) := by decide +kernel

/-- R333: −7 by 2 is −3 and leaves −1. -/
theorem test_division_truncates :
    let s := ready (vregs [(6, 0xFFFFFFF9), (7, 2)])
    ((runs s 0x0960005006007000).vreg 5 0, (runs s 0x0A60005006007000).vreg 5 0) = (0xFFFFFFFD, 0xFFFFFFFF) := by decide +kernel

/-- R337 to R341: a funnel shift, leading zeros of a pair, a signed field and a byte permutation. -/
theorem test_bit_words :
    let run (xs : List (Nat × BitVec 32)) (i : Instr) : BitVec 32 :=
      (((after (ready (vregs xs)) i).group? 0).map (·.vreg 1 0)).getD 7
    run [(2, 0xAABBCCDD), (3, 0x11223344)] (.fsh always false (.v 1) (.v 2) (.v 3) (.imm 24)) = 0x223344AA ∧
    run [(2, 0x10000), (3, 0)] (.clz always true (.v 1) (.v 2)) = 47 ∧
    run [(2, 0xF00), (4, 0x0408)] (.bfx always .i32 (.v 1) (.v 2) (.v 4)) = 0xFFFFFFFF ∧
    run [(2, 0x44332211), (3, 0x88776655), (4, 0x4321)] (.prmt always (.v 1) (.v 2) (.v 3) (.v 4)) = 0x55443322 := by decide +kernel

/-- The table under R367: infinity by zero, and a NaN with a payload; NV of the product alone. -/
theorem test_special_values :
    let s := ready (vregs [(1, 0x7F800000), (2, 0), (3, 0xFFC00001)])
    let run (i : Instr) : BitVec 32 × BitVec 32 := (((after s i).group? 0).map fun g => (g.vreg 4 0, g.fst 0)).getD (7, 7)
    run (.fmul always .f32 (.v 4) (.v 1) (.v 2)) = (0x7FC00000, 1) ∧ run (.ffma always .f32 (.v 4) (.v 1) (.v 2) (.v 3)) = (0x7FC00000, 0) ∧
    run (.fmin always .f32 (.v 4) (.v 2) (.v 3)) = (0, 0) ∧ run (.fminp always .f32 (.v 4) (.v 2) (.v 3)) = (0x7FC00000, 0) ∧
    run (.fabs always .f32 (.v 4) (.v 3)) = (0x7FC00000, 0) ∧ run (.fneg always .f32 (.v 4) (.v 2)) = (0x80000000, 0) := by decide +kernel

/-- R372 and R374: −2.5 rounded, and −123.456 and infinity converted. -/
theorem test_rounding_and_conversion :
    let run (x : BitVec 32) (i : Instr) : BitVec 32 × BitVec 32 :=
      (((after (ready (vregs [(5, x)])) i).group? 0).map fun g => (g.vreg 2 0, g.fst 0)).getD (7, 7)
    (run 0xC0200000 (.frnd always .f32 (.v 2) (.v 5) .rna)).1 = 0xC0400000 ∧ (run 0xC0200000 (.frnd always .f32 (.v 2) (.v 5) .rn)).1 = 0xC0000000 ∧
    run 0xC2F6E979 (.cvt always .rz false .i32 .f32 (.v 2) (.v 5)) = (0xFFFFFF85, 16) ∧
    run 0x7F800000 (.cvt always .rz false .i32 .f32 (.v 2) (.v 5)) = (0x7FFFFFFF, 1) := by decide +kernel

/-- The table under R378: 300, 304, −0.001 and 500 at scale 2^0. -/
theorem test_quantised :
    let run (x : BitVec 32) : BitVec 32 × BitVec 32 := let g := runs (ready (vregs [(1, x), (2, 0x7F)])) 0x5460003001002000; (g.vreg 3 0, g.fst 0)
    [0x43960000, 0x43980000, 0xBA83126F, 0x43FA0000].map run = [(0x79, 0x10), (0x7A, 0x10), (0x81, 0x18), (0x7E, 0x14)] := by decide +kernel

/-- R424: lane l holds l + 1; the sum over the 16 lanes of the entry is 0x88, and p6 is false there. -/
theorem test_partial_sum :
    let s := ready fun g => { ((List.range 32).foldl (fun g l => g.setV 3 l (BitVec.ofNat 32 (l + 1))) g) with
      p := SMap.set 0 g.p 6 0xFFFFFFFF, entries := g.entries.map fun e => { e with mask := 0x0000FFFF } }
    let g := runs s 0x6D60405003DFF006
    (g.sreg 5, g.predMask 6) = (0x88, 0xFFFF0000) := by decide +kernel

end Sys2Proof.Tests
end

section
/-! Four statements of the fabric and the host's side that fail, each with the state that shows it. The states are ones that
no run from reset reaches: the statements speak of every state, and lack the bound that a run keeps. -/

namespace Sys2Proof.Machine

/-! ### FARPOL with a request read ahead that a copy waits for -/

/-- A COPY of block 0 whose one request, of unit 0, is under way. -/
def copyUnderWay : CopyCmd :=
  { id := 0, kind := 1, slot := 0, mmask := 0, mode := 0, regs := [], map := [], gid := 0, lane := 0, lanes := 1, clause := 0, word := 0
    total := 1, done := [], known := none, flight := [(0, 1)], replies := [], got := [], fails := [], list := none, stage := 2, ready := 0 }

/-- The request of that unit, marked as read ahead, held at the bridge for the second link. -/
def readAheadUnit : HeldWrite :=
  { req := { reqBase 0 0 0 (.copy 0 0 0) .copyRead [{ lane := 0, va := 4096, ia := 4096, data := 0, data2 := 0 }] 4 with spec := true }
    pa := 0, leaf := 0 }

def copyAtBridge : State :=
  { State.reset with
    host := { HostSide.reset with pool0 := true }
    md := { MemDies.reset with uio := [readAheadUnit] }
    blocks := [(0, some { placedBlock with cmds := [copyUnderWay] })] }

def deviceHead : MgmtHead := { tag := 0, fn := 0, ctx := 0xFF, extra := false }

/-- FARPOL takes the unit back from the bridge, and its copy learns that the unit failed. -/
theorem farpol_changes_blocks_of_copyAtBridge :
    (match exec (.farpol deviceHead 1) copyAtBridge with | .next t => t.blocks == copyAtBridge.blocks | _ => false) = false := by
  decide +kernel

/-- Refutes O39: FARPOL raises FARALT and so recalls what waits at the bridge. A request read ahead that a copy command waits for
fails the command's unit, which changes the block; the statement says that no block changes, and asks for no such request only where
it speaks of groups. -/
theorem not_managementOfDevice : ¬ Obligations.ManagementOfDevice := by
  unfold Obligations.ManagementOfDevice
  intro h
  obtain ⟨-, -, -, -, -, -, -, hfar⟩ := h copyAtBridge deviceHead
  obtain ⟨t, ht, -, -, -, hb, -⟩ := (hfar 1 ⟨rfl, rfl, rfl⟩).1 (by decide)
  have hne := farpol_changes_blocks_of_copyAtBridge
  rw [ht] at hne
  simp [hb] at hne

/-! ### A relayed flit that comes from an unused port -/

def plainFlit (src dst : Nat) : Flit :=
  { seq := 0, ack := 0, tc := 0, nak := false, relay := false, opsrc := src, odst := dst, pseq := none, kind := 0, info := 0, payload := 0 }

/-- A flit from port 27 to port 2 stands at port 1. Port 1 has a flit waiting for port 27, with port 2 as the relay, and owes port 27
the end of a pause, which it sends with the flit. -/
def relayFromUnused : State :=
  let s : State := { State.reset with fab := { Fabric.reset with
    up := true, relayIn := [(1, [{ plainFlit 27 2 with relay := true, pseq := some 0 }])] } }
  (s.setLink 27 1 { Link.trained with rxPause := 1 }).setLink 1 27 { Link.trained with queue := [plainFlit 1 27], relayVia := some 2 }

theorem relayFromUnused_sends_two :
    (match exec (.relayedFlitForward 1) relayFromUnused with | .next t => (t.link 1 2).wire.length | _ => 0) = 2 := by
  decide +kernel

/-- Refutes O40: when a relayed flit goes on, a pause that its origin was told of may end, and the news is sent over that origin's
link, whose queue goes on with it. From an unused port (27), whose relay is the next link, a second flit joins the wire; the
statement asks only of the ports below 26 that they have no such relay. -/
theorem not_linkEvents : ¬ Obligations.LinkEvents := by
  unfold Obligations.LinkEvents
  intro h
  obtain ⟨-, -, -, -, -, -, -, hrel⟩ := h relayFromUnused 1 2 (by decide +kernel) (by decide)
  obtain ⟨t, ht, -, -, -, -, -, hw⟩ := hrel { plainFlit 27 2 with relay := true, pseq := some 0 } [] (by decide +kernel) rfl (by decide)
    (by decide) rfl (by decide +kernel) (by decide +kernel)
  have hlen := relayFromUnused_sends_two
  have hempty : (relayFromUnused.link 1 2).wire = [] := by decide +kernel
  rw [ht] at hlen
  simp [hw, hempty] at hlen

/-! ### A dead channel of a link whose reverse has a relay beyond the ports -/

/-- Port 0 has a flit waiting for port 1, with the number 32 as the relay, whose key for port 0 is that of the link from 1 to 0. -/
def relayBeyond : State :=
  let s : State := { State.reset with fab := { Fabric.reset with up := true } }
  s.setLink 0 1 { Link.trained with queue := [plainFlit 0 1], relayVia := some 32 }

theorem relayBeyond_puts_on_wire :
    (match exec (.channelDead 1 0 1 false) relayBeyond with | .next t => (t.link 1 0).wire.isEmpty | _ => true) = false := by
  decide +kernel

/-- Refutes O41: the receiver of a dead channel reports it on the reverse link, whose queue goes on with the report. Where that
queue's relay is no port, the flit lands on the dying link itself, and its wire is not the old one with its hits; the statement does
not ask that the reverse link's queue is empty or that its relay is a port. -/
theorem not_channelEvents : ¬ Obligations.ChannelEvents := by
  unfold Obligations.ChannelEvents
  intro h
  obtain ⟨-, hdead, -⟩ := h relayBeyond 1 0 1 (by decide +kernel) (by decide)
  obtain ⟨t, ht, -, -, -, -, hw, -⟩ := hdead (by decide +kernel)
  have hwire := relayBeyond_puts_on_wire
  have hempty : hitBy (1 &&& (relayBeyond.link 1 0).rxLive) (relayBeyond.link 1 0).wire = [] := by decide +kernel
  rw [ht] at hwire
  simp [hw.trans hempty] at hwire

/-! ### A posted write through a context whose handle is the ring's -/

/-- A context stands under 128, the number that `takePosted` has for the management ring; its segment 0 maps the page at 4096. -/
def contextOfRing : State :=
  { State.reset with
    host := { HostSide.reset with
      link0 := true
      ctxs := SMap.put [] 128
        { newContext 0 0 0 0 placedReq with segs := SMap.set Segment.reset [] 0 { placedSegment with b := 0x101F } } } }

def byteWrite : HostReq := { fn := 0, cxl := true, relaxed := false, va := 4096, data := [1], len := 0, write := true }

theorem contextOfRing_sends_no_request :
    (match exec (.hostMemoryAccess byteWrite) contextOfRing with | .next t => t.host.nextHost | _ => 0) = 0 := by
  decide +kernel

/-- Refutes O49: a write of the host through a context with handle 128, where a run has none, is taken for a write of the management
ring, so no request goes to a home and no number is used; the statement does not bound the context's handle. -/
theorem not_hostAccess : ¬ Obligations.HostAccess := by
  unfold Obligations.HostAccess
  intro h
  obtain ⟨-, -, -, -, -, -, -, -, -, hposted, -⟩ := h contextOfRing byteWrite
  obtain ⟨t, ht, hs, -⟩ := hposted 128 4096 (by decide +kernel) (by decide +kernel) (by decide +kernel) (by decide +kernel) (by decide +kernel)
  have hn := contextOfRing_sends_no_request
  have hzero : contextOfRing.host.nextHost = 0 := by decide +kernel
  rw [ht] at hn
  rw [hs] at hn
  simp [hzero] at hn

end Sys2Proof.Machine
end

section
/-! What sending, restriping and losing channels leave of the links (R12 to R22, R28). -/

namespace Sys2Proof.Machine

/-! ### One link after an update of one link -/

/-- The link that stands at a key; `State.link` reads the key of its two ports. -/
def State.linkAt (s : State) (k : Nat) : Link := if s.fab.up then SMap.get Link.trained s.fab.links k else Link.reset

theorem State.link_eq_linkAt (s : State) (i j : Nat) : s.link i j = s.linkAt (linkKey i j) := rfl

@[simp] theorem State.setLink_up (s : State) (i j : Nat) (l : Link) : (s.setLink i j l).fab.up = s.fab.up := by
  unfold State.setLink; split <;> simp_all

@[simp] theorem State.modLink_up (s : State) (i j : Nat) (f : Link → Link) : (s.modLink i j f).fab.up = s.fab.up :=
  State.setLink_up ..

theorem State.linkAt_setLink (s : State) (i j : Nat) (l : Link) (k : Nat) (h : s.fab.up = true) :
    (s.setLink i j l).linkAt k = if k = linkKey i j then l else s.linkAt k := by
  unfold State.setLink State.linkAt
  simp only [h, if_true]
  exact SMap.get_set ..

theorem State.linkAt_modLink (s : State) (i j : Nat) (f : Link → Link) (k : Nat) (h : s.fab.up = true) :
    (s.modLink i j f).linkAt k = if k = linkKey i j then f (s.linkAt k) else s.linkAt k := by
  rw [State.modLink, State.linkAt_setLink s i j _ k h]
  split
  · next e => rw [e]; rfl
  · rfl

/-! ### What an operation of the fabric leaves -/

/-- Nothing changes beside the links, the relayed flits and the count of messages. -/
def State.Traffic (s t : State) : Prop :=
  t = { s with fab := { s.fab with links := t.fab.links, relayIn := t.fab.relayIn, msgs := t.fab.msgs } }

theorem State.Traffic.refl (s : State) : s.Traffic s := rfl
theorem State.Traffic.trans {s t u : State} (h : s.Traffic t) (k : t.Traffic u) : s.Traffic u := by
  unfold State.Traffic at *; rw [k, h]
theorem State.Traffic.up {s t : State} (h : s.Traffic t) : t.fab.up = s.fab.up := by unfold State.Traffic at h; rw [h]
theorem State.Traffic.lasers {s t : State} (h : s.Traffic t) : t.fab.lasers = s.fab.lasers := by unfold State.Traffic at h; rw [h]
theorem State.Traffic.standbyLit {s t : State} (h : s.Traffic t) : t.fab.standbyLit = s.fab.standbyLit := by unfold State.Traffic at h; rw [h]
theorem State.Traffic.inFabric {s t : State} (h : s.Traffic t) : s.InFabric t := by
  unfold State.Traffic at h; unfold State.InFabric; rw [h]

theorem State.setLink_traffic (s : State) (i j : Nat) (l : Link) : s.Traffic (s.setLink i j l) := by
  unfold State.Traffic State.setLink; split <;> rfl

/-- Traffic that leaves every stripe: each link has the channels it had at both ends. That is all that sending does to the machine
(R13 to R18). -/
def State.Carries (s t : State) : Prop :=
  s.Traffic t ∧ ∀ k, (t.linkAt k).txLive = (s.linkAt k).txLive ∧ (t.linkAt k).rxLive = (s.linkAt k).rxLive

theorem State.Carries.refl (s : State) : s.Carries s := ⟨.refl s, fun _ => ⟨rfl, rfl⟩⟩
theorem State.Carries.trans {s t u : State} (h : s.Carries t) (k : t.Carries u) : s.Carries u :=
  ⟨h.1.trans k.1, fun x => ⟨(k.2 x).1.trans (h.2 x).1, (k.2 x).2.trans (h.2 x).2⟩⟩

theorem State.modLink_carries (s : State) (i j : Nat) (f : Link → Link) (hf : ∀ l, (f l).txLive = l.txLive ∧ (f l).rxLive = l.rxLive) :
    s.Carries (s.modLink i j f) := by
  refine ⟨State.setLink_traffic s i j _, fun k => ?_⟩
  cases h : s.fab.up with
  | false => simp [State.modLink, State.setLink, State.linkAt, h]
  | true =>
    rw [State.linkAt_modLink s i j f k h]
    split
    · exact hf _
    · exact ⟨rfl, rfl⟩

theorem State.transmit_carries (s : State) (i j : Nat) (f : Flit) : s.Carries (s.transmit i j f) := by
  unfold State.transmit
  refine State.Carries.trans ?_ ((State.modLink_carries _ i j _ (by intro l; exact ⟨rfl, rfl⟩)).trans
    (State.modLink_carries _ j i _ (by intro l; exact ⟨rfl, rfl⟩)))
  split
  · exact State.modLink_carries _ _ _ _ (by intro l; exact ⟨rfl, rfl⟩)
  · exact .refl s

theorem State.pumpFrom_carries (i j : Nat) (fs : List Flit) : ∀ (s : State) (kept : List Flit), s.Carries (s.pumpFrom i j fs kept) := by
  induction fs with
  | nil => intro s kept; exact State.modLink_carries _ _ _ _ (by intro l; exact ⟨rfl, rfl⟩)
  | cons f fs ih =>
    intro s kept
    simp only [State.pumpFrom]
    split
    · exact ih ..
    · split
      · exact (State.transmit_carries ..).trans (ih ..)
      · split
        · split
          · exact (State.transmit_carries ..).trans (ih ..)
          · exact ih ..
        · exact ih ..

theorem State.pump_carries (s : State) (i j : Nat) : s.Carries (s.pump i j) :=
  foldl_keeps (State.Carries s) _ _ _ (State.pumpFrom_carries i j _ s []) (fun _ b h => h.trans (State.pumpFrom_carries i b _ _ []))

theorem State.send_carries (s : State) (i j tc kind : Nat) (info : BitVec 40) (payload : BitVec 512) :
    s.Carries (s.send i j tc kind info payload).1 := by
  refine State.Carries.trans ?_ (State.pump_carries ..)
  exact (State.modLink_carries s i j _ (by intro l; exact ⟨rfl, rfl⟩)).trans ⟨rfl, fun k => ⟨rfl, rfl⟩⟩

theorem State.control_carries (s : State) (i j kind : Nat) (info : BitVec 40) : s.Carries (s.control i j kind info) := State.send_carries ..

/-! ### A view of one link changes -/

/-- Traffic after which a view of the link at a key is what `f` gives, and no other link shows a change in that view. -/
def State.Turns {β : Type} (φ : Link → β) (s t : State) (key : Nat) (f : β → β) : Prop :=
  s.Traffic t ∧ ∀ k, φ (t.linkAt k) = if k = key then f (φ (s.linkAt k)) else φ (s.linkAt k)

/-- The stripes of a link: the sender's and the receiver's live channels. -/
def Link.stripes (l : Link) : BitVec 16 × BitVec 16 := (l.txLive, l.rxLive)

theorem State.Carries.stripes {s t : State} (h : s.Carries t) (k : Nat) : (t.linkAt k).stripes = (s.linkAt k).stripes := by
  simp only [Link.stripes, (h.2 k).1, (h.2 k).2]

theorem State.modLink_turns {β : Type} (φ : Link → β) (s : State) (i j : Nat) (f : Link → Link) (g : β → β)
    (h : s.fab.up = true) (hf : ∀ l, φ (f l) = g (φ l)) : State.Turns φ s (s.modLink i j f) (linkKey i j) g := by
  refine ⟨State.setLink_traffic s i j _, fun k => ?_⟩
  rw [State.linkAt_modLink s i j f k h]
  split
  · exact hf _
  · rfl

theorem State.Turns.carries {s t u : State} {key : Nat} {f : BitVec 16 × BitVec 16 → BitVec 16 × BitVec 16}
    (h : State.Turns Link.stripes s t key f) (k : t.Carries u) : State.Turns Link.stripes s u key f :=
  ⟨h.1.trans k.1, fun x => (k.stripes x).trans (h.2 x)⟩

theorem State.Carries.turns {s t u : State} {key : Nat} {f : BitVec 16 × BitVec 16 → BitVec 16 × BitVec 16}
    (h : s.Carries t) (k : State.Turns Link.stripes t u key f) : State.Turns Link.stripes s u key f :=
  ⟨h.1.trans k.1, fun x => by rw [← h.stripes x]; exact k.2 x⟩

/-- Only the value at the key matters. -/
theorem State.Turns.congr {β : Type} {φ : Link → β} {s t : State} {key : Nat} {f g : β → β} (h : State.Turns φ s t key f)
    (e : f (φ (s.linkAt key)) = g (φ (s.linkAt key))) : State.Turns φ s t key g := by
  refine ⟨h.1, fun k => ?_⟩
  rw [h.2 k]
  split
  · next hk => rw [hk, e]
  · rfl

/-- Changes of one link after another, of links with different keys. -/
theorem State.foldl_turns {β : Type} (φ : Link → β) (f : β → β) (step : State → Nat × Nat → State)
    (hs : ∀ t p, t.fab.up = true → State.Turns φ t (step t p) (linkKey p.1 p.2) f) (ps : List (Nat × Nat)) :
    ∀ s : State, s.fab.up = true → (ps.map fun p => linkKey p.1 p.2).Nodup → s.Traffic (ps.foldl step s) ∧
      ∀ k, φ ((ps.foldl step s).linkAt k) =
        if k ∈ ps.map (fun p => linkKey p.1 p.2) then f (φ (s.linkAt k)) else φ (s.linkAt k) := by
  induction ps with
  | nil => intro s _ _; exact ⟨.refl s, fun k => by simp⟩
  | cons p ps ih =>
    intro s hu hn
    rw [List.map_cons, List.nodup_cons] at hn
    obtain ⟨h1, h2⟩ := hs s p hu
    obtain ⟨k1, k2⟩ := ih (step s p) (h1.up.trans hu) hn.2
    refine ⟨h1.trans k1, fun k => ?_⟩
    rw [List.foldl_cons, k2 k, h2 k, List.map_cons]
    by_cases hk : k = linkKey p.1 p.2
    · subst hk
      simp only [hn.1, if_false, if_true, List.mem_cons_self]
    · simp only [hk, if_false, List.mem_cons, false_or]

/-! ### The used pairs -/

theorem usedPair_iff {i j : Nat} : usedPair i j = true ↔ (i < 26 ∧ j < 26) ∧ i ≠ j := by simp [usedPair]

/-- Two used pairs are told by their key. -/
theorem linkKey_inj {i j a b : Nat} (h : usedPair i j = true) (h' : usedPair a b = true) (e : linkKey i j = linkKey a b) : i = a ∧ j = b := by
  rw [usedPair_iff] at h h'
  simp only [linkKey] at e
  omega

theorem mem_allPairs {i j : Nat} : (i, j) ∈ allPairs ↔ usedPair i j = true := by
  simp only [allPairs, usedPair_iff, List.mem_flatten, List.mem_map, List.mem_range]
  constructor
  · rintro ⟨_, ⟨a, ha, rfl⟩, hm⟩
    simp only [List.mem_map, List.mem_filter, List.mem_range, Prod.mk.injEq, bne_iff_ne] at hm
    obtain ⟨b, ⟨hb, hne⟩, rfl, rfl⟩ := hm
    exact ⟨⟨ha, hb⟩, hne.symm⟩
  · rintro ⟨⟨hi, hj⟩, hne⟩
    refine ⟨_, ⟨i, hi, rfl⟩, ?_⟩
    simp only [List.mem_map, List.mem_filter, List.mem_range, bne_iff_ne]
    exact ⟨j, ⟨hj, hne.symm⟩, rfl⟩

theorem allPairs_nodup : allPairs.Nodup := by
  refine List.nodup_flatten.2 ⟨?_, ?_⟩
  · simp only [List.mem_map]
    rintro _ ⟨i, -, rfl⟩
    exact (List.nodup_range.filter _).map fun a b h => (Prod.mk.inj h).2
  · refine (List.pairwise_lt_range (n := 26)).map _ fun a b h => ?_
    simp only [List.disjoint_left, List.mem_map]
    rintro _ ⟨x, -, rfl⟩ ⟨y, -, e⟩
    exact absurd (Prod.mk.inj e).1 (by omega)

theorem allPairs_keys_nodup : (allPairs.map fun p => linkKey p.1 p.2).Nodup :=
  allPairs_nodup.map_on fun _ hp _ hq e =>
    let ⟨h1, h2⟩ := linkKey_inj (mem_allPairs.1 hp) (mem_allPairs.1 hq) e
    Prod.ext h1 h2

theorem linkKey_mem_allPairs {i j : Nat} (h : usedPair i j = true) : linkKey i j ∈ allPairs.map fun p => linkKey p.1 p.2 :=
  List.mem_map.2 ⟨(i, j), mem_allPairs.2 h, rfl⟩

/-- One change for every used pair. -/
theorem State.allPairs_turn {β : Type} (φ : Link → β) (f : β → β) (step : State → Nat × Nat → State)
    (hs : ∀ t p, t.fab.up = true → State.Turns φ t (step t p) (linkKey p.1 p.2) f) (s : State) (hu : s.fab.up = true) :
    s.Traffic (allPairs.foldl step s) ∧
      ∀ i j, usedPair i j = true → φ ((allPairs.foldl step s).link i j) = f (φ (s.link i j)) := by
  obtain ⟨h1, h2⟩ := State.foldl_turns φ f step hs allPairs s hu allPairs_keys_nodup
  refine ⟨h1, fun i j h => ?_⟩
  rw [State.link_eq_linkAt, State.link_eq_linkAt, h2, if_pos (linkKey_mem_allPairs h)]

/-! ### Restriping and losing channels (R21, R28) -/

theorem State.restripe_turns (s : State) (i j : Nat) (live : BitVec 16) (h : s.fab.up = true) :
    State.Turns Link.stripes s (s.restripe i j live) (linkKey i j) fun x => (x.1, live) := by
  have h1 : State.Turns Link.stripes s (s.modLink i j fun l => { l with rxLive := live, rxG := 0, stale := true, resent := 0 })
      (linkKey i j) fun x => (x.1, live) := State.modLink_turns _ s i j _ _ h (by intro l; rfl)
  have h2 := h1.carries (State.control_carries _ j i kindChannels (BitVec.ofNat 40 (live.toNat + (s.link i j).expSeq * 2 ^ 16)))
  unfold State.restripe
  split
  · exact h2.carries (State.modLink_carries _ _ _ _ (by intro l; exact ⟨rfl, rfl⟩))
  · exact (h2.carries (State.send_carries ..)).carries (State.modLink_carries _ _ _ _ (by intro l; exact ⟨rfl, rfl⟩))

/-- The marks that a receiving port sets on channels that are lost (R20, R21). -/
def Link.marked (l : Link) (c : BitVec 16) (now : Nat) : Link :=
  let d := (l.rxLive ||| l.training) &&& c
  { l with rxDead := l.rxDead ||| d, training := l.training &&& ~~~d, lowPwr := l.lowPwr ||| d, wire := hitBy d l.wire,
           deadAt := noteTime l.deadAt d now }

theorem State.markDead_eq (s : State) (i j : Nat) (c : BitVec 16) :
    s.markDead i j c = (s.modLink i j fun l => l.marked c s.now).restripe i j ((s.link i j).rxLive &&& ~~~c) := rfl

/-- A port that marks channels dead takes them out of the stripe it receives over. -/
theorem State.markDead_turns (s : State) (i j : Nat) (c : BitVec 16) (h : s.fab.up = true) :
    State.Turns Link.stripes s (s.markDead i j c) (linkKey i j) fun x => (x.1, x.2 &&& ~~~c) := by
  rw [State.markDead_eq]
  have h1 : s.Carries (s.modLink i j fun l => l.marked c s.now) := State.modLink_carries _ _ _ _ (by intro l; exact ⟨rfl, rfl⟩)
  exact (h1.turns (State.restripe_turns _ i j _ (h1.1.up.trans h))).congr rfl

theorem and_not_of_or_and_zero (a b c : BitVec 16) (h : (a ||| b) &&& c = 0) : a &&& ~~~c = a := by
  ext i hi
  have := congrArg (fun x : BitVec 16 => x[i]) h
  simp at this ⊢
  exact fun ha => this (Or.inl ha)

/-- A pair marks those of some channels that it has, if it has any. -/
theorem State.markDead_if_turns (s : State) (i j : Nat) (c : BitVec 16) (h : s.fab.up = true) :
    State.Turns Link.stripes s (if ((s.link i j).rxLive ||| (s.link i j).training) &&& c = 0 then s else s.markDead i j c) (linkKey i j)
      fun x => (x.1, x.2 &&& ~~~c) := by
  split
  · next hz =>
    refine ⟨.refl s, fun k => ?_⟩
    split
    · next hk =>
      have e := and_not_of_or_and_zero _ _ _ hz
      rw [State.link_eq_linkAt, ← hk] at e
      simp [Link.stripes, e]
    · rfl
  · exact State.markDead_turns s i j c h

/-- What CHSTAT shows once the control die has looked (R32). -/
def Link.shown (l : Link) : Link :=
  let q := { l with chLive := l.rxLive, chDead := l.rxDead }
  { q with chMode := q.mode }

/-- The sender's end of a link that loses channels (R28). -/
def Link.darkened (l : Link) (c : BitVec 16) : Link :=
  { l with txLive := l.txLive &&& ~~~c, txDead := l.txDead ||| (l.txLive &&& c), txG := 0, resent := 0 }

/-- A link after the sender's end has dropped channels, then the receiver's, then CHSTAT shows it. -/
theorem Link.shown_darkened {l a b d : Link} {c : BitVec 16} (ha : a.stripes = (l.stripes.1 &&& ~~~c, l.stripes.2))
    (hb : b.stripes = (a.stripes.1, a.stripes.2 &&& ~~~c)) (hd : d = b.shown) :
    d.txLive = l.txLive &&& ~~~c ∧ d.rxLive = l.rxLive &&& ~~~c ∧ d.chLive = d.rxLive := by
  simp only [Link.stripes, Prod.mk.injEq] at ha hb
  subst hd
  exact ⟨hb.1.trans ha.1, hb.2.trans (by rw [ha.2]), rfl⟩

/-- The three passes over the used pairs in which every pair loses channels: at the senders, at the receivers, in CHSTAT. -/
def State.darkenAll (s : State) (c : BitVec 16) : State := allPairs.foldl (fun t p => t.modLink p.1 p.2 fun l => l.darkened c) s
def State.markAll (s : State) (c : BitVec 16) : State := allPairs.foldl (fun t p =>
  if ((t.link p.1 p.2).rxLive ||| (t.link p.1 p.2).training) &&& c = 0 then t else t.markDead p.1 p.2 c) s
def State.showAll (s : State) : State := allPairs.foldl (fun t p => t.modLink p.1 p.2 Link.shown) s

theorem State.loseAll_eq (s : State) (c : BitVec 16) : s.loseAll c = ((s.darkenAll c).markAll c).showAll := rfl

theorem State.darkenAll_spec (s : State) (c : BitVec 16) (h : s.fab.up = true) : s.Traffic (s.darkenAll c) ∧
    ∀ i j, usedPair i j = true → ((s.darkenAll c).link i j).stripes = ((s.link i j).stripes.1 &&& ~~~c, (s.link i j).stripes.2) :=
  State.allPairs_turn Link.stripes (fun x => (x.1 &&& ~~~c, x.2)) _
    (fun t p hu => State.modLink_turns _ t p.1 p.2 _ _ hu (by intro l; rfl)) s h

theorem State.markAll_spec (s : State) (c : BitVec 16) (h : s.fab.up = true) : s.Traffic (s.markAll c) ∧
    ∀ i j, usedPair i j = true → ((s.markAll c).link i j).stripes = ((s.link i j).stripes.1, (s.link i j).stripes.2 &&& ~~~c) :=
  State.allPairs_turn Link.stripes (fun x => (x.1, x.2 &&& ~~~c)) _ (fun t p hu => State.markDead_if_turns t p.1 p.2 c hu) s h

theorem State.showAll_spec (s : State) (h : s.fab.up = true) : s.Traffic s.showAll ∧
    ∀ i j, usedPair i j = true → s.showAll.link i j = (s.link i j).shown := by
  obtain ⟨f, h⟩ := State.allPairs_turn (fun l : Link => l) Link.shown (fun t p => t.modLink p.1 p.2 Link.shown)
    (fun t p hu => State.modLink_turns _ t p.1 p.2 _ _ hu (by intro l; rfl)) s h
  exact ⟨f, h⟩

/-- Every pair loses some channels: each end drops them from its stripe, and CHSTAT shows the receiver's. -/
theorem State.loseAll_spec (s : State) (c : BitVec 16) (h : s.fab.up = true) :
    s.Traffic (s.loseAll c) ∧ ∀ i j, usedPair i j = true →
      ((s.loseAll c).link i j).txLive = (s.link i j).txLive &&& ~~~c ∧
      ((s.loseAll c).link i j).rxLive = (s.link i j).rxLive &&& ~~~c ∧
      ((s.loseAll c).link i j).chLive = ((s.loseAll c).link i j).rxLive := by
  rw [State.loseAll_eq]
  obtain ⟨f1, h1⟩ := State.darkenAll_spec s c h
  obtain ⟨f2, h2⟩ := State.markAll_spec (s.darkenAll c) c (f1.up.trans h)
  obtain ⟨f3, h3⟩ := State.showAll_spec ((s.darkenAll c).markAll c) (f2.up.trans (f1.up.trans h))
  exact ⟨(f1.trans f2).trans f3, fun i j hij => Link.shown_darkened (h1 i j hij) (h2 i j hij) (h3 i j hij)⟩

end Sys2Proof.Machine
end

section
/-! What a record of an event log changes (R37, R84): memory, the log's function, the vectors sent, and the running number. -/

namespace Sys2Proof.Machine

/-! ### Writes by the device -/

theorem State.Wrote.refl (s : State) : s.Wrote s := rfl
theorem State.Wrote.host {s t : State} (h : s.Wrote t) : t.host = s.host := by unfold State.Wrote at h; rw [h]
theorem State.Wrote.guard {s t : State} (h : s.Wrote t) : t.guard = s.guard := by unfold State.Wrote at h; rw [h]
theorem State.Wrote.groups {s t : State} (h : s.Wrote t) : t.groups = s.groups := by unfold State.Wrote at h; rw [h]
theorem State.Wrote.blocks {s t : State} (h : s.Wrote t) : t.blocks = s.blocks := by unfold State.Wrote at h; rw [h]

theorem State.funcWrite_wrote (s : State) (f : Nat) (c : Option Nat) (va : Nat) (bytes : List (BitVec 8)) :
    s.Wrote (s.funcWrite f c va bytes) := by
  refine foldl_keeps (State.Wrote s) _ _ s (.refl s) fun t p h => h.trans ?_
  split
  · split
    · exact State.deviceWrite_frame ..
    · exact .refl t
  · exact .refl t

/-! ### Records -/

/-- A function's registers after a record of its log: the ring, the vectors and their counts alone differ. -/
def Func.SameButLog (x y : Func) : Prop :=
  y = { x with logProd := y.logProd, dropped := y.dropped, pending := y.pending, raisedAt := y.raisedAt, holdoff := y.holdoff }

theorem Func.SameButLog.refl (x : Func) : x.SameButLog x := rfl
theorem Func.SameButLog.trans {x y z : Func} (h : x.SameButLog y) (k : y.SameButLog z) : x.SameButLog z := by
  unfold Func.SameButLog at *; rw [k, h]

/-- Memory is written, vectors are sent, running numbers are used and function `f`'s log goes on; nothing else changes. -/
structure State.Notes (f : Nat) (s t : State) : Prop where
  wrote : ({ s with host := { s.host with rseq := t.host.rseq, msix := t.host.msix, funcs := t.host.funcs } } : State).Wrote t
  other : ∀ m, m ≠ f → t.func m = s.func m
  own : (s.func f).SameButLog (t.func f)

theorem State.Notes.refl (f : Nat) (s : State) : s.Notes f s := ⟨rfl, fun _ _ => rfl, .refl _⟩
theorem State.Notes.trans {f : Nat} {s t u : State} (h : s.Notes f t) (k : t.Notes f u) : s.Notes f u := by
  refine ⟨?_, fun m hm => (k.other m hm).trans (h.other m hm), h.own.trans k.own⟩
  have hw := h.wrote
  have kw := k.wrote
  unfold State.Wrote at *
  rw [kw, hw]

theorem State.Wrote.notes {s t : State} (f : Nat) (h : s.Wrote t) : s.Notes f t := by
  have hf : ∀ m, t.func m = s.func m := fun m => by unfold State.func; rw [h.host]
  refine ⟨?_, fun m _ => hf m, by rw [hf]; exact .refl _⟩
  rw [h.host]; exact h

theorem State.Notes.func {f : Nat} {s t : State} (h : State.Notes f s t) (m : Nat) : (s.func m).SameButLog (t.func m) := by
  by_cases e : m = f
  · subst e; exact h.own
  · rw [h.other m e]; exact .refl _

theorem State.setFunc_notes (s : State) (f : Nat) (x : Func) (h : (s.func f).SameButLog x) : s.Notes f (s.setFunc f x) :=
  ⟨rfl, fun m hm => State.func_setFunc_other s f m x hm, by rw [State.func_setFunc_same]; exact h⟩

theorem State.nextRseq_notes (s : State) (f : Nat) : s.Notes f s.nextRseq.1 := ⟨rfl, fun _ _ => rfl, .refl _⟩

theorem State.raiseVector_notes (s : State) (f v : Nat) : s.Notes f (s.raiseVector f v) := by
  simp only [State.raiseVector]
  split
  · exact .refl f s
  · split
    · exact State.setFunc_notes s f _ rfl
    · exact ⟨rfl, fun _ _ => rfl, .refl _⟩

theorem State.raiseEvent_notes (s : State) (f v : Nat) : s.Notes f (s.raiseEvent f v) := by
  simp only [State.raiseEvent]
  split
  · refine (State.setFunc_notes s f _ ?_).trans (State.raiseVector_notes ..)
    rfl
  · exact State.setFunc_notes s f _ rfl

theorem State.logPut_notes (s : State) (f : Nat) (bytes : List (BitVec 8)) : s.Notes f (s.logPut f bytes) :=
  ((State.funcWrite_wrote ..).notes f).trans (((State.funcWrite_wrote ..).notes f).trans (State.setFunc_notes _ f _ rfl))

theorem State.logLost_notes (s : State) (f : Nat) : s.Notes f (s.logLost f) := by
  simp only [State.logLost]
  split
  · exact .refl f s
  · exact (State.nextRseq_notes s f).trans ((State.logPut_notes ..).trans (State.setFunc_notes _ f _ rfl))

theorem State.logWrite_notes (s : State) (f : Nat) (mk : Nat → List (BitVec 8)) : s.Notes f (s.logWrite f mk).1 := by
  simp only [State.logWrite]
  refine (State.logLost_notes s f).trans ((State.nextRseq_notes _ f).trans ?_)
  split
  · exact .refl f _
  · split
    · exact State.logPut_notes ..
    · exact State.setFunc_notes _ f _ rfl

theorem State.logRecord_notes (s : State) (f vec : Nat) (mk : Nat → List (BitVec 8)) : s.Notes f (s.logRecord f vec mk) := by
  simp only [State.logRecord]
  split
  · exact (State.logWrite_notes ..).trans (State.raiseEvent_notes ..)
  · exact State.logWrite_notes ..

theorem State.logAndRaise_notes (s : State) (f vec : Nat) (mk : Nat → List (BitVec 8)) : s.Notes f (s.logAndRaise f vec mk) :=
  (State.logWrite_notes ..).trans (State.raiseEvent_notes ..)

/-! ### The running number -/

theorem State.raiseVector_rseq (s : State) (f v : Nat) : (s.raiseVector f v).host.rseq = s.host.rseq := by
  simp only [State.raiseVector]
  split
  · rfl
  · split
    · rfl
    · rfl

theorem State.raiseEvent_rseq (s : State) (f v : Nat) : (s.raiseEvent f v).host.rseq = s.host.rseq := by
  simp only [State.raiseEvent]
  split
  · exact State.raiseVector_rseq ..
  · rfl

theorem State.modFunc_rseq (s : State) (f : Nat) (k : Func → Func) : (s.modFunc f k).host.rseq = s.host.rseq := rfl

theorem State.logPut_rseq (s : State) (f : Nat) (bytes : List (BitVec 8)) : (s.logPut f bytes).host.rseq = s.host.rseq := by
  simp only [State.logPut, State.modFunc_rseq]
  rw [(State.funcWrite_wrote ..).host, (State.funcWrite_wrote ..).host]

/-- A lost-record note takes one number, where it is written. -/
theorem State.logLost_rseq (s : State) (f : Nat) :
    (s.logLost f).host.rseq = s.host.rseq ∨ (s.logLost f).host.rseq = (s.host.rseq + 1) % 2 ^ 32 := by
  simp only [State.logLost]
  split
  · exact .inl rfl
  · exact .inr ((State.modFunc_rseq ..).trans (State.logPut_rseq ..))

theorem State.logWrite_rseq (s : State) (f : Nat) (mk : Nat → List (BitVec 8)) :
    (s.logWrite f mk).1.host.rseq = ((s.logLost f).host.rseq + 1) % 2 ^ 32 := by
  simp only [State.logWrite]
  split
  · rfl
  · split
    · exact State.logPut_rseq ..
    · rfl

/-- A record takes a number, or two. -/
theorem State.logWrite_rseq_ne (s : State) (f : Nat) (mk : Nat → List (BitVec 8)) : (s.logWrite f mk).1.host.rseq ≠ s.host.rseq := by
  rw [State.logWrite_rseq]
  rcases State.logLost_rseq s f with h | h
  · omega
  · omega

theorem State.logRecord_logged (s : State) (f vec : Nat) (mk : Nat → List (BitVec 8)) : s.Logged (s.logRecord f vec mk) := by
  refine ⟨(State.logRecord_notes s f vec mk).wrote, ?_⟩
  simp only [State.logRecord]
  split
  · rw [State.raiseEvent_rseq]; exact State.logWrite_rseq_ne s f mk
  · exact State.logWrite_rseq_ne s f mk

theorem State.logAndRaise_logged (s : State) (f vec : Nat) (mk : Nat → List (BitVec 8)) : s.Logged (s.logAndRaise f vec mk) := by
  refine ⟨(State.logAndRaise_notes s f vec mk).wrote, ?_⟩
  rw [State.logAndRaise, State.raiseEvent_rseq]; exact State.logWrite_rseq_ne s f mk

theorem State.Logged.fab {s t : State} (h : s.Logged t) : t.fab = s.fab := by
  have h1 := h.1
  unfold State.Wrote at h1; rw [h1]

end Sys2Proof.Machine
end

section
/-! Laser modules (R27 to R31, R483, R484): what each of their events leaves of the modules and of the links. -/

namespace Sys2Proof.Machine

/-! ### One module after an update of one -/

theorem State.laser_setLaser (s : State) (m n : Nat) (l : Laser) (h : n < s.fab.lasers.length) :
    (s.setLaser m l).laser n = if n = m then l else s.laser n := by
  simp only [State.laser, State.setLaser, List.getD_eq_getElem?_getD, List.getElem?_set]
  by_cases e : n = m
  · subst e; simp [h]
  · simp [e, Ne.symm e]

theorem State.InFabric.trans {s t u : State} (h : s.InFabric t) (k : t.InFabric u) : s.InFabric u := State.SameButFab.trans h k

/-- Of the five modules, module `k` becomes `x` and the others are as they were. -/
def State.LaserBecomes (s t : State) (k : Nat) (x : Laser) : Prop := t.laser k = x ∧ (∀ n < 5, n ≠ k → t.laser n = s.laser n)

theorem State.laserBecomes_of_lasers {s t : State} {k : Nat} {x : Laser} (h5 : s.fab.lasers.length = 5) (hk : k < 5)
    (h : t.fab.lasers = s.fab.lasers.set k x) : s.LaserBecomes t k x := by
  have ht : ∀ n, t.laser n = (s.setLaser k x).laser n := fun n => by simp only [State.laser, State.setLaser, h]
  refine ⟨?_, fun n hn hne => ?_⟩
  · rw [ht, State.laser_setLaser s k k x (h5 ▸ hk), if_pos rfl]
  · rw [ht, State.laser_setLaser s k n x (h5 ▸ hn), if_neg hne]

/-- A record after a change of the fabric: since the change, only the log has gone on. -/
theorem State.Logged.sinceFabric {s u t : State} (h : u.Logged t) (hu : s.InFabric u) : ({ s with fab := t.fab } : State).Logged t := by
  have e : ({ s with fab := t.fab } : State) = u := by rw [h.fab]; exact hu.symm
  rw [e]; exact h

/-- A module changes, and a fabric record says so. -/
theorem State.setLaser_fabRecord {s u : State} {k : Nat} {x : Laser} (h5 : s.fab.lasers.length = 5) (hk : k < 5) (hu : s.InFabric u)
    (hl : u.fab.lasers = s.fab.lasers.set k x) (hlinks : u.fab.links = s.fab.links) (type sev laser src dst before after mode via replayed : Nat) :
    let t := u.fabRecord type sev laser src dst before after mode via replayed
    ({ s with fab := t.fab } : State).Logged t ∧ s.LaserBecomes t k x ∧ t.fab.links = s.fab.links ∧ t.fab.standbyFor = u.fab.standbyFor := by
  intro t
  have h : u.Logged t := State.logRecord_logged ..
  exact ⟨h.sinceFabric hu, State.laserBecomes_of_lasers h5 hk (by rw [h.fab, hl]), by rw [h.fab, hlinks], by rw [h.fab]⟩

/-! ### The failure of a module (R28, R30) -/

/-- A module's light goes out; a standby that fails on its way in is given up. -/
def State.laserOut (s : State) (m : Nat) : State :=
  let l := s.laser m
  let s1 := s.setLaser m { l with state := 4, planes := 15, lost := if l.planes = 15 then l.lost else l.planes,
                                  failedAt := some s.now, recorded := false }
  match s.fab.standbyFor with
  | some (_, k) => if k = m then { s1 with fab := { s1.fab with standbyFor := none, standbyLit := false } } else s1
  | none => s1

theorem State.laserOut_frame (s : State) (m : Nat) : s.laserOut m = { s with fab := { s.fab with
    standbyFor := (s.laserOut m).fab.standbyFor, standbyLit := (s.laserOut m).fab.standbyLit
    lasers := s.fab.lasers.set m { s.laser m with
      state := 4, planes := 15, lost := if (s.laser m).planes = 15 then (s.laser m).lost else (s.laser m).planes,
      failedAt := some s.now, recorded := false } } } := by
  simp only [State.laserOut]
  split
  · split
    · rfl
    · rfl
  · rfl

theorem exec_laserFail (s : State) (m : Nat) (hm : m < 5) (h3 : (s.laser m).state = 3) :
    exec (.laserFail m) s = .next ((s.laserOut m).loseAll (planeChannels (s.laser m).planes)) := by
  show execLaserFail m s = _
  simp only [execLaserFail, h3, Nat.not_le.2 hm, decide_false, bne_self_eq_false, Bool.or_self, Bool.false_eq_true, if_false]
  rfl

theorem laserFail_spec (s : State) (m : Nat) (hm : m < 5) (h5 : s.fab.lasers.length = 5) (h3 : (s.laser m).state = 3)
    (hup : s.fab.up = true) : s.Happens (.laserFail m) fun t => s.InFabric t ∧
      s.LaserBecomes t m { s.laser m with
        state := 4, planes := 15, lost := if (s.laser m).planes = 15 then (s.laser m).lost else (s.laser m).planes,
        failedAt := some s.now, recorded := false } ∧
      ∀ i j, usedPair i j = true →
        (t.link i j).txLive = (s.link i j).txLive &&& ~~~planeChannels (s.laser m).planes ∧
        (t.link i j).rxLive = (s.link i j).rxLive &&& ~~~planeChannels (s.laser m).planes ∧ (t.link i j).chLive = (t.link i j).rxLive := by
  have e := State.laserOut_frame s m
  have hlink : ∀ i j, (s.laserOut m).link i j = s.link i j := fun i j => by rw [e]; simp only [State.link]
  obtain ⟨f, h⟩ := State.loseAll_spec (s.laserOut m) (planeChannels (s.laser m).planes) (by rw [e]; exact hup)
  refine ⟨_, exec_laserFail s m hm h3, ?_, State.laserBecomes_of_lasers h5 hm (by rw [f.lasers, e]), fun i j hij => ?_⟩
  · exact State.InFabric.trans (by unfold State.InFabric; rw [e]) f.inFabric
  · rw [← hlink i j]; exact h i j hij

/-! ### The record of a failure -/

theorem State.laserRecord_eq (s : State) (m : Nat) (hr : (s.laser m).recorded = false) (h : s.restriped = true) :
    ∃ after mode before resent : Nat, s.laserRecord m =
      (s.setLaser m { s.laser m with recorded := true }).fabRecord 0x0201 1 m 0xFF 0xFF before after mode 0xFF resent := by
  simp only [State.laserRecord, hr, h, Bool.not_true, Bool.or_self, Bool.false_eq_true, if_false]
  exact ⟨_, _, _, _, rfl⟩

/-! ### The standby's light (R29, R484) -/

/-- Every pair trains the channels of some planes that it does not receive. -/
def State.trainAll (s : State) (c : BitVec 16) (now : Nat) : State :=
  allPairs.foldl (fun t q => t.modLink q.1 q.2 fun l => l.train (c &&& ~~~l.rxLive) now) s

theorem State.trainAll_spec (s : State) (c : BitVec 16) (now : Nat) (h : s.fab.up = true) : s.Traffic (s.trainAll c now) ∧
    ∀ i j, usedPair i j = true → (s.trainAll c now).link i j = (s.link i j).train (c &&& ~~~(s.link i j).rxLive) now := by
  obtain ⟨f, k⟩ := State.allPairs_turn (fun l : Link => l) (fun l => l.train (c &&& ~~~l.rxLive) now)
    (fun t q => t.modLink q.1 q.2 fun l => l.train (c &&& ~~~l.rxLive) now)
    (fun t p hu => State.modLink_turns _ t p.1 p.2 _ _ hu (by intro l; rfl)) s h
  exact ⟨f, k⟩

/-- A standby that lights: it is active on the planes of the module that it replaces. -/
def State.lightUp (s : State) (m k : Nat) : State :=
  let s1 := s.setLaser k { s.laser k with state := 3, planes := (s.laser m).lost, since := s.now }
  { s1 with fab := { s1.fab with standbyLit := true } }

theorem exec_standbyLightOn (s : State) (m k : Nat) (h : s.fab.standbyFor = some (m, k)) (hl : s.fab.standbyLit = false) :
    exec .standbyLightOn s = .next ((s.lightUp m k).trainAll (planeChannels (s.laser m).lost) s.now) := by
  show execStandbyLightOn s = _
  simp only [execStandbyLightOn, h, hl]
  rfl

theorem standbyLightOn_spec (s : State) (m k : Nat) (hk : k < 5) (h5 : s.fab.lasers.length = 5) (h : s.fab.standbyFor = some (m, k))
    (hl : s.fab.standbyLit = false) (hup : s.fab.up = true) : s.Happens .standbyLightOn fun t =>
      s.InFabric t ∧ s.LaserBecomes t k { s.laser k with state := 3, planes := (s.laser m).lost, since := s.now } ∧
      t.fab.standbyLit = true ∧ ∀ i j, usedPair i j = true →
        t.link i j = (s.link i j).train (planeChannels (s.laser m).lost &&& ~~~(s.link i j).rxLive) s.now := by
  obtain ⟨f, hlink⟩ := State.trainAll_spec (s.lightUp m k) (planeChannels (s.laser m).lost) s.now hup
  have hs : s.InFabric (s.lightUp m k) := rfl
  refine ⟨_, exec_standbyLightOn s m k h hl, hs.trans f.inFabric, State.laserBecomes_of_lasers h5 hk f.lasers, f.standbyLit, hlink⟩

/-! ### The other events -/

theorem laserMonitorReport_spec (s : State) (m : Nat) (hm : m < 5) (h5 : s.fab.lasers.length = 5) (hr : (s.laser m).recorded = false)
    (hf : (s.laser m).failedAt ≠ none) (hs : s.restriped = true) : s.Happens (.laserMonitorReport m) fun t =>
      ({ s with fab := t.fab } : State).Logged t ∧ s.LaserBecomes t m { s.laser m with recorded := true } ∧ t.fab.links = s.fab.links := by
  obtain ⟨after, mode, before, resent, e⟩ := State.laserRecord_eq s m hr hs
  obtain ⟨hlog, hb, hlinks, -⟩ := State.setLaser_fabRecord h5 hm (u := s.setLaser m { s.laser m with recorded := true }) rfl rfl rfl
    0x0201 1 m 0xFF 0xFF before after mode 0xFF resent
  refine ⟨_, (?_ : execLaserMonitorReport m s = .next (s.laserRecord m)), ?_⟩
  · simp [execLaserMonitorReport, hr, hf, hs, hm]
  · rw [e]; exact ⟨hlog, hb, hlinks⟩

theorem standbyCommit_spec (s : State) (m k : Nat) (h0 : s.fab.standbyFor = none) (hk : s.standby = some k) (hm : s.toReplace = some m)
    (ht : ∀ t0, (s.laser m).failedAt = some t0 → t0 + 20000 ≤ s.now) (hf : (s.laser m).failedAt ≠ none) :
    s.Happens .standbyCommit fun t => t = { s with fab := { s.fab with standbyFor := some (m, k), standbyLit := false } } := by
  obtain ⟨t0, h⟩ := Option.ne_none_iff_exists'.1 hf
  refine ⟨_, (?_ : execStandbyCommit s = _), rfl⟩
  simp only [execStandbyCommit, h0, hk, hm, h, Option.getD_some, tenMicro, ht t0 h, if_true]

/-- The standby fails before its light is on. -/
def State.standbyOut (s : State) (k : Nat) : State :=
  let s1 := s.setLaser k { s.laser k with state := 4, planes := 15, lost := 15, failedAt := some s.now, recorded := false }
  { s1 with fab := { s1.fab with standbyFor := none } }

theorem exec_standbyFail (s : State) (n k : Nat) (h : s.fab.standbyFor = some (n, k)) (hl : s.fab.standbyLit = false) :
    exec .standbyFail s = .next ((s.standbyOut k).laserRecord k) := by
  show execStandbyFail s = _
  simp only [execStandbyFail, h, hl]
  rfl

theorem standbyFail_spec (s : State) (n m : Nat) (hm : m < 5) (h5 : s.fab.lasers.length = 5) (h : s.fab.standbyFor = some (n, m))
    (hl : s.fab.standbyLit = false) (hs : s.restriped = true) : s.Happens .standbyFail fun t =>
      ({ s with fab := t.fab } : State).Logged t ∧ t.fab.standbyFor = none ∧ t.fab.links = s.fab.links ∧
      s.LaserBecomes t m { s.laser m with state := 4, planes := 15, lost := 15, failedAt := some s.now, recorded := true } := by
  have hm' : (s.standbyOut m).laser m = { s.laser m with state := 4, planes := 15, lost := 15, failedAt := some s.now, recorded := false } :=
    (State.laser_setLaser s m m _ (h5 ▸ hm)).trans (if_pos rfl)
  obtain ⟨after, mode, before, resent, e⟩ := State.laserRecord_eq (s.standbyOut m) m (by rw [hm']) hs
  obtain ⟨hlog, hb, hlinks, hfor⟩ := State.setLaser_fabRecord h5 hm
    (u := (s.standbyOut m).setLaser m { (s.standbyOut m).laser m with recorded := true })
    (x := { s.laser m with state := 4, planes := 15, lost := 15, failedAt := some s.now, recorded := true })
    rfl (by rw [hm']; exact List.set_set ..) rfl 0x0201 1 m 0xFF 0xFF before after mode 0xFF resent
  refine ⟨_, exec_standbyFail s n m h hl, ?_⟩
  rw [e]; exact ⟨hlog, hfor, hlinks, hb⟩

theorem moduleRemoval_spec (s : State) (m : Nat) (hm : m < 5) (h5 : s.fab.lasers.length = 5) (hq : (s.laser m).remreq = true)
    (hp : (s.laser m).planes = 15) (h0 : (s.laser m).state ≠ 0) (ho : (s.laser m).out = false) (hv : s.moving m = false) :
    s.Happens (.moduleRemoval m) fun t => ({ s with fab := t.fab } : State).Logged t ∧
      s.LaserBecomes t m { s.laser m with state := 5, out := true } ∧ t.fab.links = s.fab.links := by
  obtain ⟨hlog, hb, hlinks, -⟩ := State.setLaser_fabRecord h5 hm (u := s.setLaser m { s.laser m with state := 5, out := true }) rfl rfl rfl
    0x0204 0 m 0xFF 0xFF s.lit.toNat s.lit.toNat (if s.lit = 0xFFFF then 0 else 1) 0xFF 0
  refine ⟨_, (?_ : execModuleRemoval m s = _), hlog, hb, hlinks⟩
  simp [execModuleRemoval, hq, hp, h0, ho, hv, hm]

theorem moduleOut_spec (s : State) (m : Nat) (hm : m < 5) (h5 : s.fab.lasers.length = 5) (hs : (s.laser m).state = 5)
    (ho : (s.laser m).out = true) : s.Happens (.moduleOut m) fun t => s.InFabric t ∧ t.fab.links = s.fab.links ∧
      s.LaserBecomes t m { s.laser m with state := 0, planes := 15, remreq := false, out := false } := by
  refine ⟨s.setLaser m { s.laser m with state := 0, planes := 15, remreq := false, out := false }, (?_ : execModuleOut m s = _),
    rfl, rfl, State.laserBecomes_of_lasers h5 hm rfl⟩
  simp [execModuleOut, hs, ho, hm]

theorem moduleInsert_spec (s : State) (m : Nat) (hm : m < 5) (h5 : s.fab.lasers.length = 5) (hs : (s.laser m).state = 0) :
    s.Happens (.moduleInsert m) fun t => s.InFabric t ∧ t.fab.links = s.fab.links ∧
      s.LaserBecomes t m { s.laser m with state := 1, planes := 15 } := by
  refine ⟨s.setLaser m { s.laser m with state := 1, planes := 15 }, (?_ : execModuleInsert m s = _), rfl, rfl,
    State.laserBecomes_of_lasers h5 hm rfl⟩
  simp [execModuleInsert, hs, hm]

theorem moduleWarmDone_spec (s : State) (m : Nat) (hm : m < 5) (h5 : s.fab.lasers.length = 5) (hs : (s.laser m).state = 1) :
    s.Happens (.moduleWarmDone m) fun t => ({ s with fab := t.fab } : State).Logged t ∧
      s.LaserBecomes t m { s.laser m with state := 2 } ∧ t.fab.links = s.fab.links := by
  obtain ⟨hlog, hb, hlinks, -⟩ := State.setLaser_fabRecord h5 hm (u := s.setLaser m { s.laser m with state := 2 }) rfl rfl rfl
    0x0203 0 m 0xFF 0xFF s.lit.toNat s.lit.toNat (if s.lit = 0xFFFF then 0 else 1) 0xFF 0
  refine ⟨_, (?_ : execModuleWarmDone m s = _), hlog, hb, hlinks⟩
  simp [execModuleWarmDone, hs, hm]

/-- Settles O42, event by event: a failure by the three passes over the pairs, the standby's light by its one pass, the others by the
module's new state and the record. -/
theorem laserEvents : Obligations.LaserEvents := by
  unfold Obligations.LaserEvents
  intro s m hm h5
  exact ⟨fun h3 hup => laserFail_spec s m hm h5 h3 hup,
    fun hr hf hs => laserMonitorReport_spec s m hm h5 hr hf hs,
    fun k h0 hk hr ht hf => standbyCommit_spec s m k h0 hk hr ht hf,
    fun k hk h hl hup => standbyLightOn_spec s m k hk h5 h hl hup,
    fun n h hl hs => standbyFail_spec s n m hm h5 h hl hs,
    fun hq hp h0 ho hv => moduleRemoval_spec s m hm h5 hq hp h0 ho hv,
    fun hs ho => moduleOut_spec s m hm h5 hs ho,
    fun hs => moduleInsert_spec s m hm h5 hs,
    fun hs => moduleWarmDone_spec s m hm h5 hs⟩

end Sys2Proof.Machine
end

section
/-! What the fencing of a die can leave of the requests, the watches and the guardhouse (R86, R89, R237): it adds no request and arms no
watch, and of the guardhouse it changes what the debug port says alone. -/

namespace Sys2Proof.Machine

/-- No request and no watch is new, and the guardhouse is as it was but for the debug port's answers. -/
structure State.Keeps (s t : State) : Prop where
  guard : t.guard = { s.guard with port := t.guard.port }
  reqs : t.md.reqs ⊆ s.md.reqs
  watches : t.md.watches ⊆ s.md.watches

theorem State.Keeps.refl (s : State) : s.Keeps s := ⟨rfl, List.Subset.refl _, List.Subset.refl _⟩
theorem State.Keeps.trans {s t u : State} (h : s.Keeps t) (k : t.Keeps u) : s.Keeps u :=
  ⟨by rw [k.guard, h.guard], List.Subset.trans k.reqs h.reqs, List.Subset.trans k.watches h.watches⟩

/-- A change elsewhere. -/
theorem State.Keeps.of_eq {s t : State} (hg : t.guard = s.guard) (hr : t.md.reqs = s.md.reqs) (hw : t.md.watches = s.md.watches) :
    s.Keeps t := ⟨by rw [hg], by rw [hr]; exact List.Subset.refl _, by rw [hw]; exact List.Subset.refl _⟩

theorem State.SameButFab.keeps {s t : State} (h : s.SameButFab t) : s.Keeps t := by
  unfold State.SameButFab at h
  exact .of_eq (by rw [h]) (by rw [h]) (by rw [h])

/-! ### Writes by the device -/

theorem State.rekey_keeps (s : State) (leaf : BitVec 64) (sec : Nat) : s.Keeps (s.rekey leaf sec) := by
  simp only [State.rekey]
  split
  · exact .refl s
  · exact .of_eq rfl rfl rfl

theorem State.fireWatches_keeps (s : State) (ias : List Nat) : s.Keeps (s.fireWatches ias) :=
  ⟨rfl, List.Subset.refl _, List.filter_subset_self _⟩

theorem State.performWrite_keeps (s : State) (leaf : BitVec 64) (ia pa : Nat) (w : List (Nat × BitVec 8)) :
    s.Keeps (s.performWrite leaf ia pa w) := by
  simp only [State.performWrite]
  refine State.Keeps.trans ?_ (State.fireWatches_keeps ..)
  split
  · exact .of_eq rfl rfl rfl
  · exact (foldl_keeps (State.Keeps s) (fun (t : State) sec => t.rekey leaf sec) _ s (.refl s)
      fun t sec h => h.trans (State.rekey_keeps t leaf sec)).trans (.of_eq rfl rfl rfl)

theorem State.fitBlock_keeps (s : State) (force : Bool) (ctx die block : Nat) (p : State × Nat) (h : s.fitBlock force ctx die block = some p) :
    s.Keeps p.1 := by
  have k := State.fitBlock_frame s force ctx die block p h
  exact .of_eq (by rw [k]) (by rw [k]) (by rw [k])

theorem State.writeNow_keeps (s t : State) (ctx ia pa : Nat) (leaf : BitVec 64) (bytes : List (BitVec 8))
    (e : s.writeNow ctx ia pa leaf bytes = some t) : s.Keeps t := by
  have k := State.performWrite_keeps s leaf ia pa ((List.range bytes.length).map fun i => (pa + i, bytes.getD i 0))
  simp only [State.writeNow] at e
  split at e
  · cases e; exact k
  · split at e
    · obtain ⟨p, hp, rfl⟩ := Option.map_eq_some_iff.1 e
      have q : s.Keeps p.1 := by
        refine (k.trans ?_).trans (State.fitBlock_keeps _ _ _ _ _ p hp)
        split
        · exact .of_eq rfl rfl rfl
        · exact .refl _
      split
      · exact q
      · exact q.trans (.of_eq rfl rfl rfl)
    · cases e
      refine k.trans ?_
      split
      · exact .of_eq rfl rfl rfl
      · exact .refl _

theorem State.deviceWrite?_keeps (s t : State) (ctx ia pa : Nat) (leaf : BitVec 64) (bytes : List (BitVec 8))
    (e : s.deviceWrite? ctx ia pa leaf bytes = some t) : s.Keeps t := by
  simp only [State.deviceWrite?] at e
  split at e
  · exact State.writeNow_keeps s t ctx ia pa leaf bytes e
  · cases e; exact .of_eq rfl rfl rfl

theorem State.deviceWrite_keeps (s : State) (ctx ia pa : Nat) (leaf : BitVec 64) (bytes : List (BitVec 8)) :
    s.Keeps (s.deviceWrite ctx ia pa leaf bytes) := by
  simp only [State.deviceWrite]
  cases e : s.deviceWrite? ctx ia pa leaf bytes with
  | none => exact .refl s
  | some t => exact State.deviceWrite?_keeps s t ctx ia pa leaf bytes e

theorem State.funcWrite_keeps (s : State) (f : Nat) (c : Option Nat) (va : Nat) (bytes : List (BitVec 8)) :
    s.Keeps (s.funcWrite f c va bytes) := by
  refine foldl_keeps (State.Keeps s) _ _ s (.refl s) fun t p h => h.trans ?_
  split
  · split
    · exact State.deviceWrite_keeps ..
    · exact .refl t
  · exact .refl t

theorem State.ctxWrite_keeps (s t : State) (c va : Nat) (bytes : List (BitVec 8)) (e : s.ctxWrite c va bytes = .ok t) : s.Keeps t := by
  simp only [State.ctxWrite] at e
  split at e
  · cases e
  · next cx _ =>
    refine foldl_keeps (fun r : Except Nat State => ∀ u, r = .ok u → s.Keeps u) _ _ _ ?_ ?_ t e
    · rintro u ⟨⟩; exact .refl s
    · intro r p hr u hu
      split at hu
      · cases hu
      · next s1 =>
        have h1 := hr s1 rfl
        split at hu
        · cases hu
        · split at hu
          · cases hu
          · split at hu
            · cases hu
            · split at hu
              · next s2 hs2 => cases hu; exact h1.trans (State.deviceWrite?_keeps _ _ _ _ _ _ _ hs2)
              · cases hu

/-! ### Logs -/

theorem State.setFunc_keeps (s : State) (f : Nat) (x : Func) : s.Keeps (s.setFunc f x) := .of_eq rfl rfl rfl
theorem State.modFunc_keeps (s : State) (f : Nat) (k : Func → Func) : s.Keeps (s.modFunc f k) := .of_eq rfl rfl rfl
theorem State.nextRseq_keeps (s : State) : s.Keeps s.nextRseq.1 := .of_eq rfl rfl rfl

theorem State.logPut_keeps (s : State) (f : Nat) (bytes : List (BitVec 8)) : s.Keeps (s.logPut f bytes) := by
  simp only [State.logPut]
  exact (State.funcWrite_keeps ..).trans ((State.funcWrite_keeps ..).trans (State.modFunc_keeps ..))

theorem State.logLost_keeps (s : State) (f : Nat) : s.Keeps (s.logLost f) := by
  simp only [State.logLost]
  split
  · exact .refl s
  · exact (State.nextRseq_keeps s).trans ((State.logPut_keeps ..).trans (State.modFunc_keeps ..))

theorem State.logWrite_keeps (s : State) (f : Nat) (mk : Nat → List (BitVec 8)) : s.Keeps (s.logWrite f mk).1 := by
  simp only [State.logWrite]
  refine (State.logLost_keeps s f).trans ((State.nextRseq_keeps _).trans ?_)
  split
  · exact .refl _
  · split
    · exact State.logPut_keeps ..
    · exact State.setFunc_keeps ..

theorem State.raiseVector_keeps (s : State) (f v : Nat) : s.Keeps (s.raiseVector f v) := by
  simp only [State.raiseVector]
  split
  · exact .refl s
  · split
    · exact State.setFunc_keeps ..
    · exact .of_eq rfl rfl rfl

theorem State.raiseEvent_keeps (s : State) (f v : Nat) : s.Keeps (s.raiseEvent f v) := by
  simp only [State.raiseEvent]
  split
  · exact (State.setFunc_keeps ..).trans (State.raiseVector_keeps ..)
  · exact State.setFunc_keeps ..

theorem State.logRecord_keeps (s : State) (f vec : Nat) (mk : Nat → List (BitVec 8)) : s.Keeps (s.logRecord f vec mk) := by
  simp only [State.logRecord]
  split
  · exact (State.logWrite_keeps ..).trans (State.raiseEvent_keeps ..)
  · exact State.logWrite_keeps ..

theorem State.logAndRaise_keeps (s : State) (f vec : Nat) (mk : Nat → List (BitVec 8)) : s.Keeps (s.logAndRaise f vec mk) :=
  (State.logWrite_keeps ..).trans (State.raiseEvent_keeps ..)

/-! ### The logbook -/

theorem State.modCtx_keeps (s : State) (c : Nat) (k : Context → Context) : s.Keeps (s.modCtx c k) := .of_eq rfl rfl rfl
theorem State.setCtx_keeps (s : State) (c : Nat) (x : Context) : s.Keeps (s.setCtx c x) := .of_eq rfl rfl rfl

theorem State.lbPut_keeps (s : State) (c : Nat) (cx : Context) (bytes : List (BitVec 8)) : s.Keeps (s.lbPut c cx bytes) := by
  simp only [State.lbPut]
  split
  · exact .refl s
  · split
    · exact State.funcWrite_keeps ..
    · exact (State.funcWrite_keeps ..).trans ((State.funcWrite_keeps ..).trans (State.modCtx_keeps ..))

theorem State.blockLog_keeps (s : State) (b : Block) (kind aux : Nat) (data : List (BitVec 8)) : s.Keeps (s.blockLog b kind aux data) := by
  simp only [State.blockLog, State.logbook]
  split
  · exact .refl s
  · split
    · exact .refl s
    · exact State.lbPut_keeps ..

theorem State.lbRead_keeps (s : State) (c : Nat) : s.Keeps (s.lbRead c) := by
  simp only [State.lbRead]
  split
  · exact .refl s
  · split
    · exact State.setCtx_keeps ..
    · exact State.setCtx_keeps ..

/-! ### Blocks and their tasks -/

theorem State.modTask_keeps (s : State) (tt : Nat) (f : Task → Task) : s.Keeps (s.modTask tt f) := .of_eq rfl rfl rfl
theorem State.setGroup_keeps (s : State) (gid : Nat) (g : Group) : s.Keeps (s.setGroup gid g) := .of_eq rfl rfl rfl
theorem State.modGroup_keeps (s : State) (gid : Nat) (f : Group → Group) : s.Keeps (s.modGroup gid f) := .of_eq rfl rfl rfl
theorem State.modCore_keeps (s : State) (c : Nat) (f : Core → Core) : s.Keeps (s.modCore c f) := .of_eq rfl rfl rfl

theorem State.dropBlock_keeps (s : State) (bid : Nat) : s.Keeps (s.dropBlock bid) := by
  simp only [State.dropBlock]
  split
  · exact .refl s
  · exact ⟨rfl, List.filter_subset_self _, List.Subset.refl _⟩

theorem State.flushCore_keeps (s : State) (c ctx : Nat) : s.Keeps (s.flushCore c ctx) := by
  simp only [State.flushCore]
  split
  · exact .refl s
  · refine State.Keeps.trans ?_ (State.modCore_keeps ..)
    split
    · exact .refl s
    · exact foldl_keeps (State.Keeps s) _ _ s (.refl s) fun t e h => h.trans (State.funcWrite_keeps ..)

theorem State.settlePause_fab (s : State) (i j tc : Nat) : s.SameButFab (s.settlePause i j tc) := by
  simp only [State.settlePause]
  split
  · exact (State.modLink_fab ..).trans (State.send_fab ..)
  · split
    · exact (State.modLink_fab ..).trans (State.send_fab ..)
    · exact .refl s

theorem State.settlePauses_fab (s : State) : s.SameButFab s.settlePauses := by
  refine foldl_keeps (State.SameButFab s) _ _ s (.refl s) fun t k h => ?_
  split
  · exact h
  · exact foldl_keeps (State.SameButFab s) _ _ t h fun u tc hu => hu.trans (State.settlePause_fab ..)

theorem State.portSays_keeps (s : State) (what n : Nat) : s.Keeps (s.portSays what n) := ⟨rfl, List.Subset.refl _, List.Subset.refl _⟩

theorem State.settleTask_keeps (s : State) (tt : Nat) : s.Keeps (s.settleTask tt) := State.modTask_keeps ..

/-! ### The completion area (R146) -/

theorem State.taskFault_keeps (s : State) (ctx cwa : Nat) : s.Keeps (s.taskFault ctx cwa) := by
  simp only [State.taskFault]
  split
  · exact .refl s
  · exact State.logRecord_keeps ..

theorem State.cwaWrite_keeps (s : State) (ctx cwa off : Nat) (bytes : List (BitVec 8)) : s.Keeps (s.cwaWrite ctx cwa off bytes) := by
  simp only [State.cwaWrite]
  split
  · next t e => exact State.ctxWrite_keeps s t _ _ _ e
  · exact State.taskFault_keeps ..

theorem State.cwaPut_keeps (s : State) (final : Bool) (ctx cwa off : Nat) (bytes : List (BitVec 8)) :
    s.Keeps (s.cwaPut final ctx cwa off bytes) := by
  simp only [State.cwaPut]
  split
  · exact State.cwaWrite_keeps ..
  · refine State.Keeps.trans ?_ (State.taskFault_keeps ..)
    exact .of_eq rfl rfl rfl

theorem State.message_keeps (s : State) (i j tc : Nat) : s.Keeps (s.message i j tc).1 := (State.message_fab s i j tc).keeps
theorem State.bumpDelay_keeps (s : State) (home src : Nat) : s.Keeps (s.bumpDelay home src) := .of_eq rfl rfl rfl
theorem State.calmDelay_keeps (s : State) (home src : Nat) : s.Keeps (s.calmDelay home src) := .of_eq rfl rfl rfl

theorem State.gather_keeps (s u : State) (die ia : Nat) (t : Rights) (w : Waiter) (ctx reason : Nat)
    (e : s.gather die ia t w ctx reason = some u) : s.Keeps u := by
  simp only [State.gather] at e
  split at e
  · cases e; exact .of_eq rfl rfl rfl
  · split at e
    · cases e
    · cases e; exact (State.message_keeps ..).trans (.of_eq rfl rfl rfl)

/-- A refused engine tries again later. -/
theorem State.engineRefused_keeps (s : State) (i j tc home src : Nat) (b : MemDies → List (Waiter × Nat × Nat)) :
    s.Keeps (((s.message i j tc).1.modMd fun m => { m with backoff := b m }).bumpDelay home src) := by
  refine State.Keeps.trans ?_ (State.bumpDelay_keeps ..)
  exact (State.message_keeps s i j tc).trans (.of_eq rfl rfl rfl)

/-- A miss gathers, or is refused where the merge table is full. -/
theorem State.engineMiss_keeps {s u r : State} (hr : s.Keeps r) (hu : s.Keeps u) (die ia : Nat) (t : Rights) (w : Waiter)
    (ctx reason i j home src page : Nat) :
    s.Keeps (match u.gather die ia t w ctx reason with
      | none => (r, Reach.retry)
      | some v => ((v.message i j 1).1.calmDelay home src, Reach.pend page)).1 := by
  split
  · exact hr
  · next v e => exact (hu.trans (State.gather_keeps _ _ _ _ _ _ _ _ e)).trans ((State.message_keeps ..).trans (State.calmDelay_keeps ..))

theorem State.engineAt_keeps (s : State) (e : Engine) (ctx ia : Nat) (t : Rights) : s.Keeps (s.engineAt e ctx ia t).1 := by
  simp only [State.engineAt]
  split
  · exact .refl s
  · generalize hu : (s.message (portOfSource e.src) (portOfMemory (s.servingDie ia)) 0).1.modMd _ = u
    have h0 : s.Keeps u := by
      rw [← hu]
      refine (State.message_keeps s (portOfSource e.src) (portOfMemory (s.servingDie ia)) 0).trans ?_
      exact .of_eq rfl rfl rfl
    have hr := h0.trans (State.engineRefused_keeps u (portOfMemory (s.servingDie ia)) (portOfSource e.src) 1 (s.servingDie ia) e.src
      fun m => m.backoff ++ [(e.w, s.servingDie ia, s.now + s.retryDelay (s.servingDie ia) e.src)])
    split
    · exact hr
    · split
      · exact State.engineMiss_keeps hr h0 ..
      · split
        · exact State.engineMiss_keeps hr h0 ..
        · split
          · exact State.engineMiss_keeps hr h0 ..
          · exact h0.trans ((State.message_keeps ..).trans (State.calmDelay_keeps ..))

/-- The outcome's state, where there is one, keeps what `State.Keeps` says. -/
def CwaReach.Keeps (s : State) : CwaReach → Prop
  | .go u _ => s.Keeps u
  | .ask u => s.Keeps u
  | .wait => True

theorem State.cwaReach_keeps (s : State) (ctx va : Nat) (t : Rights) : (s.cwaReach ctx va t).Keeps s := by
  simp only [State.cwaReach]
  split
  · exact .refl s
  · next cx _ =>
    split
    · exact .refl s
    · next ia _ _ =>
      split
      · exact .refl s
      · split
        · trivial
        · have h := State.engineAt_keeps s { w := .box, src := 17, fn := cx.fn } ctx ia t
          split
          · next e => rw [e] at h; exact h
          · next e => rw [e] at h; exact h
          · next e => rw [e] at h; exact h
          · trivial

theorem State.exitOf_keeps (s : State) (bid : Nat) (b : Block) (status : Nat) : s.Keeps (s.exitOf bid b status) := by
  simp only [State.exitOf]
  split
  · exact State.blockLog_keeps ..
  · next tt k _ =>
    generalize hs : s.blockLog b _ status _ = s0
    have h0 : s.Keeps s0 := by rw [← hs]; exact State.blockLog_keeps ..
    split
    · exact h0.trans (State.modTask_keeps ..)
    · refine State.Keeps.trans ?_ (State.modTask_keeps ..)
      have hreach := State.cwaReach_keeps s0 b.ctx (k.task.cwa + (64 + 32 * k.recs)) acWrite
      split
      · exact h0
      · split
        · next e => rw [e] at hreach; exact (h0.trans hreach).trans (State.cwaPut_keeps ..)
        · next e => rw [e] at hreach; exact (h0.trans hreach).trans (State.modTask_keeps ..)
        · exact h0.trans (State.modTask_keeps ..)

/-! ### Lost blocks and station blocks (R89, R133) -/

theorem State.loseBlock_keeps (s : State) (bid : Nat) (b : Block) : s.Keeps (s.loseBlock bid b) := by
  simp only [State.loseBlock]
  split
  · exact State.dropBlock_keeps ..
  · next tt _ _ =>
    have h0 := State.modTask_keeps s tt fun q => { q with saved := q.saved.filter (· != bid) }
    split
    · exact h0.trans ((State.dropBlock_keeps ..).trans (State.modTask_keeps ..))
    · split
      · exact h0.trans (State.dropBlock_keeps ..)
      · exact h0.trans ((State.exitOf_keeps ..).trans ((State.dropBlock_keeps ..).trans (State.modTask_keeps ..)))

theorem State.seedSampler_keeps (s : State) (c ctx : Nat) : s.Keeps (s.seedSampler c ctx) := by
  simp only [State.seedSampler]
  split
  · exact .refl s
  · exact State.modCore_keeps ..

theorem State.startBlock_keeps (s : State) (b : Block) (restart : Bool) : s.Keeps (s.startBlock b restart) := by
  simp only [State.startBlock]
  refine State.Keeps.trans ?_ ((State.lbRead_keeps ..).trans ((State.seedSampler_keeps ..).trans (State.blockLog_keeps ..)))
  exact foldl_keeps (State.Keeps s) _ _ _ (.of_eq rfl rfl rfl) fun t j h => h.trans (State.setGroup_keeps ..)

theorem State.startStation_keeps (s t : State) (ctx : Nat) (e : s.startStation ctx = some t) : s.Keeps t := by
  simp only [State.startStation] at e
  split at e
  · cases e
  · split at e
    · cases e
    · cases e
      refine State.Keeps.trans ?_ (State.modGroup_keeps ..)
      exact (State.startBlock_keeps ..).trans (.of_eq rfl rfl rfl)

theorem State.oweStation_keeps (s : State) (ctx : Nat) : s.Keeps (s.oweStation ctx) := by
  simp only [State.oweStation]
  split
  · next t e => exact State.startStation_keeps s t ctx e
  · exact .of_eq rfl rfl rfl

end Sys2Proof.Machine
end

section
/-! A fatal die (R86, R89): the fence, and what the loss of its blocks leaves. -/

namespace Sys2Proof.Machine

/-- Step 1 of R89: the die is fenced, and what it had sent and watched is gone. -/
def State.fencedOff (s : State) (d : Nat) : State :=
  State.cutMemops { s with
    guard := { s.guard with fenced := s.guard.fenced ||| BitVec.ofNat 8 (2 ^ d) }
    md := { s.md with reqs := s.md.reqs.filter (·.src != d), cellReqs := s.md.cellReqs.filter (·.src != d)
                      watches := s.md.watches.filter (·.die != d) } } (·.src == d)

/-- The rest of the fencing adds no request and no watch. -/
theorem State.fenceDie_keeps (s : State) (d : Nat) : (s.fencedOff d).Keeps (s.fenceDie d) := by
  simp only [State.fenceDie]
  refine State.Keeps.trans ?_ ((State.settlePauses_fab _).keeps.trans (State.logAndRaise_keeps ..))
  refine foldl_keeps (State.Keeps _) _ _ _ ?_ fun t b h => h.trans (State.oweStation_keeps ..)
  refine State.Keeps.trans (t := List.foldl State.settleTask _ _) ?_ (.of_eq rfl rfl rfl)
  refine foldl_keeps (State.Keeps _) _ _ _ ?_ fun t b h => h.trans (State.settleTask_keeps ..)
  refine foldl_keeps (State.Keeps _) _ _ _ ?_ fun t x h =>
    foldl_keeps (State.Keeps _) _ _ t h fun u k hu => hu.trans (State.flushCore_keeps ..)
  refine foldl_keeps (State.Keeps _) _ _ _ (.refl _) fun t b h => ?_
  split
  · exact h.trans ((State.portSays_keeps ..).trans (State.loseBlock_keeps ..))
  · exact h.trans (State.loseBlock_keeps ..)

theorem computeDieFatal_spec (s : State) (die : Nat) (hd : die < 8) (hf : s.guard.fenced.getLsbD die = false) :
    s.Happens (.computeDieFatal die) fun t => t.guard.fenced = s.guard.fenced ||| BitVec.ofNat 8 (2 ^ die) ∧
      (∀ r ∈ t.md.reqs, r.src ≠ die) ∧ ∀ w ∈ t.md.watches, w.die ≠ die := by
  obtain ⟨hguard, hreqs, hwatches⟩ := State.fenceDie_keeps s die
  refine ⟨s.fenceDie die, (?_ : execComputeDieFatal die s = _), by rw [hguard]; rfl, fun r hr => ?_, fun w hw => ?_⟩
  · simp only [execComputeDieFatal, hf, Nat.not_le.2 hd, decide_false, Bool.or_self, Bool.false_eq_true, if_false]
  · simpa using (List.mem_filter.1 (hreqs hr)).2
  · simpa using (List.mem_filter.1 (hwatches hw)).2

end Sys2Proof.Machine
end

section
/-! A function-level reset (R87): what discarding the function's contexts takes away, and what its completion leaves. -/

namespace Sys2Proof.Machine

/-! ### Tables -/

theorem SMap.mem_of_get {α : Type} (d : α) (m : SMap α) (k : Nat) (v : α) (h : SMap.get d m k = v) (hv : v ≠ d) : (k, v) ∈ m := by
  induction m with
  | nil => exact absurd h.symm hv
  | cons e rest ih =>
    obtain ⟨j, x⟩ := e
    simp only [SMap.get] at h
    split at h
    · next e => rw [e, ← h]; exact List.mem_cons_self
    · split at h
      · exact absurd h.symm hv
      · exact List.mem_cons_of_mem _ (ih h)

theorem SMap.mem_entries {α : Type} (m : SMap (Option α)) (k : Nat) (v : α) (h : (k, some v) ∈ m) : (k, v) ∈ SMap.entries m := by
  induction m with
  | nil => cases h
  | cons e rest ih =>
    obtain ⟨j, x⟩ := e
    rcases List.mem_cons.1 h with e | hr
    · cases e; exact List.mem_cons_self
    · cases x with
      | none => exact ih hr
      | some y => exact List.mem_cons_of_mem _ (ih hr)

theorem SMap.mem_entries_of_find {α : Type} {m : SMap (Option α)} {k : Nat} {v : α} (h : SMap.find? m k = some v) : (k, v) ∈ SMap.entries m :=
  SMap.mem_entries m k v (SMap.mem_of_get none m k (some v) h (by simp))

/-- What a table's deletions of a list of keys leave. -/
theorem SMap.find_del_all {α : Type} [DecidableEq α] (ks : List Nat) : ∀ m : SMap (Option α), ∀ k,
    SMap.find? (ks.foldl SMap.del m) k = if k ∈ ks then none else SMap.find? m k := by
  induction ks with
  | nil => intro m k; simp
  | cons j ks ih =>
    intro m k
    rw [List.foldl_cons, ih]
    by_cases hj : k = j
    · subst hj; simp
    · simp [hj, SMap.find_del_other m j k hj]

/-- A table whose values are changed alike. -/
theorem SMap.get_mapVal {α : Type} (d : α) (g : α → α) (hd : g d = d) (m : SMap α) (k : Nat) :
    SMap.get d (m.map fun f => (f.1, g f.2)) k = g (SMap.get d m k) := by
  induction m with
  | nil => exact hd.symm
  | cons e rest ih =>
    simp only [List.map_cons, SMap.get]
    split
    · rfl
    · split
      · exact hd.symm
      · exact ih

/-- A table that is filled from 0 on. -/
theorem SMap.get_fill {α : Type} [DecidableEq α] (d : α) (g : Nat → α) (n k : Nat) :
    SMap.get d ((List.range n).foldl (fun m f => SMap.set d m f (g f)) []) k = if k < n then g k else d := by
  induction n with
  | zero => rfl
  | succ n ih =>
    rw [List.range_succ, List.foldl_append, List.foldl_cons, List.foldl_nil, SMap.get_set, ih]
    by_cases h : k = n
    · subst h; simp
    · simp only [h, if_false, show k < n + 1 ↔ k < n by omega]

/-! ### What is only taken away (R87, R88) -/

/-- Blocks are only taken away; the guardhouse and the functions are as they were. -/
structure State.Sheds (s t : State) : Prop where
  guard : t.guard = s.guard
  funcs : t.host.funcs = s.host.funcs
  blocks : ∀ k, t.block? k = s.block? k ∨ t.block? k = none

theorem State.Sheds.refl (s : State) : s.Sheds s := ⟨rfl, rfl, fun _ => .inl rfl⟩
theorem State.Sheds.trans {s t u : State} (h : s.Sheds t) (k : t.Sheds u) : s.Sheds u :=
  ⟨k.guard.trans h.guard, k.funcs.trans h.funcs, fun b => (k.blocks b).elim (fun e => e ▸ h.blocks b) .inr⟩

/-- A block that is gone stays away. -/
theorem State.Sheds.gone {s t : State} (h : s.Sheds t) {k : Nat} (hk : s.block? k = none) : t.block? k = none :=
  (h.blocks k).elim (fun e => e.trans hk) id

theorem State.Sheds.of_eq {s t : State} (hg : t.guard = s.guard) (hf : t.host.funcs = s.host.funcs) (hb : t.blocks = s.blocks) :
    s.Sheds t := ⟨hg, hf, fun k => .inl (by unfold State.block?; rw [hb])⟩

theorem State.Wrote.sheds {s t : State} (h : s.Wrote t) : s.Sheds t := by
  unfold State.Wrote at h
  exact .of_eq (by rw [h]) (by rw [h]) (by rw [h])

theorem State.SameButFab.sheds {s t : State} (h : s.SameButFab t) : s.Sheds t := by
  unfold State.SameButFab at h
  exact .of_eq (by rw [h]) (by rw [h]) (by rw [h])

theorem State.dropBlock_sheds (s : State) (bid : Nat) : s.Sheds (s.dropBlock bid) := by
  simp only [State.dropBlock]
  split
  · exact .refl s
  · refine ⟨rfl, rfl, fun k => ?_⟩
    by_cases h : k = bid
    · subst h; exact .inr (SMap.find_del_same ..)
    · exact .inl (SMap.find_del_other _ _ _ h)

theorem State.dropBlock_gone (s : State) (bid : Nat) : (s.dropBlock bid).block? bid = none := by
  simp only [State.dropBlock]
  split
  · assumption
  · exact SMap.find_del_same ..

theorem State.flushCtx_sheds (s : State) (ctx : Nat) : s.Sheds (s.flushCtx ctx) := by
  refine foldl_keeps (State.Sheds s) _ _ s (.refl s) fun t c h => h.trans ?_
  simp only [State.flushCore]
  split
  · exact .refl t
  · refine State.Sheds.trans (t := ite _ _ _) ?_ (.of_eq rfl rfl rfl)
    split
    · exact .refl t
    · exact foldl_keeps (State.Sheds t) _ _ t (.refl t) fun u e h => h.trans (State.funcWrite_wrote ..).sheds

/-- A list of blocks is dropped. -/
theorem State.dropBlocks_sheds (bs : List (Nat × Block)) : ∀ s : State,
    s.Sheds (bs.foldl (fun t b => t.dropBlock b.1) s) ∧ ∀ b ∈ bs, (bs.foldl (fun t b => t.dropBlock b.1) s).block? b.1 = none := by
  induction bs with
  | nil => intro s; exact ⟨.refl s, by simp⟩
  | cons b bs ih =>
    intro s
    obtain ⟨h, hgone⟩ := ih (s.dropBlock b.1)
    refine ⟨(State.dropBlock_sheds ..).trans h, fun x hx => ?_⟩
    rcases List.mem_cons.1 hx with rfl | hx
    · exact h.gone (State.dropBlock_gone ..)
    · exact hgone x hx

/-- What discarding a context does after its blocks are dropped. -/
theorem State.discardCtx_after (s : State) (ctx : Nat) :
    (((SMap.entries s.blocks).filter fun b => b.2.ctx == ctx).foldl (fun t b => t.dropBlock b.1) s).Sheds (s.discardCtx ctx) := by
  simp only [State.discardCtx]
  refine State.Sheds.trans ?_ (State.settlePauses_fab _).sheds
  refine State.Sheds.trans (t := List.foldl _ _ _) ?_ (.of_eq rfl rfl rfl)
  exact foldl_keeps (State.Sheds _) _ _ _ (State.flushCtx_sheds ..) fun t k h => h.trans (.of_eq rfl rfl rfl)

theorem State.discardCtx_sheds (s : State) (ctx : Nat) : s.Sheds (s.discardCtx ctx) :=
  (State.dropBlocks_sheds _ s).1.trans (State.discardCtx_after s ctx)

/-- No block of a discarded context is left. -/
theorem State.discardCtx_gone (s : State) (ctx k : Nat) (b : Block) (hb : s.block? k = some b) (hc : b.ctx = ctx) :
    (s.discardCtx ctx).block? k = none :=
  (State.discardCtx_after s ctx).gone ((State.dropBlocks_sheds _ s).2 (k, b)
    (List.mem_filter.2 ⟨SMap.mem_entries_of_find hb, by simp [hc]⟩))

theorem State.discardCtxs_sheds (cs : List Nat) : ∀ s : State, s.Sheds (cs.foldl State.discardCtx s) ∧
    ∀ k b, s.block? k = some b → b.ctx ∈ cs → (cs.foldl State.discardCtx s).block? k = none := by
  induction cs with
  | nil => intro s; exact ⟨.refl s, by simp⟩
  | cons c cs ih =>
    intro s
    obtain ⟨h, hgone⟩ := ih (s.discardCtx c)
    have h1 := State.discardCtx_sheds s c
    refine ⟨h1.trans h, fun k b hb hc => ?_⟩
    rcases h1.blocks k with e | e
    · rcases List.mem_cons.1 hc with hc | hc
      · exact h.gone (State.discardCtx_gone s c k b hb hc)
      · exact hgone k b (e.trans hb) hc
    · exact h.gone e

/-! ### The reset begins -/

/-- What ends at step 1 of R87 leaves the guardhouse and the blocks; the function has no posted write. -/
theorem State.flrHost_frame (s : State) (f : Nat) : (s.flrHost f).guard = s.guard ∧ (s.flrHost f).blocks = s.blocks ∧
    (s.flrHost f).host.funcs = (s.modFunc f fun x => { x with posted := [] }).host.funcs ∧ (s.flrHost f).host.ctxs = s.host.ctxs := by
  have h := foldl_keeps (fun t : State => t = { s.modFunc f (fun x => { x with posted := [] }) with md := t.md })
    (fun t (o : HostOp) => t.dropHost o.id) (s.host.ops.filter (·.req.fn == f)) (s.modFunc f fun x => { x with posted := [] }) rfl (fun t o ht => by rw [ht]; rfl)
  simp only [State.flrHost]
  rw [h]
  exact ⟨rfl, rfl, rfl, rfl⟩

theorem State.mem_ctxsOf {s : State} {c : Nat} {cx : Context} (h : s.ctx? c = some cx) : c ∈ s.ctxsOf cx.fn :=
  List.mem_map.2 ⟨(c, cx), List.mem_filter.2 ⟨SMap.mem_entries_of_find h, by simp⟩, rfl⟩

theorem State.flrBegin_spec (s : State) (f : Nat) :
    (s.flrBegin f).func f = { s.func f with posted := [], flr := 4, pending := [], holdoff := [], key := 0, frs := false, expgrant := false } ∧
    (s.flrBegin f).guard = { s.guard with unlocked := s.guard.unlocked &&& ~~~(BitVec.ofNat 64 (2 ^ f)) } ∧
    ∀ k b cx, s.block? k = some b → s.ctx? b.ctx = some cx → cx.fn = f → (s.flrBegin f).block? k = none := by
  obtain ⟨hguard, hblocks, hfuncs, -⟩ := State.flrHost_frame s f
  obtain ⟨h, hgone⟩ := State.discardCtxs_sheds (s.ctxsOf f) (s.flrHost f)
  have hfunc : ((s.ctxsOf f).foldl State.discardCtx (s.flrHost f)).func f = { s.func f with posted := [] } := by
    unfold State.func
    rw [h.funcs, hfuncs]
    exact State.func_setFunc_same ..
  refine ⟨?_, ?_, fun k b cx hb hc hf => ?_⟩
  · simp only [State.flrBegin, State.modFunc]
    exact (State.func_setFunc_same ..).trans (by rw [hfunc])
  · have hg := h.guard.trans hguard
    simp only [State.flrBegin, State.modFunc, State.setFunc]
    rw [hg]
  · exact hgone k b (by unfold State.block?; rw [hblocks]; exact hb) (hf ▸ State.mem_ctxsOf hc)

end Sys2Proof.Machine
end

section
/-! The completion of a function-level reset (R87): the fill of the function's pages, and its new registers. -/

namespace Sys2Proof.Machine

/-! ### The fill (R87 step 4) -/

theorem State.unkey_wrote (s : State) (p : PagePart) : s.Wrote (s.unkey p) := by
  simp only [State.unkey]
  split
  · exact .refl s
  · rfl

theorem State.unpoison_wrote (s : State) (p : PagePart) : s.Wrote (s.unpoison p) := rfl

theorem State.firmwareWrite_wrote (s : State) (ctx ia pa : Nat) (leaf : BitVec 64) (bytes : List (BitVec 8)) :
    s.Wrote (s.firmwareWrite ctx ia pa leaf bytes) := by
  simp only [State.firmwareWrite]
  cases e : s.writeNow ctx ia pa leaf bytes with
  | none => exact .refl s
  | some t => exact State.writeNow_frame s t ctx ia pa leaf bytes e

theorem State.fitBlock_getD_wrote (s : State) (force : Bool) (ctx die block : Nat) :
    s.Wrote (((s.fitBlock force ctx die block).map (·.1)).getD s) := by
  cases e : s.fitBlock force ctx die block with
  | none => exact .refl s
  | some p => exact State.fitBlock_wrote s force ctx die block p e

theorem State.zeroLeaf_wrote (s : State) (lo hi : Nat) (x : Nat × BitVec 64) : s.Wrote (s.zeroLeaf lo hi x) := by
  simp only [State.zeroLeaf]
  refine State.Wrote.trans ?_ (State.unkey_wrote ..)
  refine foldl_keeps (State.Wrote s) _ _ _ ?_ fun t b h => h.trans (State.fitBlock_getD_wrote ..)
  refine foldl_keeps (State.Wrote s) _ _ _ ?_ fun t c h => h.trans (State.firmwareWrite_wrote ..)
  exact (State.unkey_wrote ..).trans (State.unpoison_wrote ..)

theorem State.scrubCtx_wrote (s : State) (ctx : Nat) : s.Wrote (s.scrubCtx ctx) := by
  simp only [State.scrubCtx]
  split
  · exact .refl s
  · refine foldl_keeps (State.Wrote s) _ _ s (.refl s) fun t g h => ?_
    split
    · exact foldl_keeps (State.Wrote s) _ _ t h fun u x hu => hu.trans (State.zeroLeaf_wrote ..)
    · exact h

/-- A function's contexts are filled with zero. -/
def State.filledFn (s : State) (fn : Nat) : State := (s.ctxsOf fn).foldl State.scrubCtx s

theorem State.filledFn_wrote (s : State) (fn : Nat) : s.Wrote (s.filledFn fn) :=
  foldl_keeps (State.Wrote s) _ _ s (.refl s) fun t c h => h.trans (State.scrubCtx_wrote t c)

/-! ### Contexts leave -/

theorem State.dropCtxs_frame (cs : List Nat) : ∀ s : State, cs.foldl State.dropCtx s =
    { s with host := { s.host with ctxs := cs.foldl SMap.del s.host.ctxs }, cores := (cs.foldl State.dropCtx s).cores } := by
  induction cs with
  | nil => intro s; rfl
  | cons c cs ih => intro s; rw [List.foldl_cons, ih]; rfl

/-! ### The completion -/

/-- The function after its reset, before the record: no context, and fresh registers under a new key. -/
def State.flrCleared (s : State) (fn : Nat) : State :=
  let s1 := s.filledFn fn
  let s2 := ((s.ctxsOf fn).foldl State.dropCtx s1).setFunc fn { Func.reset with
    key := s1.host.nextKey, frs := true, disabled := (s.func fn).disabled, window := (s.func fn).window }
  { s2 with host := { s2.host with nextKey := s2.host.nextKey + 1 } }

theorem State.flrCleared_spec (s : State) (fn : Nat) :
    (s.flrCleared fn).func fn = { Func.reset with
      key := s.host.nextKey, frs := true, disabled := (s.func fn).disabled, window := (s.func fn).window } ∧
    (s.flrCleared fn).host.nextKey = s.host.nextKey + 1 ∧ (s.flrCleared fn).groups = s.groups ∧
    (s.flrCleared fn).host.ctxs = (s.ctxsOf fn).foldl SMap.del s.host.ctxs := by
  have h := State.filledFn_wrote s fn
  simp only [State.flrCleared]
  rw [State.dropCtxs_frame, h.host]
  exact ⟨State.func_setFunc_same .., rfl, h.groups, rfl⟩

theorem exec_flrdone_reset (s : State) (fn : Nat) (h4 : (s.func fn).flr = 4) (hq : s.quietFn fn = true) :
    exec (.flrdone fn) s = .next ((s.flrCleared fn).funcRecord 0 0 0x0402 0 fn 0xFFFF 0 0) := by
  show execFlrdone fn s = _
  simp only [execFlrdone, h4, hq]
  rfl

theorem flrdone_reset_spec (s : State) (fn : Nat) (h4 : (s.func fn).flr = 4) (hq : s.quietFn fn = true) :
    s.Happens (.flrdone fn) fun t =>
      (t.func fn).flr = 0 ∧ (t.func fn).frs = true ∧ (t.func fn).disabled = (s.func fn).disabled ∧ (t.func fn).window = (s.func fn).window ∧
      (t.func fn).key = s.host.nextKey ∧ (t.func fn).iw = 1 ∧ (t.func fn).aw = 1 ∧
      t.host.nextKey = s.host.nextKey + 1 ∧ (∀ c cx, t.ctx? c = some cx → cx.fn ≠ fn) ∧ t.groups = s.groups := by
  obtain ⟨hfunc, hkey, hgroups, hctxs⟩ := State.flrCleared_spec s fn
  have hn : State.Notes 0 (s.flrCleared fn) ((s.flrCleared fn).funcRecord 0 0 0x0402 0 fn 0xFFFF 0 0) := State.logRecord_notes ..
  have hf := hn.func fn
  have hhost := hn.wrote.host
  rw [hfunc] at hf
  unfold Func.SameButLog at hf
  refine ⟨_, exec_flrdone_reset s fn h4 hq, by rw [hf]; rfl, by rw [hf], by rw [hf], by rw [hf], by rw [hf], by rw [hf]; rfl, by rw [hf]; rfl,
    by rw [hhost]; exact hkey, fun c cx hc hfn => ?_, hn.wrote.groups.trans hgroups⟩
  unfold State.ctx? at hc
  rw [hhost, hctxs, SMap.find_del_all] at hc
  split at hc
  · cases hc
  · next hmem => exact hmem (hfn ▸ State.mem_ctxsOf hc)

theorem exec_flrdone_fenced (s : State) (fn : Nat) (h6 : (s.func fn).flr = 6) (hq : s.quietFn fn = true) :
    exec (.flrdone fn) s = .next (if (s.func fn).disabled then (s.filledFn fn).modFunc fn fun x => { x with flr := 5 }
      else (s.filledFn fn).reviveFn fn) := by
  show execFlrdone fn s = _
  simp only [execFlrdone, h6, hq]
  rfl

theorem flrdone_fenced_spec (s : State) (fn : Nat) (h6 : (s.func fn).flr = 6) (hq : s.quietFn fn = true) :
    s.Happens (.flrdone fn) fun t => t.host.ctxs = s.host.ctxs ∧ t.groups = s.groups ∧
      ((s.func fn).disabled = true → (t.func fn).flr = 5 ∧ (t.func fn).disabled = true ∧ t.host.nextKey = s.host.nextKey) ∧
      ((s.func fn).disabled = false → (t.func fn).flr = 0 ∧ (t.func fn).key = s.host.nextKey ∧ t.host.nextKey = s.host.nextKey + 1) := by
  have h := State.filledFn_wrote s fn
  have hfunc : (s.filledFn fn).func fn = s.func fn := by unfold State.func; rw [h.host]
  have hctxs : (s.filledFn fn).host.ctxs = s.host.ctxs := by rw [h.host]
  have hkey : (s.filledFn fn).host.nextKey = s.host.nextKey := by rw [h.host]
  refine ⟨_, exec_flrdone_fenced s fn h6 hq, ?_⟩
  cases hd : (s.func fn).disabled with
  | true =>
    refine ⟨hctxs, h.groups, fun _ => ?_, by simp⟩
    simp only [if_true, State.modFunc, State.func_setFunc_same, hfunc]
    exact ⟨trivial, hd, hkey⟩
  | false =>
    refine ⟨hctxs, h.groups, by simp, fun _ => ?_⟩
    have hr : ((s.filledFn fn).reviveFn fn).func fn = { s.func fn with flr := 0, key := s.host.nextKey } := by
      rw [← hfunc, ← hkey]; exact State.func_setFunc_same ..
    simp only [Bool.false_eq_true, if_false, hr]
    exact ⟨trivial, trivial, congrArg (· + 1) hkey⟩

end Sys2Proof.Machine
end

section
/-! Resets, alarms, unlocks and power (R39, R40, R86, R89 to R95, R298). -/

namespace Sys2Proof.Machine

/-! ### Function-level reset -/

theorem functionLevelReset_spec (s : State) (fn : Nat) (hfn : fn < 64) (h4 : (s.func fn).flr ≠ 4) (hl : s.host.link0 = true) :
    s.Happens (.functionLevelReset fn) fun t =>
      (t.func fn).flr = 4 ∧ (t.func fn).key = 0 ∧ (t.func fn).pending = [] ∧ (t.func fn).posted = [] ∧
      (t.func fn).expgrant = false ∧ t.guard.unlocked = s.guard.unlocked &&& ~~~(BitVec.ofNat 64 (2 ^ fn)) ∧
      ∀ k b cx, s.block? k = some b → s.ctx? b.ctx = some cx → cx.fn = fn → t.block? k = none := by
  obtain ⟨hfunc, hguard, hgone⟩ := State.flrBegin_spec s fn
  refine ⟨s.flrBegin fn, (?_ : execFunctionLevelReset fn s = _), ?_, ?_, ?_, ?_, ?_, by rw [hguard], hgone⟩
  · simp [execFunctionLevelReset, hfn, h4, hl]
  all_goals rw [hfunc]

/-! ### Soft errors (R90) -/

theorem State.sramRecord_frame (s : State) (ctx : Nat) : (s.sramRecord ctx).groups = s.groups ∧ (s.sramRecord ctx).blocks = s.blocks := by
  simp only [State.sramRecord]
  split
  · next c _ =>
    have h : State.Notes c.fn s (s.funcRecord c.fn 0 0x0407 1 c.fn ctx 0 0) := State.logRecord_notes ..
    exact ⟨h.wrote.groups, h.wrote.blocks⟩
  · exact ⟨rfl, rfl⟩

theorem sramue_group_spec (s : State) (gid : Nat) (g : Group) (hg : s.group? gid = some g) :
    s.Happens (.sramue (.group gid)) fun t =>
      t.group? gid = some (if g.live = 0 then g else g.switchOff g.live 0x2A) ∧ t.blocks = s.blocks := by
  obtain ⟨hgroups, hblocks⟩ := State.sramRecord_frame (s.corrupt gid) (s.groupCtx gid)
  refine ⟨_, (?_ : execSramue (.group gid) s = .next ((s.corrupt gid).sramRecord (s.groupCtx gid))), ?_, hblocks⟩
  · simp [execSramue, hg]
  · unfold State.group?
    rw [hgroups]
    exact (State.group?_modGroup_same s gid _).trans (by rw [hg]; rfl)

/-! ### Alarms (R94) -/

/-- A class C alarm halts the device, and no function has a key any more. -/
theorem State.classC_spec (s : State) (code : Nat) :
    (s.classC code).guard = { s.guard with dead := true, identity := false } ∧ ∀ k, ((s.classC code).func k).key = 0 := by
  have h := (State.logAndRaise_notes s 0 3 (eventBytes 0x0404 2 0xFF 0xFFFF 0 code 0 s.now)).wrote.guard
  refine ⟨?_, fun k => ?_⟩
  · simp only [State.classC]; rw [h]
  · simp only [State.classC, State.func]
    rw [SMap.get_mapVal Func.reset (fun f => { f with key := 0 }) rfl]

theorem State.classC_frame (s : State) (code : Nat) : (s.classC code).blocks = s.blocks ∧ (s.classC code).groups = s.groups := by
  have h := (State.logAndRaise_notes s 0 3 (eventBytes 0x0404 2 0xFF 0xFFFF 0 code 0 s.now)).wrote
  simp only [State.classC]
  exact ⟨h.blocks, h.groups⟩

/-- A class B alarm takes the function against which it is raised. -/
theorem State.takeAlarm_fence (s : State) (fn : Nat) (hfn : fn < 64) :
    ((s.takeAlarm 7 fn).func fn).disabled = true ∧ ((s.takeAlarm 7 fn).func fn).flr = 6 ∧
    (s.takeAlarm 7 fn).guard = { s.guard with unlocked := s.guard.unlocked &&& ~~~(BitVec.ofNat 64 (2 ^ fn)) } := by
  have h := (State.logAndRaise_notes s 0 3 (eventBytes 0x0404 1 fn 0xFFFF 0 7 0 s.now)).wrote.guard
  obtain ⟨-, hguard, -⟩ := State.flrBegin_spec (s.logAndRaise 0 3 (eventBytes 0x0404 1 fn 0xFFFF 0 7 0 s.now)) fn
  simp only [State.takeAlarm, alarmClass, Nat.not_le.2 hfn, if_false, State.modFunc, State.func_setFunc_same]
  exact ⟨trivial, trivial, hguard.trans (by rw [h])⟩

theorem alarm_classC_spec (s : State) (code fn : Nat) (hc : code ∈ [1, 2, 3, 5, 6, 8]) : s.Happens (.alarm code fn) fun t =>
    t.guard = { s.guard with dead := true, identity := false } ∧ ∀ k, (t.func k).key = 0 := by
  refine ⟨s.classC code, (?_ : execAlarm code fn s = _), State.classC_spec s code⟩
  simp only [List.mem_cons, List.not_mem_nil, or_false] at hc
  rcases hc with rfl | rfl | rfl | rfl | rfl | rfl
  all_goals rfl

theorem alarm_function_spec (s : State) (fn : Nat) (hfn : fn < 64) : s.Happens (.alarm 7 fn) fun t =>
    (t.func fn).disabled = true ∧ (t.func fn).flr = 6 ∧ t.guard.dead = s.guard.dead := by
  obtain ⟨hd, hf, hg⟩ := State.takeAlarm_fence s fn hfn
  refine ⟨s.takeAlarm 7 fn, (?_ : execAlarm 7 fn s = _), hd, hf, by rw [hg]⟩
  simp [execAlarm, alarmClass, hfn]

/-! ### The debug unlock (R298) -/

theorem debugUnlock_function_spec (s : State) (fn : Nat) (hfn : fn < 64) (hf : s.guard.fresh = true) :
    s.Happens (.debugUnlock 0 fn true) fun t => t = { s with guard := { s.guard with
      fresh := false, unlocked := s.guard.unlocked ||| BitVec.ofNat 64 (2 ^ fn), port := t.guard.port } } := by
  refine ⟨State.portSays { s with guard := { s.guard with
    fresh := false, unlocked := s.guard.unlocked ||| BitVec.ofNat 64 (2 ^ fn) } } 2 fn, (?_ : execDebugUnlock 0 fn true s = _), rfl⟩
  simp [execDebugUnlock, hf, hfn]

theorem debugUnlock_device_spec (s : State) (fn : Nat) (hfn : fn < 64) (hf : s.guard.fresh = true) :
    s.Happens (.debugUnlock 1 fn true) fun t => t = { s with guard := { s.guard with
      fresh := false, unlockAll := true, port := t.guard.port } } := by
  refine ⟨State.portSays { s with guard := { s.guard with fresh := false, unlockAll := true } } 2 fn,
    (?_ : execDebugUnlock 1 fn true s = _), rfl⟩
  simp [execDebugUnlock, hf, hfn]

theorem debugUnlock_bad_spec (s : State) (fn scope : Nat) (valid : Bool) (hfn : fn < 64) (hn : s.guard.badUnlock < 2)
    (hbad : valid = false ∨ 2 ≤ scope) : s.Happens (.debugUnlock scope fn valid) fun t =>
      t.guard.badUnlock = s.guard.badUnlock + 1 ∧ t.guard.fresh = false ∧ t.guard.dead = s.guard.dead ∧ (t.func fn).disabled = true := by
  have hok : (valid && s.guard.fresh && decide (scope < 2) && decide (fn < 64)) = false := by
    rcases hbad with rfl | h
    · rfl
    · simp [Nat.not_lt.2 h]
  have hn3 : ¬3 ≤ s.guard.badUnlock + 1 := by omega
  obtain ⟨hd, -, hg⟩ := State.takeAlarm_fence
    (State.portSays { s with guard := { s.guard with fresh := false, badUnlock := s.guard.badUnlock + 1 } } 3 fn) fn hfn
  refine ⟨_, (?_ : execDebugUnlock scope fn valid s = _), by rw [hg]; rfl, by rw [hg]; rfl, by rw [hg]; rfl, hd⟩
  simp only [execDebugUnlock, hok, hn3, Bool.false_eq_true, if_false]

/-! ### Device reset (R91, R95) -/

theorem State.broughtUp_func (s : State) (version k : Nat) (hk : k < 64) :
    (s.broughtUp version).func k = { Func.reset with key := s.host.nextKey + k } := by
  simp only [State.broughtUp, State.func]
  rw [SMap.get_fill Func.reset (fun f => { Func.reset with key := s.host.nextKey + f }), if_pos hk]

theorem State.broughtUp_spec (s : State) (version : Nat) : let t := s.broughtUp version
    t.guard.up = true ∧ t.guard.dead = false ∧ t.guard.power = 0 ∧ t.guard.fenced = 0 ∧ t.guard.version = version ∧
    t.host.link0 = true ∧ t.host.link1 = true ∧ t.mem = [] ∧ t.far = [] ∧ t.blocks = [] ∧ t.groups = [] ∧
    t.box = SignalBox.reset ∧ t.now = 0 ∧ (∀ k < 64, (t.func k).key = s.host.nextKey + k) ∧
    ∀ i j, usedPair i j = true → (t.link i j).rxLive = 0xFFFF :=
  ⟨rfl, rfl, rfl, rfl, rfl, rfl, rfl, rfl, rfl, rfl, rfl, rfl, rfl, fun k hk => by rw [State.broughtUp_func s version k hk], fun _ _ _ => rfl⟩

theorem deviceReset_up_spec (s : State) (cold : Bool) (tries : List BootImage) (x : BootImage) (hc : s.guard.dead = false ∨ cold = true)
    (hx : tries.find? s.verifies = some x) (hn : (tries.takeWhile fun y => !s.verifies y).length < 3) :
    s.Happens (.deviceReset ⟨cold, tries⟩) fun t =>
      t.guard.up = true ∧ t.guard.dead = false ∧ t.guard.power = 0 ∧ t.guard.fenced = 0 ∧ t.guard.version = x.version ∧
      t.host.link0 = true ∧ t.host.link1 = true ∧ t.mem = [] ∧ t.far = [] ∧ t.blocks = [] ∧ t.groups = [] ∧
      t.box = SignalBox.reset ∧ t.now = 0 ∧ (∀ k < 64, (t.func k).key = s.host.nextKey + k) ∧
      ∀ i j, usedPair i j = true → (t.link i j).rxLive = 0xFFFF := by
  have hdead : (s.guard.dead && !cold) = false := by rcases hc with h | h <;> simp [h]
  refine ⟨_, (?_ : execDeviceReset ⟨cold, tries⟩ s = _), State.broughtUp_spec s x.version⟩
  simp only [execDeviceReset, hdead, hx, Nat.not_le.2 hn, Bool.false_eq_true, if_false]

theorem deviceReset_down_spec (s : State) (cold : Bool) (tries : List BootImage) (hc : s.guard.dead = false ∨ cold = true)
    (hx : ∀ x ∈ tries, s.verifies x = false) : s.Happens (.deviceReset ⟨cold, tries⟩) fun t => t.guard.up = false ∧
      t.guard.dead = decide (3 ≤ tries.length) ∧ t.blocks = [] ∧ t.groups = [] := by
  have hdead : (s.guard.dead && !cold) = false := by rcases hc with h | h <;> simp [h]
  have hfind : tries.find? s.verifies = none := List.find?_eq_none.2 fun x h => by simp [hx x h]
  have htake : (tries.takeWhile fun y => !s.verifies y) = tries := List.takeWhile_eq_self_iff.2 fun x h => by simp [hx x h]
  refine ⟨s.resetFails (min 3 tries.length), (?_ : execDeviceReset ⟨cold, tries⟩ s = _), ?_⟩
  · simp only [execDeviceReset, hdead, hfind, htake, Bool.false_eq_true, if_false]
  · simp only [State.resetFails]
    split
    · next h =>
      have h3 : 3 ≤ tries.length := by omega
      obtain ⟨hguard, -⟩ := State.classC_spec _ 6
      obtain ⟨hblocks, hgroups⟩ := State.classC_frame _ 6
      rw [hguard, hblocks, hgroups]
      exact ⟨rfl, (decide_eq_true h3).symm, rfl, rfl⟩
    · next h =>
      have h3 : ¬3 ≤ tries.length := by omega
      exact ⟨rfl, (decide_eq_false h3).symm, rfl, rfl⟩

/-! ### Power and cooling (R39, R40) -/

theorem junctionThrottle_spec (s : State) (die c : Nat) (hd : die < 8) : s.Happens (.junctionThrottle die c) fun t =>
    t = { s with guard := { s.guard with
      temp := SMap.set 0 s.guard.temp die c
      gate := SMap.set 0 s.guard.gate die (if 100 ≤ c then min 16 (SMap.get 0 s.guard.gate die + 1) else if c ≤ 97 then 0
        else SMap.get 0 s.guard.gate die) } } := by
  refine ⟨_, (?_ : execJunctionThrottle die c s = _), rfl⟩
  simp only [execJunctionThrottle, Nat.not_le.2 hd, if_false]

theorem powerP2Entry_spec (s u : State) (hp : s.guard.power = 0) (ht : ∀ k ∈ SMap.entries s.box.table, k.2.wants = false)
    (hs : s.allSettled = true) (hu : s.residents.foldl (fun t k => t.bind (·.saveNow k)) (some s) = some u) :
    s.Happens .powerP2Entry fun t => t = { u with guard := { u.guard with power := 2 }, l1 := [] } := by
  have hany : (SMap.entries s.box.table).any (·.2.wants) = false := List.any_eq_false.2 fun k hk => by simp [ht k hk]
  refine ⟨_, (?_ : execPowerP2Entry s = _), rfl⟩
  simp only [execPowerP2Entry, hp, hany, hs, hu]
  rfl

theorem powerP2Exit_spec (s : State) (hp : s.guard.power = 2)
    (hw : s.md.fired ≠ [] ∨ s.box.launches ≠ [] ∨ s.host.nextEntry.isSome = true) : s.Happens .powerP2Exit fun t =>
      t = (((SMap.entries s.blocks).filter fun b => b.2.phase == .saved && b.2.isStation).map (·.1)).foldl State.wakeNow
        { s with guard := { s.guard with power := 0 } } := by
  have hcall : (s.md.fired.isEmpty && s.box.launches.isEmpty && s.host.nextEntry.isNone) = false := by
    rcases hw with h | h | h
    · simp [List.isEmpty_eq_false_iff.2 h]
    · simp [List.isEmpty_eq_false_iff.2 h]
    · simp [h]
  refine ⟨_, (?_ : execPowerP2Exit s = _), rfl⟩
  simp only [execPowerP2Exit, hp, hcall]
  rfl

/-- Settles O50, clause by clause; a reset's and a fence's through what they leave of the blocks, the functions and the guardhouse. -/
theorem resetsAndAlarms : Obligations.ResetsAndAlarms := by
  unfold Obligations.ResetsAndAlarms
  intro s fn die code
  exact ⟨functionLevelReset_spec s fn, flrdone_reset_spec s fn, flrdone_fenced_spec s fn, computeDieFatal_spec s die,
    sramue_group_spec s, fun k => ⟨_, rfl, rfl⟩, ⟨_, rfl, rfl⟩, fun cold tries x hc hx hn => deviceReset_up_spec s cold tries x hc hx hn,
    deviceReset_down_spec s, fun x => rfl, alarm_classC_spec s code fn, ⟨_, rfl, State.logAndRaise_logged ..⟩, alarm_function_spec s fn,
    debugUnlock_function_spec s fn, debugUnlock_device_spec s fn,
    fun scope valid hfn hn hbad => debugUnlock_bad_spec s fn scope valid hfn hn hbad, junctionThrottle_spec s die, powerP2Entry_spec s,
    powerP2Exit_spec s, ⟨_, rfl, rfl, rfl, rfl, rfl, rfl⟩⟩

end Sys2Proof.Machine
end
section
/-! Every step keeps the canonical form of memory (R42, R96): one lemma for each function of the model that makes a state.
Memory is written by a few operations only, those that perform a write, re-key a sector, apply a delta or move a page; every other
function leaves both memories to the functions it calls. The lemmas stand in the order of the model's files: first what an outcome, an
option or a list of events keeps, then the operations on a state. -/

namespace Sys2Proof.Machine

/-! ### Outcomes, options and events that keep both memories canonical -/

/-- What an outcome leads to has both memories in canonical form. -/
inductive OutcomeMemOk : Host.Outcome State Fault Refusal → Prop
  | next {t : State} (h : t.MemOk) : OutcomeMemOk (.next t)
  | fault {f : Fault} : OutcomeMemOk (.fault f)
  | refused {r : Refusal} : OutcomeMemOk (.refused r)
/-- The state, if there is one, has both memories in canonical form. -/
def OptionMemOk : Option State → Prop
  | some t => t.MemOk
  | none => True
/-- The state, unless there is an error, has both memories in canonical form. -/
def ExceptMemOk : Except Nat State → Prop
  | .ok t => t.MemOk
  | .error _ => True
/-- The state that an entry comes to has both memories in canonical form. -/
def Coming.MemOk : Coming → Prop
  | .done t => t.MemOk
  | .run t _ => t.MemOk
/-- The state that a reach leads to, if any, has both memories in canonical form. -/
def CwaReach.MemOk : CwaReach → Prop
  | .go t _ => t.MemOk
  | .ask t => t.MemOk
  | .wait => True
/-- Every event of a list keeps both memories canonical. -/
def Keeping (l : List Event) : Prop := ∀ e ∈ l, ∀ s : State, s.MemOk → OutcomeMemOk (e s)
/-- The event, if there is one, keeps both memories canonical. -/
def OptionKeeping : Option Event → Prop
  | some e => ∀ s : State, s.MemOk → OutcomeMemOk (e s)
  | none => True

/-- An update that leaves both memories as they are in another state. -/
theorem State.memOk_with {s : State} {now pace picks free inputs issueQ cur turn md xl l1 fab host guard box cores
    blocks nextBlock groups arrivals}
    (h : s.MemOk) : State.MemOk
      { now := now, pace := pace, picks := picks, free := free, inputs := inputs, issueQ := issueQ, cur := cur, turn := turn
        mem := s.mem, far := s.far, md := md, xl := xl, l1 := l1, fab := fab, host := host, guard := guard, box := box
        cores := cores, blocks := blocks, nextBlock := nextBlock, groups := groups, arrivals := arrivals } := h
theorem state_ite_memOk {c : Prop} [Decidable c] {s t : State} (hs : s.MemOk) (ht : t.MemOk) : (if c then s else t).MemOk := by
  split
  · exact hs
  · exact ht
theorem ite_wf {c : Prop} [Decidable c] {m n : Memory} (hm : Memory.wf m = true) (hn : Memory.wf n = true) :
    Memory.wf (if c then m else n) = true := by
  split
  · exact hm
  · exact hn
theorem memOk_of_next {o : Host.Outcome State Fault Refusal} {t : State} (h : OutcomeMemOk o) (e : o = .next t) : t.MemOk := by
  subst e
  cases h with
  | next h => exact h
theorem outcomeMemOk_ite {c : Prop} [Decidable c] {o p : Host.Outcome State Fault Refusal} (ho : OutcomeMemOk o) (hp :
    OutcomeMemOk p) :
    OutcomeMemOk (if c then o else p) := by
  split
  · exact ho
  · exact hp
theorem memOk_of_some {o : Option State} {t : State} (h : OptionMemOk o) (e : o = some t) : t.MemOk := by
  subst e
  exact h
theorem memOk_of_some_fst {α : Type} {o : Option (State × α)} {p : State × α} (h : OptionMemOk (o.map Prod.fst)) (e : o = some p)
    :
    p.1.MemOk := by
  subst e
  exact h
theorem memOk_of_ok {x : Except Nat State} {t : State} (h : ExceptMemOk x) (e : x = .ok t) : t.MemOk := by
  subst e
  exact h
theorem memOk_of_fst {α : Type} {p : State × α} {t : State} {a : α} (h : p.1.MemOk) (e : p = (t, a)) : t.MemOk := by
  subst e
  exact h
theorem memOk_of_done {c : Coming} {t : State} (h : c.MemOk) (e : c = .done t) : t.MemOk := by
  subst e
  exact h
theorem memOk_of_run {c : Coming} {t : State} {i : Instr} (h : c.MemOk) (e : c = .run t i) : t.MemOk := by
  subst e
  exact h
theorem memOk_of_go {c : CwaReach} {t : State} {b : Bool} (h : c.MemOk) (e : c = .go t b) : t.MemOk := by
  subst e
  exact h
theorem memOk_of_ask {c : CwaReach} {t : State} (h : c.MemOk) (e : c = .ask t) : t.MemOk := by
  subst e
  exact h
theorem optionMemOk_of_eq {o : Option State} (h : ∀ t, o = some t → t.MemOk) : OptionMemOk o := by
  cases o with
  | none => exact trivial
  | some t => exact h t rfl
theorem getD_memOk {o : Option State} {s : State} (ho : OptionMemOk o) (h : s.MemOk) : (o.getD s).MemOk := by
  cases o with
  | none => exact h
  | some t => exact ho
theorem optionMemOk_map {α : Type} {o : Option α} {f : α → State} (hf : ∀ x, (f x).MemOk) : OptionMemOk (o.map f) := by
  cases o with
  | none => exact trivial
  | some x => exact hf x
theorem optionMemOk_some {s : State} (h : s.MemOk) : OptionMemOk (some s) := h
theorem optionMemOk_fst_map {α β : Type} {o : Option α} {f : α → State × β} (hf : ∀ x, (f x).1.MemOk) :
    OptionMemOk ((o.map f).map Prod.fst) := by
  cases o with
  | none => exact trivial
  | some x => exact hf x
theorem optionMemOk_map_state {o : Option State} {f : State → State} (ho : OptionMemOk o) (hf : ∀ t, t.MemOk → (f t).MemOk) :
    OptionMemOk (o.map f) := by
  cases o with
  | none => exact trivial
  | some t => exact hf t ho
theorem optionMemOk_map_pair {α : Type} {o : Option (State × α)} {f : State × α → State} (ho : OptionMemOk (o.map Prod.fst))
    (hf : ∀ p, p.1.MemOk → (f p).MemOk) : OptionMemOk (o.map f) := by
  cases o with
  | none => exact trivial
  | some p => exact hf p ho
theorem optionMemOk_bind {α : Type} {o : Option α} {f : α → Option State} (hf : ∀ x, OptionMemOk (f x)) :
    OptionMemOk (o.bind f) := by
  cases o with
  | none => exact trivial
  | some x => exact hf x
theorem optionMemOk_bind_state {o : Option State} {f : State → Option State} (ho : OptionMemOk o)
    (hf : ∀ t, t.MemOk → OptionMemOk (f t)) : OptionMemOk (o.bind f) := by
  cases o with
  | none => exact trivial
  | some t => exact hf t ho
theorem optionMemOk_or {o p : Option State} (ho : OptionMemOk o) (hp : OptionMemOk p) : OptionMemOk (o.or p) := by
  cases o with
  | none => exact hp
  | some t => exact ho
theorem optionMemOk_findSome {α : Type} {l : List α} {f : α → Option State} (hf : ∀ x, OptionMemOk (f x)) :
    OptionMemOk (l.findSome? f) := by
  refine optionMemOk_of_eq fun t e => ?_
  obtain ⟨x, -, hx⟩ := List.exists_of_findSome?_eq_some e
  exact memOk_of_some (hf x) hx

theorem keeping_nil : Keeping [] := fun _ he => absurd he List.not_mem_nil
theorem keeping_cons {f : Event} {l : List Event} (hf : ∀ s : State, s.MemOk → OutcomeMemOk (f s)) (hl : Keeping l) :
    Keeping (f :: l) := by
  intro e he
  rcases List.mem_cons.1 he with rfl | he
  · exact hf
  · exact hl e he
theorem keeping_append {l m : List Event} (hl : Keeping l) (hm : Keeping m) : Keeping (l ++ m) := fun e he =>
  (List.mem_append.1 he).elim (hl e) (hm e)
theorem keeping_map {α : Type} {l : List α} {f : α → Event} (hf : ∀ x, ∀ s : State, s.MemOk → OutcomeMemOk (f x s)) :
    Keeping (l.map f) := by
  intro e he
  obtain ⟨x, -, rfl⟩ := List.mem_map.1 he
  exact hf x
theorem keeping_flatten_map {α : Type} {l : List α} {f : α → List Event} (hf : ∀ x, Keeping (f x)) :
    Keeping (l.map f).flatten := by
  intro e he
  obtain ⟨m, hm, hem⟩ := List.mem_flatten.1 he
  obtain ⟨x, -, rfl⟩ := List.mem_map.1 hm
  exact hf x e hem
theorem keeping_filterMap {α : Type} {l : List α} {f : α → Option Event} (hf : ∀ x, OptionKeeping (f x)) :
    Keeping (l.filterMap f) := by
  intro e he
  obtain ⟨x, -, hx⟩ := List.mem_filterMap.1 he
  have hk := hf x
  rw [hx] at hk
  exact hk

theorem State.SameButFab.memOk {s t : State} (h : s.SameButFab t) (k : s.MemOk) : t.MemOk := by
  unfold State.SameButFab at h
  rw [h]
  exact k
/-- XORing a delta into a parity unit keeps memory canonical. -/
theorem applyParity_wf {m : Memory} {stripe die : Nat} {d : List (Nat × BitVec 8)} (h : Memory.wf m = true) :
    Memory.wf (applyParity m stripe die d) = true :=
  foldl_keeps (fun m => Memory.wf m = true) _ _ _ h fun _ _ hm => Memory.wf_write _ _ _ hm

/-! ### State -/

theorem State.reset_memOk : State.reset.MemOk := ⟨rfl, rfl⟩

/-! ### Mem: Compression -/

theorem State.fitBlock_optionMemOk {s : State} {force ctx die block} (h : s.MemOk) :
    OptionMemOk ((s.fitBlock force ctx die block).map Prod.fst) := by
  refine optionMemOk_of_eq fun t e => ?_
  obtain ⟨p, hp, rfl⟩ := Option.map_eq_some_iff.1 e
  exact State.fitBlock_memOk s force ctx die block p hp h
theorem State.writeNow_optionMemOk {s : State} {ctx ia pa leaf bytes} (h : s.MemOk) :
    OptionMemOk (s.writeNow ctx ia pa leaf bytes) :=
  optionMemOk_of_eq fun t e => State.writeNow_memOk s t ctx ia pa leaf bytes h e
theorem State.deviceWrite?_optionMemOk {s : State} {ctx ia pa leaf bytes} (h : s.MemOk) :
    OptionMemOk (s.deviceWrite? ctx ia pa leaf bytes) :=
  optionMemOk_of_eq fun t e => State.deviceWrite?_memOk s t ctx ia pa leaf bytes h e
theorem State.firmwareWrite_memOk {s : State} {ctx ia pa leaf bytes} (h : s.MemOk) :
    (s.firmwareWrite ctx ia pa leaf bytes).MemOk :=
  getD_memOk (State.writeNow_optionMemOk h) h
theorem State.ctxWrite_memOk {s : State} {c va bytes} (h : s.MemOk) : ExceptMemOk (s.ctxWrite c va bytes) := by
  unfold State.ctxWrite
  split
  · exact trivial
  · refine foldl_keeps ExceptMemOk _ _ _ h fun t _ ht => ?_
    split
    · exact trivial
    · split
      · exact trivial
      · split
        · exact trivial
        · split
          · exact trivial
          · split
            · rename_i u eu
              have hu := memOk_of_some (State.deviceWrite?_optionMemOk ht) eu
              exact hu
            · exact trivial

/-! ### Logs: Functions and contexts -/

theorem State.setFunc_memOk {s : State} {f x} (h : s.MemOk) : (s.setFunc f x).MemOk :=
  State.memOk_with h
theorem State.modFunc_memOk {s : State} {f k} (h : s.MemOk) : (s.modFunc f k).MemOk :=
  State.setFunc_memOk h
theorem State.setCtx_memOk {s : State} {c x} (h : s.MemOk) : (s.setCtx c x).MemOk :=
  State.memOk_with h
theorem State.modCtx_memOk {s : State} {c k} (h : s.MemOk) : (s.modCtx c k).MemOk :=
  State.memOk_with h
theorem State.funcWrite_memOk {s : State} {f c va bytes} (h : s.MemOk) : (s.funcWrite f c va bytes).MemOk := by
  unfold State.funcWrite
  refine foldl_keeps State.MemOk _ _ _ h fun t _ ht => ?_
  split
  · split
    · exact State.deviceWrite_memOk _ _ _ _ _ _ ht
    · exact ht
  · exact ht

/-! ### Logs: Vectors -/

theorem State.raiseVector_memOk {s : State} {f v} (h : s.MemOk) : (s.raiseVector f v).MemOk := by
  unfold State.raiseVector
  extract_lets
  split
  · exact h
  · split
    · exact State.setFunc_memOk h
    · exact State.memOk_with h
theorem State.raiseEvent_memOk {s : State} {f v} (h : s.MemOk) : (s.raiseEvent f v).MemOk := by
  unfold State.raiseEvent
  extract_lets
  split
  · exact State.raiseVector_memOk (State.setFunc_memOk h)
  · exact State.setFunc_memOk h
theorem execEventVectorHoldoffExpiry_memOk {fn vec} {s : State} (h : s.MemOk) :
    OutcomeMemOk (execEventVectorHoldoffExpiry fn vec s) := by
  unfold execEventVectorHoldoffExpiry
  extract_lets
  split
  · exact .next (State.raiseVector_memOk (State.setFunc_memOk h))
  · exact .refused
theorem State.maskVector_memOk {s : State} {fn vec masked} (h : s.MemOk) : (s.maskVector fn vec masked).MemOk := by
  unfold State.maskVector
  extract_lets
  split
  · exact State.raiseVector_memOk (State.setFunc_memOk h)
  · exact State.setFunc_memOk h
theorem execMsixTableWrite_memOk {fn vec masked} {s : State} (h : s.MemOk) :
    OutcomeMemOk (execMsixTableWrite fn vec masked s) := by
  unfold execMsixTableWrite
  split
  · exact .refused
  · split
    · exact .next h
    · exact .next (State.maskVector_memOk h)
theorem State.tableWrite_memOk {s : State} {fn a bytes} (h : s.MemOk) : (s.tableWrite fn a bytes).MemOk := by
  unfold State.tableWrite
  refine foldl_keeps State.MemOk _ _ _ h fun t _ ht => ?_
  extract_lets
  split
  · exact State.maskVector_memOk (State.modFunc_memOk ht)
  · exact State.modFunc_memOk ht

/-! ### Logs: Event logs -/

theorem State.nextRseq_memOk {s : State} (h : s.MemOk) : s.nextRseq.1.MemOk :=
  State.memOk_with h
theorem State.logPut_memOk {s : State} {f bytes} (h : s.MemOk) : (s.logPut f bytes).MemOk :=
  State.modFunc_memOk (State.funcWrite_memOk (State.funcWrite_memOk h))
theorem State.logLost_memOk {s : State} {f} (h : s.MemOk) : (s.logLost f).MemOk := by
  unfold State.logLost
  extract_lets
  split
  · exact h
  · exact State.modFunc_memOk (State.logPut_memOk (State.nextRseq_memOk h))
theorem State.logWrite_memOk {s : State} {f mk} (h : s.MemOk) : (s.logWrite f mk).1.MemOk := by
  unfold State.logWrite
  extract_lets
  split
  · exact State.nextRseq_memOk (State.logLost_memOk h)
  · split
    · exact State.logPut_memOk (State.nextRseq_memOk (State.logLost_memOk h))
    · exact State.setFunc_memOk (State.nextRseq_memOk (State.logLost_memOk h))
theorem State.logRecord_memOk {s : State} {f vec mk} (h : s.MemOk) : (s.logRecord f vec mk).MemOk := by
  unfold State.logRecord
  extract_lets
  split
  · exact State.raiseEvent_memOk (State.logWrite_memOk h)
  · exact State.logWrite_memOk h
theorem State.logAndRaise_memOk {s : State} {f vec mk} (h : s.MemOk) : (s.logAndRaise f vec mk).MemOk :=
  State.raiseEvent_memOk (State.logWrite_memOk h)
theorem execLoglost_memOk {fn} {s : State} (h : s.MemOk) : OutcomeMemOk (execLoglost fn s) := by
  unfold execLoglost
  extract_lets
  split
  · exact .refused
  · exact .next (State.raiseEvent_memOk (State.logLost_memOk h))
theorem State.memRecord_memOk {s : State} {type sev die ctx cnt ia} (h : s.MemOk) : (s.memRecord type sev die ctx cnt ia).MemOk :=
  State.logRecord_memOk h
theorem State.funcRecord_memOk {s : State} {f vec type sev b3 ctx cnt extra} (h : s.MemOk) :
    (s.funcRecord f vec type sev b3 ctx cnt extra).MemOk :=
  State.logRecord_memOk h
theorem State.fabRecord_memOk {s : State} {type sev laser src dst before after mode via replayed} (h : s.MemOk) :
    (s.fabRecord type sev laser src dst before after mode via replayed).MemOk :=
  State.logRecord_memOk h

/-! ### Logs: The logbook -/

theorem State.lbPut_memOk {s : State} {c cx bytes} (h : s.MemOk) : (s.lbPut c cx bytes).MemOk := by
  unfold State.lbPut
  split
  · exact h
  · extract_lets
    split
    · exact State.funcWrite_memOk h
    · exact State.modCtx_memOk (State.funcWrite_memOk (State.funcWrite_memOk h))
theorem State.logbook_memOk {s : State} {b core kind aux grp pc data} (h : s.MemOk) :
    (s.logbook b core kind aux grp pc data).MemOk := by
  unfold State.logbook
  split
  · exact h
  · split
    · exact h
    · exact State.lbPut_memOk h
theorem State.blockLog_memOk {s : State} {b kind aux data} (h : s.MemOk) : (s.blockLog b kind aux data).MemOk :=
  State.logbook_memOk h
theorem State.lbRead_memOk {s : State} {c} (h : s.MemOk) : (s.lbRead c).MemOk := by
  unfold State.lbRead
  split
  · exact h
  · split <;> exact State.setCtx_memOk h
theorem execLogbookConfigRead_memOk {ctx} {s : State} (h : s.MemOk) : OutcomeMemOk (execLogbookConfigRead ctx s) := by
  unfold execLogbookConfigRead
  split
  · exact .refused
  · exact .next (State.lbRead_memOk h)

/-! ### Ops: Groups, blocks and cores -/

theorem State.setGroup_memOk {s : State} {gid g} (h : s.MemOk) : (s.setGroup gid g).MemOk :=
  State.memOk_with h
theorem State.setBlock_memOk {s : State} {bid b} (h : s.MemOk) : (s.setBlock bid b).MemOk :=
  State.memOk_with h
theorem State.setCore_memOk {s : State} {c k} (h : s.MemOk) : (s.setCore c k).MemOk :=
  State.memOk_with h
theorem State.modGroup_memOk {s : State} {gid f} (h : s.MemOk) : (s.modGroup gid f).MemOk :=
  State.memOk_with h
theorem State.modBlock_memOk {s : State} {bid f} (h : s.MemOk) : (s.modBlock bid f).MemOk :=
  State.memOk_with h
theorem State.modCore_memOk {s : State} {c f} (h : s.MemOk) : (s.modCore c f).MemOk :=
  State.setCore_memOk h

/-! ### Ops: Squashing -/

theorem State.pruneSpec_memOk {s : State} {gid} (h : s.MemOk) : (s.pruneSpec gid).MemOk :=
  State.memOk_with h
theorem State.squashLcr_memOk {s : State} {gid hit} (h : s.MemOk) : (s.squashLcr gid hit).MemOk :=
  foldl_keeps State.MemOk _ _ _ h fun _ _ ht => State.setCore_memOk ht
theorem State.squashGroup_memOk {s : State} {gid} (h : s.MemOk) : (s.squashGroup gid).MemOk :=
  State.pruneSpec_memOk (State.squashLcr_memOk (State.modGroup_memOk h))

/-! ### Ops: Raising a cause and taking a trap -/

theorem State.freeRecord_memOk {s : State} {ctx va} (h : s.MemOk) : (s.freeRecord ctx va).MemOk := by
  unfold State.freeRecord
  split
  · exact h
  · refine foldl_keeps State.MemOk _ _ _ (State.memOk_with h) fun t _ ht => ?_
    split
    · exact State.deviceWrite_memOk _ _ _ _ _ _ ht
    · exact ht
theorem State.writeRecord_memOk {s : State} {g b r} (h : s.MemOk) : (s.writeRecord g b r).1.MemOk := by
  unfold State.writeRecord
  split
  · rename_i u eu
    have hu := memOk_of_ok (State.ctxWrite_memOk h) eu
    exact hu
  · exact State.freeRecord_memOk h
theorem State.groupLog_memOk {s : State} {gid kind aux e data} (h : s.MemOk) : (s.groupLog gid kind aux e data).MemOk := by
  unfold State.groupLog
  split
  · exact h
  · split
    · exact h
    · exact State.logbook_memOk h
theorem State.enterTrap_memOk {s : State} {gid i t} (h : s.MemOk) : (s.enterTrap gid i t).MemOk := by
  unfold State.enterTrap
  split
  · exact h
  · split
    · exact h
    · extract_lets _ _ _ _ w
      have hw : w.1.MemOk := by
        unfold w
        split
        · exact State.writeRecord_memOk (State.squashGroup_memOk h)
        · exact State.squashGroup_memOk h
      exact State.setGroup_memOk (State.groupLog_memOk hw)
theorem State.raise_memOk {s : State} {gid i t} (h : s.MemOk) : (s.raise gid i t).MemOk := by
  unfold State.raise
  split
  · exact h
  · split
    · split <;> exact State.setGroup_memOk h
    · split
      · exact State.setGroup_memOk h
      · exact State.enterTrap_memOk h
theorem State.faultAt_memOk {s : State} {gid i cause ls record} (h : s.MemOk) : (s.faultAt gid i cause ls record).1.MemOk := by
  unfold State.faultAt
  split
  · exact h
  · split
    · exact h
    · split
      · exact State.raise_memOk h
      · exact State.setGroup_memOk h
theorem State.illegal_memOk {s : State} {gid i act} (h : s.MemOk) : (s.illegal gid i act).MemOk := by
  unfold State.illegal
  extract_lets
  split
  · exact State.faultAt_memOk h
  · exact State.modGroup_memOk (State.faultAt_memOk h)
theorem State.badClause_memOk {s : State} {gid i} (h : s.MemOk) : (s.badClause gid i).MemOk := by
  unfold State.badClause
  split
  · exact h
  · exact State.faultAt_memOk (State.modGroup_memOk h)

end Sys2Proof.Machine
end
section
/-! Every step keeps the canonical form of memory: the frame of a word, and the words that compute, exchange and branch. -/

namespace Sys2Proof.Machine

/-! ### Hold: Releases, acquires and fences -/

theorem State.settleFences_memOk {s : State} {is i} (h : s.MemOk) : (s.settleFences is i).MemOk :=
  State.modGroup_memOk h

/-! ### Hold: The frame of every word -/

theorem State.goOn_memOk {s : State} {is} (h : s.MemOk) : (s.goOn is).MemOk :=
  State.modGroup_memOk h
theorem State.perform_memOk {s : State} {is i run} (h : s.MemOk) (hrun : ∀ x0 t, t.MemOk → (run x0 t).MemOk) :
    (s.perform is i run).MemOk := by
  unfold State.perform
  split
  · exact State.goOn_memOk h
  · split
    · split
      · exact h
      · exact State.illegal_memOk h
    · extract_lets _ _ _ _ r
      have hr : r.1.MemOk := by
        unfold r
        split
        · exact State.modGroup_memOk h
        · exact State.faultAt_memOk (State.modGroup_memOk h)
      split
      · exact hrun _ _ (State.modGroup_memOk h)
      · split
        · exact h
        · split
          · exact hr
          · split
            · exact State.modGroup_memOk hr
            · split
              · exact State.goOn_memOk (State.modGroup_memOk hr)
              · exact hrun _ _ (State.modGroup_memOk hr)

/-! ### Hold: Attributed faults -/

theorem State.lateGate_memOk {is} {s : State} {run} (h : s.MemOk) (hrun : ∀ x0 t, t.MemOk → (run x0 t).MemOk) :
    (State.lateGate is s run).MemOk := by
  unfold State.lateGate
  split
  · exact hrun _ _ h
  · split
    · exact hrun _ _ h
    · split
      · exact State.raise_memOk (State.setGroup_memOk h)
      · extract_lets
        split
        · exact State.setGroup_memOk h
        · split
          · exact State.goOn_memOk (State.setGroup_memOk h)
          · exact hrun _ _ (State.setGroup_memOk h)
theorem State.word_memOk {s : State} {i q run} (h : s.MemOk) (hrun : ∀ x0 t, t.MemOk → (run x0 t).MemOk) :
    OutcomeMemOk (s.word i q run) := by
  unfold State.word
  split
  · exact .refused
  · extract_lets
    refine .next ?_
    split
    · exact h
    · refine State.perform_memOk (State.settleFences_memOk h) ?_
      intro _ _ ht
      split
      · exact State.lateGate_memOk ht (fun _ _ ht1 => hrun _ _ ht1)
      · exact hrun _ _ ht

/-! ### Alu -/

theorem State.alu_memOk {is wide d f} {s : State} (h : s.MemOk) : (State.alu is wide d f s).MemOk :=
  State.goOn_memOk (State.setGroup_memOk h)
theorem State.falu_memOk {is wide d f} {s : State} (h : s.MemOk) : (State.falu is wide d f s).MemOk :=
  State.goOn_memOk (State.setGroup_memOk h)
theorem State.predAlu_memOk {is pd f} {s : State} (h : s.MemOk) : (State.predAlu is pd f s).MemOk :=
  State.goOn_memOk (State.setGroup_memOk h)
theorem State.defer_memOk {s : State} {is i} (h : s.MemOk) : (s.defer is i).MemOk := by
  unfold State.defer
  split
  · exact h
  · exact State.goOn_memOk (State.modGroup_memOk h)
theorem State.predWord_memOk {s : State} {i q run} (h : s.MemOk) (hrun : ∀ x0 t, t.MemOk → (run x0 t).MemOk) :
    OutcomeMemOk (s.predWord i q run) := by
  unfold State.predWord
  split
  · exact .refused
  · extract_lets
    split
    · refine .next ?_
      split
      · exact h
      · exact State.defer_memOk (State.modGroup_memOk h)
    · exact State.word_memOk h (fun _ _ ht => hrun _ _ ht)

/-! ### Int -/

theorem State.int2_memOk {s : State} {i g t d a b f} (h : s.MemOk) : OutcomeMemOk (s.int2 i g t d a b f) :=
  State.word_memOk h (fun _ _ ht => State.alu_memOk ht)
theorem State.int1_memOk {s : State} {i g t d a f} (h : s.MemOk) : OutcomeMemOk (s.int1 i g t d a f) :=
  State.word_memOk h (fun _ _ ht => State.alu_memOk ht)
theorem State.nat2_memOk {s : State} {i g w d a b f} (h : s.MemOk) : OutcomeMemOk (s.nat2 i g w d a b f) :=
  State.word_memOk h (fun _ _ ht => State.alu_memOk ht)
theorem State.shift_memOk {s : State} {i g w d a b f} (h : s.MemOk) : OutcomeMemOk (s.shift i g w d a b f) :=
  State.word_memOk h (fun _ _ ht => State.alu_memOk ht)
theorem execImad_memOk {g t d a b c} {s : State} (h : s.MemOk) : OutcomeMemOk (execImad g t d a b c s) :=
  State.word_memOk h (fun _ _ ht => State.alu_memOk ht)
theorem execImadw_memOk {g t d a b c} {s : State} (h : s.MemOk) : OutcomeMemOk (execImadw g t d a b c s) :=
  State.word_memOk h (fun _ _ ht => State.alu_memOk ht)
theorem execIaddc_memOk {g wide d a b cin cout} {s : State} (h : s.MemOk) : OutcomeMemOk (execIaddc g wide d a b cin cout s) :=
  State.word_memOk h (fun _ _ ht => State.goOn_memOk (State.setGroup_memOk ht))

/-! ### Int: Bit operations -/

theorem execNot_memOk {g wide d a} {s : State} (h : s.MemOk) : OutcomeMemOk (execNot g wide d a s) :=
  State.word_memOk h (fun _ _ ht => State.alu_memOk ht)
theorem State.natImm_memOk {s : State} {i g w d a im f} (h : s.MemOk) : OutcomeMemOk (s.natImm i g w d a im f) :=
  State.word_memOk h (fun _ _ ht => State.alu_memOk ht)
theorem execFsh_memOk {g wide d lo hi n} {s : State} (h : s.MemOk) : OutcomeMemOk (execFsh g wide d lo hi n s) :=
  State.word_memOk h (fun _ _ ht => State.alu_memOk ht)
theorem State.countWord_memOk {s : State} {i g w d a f} (h : s.MemOk) : OutcomeMemOk (s.countWord i g w d a f) :=
  State.word_memOk h (fun _ _ ht => State.alu_memOk ht)
theorem execBrev_memOk {g wide d a} {s : State} (h : s.MemOk) : OutcomeMemOk (execBrev g wide d a s) :=
  State.word_memOk h (fun _ _ ht => State.alu_memOk ht)
theorem execBfx_memOk {g t d a ctl} {s : State} (h : s.MemOk) : OutcomeMemOk (execBfx g t d a ctl s) :=
  State.word_memOk h (fun _ _ ht => State.alu_memOk ht)
theorem execBfi_memOk {g wide d base ins ctl} {s : State} (h : s.MemOk) : OutcomeMemOk (execBfi g wide d base ins ctl s) :=
  State.word_memOk h (fun _ _ ht => State.alu_memOk ht)
theorem execPrmt_memOk {g d a b sel} {s : State} (h : s.MemOk) : OutcomeMemOk (execPrmt g d a b sel s) :=
  State.word_memOk h (fun _ _ ht => State.alu_memOk ht)
theorem execLea_memOk {g t d a b sh} {s : State} (h : s.MemOk) : OutcomeMemOk (execLea g t d a b sh s) :=
  State.word_memOk h (fun _ _ ht => State.alu_memOk ht)

/-! ### Int: Compare and select -/

theorem execIcmp_memOk {g t pd a b cc} {s : State} (h : s.MemOk) : OutcomeMemOk (execIcmp g t pd a b cc s) :=
  State.predWord_memOk h (fun _ _ ht => State.predAlu_memOk ht)
theorem execIcmpImm_memOk {g t pd a cc i} {s : State} (h : s.MemOk) : OutcomeMemOk (execIcmpImm g t pd a cc i s) :=
  State.predWord_memOk h (fun _ _ ht => State.predAlu_memOk ht)
theorem execSel_memOk {g wide d a b pc} {s : State} (h : s.MemOk) : OutcomeMemOk (execSel g wide d a b pc s) :=
  State.word_memOk h (fun _ _ ht => State.alu_memOk ht)

/-! ### FloatWords -/

theorem State.float1_memOk {s : State} {i g t d a f} (h : s.MemOk) : OutcomeMemOk (s.float1 i g t d a f) :=
  State.word_memOk h (fun _ _ ht => State.falu_memOk ht)
theorem State.float2_memOk {s : State} {i g t d a b f} (h : s.MemOk) : OutcomeMemOk (s.float2 i g t d a b f) :=
  State.word_memOk h (fun _ _ ht => State.falu_memOk ht)
theorem State.float3_memOk {s : State} {i g t d a b c f} (h : s.MemOk) : OutcomeMemOk (s.float3 i g t d a b c f) :=
  State.word_memOk h (fun _ _ ht => State.falu_memOk ht)
theorem execFscale_memOk {g t d a n} {s : State} (h : s.MemOk) : OutcomeMemOk (execFscale g t d a n s) :=
  State.word_memOk h (fun _ _ ht => State.falu_memOk ht)

/-! ### FloatWords: Comparison and classification -/

theorem execFcmp_memOk {g t pd a b cc} {s : State} (h : s.MemOk) : OutcomeMemOk (execFcmp g t pd a b cc s) :=
  State.predWord_memOk h (fun _ _ ht => State.predAlu_memOk ht)
theorem execFclass_memOk {g t d a} {s : State} (h : s.MemOk) : OutcomeMemOk (execFclass g t d a s) := by
  unfold execFclass
  split
  · exact State.word_memOk h (fun _ _ ht => State.alu_memOk ht)
  · exact State.predWord_memOk h (fun _ _ ht => State.predAlu_memOk ht)

/-! ### FloatWords: Approximations -/

theorem State.approx_memOk {s : State} {i g d a op} (h : s.MemOk) : OutcomeMemOk (s.approx i g d a op) :=
  State.word_memOk h (fun _ _ ht => State.falu_memOk ht)

/-! ### FloatWords: Conversion -/

theorem execCvt_memOk {g m nosat dt st d a} {s : State} (h : s.MemOk) : OutcomeMemOk (execCvt g m nosat dt st d a s) :=
  State.word_memOk h (fun _ _ ht => State.falu_memOk ht)
theorem execPack_memOk {g e d a b nosat h} {s : State} (hs : s.MemOk) : OutcomeMemOk (execPack g e d a b nosat h s) :=
  State.word_memOk hs (fun _ _ ht => State.falu_memOk ht)
theorem execUnpk_memOk {g e d a q} {s : State} (h : s.MemOk) : OutcomeMemOk (execUnpk g e d a q s) :=
  State.word_memOk h (fun _ _ ht => State.alu_memOk ht)

/-! ### FloatWords: MX scaling -/

theorem execMxscale_memOk {g e d a} {s : State} (h : s.MemOk) : OutcomeMemOk (execMxscale g e d a s) :=
  State.word_memOk h (fun _ _ ht => State.alu_memOk ht)
theorem execMxq_memOk {g e d a scale nosat} {s : State} (h : s.MemOk) : OutcomeMemOk (execMxq g e d a scale nosat s) :=
  State.word_memOk h (fun _ _ ht => State.falu_memOk ht)
theorem execMxdq_memOk {g e d a scale} {s : State} (h : s.MemOk) : OutcomeMemOk (execMxdq g e d a scale s) :=
  State.word_memOk h (fun _ _ ht => State.falu_memOk ht)

/-! ### FloatWords: Paired and dot-product forms -/

theorem execHfma2_memOk {g bf d a b c} {s : State} (h : s.MemOk) : OutcomeMemOk (execHfma2 g bf d a b c s) :=
  State.word_memOk h (fun _ _ ht => State.falu_memOk ht)
theorem execFdot2_memOk {g bf d a b c} {s : State} (h : s.MemOk) : OutcomeMemOk (execFdot2 g bf d a b c s) :=
  State.word_memOk h (fun _ _ ht => State.falu_memOk ht)
theorem execIdot4_memOk {g sg sat_ d a b c} {s : State} (h : s.MemOk) : OutcomeMemOk (execIdot4 g sg sat_ d a b c s) :=
  State.word_memOk h (fun _ _ ht => State.alu_memOk ht)

/-! ### Moves: Predicates -/

theorem execPlop_memOk {g pd pa pb pc lut} {s : State} (h : s.MemOk) : OutcomeMemOk (execPlop g pd pa pb pc lut s) :=
  State.predWord_memOk h (fun _ _ ht => State.predAlu_memOk ht)
theorem execPpack_memOk {g d q} {s : State} (h : s.MemOk) : OutcomeMemOk (execPpack g d q s) :=
  State.word_memOk h (fun _ _ ht => State.alu_memOk ht)
theorem execPunpack_memOk {g a q} {s : State} (h : s.MemOk) : OutcomeMemOk (execPunpack g a q s) :=
  State.word_memOk h (fun _ _ ht => State.goOn_memOk (State.setGroup_memOk ht))
theorem execPmov_memOk {g pd ps} {s : State} (h : s.MemOk) : OutcomeMemOk (execPmov g pd ps s) :=
  State.word_memOk h (fun _ _ ht => State.predAlu_memOk ht)
theorem execPmovBit_memOk {g pd a b} {s : State} (h : s.MemOk) : OutcomeMemOk (execPmovBit g pd a b s) :=
  State.word_memOk h (fun _ _ ht => State.predAlu_memOk ht)

/-! ### Moves: Moves -/

theorem execMov_memOk {g wide d a} {s : State} (h : s.MemOk) : OutcomeMemOk (execMov g wide d a s) :=
  State.word_memOk h (fun _ _ ht => State.alu_memOk ht)
theorem execMovToIndex_memOk {g k a} {s : State} (h : s.MemOk) : OutcomeMemOk (execMovToIndex g k a s) :=
  State.word_memOk h (fun _ _ ht => State.goOn_memOk (State.setGroup_memOk ht))
theorem execMovFromIndex_memOk {g d k} {s : State} (h : s.MemOk) : OutcomeMemOk (execMovFromIndex g d k s) :=
  State.word_memOk h (fun _ _ ht => State.alu_memOk ht)
theorem execMovi_memOk {g d m imm} {s : State} (h : s.MemOk) : OutcomeMemOk (execMovi g d m imm s) :=
  State.word_memOk h (fun _ _ ht => State.alu_memOk ht)
theorem execBcast_memOk {g vd sa n} {s : State} (h : s.MemOk) : OutcomeMemOk (execBcast g vd sa n s) :=
  State.word_memOk h (fun _ _ ht => State.goOn_memOk (State.setGroup_memOk ht))
theorem lanerdFrom_memOk {wide sd va ln n is} {s : State} (h : s.MemOk) : (lanerdFrom wide sd va ln n is s).MemOk := by
  induction n generalizing is s with
  | zero => exact h
  | succ n ih =>
    unfold lanerdFrom
    extract_lets n ok r
    split
    · exact h
    · split
      · exact h
      · split
        · exact h
        · split
          · exact State.faultAt_memOk h
          · split
            · exact State.faultAt_memOk h
            · exact ih (State.faultAt_memOk h)
theorem execLanerd_memOk {g wide sd va ln} {s : State} (h : s.MemOk) : OutcomeMemOk (execLanerd g wide sd va ln s) :=
  State.word_memOk h (fun _ _ ht => lanerdFrom_memOk ht)
theorem execLanewr_memOk {g wide vd a ln} {s : State} (h : s.MemOk) : OutcomeMemOk (execLanewr g wide vd a ln s) :=
  State.word_memOk h (fun _ _ ht => State.goOn_memOk (State.setGroup_memOk ht))
theorem execSetxw_memOk {g k lo hi} {s : State} (h : s.MemOk) : OutcomeMemOk (execSetxw g k lo hi s) :=
  State.word_memOk h (fun _ _ ht => State.goOn_memOk (State.setGroup_memOk ht))

/-! ### Moves: Deferred words -/

theorem State.runDeferred_memOk {s : State} {gid d faulted} (h : s.MemOk) : (s.runDeferred gid d faulted).MemOk := by
  unfold State.runDeferred
  split
  · split
    · exact h
    · exact State.setGroup_memOk h
  · exact h

/-! ### Exchange -/

theorem exchangeFrom_memOk {i wide a takes} {run : Issue → State → State} {n is} {s : State}
    (hrun : ∀ is t, t.MemOk → (run is t).MemOk) (h : s.MemOk) : (exchangeFrom i wide a takes run n is s).MemOk := by
  induction n generalizing is s with
  | zero => exact h
  | succ n ih =>
    unfold exchangeFrom
    extract_lets bad real r s1
    have hr : r.1.MemOk := by
      unfold r
      split
      · exact h
      · exact State.faultAt_memOk h
    split
    · exact h
    · split
      · exact hrun _ _ h
      · split
        · exact hr
        · split
          · exact hr
          · exact ih hr
theorem State.exchange_memOk {s : State} {i g wide a takes run} (h : s.MemOk) (hrun : ∀ x0 t, t.MemOk → (run x0 t).MemOk) :
    OutcomeMemOk (s.exchange i g wide a takes run) :=
  State.word_memOk h (fun _ _ ht => exchangeFrom_memOk (fun _ _ ht1 => hrun _ _ ht1) ht)

/-! ### Exchange: Within a quad -/

theorem execQswz_memOk {g wide d a pat} {s : State} (h : s.MemOk) : OutcomeMemOk (execQswz g wide d a pat s) :=
  State.exchange_memOk h (fun _ _ ht => State.alu_memOk ht)
theorem execQdiff_memOk {g m d a} {s : State} (h : s.MemOk) : OutcomeMemOk (execQdiff g m d a s) :=
  State.exchange_memOk h (fun _ _ ht => State.falu_memOk ht)

/-! ### Exchange: SHFL -/

theorem State.shfl_memOk {s : State} {i g wide d a b pc span mode} (h : s.MemOk) :
    OutcomeMemOk (s.shfl i g wide d a b pc span mode) :=
  State.exchange_memOk h (fun _ _ ht => State.goOn_memOk (State.setGroup_memOk ht))

/-! ### Exchange: Members and participants -/

theorem State.vote_memOk {s : State} {i g d ps m pc f} (h : s.MemOk) : OutcomeMemOk (s.vote i g d ps m pc f) :=
  State.word_memOk h (fun _ _ ht => State.goOn_memOk (State.setGroup_memOk ht))
theorem State.matchLanes_memOk {s : State} {i g wide d a m pc f other} (h : s.MemOk) :
    OutcomeMemOk (s.match_ i g wide d a m pc f other) :=
  State.exchange_memOk h (fun _ _ ht => State.goOn_memOk (State.setGroup_memOk ht))
theorem execRedux_memOk {g op d a m pc} {s : State} (h : s.MemOk) : OutcomeMemOk (execRedux g op d a m pc s) :=
  State.exchange_memOk h (fun _ _ ht => State.goOn_memOk (State.setGroup_memOk ht))
theorem execScan_memOk {g op d a m seg} {s : State} (h : s.MemOk) : OutcomeMemOk (execScan g op d a m seg s) :=
  State.exchange_memOk h (fun _ _ ht => State.goOn_memOk (State.setGroup_memOk ht))
theorem execJoin_memOk {g m} {s : State} (h : s.MemOk) : OutcomeMemOk (execJoin g m s) :=
  State.word_memOk h (fun _ _ ht => State.goOn_memOk (State.setGroup_memOk ht))

/-! ### Control -/

theorem execNop_memOk {s : State} (h : s.MemOk) : OutcomeMemOk (execNop s) :=
  State.word_memOk h (fun _ _ ht => State.goOn_memOk ht)

/-! ### Control: Branches -/

theorem State.transfer_memOk {s : State} {is split move} (h : s.MemOk) : (s.transfer is split move).MemOk :=
  State.modGroup_memOk h
theorem State.bra_memOk {s : State} {is q disp hint} (h : s.MemOk) : (s.bra is q disp hint).MemOk := by
  unfold State.bra
  extract_lets
  split
  · split
    · exact h
    · split
      · exact h
      · exact State.setGroup_memOk h
  · split
    · exact h
    · exact State.transfer_memOk h
theorem execBra_memOk {g disp hint} {s : State} (h : s.MemOk) : OutcomeMemOk (execBra g disp hint s) := by
  unfold execBra
  split
  · exact .refused
  · extract_lets
    refine .next ?_
    split
    · exact h
    · exact State.bra_memOk h
theorem State.targetCheck_memOk {s : State} {is cause bad t run} (h : s.MemOk) (hrun : ∀ x0 t, t.MemOk → (run x0 t).MemOk) :
    (s.targetCheck is cause bad t run).MemOk := by
  unfold State.targetCheck
  split
  · exact hrun _ _ h
  · extract_lets
    split
    · exact State.faultAt_memOk h
    · split
      · exact State.faultAt_memOk h
      · exact hrun _ _ (State.faultAt_memOk h)
theorem State.indirect_memOk {t link is0} {s0 : State} (h : s0.MemOk) : (State.indirect t link is0 s0).MemOk :=
  State.targetCheck_memOk h (fun _ _ ht => State.targetCheck_memOk ht (fun _ _ ht1 => State.transfer_memOk ht1))
theorem execBrx_memOk {g t} {s : State} (h : s.MemOk) : OutcomeMemOk (execBrx g t s) :=
  State.word_memOk h (fun _ _ ht => State.indirect_memOk ht)
theorem execRet_memOk {g t} {s : State} (h : s.MemOk) : OutcomeMemOk (execRet g t s) :=
  State.word_memOk h (fun _ _ ht => State.indirect_memOk ht)
theorem execCallx_memOk {g t} {s : State} (h : s.MemOk) : OutcomeMemOk (execCallx g t s) :=
  State.word_memOk h (fun _ _ ht => State.indirect_memOk ht)
theorem execCall_memOk {g disp} {s : State} (h : s.MemOk) : OutcomeMemOk (execCall g disp s) :=
  State.word_memOk h (fun _ _ ht => State.transfer_memOk ht)

/-! ### Control: EXIT, YIELD, TRAP, BKPT -/

theorem execExit_memOk {g} {s : State} (h : s.MemOk) : OutcomeMemOk (execExit g s) :=
  State.word_memOk h (fun _ _ ht => State.lateGate_memOk ht (fun _ _ ht1 => State.modGroup_memOk ht1))
theorem State.yieldPlatform_memOk {s : State} {is} (h : s.MemOk) : (s.yieldPlatform is).MemOk :=
  State.modCore_memOk h
theorem execYield_memOk {g} {s : State} (h : s.MemOk) : OutcomeMemOk (execYield g s) :=
  State.word_memOk h (fun _ _ ht => State.goOn_memOk (State.yieldPlatform_memOk ht))
theorem execTrap_memOk {g code} {s : State} (h : s.MemOk) : OutcomeMemOk (execTrap g code s) := by
  unfold execTrap
  refine State.word_memOk h ?_
  intro _ _ ht
  split
  · exact State.raise_memOk ht
  · exact State.setGroup_memOk ht
theorem execBkpt_memOk {g} {s : State} (h : s.MemOk) : OutcomeMemOk (execBkpt g s) := by
  unfold execBkpt
  refine State.word_memOk h ?_
  intro _ _ ht
  split
  · exact State.goOn_memOk (State.modBlock_memOk ht)
  · split
    · exact State.raise_memOk ht
    · exact State.goOn_memOk ht

/-! ### Control: MIGRATE -/

theorem State.migrateTo_memOk {s : State} {is pd rank} (h : s.MemOk) : (s.migrateTo is pd rank).MemOk := by
  unfold State.migrateTo
  extract_lets
  split
  · exact State.goOn_memOk (State.setGroup_memOk h)
  · split
    · split
      · exact State.goOn_memOk (State.setGroup_memOk h)
      · exact State.setGroup_memOk (State.groupLog_memOk h)
    · split
      · exact State.goOn_memOk (State.setGroup_memOk h)
      · split
        · exact State.goOn_memOk (State.setGroup_memOk h)
        · exact State.setGroup_memOk (State.groupLog_memOk h)
theorem execMigrate_memOk {g pd a} {s : State} (h : s.MemOk) : OutcomeMemOk (execMigrate g pd a s) := by
  unfold execMigrate
  split
  · exact .refused
  · split
    · exact .next (State.badClause_memOk h)
    · refine State.word_memOk h ?_
      intro _ _ ht
      extract_lets
      split
      · exact State.setGroup_memOk ht
      · split
        · exact h
        · exact State.migrateTo_memOk ht
theorem execMigrateShippingDone_memOk {gid} {s : State} (h : s.MemOk) : OutcomeMemOk (execMigrateShippingDone gid s) := by
  unfold execMigrateShippingDone
  split
  · exact .refused
  · split
    · split
      · exact .refused
      · split
        · exact .refused
        · exact .next (State.setGroup_memOk h)
    · exact .next (State.setGroup_memOk h)
    · exact .refused

end Sys2Proof.Machine
end
section
/-! Every step keeps the canonical form of memory: links, and the words that access memory. -/

namespace Sys2Proof.Machine

/-! ### Links: Ports and links -/

theorem State.setLink_memOk {s : State} {i j l} (h : s.MemOk) : (s.setLink i j l).MemOk := (State.setLink_fab ..).memOk h
theorem State.modLink_memOk {s : State} {i j f} (h : s.MemOk) : (s.modLink i j f).MemOk := (State.modLink_fab ..).memOk h

/-! ### Links: Sending -/

theorem State.transmit_memOk {s : State} {i j f} (h : s.MemOk) : (s.transmit i j f).MemOk := (State.transmit_fab ..).memOk h
theorem State.pump_memOk {s : State} {i j} (h : s.MemOk) : (s.pump i j).MemOk := (State.pump_fab ..).memOk h
theorem State.send_memOk {s : State} {i j tc kind info payload} (h : s.MemOk) : (s.send i j tc kind info payload).1.MemOk :=
  (State.send_fab ..).memOk h
theorem State.control_memOk {s : State} {i j kind info} (h : s.MemOk) : (s.control i j kind info).MemOk :=
  State.send_memOk h
theorem State.message_memOk {s : State} {i j tc} (h : s.MemOk) : (s.message i j tc).1.MemOk := (State.message_fab ..).memOk h
theorem State.sendNak_memOk {s : State} {i j} (h : s.MemOk) : (s.sendNak i j).MemOk := by
  unfold State.sendNak
  extract_lets
  split
  · exact State.modLink_memOk h
  · exact State.transmit_memOk (State.modLink_memOk h)
theorem State.replayFrom_memOk {s : State} {i j seq} (h : s.MemOk) : (s.replayFrom i j seq).MemOk :=
  State.modLink_memOk h

/-! ### Links: Receive buffers -/

theorem State.settlePause_memOk {s : State} {i j tc} (h : s.MemOk) :
    (s.settlePause i j tc).MemOk := (State.settlePause_fab ..).memOk h
theorem State.settlePauses_memOk {s : State} (h : s.MemOk) : s.settlePauses.MemOk := (State.settlePauses_fab ..).memOk h
theorem State.consume_memOk {s : State} {i j tc} (h : s.MemOk) : (s.consume i j tc).MemOk :=
  State.settlePause_memOk h

/-! ### Links: Receiving -/

theorem State.deliver_memOk {s : State} {i j tc} (h : s.MemOk) : (s.deliver i j tc).MemOk :=
  State.modLink_memOk h
theorem State.drainPair_memOk {s : State} {i j n} (h : s.MemOk) : (s.drainPair i j n).MemOk := by
  induction n generalizing s with
  | zero => exact h
  | succ n ih =>
    unfold State.drainPair
    extract_lets l
    split
    · exact h
    · exact ih (State.deliver_memOk (State.modLink_memOk h))
theorem State.takePair_memOk {s : State} {o j f} (h : s.MemOk) : (s.takePair o j f).MemOk := by
  unfold State.takePair
  extract_lets
  split
  · exact State.drainPair_memOk (State.deliver_memOk h)
  · split
    · exact h
    · exact State.setLink_memOk h
theorem State.acceptFlit_memOk {s : State} {i j f} (h : s.MemOk) : (s.acceptFlit i j f).MemOk := by
  unfold State.acceptFlit
  extract_lets
  split
  · split
    · exact State.modLink_memOk (State.modLink_memOk h)
    · exact State.modLink_memOk (State.modLink_memOk (State.modLink_memOk h))
  · split
    · exact State.settlePause_memOk (State.memOk_with (State.modLink_memOk (State.modLink_memOk h)))
    · exact State.settlePause_memOk (State.takePair_memOk (State.modLink_memOk (State.modLink_memOk h)))
theorem execFlitReceive_memOk {src dst damage} {s : State} (h : s.MemOk) : OutcomeMemOk (execFlitReceive src dst damage s) := by
  unfold execFlitReceive
  split
  · exact .refused
  · extract_lets _ _ _ _ _ _ s2
    have hs2 : s2.MemOk := by
      unfold s2
      split
      · exact State.modLink_memOk h
      · exact State.modLink_memOk (State.modLink_memOk h)
    split
    · refine .next ?_
      split
      · exact State.control_memOk (State.acceptFlit_memOk (State.modLink_memOk h))
      · exact State.acceptFlit_memOk (State.modLink_memOk h)
    · refine .next ?_
      split
      · exact hs2
      · exact State.sendNak_memOk hs2
theorem execAckFlitTimer_memOk {src dst} {s : State} (h : s.MemOk) : OutcomeMemOk (execAckFlitTimer src dst s) := by
  unfold execAckFlitTimer
  extract_lets
  split
  · exact .refused
  · exact .next (State.modLink_memOk (State.control_memOk h))
theorem execAckReceive_memOk {src dst} {s : State} (h : s.MemOk) : OutcomeMemOk (execAckReceive src dst s) := by
  unfold execAckReceive
  split
  · exact .refused
  · exact .next (State.pump_memOk (State.modLink_memOk h))
theorem execNakReplay_memOk {src dst} {s : State} (h : s.MemOk) : OutcomeMemOk (execNakReplay src dst s) := by
  unfold execNakReplay
  split
  · exact .refused
  · exact .next (State.pump_memOk (State.replayFrom_memOk (State.modLink_memOk h)))
theorem execReplayTimeout_memOk {src dst} {s : State} (h : s.MemOk) : OutcomeMemOk (execReplayTimeout src dst s) := by
  unfold execReplayTimeout
  split
  · exact .refused
  · split
    · exact .refused
    · exact .next (State.pump_memOk (State.replayFrom_memOk h))
theorem execPauseReceive_memOk {src dst} {s : State} (h : s.MemOk) : OutcomeMemOk (execPauseReceive src dst s) := by
  unfold execPauseReceive
  split
  · exact .refused
  · exact .next (State.pump_memOk (State.modLink_memOk (State.setLink_memOk h)))

/-! ### Links: Relaying at the third die -/

theorem execRelayedFlitForward_memOk {via} {s : State} (h : s.MemOk) : OutcomeMemOk (execRelayedFlitForward via s) := by
  unfold execRelayedFlitForward
  extract_lets
  split
  · exact .refused
  · exact .next (State.settlePause_memOk (State.transmit_memOk (State.modLink_memOk (State.memOk_with h))))

/-! ### Access: Addresses -/

theorem State.addrFaults_memOk {s : State} {is i traps kind access bads run} (h : s.MemOk) (hrun : ∀ x0 t, t.MemOk → (run x0
    t).MemOk) :
    (s.addrFaults is i traps kind access bads run).MemOk := by
  unfold State.addrFaults
  extract_lets
  split
  · exact hrun _ _ h
  · split
    · exact h
    · split
      · exact State.raise_memOk h
      · split
        · exact State.modGroup_memOk h
        · split
          · exact State.goOn_memOk (State.modGroup_memOk h)
          · exact hrun _ _ (State.modGroup_memOk h)
theorem State.withAddrs_memOk {i sp base off n t kind is} {s : State} {run} (h : s.MemOk) (hrun : ∀ x0 x1 t, t.MemOk → (run x0 x1
    t).MemOk) :
    (State.withAddrs i sp base off n t kind is s run).MemOk := by
  unfold State.withAddrs
  extract_lets _ _ _ _ _ s1
  have hs1 : s1.MemOk := by
    unfold s1
    split
    · exact h
    · exact State.modGroup_memOk h
  exact State.addrFaults_memOk hs1 (fun _ _ ht => hrun _ _ _ ht)

/-! ### Access: Cells' dies -/

theorem State.cellRequest_memOk {s : State} {r} (h : s.MemOk) : (s.cellRequest r).MemOk :=
  State.memOk_with (State.message_memOk h)
theorem State.request_memOk {s : State} {r} (h : s.MemOk) : (s.request r).MemOk :=
  State.memOk_with (State.message_memOk h)
theorem State.requestAll_memOk {s : State} {r ls} (h : s.MemOk) : (s.requestAll r ls).MemOk :=
  foldl_keeps State.MemOk _ _ _ h fun _ _ ht => State.request_memOk ht
theorem State.putLog_memOk {s : State} {gid slot o} (h : s.MemOk) : (s.putLog gid slot o).MemOk :=
  State.modGroup_memOk h
theorem State.dropL1_memOk {s : State} {die ia} (h : s.MemOk) : (s.dropL1 die ia).MemOk :=
  State.memOk_with h

/-! ### Access: Store buffer -/

theorem State.putStore_memOk {s : State} {is width sp od red ls} (h : s.MemOk) : (s.putStore is width sp od red ls).1.MemOk :=
  State.setCore_memOk h

/-! ### Names -/

theorem State.arrive_memOk {s : State} {x} (h : s.MemOk) : (s.arrive x).MemOk :=
  State.memOk_with h
theorem State.arriveFrom_memOk {s : State} {home bid n a y b} (h : s.MemOk) : (s.arriveFrom home bid n a y b).MemOk :=
  State.arrive_memOk (State.message_memOk h)
theorem State.offAll_memOk {s : State} {is ls cause} (h : s.MemOk) : (s.offAll is ls cause).MemOk := by
  unfold State.offAll
  extract_lets
  split
  · exact State.modGroup_memOk h
  · exact State.goOn_memOk (State.modGroup_memOk h)

/-! ### MemWords: LD -/

theorem State.underLine_memOk {s : State} {gid slot} (h : s.MemOk) : (s.underLine gid slot).MemOk :=
  State.modGroup_memOk h
theorem State.loadMem_memOk {i t d sp cache is as} {s : State} (h : s.MemOk) : (State.loadMem i t d sp cache is as s).MemOk := by
  unfold State.loadMem
  extract_lets _ _ _ staleLine
  clear_value staleLine
  split
  · exact h
  · split
    · exact State.goOn_memOk (foldl_keeps State.MemOk _ _ _ (State.setGroup_memOk h) fun _ _ ht => State.dropL1_memOk ht)
    · split
      · exact State.requestAll_memOk (State.goOn_memOk (State.putLog_memOk (foldl_keeps State.MemOk _ _ _ (State.setGroup_memOk h)
          fun _ _ ht => State.dropL1_memOk ht)))
      · exact State.underLine_memOk (State.request_memOk (State.requestAll_memOk (State.goOn_memOk (State.putLog_memOk
          (foldl_keeps State.MemOk _ _ _ (State.setGroup_memOk h) fun _ _ ht => State.dropL1_memOk ht)))))
theorem State.cellSend_memOk {s : State} {is who ops} (h : s.MemOk) : (s.cellSend is who ops).MemOk :=
  foldl_keeps State.MemOk _ _ _ h fun _ _ ht => State.cellRequest_memOk ht
theorem execLd_memOk {g t d sp base ord cache off} {s : State} (h : s.MemOk) :
    OutcomeMemOk (execLd g t d sp base ord cache off s) := by
  unfold execLd
  extract_lets
  refine State.word_memOk h ?_
  intro _ _ ht
  refine State.withAddrs_memOk ht ?_
  intro _ _ _ ht1
  split
  · exact State.goOn_memOk (State.setGroup_memOk ht1)
  · exact State.goOn_memOk (State.setGroup_memOk ht1)
  · extract_lets
    split
    · exact State.goOn_memOk ht1
    · exact State.cellSend_memOk (State.goOn_memOk (State.putLog_memOk ht1))
  · exact State.loadMem_memOk ht1

/-! ### MemWords: LDC -/

theorem execLdc_memOk {g run sd sp base ord cache off} {s : State} (h : s.MemOk) :
    OutcomeMemOk (execLdc g run sd sp base ord cache off s) := by
  unfold execLdc
  extract_lets
  refine State.word_memOk h ?_
  intro _ _ ht
  split
  · extract_lets
    split
    · exact State.goOn_memOk (State.modGroup_memOk ht)
    · exact State.addrFaults_memOk ht (fun _ _ ht1 => State.goOn_memOk ht1)
  · extract_lets _ _ staleLine
    clear_value staleLine
    split
    · exact ht
    · split
      · exact State.goOn_memOk (foldl_keeps State.MemOk _ _ _ (State.setGroup_memOk ht) fun _ _ ht1 => State.dropL1_memOk ht1)
      · split
        · exact State.requestAll_memOk (State.goOn_memOk (State.putLog_memOk (foldl_keeps State.MemOk _ _ _ (State.setGroup_memOk
            ht) fun _ _ ht1 => State.dropL1_memOk ht1)))
        · exact State.underLine_memOk (State.request_memOk (State.requestAll_memOk (State.goOn_memOk (State.putLog_memOk
            (foldl_keeps State.MemOk _ _ _ (State.setGroup_memOk ht) fun _ _ ht1 => State.dropL1_memOk ht1)))))

/-! ### MemWords: ST -/

theorem State.afterWrite_memOk {s : State} {is sp ord} (h : s.MemOk) : (s.afterWrite is sp ord).MemOk := by
  unfold State.afterWrite
  split
  · exact State.modGroup_memOk h
  · exact h
theorem State.releaseGate_memOk {sp ord is} {s : State} {run} (h : s.MemOk) (hrun : ∀ x0 t, t.MemOk → (run x0 t).MemOk) :
    (State.releaseGate sp ord is s run).MemOk := by
  unfold State.releaseGate
  split
  · exact State.lateGate_memOk h (fun _ _ ht => hrun _ _ ht)
  · exact hrun _ _ h
theorem State.post_memOk {i is} {s : State} {kind width sp red ls} (h : s.MemOk) :
    (State.post i is s kind width sp red ls).MemOk := by
  unfold State.post
  extract_lets _ _ _ _ _ _ s1
  have hs1 : s1.MemOk := by
    unfold s1
    split
    · exact foldl_keeps State.MemOk _ _ _ h fun _ _ ht => State.dropL1_memOk ht
    · exact State.requestAll_memOk (State.putStore_memOk (foldl_keeps State.MemOk _ _ _ h fun _ _ ht => State.dropL1_memOk ht))
  split
  · exact hs1
  · exact State.requestAll_memOk (State.putLog_memOk hs1)
theorem State.padWrites_memOk {s : State} {is sp n ls} (h : s.MemOk) : (s.padWrites is sp n ls).MemOk :=
  State.modGroup_memOk (foldl_keeps State.MemOk _ _ _ h fun _ _ ht => State.modBlock_memOk ht)
theorem execSt_memOk {g t a sp base ord off} {s : State} (h : s.MemOk) : OutcomeMemOk (execSt g t a sp base ord off s) := by
  unfold execSt
  extract_lets
  refine State.word_memOk h ?_
  intro _ _ ht
  split
  · exact State.goOn_memOk ht
  · refine State.releaseGate_memOk ht ?_
    intro _ _ ht1
    refine State.withAddrs_memOk ht1 ?_
    intro _ _ _ ht2
    extract_lets _ s4
    have hs4 : s4.MemOk := by
      unfold s4
      split
      · exact State.padWrites_memOk ht2
      · split
        · exact ht2
        · exact State.putStore_memOk ht2
      · exact State.post_memOk ht2
    split
    · exact ht2
    · exact State.afterWrite_memOk (State.goOn_memOk hs4)

/-! ### MemWords: PREF and CCTL -/

theorem execPref_memOk {g sp base cache off} {s : State} (h : s.MemOk) : OutcomeMemOk (execPref g sp base cache off s) :=
  State.word_memOk h (fun _ _ ht => State.goOn_memOk (foldl_keeps State.MemOk _ _ _ ht fun _ _ ht1 => State.request_memOk ht1))
theorem execCctlDrop_memOk {g sp base off} {s : State} (h : s.MemOk) : OutcomeMemOk (execCctlDrop g sp base off s) :=
  State.word_memOk h (fun _ _ ht => State.goOn_memOk (foldl_keeps State.MemOk _ _ _ ht fun _ _ ht1 => State.dropL1_memOk ht1))
theorem execCctlDrop4k_memOk {g sp base off} {s : State} (h : s.MemOk) : OutcomeMemOk (execCctlDrop4k g sp base off s) :=
  State.word_memOk h (fun _ _ ht => State.goOn_memOk (State.memOk_with ht))
theorem execCctlRenew_memOk {g sp base off} {s : State} (h : s.MemOk) : OutcomeMemOk (execCctlRenew g sp base off s) :=
  State.word_memOk h (fun _ _ ht => State.goOn_memOk (foldl_keeps State.MemOk _ _ _ ht fun _ _ ht1 => State.request_memOk ht1))

/-! ### MemWords: XCLR -/

theorem execXclr_memOk {g base rel off} {s : State} (h : s.MemOk) : OutcomeMemOk (execXclr g base rel off s) := by
  unfold execXclr
  extract_lets
  refine State.word_memOk h ?_
  intro _ _ ht
  split
  · exact State.goOn_memOk ht
  · refine State.releaseGate_memOk ht ?_
    intro _ _ ht1
    refine State.withAddrs_memOk ht1 ?_
    intro _ _ _ ht2
    extract_lets
    split
    · exact State.goOn_memOk ht2
    · split
      · exact ht2
      · exact State.cellSend_memOk (State.goOn_memOk (State.putStore_memOk ht2))

/-! ### MemWords: ATOM and RED -/

theorem State.padAtomics_memOk {s : State} {is sp k signed n ls} (h : s.MemOk) : (s.padAtomics is sp k signed n ls).1.MemOk :=
  foldl_keeps (fun r : State × _ => r.1.MemOk) _ _ _ h fun _ _ ht => State.modBlock_memOk ht
theorem State.atom_memOk {s : State} {i g k signed wide v sp base ord off} (h : s.MemOk) :
    OutcomeMemOk (s.atom i g k signed wide v sp base ord off) := by
  unfold State.atom
  extract_lets
  refine State.word_memOk h ?_
  intro _ _ ht
  split
  · exact State.goOn_memOk ht
  · refine State.releaseGate_memOk ht ?_
    intro _ _ ht1
    refine State.withAddrs_memOk ht1 ?_
    intro _ _ _ ht2
    extract_lets
    split
    · exact State.afterWrite_memOk (State.goOn_memOk (State.setGroup_memOk (State.padAtomics_memOk ht2)))
    · exact State.afterWrite_memOk (State.goOn_memOk (State.setGroup_memOk (State.padAtomics_memOk ht2)))
    · split
      · exact State.goOn_memOk ht2
      · exact State.afterWrite_memOk (State.requestAll_memOk (State.goOn_memOk (foldl_keeps State.MemOk _ _ _ (State.putLog_memOk
          ht2) fun _ _ ht3 => State.dropL1_memOk ht3)))
theorem execAtomXadd_memOk {g wide v base ord off} {s : State} (h : s.MemOk) :
    OutcomeMemOk (execAtomXadd g wide v base ord off s) := by
  unfold execAtomXadd
  extract_lets
  refine State.word_memOk h ?_
  intro _ _ ht
  split
  · exact State.goOn_memOk ht
  · refine State.releaseGate_memOk ht ?_
    intro _ _ ht1
    refine State.withAddrs_memOk ht1 ?_
    intro _ _ _ ht2
    split
    · exact State.goOn_memOk ht2
    · exact State.afterWrite_memOk (State.cellSend_memOk (State.goOn_memOk (State.putLog_memOk ht2)))
theorem State.red_memOk {s : State} {i g k signed wide a sp base ord off} (h : s.MemOk) :
    OutcomeMemOk (s.red i g k signed wide a sp base ord off) := by
  unfold State.red
  extract_lets
  refine State.word_memOk h ?_
  intro _ _ ht
  split
  · exact State.goOn_memOk ht
  · refine State.releaseGate_memOk ht ?_
    intro _ _ ht1
    refine State.withAddrs_memOk ht1 ?_
    intro _ _ _ ht2
    extract_lets
    split
    · exact State.afterWrite_memOk (State.goOn_memOk (State.modGroup_memOk (State.padAtomics_memOk ht2)))
    · exact State.afterWrite_memOk (State.goOn_memOk (State.modGroup_memOk (State.padAtomics_memOk ht2)))
    · split
      · exact State.goOn_memOk ht2
      · split
        · exact ht2
        · exact State.afterWrite_memOk (State.requestAll_memOk (State.goOn_memOk (State.putStore_memOk (foldl_keeps State.MemOk _
            _ _ ht2 fun _ _ ht3 => State.dropL1_memOk ht3))))
theorem execRedXadd_memOk {g wide a base ord off} {s : State} (h : s.MemOk) :
    OutcomeMemOk (execRedXadd g wide a base ord off s) := by
  unfold execRedXadd
  extract_lets
  refine State.word_memOk h ?_
  intro _ _ ht
  split
  · exact State.goOn_memOk ht
  · refine State.releaseGate_memOk ht ?_
    intro _ _ ht1
    refine State.withAddrs_memOk ht1 ?_
    intro _ _ _ ht2
    split
    · exact State.goOn_memOk ht2
    · split
      · exact ht2
      · exact State.afterWrite_memOk (State.cellSend_memOk (State.goOn_memOk (State.putStore_memOk ht2)))

/-! ### MemWords: FENCE, FLSIG, WATCH -/

theorem execFence_memOk {g scope ord} {s : State} (h : s.MemOk) : OutcomeMemOk (execFence g scope ord s) := by
  unfold execFence
  refine State.word_memOk h ?_
  intro _ _ ht
  extract_lets _ _ _ run
  have hrun : ∀ x0 t1, t1.MemOk → (run x0 t1).MemOk := by
    intro _ t1 ht1
    unfold run
    split
    · exact State.goOn_memOk (State.modGroup_memOk ht1)
    · exact State.goOn_memOk ht1
  split
  · exact State.lateGate_memOk ht (fun _ _ ht1 => hrun _ _ ht1)
  · exact hrun _ _ ht
theorem execFlsig_memOk {g slot} {s : State} (h : s.MemOk) : OutcomeMemOk (execFlsig g slot s) := by
  unfold execFlsig
  refine State.word_memOk h ?_
  intro _ _ ht
  split
  · exact State.goOn_memOk ht
  · refine State.lateGate_memOk ht ?_
    intro _ _ ht1
    split
    · split
      · exact ht1
      · exact State.goOn_memOk ht1
    · split
      · exact State.offAll_memOk ht1
      · split
        · exact ht1
        · exact State.goOn_memOk (State.arrive_memOk ht1)
theorem execWatch_memOk {g slot base off} {s : State} (h : s.MemOk) : OutcomeMemOk (execWatch g slot base off s) := by
  unfold execWatch
  extract_lets
  refine State.word_memOk h ?_
  intro _ _ ht
  split
  · exact State.goOn_memOk ht
  · split
    · exact State.offAll_memOk ht
    · split
      · exact State.addrFaults_memOk ht (fun _ _ ht1 => State.goOn_memOk ht1)
      · exact State.request_memOk (State.goOn_memOk (State.dropL1_memOk ht))

/-! ### Barriers: Applying arrivals -/

theorem State.arrivalOff_memOk {s : State} {who cause} (h : s.MemOk) : (s.arrivalOff who cause).MemOk := by
  unfold State.arrivalOff
  split
  · exact h
  · exact State.modGroup_memOk h
theorem State.arriveAt_memOk {s : State} {bid n b sl x} (h : s.MemOk) : (s.arriveAt bid n b sl x).MemOk := by
  unfold State.arriveAt
  extract_lets
  split
  · exact State.arrivalOff_memOk (State.setBlock_memOk h)
  · exact State.setBlock_memOk h
theorem State.applyArrival_memOk {s : State} {x} (h : s.MemOk) : (s.applyArrival x).MemOk := by
  unfold State.applyArrival
  split
  · split
    · exact State.arrivalOff_memOk h
    · split
      · exact State.setBlock_memOk h
      · split
        · exact State.arrivalOff_memOk h
        · exact State.arriveAt_memOk h
  · split
    · exact State.arrivalOff_memOk h
    · split
      · exact State.arrivalOff_memOk h
      · split
        · exact State.arrivalOff_memOk h
        · exact State.arriveAt_memOk h
theorem State.applyHeld_memOk {s : State} {bid} (h : s.MemOk) : (s.applyHeld bid).MemOk := by
  unfold State.applyHeld
  split
  · exact h
  · exact foldl_keeps State.MemOk _ _ _ (State.setBlock_memOk h) fun _ _ ht => State.applyArrival_memOk ht
theorem execArrivalApply_memOk {s : State} (h : s.MemOk) : OutcomeMemOk (execArrivalApply s) := by
  unfold execArrivalApply
  split
  · exact .refused
  · exact .next (State.applyArrival_memOk (State.memOk_with h))
theorem execWatchFire_memOk {s : State} (h : s.MemOk) : OutcomeMemOk (execWatchFire s) := by
  unfold execWatchFire
  split
  · exact .refused
  · split
    · exact .refused
    · exact .next (State.arriveFrom_memOk (State.memOk_with h))
theorem State.engineArrive_memOk {s : State} {bid n a y gid lane} (h : s.MemOk) : (s.engineArrive bid n a y gid lane).MemOk :=
  State.arrive_memOk h

/-! ### Barriers: The words -/

theorem execBinit_memOk {g name off} {s : State} (h : s.MemOk) : OutcomeMemOk (execBinit g name off s) := by
  unfold execBinit
  refine State.word_memOk h ?_
  intro _ _ ht
  split
  · exact State.goOn_memOk ht
  · extract_lets
    split
    · exact State.offAll_memOk ht
    · split
      · exact State.offAll_memOk ht
      · exact State.goOn_memOk (State.setBlock_memOk ht)
theorem arriveGate_memOk {rlx is} {s : State} {run} (h : s.MemOk) (hrun : ∀ x0 t, t.MemOk → (run x0 t).MemOk) :
    (arriveGate rlx is s run).MemOk := by
  unfold arriveGate
  split
  · exact hrun _ _ h
  · exact State.lateGate_memOk h (fun _ _ ht => hrun _ _ ht)
theorem execArrive_memOk {g rlx name n} {s : State} (h : s.MemOk) : OutcomeMemOk (execArrive g rlx name n s) := by
  unfold execArrive
  refine State.word_memOk h ?_
  intro _ _ ht
  split
  · exact State.goOn_memOk ht
  · refine arriveGate_memOk ht ?_
    intro _ _ ht1
    extract_lets
    split
    · exact State.offAll_memOk ht1
    · split
      · exact State.offAll_memOk ht1
      · exact State.goOn_memOk (State.arrive_memOk ht1)
theorem execArriveAddress_memOk {g rlx peer a n} {s : State} (h : s.MemOk) :
    OutcomeMemOk (execArriveAddress g rlx peer a n s) := by
  unfold execArriveAddress
  extract_lets
  refine State.word_memOk h ?_
  intro _ _ ht
  split
  · exact State.goOn_memOk ht
  · refine arriveGate_memOk ht ?_
    intro _ _ ht1
    split
    · exact State.offAll_memOk ht1
    · split
      · exact State.offAll_memOk ht1
      · exact State.goOn_memOk (State.arrive_memOk ht1)
theorem State.expectWord_memOk {s : State} {i g each name n} (h : s.MemOk) : OutcomeMemOk (s.expectWord i g each name n) := by
  unfold State.expectWord
  refine State.word_memOk h ?_
  intro _ _ ht
  split
  · exact State.goOn_memOk ht
  · extract_lets
    split
    · split
      · exact State.offAll_memOk ht
      · split
        · exact State.offAll_memOk ht
        · exact State.goOn_memOk (State.setBlock_memOk ht)
    · exact State.offAll_memOk ht
theorem State.btest_memOk {s : State} {i g name run} (h : s.MemOk) : OutcomeMemOk (s.btest i g name run) := by
  unfold State.btest
  refine State.word_memOk h ?_
  intro _ _ ht
  split
  · split
    · exact State.goOn_memOk (State.modGroup_memOk ht)
    · exact State.offAll_memOk ht
  · exact State.offAll_memOk ht
theorem execBinval_memOk {g name} {s : State} (h : s.MemOk) : OutcomeMemOk (execBinval g name s) := by
  unfold execBinval
  refine State.word_memOk h ?_
  intro _ _ ht
  split
  · exact State.goOn_memOk ht
  · extract_lets
    split
    · split
      · exact State.offAll_memOk ht
      · exact State.goOn_memOk (State.setBlock_memOk ht)
    · exact State.offAll_memOk ht

end Sys2Proof.Machine
end
section
/-! Every step keeps the canonical form of memory: homes, translation and copies. -/

namespace Sys2Proof.Machine

/-! ### Home: Small changes of the parts of State -/

theorem State.modMd_memOk {s : State} {f} (h : s.MemOk) : (s.modMd f).MemOk :=
  State.memOk_with h
theorem State.modXl_memOk {s : State} {f} (h : s.MemOk) : (s.modXl f).MemOk :=
  State.memOk_with h

/-! ### Home: Translation caches and merge tables -/

theorem State.gather_memOk {s : State} {die ia t w ctx reason} (h : s.MemOk) : OptionMemOk (s.gather die ia t w ctx reason) := by
  unfold State.gather
  extract_lets
  split
  · exact State.modXl_memOk h
  · split
    · exact trivial
    · exact State.modXl_memOk (State.message_memOk h)

/-! ### Home: Engines as requesters -/

theorem State.modCopy_memOk {s : State} {bid key f} (h : s.MemOk) : (s.modCopy bid key f).MemOk :=
  State.modBlock_memOk h
theorem State.modRange_memOk {s : State} {id va f} (h : s.MemOk) : (s.modRange id va f).MemOk :=
  State.modMd_memOk h
theorem State.rangeFails_memOk {s : State} {id va cause reason ia t} (h : s.MemOk) :
    (s.rangeFails id va cause reason ia t).MemOk :=
  State.modMd_memOk h

/-! ### Home: Landing data and faults at the requester -/

theorem State.lateFault_memOk {s : State} {gid f} (h : s.MemOk) : (s.lateFault gid f).MemOk :=
  State.modGroup_memOk h
theorem State.dropStore_memOk {s : State} {c id ls} (h : s.MemOk) : (s.dropStore c id ls).MemOk :=
  State.modCore_memOk h
theorem State.hostAnswer_memOk {s : State} {id bytes fail} (h : s.MemOk) : (s.hostAnswer id bytes fail).MemOk := by
  unfold State.hostAnswer
  split
  · exact h
  · extract_lets
    split <;> exact State.memOk_with h
theorem State.failReq_memOk {s : State} {r ls cause reason} (h : s.MemOk) : (s.failReq r ls cause reason).MemOk := by
  unfold State.failReq
  extract_lets
  split
  · split
    · split
      · exact h
      · exact State.lateFault_memOk h
    · exact State.modGroup_memOk h
  · split
    · exact h
    · exact State.lateFault_memOk (State.dropStore_memOk h)
  · exact State.hostAnswer_memOk h
  · exact State.modCopy_memOk h
  · exact State.rangeFails_memOk h
  · exact h
theorem State.notNow_memOk {s : State} {r} (h : s.MemOk) : (s.notNow r).MemOk := by
  unfold State.notNow
  split
  · exact State.modGroup_memOk h
  · exact h
theorem State.replyTo_memOk {s : State} {home r} (h : s.MemOk) : (s.replyTo home r).1.MemOk :=
  State.message_memOk h
theorem State.replied_memOk {s : State} {home r} (h : s.MemOk) : (s.replied home r).MemOk := by
  unfold State.replied
  extract_lets
  split
  · exact State.modGroup_memOk (State.replyTo_memOk h)
  · exact State.modCopy_memOk (State.replyTo_memOk h)
  · exact State.modRange_memOk (State.replyTo_memOk h)
  · exact State.replyTo_memOk h

/-! ### Home: Admission -/

theorem State.modReq_memOk {s : State} {tag f} (h : s.MemOk) : (s.modReq tag f).MemOk :=
  State.modMd_memOk h
theorem State.dropReq_memOk {s : State} {tag} (h : s.MemOk) : (s.dropReq tag).MemOk :=
  State.modMd_memOk h
theorem State.putReq_memOk {s : State} {r} (h : s.MemOk) : (s.putReq r).MemOk :=
  State.modMd_memOk h
theorem State.bumpDelay_memOk {s : State} {home src} (h : s.MemOk) : (s.bumpDelay home src).MemOk :=
  State.modMd_memOk h
theorem State.calmDelay_memOk {s : State} {home src} (h : s.MemOk) : (s.calmDelay home src).MemOk :=
  State.modMd_memOk h
theorem State.retry_memOk {s : State} {home r} (h : s.MemOk) : (s.retry home r).MemOk :=
  State.bumpDelay_memOk (State.modReq_memOk (State.replyTo_memOk h))
theorem State.pend_memOk {s : State} {die home r ia reason} (h : s.MemOk) : (s.pend die home r ia reason).MemOk := by
  unfold State.pend
  split
  · exact State.replied_memOk (State.notNow_memOk (State.dropReq_memOk h))
  · split
    · exact State.dropReq_memOk h
    · split
      · exact State.retry_memOk h
      · rename_i u eu
        have hu := memOk_of_some (State.gather_memOk h) eu
        exact State.modReq_memOk (State.replyTo_memOk hu)

/-! ### Home: Heat -/

theorem State.heatStep_memOk {s : State} {die ctx ia} (h : s.MemOk) : (s.heatStep die ctx ia).MemOk := by
  unfold State.heatStep
  extract_lets
  split
  · exact State.modMd_memOk h
  · split
    · exact State.modMd_memOk (State.message_memOk (State.modMd_memOk h))
    · exact State.modMd_memOk h

/-! ### Home: Compression -/

theorem State.recompress_memOk {s : State} {ctx die block ia} (h : s.MemOk) : OptionMemOk (s.recompress ctx die block ia) := by
  unfold State.recompress
  refine optionMemOk_map_pair (State.fitBlock_optionMemOk h) fun _ ht => ?_
  split
  · exact ht
  · exact State.memRecord_memOk ht
theorem State.noteRefused_memOk {s : State} {home ctx ia} (h : s.MemOk) : (s.noteRefused home ctx ia).MemOk :=
  State.memRecord_memOk (State.modMd_memOk h)
theorem execGranuleRelease_memOk {die block} {s : State} (h : s.MemOk) : OutcomeMemOk (execGranuleRelease die block s) := by
  unfold execGranuleRelease
  extract_lets
  split
  · exact .refused
  · split
    · exact .refused
    · exact .next (State.modMd_memOk h)

/-! ### Home: Reads -/

theorem State.grant_memOk {s : State} {iline} (h : s.MemOk) : (s.grant iline).1.MemOk :=
  State.modMd_memOk h
theorem State.fillL1_memOk {s : State} {src leaf alloc low iline} (h : s.MemOk) : (s.fillL1 src leaf alloc low iline).MemOk := by
  unfold State.fillL1
  split
  · exact h
  · extract_lets
    split
    · exact State.memOk_with (State.grant_memOk h)
    · exact State.grant_memOk h
theorem State.landReq_memOk {s : State} {r leaf bad} (h : s.MemOk) : (s.landReq r leaf bad).MemOk := by
  unfold State.landReq
  extract_lets
  split
  · exact State.modGroup_memOk h
  · split
    · exact h
    · split <;> exact State.hostAnswer_memOk h
  · exact State.modCopy_memOk h
  · exact State.modRange_memOk h
  · exact h
theorem State.engineBad_memOk {s : State} {r leaf} (h : s.MemOk) : (s.engineBad r leaf).MemOk := by
  unfold State.engineBad
  extract_lets bad
  clear_value bad
  split
  · exact State.modCopy_memOk h
  · exact State.modRange_memOk h
  · exact h
theorem State.performLoad_memOk {s : State} {home r leaf} (h : s.MemOk) : (s.performLoad home r leaf).MemOk := by
  unfold State.performLoad
  extract_lets _ _ _ _ _ s1 _ s3
  have hs1 : s1.MemOk := by
    unfold s1
    split
    · exact foldl_keeps State.MemOk _ _ _ (State.modMd_memOk h) fun _ _ ht => State.fillL1_memOk ht
    · exact State.modMd_memOk h
  have hs3 : s3.MemOk := by
    unfold s3
    split
    · exact State.replied_memOk (State.engineBad_memOk (State.landReq_memOk hs1))
    · exact State.failReq_memOk (State.replied_memOk (State.engineBad_memOk (State.landReq_memOk hs1)))
  split
  · exact State.replied_memOk (State.notNow_memOk h)
  · split
    · split
      · exact hs3
      · exact State.failReq_memOk hs3
    · exact hs3

/-! ### Home: Writes and atomics -/

theorem State.sendDelta_memOk {s : State} {d} (h : s.MemOk) : (s.sendDelta d).MemOk := by
  unfold State.sendDelta
  split
  · exact State.modMd_memOk h
  · exact State.modMd_memOk (State.message_memOk h)
theorem State.poisonSectors_memOk {s : State} {die ctx ia far pas} (h : s.MemOk) :
    (s.poisonSectors die ctx ia far pas).MemOk := by
  unfold State.poisonSectors
  extract_lets
  split
  · exact h
  · exact State.memRecord_memOk (State.modMd_memOk h)
theorem State.performStore_memOk {s : State} {home r leaf} (h : s.MemOk) : (s.performStore home r leaf).MemOk := by
  unfold State.performStore
  extract_lets _ _ _ _ _ _ _ _ s1 s2
  have hs1 : s1.MemOk := by
    unfold s1
    split
    · exact h
    · exact State.performWrite_memOk _ _ _ _ _ h
  have hs2 : s2.MemOk := by
    unfold s2
    split
    · exact State.poisonSectors_memOk hs1
    · exact hs1
  exact State.sendDelta_memOk hs2
theorem State.compressWrite_memOk {s : State} {home r leaf} (h : s.MemOk) : OptionMemOk (s.compressWrite home r leaf) := by
  unfold State.compressWrite
  extract_lets
  split
  · exact State.performStore_memOk h
  · split
    · exact State.recompress_memOk (State.performStore_memOk h)
    · exact trivial
theorem State.refuseWrite_memOk {s : State} {home r ia} (h : s.MemOk) : (s.refuseWrite home r ia).MemOk :=
  State.pend_memOk (State.noteRefused_memOk h)

/-! ### Home: Watches -/

theorem State.arm_memOk {s : State} {home r ia} (h : s.MemOk) : (s.arm home r ia).MemOk :=
  State.modMd_memOk h

/-! ### Home: The accepted request -/

theorem State.passOn_memOk {s : State} {home h} (hs : s.MemOk) : (s.passOn home h).MemOk := by
  unfold State.passOn
  extract_lets
  split
  · exact State.memOk_with (State.modMd_memOk (State.message_memOk hs))
  · exact State.modMd_memOk (State.message_memOk hs)
theorem State.openUnit_memOk {s : State} {home r leaf} (h : s.MemOk) : (s.openUnit home r leaf).MemOk := by
  unfold State.openUnit
  split
  · exact State.modMd_memOk h
  · exact h
theorem State.serveReq_memOk {s : State} {home r leaf} (h : s.MemOk) : (s.serveReq home r leaf).MemOk := by
  unfold State.serveReq
  extract_lets _ _ _ _ _ _ _ s2
  have hs2 : s2.MemOk := by
    unfold s2
    split
    · exact State.modMd_memOk h
    · exact State.replied_memOk (State.failReq_memOk (State.modMd_memOk h))
  split
  · exact State.replied_memOk (State.notNow_memOk (State.dropReq_memOk h))
  · split
    · exact State.pend_memOk h
    · split
      · split
        · exact State.retry_memOk h
        · exact State.arm_memOk (State.dropReq_memOk h)
      · split
        · exact State.passOn_memOk (State.dropReq_memOk h)
        · exact State.performLoad_memOk (State.dropReq_memOk h)
      · split
        · exact State.passOn_memOk (State.dropReq_memOk h)
        · exact State.performLoad_memOk (State.dropReq_memOk h)
      · exact State.openUnit_memOk (State.dropReq_memOk h)
      · exact State.openUnit_memOk (State.dropReq_memOk h)
      · split
        · exact State.dropReq_memOk hs2
        · split
          · exact State.passOn_memOk (State.dropReq_memOk hs2)
          · split
            · split
              · rename_i u eu
                have hu := memOk_of_some (State.compressWrite_memOk (State.dropReq_memOk hs2)) eu
                exact hu
              · exact State.refuseWrite_memOk (State.modReq_memOk (State.modMd_memOk hs2))
            · exact State.modMd_memOk (State.dropReq_memOk hs2)
theorem State.translateReq_memOk {s : State} {home r serve} (h : s.MemOk) (hserve : ∀ x0, (serve x0).MemOk) :
    (s.translateReq home r serve).MemOk := by
  unfold State.translateReq
  extract_lets
  split
  · exact State.pend_memOk h
  · split
    · exact hserve _
    · exact State.pend_memOk h
theorem State.lookAt_memOk {s : State} {home r serve} (h : s.MemOk) (hserve : ∀ x0, (serve x0).MemOk) :
    (s.lookAt home r serve).MemOk := by
  unfold State.lookAt
  extract_lets _ _ s1
  have hs1 : s1.MemOk := by
    unfold s1
    split
    · exact State.dropReq_memOk h
    · split
      · exact State.retry_memOk h
      · split
        · exact State.translateReq_memOk h (fun _ => hserve _)
        · split
          · exact State.heatStep_memOk (State.calmDelay_memOk (State.translateReq_memOk h (fun _ => hserve _)))
          · exact State.calmDelay_memOk (State.translateReq_memOk h (fun _ => hserve _))
  exact State.consume_memOk hs1
theorem State.acceptReq_memOk {s : State} {home r} (h : s.MemOk) : (s.acceptReq home r).MemOk :=
  State.lookAt_memOk h (fun _ => State.serveReq_memOk h)
theorem execHomeRequestAccept_memOk {home src} {s : State} (h : s.MemOk) : OutcomeMemOk (execHomeRequestAccept home src s) := by
  unfold execHomeRequestAccept
  split
  · exact .refused
  · exact .next (State.acceptReq_memOk h)
theorem State.sendAgain_memOk {s : State} {r ls} (h : s.MemOk) : (s.sendAgain r ls).MemOk := by
  unfold State.sendAgain
  split
  · exact State.dropReq_memOk h
  · exact State.modMd_memOk (foldl_keeps (fun r : State × _ => r.1.MemOk) _ _ _ (State.message_memOk h) fun _ _ ht =>
      State.modMd_memOk (State.message_memOk ht))
theorem State.resend_memOk {s : State} {r} (h : s.MemOk) : (s.resend r).MemOk :=
  State.sendAgain_memOk h
theorem State.reissue_memOk {s : State} {r} (h : s.MemOk) : (s.reissue r).MemOk :=
  State.sendAgain_memOk (foldl_keeps State.MemOk _ _ _ h fun _ _ ht => State.failReq_memOk ht)
theorem State.resendCell_memOk {s : State} {c} (h : s.MemOk) : (s.resendCell c).MemOk :=
  State.modMd_memOk (State.message_memOk h)
theorem execRetryResend_memOk {home src} {s : State} (h : s.MemOk) : OutcomeMemOk (execRetryResend home src s) := by
  unfold execRetryResend
  split
  · refine .next ?_
    split
    · exact State.resend_memOk h
    · exact State.resendCell_memOk h
  · exact .next (State.resend_memOk h)
  · exact .next (State.resendCell_memOk h)
  · exact .refused
theorem execHeldWritePerform_memOk {home} {s : State} (h : s.MemOk) : OutcomeMemOk (execHeldWritePerform home s) := by
  unfold execHeldWritePerform
  split
  · exact .refused
  · extract_lets
    split
    · rename_i u eu
      have hu := memOk_of_some (State.compressWrite_memOk (State.modMd_memOk h)) eu
      exact .next hu
    · split
      · exact .next (State.performStore_memOk (State.modMd_memOk h))
      · exact .next (State.refuseWrite_memOk (State.putReq_memOk (State.modMd_memOk h)))
theorem State.writeOverflows_memOk {s : State} (h : s.MemOk) : OutcomeMemOk s.writeOverflows := by
  unfold State.writeOverflows
  split
  · exact .refused
  · exact .next (State.memRecord_memOk (State.modMd_memOk h))

/-! ### Home: Parity and acknowledgements -/

theorem State.fitParity_memOk {s : State} {ctx die block} (h : s.MemOk) : (s.fitParity ctx die block).MemOk := by
  unfold State.fitParity
  split
  · rename_i u eu
    have hu := memOk_of_some_fst (State.fitBlock_optionMemOk h) eu
    split
    · exact hu
    · exact State.memRecord_memOk hu
  · exact h
theorem execParityDelta_memOk {die} {s : State} (h : s.MemOk) : OutcomeMemOk (execParityDelta die s) := by
  unfold execParityDelta
  split
  · exact .refused
  · extract_lets again f _ s0 s1 s2
    have hf : f.1.MemOk := State.message_memOk h
    have hs0 : s0.MemOk := ⟨ite_wf hf.1 (applyParity_wf hf.1), hf.2⟩
    have hs1 : s1.MemOk := State.modMd_memOk hs0
    clear_value s1
    have hs2 : s2.MemOk := by
      unfold s2
      split
      · exact State.fitParity_memOk hs1
      · exact hs1
    exact .next (State.consume_memOk hs2)
theorem execUioCompletion_memOk {s : State} (h : s.MemOk) : OutcomeMemOk (execUioCompletion s) := by
  unfold execUioCompletion
  extract_lets
  split
  · exact .refused
  · extract_lets
    refine .next ?_
    split
    · exact State.performLoad_memOk (State.memOk_with (State.modMd_memOk h))
    · exact State.performLoad_memOk (State.memOk_with (State.modMd_memOk h))
    · exact State.performStore_memOk (State.memOk_with (State.modMd_memOk h))
theorem execWriteClassDecay_memOk {line} {s : State} (h : s.MemOk) : OutcomeMemOk (execWriteClassDecay line s) := by
  unfold execWriteClassDecay
  extract_lets
  split
  · exact .refused
  · exact .next (State.modMd_memOk h)

/-! ### Xlate: The collapse stage -/

theorem State.walkReads_memOk {s : State} {pas} (h : s.MemOk) : (s.walkReads pas).1.MemOk :=
  foldl_keeps (fun r : State × _ => r.1.MemOk) _ _ _ h fun _ _ ht => State.message_memOk (State.message_memOk ht)
theorem State.collapse_memOk {s : State} {m} (h : s.MemOk) : OptionMemOk (s.collapse m) := by
  unfold State.collapse
  extract_lets
  split
  · exact State.modXl_memOk h
  · split
    · exact trivial
    · exact State.modXl_memOk (State.walkReads_memOk h)
theorem execMissRecord_memOk {s : State} (h : s.MemOk) : OutcomeMemOk (execMissRecord s) := by
  unfold execMissRecord
  split
  · exact .refused
  · extract_lets
    split
    · rename_i u eu
      have hu := memOk_of_some (State.collapse_memOk (State.modXl_memOk h)) eu
      exact .next hu
    · exact .next (State.modXl_memOk (State.message_memOk (State.modXl_memOk h)))
theorem execMissRecordResend_memOk {die page} {s : State} (h : s.MemOk) : OutcomeMemOk (execMissRecordResend die page s) := by
  unfold execMissRecordResend
  split
  · exact .refused
  · extract_lets
    split
    · rename_i u eu
      have hu := memOk_of_some (State.collapse_memOk (State.modXl_memOk (State.message_memOk h))) eu
      exact .next hu
    · exact .next (State.modXl_memOk (State.modXl_memOk (State.message_memOk h)))

/-! ### Xlate: Fills, wakes and answers -/

theorem State.fillPage_memOk {s : State} {page leaf} (h : s.MemOk) : (s.fillPage page leaf).MemOk :=
  foldl_keeps State.MemOk _ _ _ (State.modXl_memOk h) fun _ _ ht => State.modXl_memOk (State.message_memOk ht)
theorem State.answerPage_memOk {s : State} {die page final} (h : s.MemOk) : (s.answerPage die page final).MemOk := by
  unfold State.answerPage
  extract_lets
  split
  · exact h
  · exact foldl_keeps State.MemOk _ _ _ (State.modXl_memOk h) fun _ _ ht => State.modXl_memOk (State.message_memOk ht)
theorem execPageWalkDone_memOk {page} {s : State} (h : s.MemOk) : OutcomeMemOk (execPageWalkDone page s) := by
  unfold execPageWalkDone
  split
  · exact .refused
  · extract_lets
    split
    · exact .refused
    · split
      · split
        · exact .next (State.modXl_memOk h)
        · split
          · exact .next (State.fillPage_memOk h)
          · exact .next (State.modXl_memOk h)
      · exact .next (State.modXl_memOk h)
theorem State.cacheLeaf_memOk {s : State} {die page leaf} (h : s.MemOk) : (s.cacheLeaf die page leaf).MemOk :=
  State.memOk_with h
theorem execFillInstall_memOk {die} {s : State} (h : s.MemOk) : OutcomeMemOk (execFillInstall die s) := by
  unfold execFillInstall
  split
  · exact .refused
  · extract_lets _ s1
    have hs1 : s1.MemOk := by
      unfold s1
      split
      · exact State.cacheLeaf_memOk (State.modXl_memOk h)
      · exact State.modXl_memOk h
    exact .next (foldl_keeps State.MemOk _ _ _ hs1 fun _ _ ht => State.answerPage_memOk ht)
theorem State.freshShadow_memOk {s : State} {old new} (h : s.MemOk) : (s.freshShadow old new).MemOk := by
  unfold State.freshShadow
  extract_lets
  split
  · exact h
  · exact State.modMd_memOk h
theorem State.fwApply_memOk {s : State} (h : s.MemOk) : s.fwApply.MemOk :=
  State.modXl_memOk (foldl_keeps State.MemOk _ _ _ h fun _ _ ht => State.firmwareWrite_memOk (State.freshShadow_memOk ht))
theorem State.settle_memOk {s : State} {pages final} (h : s.MemOk) : (s.settle pages final).MemOk := by
  unfold State.settle
  refine foldl_keeps State.MemOk _ _ _ h fun t _ ht => ?_
  split
  · exact ht
  · exact foldl_keeps State.MemOk _ _ _ (State.modXl_memOk ht) fun _ _ ht1 => State.answerPage_memOk ht1
theorem State.ready_memOk {s : State} {page} (h : s.MemOk) : (s.ready page).MemOk := by
  unfold State.ready
  split
  · exact h
  · split
    · exact State.fillPage_memOk h
    · exact State.settle_memOk h
theorem execFaultReady_memOk {page} {s : State} (h : s.MemOk) : OutcomeMemOk (execFaultReady page s) := by
  unfold execFaultReady
  split
  · split
    · exact .refused
    · exact .next (State.ready_memOk (State.fwApply_memOk h))
  · exact .refused
theorem execFaultFinal_memOk {page types} {s : State} (h : s.MemOk) : OutcomeMemOk (execFaultFinal page types s) := by
  unfold execFaultFinal
  split
  · split
    · exact .refused
    · exact .next (State.settle_memOk h)
  · exact .refused

/-! ### Xlate: Invalidation -/

theorem State.dropRange_memOk {s : State} {die lo hi} (h : s.MemOk) : (s.dropRange die lo hi).MemOk :=
  State.modXl_memOk h
theorem State.invalidate_memOk {s : State} {lo hi} (h : s.MemOk) : (s.invalidate lo hi).MemOk :=
  State.modXl_memOk (foldl_keeps (fun r : State × _ => r.1.MemOk) _ _ _ h fun _ _ ht => State.message_memOk ht)
theorem State.invalStep_memOk {s : State} {v} (h : s.MemOk) : OptionMemOk (s.invalStep v) := by
  unfold State.invalStep
  extract_lets
  split
  · exact State.modXl_memOk (State.dropRange_memOk h)
  · split
    · exact State.modXl_memOk (State.message_memOk h)
    · split
      · exact State.modXl_memOk h
      · exact trivial
theorem execTlbInvalidation_memOk {lo hi} {s : State} (h : s.MemOk) : OutcomeMemOk (execTlbInvalidation lo hi s) := by
  unfold execTlbInvalidation
  split
  · exact .next (State.invalidate_memOk (State.fwApply_memOk h))
  · split
    · rename_i u eu
      have hu := memOk_of_some (State.invalStep_memOk h) eu
      exact .next hu
    · exact .refused
theorem execPendingReply_memOk {s : State} (h : s.MemOk) : OutcomeMemOk (execPendingReply s) := by
  unfold execPendingReply
  split
  · exact .refused
  · exact .next (State.modXl_memOk h)

/-! ### Xlate: Migration -/

theorem State.writeEntry_memOk {s : State} {at_ e} (h : s.MemOk) : (s.writeEntry at_ e).MemOk :=
  State.fwApply_memOk (State.modXl_memOk h)
theorem State.moveUnit_memOk {s : State} {old new ia} (h : s.MemOk) : OptionMemOk ((s.moveUnit old new ia).map Prod.fst) := by
  unfold State.moveUnit
  extract_lets src dst bad w keyed d s1 s2 s3
  have hkeyed : keyed.MemOk := by
    unfold keyed
    split
    · exact h
    · exact foldl_keeps State.MemOk _ _ _ h fun _ _ ht => State.rekey_memOk _ _ _ ht
  clear_value keyed w
  have hs1 : s1.MemOk := by
    unfold s1
    split
    · exact ⟨hkeyed.1, foldl_keeps (fun m => SMap.wf (0 : BitVec 8) m = true) _ _ _ h.2 fun _ _ hm => SMap.wf_set _ _ _ _ hm⟩
    · exact ⟨Memory.wf_writeAll _ _ hkeyed.1, hkeyed.2⟩
  have hs3 : s3.MemOk := State.sendDelta_memOk hs1
  rw [Option.map_map]
  refine optionMemOk_map_state ?_ fun _ ht => ht
  split
  · exact State.recompress_memOk hs3
  · exact hs3
theorem State.migRecord_memOk {s : State} {m type cnt mask ia} (h : s.MemOk) : (s.migRecord m type cnt mask ia).MemOk :=
  State.logRecord_memOk h
theorem State.invalidatePage_memOk {s : State} {m} (h : s.MemOk) : (s.invalidatePage m).MemOk :=
  State.invalidate_memOk h
theorem State.endMigration_memOk {s : State} {m} (h : s.MemOk) : (s.endMigration m).MemOk :=
  foldl_keeps State.MemOk _ _ _ (State.modXl_memOk h) fun _ _ ht => State.ready_memOk ht
theorem State.migrate_memOk {s : State} {m} (h : s.MemOk) : OptionMemOk (s.migrate m) := by
  unfold State.migrate
  extract_lets _ _ abort
  have habort : abort.MemOk := by
    refine State.modXl_memOk ?_
    split
    · exact State.invalidatePage_memOk (State.writeEntry_memOk h)
    · exact State.writeEntry_memOk h
  split
  · exact trivial
  · split
    · exact State.modXl_memOk h
    · split
      · split
        · exact habort
        · split
          · split
            · exact State.modXl_memOk (State.message_memOk h)
            · split
              · exact trivial
              · split
                · exact habort
                · rename_i u eu
                  have hu := memOk_of_some_fst (State.moveUnit_memOk h) eu
                  exact State.modXl_memOk hu
          · refine State.modXl_memOk ?_
            split
            · exact State.invalidatePage_memOk (State.memOk_with (foldl_keeps State.MemOk _ _ _ (State.writeEntry_memOk h) fun _ _
                ht => State.migRecord_memOk ht))
            · exact State.memOk_with (foldl_keeps State.MemOk _ _ _ (State.writeEntry_memOk h) fun _ _ ht => State.migRecord_memOk
                ht)
      · split
        · exact State.endMigration_memOk h
        · exact State.endMigration_memOk (State.migRecord_memOk h)
theorem execMigration_memOk {page newFrame far abortAt} {s : State} (h : s.MemOk) :
    OutcomeMemOk (execMigration page newFrame far abortAt s) := by
  unfold execMigration
  split
  · split
    · rename_i u eu
      have hu := memOk_of_some (by
        split
        · exact State.migrate_memOk h
        · exact trivial
      ) eu
      exact .next hu
    · exact .refused
  · extract_lets
    split
    · exact .refused
    · refine .next ?_
      split
      · exact State.invalidatePage_memOk (State.writeEntry_memOk (State.modXl_memOk h))
      · exact State.modXl_memOk h

/-! ### Copy: Fetches and the signal box at homes -/

theorem State.engineAt_memOk {s : State} {e ctx ia t} (h : s.MemOk) : (s.engineAt e ctx ia t).1.MemOk := by
  unfold State.engineAt
  extract_lets _ _ _ _ miss
  have hmiss : ∀ x0 x1, (miss x0 x1).1.MemOk := by
    intro _ _
    unfold miss
    split
    · exact State.bumpDelay_memOk (State.modMd_memOk (State.message_memOk (State.modMd_memOk (State.message_memOk h))))
    · rename_i u eu
      have hu := memOk_of_some (State.gather_memOk (State.modMd_memOk (State.message_memOk h))) eu
      exact State.calmDelay_memOk (State.message_memOk hu)
  split
  · exact h
  · split
    · exact State.bumpDelay_memOk (State.modMd_memOk (State.message_memOk (State.modMd_memOk (State.message_memOk h))))
    · split
      · exact hmiss _ _
      · split
        · exact hmiss _ _
        · split
          · exact hmiss _ _
          · exact State.calmDelay_memOk (State.message_memOk (State.modMd_memOk (State.message_memOk h)))

/-! ### Copy: Stopping and cancelling -/

theorem State.arriveRest_memOk {s : State} {bid b cs} (h : s.MemOk) : (s.arriveRest bid b cs).MemOk := by
  unfold State.arriveRest
  split
  · exact h
  · refine foldl_keeps State.MemOk _ _ _ h fun t _ ht => ?_
    extract_lets
    split
    · exact ht
    · exact State.engineArrive_memOk ht
theorem State.dropCopy_memOk {s : State} {bid key f} (h : s.MemOk) : (s.dropCopy bid key f).MemOk :=
  State.modMd_memOk h
theorem State.removeCmd_memOk {s : State} {bid key} (h : s.MemOk) : (s.removeCmd bid key).MemOk :=
  State.dropCopy_memOk (State.modBlock_memOk h)
theorem State.stopCopy_memOk {s : State} {bid c u cause reason va ia} (h : s.MemOk) :
    (s.stopCopy bid c u cause reason va ia).MemOk := by
  unfold State.stopCopy
  split
  · exact h
  · exact State.lateFault_memOk (State.removeCmd_memOk (State.arriveRest_memOk h))

/-! ### Copy: Issue and admission -/

theorem State.entryOn_memOk {s : State} {gid clause word ls} (h : s.MemOk) : (s.entryOn gid clause word ls).MemOk :=
  State.modGroup_memOk h
theorem State.refuseCopy_memOk {s : State} {bid c off cause} (h : s.MemOk) : (s.refuseCopy bid c off cause).MemOk :=
  State.modGroup_memOk (State.removeCmd_memOk h)
theorem State.admitCopy_memOk {s : State} {bid c} (h : s.MemOk) : (s.admitCopy bid c).MemOk := by
  unfold State.admitCopy
  split
  · exact h
  · split
    · exact State.removeCmd_memOk h
    · split
      · exact State.refuseCopy_memOk h
      · extract_lets _ _ s2
        have hs2 : s2.MemOk := by
          unfold s2
          split
          · exact State.modBlock_memOk (State.modBlock_memOk h)
          · exact State.modBlock_memOk h
        exact State.entryOn_memOk hs2
theorem execCopyAdmit_memOk {core} {s : State} (h : s.MemOk) : OutcomeMemOk (execCopyAdmit core s) := by
  unfold execCopyAdmit
  split
  · exact .refused
  · exact .next (State.admitCopy_memOk h)
theorem State.mapFault_memOk {s : State} {bid c cause reason ia issued} (h : s.MemOk) :
    (s.mapFault bid c cause reason ia issued).MemOk := by
  unfold State.mapFault
  split
  · exact h
  · split
    · exact State.removeCmd_memOk h
    · split
      · exact State.refuseCopy_memOk h
      · extract_lets _ _ _ s2
        have hs2 : s2.MemOk := by
          unfold s2
          split
          · exact State.entryOn_memOk (State.removeCmd_memOk h)
          · exact State.removeCmd_memOk h
        exact State.raise_memOk hs2
theorem State.copySend_memOk {s : State} {bid b c u kind width ls} (h : s.MemOk) : (s.copySend bid b c u kind width ls).MemOk :=
  State.modCopy_memOk (State.requestAll_memOk h)
theorem State.readMap_memOk {s : State} {bid c} (h : s.MemOk) : (s.readMap bid c).MemOk := by
  unfold State.readMap
  -- the kernel would run the translation of this one address: it is kept as a variable
  obtain ⟨lanes, hlanes⟩ : ∃ f, f = Context.engineLanes := ⟨_, rfl⟩
  rw [← hlanes]
  split
  · exact h
  · split
    · exact State.modCopy_memOk h
    · split
      · exact h
      · split
        · split
          · exact State.mapFault_memOk h
          · exact State.stopCopy_memOk h
        · exact State.copySend_memOk h
theorem State.copyWord_memOk {s : State} {i g kind rec slot mask mode} (h : s.MemOk) :
    OutcomeMemOk (s.copyWord i g kind rec slot mask mode) := by
  unfold State.copyWord
  refine State.word_memOk h ?_
  intro _ _ ht
  split
  · exact State.goOn_memOk ht
  · refine State.lateGate_memOk ht ?_
    intro _ _ ht1
    extract_lets _ mine
    clear_value mine
    split
    · split
      · exact State.offAll_memOk (State.modGroup_memOk ht1)
      · exact State.readMap_memOk (State.modBlock_memOk (State.modGroup_memOk ht1))
    · split
      · split
        · exact State.readMap_memOk ht1
        · exact ht1
      · split
        · split
          · exact State.admitCopy_memOk ht1
          · exact ht1
        · exact ht1

/-! ### Copy: Units -/

theorem State.unitStart_memOk {s : State} {bid b cx c u} (h : s.MemOk) : (s.unitStart bid b cx c u).MemOk := by
  unfold State.unitStart
  split
  · exact State.stopCopy_memOk h
  · exact State.copySend_memOk (State.memOk_with h)
theorem State.readList_memOk {s : State} {bid b cx c} (h : s.MemOk) : (s.readList bid b cx c).MemOk := by
  unfold State.readList
  split
  · exact State.stopCopy_memOk h
  · exact State.copySend_memOk h

/-! ### Copy: Delivery -/

theorem State.unitDone_memOk {s : State} {bid c ds u} (h : s.MemOk) : (s.unitDone bid c ds u).MemOk :=
  State.modBlock_memOk (foldl_keeps State.MemOk _ _ _ h fun _ _ ht => State.engineArrive_memOk ht)
theorem State.unitLand_memOk {s : State} {bid b c u} (h : s.MemOk) : (s.unitLand bid b c u).MemOk :=
  State.unitDone_memOk (foldl_keeps State.MemOk _ _ _ h fun _ _ ht => State.modBlock_memOk ht)
theorem State.listIn_memOk {s : State} {bid c list} (h : s.MemOk) : (s.listIn bid c list).MemOk := by
  unfold State.listIn
  extract_lets
  split
  · exact State.modBlock_memOk (State.modBlock_memOk h)
  · exact State.modBlock_memOk h
theorem State.copyFault_memOk {s : State} {bid c f} (h : s.MemOk) : (s.copyFault bid c f).MemOk := by
  unfold State.copyFault
  split
  · exact State.mapFault_memOk h
  · exact State.stopCopy_memOk h
theorem State.copyTake_memOk {s : State} {bid b c u} (h : s.MemOk) : (s.copyTake bid b c u).MemOk := by
  unfold State.copyTake
  split
  · exact State.copyFault_memOk h
  · extract_lets
    split
    · exact State.modCopy_memOk (State.modCopy_memOk h)
    · split
      · exact State.listIn_memOk (State.modCopy_memOk h)
      · split
        · exact State.unitDone_memOk (State.modCopy_memOk h)
        · exact State.unitLand_memOk (State.modCopy_memOk h)
theorem State.copyUnit_memOk {s : State} {bid b c u} (h : s.MemOk) : OptionMemOk (s.copyUnit bid b c u) := by
  unfold State.copyUnit
  split
  · exact State.copyTake_memOk h
  · split
    · exact trivial
    · split
      · exact trivial
      · split
        · exact State.readMap_memOk h
        · split
          · exact State.readList_memOk h
          · split
            · exact trivial
            · split
              · exact trivial
              · exact State.unitStart_memOk h
theorem execCopyUnitDeliver_memOk {bid cmd unit} {s : State} (h : s.MemOk) :
    OutcomeMemOk (execCopyUnitDeliver bid cmd unit s) := by
  unfold execCopyUnitDeliver
  split
  · exact .refused
  · split
    · rename_i u eu
      have hu := memOk_of_some (optionMemOk_bind fun _ => State.copyUnit_memOk h) eu
      exact .next hu
    · exact .refused

/-! ### Copy: Cancelling -/

theorem State.blurPad_memOk {s : State} {bid o n} (h : s.MemOk) : (s.blurPad bid o n).MemOk :=
  State.memOk_with (State.modBlock_memOk h)
theorem State.blurMemory_memOk {s : State} {ctx va n} (h : s.MemOk) : (s.blurMemory ctx va n).MemOk := by
  unfold State.blurMemory
  extract_lets
  split
  · exact h
  · split
    · exact h
    · exact State.deviceWrite_memOk _ _ _ _ _ _ (State.memOk_with h)
theorem State.blur_memOk {s : State} {bid b c} (h : s.MemOk) : (s.blur bid b c).MemOk := by
  unfold State.blur
  split
  · exact foldl_keeps State.MemOk _ _ _ h fun _ _ ht => State.blurMemory_memOk ht
  · exact foldl_keeps State.MemOk _ _ _ h fun _ _ ht => foldl_keeps State.MemOk _ _ _ ht fun _ _ ht1 => State.blurPad_memOk ht1
theorem State.cancelCopy_memOk {s : State} {bid c} (h : s.MemOk) : (s.cancelCopy bid c).MemOk := by
  unfold State.cancelCopy
  extract_lets
  split
  · exact State.lateFault_memOk (State.dropCopy_memOk (State.dropCopy_memOk (State.modBlock_memOk h)))
  · split
    · exact State.modBlock_memOk (State.dropCopy_memOk (State.modBlock_memOk h))
    · exact State.dropCopy_memOk (State.modBlock_memOk h)
theorem execCpyx_memOk {g slot} {s : State} (h : s.MemOk) : OutcomeMemOk (execCpyx g slot s) := by
  unfold execCpyx
  refine State.word_memOk h ?_
  intro _ _ ht
  split
  · exact State.goOn_memOk ht
  · extract_lets
    split
    · exact State.goOn_memOk ht
    · exact State.goOn_memOk (foldl_keeps State.MemOk _ _ _ (State.arriveRest_memOk (foldl_keeps State.MemOk _ _ _ ht fun _ _ ht1
        => State.blur_memOk ht1)) fun _ _ ht1 => State.cancelCopy_memOk ht1)

/-! ### Copy: Wakes and final answers -/

theorem State.copySettle_memOk {s : State} {bid key} (h : s.MemOk) : (s.copySettle bid key).MemOk := by
  unfold State.copySettle
  split
  · exact h
  · split
    · split
      · exact State.copyFault_memOk h
      · exact h
    · split
      · exact State.lateFault_memOk (State.dropCopy_memOk (State.modBlock_memOk h))
      · exact h
    · exact h
theorem State.layGhost_memOk {s : State} {r} (h : s.MemOk) : (s.layGhost r).MemOk := by
  unfold State.layGhost
  extract_lets
  split
  · split
    · exact State.dropReq_memOk h
    · exact State.modBlock_memOk (State.dropReq_memOk h)
  · exact State.dropReq_memOk h

end Sys2Proof.Machine
end
section
/-! Every step keeps the canonical form of memory: matrices, MEMOPs and replies. -/

namespace Sys2Proof.Machine

/-! ### Matrix: Tiles -/

theorem State.configure_memOk {s : State} {is tile n first} (h : s.MemOk) : (s.configure is tile n first).MemOk := by
  unfold State.configure
  extract_lets used
  clear_value used
  split
  · split
    · exact State.goOn_memOk h
    · split
      · exact h
      · exact State.goOn_memOk (State.modBlock_memOk h)
  · split
    · exact State.offAll_memOk h
    · split
      · exact State.offAll_memOk h
      · exact State.goOn_memOk (State.modBlock_memOk h)
theorem execAcfg_memOk {g tile n first} {s : State} (h : s.MemOk) : OutcomeMemOk (execAcfg g tile n first s) :=
  State.word_memOk h (fun _ _ ht => State.configure_memOk ht)
theorem execAfence_memOk {g} {s : State} (h : s.MemOk) : OutcomeMemOk (execAfence g s) :=
  State.word_memOk h (fun _ _ ht => State.goOn_memOk (State.modGroup_memOk (State.modBlock_memOk ht)))

/-! ### Matrix: MMA and MMAS at issue -/

theorem State.mmaStart_memOk {s : State} {is i w k ch bt d} (h : s.MemOk) : (s.mmaStart is i w k ch bt d).MemOk :=
  State.memOk_with (State.modGroup_memOk (State.modBlock_memOk h))
theorem State.mmaIssue_memOk {s : State} {is i} (h : s.MemOk) : (s.mmaIssue is i).MemOk := by
  unfold State.mmaIssue
  split
  · exact h
  · extract_lets _ _ go _ r
    have hgo : ∀ x0 t, t.MemOk → (go x0 t).MemOk := by
      intro _ t ht
      unfold go
      split
      · exact State.offAll_memOk ht
      · extract_lets
        split
        · exact State.offAll_memOk ht
        · exact State.mmaStart_memOk ht
    have hr : r.1.MemOk := by
      unfold r
      split
      · exact h
      · exact State.faultAt_memOk h
    split
    · exact State.illegal_memOk h
    · split
      · exact hgo _ _ h
      · split
        · exact hr
        · split
          · exact hr
          · split
            · exact State.goOn_memOk hr
            · exact hgo _ _ hr
theorem execMma_memOk {g at_ tile ver reuse a bmap mode slot} {s : State} (h : s.MemOk) :
    OutcomeMemOk (execMma g at_ tile ver reuse a bmap mode slot s) :=
  State.word_memOk h (fun _ _ ht => State.mmaIssue_memOk ht)
theorem execMmas_memOk {g at_ tile ver reuse a bmap mode slot} {s : State} (h : s.MemOk) :
    OutcomeMemOk (execMmas g at_ tile ver reuse a bmap mode slot s) :=
  State.word_memOk h (fun _ _ ht => State.mmaIssue_memOk ht)

/-! ### Matrix: Chunks -/

theorem execMmaChunkEnd_memOk {gid} {s : State} (h : s.MemOk) : OutcomeMemOk (execMmaChunkEnd gid s) := by
  unfold execMmaChunkEnd
  split
  · exact .refused
  · split
    · exact .refused
    · split
      · exact .refused
      · split
        · exact .refused
        · extract_lets
          split <;> exact .next (State.modGroup_memOk (State.memOk_with (State.setBlock_memOk h)))
theorem State.tileDone_memOk {s : State} {gid tile writes slot rows} (h : s.MemOk) :
    (s.tileDone gid tile writes slot rows).MemOk := by
  unfold State.tileDone
  split
  · exact h
  · extract_lets s1
    have hs1 : s1.MemOk := by
      unfold s1
      split
      · exact State.modBlock_memOk h
      · exact h
    split
    · exact hs1
    · split
      · exact hs1
      · exact State.engineArrive_memOk hs1
theorem execMmaComplete_memOk {gid} {s : State} (h : s.MemOk) : OutcomeMemOk (execMmaComplete gid s) := by
  unfold execMmaComplete
  split
  · exact .refused
  · split
    · exact .refused
    · split
      · exact .refused
      · exact .next (State.entryOn_memOk (State.tileDone_memOk (State.modGroup_memOk h)))
theorem execMmaResume_memOk {gid} {s : State} (h : s.MemOk) : OutcomeMemOk (execMmaResume gid s) := by
  unfold execMmaResume
  split
  · exact .refused
  · split
    · exact .refused
    · split
      · exact .refused
      · extract_lets
        split
        · exact .refused
        · exact .next (State.memOk_with (State.modGroup_memOk h))

/-! ### Matrix: Tile rows -/

theorem State.tileWord_memOk {s : State} {i g tile cols map reg} (h : s.MemOk) :
    OutcomeMemOk (s.tileWord i g tile cols map reg) := by
  unfold State.tileWord
  refine State.word_memOk h ?_
  intro _ _ ht
  split
  · exact State.offAll_memOk ht
  · extract_lets
    split
    · exact State.offAll_memOk ht
    · split
      · exact State.offAll_memOk ht
      · exact State.modGroup_memOk ht
theorem State.tileEffect_memOk {s : State} {gid bid g t x i} (h : s.MemOk) : (s.tileEffect gid bid g t x i).MemOk := by
  unfold State.tileEffect
  extract_lets
  split
  · exact State.modBlock_memOk h
  · exact State.modBlock_memOk h
  · exact State.modGroup_memOk (State.modBlock_memOk h)
  · split
    · exact h
    · exact State.setGroup_memOk h
  · exact State.modBlock_memOk h
  · exact h
theorem execTileWordComplete_memOk {gid} {s : State} (h : s.MemOk) : OutcomeMemOk (execTileWordComplete gid s) := by
  unfold execTileWordComplete
  split
  · exact .refused
  · split
    · split
      · exact .refused
      · exact .next (State.entryOn_memOk (State.tileDone_memOk (State.modGroup_memOk (State.tileEffect_memOk h))))
    · exact .refused

/-! ### Memop: Cells -/

theorem State.setCell_memOk {s : State} {c x} (h : s.MemOk) : (s.setCell c x).MemOk := by
  unfold State.setCell
  split <;> exact State.modMd_memOk h
theorem State.memopArrive_memOk {s : State} {home id bytes} (h : s.MemOk) : (s.memopArrive home id bytes).MemOk := by
  unfold State.memopArrive
  split
  · exact h
  · extract_lets s1
    have hs1 : s1.MemOk := by
      unfold s1
      split
      · exact State.modMd_memOk h
      · exact h
    exact State.arriveFrom_memOk hs1
theorem State.cellAnswer_memOk {s : State} {r v} (h : s.MemOk) : (s.cellAnswer r v).MemOk := by
  unfold State.cellAnswer
  extract_lets
  split
  · extract_lets
    split <;> exact State.modGroup_memOk (State.modGroup_memOk (State.message_memOk h))
  · exact State.modCore_memOk (State.message_memOk h)
  · exact State.modRange_memOk (State.message_memOk h)
  · exact h
theorem State.performCell_memOk {s : State} {die r} (h : s.MemOk) : (s.performCell die r).MemOk := by
  unfold State.performCell
  split
  · exact State.cellAnswer_memOk h
  · extract_lets
    split
    · exact State.modMd_memOk (State.message_memOk (State.setCell_memOk h))
    · split
      · exact State.modMd_memOk (State.setCell_memOk h)
      · exact State.cellAnswer_memOk (State.setCell_memOk h)
theorem execCellOperation_memOk {die} {s : State} (h : s.MemOk) : OutcomeMemOk (execCellOperation die s) := by
  unfold execCellOperation
  split
  · exact .refused
  · extract_lets _ _ s2
    have hs2 : s2.MemOk := by
      unfold s2
      split
      · exact State.modMd_memOk h
      · split
        · exact State.bumpDelay_memOk (State.modMd_memOk (State.message_memOk h))
        · exact State.calmDelay_memOk (State.performCell_memOk (State.modMd_memOk h))
    exact .next (State.consume_memOk hs2)
theorem State.drainReads_memOk {s : State} {cell} (h : s.MemOk) : (s.drainReads cell).MemOk :=
  foldl_keeps State.MemOk _ _ _ h fun _ _ ht => State.cellAnswer_memOk (State.modMd_memOk ht)
theorem State.mirrorAcked_memOk {s : State} {u} (h : s.MemOk) : (s.mirrorAcked u).MemOk :=
  State.drainReads_memOk (State.cellAnswer_memOk (State.modMd_memOk h))
theorem State.mirrorApplies_memOk {s : State} {die u} (h : s.MemOk) : (s.mirrorApplies die u).MemOk :=
  State.modMd_memOk (State.message_memOk h)
theorem execCellMirrorUpdate_memOk {die} {s : State} (h : s.MemOk) : OutcomeMemOk (execCellMirrorUpdate die s) := by
  unfold execCellMirrorUpdate
  split
  · exact .next (State.mirrorAcked_memOk h)
  · split
    · exact .refused
    · exact .next (State.mirrorApplies_memOk h)

/-! ### Memop: MEMOP at issue -/

theorem State.memopWord_memOk {s : State} {i g kind ty rec slot} (h : s.MemOk) :
    OutcomeMemOk (s.memopWord i g kind ty rec slot) := by
  unfold State.memopWord
  refine State.word_memOk h ?_
  intro _ _ ht
  split
  · exact State.goOn_memOk ht
  · refine State.lateGate_memOk ht ?_
    intro _ _ ht1
    extract_lets
    split
    · exact h
    · split
      · exact State.offAll_memOk ht1
      · split
        · exact State.offAll_memOk ht1
        · split
          · exact State.offAll_memOk ht1
          · split
            · exact State.goOn_memOk ht1
            · extract_lets
              split
              · exact State.addrFaults_memOk ht1 (fun _ _ ht2 => State.goOn_memOk ht2)
              · exact State.goOn_memOk (State.modMd_memOk ht1)

/-! ### Memop: Units -/

theorem State.memopDone_memOk {s : State} {home m va bytes} (h : s.MemOk) : (s.memopDone home m va bytes).MemOk :=
  State.memopArrive_memOk (State.modMd_memOk h)
theorem State.memopSettle_memOk {s : State} {home id} (h : s.MemOk) : (s.memopSettle home id).MemOk := by
  unfold State.memopSettle
  split
  · exact h
  · refine foldl_keeps State.MemOk _ _ _ h fun t _ ht => ?_
    split
    · exact ht
    · exact State.lateFault_memOk (State.memopDone_memOk ht)
theorem State.memopUpdates_memOk {s : State} {home m u} (h : s.MemOk) : (s.memopUpdates home m u).MemOk := by
  unfold State.memopUpdates
  extract_lets
  split
  · exact foldl_keeps State.MemOk _ _ _ (State.modRange_memOk (State.modMd_memOk h)) fun _ _ ht => State.passOn_memOk ht
  · exact State.modMd_memOk (State.modRange_memOk (State.modMd_memOk h))
theorem State.memopSources_memOk {s : State} {home m cx u} (h : s.MemOk) : (s.memopSources home m cx u).MemOk := by
  unfold State.memopSources
  extract_lets
  split
  · exact State.memopSettle_memOk (State.rangeFails_memOk h)
  · exact State.requestAll_memOk (State.modRange_memOk h)
theorem State.memopPartial_memOk {s : State} {home m u} (h : s.MemOk) : (s.memopPartial home m u).MemOk := by
  unfold State.memopPartial
  extract_lets _ _ _ _ _ _ s1
  have hs1 : s1.MemOk := by
    unfold s1
    split
    · exact h
    · exact State.memRecord_memOk h
  exact State.cellRequest_memOk (State.modRange_memOk hs1)
theorem State.memopFinish_memOk {s : State} {home m u} (h : s.MemOk) : (s.memopFinish home m u).MemOk := by
  unfold State.memopFinish
  extract_lets
  split
  · exact State.lateFault_memOk (State.memopDone_memOk h)
  · exact State.memopDone_memOk h
theorem State.memopStep_memOk {s : State} {home m cx u} (h : s.MemOk) : OptionMemOk (s.memopStep home m cx u) := by
  unfold State.memopStep
  split
  · exact trivial
  · split
    · split
      · exact State.memopPartial_memOk h
      · split
        · exact State.memopUpdates_memOk h
        · exact State.memopSources_memOk h
    · split
      · exact trivial
      · split
        · exact State.memopUpdates_memOk h
        · exact State.memopFinish_memOk h
theorem State.memopAsk_memOk {s : State} {home m cx u} (h : s.MemOk) : OptionMemOk (s.memopAsk home m cx u) := by
  unfold State.memopAsk
  split
  · exact State.memopSettle_memOk (State.rangeFails_memOk h)
  · split
    · exact trivial
    · exact State.request_memOk (State.modMd_memOk h)
theorem State.memopNext_memOk {s : State} {home m cx} (h : s.MemOk) : OptionMemOk (s.memopNext home m cx) :=
  optionMemOk_or (optionMemOk_findSome fun _ => State.memopStep_memOk h) (optionMemOk_findSome fun _ => State.memopAsk_memOk h)
theorem execMemopUnit_memOk {home} {s : State} (h : s.MemOk) : OutcomeMemOk (execMemopUnit home s) := by
  unfold execMemopUnit
  split
  · rename_i u eu
    have hu := memOk_of_some (optionMemOk_findSome fun _ => optionMemOk_bind fun _ => State.memopNext_memOk h) eu
    exact .next hu
  · exact .refused

/-! ### Replies: Host accesses -/

theorem State.hostSend_memOk {s : State} {r pieces data} (h : s.MemOk) : (s.hostSend r pieces data).MemOk :=
  foldl_keeps State.MemOk _ _ _ (State.memOk_with h) fun _ _ ht => State.request_memOk ht
theorem State.hostPump_memOk {n} {s : State} {f} (h : s.MemOk) : (State.hostPump n s f).MemOk := by
  induction n generalizing s with
  | zero => exact h
  | succ n ih =>
    unfold State.hostPump
    split
    · exact h
    · extract_lets
      split
      · exact h
      · exact ih (state_ite_memOk (State.memOk_with (State.modFunc_memOk h)) (State.hostSend_memOk (State.modFunc_memOk h)))
theorem State.pumpHost_memOk {s : State} {f} (h : s.MemOk) : (s.pumpHost f).MemOk :=
  State.hostPump_memOk h
theorem State.hostDone_memOk {s : State} {id fail} (h : s.MemOk) : (s.hostDone id fail).MemOk := by
  unfold State.hostDone
  split
  · exact h
  · exact State.pumpHost_memOk (State.hostAnswer_memOk h)
theorem State.hostMiss_memOk {s : State} {r} (h : s.MemOk) : (s.hostMiss r).MemOk := by
  unfold State.hostMiss
  split
  · exact h
  · exact State.memOk_with h
theorem State.hostRing_memOk {s : State} {r} (h : s.MemOk) : (s.hostRing r).MemOk := by
  unfold State.hostRing
  split
  · exact State.memOk_with h
  · split
    · exact State.memOk_with h
    · exact State.pumpHost_memOk (State.modFunc_memOk h)
theorem State.hostTable_memOk {s : State} {r} (h : s.MemOk) : (s.hostTable r).MemOk := by
  unfold State.hostTable
  split
  · exact State.tableWrite_memOk h
  · exact State.memOk_with h
theorem execHostMemoryAccess_memOk {r} {s : State} (h : s.MemOk) : OutcomeMemOk (execHostMemoryAccess r s) := by
  unfold execHostMemoryAccess
  extract_lets
  split
  · exact .refused
  · split
    · refine .next ?_
      split
      · exact h
      · split
        · exact State.hostMiss_memOk h
        · exact State.memOk_with h
    · split
      · exact .next (State.hostMiss_memOk h)
      · split
        · exact .next (State.hostTable_memOk h)
        · split
          · exact .next (State.hostMiss_memOk h)
          · split
            · exact .next (State.hostRing_memOk h)
            · split
              · split
                · exact .next (State.hostMiss_memOk h)
                · split
                  · exact .next (foldl_keeps State.MemOk _ _ _ h fun _ _ ht => State.hostSend_memOk ht)
                  · exact .next (State.pumpHost_memOk (State.modFunc_memOk h))
              · split
                · exact .next (State.hostMiss_memOk h)
                · exact .next (State.hostSend_memOk h)
theorem State.dropHost_memOk {s : State} {id} (h : s.MemOk) : (s.dropHost id).MemOk :=
  State.modMd_memOk h
theorem execHostFaultTimeout_memOk {s : State} (h : s.MemOk) : OutcomeMemOk (execHostFaultTimeout s) := by
  unfold execHostFaultTimeout
  split
  · exact .refused
  · exact .next (State.pumpHost_memOk (State.hostMiss_memOk (State.memOk_with (State.modXl_memOk (State.dropHost_memOk h)))))

/-! ### Replies: Acknowledgements of writes -/

theorem State.answerWrite_memOk {s : State} {d} (h : s.MemOk) : (s.answerWrite d).MemOk := by
  unfold State.answerWrite
  extract_lets
  split
  · extract_lets
    split
    · exact State.replied_memOk (State.modGroup_memOk h)
    · exact State.failReq_memOk (State.replied_memOk (State.modGroup_memOk h))
  · exact State.modCore_memOk (State.replyTo_memOk h)
  · exact State.hostAnswer_memOk h
  · refine State.replied_memOk ?_
    split
    · exact h
    · exact State.modCopy_memOk h
  · exact State.modRange_memOk (State.replied_memOk h)
  · exact h
theorem execParityAck_memOk {home} {s : State} (h : s.MemOk) : OutcomeMemOk (execParityAck home s) := by
  unfold execParityAck
  split
  · exact .refused
  · extract_lets
    refine .next ?_
    split
    · exact State.pumpHost_memOk (State.answerWrite_memOk (State.modMd_memOk h))
    · exact State.answerWrite_memOk (State.modMd_memOk h)
theorem State.performPeer_memOk {s : State} {c b} (h : s.MemOk) : (s.performPeer c b).MemOk :=
  State.modCore_memOk (foldl_keeps State.MemOk _ _ _ h fun _ _ ht => State.modBlock_memOk ht)
theorem execStoreAck_memOk {core} {s : State} (h : s.MemOk) : OutcomeMemOk (execStoreAck core s) := by
  unfold execStoreAck
  extract_lets
  split
  · extract_lets
    split
    · exact .next (State.setCore_memOk h)
    · extract_lets
      refine .next ?_
      split
      · exact State.dropStore_memOk (State.modGroup_memOk (State.setCore_memOk h))
      · exact State.lateFault_memOk (State.dropStore_memOk (State.dropStore_memOk (State.modGroup_memOk (State.setCore_memOk h))))
  · split
    · exact .next (State.performPeer_memOk h)
    · exact .refused

/-! ### Replies: Wakes and finals -/

theorem State.settleEngine_memOk {s : State} {r} (h : s.MemOk) : (s.settleEngine r).MemOk := by
  unfold State.settleEngine
  split
  · exact State.copySettle_memOk h
  · exact State.memopSettle_memOk h
  · exact h
theorem State.wakeReq_memOk {s : State} {r} (h : s.MemOk) : (s.wakeReq r).MemOk := by
  unfold State.wakeReq
  split
  · exact State.layGhost_memOk h
  · exact State.settleEngine_memOk (State.reissue_memOk h)
theorem State.wake_memOk {s : State} {a} (h : s.MemOk) : (s.wake a).MemOk := by
  unfold State.wake
  split
  · split
    · exact h
    · exact foldl_keeps State.MemOk _ _ _ h fun _ _ ht => State.reissue_memOk ht
  · exact h
  · exact foldl_keeps State.MemOk _ _ _ h fun _ _ ht => State.wakeReq_memOk ht
theorem execWakeReplay_memOk {s : State} (h : s.MemOk) : OutcomeMemOk (execWakeReplay s) := by
  unfold execWakeReplay
  split
  · exact .refused
  · exact .next (State.wake_memOk (State.modXl_memOk h))
theorem State.dropParts_memOk {s : State} {gid slot} (h : s.MemOk) : (s.dropParts gid slot).MemOk := by
  unfold State.dropParts
  split
  · split
    · exact State.modMd_memOk h
    · exact h
  · exact h
theorem State.finalReq_memOk {s : State} {reason r} (h : s.MemOk) : (s.finalReq reason r).MemOk := by
  unfold State.finalReq
  extract_lets
  split
  · exact State.hostDone_memOk (State.dropHost_memOk (State.dropReq_memOk h))
  · exact State.dropParts_memOk (State.failReq_memOk (State.dropReq_memOk h))
  · exact State.settleEngine_memOk (State.failReq_memOk (State.dropReq_memOk h))
theorem State.fetchFail_memOk {s : State} {gid page reason} (h : s.MemOk) : (s.fetchFail gid page reason).MemOk := by
  unfold State.fetchFail
  extract_lets
  split
  · exact h
  · split
    · exact h
    · split
      · exact State.raise_memOk h
      · exact State.setGroup_memOk h
theorem State.final_memOk {s : State} {a types reason} (h : s.MemOk) : (s.final a types reason).MemOk := by
  unfold State.final
  extract_lets reqs
  have hreqs : ∀ x0, (reqs x0).MemOk := by
    intro _
    unfold reqs
    refine foldl_keeps State.MemOk _ _ _ h fun t _ ht => ?_
    split
    · exact State.wakeReq_memOk ht
    · exact State.finalReq_memOk ht
  split
  · split
    · exact h
    · split
      · exact hreqs _
      · exact State.fetchFail_memOk (hreqs _)
  · exact State.memOk_with h
  · exact hreqs _
theorem execFinalReply_memOk {s : State} (h : s.MemOk) : OutcomeMemOk (execFinalReply s) := by
  unfold execFinalReply
  split
  · exact .refused
  · exact .next (State.final_memOk (State.modXl_memOk h))

/-! ### Replies: Renewals -/

theorem State.renew_memOk {s : State} {home r leaf} (h : s.MemOk) : (s.renew home r leaf).MemOk := by
  unfold State.renew
  extract_lets _ _ _ _ _ g
  have hg : g.1.MemOk := by
    unfold g
    split
    · exact h
    · exact State.grant_memOk h
  split
  · exact State.modMd_memOk (State.replyTo_memOk hg)
  · extract_lets
    split
    · split
      · exact State.replyTo_memOk hg
      · exact State.memOk_with (State.replyTo_memOk hg)
    · exact State.memOk_with (State.replyTo_memOk hg)
  · exact State.replyTo_memOk hg
theorem execLeaseRenewal_memOk {home} {s : State} (h : s.MemOk) : OutcomeMemOk (execLeaseRenewal home s) := by
  unfold execLeaseRenewal
  split
  · exact .refused
  · exact .next (State.lookAt_memOk h (fun _ => State.renew_memOk (State.dropReq_memOk h)))
theorem State.settleLine_memOk {s : State} {gid} (h : s.MemOk) : (s.settleLine gid).MemOk :=
  foldl_keeps State.MemOk _ _ _ h fun _ _ ht => State.setCore_memOk ht
theorem execRenewalReply_memOk {gid} {s : State} (h : s.MemOk) : OutcomeMemOk (execRenewalReply gid s) := by
  unfold execRenewalReply
  split
  · exact .refused
  · extract_lets _ s2
    have hs2 : s2.MemOk := by
      unfold s2
      split
      · exact State.modMd_memOk h
      · exact State.memOk_with (State.modMd_memOk h)
    split
    · exact .next hs2
    · split
      · exact .next hs2
      · split
        · exact .next (State.settleLine_memOk (State.modGroup_memOk hs2))
        · extract_lets
          refine .next ?_
          split
          · exact State.pruneSpec_memOk (State.modGroup_memOk (State.squashLcr_memOk hs2))
          · exact State.modGroup_memOk (State.pruneSpec_memOk (State.modGroup_memOk (State.squashLcr_memOk hs2)))

/-! ### Replies: LOAD_COMPLETE -/

theorem State.loadFault_memOk {s : State} {gid o} (h : s.MemOk) : (s.loadFault gid o).MemOk := by
  unfold State.loadFault
  extract_lets s1
  have hs1 : s1.MemOk := by
    unfold s1
    split
    · exact State.squashGroup_memOk h
    · exact h
  split
  · exact hs1
  · extract_lets
    split
    · exact hs1
    · split
      · split
        · exact hs1
        · exact State.raise_memOk hs1
      · exact State.setGroup_memOk hs1
theorem State.sendLanes_memOk {s : State} {gid slot ls} (h : s.MemOk) : (s.sendLanes gid slot ls).MemOk := by
  unfold State.sendLanes
  split
  · exact h
  · split
    · split
      · exact h
      · exact State.requestAll_memOk (foldl_keeps State.MemOk _ _ _ h fun _ _ ht => State.failReq_memOk ht)
    · exact h
theorem State.settleDeferred_memOk {s : State} {gid faulted d} (h : s.MemOk) : (s.settleDeferred gid faulted d).MemOk := by
  unfold State.settleDeferred
  split
  · split
    · exact State.setGroup_memOk h
    · exact State.runDeferred_memOk h
  · exact h
theorem execLoadComplete_memOk {gid op} {s : State} (h : s.MemOk) : OutcomeMemOk (execLoadComplete gid op s) := by
  unfold execLoadComplete
  split
  · exact .refused
  · split
    · exact .refused
    · split
      · split
        · exact .next (State.memOk_with (foldl_keeps State.MemOk _ _ _ (State.setGroup_memOk h) fun _ _ ht =>
            State.settleDeferred_memOk ht))
        · exact .next h
      · extract_lets
        refine .next ?_
        split
        · exact foldl_keeps State.MemOk _ _ _ (State.modGroup_memOk h) fun _ _ ht => State.settleDeferred_memOk ht
        · exact State.loadFault_memOk (foldl_keeps State.MemOk _ _ _ (State.modGroup_memOk h) fun _ _ ht =>
            State.settleDeferred_memOk ht)

end Sys2Proof.Machine
end
section
/-! Every step keeps the canonical form of memory: the save area, the signal box and the memory dies. -/

namespace Sys2Proof.Machine

/-! ### System: System registers -/

theorem execSrd_memOk {g d num} {s : State} (h : s.MemOk) : OutcomeMemOk (execSrd g d num s) := by
  unfold execSrd
  refine State.word_memOk h ?_
  intro _ _ ht
  split
  · exact State.illegal_memOk ht
  · exact State.goOn_memOk (State.setGroup_memOk ht)
theorem execSwr_memOk {g a num} {s : State} (h : s.MemOk) : OutcomeMemOk (execSwr g a num s) := by
  unfold execSwr
  refine State.word_memOk h ?_
  intro _ _ ht
  extract_lets
  split
  · exact State.illegal_memOk ht
  · exact State.goOn_memOk (State.setGroup_memOk ht)

/-! ### System: LAUNCH -/

theorem execLaunch_memOk {g sd sa pd} {s : State} (h : s.MemOk) : OutcomeMemOk (execLaunch g sd sa pd s) := by
  unfold execLaunch
  extract_lets
  refine State.word_memOk h ?_
  intro _ _ ht
  split
  · exact State.goOn_memOk ht
  · refine State.lateGate_memOk ht ?_
    intro _ _ ht1
    split
    · exact State.addrFaults_memOk ht1 (fun _ _ ht2 => State.goOn_memOk ht2)
    · exact State.requestAll_memOk (State.goOn_memOk (State.putLog_memOk ht1))

/-! ### System: HOSTINT, PMARK and LOGW -/

theorem execHostint_memOk {g} {s : State} (h : s.MemOk) : OutcomeMemOk (execHostint g s) := by
  unfold execHostint
  refine State.word_memOk h ?_
  intro _ _ ht
  split
  · exact State.goOn_memOk ht
  · refine State.lateGate_memOk ht ?_
    intro _ _ ht1
    split
    · exact ht1
    · split
      · exact State.goOn_memOk ht1
      · exact State.goOn_memOk (State.raiseVector_memOk ht1)
theorem execPmark_memOk {g a} {s : State} (h : s.MemOk) : OutcomeMemOk (execPmark g a s) :=
  State.word_memOk h (fun _ _ ht => State.goOn_memOk (State.groupLog_memOk ht))
theorem execLogw_memOk {g sN tag} {s : State} (h : s.MemOk) : OutcomeMemOk (execLogw g sN tag s) :=
  State.word_memOk h (fun _ _ ht => State.goOn_memOk (State.groupLog_memOk ht))

/-! ### System: ERET -/

theorem State.reissueLog_memOk {s : State} {gid} (h : s.MemOk) : (s.reissueLog gid).MemOk := by
  unfold State.reissueLog
  split
  · exact h
  · split
    · exact h
    · extract_lets
      refine foldl_keeps State.MemOk _ _ _ h fun t _ ht => ?_
      extract_lets
      split
      · split
        · exact State.reissue_memOk (State.memOk_with ht)
        · exact State.memOk_with ht
      · exact State.reissue_memOk (State.memOk_with ht)
theorem State.reissueRecord_memOk {s : State} {gid slot o} (h : s.MemOk) : (s.reissueRecord gid slot o).MemOk := by
  unfold State.reissueRecord
  extract_lets
  split
  · exact h
  · split
    · exact h
    · split
      · extract_lets
        split
        · split
          · exact State.failReq_memOk h
          · exact State.requestAll_memOk h
        · split
          · exact State.failReq_memOk h
          · exact State.requestAll_memOk h
        · exact State.cellSend_memOk h
        · split
          · exact State.cellSend_memOk h
          · exact State.sendLanes_memOk h
        · exact h
        · exact State.sendLanes_memOk h
        · exact State.sendLanes_memOk h
      · exact h
theorem State.reissueAll_memOk {s : State} {gid} (h : s.MemOk) : (s.reissueAll gid).MemOk := by
  unfold State.reissueAll
  extract_lets
  split
  · exact State.reissueLog_memOk h
  · exact foldl_keeps State.MemOk _ _ _ (State.reissueLog_memOk h) fun _ _ ht => State.reissueRecord_memOk ht
theorem State.endRestore_memOk {s : State} {bid} (h : s.MemOk) : (s.endRestore bid).MemOk := by
  unfold State.endRestore
  split
  · exact h
  · exact foldl_keeps State.MemOk _ _ _ (State.modCtx_memOk (State.applyHeld_memOk (foldl_keeps State.MemOk _ _ _
      (State.setBlock_memOk h) fun _ _ ht => State.modGroup_memOk ht))) fun _ _ ht => State.reissueAll_memOk ht
theorem State.tryRelease_memOk {s : State} {bid} (h : s.MemOk) : (s.tryRelease bid).MemOk := by
  unfold State.tryRelease
  split
  · exact h
  · split
    · exact State.endRestore_memOk h
    · exact h
theorem execEret_memOk {g} {s : State} (h : s.MemOk) : OutcomeMemOk (execEret g s) := by
  unfold execEret
  refine State.word_memOk h ?_
  intro _ _ ht
  split
  · exact State.tryRelease_memOk (State.setGroup_memOk ht)
  · split
    · exact State.setGroup_memOk ht
    · exact State.illegal_memOk ht

/-! ### System: Additions to the lane-cycle record -/

theorem State.flushCore_memOk {s : State} {c ctx} (h : s.MemOk) : (s.flushCore c ctx).MemOk := by
  unfold State.flushCore
  split
  · exact h
  · extract_lets _ _ s1
    have hs1 : s1.MemOk := by
      unfold s1
      split
      · exact h
      · exact foldl_keeps State.MemOk _ _ _ h fun _ _ ht => State.funcWrite_memOk ht
    exact State.modCore_memOk hs1
theorem State.flushCtx_memOk {s : State} {ctx} (h : s.MemOk) : (s.flushCtx ctx).MemOk :=
  foldl_keeps State.MemOk _ _ _ h fun _ _ ht => State.flushCore_memOk ht

/-! ### Save: The save area -/

theorem State.saveFlit_memOk {s : State} {bid b back va} (h : s.MemOk) : (s.saveFlit bid b back va).MemOk := by
  unfold State.saveFlit
  split
  · exact h
  · extract_lets _ _ f
    have hf : f.1.MemOk := by
      unfold f
      split
      · exact State.message_memOk (State.message_memOk h)
      · exact State.message_memOk h
    exact State.modBlock_memOk hf
theorem State.modKept_memOk {s : State} {ctx va bytes} (h : s.MemOk) : (s.modKept ctx va bytes).MemOk :=
  State.modCtx_memOk h
theorem State.saveWrite_memOk {s : State} {bid b off bytes} (h : s.MemOk) : (s.saveWrite bid b off bytes).MemOk := by
  unfold State.saveWrite
  refine foldl_keeps State.MemOk _ _ _ h fun t _ ht => ?_
  split
  · rename_i u eu
    have hu := memOk_of_ok (State.ctxWrite_memOk ht) eu
    exact State.modKept_memOk (State.saveFlit_memOk hu)
  · exact State.modKept_memOk ht
theorem State.restFlits_memOk {s : State} {bid b off n} (h : s.MemOk) : (s.restFlits bid b off n).MemOk :=
  foldl_keeps State.MemOk _ _ _ h fun _ _ ht => State.saveFlit_memOk ht

/-! ### Save: CTXSAVE -/

theorem State.detach_memOk {s : State} {gid} (h : s.MemOk) : (s.detach gid).MemOk :=
  State.modMd_memOk h
theorem State.markPart_memOk {s : State} {bid p} (h : s.MemOk) : (s.markPart bid p).MemOk :=
  State.modBlock_memOk h
theorem State.saveCopy_memOk {s : State} {bid} (h : s.MemOk) : OptionMemOk (s.saveCopy bid) := by
  unfold State.saveCopy
  split
  · exact trivial
  · split
    · exact h
    · split
      · exact trivial
      · exact State.markPart_memOk (State.saveWrite_memOk (foldl_keeps State.MemOk _ _ _ (State.modBlock_memOk h) fun _ _ ht =>
          State.dropCopy_memOk ht))
theorem State.saveAcc_memOk {s : State} {bid} (h : s.MemOk) : OptionMemOk (s.saveAcc bid) := by
  unfold State.saveAcc
  split
  · exact trivial
  · rename_i u eu
    have hu := memOk_of_some (State.saveCopy_memOk h) eu
    split
    · exact trivial
    · split
      · exact hu
      · split
        · exact trivial
        · exact State.markPart_memOk (State.saveWrite_memOk (State.saveWrite_memOk hu))
theorem State.saveGrp_memOk {s : State} {gid} (h : s.MemOk) : OptionMemOk (s.saveGrp gid) := by
  unfold State.saveGrp
  split
  · exact trivial
  · rename_i u eu
    have hu := memOk_of_some (State.saveAcc_memOk h) eu
    split
    · split
      · exact hu
      · split
        · exact trivial
        · exact State.modGroup_memOk (State.detach_memOk (State.saveWrite_memOk (State.saveWrite_memOk hu)))
    · exact trivial
theorem State.endSave_memOk {s : State} {bid} (h : s.MemOk) : (s.endSave bid).MemOk := by
  unfold State.endSave
  split
  · exact h
  · extract_lets _ _ _ _ _ s3
    have hs3 : s3.MemOk := by
      unfold s3
      split
      · exact State.flushCore_memOk (State.setBlock_memOk (foldl_keeps State.MemOk _ _ _ (State.blockLog_memOk h) fun _ _ ht =>
          State.modGroup_memOk ht))
      · exact State.setBlock_memOk (foldl_keeps State.MemOk _ _ _ (State.blockLog_memOk h) fun _ _ ht => State.modGroup_memOk ht)
    split
    · exact hs3
    · exact State.memOk_with hs3
theorem State.saveBlk_memOk {s : State} {gid} (h : s.MemOk) : OptionMemOk (s.saveBlk gid) := by
  unfold State.saveBlk
  extract_lets
  split
  · exact trivial
  · rename_i u eu
    have hu := memOk_of_some (State.saveGrp_memOk h) eu
    split
    · exact trivial
    · split
      · exact hu
      · split
        · split
          · exact State.endSave_memOk hu
          · exact hu
        · split
          · exact hu
          · exact State.markPart_memOk (State.saveWrite_memOk (State.saveWrite_memOk (State.saveWrite_memOk (State.setBlock_memOk
              hu))))
theorem State.fwWord_memOk {s : State} {i g part finish} (h : s.MemOk) (hpart : ∀ t x1, t.MemOk → OptionMemOk (part t x1)) :
    OutcomeMemOk (s.fwWord i g part finish) := by
  unfold State.fwWord
  refine State.word_memOk h ?_
  intro _ _ ht
  split
  · exact State.illegal_memOk ht
  · split
    · exact ht
    · rename_i u eu
      have hu := memOk_of_some (hpart _ _ ht) eu
      split
      · exact hu
      · exact State.goOn_memOk hu
theorem execCtxsaveCopy_memOk {g} {s : State} (h : s.MemOk) : OutcomeMemOk (execCtxsaveCopy g s) :=
  State.fwWord_memOk h (fun _ _ ht => State.saveCopy_memOk ht)
theorem execCtxsaveAcc_memOk {g} {s : State} (h : s.MemOk) : OutcomeMemOk (execCtxsaveAcc g s) :=
  State.fwWord_memOk h (fun _ _ ht => State.saveAcc_memOk ht)
theorem execCtxsaveGrp_memOk {g} {s : State} (h : s.MemOk) : OutcomeMemOk (execCtxsaveGrp g s) :=
  State.fwWord_memOk h (fun _ _ ht => State.saveGrp_memOk ht)
theorem execCtxsaveBlk_memOk {g} {s : State} (h : s.MemOk) : OutcomeMemOk (execCtxsaveBlk g s) :=
  State.fwWord_memOk h (fun _ _ ht => State.saveBlk_memOk ht)

/-! ### Save: CTXREST -/

theorem State.restBlk_memOk {s : State} {bid} (h : s.MemOk) : OptionMemOk (s.restBlk bid) := by
  unfold State.restBlk
  split
  · exact trivial
  · split
    · exact h
    · exact State.markPart_memOk (State.restFlits_memOk (State.restFlits_memOk (State.setBlock_memOk h)))
theorem State.restGrp_memOk {s : State} {gid} (h : s.MemOk) : OptionMemOk (s.restGrp gid) := by
  unfold State.restGrp
  split
  · exact trivial
  · rename_i u eu
    have hu := memOk_of_some (State.restBlk_memOk h) eu
    split
    · split
      · exact hu
      · exact State.setGroup_memOk (State.restFlits_memOk (State.restFlits_memOk hu))
    · exact trivial
theorem State.restAcc_memOk {s : State} {gid} (h : s.MemOk) : OptionMemOk (s.restAcc gid) := by
  unfold State.restAcc
  split
  · exact trivial
  · rename_i u eu
    have hu := memOk_of_some (State.restGrp_memOk h) eu
    split
    · exact trivial
    · split
      · exact hu
      · exact State.markPart_memOk (State.restFlits_memOk (State.setBlock_memOk hu))
theorem State.restCopy_memOk {s : State} {gid} (h : s.MemOk) : OptionMemOk (s.restCopy gid) := by
  unfold State.restCopy
  split
  · exact trivial
  · rename_i u eu
    have hu := memOk_of_some (State.restAcc_memOk h) eu
    split
    · exact trivial
    · split
      · exact hu
      · exact State.markPart_memOk (foldl_keeps State.MemOk _ _ _ (State.restFlits_memOk (State.setBlock_memOk hu)) fun _ _ ht =>
          State.readMap_memOk ht)
theorem execCtxrestBlk_memOk {g} {s : State} (h : s.MemOk) : OutcomeMemOk (execCtxrestBlk g s) :=
  State.fwWord_memOk h (fun _ _ ht => State.restBlk_memOk ht)
theorem execCtxrestGrp_memOk {g} {s : State} (h : s.MemOk) : OutcomeMemOk (execCtxrestGrp g s) :=
  State.fwWord_memOk h (fun _ _ ht => State.restGrp_memOk ht)
theorem execCtxrestAcc_memOk {g} {s : State} (h : s.MemOk) : OutcomeMemOk (execCtxrestAcc g s) :=
  State.fwWord_memOk h (fun _ _ ht => State.restAcc_memOk ht)
theorem execCtxrestCopy_memOk {g} {s : State} (h : s.MemOk) : OutcomeMemOk (execCtxrestCopy g s) :=
  State.fwWord_memOk h (fun _ _ ht => State.restCopy_memOk ht)

/-! ### Box: Starting blocks -/

theorem State.seedSampler_memOk {s : State} {c ctx} (h : s.MemOk) : (s.seedSampler c ctx).MemOk := by
  unfold State.seedSampler
  split
  · exact h
  · exact State.modCore_memOk h
theorem State.startBlock_memOk {s : State} {b restart} (h : s.MemOk) : (s.startBlock b restart).MemOk :=
  State.blockLog_memOk (State.seedSampler_memOk (State.lbRead_memOk (foldl_keeps State.MemOk _ _ _ (State.memOk_with
    (State.setBlock_memOk h)) fun _ _ ht => State.setGroup_memOk ht)))
theorem State.startStation_memOk {s : State} {ctx} (h : s.MemOk) : OptionMemOk (s.startStation ctx) := by
  unfold State.startStation
  split
  · exact trivial
  · extract_lets
    split
    · exact trivial
    · exact State.modGroup_memOk (State.memOk_with (State.startBlock_memOk h))
theorem State.oweStation_memOk {s : State} {ctx} (h : s.MemOk) : (s.oweStation ctx).MemOk := by
  unfold State.oweStation
  split
  · rename_i u eu
    have hu := memOk_of_some (State.startStation_memOk h) eu
    exact hu
  · exact State.memOk_with h
theorem State.placeStation_memOk {s : State} (h : s.MemOk) : OutcomeMemOk s.placeStation := by
  unfold State.placeStation
  split
  · exact .refused
  · exact .next (State.oweStation_memOk (State.memOk_with h))

/-! ### Box: Save areas -/

theorem State.reserveArea_memOk {s : State} {ctx size} (h : s.MemOk) : OptionMemOk ((s.reserveArea ctx size).map Prod.fst) := by
  unfold State.reserveArea
  extract_lets
  split
  · exact trivial
  · exact optionMemOk_fst_map fun _ => State.setCtx_memOk h
theorem State.reserveFor_memOk {s : State} {bid} (h : s.MemOk) : OptionMemOk (s.reserveFor bid) := by
  unfold State.reserveFor
  split
  · exact trivial
  · split
    · exact h
    · exact optionMemOk_map_pair (State.reserveArea_memOk h) fun _ ht => State.setBlock_memOk ht

/-! ### Box: Placing -/

theorem State.placeOn_memOk {s : State} {tt cs} (h : s.MemOk) : OptionMemOk (s.placeOn tt cs) := by
  unfold State.placeOn
  split
  · exact trivial
  · split
    · exact trivial
    · extract_lets
      split
      · exact trivial
      · rename_i u eu
        have hu := memOk_of_some (by
          refine foldl_keeps OptionMemOk _ _ _ (optionMemOk_some h) fun t _ ht => ?_
          refine optionMemOk_bind_state ht fun _ ht1 => ?_
          refine optionMemOk_bind fun _ => ?_
          extract_lets
          split
          · exact State.reserveFor_memOk (State.startBlock_memOk ht1)
          · exact State.startBlock_memOk ht1
        ) eu
        exact State.memOk_with hu
theorem State.placeAt_memOk {s : State} {tt c} (h : s.MemOk) : OptionMemOk (s.placeAt tt c) := by
  unfold State.placeAt
  split
  · exact trivial
  · exact optionMemOk_bind fun _ => State.placeOn_memOk h
theorem State.placeAll_memOk {n} {s : State} {tt} (h : s.MemOk) : OptionMemOk (State.placeAll n s tt) := by
  induction n generalizing s with
  | zero =>
    unfold State.placeAll
    split
    · exact h
    · exact trivial
  | succ n ih =>
    unfold State.placeAll
    split
    · exact h
    · split
      · exact h
      · exact optionMemOk_bind_state (optionMemOk_bind fun _ => State.placeOn_memOk h) fun _ ht => ih ht

/-! ### Box: Judging a LAUNCH -/

theorem State.accept_memOk {s : State} {ctx tt order t} (h : s.MemOk) : (s.accept ctx tt order t).MemOk :=
  State.memOk_with (State.modCtx_memOk h)
theorem State.judge_memOk {s : State} {ctx bytes} (h : s.MemOk) : (s.judge ctx bytes).1.MemOk := by
  unfold State.judge
  split
  · exact h
  · extract_lets
    split
    · exact h
    · split
      · exact h
      · extract_lets
        split
        · exact State.accept_memOk h
        · split
          · exact h
          · split
            · rename_i u eu
              have hu := memOk_of_some (State.placeAll_memOk (State.accept_memOk h)) eu
              exact hu
            · exact h

/-! ### Dies: Heat -/

theorem State.heatDropped_memOk {s : State} {die ctx} (h : s.MemOk) : (s.heatDropped die ctx).MemOk := by
  unfold State.heatDropped
  extract_lets
  split
  · exact State.modMd_memOk h
  · exact State.memRecord_memOk (State.modMd_memOk (State.modMd_memOk h))
theorem execHeatSample_memOk {full} {s : State} (h : s.MemOk) : OutcomeMemOk (execHeatSample full s) := by
  unfold execHeatSample
  split
  · exact .refused
  · extract_lets
    split
    · exact .next (State.heatDropped_memOk (State.modMd_memOk h))
    · exact .next (State.modCtx_memOk (State.modMd_memOk h))
theorem execHeatEpoch_memOk {ctx} {s : State} (h : s.MemOk) : OutcomeMemOk (execHeatEpoch ctx s) := by
  unfold execHeatEpoch
  split
  · exact .refused
  · split
    · exact .refused
    · exact .next (State.setCtx_memOk h)

/-! ### Dies: Scrub -/

theorem execDramScrub_memOk {die sector find} {s : State} (h : s.MemOk) : OutcomeMemOk (execDramScrub die sector find s) := by
  unfold execDramScrub
  split
  · exact .refused
  · extract_lets
    split
    · exact .next (State.modMd_memOk h)
    · split <;> exact .next (State.memRecord_memOk (State.modMd_memOk h))
    · exact .next (State.memRecord_memOk (State.modMd_memOk h))

/-! ### Dies: A memory die fails -/

theorem State.undoDelta_memOk {s : State} {d} (h : s.MemOk) : (s.undoDelta d).MemOk := ⟨applyParity_wf h.1, h.2⟩
theorem State.freeTickets_memOk {s : State} {port} (h : s.MemOk) : (s.freeTickets port).MemOk :=
  State.modMd_memOk (State.modXl_memOk (foldl_keeps State.MemOk _ _ _ (foldl_keeps State.MemOk _ _ _ (foldl_keeps State.MemOk _ _
    _ h fun _ _ ht => State.setGroup_memOk ht) fun _ _ ht => State.setCore_memOk ht) fun _ _ ht => State.setBlock_memOk ht))
theorem State.tellFailure_memOk {s : State} {f} (h : s.MemOk) : (s.tellFailure f).MemOk :=
  foldl_keeps State.MemOk _ _ _ h fun _ _ ht => State.message_memOk ht
theorem State.dieStops_memOk {s : State} {f} (h : s.MemOk) : (s.dieStops f).MemOk :=
  State.freeTickets_memOk (State.modXl_memOk (State.modMd_memOk (State.memOk_with h)))
theorem State.rebuildOn_memOk {s : State} {f} (h : s.MemOk) : (s.rebuildOn f).MemOk := by
  unfold State.rebuildOn
  extract_lets p stripe stays moved mem keyed bad unbuilt s1
  have hs1 : s1.MemOk :=
    ⟨foldl_keeps (fun m => Memory.wf m = true) _ _ _ (SMap.wfFrom_keep _ s.mem 0 stays h.1) fun _ _ hm => Memory.wf_write _ _ _
      hm, h.2⟩
  split
  · exact hs1
  · exact State.memRecord_memOk hs1
theorem State.refitBlocks_memOk {s : State} {f} (h : s.MemOk) : (s.refitBlocks f).MemOk :=
  foldl_keeps State.MemOk _ _ _ h fun _ _ ht => foldl_keeps State.MemOk _ _ _ (State.modMd_memOk ht) fun _ _ ht1 =>
    State.fitParity_memOk ht1
theorem State.dieMemops_memOk {s : State} {f} (h : s.MemOk) : (s.dieMemops f).MemOk :=
  State.modMd_memOk h
theorem State.dieResend_memOk {s : State} {f} (h : s.MemOk) : (s.dieResend f).MemOk := by
  unfold State.dieResend
  extract_lets lost undone built s1
  have hundone : undone.1.MemOk := foldl_keeps (fun r : State × List (List (Nat × BitVec 8)) => r.1.MemOk) _ _ _ h fun _ _ hr =>
    State.undoDelta_memOk hr
  have hbuilt : built.MemOk := by
    unfold built
    split
    · exact State.rebuildOn_memOk hundone
    · exact hundone
  have hs1 : s1.MemOk := State.dieMemops_memOk ⟨Memory.wf_writeAll _ _ hbuilt.1, hbuilt.2⟩
  exact State.modMd_memOk hs1
theorem State.dieCells_memOk {s : State} {f} (h : s.MemOk) : (s.dieCells f).MemOk :=
  foldl_keeps State.MemOk _ _ _ (State.modMd_memOk h) fun _ _ ht => State.cellAnswer_memOk ht
theorem State.dieWatches_memOk {s : State} {f} (h : s.MemOk) : (s.dieWatches f).MemOk :=
  State.modMd_memOk h
theorem State.memoryDieFails_memOk {s : State} {f} (h : s.MemOk) : (s.memoryDieFails f).MemOk := by
  unfold State.memoryDieFails
  extract_lets _ _ _ s2
  have hs2 : s2.MemOk := by
    unfold s2
    split
    · exact State.modMd_memOk (State.dieWatches_memOk (State.dieCells_memOk (State.dieStops_memOk (State.tellFailure_memOk h))))
    · exact State.dieWatches_memOk (State.dieCells_memOk (State.dieStops_memOk (State.tellFailure_memOk h)))
  split
  · exact State.memRecord_memOk (State.refitBlocks_memOk (State.dieResend_memOk hs2))
  · exact State.logAndRaise_memOk (State.refitBlocks_memOk (State.dieResend_memOk hs2))
theorem execMemoryDieFailure_memOk {die} {s : State} (h : s.MemOk) : OutcomeMemOk (execMemoryDieFailure die s) := by
  unfold execMemoryDieFailure
  split
  · exact .refused
  · exact .next (State.memoryDieFails_memOk h)

end Sys2Proof.Machine
end
section
/-! Every step keeps the canonical form of memory: the fabric, stops and tasks. -/

namespace Sys2Proof.Machine

/-! ### Fabric: Pairs -/

theorem State.restripe_memOk {s : State} {i j live} (h : s.MemOk) : (s.restripe i j live).MemOk := by
  unfold State.restripe
  extract_lets _ _ _ r
  have hr : r.1.MemOk := by
    unfold r
    split
    · exact State.control_memOk (State.setLink_memOk h)
    · exact State.send_memOk (State.control_memOk (State.setLink_memOk h))
  exact State.modLink_memOk hr
theorem State.markDead_memOk {s : State} {i j chans} (h : s.MemOk) : (s.markDead i j chans).MemOk :=
  State.restripe_memOk (State.setLink_memOk h)
theorem execChannelDead_memOk {src dst chans recovered} {s : State} (h : s.MemOk) :
    OutcomeMemOk (execChannelDead src dst chans recovered s) := by
  unfold execChannelDead
  extract_lets
  split
  · exact .refused
  · split
    · exact .next (State.modLink_memOk h)
    · exact .next (State.markDead_memOk h)
theorem execChannelState_memOk {src dst} {s : State} (h : s.MemOk) : OutcomeMemOk (execChannelState src dst s) := by
  unfold execChannelState
  split
  · exact .refused
  · exact .next (State.pump_memOk (State.replayFrom_memOk (State.modLink_memOk (State.setLink_memOk h))))

/-! ### Fabric: Degrading, relaying, going down -/

theorem State.pairRecord_memOk {s : State} {type sev i j before replayed} (h : s.MemOk) :
    (s.pairRecord type sev i j before replayed).MemOk :=
  State.fabRecord_memOk h
theorem State.relayStart_memOk {s : State} {i j before} (h : s.MemOk) : (s.relayStart i j before).MemOk :=
  State.pump_memOk (State.pairRecord_memOk (State.setLink_memOk h))
theorem State.relayEnd_memOk {s : State} {i j v before} (h : s.MemOk) : (s.relayEnd i j v before).MemOk :=
  State.pump_memOk (foldl_keeps State.MemOk _ _ _ (State.pairRecord_memOk (State.modLink_memOk (State.modLink_memOk
    (State.modLink_memOk (State.modLink_memOk (State.memOk_with h)))))) fun _ _ ht => State.settlePause_memOk ht)
theorem State.routeDirect_memOk {s : State} {i j before} (h : s.MemOk) : (s.routeDirect i j before).MemOk := by
  unfold State.routeDirect
  extract_lets
  split
  · exact State.relayStart_memOk h
  · split
    · exact State.pairRecord_memOk (State.setLink_memOk h)
    · exact State.setLink_memOk h
theorem State.reroute_memOk {s : State} {i j before} (h : s.MemOk) : (s.reroute i j before).MemOk := by
  unfold State.reroute
  extract_lets
  split
  · exact State.routeDirect_memOk h
  · split
    · exact h
    · exact State.routeDirect_memOk (State.relayEnd_memOk h)
theorem State.settleRoutes_memOk {s : State} {n} (h : s.MemOk) : (s.settleRoutes n).MemOk := by
  induction n generalizing s with
  | zero => exact h
  | succ n ih =>
    unfold State.settleRoutes
    split
    · exact h
    · exact ih (State.reroute_memOk h)
theorem State.rerouteAll_memOk {s : State} {i j before} (h : s.MemOk) : (s.rerouteAll i j before).MemOk :=
  State.settleRoutes_memOk (State.reroute_memOk h)

/-! ### Fabric: Reports at the control die -/

theorem State.setLaser_memOk {s : State} {m l} (h : s.MemOk) : (s.setLaser m l).MemOk :=
  State.memOk_with h
theorem State.laserRecord_memOk {s : State} {m} (h : s.MemOk) : (s.laserRecord m).MemOk := by
  unfold State.laserRecord
  extract_lets
  split
  · exact h
  · exact State.fabRecord_memOk (State.setLaser_memOk h)
theorem State.standbyDone_memOk {s : State} (h : s.MemOk) : s.standbyDone.MemOk := by
  unfold State.standbyDone
  split
  · exact h
  · extract_lets
    split
    · exact State.fabRecord_memOk (State.memOk_with h)
    · exact h
theorem execLinkChangeReport_memOk {src dst} {s : State} (h : s.MemOk) : OutcomeMemOk (execLinkChangeReport src dst s) := by
  unfold execLinkChangeReport
  extract_lets
  split
  · exact .refused
  · split
    · exact .refused
    · extract_lets _ _ s2 s3
      have hs2 : s2.MemOk := by
        unfold s2
        split
        · exact State.setLink_memOk h
        · split
          · extract_lets
            split
            · exact State.laserRecord_memOk (State.setLink_memOk h)
            · exact State.pairRecord_memOk (State.laserRecord_memOk (State.setLink_memOk h))
          · exact State.pairRecord_memOk (State.setLink_memOk h)
      have hs3 : s3.MemOk := by
        unfold s3
        split
        · exact hs2
        · exact State.pairRecord_memOk hs2
      exact .next (State.standbyDone_memOk (State.rerouteAll_memOk hs3))

/-! ### Fabric: Retraining -/

theorem execChannelRetrainStart_memOk {src dst chans} {s : State} (h : s.MemOk) :
    OutcomeMemOk (execChannelRetrainStart src dst chans s) := by
  unfold execChannelRetrainStart
  extract_lets
  split
  · exact .refused
  · exact .next (State.setLink_memOk h)
theorem execChannelTrainingEnd_memOk {src dst chans ok} {s : State} (h : s.MemOk) :
    OutcomeMemOk (execChannelTrainingEnd src dst chans ok s) := by
  unfold execChannelTrainingEnd
  extract_lets
  split
  · exact .refused
  · split
    · exact .next (State.restripe_memOk (State.setLink_memOk h))
    · exact .next (State.setLink_memOk h)

/-! ### Fabric: Laser modules -/

theorem State.loseAll_memOk {s : State} {c} (h : s.MemOk) : (s.loseAll c).MemOk := by
  unfold State.loseAll
  extract_lets _ s2
  have hs2 : s2.MemOk := by
    refine foldl_keeps State.MemOk _ _ _ (foldl_keeps State.MemOk _ _ _ h fun _ _ ht => State.modLink_memOk ht) fun t _ ht => ?_
    split
    · exact ht
    · exact State.markDead_memOk ht
  exact foldl_keeps State.MemOk _ _ _ hs2 fun _ _ ht => State.modLink_memOk ht
theorem execLaserFail_memOk {m} {s : State} (h : s.MemOk) : OutcomeMemOk (execLaserFail m s) := by
  unfold execLaserFail
  extract_lets _ _ _ _ s2
  have hs2 : s2.MemOk := by
    unfold s2
    split
    · split
      · exact State.memOk_with (State.setLaser_memOk h)
      · exact State.setLaser_memOk h
    · exact State.setLaser_memOk h
  split
  · exact .refused
  · exact .next (State.loseAll_memOk hs2)
theorem execLaserMonitorReport_memOk {m} {s : State} (h : s.MemOk) : OutcomeMemOk (execLaserMonitorReport m s) := by
  unfold execLaserMonitorReport
  extract_lets
  split
  · exact .refused
  · exact .next (State.laserRecord_memOk h)
theorem execStandbyCommit_memOk {s : State} (h : s.MemOk) : OutcomeMemOk (execStandbyCommit s) := by
  unfold execStandbyCommit
  split
  · split
    · exact .next (State.memOk_with h)
    · exact .refused
  · exact .refused
theorem execStandbyLightOn_memOk {s : State} (h : s.MemOk) : OutcomeMemOk (execStandbyLightOn s) := by
  unfold execStandbyLightOn
  split
  · exact .refused
  · split
    · exact .refused
    · exact .next (foldl_keeps State.MemOk _ _ _ (State.memOk_with (State.setLaser_memOk h)) fun _ _ ht => State.modLink_memOk ht)
theorem execStandbyFail_memOk {s : State} (h : s.MemOk) : OutcomeMemOk (execStandbyFail s) := by
  unfold execStandbyFail
  split
  · exact .refused
  · split
    · exact .refused
    · exact .next (State.laserRecord_memOk (State.memOk_with (State.setLaser_memOk h)))
theorem State.moveAway_memOk {s : State} {m k} (h : s.MemOk) : (s.moveAway m k).MemOk :=
  State.settleRoutes_memOk (foldl_keeps State.MemOk _ _ _ (foldl_keeps State.MemOk _ _ _ (State.memOk_with (State.setLaser_memOk
    h)) fun _ _ ht => State.modLink_memOk ht) fun _ _ ht => State.control_memOk ht)
theorem execModuleRemoval_memOk {m} {s : State} (h : s.MemOk) : OutcomeMemOk (execModuleRemoval m s) := by
  unfold execModuleRemoval
  extract_lets
  split
  · exact .refused
  · exact .next (State.fabRecord_memOk (State.setLaser_memOk h))
theorem execModuleOut_memOk {m} {s : State} (h : s.MemOk) : OutcomeMemOk (execModuleOut m s) := by
  unfold execModuleOut
  extract_lets
  split
  · exact .refused
  · exact .next (State.setLaser_memOk h)
theorem execModuleInsert_memOk {m} {s : State} (h : s.MemOk) : OutcomeMemOk (execModuleInsert m s) := by
  unfold execModuleInsert
  split
  · exact .refused
  · exact .next (State.setLaser_memOk h)
theorem execModuleWarmDone_memOk {m} {s : State} (h : s.MemOk) : OutcomeMemOk (execModuleWarmDone m s) := by
  unfold execModuleWarmDone
  split
  · exact .refused
  · exact .next (State.fabRecord_memOk (State.setLaser_memOk h))

/-! ### Fabric: Registers -/

theorem State.writeLnkerr_memOk {s : State} {i j x} (h : s.MemOk) : (s.writeLnkerr i j x).MemOk :=
  State.modLink_memOk h
theorem State.writePairrt_memOk {s : State} {i j x} (h : s.MemOk) : (s.writePairrt i j x).MemOk := by
  unfold State.writePairrt
  extract_lets
  split
  · exact State.setLink_memOk h
  · exact State.rerouteAll_memOk (State.setLink_memOk h)
theorem State.writeChstat_memOk {s : State} {i j x} (h : s.MemOk) : (s.writeChstat i j x).MemOk :=
  State.modLink_memOk h
theorem State.writeRemreq_memOk {s : State} {m x} (h : s.MemOk) : (s.writeRemreq m x).MemOk := by
  unfold State.writeRemreq
  extract_lets
  split
  · exact h
  · split
    · exact State.setLaser_memOk h
    · split
      · split
        · exact State.moveAway_memOk (State.setLaser_memOk h)
        · exact h
      · exact State.setLaser_memOk h

/-! ### Halt: Halting -/

theorem State.haltGroup_memOk {s : State} {gid} (h : s.MemOk) : (s.haltGroup gid).MemOk :=
  State.modGroup_memOk (State.squashGroup_memOk h)
theorem State.sendHome_memOk {s : State} {gid} (h : s.MemOk) : (s.sendHome gid).MemOk :=
  State.modGroup_memOk (State.squashGroup_memOk h)
theorem State.haltBlock_memOk {s : State} {bid ph} (h : s.MemOk) : (s.haltBlock bid ph).MemOk := by
  unfold State.haltBlock
  split
  · exact h
  · exact foldl_keeps State.MemOk _ _ _ (State.modBlock_memOk (foldl_keeps State.MemOk _ _ _ h fun _ _ ht => State.haltGroup_memOk
      ht)) fun _ _ ht => State.removeCmd_memOk ht

/-! ### Halt: LCR_FLUSH -/

theorem execLcrFlush_memOk {s : State} (h : s.MemOk) : OutcomeMemOk (execLcrFlush s) := by
  unfold execLcrFlush
  split
  · exact .refused
  · exact .next (State.memOk_with (foldl_keeps State.MemOk _ _ _ h fun _ _ ht => State.flushCtx_memOk ht))

/-! ### Halt: The debug port -/

theorem State.portSays_memOk {s : State} {what n} (h : s.MemOk) : (s.portSays what n).MemOk :=
  State.memOk_with h
theorem execDbgcmpWrite_memOk {ctx i value} {s : State} (h : s.MemOk) : OutcomeMemOk (execDbgcmpWrite ctx i value s) := by
  unfold execDbgcmpWrite
  split
  · exact .next (State.modCtx_memOk h)
  · exact .refused

/-! ### Halt: Stops -/

theorem State.reserveDumps_memOk {s : State} {bids} (h : s.MemOk) : OptionMemOk (s.reserveDumps bids) :=
  foldl_keeps OptionMemOk _ _ _ (optionMemOk_some h) fun _ _ ht => optionMemOk_bind_state ht fun _ ht1 => optionMemOk_bind fun _
    => optionMemOk_map_pair (State.reserveArea_memOk ht1) fun _ ht2 => State.setBlock_memOk ht2
theorem execDebugStop_memOk {bid src} {s : State} (h : s.MemOk) : OutcomeMemOk (execDebugStop bid src s) := by
  unfold execDebugStop
  split
  · exact .refused
  · split
    · exact .refused
    · extract_lets
      split
      · exact .refused
      · exact .next (State.modBlock_memOk h)
      · exact .next (State.modBlock_memOk h)
      · refine .next ?_
        split
        · exact State.modBlock_memOk h
        · exact State.modBlock_memOk (State.modBlock_memOk h)
      · refine .next ?_
        split
        · exact State.modBlock_memOk h
        · exact State.modBlock_memOk (State.modBlock_memOk h)
      · refine .next ?_
        split
        · exact State.modBlock_memOk h
        · exact State.modBlock_memOk (State.modBlock_memOk h)
      · split
        · exact .next (State.modBlock_memOk h)
        · split
          · exact .next (State.portSays_memOk (State.modBlock_memOk h))
          · rename_i u eu
            have hu := memOk_of_some (State.reserveDumps_memOk (State.modBlock_memOk h)) eu
            exact .next (foldl_keeps State.MemOk _ _ _ hu fun _ _ ht => State.modBlock_memOk (State.haltBlock_memOk ht))
theorem State.writeDump_memOk {s : State} {bid b} (h : s.MemOk) : (s.writeDump bid b).MemOk := by
  unfold State.writeDump
  extract_lets _ _ _ _ _ s3
  have hs3 : s3.MemOk := by
    refine foldl_keeps State.MemOk _ _ _ (State.saveWrite_memOk (State.saveWrite_memOk (State.saveWrite_memOk
      (State.saveWrite_memOk h)))) fun t _ ht => ?_
    split
    · exact ht
    · exact State.saveWrite_memOk (State.saveWrite_memOk ht)
  exact State.saveWrite_memOk (State.saveWrite_memOk hs3)
theorem execStopRecord_memOk {bid} {s : State} (h : s.MemOk) : OutcomeMemOk (execStopRecord bid s) := by
  unfold execStopRecord
  split
  · exact .refused
  · split
    · exact .refused
    · exact .next (State.portSays_memOk (State.flushCtx_memOk (State.blockLog_memOk (State.setBlock_memOk (State.writeDump_memOk
        h)))))
theorem State.freeDump_memOk {s : State} {b} (h : s.MemOk) : (s.freeDump b).MemOk := by
  unfold State.freeDump
  split
  · exact h
  · exact State.modCtx_memOk h
theorem execDebugResume_memOk {bid} {s : State} (h : s.MemOk) : OutcomeMemOk (execDebugResume bid s) := by
  unfold execDebugResume
  split
  · exact .refused
  · extract_lets
    split
    · exact .refused
    · refine .next ?_
      refine foldl_keeps State.MemOk _ _ _ h fun t _ ht => ?_
      split
      · exact ht
      · split
        · exact ht
        · extract_lets
          split
          · exact foldl_keeps State.MemOk _ _ _ (State.setBlock_memOk (State.blockLog_memOk (State.freeDump_memOk ht))) fun _ _
              ht1 => State.modGroup_memOk ht1
          · exact State.setBlock_memOk (State.blockLog_memOk (State.freeDump_memOk ht))

/-! ### Tasks -/

theorem State.modTask_memOk {s : State} {tt f} (h : s.MemOk) : (s.modTask tt f).MemOk :=
  State.memOk_with h

/-! ### Tasks: Pre-emption -/

theorem State.preempt_memOk {s : State} {bid} (h : s.MemOk) : OptionMemOk (s.preempt bid) := by
  unfold State.preempt
  split
  · exact trivial
  · split
    · exact trivial
    · exact optionMemOk_map_state (State.reserveFor_memOk h) fun _ ht => foldl_keeps State.MemOk _ _ _ (State.haltBlock_memOk ht)
        fun _ _ ht1 => State.sendHome_memOk ht1
theorem State.preemptAll_memOk {s : State} {bids} (h : s.MemOk) : OptionMemOk (s.preemptAll bids) :=
  foldl_keeps OptionMemOk _ _ _ (optionMemOk_some h) fun _ _ ht => optionMemOk_bind_state ht fun _ ht1 => State.preempt_memOk ht1
theorem execPreemptRequest_memOk {bid} {s : State} (h : s.MemOk) : OutcomeMemOk (execPreemptRequest bid s) := by
  unfold execPreemptRequest
  split
  · exact .refused
  · split
    · split
      · exact .refused
      · split
        · exact .next (foldl_keeps State.MemOk _ _ _ h fun _ _ ht => State.modGroup_memOk ht)
        · exact .refused
    · split
      · rename_i u eu
        have hu := memOk_of_some (State.preemptAll_memOk h) eu
        exact .next hu
      · exact .refused

/-! ### Tasks: Freight -/

theorem State.revoke_memOk {s : State} {c} (h : s.MemOk) : (s.revoke c).MemOk :=
  foldl_keeps State.MemOk _ _ _ (foldl_keeps State.MemOk _ _ _ (State.modCore_memOk h) fun _ _ ht => foldl_keeps State.MemOk _ _ _
    ht fun _ _ ht1 => State.modGroup_memOk ht1) fun _ _ ht => getD_memOk (State.preempt_memOk ht) ht
theorem execFreightClosed_memOk {core} {s : State} (h : s.MemOk) : OutcomeMemOk (execFreightClosed core s) := by
  unfold execFreightClosed
  split
  · exact .next (State.modCore_memOk h)
  · exact .refused
theorem execFreightReopen_memOk {core} {s : State} (h : s.MemOk) : OutcomeMemOk (execFreightReopen core s) := by
  unfold execFreightReopen
  extract_lets
  split
  · exact .next (State.setCore_memOk h)
  · exact .refused
theorem State.afterPlace_memOk {before s : State} {c} (_ : before.MemOk) (h : s.MemOk) : (before.afterPlace s c).MemOk := by
  unfold State.afterPlace
  extract_lets
  split
  · exact h
  · split
    · exact State.revoke_memOk (State.modCore_memOk h)
    · exact State.modCore_memOk h

/-! ### Tasks: Placing and restoring -/

theorem State.restore_memOk {s : State} {bid c} (h : s.MemOk) : OptionMemOk (s.restore bid c) := by
  unfold State.restore
  split
  · exact trivial
  · split
    · exact trivial
    · split
      · exact trivial
      · exact optionMemOk_map fun _ => State.blockLog_memOk (State.seedSampler_memOk (State.lbRead_memOk (foldl_keeps State.MemOk
          _ _ _ (State.modTask_memOk (State.setBlock_memOk h)) fun _ _ ht => State.modGroup_memOk ht)))
theorem State.restoreOn_memOk {s : State} {bid cs} (h : s.MemOk) : OptionMemOk (s.restoreOn bid cs) := by
  unfold State.restoreOn
  split
  · exact trivial
  · exact foldl_keeps OptionMemOk _ _ _ (optionMemOk_some h) fun _ _ ht => optionMemOk_bind_state ht fun _ ht1 =>
      State.restore_memOk ht1
theorem State.restoreUnit_memOk {s : State} {bid c} (h : s.MemOk) : OptionMemOk (s.restoreUnit bid c) := by
  unfold State.restoreUnit
  split
  · exact trivial
  · exact optionMemOk_bind fun _ => State.restoreOn_memOk h
theorem State.restoreAll_memOk {s : State} {ks} (h : s.MemOk) : OptionMemOk (s.restoreAll ks) := by
  induction ks generalizing s with
  | nil => exact h
  | cons k rest ih =>
    unfold State.restoreAll
    split
    · exact ih h
    · split
      · exact ih h
      · exact optionMemOk_bind_state (optionMemOk_bind fun _ => State.restoreOn_memOk h) fun _ ht => ih ht
theorem State.restoreTask_memOk {s : State} {tt k} (h : s.MemOk) : OptionMemOk (s.restoreTask tt k) := by
  unfold State.restoreTask
  extract_lets
  split
  · exact State.restoreAll_memOk h
  · exact trivial
theorem execBlockPlace_memOk {tt core} {s : State} (h : s.MemOk) : OutcomeMemOk (execBlockPlace tt core s) := by
  unfold execBlockPlace
  split
  · exact .refused
  · split
    · exact .refused
    · split
      · split
        · exact .refused
        · split
          · rename_i u eu
            have hu := memOk_of_some (State.placeAt_memOk h) eu
            exact .next (foldl_keeps State.MemOk _ _ _ hu fun _ _ ht => State.afterPlace_memOk h ht)
          · exact .refused
      · extract_lets
        split
        · rename_i u eu
          have hu := memOk_of_some (by
            split
            · exact trivial
            · exact State.preemptAll_memOk h
          ) eu
          exact .next hu
        · exact .refused
theorem execBlockRestore_memOk {bid core} {s : State} (h : s.MemOk) : OutcomeMemOk (execBlockRestore bid core s) := by
  unfold execBlockRestore
  split
  · exact .refused
  · split
    · exact .refused
    · split
      · exact .refused
      · rename_i u eu
        have hu := memOk_of_some (by
          split
          · exact State.restoreTask_memOk h
          · exact State.restoreUnit_memOk h
        ) eu
        split
        · exact .next (foldl_keeps State.MemOk _ _ _ hu fun _ _ ht => State.afterPlace_memOk h ht)
        · exact .refused

/-! ### Tasks: LAUNCH_REPLY -/

theorem execLaunchReply_memOk {s : State} (h : s.MemOk) : OutcomeMemOk (execLaunchReply s) := by
  unfold execLaunchReply
  split
  · exact .refused
  · split
    · exact .refused
    · extract_lets _ _ _ s1
      have hs1 : s1.MemOk := by
        unfold s1
        split
        · exact State.judge_memOk (State.memOk_with h)
        · exact foldl_keeps State.MemOk _ _ _ (State.judge_memOk (State.memOk_with h)) fun _ _ ht => State.afterPlace_memOk h ht
      exact .next (State.modGroup_memOk hs1)

/-! ### Tasks: Re-splits and time slices -/

theorem execResplitTimeout_memOk {tt core} {s : State} (h : s.MemOk) : OutcomeMemOk (execResplitTimeout tt core s) := by
  unfold execResplitTimeout
  split
  · exact .refused
  · extract_lets
    split
    · exact .next (State.memOk_with h)
    · exact .refused
theorem execDrainTimeout_memOk {core} {s : State} (h : s.MemOk) : OutcomeMemOk (execDrainTimeout core s) := by
  unfold execDrainTimeout
  split
  · exact .refused
  · extract_lets _ sl live
    clear_value sl live
    split
    · exact .next (State.memOk_with h)
    · refine outcomeMemOk_ite ?_ .refused
      split
      · rename_i u eu
        exact .next (memOk_of_some (State.preemptAll_memOk h) eu)
      · exact .refused
theorem execSliceExpiry_memOk {tt core} {s : State} (h : s.MemOk) : OutcomeMemOk (execSliceExpiry tt core s) := by
  unfold execSliceExpiry
  split
  · exact .refused
  · extract_lets
    split
    · split
      · rename_i u eu
        have hu := memOk_of_some (State.preemptAll_memOk h) eu
        exact .next hu
      · exact .refused
    · exact .refused
theorem execBackgroundPromote_memOk {tt} {s : State} (h : s.MemOk) : OutcomeMemOk (execBackgroundPromote tt s) := by
  unfold execBackgroundPromote
  split
  · exact .refused
  · split
    · exact .next (State.modTask_memOk h)
    · exact .refused

/-! ### Tasks: Retirement and completion -/

theorem State.taskFault_memOk {s : State} {ctx cwa} (h : s.MemOk) : (s.taskFault ctx cwa).MemOk := by
  unfold State.taskFault
  split
  · exact h
  · exact State.logRecord_memOk h
theorem State.cwaWrite_memOk {s : State} {ctx cwa off bytes} (h : s.MemOk) : (s.cwaWrite ctx cwa off bytes).MemOk := by
  unfold State.cwaWrite
  split
  · rename_i u eu
    have hu := memOk_of_ok (State.ctxWrite_memOk h) eu
    exact hu
  · exact State.taskFault_memOk h
theorem State.cwaReach_memOk {s : State} {ctx va t} (h : s.MemOk) : CwaReach.MemOk (s.cwaReach ctx va t) := by
  unfold State.cwaReach
  split
  · exact h
  · split
    · exact h
    · split
      · exact h
      · split
        · exact trivial
        · split
          · rename_i u _ eu
            have hu := memOk_of_fst (State.engineAt_memOk h) eu
            exact hu
          · rename_i u _ eu
            have hu := memOk_of_fst (State.engineAt_memOk h) eu
            exact hu
          · rename_i u eu
            have hu := memOk_of_fst (State.engineAt_memOk h) eu
            exact hu
          · rename_i u eu
            have hu := memOk_of_fst (State.engineAt_memOk h) eu
            exact trivial
theorem State.cwaPut_memOk {s : State} {final ctx cwa off bytes} (h : s.MemOk) : (s.cwaPut final ctx cwa off bytes).MemOk := by
  unfold State.cwaPut
  split
  · exact State.cwaWrite_memOk h
  · exact State.taskFault_memOk (State.memOk_with h)
theorem State.dropBlock_memOk {s : State} {bid} (h : s.MemOk) : (s.dropBlock bid).MemOk := by
  unfold State.dropBlock
  split
  · exact h
  · exact State.memOk_with h
theorem State.exitOf_memOk {s : State} {bid b status} (h : s.MemOk) : (s.exitOf bid b status).MemOk := by
  unfold State.exitOf
  extract_lets
  split
  · exact State.blockLog_memOk h
  · split
    · exact State.modTask_memOk (State.blockLog_memOk h)
    · extract_lets _ _ s1
      have hs1 : s1.MemOk := by
        unfold s1
        split
        · exact State.blockLog_memOk h
        · split
          · rename_i u _ eu
            have hu := memOk_of_go (State.cwaReach_memOk (State.blockLog_memOk h)) eu
            exact State.cwaPut_memOk hu
          · rename_i u eu
            have hu := memOk_of_ask (State.cwaReach_memOk (State.blockLog_memOk h)) eu
            exact State.modTask_memOk hu
          · exact State.modTask_memOk (State.blockLog_memOk h)
      exact State.modTask_memOk hs1
theorem State.settleTask_memOk {s : State} {tt} (h : s.MemOk) : (s.settleTask tt).MemOk :=
  State.modTask_memOk h
theorem State.leave_memOk {s : State} {bid b} (h : s.MemOk) : (s.leave bid b).MemOk := by
  unfold State.leave
  extract_lets
  split
  · exact State.setBlock_memOk (State.dropBlock_memOk h)
  · exact foldl_keeps State.MemOk _ _ _ h fun _ _ ht => State.dropBlock_memOk ht
theorem execBlockRetire_memOk {bid} {s : State} (h : s.MemOk) : OutcomeMemOk (execBlockRetire bid s) := by
  unfold execBlockRetire
  split
  · exact .refused
  · split
    · exact .refused
    · extract_lets _ s2
      have hs2 : s2.MemOk := by
        unfold s2
        split
        · exact State.leave_memOk (State.exitOf_memOk h)
        · exact State.flushCore_memOk (State.leave_memOk (State.exitOf_memOk h))
      refine .next ?_
      split
      · exact State.settleTask_memOk hs2
      · exact hs2
theorem State.wakeTasks_memOk {s : State} {ctx} (h : s.MemOk) : (s.wakeTasks ctx).MemOk := by
  unfold State.wakeTasks
  refine foldl_keeps State.MemOk _ _ _ h fun t _ ht => ?_
  split
  · exact State.modTask_memOk ht
  · exact ht
theorem State.freeTask_memOk {s : State} {tt} (h : s.MemOk) : (s.freeTask tt).MemOk :=
  State.memOk_with h
theorem State.completeTask_memOk {s : State} {tt k badSum badDone} (h : s.MemOk) :
    (s.completeTask tt k badSum badDone).MemOk := by
  unfold State.completeTask
  extract_lets _ s2
  have hs2 : s2.MemOk := by
    unfold s2
    split <;> exact State.cwaPut_memOk (State.cwaPut_memOk h)
  exact State.wakeTasks_memOk (State.freeTask_memOk hs2)
theorem execTaskComplete_memOk {tt} {s : State} (h : s.MemOk) : OutcomeMemOk (execTaskComplete tt s) := by
  unfold execTaskComplete
  split
  · exact .refused
  · split
    · split
      · rename_i u _ eu
        have hu := memOk_of_go (State.cwaReach_memOk h) eu
        exact .next (State.modTask_memOk (State.cwaPut_memOk hu))
      · rename_i u eu
        have hu := memOk_of_ask (State.cwaReach_memOk h) eu
        exact .next hu
      · exact .refused
    · split
      · exact .refused
      · split
        · exact .refused
        · rename_i u eu
          have hu := memOk_of_ask (State.cwaReach_memOk h) eu
          exact .next hu
        · rename_i u _ eu
          have hu := memOk_of_go (State.cwaReach_memOk h) eu
          split
          · exact .refused
          · rename_i u1 eu1
            have hu1 := memOk_of_ask (State.cwaReach_memOk hu) eu1
            exact .next hu1
          · rename_i u1 _ eu1
            have hu1 := memOk_of_go (State.cwaReach_memOk hu) eu1
            split
            · exact .refused
            · exact .next (State.completeTask_memOk hu1)

end Sys2Proof.Machine
end
section
/-! Every step keeps the canonical form of memory: tenancy, management, arrivals, small matrices and selection. -/

namespace Sys2Proof.Machine

/-! ### Tenancy: Discarding a context -/

theorem State.cutMemops_memOk {s : State} {which} (h : s.MemOk) : (s.cutMemops which).MemOk :=
  State.modMd_memOk h
theorem State.discardCtx_memOk {s : State} {ctx} (h : s.MemOk) : (s.discardCtx ctx).MemOk :=
  State.settlePauses_memOk (State.cutMemops_memOk (State.memOk_with (foldl_keeps State.MemOk _ _ _ (State.flushCtx_memOk
    (foldl_keeps State.MemOk _ _ _ h fun _ _ ht => State.dropBlock_memOk ht)) fun _ _ ht => State.freeTask_memOk ht)))

/-! ### Tenancy: Function-level reset -/

theorem State.flrHost_memOk {s : State} {f} (h : s.MemOk) : (s.flrHost f).MemOk :=
  State.memOk_with (foldl_keeps State.MemOk _ _ _ (State.modFunc_memOk h) fun _ _ ht => State.dropHost_memOk ht)
theorem State.flrBegin_memOk {s : State} {f} (h : s.MemOk) : (s.flrBegin f).MemOk :=
  State.memOk_with (State.modFunc_memOk (foldl_keeps State.MemOk _ _ _ (State.flrHost_memOk h) fun _ _ ht =>
    State.discardCtx_memOk ht))
theorem execFunctionLevelReset_memOk {fn} {s : State} (h : s.MemOk) : OutcomeMemOk (execFunctionLevelReset fn s) := by
  unfold execFunctionLevelReset
  split
  · exact .refused
  · exact .next (State.flrBegin_memOk h)
theorem State.unkey_memOk {s : State} {p} (h : s.MemOk) : (s.unkey p).MemOk := by
  unfold State.unkey
  split
  · exact h
  · exact State.modMd_memOk h
theorem State.unpoison_memOk {s : State} {p} (h : s.MemOk) : (s.unpoison p).MemOk :=
  State.modMd_memOk h
theorem State.zeroLeaf_memOk {s : State} {lo hi x} (h : s.MemOk) : (s.zeroLeaf lo hi x).MemOk :=
  State.unkey_memOk (foldl_keeps State.MemOk _ _ _ (foldl_keeps State.MemOk _ _ _ (State.unpoison_memOk (State.unkey_memOk h)) fun
    _ _ ht => State.firmwareWrite_memOk ht) fun _ _ ht => getD_memOk (optionMemOk_map_pair (State.fitBlock_optionMemOk ht) fun _
    ht1 => ht1) ht)
theorem State.scrubCtx_memOk {s : State} {ctx} (h : s.MemOk) : (s.scrubCtx ctx).MemOk := by
  unfold State.scrubCtx
  split
  · exact h
  · extract_lets
    refine foldl_keeps State.MemOk _ _ _ h fun t _ ht => ?_
    split
    · exact foldl_keeps State.MemOk _ _ _ ht fun _ _ ht1 => State.zeroLeaf_memOk ht1
    · exact ht
theorem State.dropCtx_memOk {s : State} {ctx} (h : s.MemOk) : (s.dropCtx ctx).MemOk :=
  State.memOk_with h
theorem State.reviveFn_memOk {s : State} {f} (h : s.MemOk) : (s.reviveFn f).MemOk :=
  State.memOk_with (State.modFunc_memOk h)
theorem execFlrdone_memOk {fn} {s : State} (h : s.MemOk) : OutcomeMemOk (execFlrdone fn s) := by
  unfold execFlrdone
  extract_lets
  split
  · exact .refused
  · split
    · refine .next ?_
      split
      · exact State.modFunc_memOk (foldl_keeps State.MemOk _ _ _ h fun _ _ ht => State.scrubCtx_memOk ht)
      · exact State.reviveFn_memOk (foldl_keeps State.MemOk _ _ _ h fun _ _ ht => State.scrubCtx_memOk ht)
    · exact .next (State.funcRecord_memOk (State.memOk_with (State.setFunc_memOk (foldl_keeps State.MemOk _ _ _ (foldl_keeps
        State.MemOk _ _ _ h fun _ _ ht => State.scrubCtx_memOk ht) fun _ _ ht => State.dropCtx_memOk ht))))

/-! ### Tenancy: Fencing a compute die -/

theorem State.loseBlock_memOk {s : State} {bid b} (h : s.MemOk) : (s.loseBlock bid b).MemOk := by
  unfold State.loseBlock
  split
  · exact State.dropBlock_memOk h
  · extract_lets
    split
    · exact State.modTask_memOk (State.dropBlock_memOk (State.modTask_memOk h))
    · split
      · exact State.dropBlock_memOk (State.modTask_memOk h)
      · exact State.modTask_memOk (State.dropBlock_memOk (State.exitOf_memOk (State.modTask_memOk h)))
theorem State.fenceDie_memOk {s : State} {d} (h : s.MemOk) : (s.fenceDie d).MemOk := by
  unfold State.fenceDie
  extract_lets _ _ _ _ _ _ _ s1
  have hs1 : s1.MemOk := by
    refine foldl_keeps State.MemOk _ _ _ (State.cutMemops_memOk (State.memOk_with h)) fun t _ ht => ?_
    extract_lets t1
    have ht1 : t1.MemOk := by
      unfold t1
      split
      · exact State.portSays_memOk ht
      · exact ht
    exact State.loseBlock_memOk ht1
  exact State.logAndRaise_memOk (State.settlePauses_memOk (foldl_keeps State.MemOk _ _ _ (State.memOk_with (foldl_keeps
    State.MemOk _ _ _ (foldl_keeps State.MemOk _ _ _ hs1 fun _ _ ht => foldl_keeps State.MemOk _ _ _ ht fun _ _ ht1 =>
    State.flushCore_memOk ht1) fun _ _ ht => State.settleTask_memOk ht)) fun _ _ ht => State.oweStation_memOk ht))
theorem execComputeDieFatal_memOk {die} {s : State} (h : s.MemOk) : OutcomeMemOk (execComputeDieFatal die s) := by
  unfold execComputeDieFatal
  split
  · exact .refused
  · exact .next (State.fenceDie_memOk h)
theorem execPairdownTimeout_memOk {src dst} {s : State} (h : s.MemOk) : OutcomeMemOk (execPairdownTimeout src dst s) := by
  unfold execPairdownTimeout
  split
  · exact .refused
  · split
    · exact .refused
    · extract_lets
      split
      · split
        · exact .next (State.modLink_memOk h)
        · exact .next (State.memoryDieFails_memOk (State.modLink_memOk h))
      · split
        · exact .next (State.modLink_memOk h)
        · exact .next (State.fenceDie_memOk (State.modLink_memOk h))

/-! ### Tenancy: Soft errors -/

theorem State.corrupt_memOk {s : State} {gid} (h : s.MemOk) : (s.corrupt gid).MemOk :=
  State.modGroup_memOk h
theorem State.sramRecord_memOk {s : State} {ctx} (h : s.MemOk) : (s.sramRecord ctx).MemOk := by
  unfold State.sramRecord
  split
  · exact State.funcRecord_memOk h
  · exact h

/-! ### Tenancy: Device reset and bring-up -/

theorem State.broughtUp_memOk {s : State} {version} : (s.broughtUp version).MemOk :=
  State.memOk_with State.reset_memOk
theorem State.classC_memOk {s : State} {code} (h : s.MemOk) : (s.classC code).MemOk :=
  State.memOk_with (State.logAndRaise_memOk h)
theorem State.resetFails_memOk {s : State} {n} : (s.resetFails n).MemOk := by
  unfold State.resetFails
  extract_lets
  split
  · exact State.classC_memOk (State.memOk_with State.reset_memOk)
  · exact State.memOk_with State.reset_memOk
theorem execDeviceReset_memOk {b} {s : State} : OutcomeMemOk (execDeviceReset b s) := by
  unfold execDeviceReset
  split
  · exact .refused
  · extract_lets
    split
    · refine .next ?_
      split
      · exact State.resetFails_memOk
      · exact State.broughtUp_memOk
    · exact .next State.resetFails_memOk
theorem execSramue_memOk {p} {s : State} (h : s.MemOk) : OutcomeMemOk (execSramue p s) := by
  unfold execSramue
  split
  · split
    · exact .refused
    · exact .next (State.sramRecord_memOk (State.corrupt_memOk h))
  · split
    · exact .refused
    · exact .next (State.sramRecord_memOk (State.corrupt_memOk h))
  · split
    · exact .refused
    · exact .next (State.sramRecord_memOk (foldl_keeps State.MemOk _ _ _ h fun _ _ ht => State.corrupt_memOk ht))
  · exact .next (State.memOk_with h)
  · exact .next (State.memOk_with h)
  · exact .next State.broughtUp_memOk

/-! ### Tenancy: Alarms -/

theorem State.takeAlarm_memOk {s : State} {code fn} (h : s.MemOk) : (s.takeAlarm code fn).MemOk := by
  unfold State.takeAlarm
  split
  · exact State.logAndRaise_memOk h
  · extract_lets
    split
    · exact State.logAndRaise_memOk h
    · exact State.modFunc_memOk (State.flrBegin_memOk (State.logAndRaise_memOk h))
  · exact State.classC_memOk h
  · exact h
theorem execAlarm_memOk {code fn} {s : State} (h : s.MemOk) : OutcomeMemOk (execAlarm code fn s) := by
  unfold execAlarm
  split
  · exact .refused
  · exact .next (State.takeAlarm_memOk h)
theorem execDebugUnlock_memOk {scope fn valid} {s : State} (h : s.MemOk) : OutcomeMemOk (execDebugUnlock scope fn valid s) := by
  unfold execDebugUnlock
  extract_lets
  split
  · exact .next (State.portSays_memOk (State.memOk_with (State.memOk_with h)))
  · refine .next ?_
    split <;> exact State.takeAlarm_memOk (State.portSays_memOk (State.memOk_with (State.memOk_with h)))

/-! ### Tenancy: Host links -/

theorem State.recallFar_memOk {s : State} (h : s.MemOk) : s.recallFar.MemOk :=
  foldl_keeps State.MemOk _ _ _ (State.modMd_memOk h) fun _ _ ht => State.pend_memOk (State.putReq_memOk ht)
theorem State.refar_memOk {s : State} (h : s.MemOk) : s.refar.MemOk := by
  unfold State.refar
  extract_lets
  split
  · exact State.recallFar_memOk (State.memOk_with h)
  · exact State.memOk_with h
theorem State.hostlink_memOk {s : State} (h : s.MemOk) : s.hostlink.MemOk :=
  State.funcRecord_memOk h
theorem State.hostGone_memOk {s : State} (h : s.MemOk) : s.hostGone.MemOk :=
  foldl_keeps State.MemOk _ _ _ (State.memOk_with h) fun _ _ ht => State.hostDone_memOk (State.dropHost_memOk ht)
theorem execHostLinkChange_memOk {link up pool} {s : State} (h : s.MemOk) : OutcomeMemOk (execHostLinkChange link up pool s) := by
  unfold execHostLinkChange
  split
  · exact .refused
  · extract_lets _ s1 s2 s3
    have hs1 : s1.MemOk := by
      unfold s1
      split <;> exact State.memOk_with h
    have hs2 : s2.MemOk := by
      unfold s2
      split
      · exact State.hostGone_memOk hs1
      · exact hs1
    have hs3 : s3.MemOk := by
      unfold s3
      split
      · exact State.recallFar_memOk hs2
      · exact hs2
    exact .next (State.hostlink_memOk (State.refar_memOk hs3))

/-! ### Tenancy: Power and cooling -/

theorem execJunctionThrottle_memOk {die celsius} {s : State} (h : s.MemOk) :
    OutcomeMemOk (execJunctionThrottle die celsius s) := by
  unfold execJunctionThrottle
  split
  · exact .refused
  · exact .next (State.memOk_with h)
theorem State.saveNow_memOk {s : State} {bid} (h : s.MemOk) : OptionMemOk (s.saveNow bid) := by
  unfold State.saveNow
  split
  · exact trivial
  · exact optionMemOk_bind_state (foldl_keeps OptionMemOk _ _ _ (State.reserveFor_memOk h) fun _ _ ht => optionMemOk_bind_state ht
      fun _ ht1 => State.saveGrp_memOk ht1) fun _ ht => optionMemOk_map_state (State.saveBlk_memOk ht) fun _ ht1 =>
      State.endSave_memOk ht1
theorem State.wakeNow_memOk {s : State} {bid} (h : s.MemOk) : (s.wakeNow bid).MemOk := by
  unfold State.wakeNow
  split
  · exact h
  · exact State.endRestore_memOk (getD_memOk (optionMemOk_bind_state (foldl_keeps OptionMemOk _ _ _ (optionMemOk_some h) fun _ _
      ht => optionMemOk_bind_state ht fun _ ht1 => State.restGrp_memOk ht1) fun _ ht => State.restCopy_memOk ht) h)
theorem execPowerP2Entry_memOk {s : State} (h : s.MemOk) : OutcomeMemOk (execPowerP2Entry s) := by
  unfold execPowerP2Entry
  split
  · exact .refused
  · split
    · exact .refused
    · rename_i u eu
      have hu := memOk_of_some (foldl_keeps OptionMemOk _ _ _ (optionMemOk_some h) fun _ _ ht => optionMemOk_bind_state ht fun _
        ht1 => State.saveNow_memOk ht1) eu
      exact .next (State.memOk_with hu)
theorem execPowerP2Exit_memOk {s : State} (h : s.MemOk) : OutcomeMemOk (execPowerP2Exit s) := by
  unfold execPowerP2Exit
  split
  · exact .refused
  · exact .next (foldl_keeps State.MemOk _ _ _ (State.memOk_with h) fun _ _ ht => State.wakeNow_memOk ht)

/-! ### Mgmt -/

theorem State.answerEntry_memOk {s : State} {h status result skip} (hs : s.MemOk) :
    (s.answerEntry h status result skip).MemOk := by
  unfold State.answerEntry
  exact State.raiseVector_memOk (State.memOk_with hs)

/-! ### Mgmt: CTXNEW, CTXRESET -/

theorem execCtxnew_memOk {h r} {s : State} (hs : s.MemOk) : OutcomeMemOk (execCtxnew h r s) := by
  unfold execCtxnew
  extract_lets _ _ lctx
  clear_value lctx
  split
  · exact .next (State.answerEntry_memOk hs)
  · split
    · exact .next (State.answerEntry_memOk hs)
    · split
      · split
        · exact .next (State.answerEntry_memOk hs)
        · split
          · exact .next (State.answerEntry_memOk hs)
          · rename_i u eu
            have hu := memOk_of_some (State.startStation_memOk (State.setCtx_memOk hs)) eu
            exact .next (State.answerEntry_memOk hu)
      · exact .next (State.answerEntry_memOk hs)
theorem execCtxreset_memOk {h} {s : State} (hs : s.MemOk) : OutcomeMemOk (execCtxreset h s) := by
  unfold execCtxreset
  split
  · exact .next (State.answerEntry_memOk hs)
  · exact .next (State.answerEntry_memOk (State.oweStation_memOk (State.funcRecord_memOk (State.discardCtx_memOk hs))))

/-! ### Mgmt: SEGSET -/

theorem execSegset_memOk {h seg b l o} {s : State} (hs : s.MemOk) : OutcomeMemOk (execSegset h seg b l o s) := by
  unfold execSegset
  split
  · exact .next (State.answerEntry_memOk hs)
  · extract_lets
    split
    · exact .next (State.answerEntry_memOk hs)
    · exact .next (State.answerEntry_memOk (State.setCtx_memOk hs))

/-! ### Mgmt: WEIGHTS, LOGSET, EXPGRANT -/

theorem execWeights_memOk {h iw aw} {s : State} (hs : s.MemOk) : OutcomeMemOk (execWeights h iw aw s) := by
  unfold execWeights
  split
  · exact .next (State.answerEntry_memOk hs)
  · extract_lets
    refine .next ?_
    refine State.answerEntry_memOk ?_
    split
    · exact State.reviveFn_memOk (State.modFunc_memOk hs)
    · exact State.modFunc_memOk hs
theorem execLogset_memOk {h base n} {s : State} (hs : s.MemOk) : OutcomeMemOk (execLogset h base n s) := by
  unfold execLogset
  extract_lets
  split
  · exact .next (State.answerEntry_memOk hs)
  · split
    · split
      · exact .next (State.answerEntry_memOk (State.modFunc_memOk hs))
      · split
        · exact .next (State.answerEntry_memOk hs)
        · exact .next (State.answerEntry_memOk (State.funcWrite_memOk (State.modFunc_memOk hs)))
    · split
      · exact .next (State.answerEntry_memOk hs)
      · split
        · exact .next (State.answerEntry_memOk (State.lbRead_memOk (State.setCtx_memOk hs)))
        · split
          · exact .next (State.answerEntry_memOk hs)
          · exact .next (State.answerEntry_memOk (State.lbRead_memOk (State.funcWrite_memOk (State.setCtx_memOk hs))))
theorem execExpgrant_memOk {h allow} {s : State} (hs : s.MemOk) : OutcomeMemOk (execExpgrant h allow s) := by
  unfold execExpgrant
  split
  · exact .next (State.answerEntry_memOk hs)
  · exact .next (State.answerEntry_memOk (State.modFunc_memOk hs))

/-! ### Mgmt: FABREAD, FABWRITE -/

theorem execFabread_memOk {h reg first count} {s : State} (hs : s.MemOk) : OutcomeMemOk (execFabread h reg first count s) := by
  unfold execFabread
  extract_lets
  split <;> exact .next (State.answerEntry_memOk hs)
theorem State.fabWrite_memOk {s : State} {h reg index write} (hs : s.MemOk) (hwrite : ∀ t, t.MemOk → (write t).MemOk) :
    (s.fabWrite h reg index write).MemOk := by
  unfold State.fabWrite
  split
  · exact State.answerEntry_memOk hs
  · exact State.answerEntry_memOk (hwrite _ hs)
theorem execFabwriteLnkerr_memOk {h index value} {s : State} (hs : s.MemOk) : OutcomeMemOk (execFabwriteLnkerr h index value s) :=
  .next (State.fabWrite_memOk hs (fun _ ht => State.writeLnkerr_memOk ht))
theorem execFabwritePairrt_memOk {h index value} {s : State} (hs : s.MemOk) : OutcomeMemOk (execFabwritePairrt h index value s) :=
  .next (State.fabWrite_memOk hs (fun _ ht => State.writePairrt_memOk ht))
theorem execFabwriteRemreq_memOk {h index value} {s : State} (hs : s.MemOk) : OutcomeMemOk (execFabwriteRemreq h index value s) :=
  .next (State.fabWrite_memOk hs (fun _ ht => State.writeRemreq_memOk ht))

/-! ### Mgmt: ATTEST, DIEFENCE, FARPOL -/

theorem execAttest_memOk {h nonce buf} {s : State} (hs : s.MemOk) : OutcomeMemOk (execAttest h nonce buf s) := by
  unfold execAttest
  split
  · exact .next (State.answerEntry_memOk hs)
  · split
    · exact .next (State.answerEntry_memOk (State.funcWrite_memOk (State.memOk_with hs)))
    · exact .next (State.answerEntry_memOk hs)
theorem execDiefence_memOk {h die} {s : State} (hs : s.MemOk) : OutcomeMemOk (execDiefence h die s) := by
  unfold execDiefence
  split
  · exact .next (State.answerEntry_memOk hs)
  · exact .next (State.answerEntry_memOk (State.fenceDie_memOk hs))
theorem execFarpol_memOk {h allow} {s : State} (hs : s.MemOk) : OutcomeMemOk (execFarpol h allow s) := by
  unfold execFarpol
  split
  · exact .next (State.answerEntry_memOk hs)
  · extract_lets _ _ s2
    have hs2 : s2.MemOk := by
      unfold s2
      split
      · exact State.hostlink_memOk (State.refar_memOk (State.memOk_with hs))
      · exact State.refar_memOk (State.memOk_with hs)
    exact .next (State.answerEntry_memOk hs2)

/-! ### Mgmt: REGISTER_WRITE: registers that no other row writes -/

theorem State.writeHbctl_memOk {s : State} {x} (h : s.MemOk) : (s.writeHbctl x).MemOk := by
  unfold State.writeHbctl
  extract_lets _ _ _ _ s2
  have hs2 : s2.MemOk := by
    unfold s2
    split
    · exact State.recallFar_memOk (State.memOk_with h)
    · exact State.memOk_with h
  split
  · exact State.hostlink_memOk hs2
  · exact hs2
theorem State.writeSys_memOk {s : State} {gid num x} (h : s.MemOk) : OptionMemOk (s.writeSys gid num x) := by
  unfold State.writeSys
  split
  · exact trivial
  · split
    · exact trivial
    · exact State.setGroup_memOk h
theorem execRegisterWrite_memOk {r value} {s : State} (h : s.MemOk) : OutcomeMemOk (execRegisterWrite r value s) := by
  unfold execRegisterWrite
  split
  · exact .next (State.writeHbctl_memOk h)
  · exact .next (State.modXl_memOk h)
  · split
    · exact .next (State.writeChstat_memOk h)
    · exact .refused
  · refine .next ?_
    split
    · exact State.modFunc_memOk h
    · exact h
  · split
    · rename_i u eu
      have hu := memOk_of_some (State.writeSys_memOk h) eu
      exact .next hu
    · exact .refused

/-! ### Arrive: Fetch -/

theorem State.fetchAt_memOk {s : State} {gid b ia} (h : s.MemOk) : (s.fetchAt gid b ia).1.MemOk := by
  unfold State.fetchAt
  split
  · exact h
  · split
    · exact h
    · exact State.engineAt_memOk h
theorem State.fetch_memOk {s : State} {gid g b clause} (h : s.MemOk) : (s.fetch gid g b clause).1.MemOk := by
  unfold State.fetch
  split
  · exact h
  · split
    · rename_i u eu
      have hu := memOk_of_fst (State.fetchAt_memOk h) eu
      exact hu
    · rename_i u _ eu
      have hu := memOk_of_fst (State.fetchAt_memOk h) eu
      extract_lets
      split
      · exact hu
      · split
        · rename_i u1 eu1
          have hu1 := memOk_of_fst (State.fetchAt_memOk hu) eu1
          exact hu1
        · rename_i u1 _ eu1
          have hu1 := memOk_of_fst (State.fetchAt_memOk hu) eu1
          exact hu1
theorem State.fetchFault_memOk {s : State} {gid i g e cause reason page} (h : s.MemOk) :
    (s.fetchFault gid i g e cause reason page).MemOk := by
  unfold State.fetchFault
  split
  · exact h
  · split
    · exact State.raise_memOk h
    · exact State.setGroup_memOk h
theorem State.takeCode_memOk {s : State} {gid i g e ws} (h : s.MemOk) : (s.takeCode gid i g e ws).MemOk := by
  unfold State.takeCode
  split
  · split
    · exact h
    · exact State.badClause_memOk h
  · extract_lets
    split
    · split
      · exact h
      · exact State.setGroup_memOk h
    · exact State.setGroup_memOk h

/-! ### Arrive: Waits -/

theorem State.waitFault_memOk {s : State} {gid i g e f} (h : s.MemOk) : (s.waitFault gid i g e f).MemOk := by
  unfold State.waitFault
  extract_lets
  split
  · exact State.raise_memOk (State.setGroup_memOk h)
  · exact State.setGroup_memOk h
theorem State.slotWait_memOk {s : State} {gid i g e h hb b sl} (hs : s.MemOk) : (s.slotWait gid i g e h hb b sl).MemOk := by
  unfold State.slotWait
  split
  · exact State.waitFault_memOk hs
  · extract_lets
    split
    · exact State.setGroup_memOk hs
    · exact hs
theorem State.evalWait_memOk {s : State} {gid i g b e} (h : s.MemOk) : (s.evalWait gid i g b e).MemOk := by
  unfold State.evalWait
  extract_lets _ off
  have hoff : ∀ x0, (off x0).MemOk := by
    intro _
    unfold off
    split
    · exact h
    · exact State.setGroup_memOk h
  split
  · exact State.setGroup_memOk h
  · split
    · split
      · exact State.setGroup_memOk h
      · exact h
    · split
      · split
        · exact h
        · exact State.badClause_memOk h
      · split
        · exact hoff _
        · split
          · exact hoff _
          · split
            · exact hoff _
            · exact State.slotWait_memOk h

/-! ### Arrive: Arrival -/

theorem State.settleEntry_memOk {s : State} {gid i} (h : s.MemOk) : (s.settleEntry gid i).MemOk := by
  unfold State.settleEntry
  split
  · exact h
  · split
    · extract_lets s1
      have hs1 : s1.MemOk := by
        unfold s1
        split
        · exact h
        · split
          · rename_i u _ eu
            have hu := memOk_of_fst (State.fetch_memOk h) eu
            exact State.takeCode_memOk hu
          · rename_i u eu
            have hu := memOk_of_fst (State.fetch_memOk h) eu
            exact hu
          · rename_i u _ _ _ eu
            have hu := memOk_of_fst (State.fetch_memOk h) eu
            exact State.fetchFault_memOk hu
      split
      · split
        · exact State.evalWait_memOk hs1
        · exact hs1
      · exact hs1
    · exact h
theorem State.settleGroup_memOk {s : State} {gid} (h : s.MemOk) : (s.settleGroup gid).MemOk := by
  unfold State.settleGroup
  refine foldl_keeps State.MemOk _ _ _ h fun t _ ht => ?_
  split
  · split
    · exact State.settleEntry_memOk ht
    · exact ht
  · exact ht

/-! ### Arrive: The word an entry comes to -/

theorem State.illegalPair_memOk {s : State} {gid i e k act} (h : s.MemOk) : (s.illegalPair gid i e k act).MemOk := by
  unfold State.illegalPair
  extract_lets
  split
  · exact State.illegal_memOk (State.modGroup_memOk h)
  · exact State.modGroup_memOk (State.illegal_memOk (State.modGroup_memOk h))
theorem State.hitComparator_memOk {s : State} {gid g e c} (h : s.MemOk) : (s.hitComparator gid g e c).MemOk :=
  State.modBlock_memOk (State.setGroup_memOk h)
theorem State.comeTo_memOk {s : State} {gid i} (h : s.MemOk) : Coming.MemOk (s.comeTo gid i) := by
  unfold State.comeTo
  split
  · exact h
  · split
    · split
      · exact h
      · extract_lets
        split
        · split <;> exact h
        · split
          · exact h
          · split
            · split
              · exact h
              · exact State.illegalPair_memOk h
            · split
              · exact h
              · split
                · exact State.setGroup_memOk h
                · split
                  · exact h
                  · exact State.illegal_memOk h
    · exact h

/-! ### Small: Views -/

theorem State.kWord_memOk {s : State} {i g} (h : s.MemOk) : OutcomeMemOk (s.kWord i g) := by
  unfold State.kWord
  refine State.word_memOk h ?_
  intro _ _ ht
  split
  · exact State.illegal_memOk ht
  · extract_lets _ _ _ start r
    have hstart : ∀ x0 t1, t1.MemOk → (start x0 t1).MemOk := by
      intro _ t1 ht1
      unfold start
      split
      · exact State.goOn_memOk ht1
      · exact State.modGroup_memOk ht1
    have hr : r.1.MemOk := by
      unfold r
      split
      · exact ht
      · exact State.faultAt_memOk ht
    split
    · exact hr
    · split
      · exact State.modGroup_memOk hr
      · exact hstart _ _ (State.modGroup_memOk hr)

/-! ### Small: The words -/

theorem execKshape_memOk {g wide kd base rows cols} {s : State} (h : s.MemOk) :
    OutcomeMemOk (execKshape g wide kd base rows cols s) :=
  State.word_memOk h (fun _ _ ht => State.goOn_memOk (State.modGroup_memOk ht))
theorem execKshapeClr_memOk {g kd} {s : State} (h : s.MemOk) : OutcomeMemOk (execKshapeClr g kd s) :=
  State.word_memOk h (fun _ _ ht => State.goOn_memOk (State.modGroup_memOk ht))

/-! ### Small: Results -/

theorem execKwordComplete_memOk {gid} {s : State} (h : s.MemOk) : OutcomeMemOk (execKwordComplete gid s) := by
  unfold execKwordComplete
  split
  · exact .refused
  · split
    · exact .next (State.entryOn_memOk (State.setGroup_memOk h))
    · exact .refused

/-! ### Select: The lane-cycle record -/

theorem State.lcrIdle_memOk {s : State} {c p n} (h : s.MemOk) : (s.lcrIdle c p n).MemOk := by
  unfold State.lcrIdle
  refine foldl_keeps State.MemOk _ _ _ h fun t _ ht => ?_
  split
  · split
    · exact State.modCore_memOk ht
    · exact ht
  · exact ht
theorem State.lcrPass_memOk {s : State} {n} (h : s.MemOk) : (s.lcrPass n).MemOk := by
  unfold State.lcrPass
  split
  · exact h
  · exact foldl_keeps State.MemOk _ _ _ h fun _ _ ht => foldl_keeps State.MemOk _ _ _ ht fun _ _ ht1 => State.lcrIdle_memOk ht1

/-! ### Select: ISSUE_SELECT -/

theorem State.issue_memOk {s : State} {c p st x} (h : s.MemOk) : (s.issue c p st x).MemOk := by
  unfold State.issue
  extract_lets
  split
  · split
    · exact State.modCore_memOk (State.memOk_with (State.modCore_memOk (State.setGroup_memOk h)))
    · exact State.memOk_with (State.modCore_memOk (State.setGroup_memOk h))
  · exact State.memOk_with (State.modCore_memOk (State.setGroup_memOk h))
theorem State.selectOn_memOk {s : State} {c p} (h : s.MemOk) : (s.selectOn c p).MemOk := by
  unfold State.selectOn
  extract_lets _ _ _ s2 _ _ _ go
  have hs2 : s2.MemOk := by
    unfold s2
    split
    · refine State.modCore_memOk ?_
      split
      · exact State.revoke_memOk (foldl_keeps State.MemOk _ _ _ h fun _ _ ht => State.settleGroup_memOk ht)
      · exact foldl_keeps State.MemOk _ _ _ h fun _ _ ht => State.settleGroup_memOk ht
    · exact foldl_keeps State.MemOk _ _ _ h fun _ _ ht => State.settleGroup_memOk ht
  have hgo : ∀ x0 x1, (go x0 x1).MemOk := by
    intro _ _
    unfold go
    split
    · exact State.lcrIdle_memOk (State.hitComparator_memOk hs2)
    · exact State.issue_memOk hs2
  split
  · exact hgo _ _
  · split
    · exact hgo _ _
    · exact State.lcrIdle_memOk (State.modCore_memOk hs2)
theorem execFreightRevoke_memOk {core} {s : State} (h : s.MemOk) : OutcomeMemOk (execFreightRevoke core s) := by
  unfold execFreightRevoke
  split
  · exact .next (State.revoke_memOk h)
  · exact .refused
theorem execIssueSelect_memOk {core platform} {s : State} (h : s.MemOk) : OutcomeMemOk (execIssueSelect core platform s) := by
  unfold execIssueSelect
  split
  · exact .refused
  · exact .next (State.selectOn_memOk h)
theorem State.afterWord_memOk {s : State} {gid g b e} (h : s.MemOk) : (s.afterWord gid g b e).MemOk := by
  unfold State.afterWord
  split
  · exact h
  · extract_lets
    split
    · exact h
    · split
      · exact State.setGroup_memOk h
      · exact State.modCore_memOk (State.setGroup_memOk h)

/-! ### Select: BRANCH_RESOLVE -/

theorem State.askAgain_memOk {s : State} {gid slot} (h : s.MemOk) : (s.askAgain gid slot).MemOk := by
  unfold State.askAgain
  split
  · exact h
  · split
    · exact h
    · exact State.sendLanes_memOk (State.putLog_memOk h)
theorem execBranchResolve_memOk {gid n} {s : State} (h : s.MemOk) : OutcomeMemOk (execBranchResolve gid n s) := by
  unfold execBranchResolve
  split
  · exact .refused
  · split
    · exact .refused
    · exact .next (foldl_keeps State.MemOk _ _ _ (State.modMd_memOk (State.pruneSpec_memOk (foldl_keeps State.MemOk _ _ _
        (State.squashLcr_memOk (State.setGroup_memOk h)) fun _ _ ht => State.setCore_memOk ht))) fun _ _ ht =>
        State.askAgain_memOk ht)

/-! ### Select: JOIN_WAIT_SATISFIED -/

theorem execJoinWaitSatisfied_memOk {gid} {s : State} (h : s.MemOk) : OutcomeMemOk (execJoinWaitSatisfied gid s) := by
  unfold execJoinWaitSatisfied
  split
  · exact .refused
  · split
    · exact .next (State.setGroup_memOk h)
    · exact .refused

/-! ### Select: TRAP_ENTRY -/

theorem execTrapEntry_memOk {gid} {s : State} (h : s.MemOk) : OutcomeMemOk (execTrapEntry gid s) := by
  unfold execTrapEntry
  split
  · exact .refused
  · split
    · exact .refused
    · extract_lets
      split
      · exact .next (State.modGroup_memOk (State.squashGroup_memOk h))
      · split
        · exact .next (State.modGroup_memOk (State.squashGroup_memOk h))
        · refine .next ?_
          split
          · exact State.enterTrap_memOk (State.modGroup_memOk (State.squashGroup_memOk h))
          · exact State.setGroup_memOk (State.modGroup_memOk (State.squashGroup_memOk h))

/-! ### Select: Stall reasons and SAMPLE_TICK -/

theorem State.sample_memOk {s : State} {c ctx p ptr} (h : s.MemOk) : (s.sample c ctx p ptr).1.MemOk := by
  unfold State.sample
  extract_lets _ issued _ _ w
  clear_value issued w
  split
  · exact h
  · exact State.logbook_memOk h
  · exact State.logbook_memOk h
theorem execSampleTick_memOk {core ctx} {s : State} (h : s.MemOk) : OutcomeMemOk (execSampleTick core ctx s) := by
  unfold execSampleTick
  split
  · exact .next (State.modCore_memOk (State.sample_memOk h))
  · exact .refused

end Sys2Proof.Machine
end
section
/-! Every step keeps the canonical form of memory: the dispatch, the events, the cycle and the step. -/

namespace Sys2Proof.Machine

/-! ### Dispatch -/

/-- Every instruction and event but the choice of what issues keeps both memories canonical. -/
theorem exec_memOk_of_ne {i} {s : State} (hi : ∀ c p, i ≠ .issueSelect c p) (h : s.MemOk) : OutcomeMemOk (exec i s) := by
  unfold exec
  cases i with
  | nop => exact execNop_memOk h
  | iadd | isub | iadds | imul | imulhi | idiv | irem | imin | imax => exact State.int2_memOk h
  | iaddc => exact execIaddc_memOk h
  | imad => exact execImad_memOk h
  | imadw => exact execImadw_memOk h
  | iabs | ineg | iaddImm => exact State.int1_memOk h
  | and | or | xor | andn => exact State.nat2_memOk h
  | not => exact execNot_memOk h
  | andImm | orImm | xorImm => exact State.natImm_memOk h
  | shl | shr | sar | rot => exact State.shift_memOk h
  | fsh => exact execFsh_memOk h
  | popc | clz | ctz => exact State.countWord_memOk h
  | brev => exact execBrev_memOk h
  | bfx => exact execBfx_memOk h
  | bfi => exact execBfi_memOk h
  | prmt => exact execPrmt_memOk h
  | lea => exact execLea_memOk h
  | icmp => exact execIcmp_memOk h
  | icmpImm => exact execIcmpImm_memOk h
  | sel => exact execSel_memOk h
  | fadd | fsub | fmul | fdiv | fmin | fmax | fminp | fmaxp => exact State.float2_memOk h
  | ffma | ffms => exact State.float3_memOk h
  | fscale => exact execFscale_memOk h
  | fsqrt | fabs | fneg | frnd => exact State.float1_memOk h
  | fcmp => exact execFcmp_memOk h
  | fclass => exact execFclass_memOk h
  | frcp | frsq | fexp2 | flog2 | fsin | fcos | ftanh => exact State.approx_memOk h
  | cvt => exact execCvt_memOk h
  | pack => exact execPack_memOk h
  | unpk => exact execUnpk_memOk h
  | mxscale => exact execMxscale_memOk h
  | mxq => exact execMxq_memOk h
  | mxdq => exact execMxdq_memOk h
  | hfma2 => exact execHfma2_memOk h
  | idot4 => exact execIdot4_memOk h
  | fdot2 => exact execFdot2_memOk h
  | plop => exact execPlop_memOk h
  | ppack => exact execPpack_memOk h
  | punpack => exact execPunpack_memOk h
  | pmov => exact execPmov_memOk h
  | pmovBit => exact execPmovBit_memOk h
  | mov => exact execMov_memOk h
  | movToIndex => exact execMovToIndex_memOk h
  | movFromIndex => exact execMovFromIndex_memOk h
  | movi => exact execMovi_memOk h
  | bcast => exact execBcast_memOk h
  | lanerd => exact execLanerd_memOk h
  | lanewr => exact execLanewr_memOk h
  | setxw => exact execSetxw_memOk h
  | qswz => exact execQswz_memOk h
  | qdiff => exact execQdiff_memOk h
  | shflPick | shflRot | shflSlide | shflFlip => exact State.shfl_memOk h
  | voteMask | voteCount | voteLead | voteAgree => exact State.vote_memOk h
  | matchLead | matchMask => exact State.matchLanes_memOk h
  | redux => exact execRedux_memOk h
  | scan => exact execScan_memOk h
  | join => exact execJoin_memOk h
  | ld => exact execLd_memOk h
  | st => exact execSt_memOk h
  | ldc => exact execLdc_memOk h
  | pref => exact execPref_memOk h
  | cctlDrop => exact execCctlDrop_memOk h
  | cctlDrop4k => exact execCctlDrop4k_memOk h
  | cctlRenew => exact execCctlRenew_memOk h
  | xclr => exact execXclr_memOk h
  | memopFill | memopAxpy | memopAdd | memopMul | memopReduce => exact State.memopWord_memOk h
  | fence => exact execFence_memOk h
  | flsig => exact execFlsig_memOk h
  | watch => exact execWatch_memOk h
  | atomAdd | atomMin | atomMax | atomAnd | atomOr | atomXor | atomExch | atomCas | atomFadd => exact State.atom_memOk h
  | atomXadd => exact execAtomXadd_memOk h
  | redAdd | redMin | redMax | redAnd | redOr | redXor | redFadd => exact State.red_memOk h
  | redXadd => exact execRedXadd_memOk h
  | binit => exact execBinit_memOk h
  | arrive => exact execArrive_memOk h
  | arriveAddress => exact execArriveAddress_memOk h
  | expectOnce | expectEach => exact State.expectWord_memOk h
  | btestPa | btestPb | btestAll | btestPassed => exact State.btest_memOk h
  | binval => exact execBinval_memOk h
  | cpy | cpym | cpyr | cpyg => exact State.copyWord_memOk h
  | cpyx => exact execCpyx_memOk h
  | acfg => exact execAcfg_memOk h
  | azero | ald | ast | ard | awr => exact State.tileWord_memOk h
  | afence => exact execAfence_memOk h
  | mma => exact execMma_memOk h
  | mmas => exact execMmas_memOk h
  | kshape => exact execKshape_memOk h
  | kshapeClr => exact execKshapeClr_memOk h
  | kzero | keye | kadd | kmul | kmad | ktrn | kchol | kldl | klu | ksolve | kdet | kinv => exact State.kWord_memOk h
  | bra => exact execBra_memOk h
  | brx => exact execBrx_memOk h
  | call => exact execCall_memOk h
  | callx => exact execCallx_memOk h
  | ret => exact execRet_memOk h
  | exit => exact execExit_memOk h
  | yield => exact execYield_memOk h
  | launch => exact execLaunch_memOk h
  | migrate => exact execMigrate_memOk h
  | trap => exact execTrap_memOk h
  | bkpt => exact execBkpt_memOk h
  | srd => exact execSrd_memOk h
  | swr => exact execSwr_memOk h
  | ctxsaveCopy => exact execCtxsaveCopy_memOk h
  | ctxsaveAcc => exact execCtxsaveAcc_memOk h
  | ctxsaveGrp => exact execCtxsaveGrp_memOk h
  | ctxsaveBlk => exact execCtxsaveBlk_memOk h
  | ctxrestBlk => exact execCtxrestBlk_memOk h
  | ctxrestGrp => exact execCtxrestGrp_memOk h
  | ctxrestAcc => exact execCtxrestAcc_memOk h
  | ctxrestCopy => exact execCtxrestCopy_memOk h
  | eret => exact execEret_memOk h
  | hostint => exact execHostint_memOk h
  | pmark => exact execPmark_memOk h
  | logw => exact execLogw_memOk h
  | ctxnew => exact execCtxnew_memOk h
  | ctxreset => exact execCtxreset_memOk h
  | segset => exact execSegset_memOk h
  | weights => exact execWeights_memOk h
  | logset => exact execLogset_memOk h
  | fabread => exact execFabread_memOk h
  | fabwriteLnkerr => exact execFabwriteLnkerr_memOk h
  | fabwritePairrt => exact execFabwritePairrt_memOk h
  | fabwriteRemreq => exact execFabwriteRemreq_memOk h
  | attest => exact execAttest_memOk h
  | diefence => exact execDiefence_memOk h
  | farpol => exact execFarpol_memOk h
  | expgrant => exact execExpgrant_memOk h
  | flitReceive => exact execFlitReceive_memOk h
  | ackFlitTimer => exact execAckFlitTimer_memOk h
  | nakReplay => exact execNakReplay_memOk h
  | replayTimeout => exact execReplayTimeout_memOk h
  | pauseReceive => exact execPauseReceive_memOk h
  | ackReceive => exact execAckReceive_memOk h
  | channelDead => exact execChannelDead_memOk h
  | channelState => exact execChannelState_memOk h
  | linkChangeReport => exact execLinkChangeReport_memOk h
  | channelRetrainStart => exact execChannelRetrainStart_memOk h
  | channelTrainingEnd => exact execChannelTrainingEnd_memOk h
  | relayedFlitForward => exact execRelayedFlitForward_memOk h
  | pairdownTimeout => exact execPairdownTimeout_memOk h
  | laserFail => exact execLaserFail_memOk h
  | laserMonitorReport => exact execLaserMonitorReport_memOk h
  | standbyCommit => exact execStandbyCommit_memOk h
  | standbyLightOn => exact execStandbyLightOn_memOk h
  | moduleRemoval => exact execModuleRemoval_memOk h
  | moduleInsert => exact execModuleInsert_memOk h
  | moduleWarmDone => exact execModuleWarmDone_memOk h
  | standbyFail => exact execStandbyFail_memOk h
  | eventVectorHoldoffExpiry => exact execEventVectorHoldoffExpiry_memOk h
  | junctionThrottle => exact execJunctionThrottle_memOk h
  | powerP2Entry => exact execPowerP2Entry_memOk h
  | powerP2Exit => exact execPowerP2Exit_memOk h
  | homeRequestAccept => exact execHomeRequestAccept_memOk h
  | retryResend => exact execRetryResend_memOk h
  | heldWritePerform => exact execHeldWritePerform_memOk h
  | parityAck => exact execParityAck_memOk h
  | parityDelta => exact execParityDelta_memOk h
  | writeClassDecay => exact execWriteClassDecay_memOk h
  | leaseRenewal => exact execLeaseRenewal_memOk h
  | cellOperation => exact execCellOperation_memOk h
  | cellMirrorUpdate => exact execCellMirrorUpdate_memOk h
  | memopUnit => exact execMemopUnit_memOk h
  | granuleRelease => exact execGranuleRelease_memOk h
  | heatSample => exact execHeatSample_memOk h
  | heatEpoch => exact execHeatEpoch_memOk h
  | dramScrub => exact execDramScrub_memOk h
  | memoryDieFailure => exact execMemoryDieFailure_memOk h
  | hostLinkChange => exact execHostLinkChange_memOk h
  | hostMemoryAccess => exact execHostMemoryAccess_memOk h
  | uioCompletion => exact execUioCompletion_memOk h
  | functionLevelReset => exact execFunctionLevelReset_memOk h
  | flrdone => exact execFlrdone_memOk h
  | computeDieFatal => exact execComputeDieFatal_memOk h
  | sramue => exact execSramue_memOk h
  | deviceReset => exact execDeviceReset_memOk
  | alarm => exact execAlarm_memOk h
  | loglost => exact execLoglost_memOk h
  | missRecord => exact execMissRecord_memOk h
  | missRecordResend => exact execMissRecordResend_memOk h
  | pageWalkDone => exact execPageWalkDone_memOk h
  | fillInstall => exact execFillInstall_memOk h
  | faultReady => exact execFaultReady_memOk h
  | faultFinal => exact execFaultFinal_memOk h
  | tlbInvalidation => exact execTlbInvalidation_memOk h
  | pendingReply => exact execPendingReply_memOk h
  | wakeReplay => exact execWakeReplay_memOk h
  | finalReply => exact execFinalReply_memOk h
  | hostFaultTimeout => exact execHostFaultTimeout_memOk h
  | migration => exact execMigration_memOk h
  | launchReply => exact execLaunchReply_memOk h
  | blockPlace => exact execBlockPlace_memOk h
  | resplitTimeout => exact execResplitTimeout_memOk h
  | drainTimeout => exact execDrainTimeout_memOk h
  | sliceExpiry => exact execSliceExpiry_memOk h
  | backgroundPromote => exact execBackgroundPromote_memOk h
  | preemptRequest => exact execPreemptRequest_memOk h
  | blockRestore => exact execBlockRestore_memOk h
  | blockRetire => exact execBlockRetire_memOk h
  | taskComplete => exact execTaskComplete_memOk h
  | issueSelect => exact absurd rfl (hi _ _)
  | loadComplete => exact execLoadComplete_memOk h
  | branchResolve => exact execBranchResolve_memOk h
  | renewalReply => exact execRenewalReply_memOk h
  | storeAck => exact execStoreAck_memOk h
  | freightRevoke => exact execFreightRevoke_memOk h
  | freightClosed => exact execFreightClosed_memOk h
  | freightReopen => exact execFreightReopen_memOk h
  | joinWaitSatisfied => exact execJoinWaitSatisfied_memOk h
  | arrivalApply => exact execArrivalApply_memOk h
  | watchFire => exact execWatchFire_memOk h
  | copyUnitDeliver => exact execCopyUnitDeliver_memOk h
  | copyAdmit => exact execCopyAdmit_memOk h
  | mmaChunkEnd => exact execMmaChunkEnd_memOk h
  | mmaComplete => exact execMmaComplete_memOk h
  | mmaResume => exact execMmaResume_memOk h
  | tileWordComplete => exact execTileWordComplete_memOk h
  | kwordComplete => exact execKwordComplete_memOk h
  | trapEntry => exact execTrapEntry_memOk h
  | debugStop => exact execDebugStop_memOk h
  | stopRecord => exact execStopRecord_memOk h
  | debugResume => exact execDebugResume_memOk h
  | debugIdentify => exact .next (State.portSays_memOk h)
  | debugChallenge => exact .next (State.portSays_memOk (State.memOk_with h))
  | debugUnlock => exact execDebugUnlock_memOk h
  | dbgcmpWrite => exact execDbgcmpWrite_memOk h
  | sampleTick => exact execSampleTick_memOk h
  | lcrFlush => exact execLcrFlush_memOk h
  | logbookConfigRead => exact execLogbookConfigRead_memOk h
  | registerWrite => exact execRegisterWrite_memOk h
  | moduleOut => exact execModuleOut_memOk h
  | powerLoss => exact .next (State.memOk_with State.reset_memOk)
  | msixTableWrite => exact execMsixTableWrite_memOk h
  | migrateShippingDone => exact execMigrateShippingDone_memOk h
theorem exec_memOk {i} {s : State} (h : s.MemOk) : OutcomeMemOk (exec i s) := by
  by_cases hi : ∃ c p, i = .issueSelect c p
  · obtain ⟨c, p, rfl⟩ := hi
    exact execIssueSelect_memOk h
  · exact exec_memOk_of_ne (fun c p hc => hi ⟨c, p, hc⟩) h

/-! ### Cycle: The selected word -/

theorem finishWord_memOk {gid g b e o} (ho : OutcomeMemOk o) : OutcomeMemOk (finishWord gid g b e o) := by
  cases ho with
  | next h => exact .next (State.memOk_with (State.afterWord_memOk h))
  | fault => exact .fault
  | refused => exact .refused
theorem State.issueEntry_memOk {s : State} {gid i again} (h : s.MemOk) : OutcomeMemOk (s.issueEntry gid i again) := by
  unfold State.issueEntry
  split
  · exact .next h
  · split
    · split
      · rename_i u eu
        have hu := memOk_of_done (State.comeTo_memOk h) eu
        exact finishWord_memOk (.next (State.memOk_with hu))
      · rename_i u _ eu
        have hu := memOk_of_run (State.comeTo_memOk h) eu
        exact finishWord_memOk (exec_memOk (State.memOk_with hu))
    · exact .next h
theorem State.issueNext_memOk {s : State} {gid l rest} (h : s.MemOk) : OutcomeMemOk (s.issueNext gid l rest) := by
  unfold State.issueNext
  extract_lets
  split
  · exact .next (State.memOk_with h)
  · extract_lets s1
    have hs1 : s1.MemOk := by
      unfold s1
      split
      · exact State.settleEntry_memOk (State.memOk_with h)
      · exact State.memOk_with h
    split
    · exact .next hs1
    · exact State.issueEntry_memOk hs1

/-! ### Cycle: Events that are due -/

/-- The first of some events that is pending keeps both memories canonical if each of them does. -/
theorem State.firstOf_memOk {s : State} {l : List Event} (h : s.MemOk) (hl : Keeping l) : OptionMemOk (s.firstOf l) := by
  induction l with
  | nil => exact trivial
  | cons f rest ih =>
    unfold State.firstOf
    split
    · rename_i t et
      exact memOk_of_next (hl f List.mem_cons_self s h) et
    · exact ih fun e he => hl e (List.mem_cons_of_mem _ he)
theorem State.groupEvents_memOk {s : State} : Keeping s.groupEvents := by
  unfold State.groupEvents
  refine keeping_flatten_map fun _ => ?_
  refine keeping_append ?_ ?_
  · refine keeping_append ?_ ?_
    · refine keeping_append (keeping_map fun _ => fun _ ht => execBranchResolve_memOk ht) ?_
      split
      · exact keeping_nil
      · exact keeping_cons (fun _ ht => execTrapEntry_memOk ht) keeping_nil
    · split
      · exact keeping_cons (fun _ ht => execMigrateShippingDone_memOk ht) keeping_nil
      · exact keeping_nil
  · split
    · exact keeping_cons (fun _ ht => execJoinWaitSatisfied_memOk ht) keeping_nil
    · exact keeping_nil
theorem State.blockEvents_memOk {s : State} : Keeping s.blockEvents := by
  unfold State.blockEvents
  refine keeping_flatten_map fun _ => ?_
  refine keeping_append ?_ (keeping_cons (fun _ ht => execBlockRetire_memOk ht) keeping_nil)
  refine keeping_append ?_ ?_
  · refine keeping_append ?_ ?_
    · split
      · exact keeping_cons (fun _ ht => execDebugStop_memOk ht) keeping_nil
      · exact keeping_nil
    · split
      · exact keeping_cons (fun _ ht => execStopRecord_memOk ht) keeping_nil
      · exact keeping_nil
  · split
    · exact keeping_cons (fun _ ht => execPreemptRequest_memOk ht) keeping_nil
    · exact keeping_nil
theorem State.engineEvents_memOk {s : State} : Keeping s.engineEvents := by
  unfold State.engineEvents
  refine keeping_append ?_ ?_
  · refine keeping_append ?_ ?_
    · refine keeping_append ?_ (keeping_map fun _ => fun _ ht => execRenewalReply_memOk ht)
      refine keeping_flatten_map fun _ => ?_
      refine keeping_append ?_ (keeping_map fun _ => fun _ ht => execLoadComplete_memOk ht)
      refine keeping_append ?_ ?_
      · refine keeping_append ?_ ?_
        · refine keeping_append ?_ ?_
          · split
            · exact keeping_cons (fun _ ht => execMmaResume_memOk ht) keeping_nil
            · exact keeping_nil
          · split
            · exact keeping_cons (fun _ ht => execMmaComplete_memOk ht) (keeping_cons (fun _ ht => execMmaChunkEnd_memOk ht)
                keeping_nil)
            · exact keeping_nil
        · split
          · exact keeping_cons (fun _ ht => execTileWordComplete_memOk ht) keeping_nil
          · exact keeping_nil
      · split
        · exact keeping_cons (fun _ ht => execKwordComplete_memOk ht) keeping_nil
        · exact keeping_nil
    · refine keeping_flatten_map fun _ => ?_
      refine keeping_append ?_ ?_
      · split
        · exact keeping_nil
        · exact keeping_cons (fun _ ht => execStoreAck_memOk ht) keeping_nil
      · split
        · exact keeping_nil
        · exact keeping_cons (fun _ ht => execFreightClosed_memOk ht) (keeping_cons (fun _ ht => execFreightReopen_memOk ht)
            keeping_nil)
  · refine keeping_flatten_map fun _ => ?_
    refine keeping_append ?_ (keeping_flatten_map fun _ => keeping_map fun _ => fun _ ht => execCopyUnitDeliver_memOk ht)
    split
    · exact keeping_cons (fun _ ht => execCopyAdmit_memOk ht) keeping_nil
    · exact keeping_nil
theorem State.sendResumes_memOk {s : State} (h : s.MemOk) : OutcomeMemOk s.sendResumes := by
  unfold State.sendResumes
  extract_lets
  split
  · exact .next (State.settlePauses_memOk h)
  · exact .refused
theorem State.linkEvents_memOk {s : State} : Keeping s.linkEvents := by
  unfold State.linkEvents
  refine keeping_append (keeping_append (keeping_append (keeping_append (keeping_flatten_map fun _ => keeping_cons (fun _ ht =>
    execFlitReceive_memOk ht) (keeping_cons (fun _ ht => execAckReceive_memOk ht) (keeping_cons (fun _ ht => execNakReplay_memOk
    ht) (keeping_cons (fun _ ht => execPauseReceive_memOk ht) (keeping_cons (fun _ ht => execChannelState_memOk ht) (keeping_cons
    (fun _ ht => execLinkChangeReport_memOk ht) (keeping_cons (fun _ ht => execAckFlitTimer_memOk ht) (keeping_cons (fun _ ht =>
    execReplayTimeout_memOk ht) (keeping_cons (fun _ ht => execPairdownTimeout_memOk ht) keeping_nil))))))))) (keeping_map fun _
    => fun _ ht => execRelayedFlitForward_memOk ht)) (keeping_map fun _ => fun _ ht => execLaserMonitorReport_memOk ht))
    (keeping_cons (fun _ ht => execStandbyCommit_memOk ht) keeping_nil)) ?_
  split
  · exact keeping_cons (fun _ ht => State.sendResumes_memOk ht) keeping_nil
  · exact keeping_nil
theorem State.memoryEvents_memOk {s : State} : Keeping s.memoryEvents := by
  unfold State.memoryEvents
  refine keeping_append ?_ ?_
  · refine keeping_append ?_ ?_
    · refine keeping_append ?_ ?_
      · refine keeping_append ?_ ?_
        · refine keeping_append ?_ ?_
          · refine keeping_append ?_ ?_
            · refine keeping_append ?_ ?_
              · refine keeping_append ?_ ?_
                · refine keeping_append ?_ ?_
                  · refine keeping_append ?_ ?_
                    · refine keeping_append (keeping_flatten_map fun _ => keeping_cons (fun _ ht => execHomeRequestAccept_memOk
                        ht) (keeping_cons (fun _ ht => execLeaseRenewal_memOk ht) (keeping_cons (fun _ ht => execRetryResend_memOk
                        ht) keeping_nil))) ?_
                      split
                      · exact keeping_nil
                      · exact keeping_map fun _ => fun _ ht => execHeldWritePerform_memOk ht
                    · split
                      · exact keeping_nil
                      · exact keeping_map fun _ => fun _ ht => execParityDelta_memOk ht
                  · split
                    · exact keeping_nil
                    · exact keeping_map fun _ => fun _ ht => execParityAck_memOk ht
                · split
                  · exact keeping_nil
                  · exact keeping_cons (fun _ ht => execUioCompletion_memOk ht) keeping_nil
              · split
                · exact keeping_nil
                · exact keeping_map fun _ => fun _ ht => execCellOperation_memOk ht
            · split
              · exact keeping_nil
              · exact keeping_map fun _ => fun _ ht => execCellMirrorUpdate_memOk ht
          · split
            · exact keeping_nil
            · exact keeping_map fun _ => fun _ ht => execMemopUnit_memOk ht
        · split
          · exact keeping_nil
          · exact keeping_cons (fun _ ht => execHeatSample_memOk ht) keeping_nil
      · refine keeping_filterMap fun _ => ?_
        split
        · exact trivial
        · exact fun _ ht => execGranuleRelease_memOk ht
    · split
      · exact keeping_nil
      · exact keeping_cons (fun _ ht => State.writeOverflows_memOk ht) keeping_nil
  · refine keeping_filterMap fun _ => ?_
    split
    · exact trivial
    · exact fun _ ht => execWriteClassDecay_memOk ht
theorem State.xlateEvents_memOk {s : State} : Keeping s.xlateEvents := by
  unfold State.xlateEvents
  refine keeping_append ?_ ?_
  · refine keeping_append ?_ ?_
    · refine keeping_append ?_ ?_
      · refine keeping_append ?_ ?_
        · refine keeping_append ?_ (keeping_map fun _ => fun _ ht => execTlbInvalidation_memOk ht)
          refine keeping_append ?_ (keeping_map fun _ => fun _ ht => execFillInstall_memOk ht)
          refine keeping_append ?_ ?_
          · refine keeping_append ?_ (keeping_map fun _ => fun _ ht => execMissRecordResend_memOk ht)
            split
            · exact keeping_nil
            · exact keeping_cons (fun _ ht => execMissRecord_memOk ht) keeping_nil
          · refine keeping_filterMap fun _ => ?_
            split
            · exact fun _ ht => execPageWalkDone_memOk ht
            · exact trivial
        · split
          · exact keeping_cons (fun _ ht => execMigration_memOk ht) keeping_nil
          · exact keeping_nil
      · split
        · exact keeping_nil
        · exact keeping_cons (fun _ ht => execPendingReply_memOk ht) keeping_nil
    · split
      · exact keeping_nil
      · exact keeping_cons (fun _ ht => execWakeReplay_memOk ht) (keeping_cons (fun _ ht => execFinalReply_memOk ht) keeping_nil)
  · split
    · exact keeping_nil
    · exact keeping_cons (fun _ ht => execHostFaultTimeout_memOk ht) keeping_nil
theorem State.boxEvents_memOk {s : State} : Keeping s.boxEvents := by
  unfold State.boxEvents
  extract_lets
  refine keeping_append ?_ ?_
  · refine keeping_append ?_ (keeping_map fun _ => fun _ ht => execDrainTimeout_memOk ht)
    refine keeping_append ?_ ?_
    · refine keeping_append ?_ ?_
      · refine keeping_append ?_ ?_
        · split
          · exact keeping_nil
          · exact keeping_cons (fun _ ht => execArrivalApply_memOk ht) keeping_nil
        · split
          · exact keeping_nil
          · exact keeping_cons (fun _ ht => execWatchFire_memOk ht) keeping_nil
      · split
        · exact keeping_nil
        · exact keeping_cons (fun _ ht => execLaunchReply_memOk ht) keeping_nil
    · refine keeping_flatten_map fun _ => ?_
      refine keeping_append (keeping_append (keeping_cons (fun _ ht => execTaskComplete_memOk ht) keeping_nil)
        (keeping_flatten_map fun _ => keeping_map fun _ => fun _ ht => execBlockRestore_memOk ht)) ?_
      split
      · exact keeping_append (keeping_append (keeping_append (keeping_map fun _ => fun _ ht => execBlockPlace_memOk ht)
          (keeping_cons (fun _ ht => execBackgroundPromote_memOk ht) keeping_nil)) (keeping_map fun _ => fun _ ht =>
          execSliceExpiry_memOk ht)) (keeping_map fun _ => fun _ ht => execResplitTimeout_memOk ht)
      · exact keeping_nil
  · split
    · exact keeping_nil
    · exact keeping_cons (fun _ ht => State.placeStation_memOk ht) keeping_nil
theorem State.timerEvents_memOk {s : State} : Keeping s.timerEvents := by
  unfold State.timerEvents
  refine keeping_append ?_ (keeping_cons (fun _ ht => execLcrFlush_memOk ht) keeping_nil)
  refine keeping_append ?_ (keeping_map fun _ => fun _ ht => execHeatEpoch_memOk ht)
  refine keeping_flatten_map fun _ => ?_
  refine keeping_append (keeping_map fun _ => fun _ ht => execEventVectorHoldoffExpiry_memOk ht) ?_
  split
  · exact keeping_nil
  · exact keeping_cons (fun _ ht => execLoglost_memOk ht) keeping_nil
theorem State.takeEntry_memOk {s : State} (h : s.MemOk) : OutcomeMemOk s.takeEntry := by
  unfold State.takeEntry
  split
  · exact .refused
  · split
    · exact exec_memOk h
    · exact .next (State.answerEntry_memOk h)
theorem State.gatedEvents_memOk {s : State} : Keeping s.gatedEvents :=
  keeping_append (keeping_append (keeping_append (keeping_append State.linkEvents_memOk State.memoryEvents_memOk)
    State.xlateEvents_memOk) (keeping_cons (fun _ ht => execPowerP2Exit_memOk ht) keeping_nil)) State.timerEvents_memOk
theorem State.events_memOk {s : State} : Keeping s.events := by
  unfold State.events
  split
  · exact State.gatedEvents_memOk
  · exact keeping_append (keeping_append (keeping_append (keeping_append (keeping_append (keeping_append (keeping_append
      (keeping_append State.groupEvents_memOk State.blockEvents_memOk) State.engineEvents_memOk) State.linkEvents_memOk)
      State.memoryEvents_memOk) State.xlateEvents_memOk) State.boxEvents_memOk) State.timerEvents_memOk)
      (keeping_cons (fun _ ht => State.takeEntry_memOk ht) keeping_nil)
theorem State.mem_due_memOk {s t : State} (h : s.MemOk) (ht : t ∈ s.due) : t.MemOk := by
  obtain ⟨f, hf, hft⟩ := List.mem_filterMap.1 ht
  split at hft
  · rename_i u eu
    cases hft
    exact memOk_of_next (State.events_memOk f hf s h) eu
  · cases hft
theorem State.nextEvent_memOk {s : State} (h : s.MemOk) : OptionMemOk s.nextEvent :=
  State.firstOf_memOk h State.events_memOk

/-! ### Cycle: Platforms and time -/

theorem State.tick_memOk {s0 : State} (h : s0.MemOk) : (s0.tick).MemOk :=
  State.memOk_with (State.lcrPass_memOk h)
theorem State.sampleEvents_memOk {s : State} : Keeping s.sampleEvents :=
  keeping_flatten_map fun _ => keeping_map fun _ => fun _ ht => execSampleTick_memOk ht
theorem State.cycle_memOk {s : State} (h : s.MemOk) : OutcomeMemOk s.cycle := by
  unfold State.cycle
  split
  · exact execIssueSelect_memOk (State.memOk_with h)
  · exact .next (getD_memOk (State.firstOf_memOk h State.sampleEvents_memOk) (State.tick_memOk h))
theorem State.pick_memOk {s : State} {k} (h : s.MemOk) : OutcomeMemOk (s.pick k) := by
  unfold State.pick
  split
  · rename_i t et
    split at et
    · cases et
    · exact .next (State.mem_due_memOk h (List.mem_of_getElem? et))
  · exact State.cycle_memOk h

/-! ### Cycle: The tape -/

theorem State.takeInput_memOk {s : State} {i rest} (h : s.MemOk) : OutcomeMemOk (s.takeInput i rest) := by
  unfold State.takeInput
  split
  · exact .refused
  · exact exec_memOk (State.memOk_with h)
theorem State.advance_memOk {s : State} (h : s.MemOk) : OutcomeMemOk s.advance := by
  unfold State.advance
  split
  · exact State.issueNext_memOk h
  · split
    · exact State.takeInput_memOk h
    · split
      · exact State.pick_memOk (State.memOk_with h)
      · split
        · rename_i u eu
          have hu := memOk_of_some (State.nextEvent_memOk h) eu
          exact .next hu
        · exact State.cycle_memOk h
theorem State.advanceStuck_memOk {s : State} {f} : OutcomeMemOk (s.advanceStuck f) := by
  unfold State.advanceStuck
  split
  · exact execDeviceReset_memOk
  · exact .fault

/-! ### Step -/

theorem step_memOk {s : State} (h : s.MemOk) : OutcomeMemOk (step s) := by
  unfold step
  split
  · exact State.advanceStuck_memOk
  · exact State.advance_memOk h

/-- Settles O59: every function that a step calls keeps both memories in canonical form. -/
theorem stepKeepsMemory : Obligations.StepKeepsMemory := by
  unfold Obligations.StepKeepsMemory
  intro s t hmem hfar hstep
  exact memOk_of_next (step_memOk ⟨hmem, hfar⟩) hstep

end Sys2Proof.Machine
end
section
/-! ATOM and RED on scratchpads (R49, R396): the locations of a word do not overlap, so each is done as if it were alone; its lanes act
in ascending order, and each lane is answered once. -/

namespace Sys2Proof.Machine

/-! ### Bytes of a scratchpad -/

theorem SMap.get_setRun_other {α : Type} [DecidableEq α] (d : α) (m : SMap α) (k j : Nat) (l : List α)
    (h : j < k ∨ k + l.length ≤ j) : SMap.get d (SMap.setRun d m k l) j = SMap.get d m j := by
  induction l generalizing m k with
  | nil => rfl
  | cons v l ih =>
    rw [List.length_cons] at h
    rw [SMap.setRun, ih _ _ (by omega), SMap.get_set_other _ _ _ _ _ (by omega)]
theorem SMap.get_setRun_at {α : Type} [DecidableEq α] (d : α) (m : SMap α) (k j : Nat) (l : List α) (h : j < l.length) :
    SMap.get d (SMap.setRun d m k l) (k + j) = l[j] := by
  induction l generalizing m k j with
  | nil => exact absurd h (Nat.not_lt_zero _)
  | cons v l ih =>
    rw [SMap.setRun]
    cases j with
    | zero => rw [SMap.get_setRun_other _ _ _ _ _ (by omega), Nat.add_zero, SMap.get_set_same, List.getElem_cons_zero]
    | succ j =>
      rw [show k + (j + 1) = k + 1 + j by omega, ih _ _ _ (by simpa using h), List.getElem_cons_succ]
@[simp] theorem toBytes_length (n x : Nat) : (toBytes n x).length = n := by
  induction n generalizing x with
  | zero => rfl
  | succ n ih => rw [toBytes, List.length_cons, ih]
theorem ofBytes_toBytes (n x : Nat) : ofBytes (toBytes n x) = x % 256 ^ n := by
  induction n generalizing x with
  | zero => rw [Nat.pow_zero, Nat.mod_one]; rfl
  | succ n ih =>
    rw [toBytes, ofBytes, ih, Nat.pow_succ', Nat.mod_mul, BitVec.toNat_ofNat]
theorem Block.byte_writeN_other (b : Block) {o n j : Nat} (x : Nat) (h : j < o ∨ o + n ≤ j) : (b.writeN o n x).byte j = b.byte j :=
  SMap.get_setRun_other _ _ _ _ _ (by rwa [toBytes_length])
theorem Block.readN_writeN (b : Block) (o n x : Nat) : (b.writeN o n x).readN o n = x % 256 ^ n := by
  have hb : ((List.range n).map fun j => (b.writeN o n x).byte (o + j)) = toBytes n x := by
    refine List.ext_getElem (by simp) fun j hj _ => ?_
    rw [List.getElem_map, List.getElem_range]
    exact SMap.get_setRun_at _ _ _ _ _ (by simpa using hj)
  rw [Block.readN, hb, ofBytes_toBytes]
theorem Block.readN_congr {b c : Block} {o n : Nat} (h : ∀ j, o ≤ j → j < o + n → b.byte j = c.byte j) :
    b.readN o n = c.readN o n := by
  refine congrArg ofBytes (List.map_congr_left fun j hj => h _ (Nat.le_add_right _ _) ?_)
  have := List.mem_range.1 hj
  omega

/-! ### The lanes of one location -/

theorem atomRun_last (k : ReqKind) (sg : Bool) (w old : Nat) (ops : List (Nat × Nat × Nat)) :
    (atomRun k sg w old ops).2.1 = ops.foldl (fun r y => (atomStep k sg w r y.2.1 y.2.2).1) old := by
  induction ops generalizing old with
  | nil => rfl
  | cons y ops ih =>
    rw [List.foldl_cons, ← ih]
    rfl
/-- Only the sums of floating-point values raise flags. -/
theorem atomStep_flags {k : ReqKind} (h : k ≠ .fadd) (sg : Bool) (w old x y : Nat) : (atomStep k sg w old x y).2 = 0 := by
  cases k
  case fadd => exact absurd rfl h
  all_goals rfl
theorem atomRun_flags {k : ReqKind} (h : k ≠ .fadd) (sg : Bool) (w old : Nat) (ops : List (Nat × Nat × Nat)) :
    (atomRun k sg w old ops).2.2 = 0 := by
  induction ops generalizing old with
  | nil => rfl
  | cons y ops ih =>
    rw [atomRun]
    simp only [atomStep_flags h, ih]
    rfl
/-- Each lane is answered what the lanes below it left. -/
theorem mem_atomRun (k : ReqKind) (sg : Bool) (w old : Nat) (ops : List (Nat × Nat × Nat))
    (hs : ops.Pairwise fun x y => x.1 < y.1) (e : Nat × Nat) :
    e ∈ (atomRun k sg w old ops).1 ↔ ∃ x ∈ ops, e = (x.1, (atomRun k sg w old (ops.filter fun y => decide (y.1 < x.1))).2.1) := by
  induction ops generalizing old with
  | nil => simp [atomRun]
  | cons y ops ih =>
    obtain ⟨hy, hs⟩ := List.pairwise_cons.1 hs
    have hfirst : (y :: ops).filter (fun z => decide (z.1 < y.1)) = [] := by
      refine List.filter_eq_nil_iff.2 fun z hz => ?_
      rcases List.mem_cons.1 hz with rfl | hz
      · simp
      · simpa using (hy z hz).le
    have hlater : ∀ x ∈ ops, (y :: ops).filter (fun z => decide (z.1 < x.1)) =
        y :: ops.filter fun z => decide (z.1 < x.1) := fun x hx =>
      List.filter_cons_of_pos (by simpa using hy x hx)
    rw [List.exists_mem_cons_iff, hfirst]
    refine List.mem_cons.trans (or_congr Iff.rfl ((ih _ hs).trans ?_))
    refine exists_congr fun x => and_congr_right fun hx => ?_
    rw [hlater x hx]
    rfl

theorem eraseDups_nodup {α : Type} [BEq α] [LawfulBEq α] (l : List α) : l.eraseDups.Nodup := by
  induction hn : l.length using Nat.strongRecOn generalizing l with
  | ind n ih =>
    cases l with
    | nil => exact List.nodup_nil
    | cons a l =>
      rw [List.eraseDups_cons]
      refine List.nodup_cons.2 ⟨fun h => ?_, ih _ ?_ _ rfl⟩
      · simpa using (List.mem_filter.1 (List.mem_eraseDups.1 h)).2
      · rw [← hn, List.length_cons]
        exact Nat.lt_succ_of_le (List.length_filter_le _ _)

/-! ### Changes of scratchpad bytes -/

theorem State.PadsChange.refl (s : State) (hit : Nat → Nat → Prop) : s.PadsChange s hit :=
  fun _ => ⟨id, fun b hb => ⟨b, hb, rfl, fun _ _ => rfl⟩⟩
theorem State.PadsChange.mono {s t : State} {p q : Nat → Nat → Prop} (h : s.PadsChange t p) (hpq : ∀ k o, p k o → q k o) :
    s.PadsChange t q := fun k => ⟨(h k).1, fun b hb => by
  obtain ⟨b', hb', hf, hbyte⟩ := (h k).2 b hb
  exact ⟨b', hb', hf, fun o ho => hbyte o fun hp => ho (hpq k o hp)⟩⟩
theorem State.PadsChange.trans {s t u : State} {p q : Nat → Nat → Prop} (h : s.PadsChange t p) (h' : t.PadsChange u q) :
    s.PadsChange u fun k o => p k o ∨ q k o := fun k => ⟨fun hk => (h' k).1 ((h k).1 hk), fun b hb => by
  obtain ⟨b', hb', hf, hbyte⟩ := (h k).2 b hb
  obtain ⟨c, hc, hf', hbyte'⟩ := (h' k).2 b' hb'
  refine ⟨c, hc, ?_, fun o ho => (hbyte' o fun hq => ho (.inr hq)).trans (hbyte o fun hp => ho (.inl hp))⟩
  rw [hf', hf]⟩
/-- Writing into the scratchpad of one block changes those bytes alone. -/
theorem State.padsChange_writeN (s : State) (bid a n x : Nat) :
    s.PadsChange (s.modBlock bid fun b => b.writeN a n x) fun k o => k = bid ∧ a ≤ o ∧ o < a + n := fun k => by
  by_cases hk : k = bid
  · subst hk
    rw [State.block?_modBlock_same]
    refine ⟨fun h => by rw [h]; rfl, fun b hb => ⟨b.writeN a n x, by rw [hb]; rfl, rfl, fun o ho => ?_⟩⟩
    exact Block.byte_writeN_other b x (by by_contra hin; exact ho ⟨rfl, by omega, by omega⟩)
  · rw [State.block?_modBlock_other _ _ _ _ hk]
    exact ⟨id, fun b hb => ⟨b, hb, rfl, fun _ _ => rfl⟩⟩
theorem State.PadsChange.isSome {s t : State} {hit : Nat → Nat → Prop} (h : s.PadsChange t hit) {k : Nat} (hk : (s.block? k).isSome) :
    (t.block? k).isSome := by
  obtain ⟨b, hb⟩ := Option.isSome_iff_exists.1 hk
  obtain ⟨b', hb', -, -⟩ := (h k).2 b hb
  rw [hb']
  rfl
/-- A block is still where it was. -/
theorem State.PadsChange.onCore {s t : State} {hit : Nat → Nat → Prop} (h : s.PadsChange t hit) (k c : Nat) :
    ((t.block? k).any fun b => b.core == c) = (s.block? k).any fun b => b.core == c := by
  cases hb : s.block? k with
  | none => rw [(h k).1 hb]
  | some b =>
    obtain ⟨b', hb', hf, -⟩ := (h k).2 b hb
    rw [hb', hf]
    rfl
theorem State.PadsChange.padOf {s t : State} {hit : Nat → Nat → Prop} (h : s.PadsChange t hit) (is : Issue) (sp : Space) (rank : Nat) :
    t.padOf is sp rank = s.padOf is sp rank := by
  simp only [State.padOf, State.hostBlock, h.onCore]

/-- What a scratchpad holds at an address. -/
def State.padValue (s : State) (bid a n : Nat) : Nat := ((s.block? bid).map (·.readN a n)).getD 0

theorem State.PadsChange.padValue {s t : State} {hit : Nat → Nat → Prop} (h : s.PadsChange t hit) {bid a n : Nat}
    (hn : ∀ o, a ≤ o → o < a + n → ¬ hit bid o) : t.padValue bid a n = s.padValue bid a n := by
  unfold State.padValue
  cases hb : s.block? bid with
  | none => rw [(h bid).1 hb]
  | some b =>
    obtain ⟨b', hb', -, hbyte⟩ := (h bid).2 b hb
    rw [hb']
    exact Block.readN_congr fun o h1 h2 => hbyte o (hn o h1 h2)
theorem State.padValue_writeN (s : State) {bid : Nat} (a n x : Nat) (hb : (s.block? bid).isSome) :
    (s.modBlock bid fun b => b.writeN a n x).padValue bid a n = x % 256 ^ n := by
  obtain ⟨b, hb⟩ := Option.isSome_iff_exists.1 hb
  rw [State.padValue, State.block?_modBlock_same, hb]
  exact Block.readN_writeN b a n x

/-! ### The locations of a word -/

section
variable (s : State) (is : Issue) (sp : Space) (k : ReqKind) (sg : Bool) (n : Nat) (ls : List (LaneAddr × Nat × Nat))

/-- The lanes of one location, rank and address, with their operands. -/
def padOps (loc : Nat × Nat) : List (Nat × Nat × Nat) :=
  (ls.filter fun x => (x.1.rank, x.1.a) == loc).map fun x => (x.1.lane, x.2)
/-- What the lanes of one location do to it. -/
def State.padRun (loc : Nat × Nat) : List (Nat × Nat) × Nat × Flags :=
  atomRun k sg (8 * n) (s.padValue (s.padOf is sp loc.1) loc.2 n) (padOps ls loc)
/-- One location's part of the word. -/
def State.padStep (r : State × List (Nat × Nat × Flags)) (loc : Nat × Nat) : State × List (Nat × Nat × Flags) :=
  (r.1.modBlock (r.1.padOf is sp loc.1) fun b => b.writeN loc.2 n (r.1.padRun is sp k sg n ls loc).2.1,
    r.2 ++ (r.1.padRun is sp k sg n ls loc).1.map fun x => (x.1, x.2, (r.1.padRun is sp k sg n ls loc).2.2))

theorem State.padAtomics_eq :
    s.padAtomics is sp k sg n ls = ((ls.map fun x => (x.1.rank, x.1.a)).eraseDups).foldl (State.padStep is sp k sg n ls) (s, []) := rfl

/-- What the word has done when the locations of a list are done. -/
structure State.PadsDone (done : List (Nat × Nat)) (r : State × List (Nat × Nat × Flags)) : Prop where
  frame : r.1 = { s with blocks := r.1.blocks }
  pads : s.PadsChange r.1 fun b o => ∃ loc ∈ done, s.padOf is sp loc.1 = b ∧ loc.2 ≤ o ∧ o < loc.2 + n
  values : ∀ loc ∈ done, r.1.padValue (s.padOf is sp loc.1) loc.2 n = (s.padRun is sp k sg n ls loc).2.1 % 256 ^ n
  answers : ∀ e, e ∈ r.2 ↔ ∃ loc ∈ done, ∃ x ∈ (s.padRun is sp k sg n ls loc).1,
    e = (x.1, x.2, (s.padRun is sp k sg n ls loc).2.2)

/-- Two locations do not overlap. -/
def State.Apart (l m : Nat × Nat) : Prop := s.padOf is sp l.1 = s.padOf is sp m.1 → l.2 + n ≤ m.2 ∨ m.2 + n ≤ l.2

theorem State.padsDone_nil : s.PadsDone is sp k sg n ls [] (s, []) where
  frame := rfl
  pads := State.PadsChange.refl s _
  values := fun _ h => absurd h List.not_mem_nil
  answers := fun _ => ⟨fun h => absurd h List.not_mem_nil, fun ⟨_, h, _⟩ => absurd h List.not_mem_nil⟩

variable {s is sp k sg n ls}

theorem State.PadsDone.padRun {done : List (Nat × Nat)} {r : State × List (Nat × Nat × Flags)} (h : s.PadsDone is sp k sg n ls done r)
    {loc : Nat × Nat} (ha : ∀ l ∈ done, s.Apart is sp n l loc) : r.1.padRun is sp k sg n ls loc = s.padRun is sp k sg n ls loc := by
  unfold State.padRun
  rw [h.pads.padOf, h.pads.padValue]
  rintro o h1 h2 ⟨l, hl, hb, h3, h4⟩
  rcases ha l hl hb with h5 | h5 <;> omega

theorem State.PadsDone.step {done : List (Nat × Nat)} {r : State × List (Nat × Nat × Flags)} (h : s.PadsDone is sp k sg n ls done r)
    {loc : Nat × Nat} (ha : ∀ l ∈ done, s.Apart is sp n l loc) (hb : (s.block? (s.padOf is sp loc.1)).isSome) :
    s.PadsDone is sp k sg n ls (done ++ [loc]) (State.padStep is sp k sg n ls r loc) := by
  have hrun := h.padRun ha
  have hwrite := State.padsChange_writeN r.1 (s.padOf is sp loc.1) loc.2 n (s.padRun is sp k sg n ls loc).2.1
  unfold State.padStep
  rw [hrun, h.pads.padOf]
  refine ⟨?_, (h.pads.trans hwrite).mono ?_, fun l hl => ?_, fun e => ?_⟩
  · rw [h.frame]
    rfl
  · rintro b o (⟨l, hl, hx⟩ | ⟨rfl, hx⟩)
    · exact ⟨l, List.mem_append_left _ hl, hx⟩
    · exact ⟨loc, by simp, rfl, hx⟩
  · rcases List.mem_append.1 hl with hl | hl
    · rw [← h.values l hl]
      refine hwrite.padValue fun o h1 h2 ⟨hb, h3, h4⟩ => ?_
      rcases ha l hl hb with h5 | h5 <;> omega
    · rw [List.mem_singleton.1 hl]
      exact State.padValue_writeN r.1 _ _ _ (h.pads.isSome hb)
  · rw [List.mem_append, h.answers, List.mem_map]
    constructor
    · rintro (⟨l, hl, hx⟩ | ⟨x, hx, rfl⟩)
      · exact ⟨l, List.mem_append_left _ hl, hx⟩
      · exact ⟨loc, by simp, x, hx, rfl⟩
    · rintro ⟨l, hl, x, hx, rfl⟩
      rcases List.mem_append.1 hl with hl | hl
      · exact .inl ⟨l, hl, x, hx, rfl⟩
      · rw [List.mem_singleton.1 hl] at hx ⊢
        exact .inr ⟨x, hx, rfl⟩

theorem State.PadsDone.foldl {done locs : List (Nat × Nat)} {r : State × List (Nat × Nat × Flags)}
    (h : s.PadsDone is sp k sg n ls done r) (ha : (done ++ locs).Pairwise (s.Apart is sp n))
    (hb : ∀ l ∈ locs, (s.block? (s.padOf is sp l.1)).isSome) :
    s.PadsDone is sp k sg n ls (done ++ locs) (locs.foldl (State.padStep is sp k sg n ls) r) := by
  induction locs generalizing done r with
  | nil => rwa [List.append_nil]
  | cons loc locs ih =>
    have hstep := h.step (loc := loc) (fun l hl => (List.pairwise_append.1 ha).2.2 l hl loc List.mem_cons_self)
      (hb loc List.mem_cons_self)
    rw [← List.singleton_append, ← List.append_assoc] at ha ⊢
    exact ih hstep ha fun l hl => hb l (List.mem_cons_of_mem _ hl)

/-- The word on scratchpads: every location is done, whatever the others were. -/
theorem State.padAtomics_done (ha : ∀ x ∈ ls, ∀ y ∈ ls, (x.1.rank, x.1.a) ≠ (y.1.rank, y.1.a) →
      s.Apart is sp n (x.1.rank, x.1.a) (y.1.rank, y.1.a))
    (hb : ∀ x ∈ ls, (s.block? (s.padOf is sp x.1.rank)).isSome) :
    s.PadsDone is sp k sg n ls ((ls.map fun x => (x.1.rank, x.1.a)).eraseDups) (s.padAtomics is sp k sg n ls) := by
  rw [State.padAtomics_eq]
  refine (State.padsDone_nil s is sp k sg n ls).foldl ?_ fun l hl => ?_
  · refine (eraseDups_nodup _).imp_of_mem fun {l m} hl hm hne => ?_
    obtain ⟨x, hx, rfl⟩ := List.mem_map.1 (List.mem_eraseDups.1 hl)
    obtain ⟨y, hy, rfl⟩ := List.mem_map.1 (List.mem_eraseDups.1 hm)
    exact ha x hx y hy hne
  · obtain ⟨x, hx, rfl⟩ := List.mem_map.1 (List.mem_eraseDups.1 hl)
    exact hb x hx
end

/-! ### What the lanes receive -/

/-- An ATOM's answers: each lane's register receives the value found and its flags join FSTAT. -/
def Group.take (g : Group) (w : Bool) (v : Nat) (l : List (Nat × Nat × Flags)) : Group :=
  l.foldl (fun h x => (h.writeV w v x.1 x.2.1).orFlags x.1 x.2.2) g
/-- A RED's answers: the flags alone. -/
def Group.joinAnswers (g : Group) (l : List (Nat × Nat × Flags)) : Group := l.foldl (fun h x => h.orFlags x.1 x.2.2) g

theorem Group.vreg_orFlags (g : Group) (l r l' : Nat) (f : Flags) : (g.orFlags l f).vreg r l' = g.vreg r l' := rfl
theorem Group.readV_orFlags (g : Group) (w : Bool) (l r l' : Nat) (f : Flags) : (g.orFlags l f).readV w r l' = g.readV w r l' := rfl
theorem Group.fst_orFlags_zero (g : Group) (l l' : Nat) : (g.orFlags l 0).fst l' = g.fst l' := by
  simp only [Group.orFlags, Group.fst, Group.setFst, SMap.get_set]
  split
  · next h => simp [h]
  · rfl
theorem Group.fst_writeV (g : Group) (w : Bool) (r l x l' : Nat) : (g.writeV w r l x).fst l' = g.fst l' := by cases w <;> rfl

theorem Group.take_dress (g : Group) (w : Bool) (v : Nat) (l : List (Nat × Nat × Flags)) :
    g.take w v l = { g with v := (g.take w v l).v, fstat := (g.take w v l).fstat } := by
  induction l generalizing g with
  | nil => rfl
  | cons x l ih =>
    rw [Group.take, List.foldl_cons, ← Group.take, ih, Group.orFlags, Group.setFst, Group.writeV_frame]
theorem Group.vreg_take (g : Group) (w : Bool) (v : Nat) (l : List (Nat × Nat × Flags)) (hl : ∀ e ∈ l, e.1 < 32)
    {r i : Nat} (hi : i < 32)
    (h : (∀ e ∈ l, e.1 ≠ i) ∨ ¬ (r = v ∨ w = true ∧ r = v + 1)) : (g.take w v l).vreg r i = g.vreg r i := by
  induction l generalizing g with
  | nil => rfl
  | cons x l ih =>
    rw [Group.take, List.foldl_cons, ← Group.take, ih _ (fun e he => hl e (List.mem_cons_of_mem _ he)), Group.vreg_orFlags,
      Group.vreg_writeV _ _ _ _ _ _ _ (hl x List.mem_cons_self) hi]
    · rintro ⟨rfl, hr⟩
      exact h.elim (fun h => h x List.mem_cons_self rfl) fun h => h hr
    · exact h.imp_left fun h e he => h e (List.mem_cons_of_mem _ he)
/-- A lane that is answered once holds its answer. -/
theorem Group.readV_take (g : Group) (w : Bool) (v : Nat) (l : List (Nat × Nat × Flags)) (hl : ∀ e ∈ l, e.1 < 32)
    (hu : ∀ e ∈ l, ∀ e' ∈ l, e.1 = e'.1 → e = e') {e : Nat × Nat × Flags} (he : e ∈ l) :
    (g.take w v l).readV w v e.1 = e.2.1 % 2 ^ (if w then 64 else 32) := by
  induction l using List.reverseRecOn generalizing e with
  | nil => exact absurd he List.not_mem_nil
  | append_singleton l x ih =>
    rw [Group.take, List.foldl_concat, ← Group.take, Group.readV_orFlags]
    have hx : x.1 < 32 := hl x (by simp)
    by_cases hex : e.1 = x.1
    · rw [hu e he x (by simp) hex, Group.readV_writeV _ _ _ _ _ hx]
    · have hel : e ∈ l := by
        rcases List.mem_append.1 he with h | h
        · exact h
        · exact absurd (congrArg Prod.fst (List.mem_singleton.1 h)) hex
      rw [← ih (fun e he => hl e (List.mem_append_left _ he))
        (fun a ha b hb => hu a (List.mem_append_left _ ha) b (List.mem_append_left _ hb)) hel]
      refine Group.readV_of _ _ _ _ _ ?_ fun _ => ?_
      · exact Group.vreg_writeV _ _ _ _ _ _ _ hx (hl e he) fun h => hex h.1
      · exact Group.vreg_writeV _ _ _ _ _ _ _ hx (hl e he) fun h => hex h.1
theorem Group.fst_take (g : Group) (w : Bool) (v : Nat) (l : List (Nat × Nat × Flags)) (hf : ∀ e ∈ l, e.2.2 = 0) (i : Nat) :
    (g.take w v l).fst i = g.fst i := by
  induction l generalizing g with
  | nil => rfl
  | cons x l ih =>
    rw [Group.take, List.foldl_cons, ← Group.take, ih _ fun e he => hf e (List.mem_cons_of_mem _ he), hf x List.mem_cons_self,
      Group.fst_orFlags_zero, Group.fst_writeV]
theorem Group.joinAnswers_dress (g : Group) (l : List (Nat × Nat × Flags)) :
    g.joinAnswers l = { g with fstat := (g.joinAnswers l).fstat } := by
  induction l generalizing g with
  | nil => rfl
  | cons x l ih =>
    rw [Group.joinAnswers, List.foldl_cons, ← Group.joinAnswers, ih, Group.orFlags, Group.setFst]
theorem Group.fst_joinAnswers (g : Group) (l : List (Nat × Nat × Flags)) (hf : ∀ e ∈ l, e.2.2 = 0) (i : Nat) :
    (g.joinAnswers l).fst i = g.fst i := by
  induction l generalizing g with
  | nil => rfl
  | cons x l ih =>
    rw [Group.joinAnswers, List.foldl_cons, ← Group.joinAnswers, ih _ fun e he => hf e (List.mem_cons_of_mem _ he),
      hf x List.mem_cons_self, Group.fst_orFlags_zero]

/-! ### Lanes that all reach their scratchpads -/

theorem State.reach_lane {s : State} {is : Issue} {sp : Space} {base : Src} {off : Int} {n m : Nat} {t : Rights} {l : Nat} {a : LaneAddr}
    (h : s.reach is sp base off n m t l = .ok a) : a.lane = l := by
  unfold State.reach at h
  split at h
  · cases h
  · split at h
    · split at h
      · cases h
      · split at h
        · cases h
        · cases h
          rfl
    · cases h
      rfl
theorem State.reach_aligned {s : State} {is : Issue} {sp : Space} {base : Src} {off : Int} {n m : Nat} {t : Rights} {l : Nat} {a : LaneAddr}
    (hsp : sp = .scratch ∨ sp = .peer) (h : s.reach is sp base off n m t l = .ok a) : a.a % m = 0 := by
  have haddr : s.address is sp base off n m l = .ok a.rank a.a := by
    unfold State.reach at h
    split at h
    · cases h
    · next r b hb =>
      rcases hsp with rfl | rfl <;> cases h <;> exact hb
  rcases hsp with rfl | rfl
  all_goals
    simp only [State.address] at haddr
    split at haddr
    · cases haddr
    · split at haddr
      · rw [← (Addr.ok.inj haddr).2]
        assumption
      · cases haddr

theorem okAddrs_of_ok {l : List (Nat × Except (Nat × Nat) LaneAddr)} {as : List LaneAddr} (h : l.map Prod.snd = as.map Except.ok) :
    okAddrs l = as := by
  induction l generalizing as with
  | nil => exact (List.map_eq_nil_iff.1 h.symm).symm
  | cons x l ih =>
    cases as with
    | nil => cases h
    | cons a as =>
      obtain ⟨hx, hl⟩ := List.cons.inj h
      rw [← ih hl, okAddrs, List.filterMap_cons_some (b := a) (by rw [hx])]
      rfl
theorem badAddrs_of_ok {l : List (Nat × Except (Nat × Nat) LaneAddr)} {as : List LaneAddr} (h : l.map Prod.snd = as.map Except.ok) :
    badAddrs l = [] := by
  refine List.filterMap_eq_nil_iff.2 fun x hx => ?_
  obtain ⟨a, -, ha⟩ := List.mem_map.1 (h ▸ List.mem_map_of_mem hx : x.2 ∈ as.map Except.ok)
  rw [← ha]
theorem State.Reaches.mem {s : State} {is : Issue} {sp : Space} {base : Src} {off : Int} {n : Nat} {t : Rights} {ls : BitVec 32}
    {as : List LaneAddr} (h : s.Reaches is sp base off n t ls as) {a : LaneAddr} (ha : a ∈ as) :
    ∃ l ∈ lanes ls, s.reach is sp base off n n t l = .ok a :=
  List.mem_map.1 (h ▸ List.mem_map_of_mem ha)
theorem State.Reaches.lanes_eq {s : State} {is : Issue} {sp : Space} {base : Src} {off : Int} {n : Nat} {t : Rights} {ls : BitVec 32}
    {as : List LaneAddr} (h : s.Reaches is sp base off n t ls as) : as.map (·.lane) = lanes ls := by
  unfold State.Reaches at h
  generalize lanes ls = l at h ⊢
  induction l generalizing as with
  | nil => rw [List.map_eq_nil_iff.1 h.symm]; rfl
  | cons x l ih =>
    cases as with
    | nil => cases h
    | cons a as =>
      obtain ⟨hx, hl⟩ := List.cons.inj h
      rw [List.map_cons, ih hl, State.reach_lane hx]
/-- Every lane reaches memory: the word runs on all its lanes' addresses. -/
theorem State.withAddrs_of_reaches {s : State} {i : Instr} {sp : Space} {base : Src} {off : Int} {n : Nat} {t : Rights} {kind : Nat}
    {is : Issue} {as : List LaneAddr} (run : Issue → List LaneAddr → State → State) (hg : is.now s = is)
    (h : s.Reaches is sp base off n t is.act as) : State.withAddrs i sp base off n t kind is s run = run is as s := by
  have hok : ((lanes is.act).map fun l => (l, s.reach is sp base off n n t l)).map Prod.snd = as.map Except.ok := by
    rw [List.map_map]
    exact h
  have hlive : as.filter (fun a => lane is.act a.lane) = as := List.filter_eq_self.2 fun a ha => by
    obtain ⟨l, hl, hr⟩ := h.mem ha
    rw [State.reach_lane hr]
    exact ((mem_lanes _ _).1 hl).2
  have hz : (maskOf fun l => lane is.g.helper l && ([] : List (Nat × Nat × Nat)).any (·.1 == l)) = 0 := by
    simp only [List.any_nil, Bool.and_false]
    rfl
  simp only [State.withAddrs, badAddrs_of_ok hok, okAddrs_of_ok hok, hz, State.addrFaults, List.filter_nil, List.isEmpty_nil, decide_true,
    Bool.true_or, if_true, hg, hlive]

/-! ### ATOM and RED on scratchpads -/

theorem State.releaseGate_of_late_nil {is : Issue} (s : State) (sp : Space) (ord : Order) (run : Issue → State → State)
    (h : is.g.late = []) : State.releaseGate sp ord is s run = run is s := by
  unfold State.releaseGate State.lateGate
  rw [h]
  exact ite_self _

/-- The group that a word's write leaves: sc puts a fence into force. -/
def Issue.fenced (is : Issue) (sp : Space) (ord : Order) (g : Group) : Group :=
  if Space.scoped sp && ord == .sc then { g with fences := g.fences ++ [{ lanes := is.act, rel := true, acq := true, sc := true }] } else g

theorem Issue.fenced_frame (is : Issue) (sp : Space) (ord : Order) (g : Group) :
    is.fenced sp ord g = { g with fences := (is.fenced sp ord g).fences } := by
  unfold Issue.fenced
  split <;> rfl
theorem State.afterWrite_setGroup (s : State) (is : Issue) (sp : Space) (ord : Order) (g : Group) :
    (s.setGroup is.gid g).afterWrite is sp ord = s.setGroup is.gid (is.fenced sp ord g) := by
  unfold State.afterWrite Issue.fenced
  split
  · rw [State.modGroup_setGroup]
  · rfl
/-- What a word that writes v registers, flags and fences leaves of its group when it has gone on. -/
theorem Issue.fenced_advance (is : Issue) (sp : Space) (ord : Order) {g h : Group}
    (hg : h = { g with v := h.v, fstat := h.fstat, fences := h.fences }) :
    is.fenced sp ord (h.advance is.i) =
      { g.advance is.i with v := h.v, fstat := h.fstat, fences := (is.fenced sp ord (h.advance is.i)).fences } := by
  have hd : h = g.dress h := by
    rw [hg]
    rfl
  have hadv : h.advance is.i = { g.advance is.i with v := h.v, fstat := h.fstat, fences := h.fences } := by
    calc h.advance is.i = (g.advance is.i).dress h := by rw [← Group.advance_dress, ← hd]
      _ = _ := by rw [Group.advance_frame g, hg]; rfl
  rw [Issue.fenced_frame, hadv]

section
variable (s : State) (is : Issue) (sp : Space) (k : ReqKind) (sg : Bool) (n : Nat) (ops : Nat → Nat × Nat) (as : List LaneAddr)

/-- Two lanes name one location. -/
def LaneAddr.same (x y : LaneAddr) : Bool := x.rank == y.rank && x.a == y.a
/-- What some lanes, in their order, leave at the location of a lane. -/
def State.padAfter (x : LaneAddr) (l : List LaneAddr) : Nat :=
  l.foldl (fun r y => (atomStep k sg (8 * n) r (ops y.lane).1 (ops y.lane).2).1) (s.padValue (s.padOf is sp x.rank) x.a n)

theorem padOps_map (x : LaneAddr) :
    padOps (as.map fun y => (y, ops y.lane)) (x.rank, x.a) = (as.filter x.same).map fun y => (y.lane, ops y.lane) := by
  have hp : ∀ y : LaneAddr, ((y.rank, y.a) == (x.rank, x.a)) = x.same y := fun y => by
    rw [Bool.eq_iff_iff, beq_iff_eq, Prod.mk.injEq, LaneAddr.same, Bool.and_eq_true, beq_iff_eq, beq_iff_eq,
      @eq_comm _ y.rank, @eq_comm _ y.a]
  rw [padOps, List.filter_map, List.map_map]
  refine congrArg _ (List.filter_congr fun y _ => hp y)
theorem atomRun_map (x : LaneAddr) (l : List LaneAddr) :
    (atomRun k sg (8 * n) (s.padValue (s.padOf is sp x.rank) x.a n) (l.map fun y => (y.lane, ops y.lane))).2.1 =
      s.padAfter is sp k sg n ops x l := by
  rw [atomRun_last, List.foldl_map]
  rfl
theorem State.padRun_last (x : LaneAddr) :
    (s.padRun is sp k sg n (as.map fun y => (y, ops y.lane)) (x.rank, x.a)).2.1 = s.padAfter is sp k sg n ops x (as.filter x.same) := by
  rw [State.padRun, padOps_map]
  exact atomRun_map ..
/-- What a lane is answered: the value it found, and the flags of its location. -/
def State.padAnswer (x : LaneAddr) : Nat × Nat × Flags :=
  (x.lane, s.padAfter is sp k sg n ops x (as.filter fun y => x.same y && decide (y.lane < x.lane)),
    (s.padRun is sp k sg n (as.map fun y => (y, ops y.lane)) (x.rank, x.a)).2.2)

variable {as}

theorem State.mem_padRun (hs : as.Pairwise fun x y => x.lane < y.lane) (z : LaneAddr) (e : Nat × Nat) :
    e ∈ (s.padRun is sp k sg n (as.map fun y => (y, ops y.lane)) (z.rank, z.a)).1 ↔
      ∃ x ∈ as, z.same x = true ∧
        e = (x.lane, s.padAfter is sp k sg n ops z (as.filter fun y => z.same y && decide (y.lane < x.lane))) := by
  rw [State.padRun, padOps_map, mem_atomRun]
  · have hbelow : ∀ x : LaneAddr, ((as.filter z.same).map fun y => (y.lane, ops y.lane)).filter (fun y => decide (y.1 < x.lane)) =
        (as.filter fun y => z.same y && decide (y.lane < x.lane)).map fun y => (y.lane, ops y.lane) := fun x => by
      rw [List.filter_map, List.filter_filter]
      simp only [Function.comp_def, Bool.and_comm]
    constructor
    · rintro ⟨y, hy, rfl⟩
      obtain ⟨x, hx, rfl⟩ := List.mem_map.1 hy
      obtain ⟨hx, hsame⟩ := List.mem_filter.1 hx
      exact ⟨x, hx, hsame, by rw [hbelow, atomRun_map]⟩
    · rintro ⟨x, hx, hsame, rfl⟩
      exact ⟨_, List.mem_map_of_mem (List.mem_filter.2 ⟨hx, hsame⟩), by rw [hbelow, atomRun_map]⟩
  · exact List.pairwise_map.2 (hs.sublist List.filter_sublist)
theorem State.mem_padAtomics {r : State × List (Nat × Nat × Flags)} (hs : as.Pairwise fun x y => x.lane < y.lane)
    (h : s.PadsDone is sp k sg n (as.map fun y => (y, ops y.lane))
      (((as.map fun y => (y, ops y.lane)).map fun x => (x.1.rank, x.1.a)).eraseDups) r) (e : Nat × Nat × Flags) :
    e ∈ r.2 ↔ ∃ x ∈ as, e = s.padAnswer is sp k sg n ops as x := by
  rw [h.answers]
  constructor
  · rintro ⟨loc, hloc, y, hy, rfl⟩
    obtain ⟨z', hz', rfl⟩ := List.mem_map.1 (List.mem_eraseDups.1 hloc)
    obtain ⟨z, -, rfl⟩ := List.mem_map.1 hz'
    obtain ⟨x, hx, hsame, rfl⟩ := (State.mem_padRun s is sp k sg n ops hs z y).1 hy
    obtain ⟨hr, ha⟩ : z.rank = x.rank ∧ z.a = x.a := by simpa [LaneAddr.same] using hsame
    refine ⟨x, hx, ?_⟩
    simp only [State.padAnswer, State.padAfter, LaneAddr.same, hr, ha]
  · rintro ⟨x, hx, rfl⟩
    refine ⟨(x.rank, x.a), List.mem_eraseDups.2 ?_, _, (State.mem_padRun s is sp k sg n ops hs x _).2 ⟨x, hx, ?_, rfl⟩, rfl⟩
    · simp only [List.map_map, List.mem_map]
      exact ⟨x, hx, rfl⟩
    · simp [LaneAddr.same]
end

/-- The lanes of a word act on their scratchpads, as O20 says: what the locations, the registers and the rest hold. -/
def State.PadsActed (s : State) (is : Issue) (sp : Space) (k : ReqKind) (sg w ret : Bool) (v : Nat) (ops : Nat → Nat × Nat)
    (as : List LaneAddr) (u : State) : Prop :=
  let n := if w then 8 else 4
  ∃ h, u = { s.setGroup is.gid h with blocks := u.blocks } ∧
    h = { is.g.advance is.i with v := h.v, fstat := h.fstat, fences := h.fences } ∧
    s.PadsChange u (fun b o => ∃ x ∈ as, s.padOf is sp x.rank = b ∧ x.a ≤ o ∧ o < x.a + n) ∧
    (∀ x ∈ as, u.padValue (s.padOf is sp x.rank) x.a n = s.padAfter is sp k sg n ops x (as.filter x.same) % 2 ^ (8 * n)) ∧
    (∀ x ∈ as, ret = true → h.readV w v x.lane =
      s.padAfter is sp k sg n ops x (as.filter fun y => x.same y && decide (y.lane < x.lane)) % 2 ^ (8 * n)) ∧
    (∀ r l, l < 32 → (ret = false ∨ lane is.own l = false ∨ ¬ (r = v ∨ w = true ∧ r = v + 1)) →
      h.vreg r l = is.g.vreg r l) ∧
    (k ≠ .fadd → ∀ l, h.fst l = is.g.fst l)

section
variable {s : State} {is : Issue} {sp : Space} {base : Src} {ord : Order} {off : Int} {k : ReqKind} {sg w : Bool} {v : Nat}
  {ops : Nat → Nat × Nat} {as : List LaneAddr}

/-- Aligned locations of different blocks or addresses are apart. -/
theorem State.apart_of_aligned {n : Nat} {x y : LaneAddr} (hx : x.a % n = 0) (hy : y.a % n = 0)
    (hinj : s.padOf is sp x.rank = s.padOf is sp y.rank → x.rank = y.rank) (hne : (x.rank, x.a) ≠ (y.rank, y.a)) :
    s.Apart is sp n (x.rank, x.a) (y.rank, y.a) := fun hpad => by
  have ha : x.a ≠ y.a := fun h => hne (Prod.ext (hinj hpad) h)
  obtain ⟨p, hp⟩ := Nat.dvd_of_mod_eq_zero hx
  obtain ⟨q, hq⟩ := Nat.dvd_of_mod_eq_zero hy
  have hpq : p ≠ q := fun h => ha (by rw [hp, hq, h])
  rcases Nat.lt_or_gt_of_ne hpq with h | h
  · left
    calc x.a + n = n * (p + 1) := by rw [hp, Nat.mul_succ]
      _ ≤ y.a := by rw [hq]; exact Nat.mul_le_mul_left n h
  · right
    calc y.a + n = n * (q + 1) := by rw [hq, Nat.mul_succ]
      _ ≤ x.a := by rw [hp]; exact Nat.mul_le_mul_left n h

theorem State.Reaches.sorted {n : Nat} {t : Rights} {ls : BitVec 32} (h : s.Reaches is sp base off n t ls as) :
    as.Pairwise fun x y => x.lane < y.lane :=
  List.pairwise_map.1 (h.lanes_eq ▸ List.pairwise_lt_range.sublist List.filter_sublist)

/-- What the word's scratchpads and answers are. -/
theorem State.padAtomics_of_reaches {n : Nat} (hsp : sp = .scratch ∨ sp = .peer)
    (hr : s.Reaches is sp base off n acAtomic is.act as) (hb : ∀ x ∈ as, (s.block? (s.padOf is sp x.rank)).isSome)
    (hinj : ∀ x ∈ as, ∀ y ∈ as, s.padOf is sp x.rank = s.padOf is sp y.rank → x.rank = y.rank) :
    s.PadsDone is sp k sg n (as.map fun y => (y, ops y.lane))
      (((as.map fun y => (y, ops y.lane)).map fun x => (x.1.rank, x.1.a)).eraseDups)
      (s.padAtomics is sp k sg n (as.map fun y => (y, ops y.lane))) := by
  have hal : ∀ x ∈ as, x.a % n = 0 := fun x hx => by
    obtain ⟨l, -, hl⟩ := hr.mem hx
    exact State.reach_aligned hsp hl
  refine State.padAtomics_done (fun x' hx' y' hy' hne => ?_) fun x' hx' => ?_
  · obtain ⟨x, hx, rfl⟩ := List.mem_map.1 hx'
    obtain ⟨y, hy, rfl⟩ := List.mem_map.1 hy'
    exact State.apart_of_aligned (hal x hx) (hal y hy) (hinj x hx y hy) hne
  · obtain ⟨x, hx, rfl⟩ := List.mem_map.1 hx'
    exact hb x hx

/-- The word's effect, once its group holds the answers. -/
theorem State.padsActed_of {i : Instr} {ret : Bool} {u : State} {r : State × List (Nat × Nat × Flags)} {g : Group}
    (hd : (s.entered is i).PadsDone (s.issueOf is i).ownOnly sp k sg (if w then 8 else 4) (as.map fun y => (y, ops y.lane))
      (((as.map fun y => (y, ops y.lane)).map fun x => (x.1.rank, x.1.a)).eraseDups) r)
    (hu : u = r.1.setGroup is.gid ((s.issueOf is i).ownOnly.fenced sp ord (g.advance is.i)))
    (hg : g = { is.g with v := g.v, fstat := g.fstat, fences := g.fences })
    (hv : ∀ x ∈ as, ret = true → g.readV w v x.lane =
      (s.padAnswer is sp k sg (if w then 8 else 4) ops as x).2.1 % 2 ^ (8 * if w then 8 else 4))
    (hkeep : ∀ r l, l < 32 → (ret = false ∨ lane is.own l = false ∨ ¬ (r = v ∨ w = true ∧ r = v + 1)) →
      g.vreg r l = is.g.vreg r l)
    (hf : k ≠ .fadd → ∀ l, g.fst l = is.g.fst l) : s.PadsActed is sp k sg w ret v ops as u := by
  have hh := (s.issueOf is i).ownOnly.fenced_advance sp ord hg
  generalize hhdef : (s.issueOf is i).ownOnly.fenced sp ord (g.advance is.i) = h at hu
  rw [show (s.issueOf is i).ownOnly.i = is.i from rfl, hhdef] at hh
  have hvreg : ∀ r l, h.vreg r l = g.vreg r l := fun r l => by rw [hh]; rfl
  have hloc : ∀ x ∈ as, (x.rank, x.a) ∈ ((as.map fun y => (y, ops y.lane)).map fun x => (x.1.rank, x.1.a)).eraseDups :=
    fun x hx => List.mem_eraseDups.2 (List.mem_map.2 ⟨_, List.mem_map_of_mem hx, rfl⟩)
  refine ⟨h, ?_, ?_, ?_, fun x hx => ?_, fun x hx hret => ?_, fun r l hl hx => ?_, fun hk l => ?_⟩
  · have hgroups : (s.entered is i).setGroup is.gid h = s.setGroup is.gid h := State.setGroup_setGroup ..
    rw [hu, hd.frame, ← hgroups]
    rfl
  · rw [hh]
  · rw [hu]
    refine State.PadsChange.mono (s := s) (t := r.1.setGroup is.gid h) hd.pads fun b o => ?_
    rintro ⟨loc, hl, hx⟩
    obtain ⟨y, hy, rfl⟩ := List.mem_map.1 (List.mem_eraseDups.1 hl)
    obtain ⟨x, hxm, rfl⟩ := List.mem_map.1 hy
    exact ⟨x, hxm, hx⟩
  · rw [Nat.pow_mul, ← State.padRun_last, hu]
    exact hd.values _ (hloc x hx)
  · rw [Group.readV_of h g w v x.lane (hvreg ..) fun _ => hvreg ..]
    exact hv x hx hret
  · rw [hvreg]
    exact hkeep r l hl hx
  · rw [← hf hk l, hh]
    rfl

/-- Every answer is that of one lane. -/
theorem State.padAnswers_lane {n : Nat} {r : State × List (Nat × Nat × Flags)} (hs : as.Pairwise fun x y => x.lane < y.lane)
    (hd : s.PadsDone is sp k sg n (as.map fun y => (y, ops y.lane))
      (((as.map fun y => (y, ops y.lane)).map fun x => (x.1.rank, x.1.a)).eraseDups) r) :
    ∀ e ∈ r.2, ∀ e' ∈ r.2, e.1 = e'.1 → e = e' := fun e he e' he' heq => by
  obtain ⟨x, hx, rfl⟩ := (State.mem_padAtomics s is sp k sg n ops hs hd e).1 he
  obtain ⟨y, hy, rfl⟩ := (State.mem_padAtomics s is sp k sg n ops hs hd e').1 he'
  have hnodup : (as.map (·.lane)).Nodup := (List.pairwise_map.2 hs).imp ne_of_lt
  rw [List.inj_on_of_nodup_map hnodup hx hy heq]
theorem State.padAnswers_flags {n : Nat} {r : State × List (Nat × Nat × Flags)} (hs : as.Pairwise fun x y => x.lane < y.lane)
    (hd : s.PadsDone is sp k sg n (as.map fun y => (y, ops y.lane))
      (((as.map fun y => (y, ops y.lane)).map fun x => (x.1.rank, x.1.a)).eraseDups) r) (hk : k ≠ .fadd) : ∀ e ∈ r.2, e.2.2 = 0 :=
  fun e he => by
    obtain ⟨x, -, rfl⟩ := (State.mem_padAtomics s is sp k sg n ops hs hd e).1 he
    exact atomRun_flags hk ..
theorem Issue.now_entered (s : State) (is : Issue) (i : Instr) :
    (s.issueOf is i).ownOnly.now (s.entered is i) = (s.issueOf is i).ownOnly := by
  simp [Issue.now, State.entered, State.issueOf, Issue.ownOnly]


section
variable {i : Instr} {r : State × List (Nat × Nat × Flags)}
  (hr : s.Reaches is sp base off (if w then 8 else 4) acAtomic is.own as)
  (hd : (s.entered is i).PadsDone (s.issueOf is i).ownOnly sp k sg (if w then 8 else 4) (as.map fun y => (y, ops y.lane))
    (((as.map fun y => (y, ops y.lane)).map fun x => (x.1.rank, x.1.a)).eraseDups) r)
include hr hd

/-- The lanes answered are the word's own. -/
theorem State.PadsDone.lanes_own {e : Nat × Nat × Flags} (he : e ∈ r.2) : e.1 < 32 ∧ lane is.own e.1 = true := by
  obtain ⟨x, hx, rfl⟩ := (State.mem_padAtomics _ _ _ _ _ _ _ hr.sorted hd e).1 he
  exact (mem_lanes _ _).1 (hr.lanes_eq ▸ List.mem_map_of_mem hx)
/-- ATOM: each lane's register receives the value it found. -/
theorem State.padsActed_atom :
    s.PadsActed is sp k sg w true v ops as
      (State.afterWrite (State.goOn (r.1.setGroup is.gid ((s.issueOf is i).g.take w v r.2)) (s.issueOf is i).ownOnly)
        (s.issueOf is i).ownOnly sp ord) := by
  have hs := hr.sorted
  have hlt : ∀ e ∈ r.2, e.1 < 32 := fun e he => (hd.lanes_own hr he).1
  refine State.padsActed_of (ord := ord) (g := (s.issueOf is i).g.take w v r.2) hd ?_ ?_ (fun x hx _ => ?_)
    (fun r' l hl hx => ?_) fun hk l => ?_
  · rw [State.goOn, show (s.issueOf is i).ownOnly.gid = is.gid from rfl, State.modGroup_setGroup]
    exact State.afterWrite_setGroup r.1 (s.issueOf is i).ownOnly ..
  · rw [Group.take_dress]
    rfl
  · have hx := (State.mem_padAtomics _ _ _ _ _ _ _ hs hd _).2 ⟨x, hx, rfl⟩
    have hv := Group.readV_take (s.issueOf is i).g w v r.2 hlt (State.padAnswers_lane hs hd) hx
    cases w
    · exact hv
    · exact hv
  · refine Group.vreg_take _ _ _ _ hlt hl ?_
    rcases hx with hx | hx | hx
    · cases hx
    · refine .inl fun e he hel => ?_
      rw [← hel, (hd.lanes_own hr he).2] at hx
      cases hx
    · exact .inr hx
  · exact Group.fst_take _ _ _ _ (State.padAnswers_flags hs hd hk) l
/-- RED: the registers stand. -/
theorem State.padsActed_red :
    s.PadsActed is sp k sg w false v ops as
      (State.afterWrite (State.goOn (r.1.modGroup is.gid fun h => h.joinAnswers r.2) (s.issueOf is i).ownOnly)
        (s.issueOf is i).ownOnly sp ord) := by
  have hs := hr.sorted
  have hgroup : r.1.group? is.gid = some (s.issueOf is i).g := by
    rw [hd.frame]
    exact State.group?_setGroup_same ..
  refine State.padsActed_of (ord := ord) (g := (s.issueOf is i).g.joinAnswers r.2) hd ?_ ?_ (fun x hx hret => ?_) (fun r' l hl hx => ?_)
    fun hk l => ?_
  · rw [State.goOn, State.modGroup_some _ _ _ _ hgroup, show (s.issueOf is i).ownOnly.gid = is.gid from rfl, State.modGroup_setGroup]
    exact State.afterWrite_setGroup r.1 (s.issueOf is i).ownOnly ..
  · rw [Group.joinAnswers_dress]
    rfl
  · cases hret
  · rw [Group.joinAnswers_dress]
    rfl
  · exact Group.fst_joinAnswers _ _ (State.padAnswers_flags hs hd hk) l
end

/-- ATOM on scratchpads. -/
theorem State.atom_completes {i : Instr} {q : Guard} (hsp : sp = .scratch ∨ sp = .peer)
    (hexec : exec i s = s.atom i q k sg w v sp base ord off) :
    s.Completes i q fun is u => is.g.late = [] → is.own ≠ 0 →
      ∀ as, s.Reaches is sp base off (if w then 8 else 4) acAtomic is.own as → (∀ x ∈ as, (s.block? (s.padOf is sp x.rank)).isSome) →
        (∀ x ∈ as, ∀ y ∈ as, s.padOf is sp x.rank = s.padOf is sp y.rank → x.rank = y.rank) →
        s.PadsActed is sp k sg w true v (is.g.atomOps w (k == .cas) v) as u := by
  intro is hrun
  refine ⟨_, hexec.trans (State.word_canRun s i q is _ hrun), fun hlate hown as hr hb hinj => ?_⟩
  rw [if_neg (show (s.issueOf is i).own ≠ 0 from hown), State.releaseGate_of_late_nil (is := (s.issueOf is i).ownOnly) _ _ _ _ hlate,
    State.withAddrs_of_reaches (s := s.setGroup is.gid (s.issueOf is i).g) (as := as) _ (Issue.now_entered s is i) hr]
  have hd := State.padAtomics_of_reaches (s := s.entered is i) (is := (s.issueOf is i).ownOnly) (k := k) (sg := sg)
    (ops := is.g.atomOps w (k == .cas) v) hsp hr hb hinj
  rcases hsp with rfl | rfl
  · exact State.padsActed_atom hr hd
  · exact State.padsActed_atom hr hd
/-- RED on scratchpads. -/
theorem State.red_completes {i : Instr} {q : Guard} {a : Src} (hsp : sp = .scratch ∨ sp = .peer)
    (hexec : exec i s = s.red i q k sg w a sp base ord off) :
    s.Completes i q fun is u => is.g.late = [] → is.own ≠ 0 →
      ∀ as, s.Reaches is sp base off (if w then 8 else 4) acAtomic is.own as → (∀ x ∈ as, (s.block? (s.padOf is sp x.rank)).isSome) →
        (∀ x ∈ as, ∀ y ∈ as, s.padOf is sp x.rank = s.padOf is sp y.rank → x.rank = y.rank) →
        s.PadsActed is sp k sg w false v (fun l => (s.opnd is w a l, 0)) as u := by
  intro is hrun
  refine ⟨_, hexec.trans (State.word_canRun s i q is _ hrun), fun hlate hown as hr hb hinj => ?_⟩
  rw [if_neg (show (s.issueOf is i).own ≠ 0 from hown), State.releaseGate_of_late_nil (is := (s.issueOf is i).ownOnly) _ _ _ _ hlate,
    State.withAddrs_of_reaches (s := s.setGroup is.gid (s.issueOf is i).g) (as := as) _ (Issue.now_entered s is i) hr]
  have hd := State.padAtomics_of_reaches (s := s.entered is i) (is := (s.issueOf is i).ownOnly) (k := k) (sg := sg)
    (ops := fun l => (s.opnd is w a l, 0)) hsp hr hb hinj
  have hl : ((as.map fun x => (x, State.opnd (s.setGroup is.gid (s.issueOf is i).g) (s.issueOf is i).ownOnly w a x.lane)).map
      fun x => (x.1, x.2, 0)) = as.map fun y => (y, (s.opnd is w a y.lane, 0)) := by
    rw [List.map_map]
    rfl
  rcases hsp with rfl | rfl
  · simp only [hl]
    exact State.padsActed_red hr hd
  · simp only [hl]
    exact State.padsActed_red hr hd
end

/-- Settles O20: the words' common form, for every word of the two families. -/
theorem scratchpadAtomics : Obligations.ScratchpadAtomics := by
  unfold Obligations.ScratchpadAtomics
  intro s q t wide v a base sp ord off hsp acts atom red
  exact ⟨⟨State.atom_completes hsp rfl, State.atom_completes hsp rfl, State.atom_completes hsp rfl, State.atom_completes hsp rfl,
      State.atom_completes hsp rfl, State.atom_completes hsp rfl, State.atom_completes hsp rfl, State.atom_completes hsp rfl,
      State.atom_completes hsp rfl⟩,
    State.red_completes hsp rfl, State.red_completes hsp rfl, State.red_completes hsp rfl, State.red_completes hsp rfl,
    State.red_completes hsp rfl, State.red_completes hsp rfl, State.red_completes hsp rfl⟩

end Sys2Proof.Machine
end

section
/-! Heat, the scrub and the failure of a memory die (R60, R61, R63, R65, R238). What a failure does after the die's watches have fired writes
memory and its bookkeeping, which can fire further watches but never arms one and never takes a fired one back. -/

namespace Sys2Proof.Machine

/-! ### What later steps leave of the failed dies and of the watches -/

/-- From `s` to `t` no die recovers, no watch is armed, and the watches that have fired stay so. -/
structure State.FiresOnly (s t : State) : Prop where
  failed : t.md.failed = s.md.failed
  watches : ∀ w ∈ t.md.watches, w ∈ s.md.watches
  fired : ∀ w ∈ s.md.fired, w ∈ t.md.fired

theorem State.FiresOnly.of_eq {s t : State} (hf : t.md.failed = s.md.failed) (hw : t.md.watches = s.md.watches)
    (hd : t.md.fired = s.md.fired) : s.FiresOnly t := ⟨hf, fun _ h => hw ▸ h, fun _ h => hd ▸ h⟩
theorem State.FiresOnly.of_md {s t : State} (h : t.md = s.md) : s.FiresOnly t := .of_eq (by rw [h]) (by rw [h]) (by rw [h])
theorem State.FiresOnly.refl (s : State) : s.FiresOnly s := .of_eq rfl rfl rfl
theorem State.FiresOnly.trans {s t u : State} (h : s.FiresOnly t) (k : t.FiresOnly u) : s.FiresOnly u :=
  ⟨k.failed.trans h.failed, fun w hw => h.watches w (k.watches w hw), fun w hw => k.fired w (h.fired w hw)⟩
theorem foldl_firesOnly {β : Type} (f : State → β → State) (xs : List β) (s : State) (h : ∀ t b, State.FiresOnly t (f t b)) :
    s.FiresOnly (xs.foldl f s) :=
  foldl_keeps s.FiresOnly f xs s (.refl s) fun t b ht => ht.trans (h t b)

/-! ### Writes and records -/

theorem State.fireWatches_firesOnly (s : State) (ias : List Nat) : s.FiresOnly (s.fireWatches ias) :=
  ⟨rfl, fun _ h => (List.mem_filter.1 h).1, fun _ h => List.mem_append_left _ h⟩

theorem State.rekey_firesOnly (s : State) (leaf : BitVec 64) (sec : Nat) : s.FiresOnly (s.rekey leaf sec) := by
  simp only [State.rekey]
  split
  · exact .refl s
  · exact .of_eq rfl rfl rfl

theorem State.performWrite_firesOnly (s : State) (leaf : BitVec 64) (ia pa : Nat) (w : List (Nat × BitVec 8)) :
    s.FiresOnly (s.performWrite leaf ia pa w) := by
  refine State.FiresOnly.trans ?_ (State.fireWatches_firesOnly _ _)
  split
  · exact .of_eq rfl rfl rfl
  · refine (foldl_firesOnly (fun (t : State) sec => t.rekey leaf sec)
      (((s.standing (leafF leaf) ia pa w).map fun x => x.1 / 32).eraseDups) s fun t sec => t.rekey_firesOnly leaf sec).trans ?_
    exact .of_eq rfl rfl rfl

theorem State.fitBlock_firesOnly (s : State) (force : Bool) (ctx die block : Nat) (p : State × Nat)
    (h : s.fitBlock force ctx die block = some p) : s.FiresOnly p.1 := by
  rw [State.fitBlock_frame s force ctx die block p h]; exact .of_eq rfl rfl rfl

theorem State.writeNow_firesOnly (s t : State) (ctx ia pa : Nat) (leaf : BitVec 64) (bytes : List (BitVec 8))
    (e : s.writeNow ctx ia pa leaf bytes = some t) : s.FiresOnly t := by
  have k := State.performWrite_firesOnly s leaf ia pa ((List.range bytes.length).map fun i => (pa + i, bytes.getD i 0))
  simp only [State.writeNow] at e
  split at e
  · cases e; exact k
  · split at e
    · obtain ⟨p, hp, rfl⟩ := Option.map_eq_some_iff.1 e
      have q : s.FiresOnly p.1 := by
        refine (k.trans ?_).trans (State.fitBlock_firesOnly _ _ _ _ _ p hp)
        split
        · exact .of_eq rfl rfl rfl
        · exact .refl _
      refine q.trans ?_
      split
      · exact .refl _
      · exact .of_eq rfl rfl rfl
    · cases e
      refine k.trans ?_
      split
      · exact .of_eq rfl rfl rfl
      · exact .refl _

theorem State.deviceWrite_firesOnly (s : State) (ctx ia pa : Nat) (leaf : BitVec 64) (bytes : List (BitVec 8)) :
    s.FiresOnly (s.deviceWrite ctx ia pa leaf bytes) := by
  simp only [State.deviceWrite]
  cases e : s.deviceWrite? ctx ia pa leaf bytes with
  | none => exact .refl s
  | some t =>
    simp only [State.deviceWrite?] at e
    split at e
    · exact State.writeNow_firesOnly s t ctx ia pa leaf bytes e
    · cases e; exact .of_eq rfl rfl rfl

theorem State.funcWrite_firesOnly (s : State) (f : Nat) (c : Option Nat) (va : Nat) (bytes : List (BitVec 8)) :
    s.FiresOnly (s.funcWrite f c va bytes) := by
  refine foldl_firesOnly _ _ s fun t p => ?_
  split
  · split
    · exact State.deviceWrite_firesOnly ..
    · exact .refl t
  · exact .refl t

theorem State.nextRseq_firesOnly (s : State) : s.FiresOnly s.nextRseq.1 := .of_eq rfl rfl rfl
theorem State.setFunc_firesOnly (s : State) (f : Nat) (x : Func) : s.FiresOnly (s.setFunc f x) := .of_eq rfl rfl rfl
theorem State.modFunc_firesOnly (s : State) (f : Nat) (k : Func → Func) : s.FiresOnly (s.modFunc f k) := .of_eq rfl rfl rfl

theorem State.logPut_firesOnly (s : State) (f : Nat) (bytes : List (BitVec 8)) : s.FiresOnly (s.logPut f bytes) := by
  simp only [State.logPut]
  refine State.FiresOnly.trans ?_ (State.modFunc_firesOnly _ f _)
  exact (State.funcWrite_firesOnly ..).trans (State.funcWrite_firesOnly ..)

theorem State.logLost_firesOnly (s : State) (f : Nat) : s.FiresOnly (s.logLost f) := by
  simp only [State.logLost]
  split
  · exact .refl s
  · exact (State.nextRseq_firesOnly s).trans ((State.logPut_firesOnly ..).trans (State.modFunc_firesOnly ..))

theorem State.logWrite_firesOnly (s : State) (f : Nat) (mk : Nat → List (BitVec 8)) : s.FiresOnly (s.logWrite f mk).1 := by
  have h := (State.logLost_firesOnly s f).trans (State.nextRseq_firesOnly _)
  simp only [State.logWrite]
  split
  · exact h
  · split
    · exact h.trans (State.logPut_firesOnly ..)
    · exact h.trans (State.setFunc_firesOnly ..)

theorem State.raiseVector_md (s : State) (f v : Nat) : (s.raiseVector f v).md = s.md := by
  simp only [State.raiseVector]
  split
  · rfl
  · split
    · rfl
    · rfl

theorem State.raiseEvent_md (s : State) (f v : Nat) : (s.raiseEvent f v).md = s.md := by
  simp only [State.raiseEvent]
  split
  · exact State.raiseVector_md ..
  · rfl

theorem State.raiseEvent_firesOnly (s : State) (f v : Nat) : s.FiresOnly (s.raiseEvent f v) :=
  .of_md (s.raiseEvent_md f v)

theorem State.memRecord_firesOnly (s : State) (type sev die ctx cnt ia : Nat) : s.FiresOnly (s.memRecord type sev die ctx cnt ia) := by
  simp only [State.memRecord, State.logRecord]
  split
  · exact (State.logWrite_firesOnly ..).trans (State.raiseEvent_firesOnly ..)
  · exact State.logWrite_firesOnly ..

theorem State.logAndRaise_firesOnly (s : State) (f vec : Nat) (mk : Nat → List (BitVec 8)) : s.FiresOnly (s.logAndRaise f vec mk) :=
  (State.logWrite_firesOnly ..).trans (State.raiseEvent_firesOnly ..)

theorem State.fitParity_firesOnly (s : State) (ctx die block : Nat) : s.FiresOnly (s.fitParity ctx die block) := by
  simp only [State.fitParity]
  split
  · next p e =>
    refine (State.fitBlock_firesOnly s true ctx die block p e).trans ?_
    split
    · exact .refl _
    · exact State.memRecord_firesOnly ..
  · exact .refl s

/-! ### The steps of a failure before its watches fire (R63) -/

/-- The failed dies and the watches, armed and fired, are those of `s`. -/
structure State.SameWatches (s t : State) : Prop where
  failed : t.md.failed = s.md.failed
  watches : t.md.watches = s.md.watches
  fired : t.md.fired = s.md.fired

theorem State.SameWatches.refl (s : State) : s.SameWatches s := ⟨rfl, rfl, rfl⟩
theorem State.SameWatches.trans {s t u : State} (h : s.SameWatches t) (k : t.SameWatches u) : s.SameWatches u :=
  ⟨k.failed.trans h.failed, k.watches.trans h.watches, k.fired.trans h.fired⟩
theorem State.SameButFab.sameWatches {s t : State} (h : s.SameButFab t) : s.SameWatches t := by
  unfold State.SameButFab at h; rw [h]; exact ⟨rfl, rfl, rfl⟩

theorem State.modXl_sameWatches (s : State) (k : Xlate → Xlate) : s.SameWatches (s.modXl k) := ⟨rfl, rfl, rfl⟩
theorem State.modMd_sameWatches (s : State) (k : MemDies → MemDies) (hf : (k s.md).failed = s.md.failed)
    (hw : (k s.md).watches = s.md.watches) (hd : (k s.md).fired = s.md.fired) : s.SameWatches (s.modMd k) := ⟨hf, hw, hd⟩

theorem foldl_sameWatches {β : Type} (f : State → β → State) (xs : List β) (s : State) (h : ∀ t b, State.SameWatches t (f t b)) :
    s.SameWatches (xs.foldl f s) :=
  foldl_keeps s.SameWatches f xs s (.refl s) fun t b ht => ht.trans (h t b)

theorem State.tellFailure_sameWatches (s : State) (f : Nat) : s.SameWatches (s.tellFailure f) :=
  foldl_sameWatches _ _ s fun t p => (State.message_fab t controlPort p 2).sameWatches

theorem State.freeTickets_sameWatches (s : State) (port : Nat) : s.SameWatches (s.freeTickets port) := by
  simp only [State.freeTickets]
  refine State.SameWatches.trans ?_ (State.modMd_sameWatches _ _ rfl rfl rfl)
  refine State.SameWatches.trans ?_ (State.modXl_sameWatches _ _)
  refine State.SameWatches.trans ?_ (foldl_sameWatches _ _ _ ?_)
  · refine State.SameWatches.trans ?_ (foldl_sameWatches _ _ _ ?_)
    · refine foldl_sameWatches _ _ s ?_
      exact fun _ _ => ⟨rfl, rfl, rfl⟩
    · exact fun _ _ => ⟨rfl, rfl, rfl⟩
  · exact fun _ _ => ⟨rfl, rfl, rfl⟩

/-- A die that stops is marked; no watch has changed yet. -/
theorem State.dieStops_watches (s : State) (f : Nat) : (s.dieStops f).md.failed = s.md.failed ||| BitVec.ofNat 17 (2 ^ f) ∧
    (s.dieStops f).md.watches = s.md.watches ∧ (s.dieStops f).md.fired = s.md.fired := by
  simp only [State.dieStops]
  obtain ⟨hf, hw, hd⟩ := State.freeTickets_sameWatches ((_ : State).modXl _) (portOfMemory f)
  exact ⟨hf, hw, hd⟩

/-- Telling a requester its answer touches no watch. -/
theorem State.cellAnswer_sameWatches (s : State) (r : CellReq) (v : Option Nat) : s.SameWatches (s.cellAnswer r v) := by
  have hm := (State.message_fab s (portOfMemory (s.cellHome r.cell)) (portOfSource r.src) 1).sameWatches
  simp only [State.cellAnswer]
  split
  · split
    · exact hm.trans ⟨rfl, rfl, rfl⟩
    · exact hm.trans ⟨rfl, rfl, rfl⟩
  · exact hm.trans ⟨rfl, rfl, rfl⟩
  · exact hm.trans ⟨rfl, rfl, rfl⟩
  · exact .refl s

theorem State.dieCells_sameWatches (s : State) (f : Nat) : s.SameWatches (s.dieCells f) := by
  refine State.SameWatches.trans ?_ (foldl_sameWatches _ _ _ fun t u => State.cellAnswer_sameWatches t u.req (some u.value))
  exact ⟨rfl, rfl, rfl⟩

/-- The die's watches have fired (R238). -/
def State.WatchesFired (s t : State) (f : Nat) : Prop :=
  t.md.failed.getLsbD f = true ∧ (∀ w ∈ t.md.watches, w.home ≠ f) ∧ ∀ w ∈ s.md.watches, w.home = f → w ∈ t.md.fired

theorem State.WatchesFired.mono {s t u : State} {f : Nat} (h : s.WatchesFired t f) (k : t.FiresOnly u) : s.WatchesFired u f := by
  obtain ⟨hf, hw, hd⟩ := h
  exact ⟨k.failed ▸ hf, fun w m => hw w (k.watches w m), fun w m e => k.fired w (hd w m e)⟩

theorem State.dieWatches_fired (s : State) (f : Nat) (hf : s.md.failed.getLsbD f = true) : s.WatchesFired (s.dieWatches f) f :=
  ⟨hf, fun w m => by simpa using (List.mem_filter.1 m).2,
    fun w m e => List.mem_append_right _ (List.mem_filter.2 ⟨m, by simpa using e⟩)⟩

/-- A die that stops is marked, and the watches up to their firing are those of before. -/
theorem State.stopped_watches (s : State) (f : Nat) (hf : f < 17) :
    (((s.tellFailure f).dieStops f).dieCells f).md.failed.getLsbD f = true ∧
      (((s.tellFailure f).dieStops f).dieCells f).md.watches = s.md.watches := by
  have h1 := s.tellFailure_sameWatches f
  obtain ⟨sf, sw, _⟩ := (s.tellFailure f).dieStops_watches f
  have h3 := ((s.tellFailure f).dieStops f).dieCells_sameWatches f
  refine ⟨?_, h3.watches.trans (sw.trans h1.watches)⟩
  rw [h3.failed, sf, BitVec.getLsbD_or, BitVec.getLsbD_ofNat]
  simp [hf]

/-! ### The steps after them -/

theorem State.rebuildOn_firesOnly (s : State) (f : Nat) : s.FiresOnly (s.rebuildOn f) := by
  simp only [State.rebuildOn]
  split
  · exact .of_eq rfl rfl rfl
  · refine State.FiresOnly.trans ?_ (State.memRecord_firesOnly ..)
    exact .of_eq rfl rfl rfl

/-- Taking back what was not applied changes memory alone. -/
theorem State.undoDeltas_md (p : Delta → List (List (Nat × BitVec 8)) → State → List (List (Nat × BitVec 8))) (ds : List Delta)
    (s : State) (l : List (List (Nat × BitVec 8))) :
    (ds.foldl (fun (a : State × List (List (Nat × BitVec 8))) d => (a.1.undoDelta d, p d a.2 a.1)) (s, l)).1.md = s.md :=
  foldl_keeps (fun a : State × List (List (Nat × BitVec 8)) => a.1.md = s.md) _ ds (s, l) rfl fun _ _ h => h

theorem State.dieResend_firesOnly (s : State) (f : Nat) : s.FiresOnly (s.dieResend f) := by
  have hu := State.undoDeltas_md (fun d l a => if d.req.direct then a.writtenBy d d.pdie :: l else l)
    (s.md.deltas.filter fun d => d.home == f).reverse s []
  simp only [State.dieResend]
  refine State.FiresOnly.trans (.of_md hu) ?_
  generalize List.foldl _ (s, []) _ = u
  split
  · exact State.FiresOnly.trans (State.rebuildOn_firesOnly u.1 f) (.of_eq rfl rfl rfl)
  · exact .of_eq rfl rfl rfl

theorem State.refitBlocks_firesOnly (s : State) (f : Nat) : s.FiresOnly (s.refitBlocks f) :=
  foldl_firesOnly _ _ s fun t z => by
    refine State.FiresOnly.trans ?_ (foldl_firesOnly _ _ _ fun u p => State.fitParity_firesOnly u z.2.ctx p (z.1 / 17))
    exact .of_eq rfl rfl rfl

/-- A failed die is marked, and its watches have fired. -/
theorem State.memoryDieFails_fired (s : State) (f : Nat) (hf : f < 17) : s.WatchesFired (s.memoryDieFails f) f := by
  obtain ⟨hb, hw⟩ := s.stopped_watches f hf
  simp only [State.memoryDieFails]
  generalize ((s.tellFailure f).dieStops f).dieCells f = v at hb hw ⊢
  have h : s.WatchesFired (v.dieWatches f) f := by
    obtain ⟨h1, h2, h3⟩ := v.dieWatches_fired f hb
    exact ⟨h1, h2, hw ▸ h3⟩
  generalize v.dieWatches f = u at h ⊢
  have hr : ∀ v : State, u.FiresOnly v → s.WatchesFired ((v.dieResend f).refitBlocks f) f := fun v k =>
    h.mono (k.trans ((v.dieResend_firesOnly f).trans (State.refitBlocks_firesOnly _ f)))
  by_cases c : (s.md.failed != 0 || s.md.retired.isSome) = true
  · rw [if_pos c, if_pos c]
    refine State.WatchesFired.mono ?_ (State.memRecord_firesOnly ..)
    exact hr (u.modMd _) (.of_eq rfl rfl rfl)
  · rw [if_neg c, if_neg c]
    exact (hr u (.refl u)).mono (State.logAndRaise_firesOnly ..)

theorem memoryDieFailure_spec (s : State) (die : Nat) (hd : die < 17) (hg : s.dieGone die = false) :
    s.Happens (.memoryDieFailure die) fun t => t.dieGone die = true ∧ (∀ w ∈ t.md.watches, w.home ≠ die) ∧
      ∀ w ∈ s.md.watches, w.home = die → w ∈ t.md.fired := by
  obtain ⟨hf, hw, hr⟩ := s.memoryDieFails_fired die hd
  refine ⟨s.memoryDieFails die, ?_, ?_, hw, hr⟩
  · show execMemoryDieFailure die s = _
    rw [execMemoryDieFailure, hg, if_neg (by simp [hd])]
  · rw [State.dieGone, hf, Bool.true_or]

/-! ### Heat (R60) -/

/-- The sample at the head that may be counted is the one that is. -/
theorem nextSample_of_head {s : State} {h : HeatSample} {rest : List HeatSample} (hq : s.md.heatQ = h :: rest)
    (hl : s.landed h.ticket = true) (he : s.epochDue h.ctx = false) :
    (s.md.heatQ.find? fun h => s.landed h.ticket && !s.epochDue h.ctx) = some h := by
  simp [hq, hl, he]

theorem heatSample_counted_spec (s : State) (h : HeatSample) (rest : List HeatSample) (c : Context) (hq : s.md.heatQ = h :: rest)
    (hl : s.landed h.ticket = true) (he : s.epochDue h.ctx = false) (hc : s.ctx? h.ctx = some c) :
    s.Happens (.heatSample false) fun t =>
      t = { s.setCtx h.ctx { c with heat := SMap.set 0 c.heat h.page (min 255 (SMap.get 0 c.heat h.page + 1)) } with
        md := { s.md with heatQ := rest } } := by
  refine ⟨_, ?_, rfl⟩
  have hc' : SMap.find? s.host.ctxs h.ctx = some c := hc
  show execHeatSample false s = _
  simp only [execHeatSample, nextSample_of_head hq hl he]
  simp [State.modMd, State.modCtx, State.setCtx, SMap.modify, hc', hq]

theorem State.memRecord_logged (s : State) (type sev die ctx cnt ia : Nat) : s.Logged (s.memRecord type sev die ctx cnt ia) :=
  State.logRecord_logged ..

/-- A record leaves the heat queue, the dropped samples, the contexts and the groups. -/
theorem State.Logged.heat {s t : State} (h : s.Logged t) : t.md.heatQ = s.md.heatQ ∧ t.md.heatDrop = s.md.heatDrop ∧
    t.host.ctxs = s.host.ctxs ∧ t.groups = s.groups := by
  have hw := h.1
  unfold State.Wrote at hw
  rw [hw]; exact ⟨rfl, rfl, rfl, rfl⟩

theorem State.heatDropped_spec (s : State) (die ctx : Nat) : (s.heatDropped die ctx).md.heatQ = s.md.heatQ ∧
    SMap.get 0 (s.heatDropped die ctx).md.heatDrop die = SMap.get 0 s.md.heatDrop die + 1 ∧
    (s.heatDropped die ctx).host.ctxs = s.host.ctxs ∧ (s.heatDropped die ctx).groups = s.groups := by
  simp only [State.heatDropped]
  split
  · exact ⟨rfl, SMap.get_set_same .., rfl, rfl⟩
  · obtain ⟨hq, hd, hc, hg⟩ := (State.memRecord_logged ((_ : State).modMd _) 0x0307 0 die ctx _ 0).heat
    exact ⟨hq, (congrArg (fun m => SMap.get 0 m die) hd).trans (SMap.get_set_same ..), hc, hg⟩

theorem heatSample_dropped_spec (s : State) (h : HeatSample) (rest : List HeatSample) (hq : s.md.heatQ = h :: rest)
    (hl : s.landed h.ticket = true) (he : s.epochDue h.ctx = false) :
    s.Happens (.heatSample true) fun t => t.md.heatQ = rest ∧
      SMap.get 0 t.md.heatDrop h.die = SMap.get 0 s.md.heatDrop h.die + 1 ∧ t.host.ctxs = s.host.ctxs ∧ t.groups = s.groups := by
  obtain ⟨kq, kd, kc, kg⟩ := (s.modMd fun m => { m with heatQ := m.heatQ.erase h }).heatDropped_spec h.die h.ctx
  refine ⟨_, ?_, kq.trans ?_, kd, kc, kg⟩
  · show execHeatSample true s = _
    simp only [execHeatSample, nextSample_of_head hq hl he]
    rfl
  · simp [State.modMd, hq]

/-- Halving every entry of a canonical map halves what is read from it. -/
theorem SMap.get_foldl_halve (m : SMap Nat) (p : Nat) : ∀ (lo : Nat) (acc : SMap Nat), SMap.wfFrom 0 lo m = true →
    (∀ k, lo ≤ k → SMap.get 0 acc k = 0) →
    SMap.get 0 (m.foldl (fun m x => SMap.set 0 m x.1 (x.2 / 2)) acc) p = if p < lo then SMap.get 0 acc p else SMap.get 0 m p / 2 := by
  induction m with
  | nil =>
    intro lo acc _ hz
    split
    · rfl
    · next h => simpa [SMap.get] using hz p (by omega)
  | cons e m ih =>
    intro lo acc hw hz
    simp only [SMap.wfFrom, Bool.and_eq_true, decide_eq_true_eq] at hw
    obtain ⟨⟨hlo, _⟩, hm⟩ := hw
    rw [List.foldl_cons, ih (e.1 + 1) _ hm fun k hk => by rw [SMap.get_set, if_neg (by omega)]; exact hz k (by omega)]
    rw [SMap.get_set]
    simp only [SMap.get]
    rcases Nat.lt_trichotomy p e.1 with h | h | h
    · have hp : ¬ p < lo → SMap.get 0 acc p = 0 := fun hp => hz p (by omega)
      by_cases hl : p < lo
      · simp [hl, Nat.ne_of_lt h, Nat.lt_succ_of_lt h]
      · simp [hl, h, Nat.ne_of_lt h, Nat.lt_succ_of_lt h, hp hl]
    · simp [h, Nat.not_lt.2 hlo]
    · simp [Nat.not_lt.2 (show e.1 + 1 ≤ p by omega), Nat.not_lt.2 (show lo ≤ p by omega), Nat.ne_of_gt h, Nat.lt_asymm h]

theorem heatEpoch_spec (s : State) (ctx : Nat) (c : Context) (hc : s.ctx? ctx = some c)
    (hd : c.born + (c.epochs + 1) * (c.req.epoch * 2000000) ≤ s.now) (hw : SMap.wf 0 c.heat = true) :
    s.Happens (.heatEpoch ctx) fun t => ∃ h, t = s.setCtx ctx { c with epochs := c.epochs + 1, heat := h } ∧
      ∀ p, SMap.get 0 h p = SMap.get 0 c.heat p / 2 := by
  refine ⟨_, ?_, c.heat.foldl (fun m x => SMap.set 0 m x.1 (x.2 / 2)) [], rfl, fun p => ?_⟩
  · show execHeatEpoch ctx s = _
    simp only [execHeatEpoch, hc]
    exact if_neg (Nat.not_lt.2 hd)
  · simpa using SMap.get_foldl_halve c.heat p 0 [] hw fun _ _ => rfl

/-! ### Scrub (R61) -/

/-- The corrected errors of a die, one more. -/
def State.scrubCounted (s : State) (die : Nat) : State :=
  { s with md := { s.md with corrected := SMap.set 0 s.md.corrected die (SMap.get 0 s.md.corrected die + 1) } }
/-- What a scrub concerns, poisoned. -/
def State.scrubPoisoned (s : State) (die sector : Nat) : State :=
  { s with md := { s.md with
    poison := (s.scrubbed die sector).foldl (fun p x => SMap.set false p (slotSector x.1 die x.2) true) s.md.poison } }

/-- The three ends of a scrub that takes place. -/
theorem execDramScrub_eq (s : State) (die sector : Nat) (find : ScrubFind) (hd : die < 17) (hs : sector < deviceTop / 4096 * 8)
    (hg : s.dieGone die = false) : execDramScrub die sector find s =
      let ia := s.iaOf (sector / 8) die (sector % 8)
      let poison := (s.scrubPoisoned die sector).memRecord 0x0304 1 die 0xFFFF (s.scrubbed die sector).length ia
      match find with
      | .corrected => .next (s.scrubCounted die)
      | .rebuilt =>
        if s.canRebuild die (s.scrubbed die sector) then .next ((s.scrubCounted die).memRecord 0x0303 0 die 0xFFFF 1 ia) else .next poison
      | .poisoned => .next poison := by
  have hc : (decide (17 ≤ die) || decide (deviceTop / 4096 * 8 ≤ sector) || s.dieGone die) = false := by simp [hd, hs, hg]
  rw [execDramScrub, hc]
  cases find
  · rfl
  · rfl
  · rfl

theorem dramScrub_spec (s : State) (die sector : Nat) (hd : die < 17) (hs : sector < deviceTop / 4096 * 8) (hg : s.dieGone die = false) :
    let counted : State := { s with md := { s.md with
      corrected := SMap.set 0 s.md.corrected die (SMap.get 0 s.md.corrected die + 1) } }
    (s.Happens (.dramScrub die sector .corrected) fun t => t = counted) ∧
    let poisoned (t : State) : Prop := ∃ u : State, u.Logged t ∧ u = { s with md := { s.md with
      poison := (s.scrubbed die sector).foldl (fun p x => SMap.set false p (slotSector x.1 die x.2) true) s.md.poison } }
    (s.canRebuild die (s.scrubbed die sector) = true → s.Happens (.dramScrub die sector .rebuilt) fun t => counted.Logged t) ∧
    (s.canRebuild die (s.scrubbed die sector) = false → s.Happens (.dramScrub die sector .rebuilt) poisoned) ∧
    s.Happens (.dramScrub die sector .poisoned) poisoned := by
  intro counted
  have he : ∀ find, exec (.dramScrub die sector find) s = execDramScrub die sector find s := fun _ => rfl
  have hp := (s.scrubPoisoned die sector).memRecord_logged 0x0304 1 die 0xFFFF (s.scrubbed die sector).length
    (s.iaOf (sector / 8) die (sector % 8))
  have hr := (s.scrubCounted die).memRecord_logged 0x0303 0 die 0xFFFF 1 (s.iaOf (sector / 8) die (sector % 8))
  refine ⟨⟨_, ?_, rfl⟩, fun h => ⟨_, ?_, hr⟩, fun h => ⟨_, ?_, _, hp, rfl⟩, ⟨_, ?_, _, hp, rfl⟩⟩
  · rw [he, execDramScrub_eq s die sector _ hd hs hg]; rfl
  · rw [he, execDramScrub_eq s die sector _ hd hs hg]; exact if_pos h
  · rw [he, execDramScrub_eq s die sector _ hd hs hg]; exact if_neg (by simp [h])
  · rw [he, execDramScrub_eq s die sector _ hd hs hg]

/-- Settles O46: heat and scrub event by event, and the failure by what each of its steps leaves of the watches. -/
theorem memoryUpkeep : Obligations.MemoryUpkeep := by
  unfold Obligations.MemoryUpkeep
  intro s die
  exact ⟨heatSample_counted_spec s, heatSample_dropped_spec s, heatEpoch_spec s, dramScrub_spec s die, memoryDieFailure_spec s die⟩

end Sys2Proof.Machine
end

section
/-! Parity deltas, acknowledgements of writes, peer stores and write classes (R42, R45, R46, R49, R62, R64, R190, R208). -/

namespace Sys2Proof.Machine

/-! ### What a delta does to a parity unit (R42) -/

theorem slotAt_lt (t d k : Nat) (a : Nat) (h : a < slotAt t d 0 ∨ slotAt t d 256 ≤ a) (hk : k < 256) : a ≠ slotAt t d k := by
  unfold slotAt at *; omega

/-- A byte of the parity unit takes every change of its offset. -/
theorem read_applyParity_slot (t die k : Nat) (bs : List (Nat × BitVec 8)) : ∀ m : Memory,
    Memory.read (applyParity m t die bs) (slotAt t die k) =
      (bs.filter fun x => x.1 == k).foldl (fun b x => b ^^^ x.2) (Memory.read m (slotAt t die k)) := by
  induction bs with
  | nil => intro m; rfl
  | cons x bs ih =>
    intro m
    refine (ih _).trans ?_
    by_cases h : x.1 = k
    · subst h
      simp
    · have hk : slotAt t die k ≠ slotAt t die x.1 := fun e => h (by unfold slotAt at e; omega)
      rw [Memory.read_write_other _ _ _ _ hk, List.filter_cons_of_neg (by simpa using h)]

/-- Memory outside the parity unit is as it was. -/
theorem read_applyParity_other (t die a : Nat) (bs : List (Nat × BitVec 8)) (hb : ∀ x ∈ bs, x.1 < 256)
    (ha : a < slotAt t die 0 ∨ slotAt t die 256 ≤ a) : ∀ m : Memory, Memory.read (applyParity m t die bs) a = Memory.read m a := by
  induction bs with
  | nil => intro m; rfl
  | cons x bs ih =>
    intro m
    refine (ih (fun y hy => hb y (List.mem_cons_of_mem x hy)) _).trans ?_
    exact Memory.read_write_other _ _ _ _ (slotAt_lt t die x.1 a ha (hb x List.mem_cons_self))

/-! ### A parity die takes a delta (R64) -/

theorem State.consume_fab (s : State) (i j tc : Nat) : s.SameButFab (s.consume i j tc) := State.settlePause_fab ..

/-- A delta's tag is kept at its parity die. -/
def State.deltaSeen (s : State) (d : Delta) : Bool := s.md.tags.any fun x => x.1 == d.tag && x.2.1 == d.pdie
/-- A delta changes its parity unit. -/
def State.deltaApplies (s : State) (d : Delta) : Bool := !s.deltaSeen d && s.keepsParity

/-- The delta is applied, kept and acknowledged, before its block is compressed anew. -/
def State.takeDelta (s : State) (d : Delta) (rest : List Delta) : State :=
  let f := s.message (portOfMemory d.pdie) (portOfMemory d.home) 2
  { f.1 with
    mem := if s.deltaSeen d || !s.keepsParity then s.mem else applyParity s.mem d.stripe d.pdie d.bytes
    md := { s.md with
      deltas := rest, parityAcks := s.md.parityAcks ++ [{ d with ticket := f.2 }]
      tags := (s.md.tags.filter fun x => s.now < x.2.2.1 + 128000) ++ if s.deltaSeen d then [] else [(d.tag, d.pdie, s.now, d.results)] } }

theorem State.takeDelta_eq (s : State) (d : Delta) (rest : List Delta) : s.takeDelta d rest = { s with
    fab := (s.takeDelta d rest).fab
    mem := (s.takeDelta d rest).mem
    md := { s.md with
      deltas := rest
      parityAcks := s.md.parityAcks ++ [{ d with ticket := (s.message (portOfMemory d.pdie) (portOfMemory d.home) 2).2 }]
      tags := (s.md.tags.filter fun x => s.now < x.2.2.1 + 128000) ++
        if s.deltaSeen d then [] else [(d.tag, d.pdie, s.now, d.results)] } } := by
  have h := State.message_fab s (portOfMemory d.pdie) (portOfMemory d.home) 2
  unfold State.SameButFab at h
  simp only [State.takeDelta]
  rw [h]

theorem State.takeDelta_mem (s : State) (d : Delta) (rest : List Delta) :
    (s.takeDelta d rest).mem = if s.deltaApplies d then applyParity s.mem d.stripe d.pdie d.bytes else s.mem := by
  simp only [State.takeDelta, State.deltaApplies]
  by_cases h1 : s.deltaSeen d = true
  · simp [h1]
  · by_cases h2 : s.keepsParity = true
    · simp [h1, h2]
    · simp [h2]

/-- A delta taken, with the parity die's block compressed anew where it is of a Z page. -/
def State.refitDelta (s : State) (d : Delta) (rest : List Delta) : State :=
  if leafZ d.leaf && s.deltaApplies d then (s.takeDelta d rest).fitParity d.req.ctx d.pdie (d.stripe / 8) else s.takeDelta d rest

theorem State.nextDelta_head {s : State} {d : Delta} {rest : List Delta} (hl : s.landed d.ticket = true) :
    s.nextDelta d.pdie (d :: rest) [] = some d := by
  simp [State.nextDelta, hl]

theorem execParityDelta_head {s : State} {d : Delta} {rest : List Delta} (hq : s.md.deltas = d :: rest) (hl : s.landed d.ticket = true) :
    execParityDelta d.pdie s = .next ((s.refitDelta d rest).consume (portOfMemory d.home) (portOfMemory d.pdie) 2) := by
  have hm := State.message_fab s (portOfMemory d.pdie) (portOfMemory d.home) 2
  unfold State.SameButFab at hm
  have hn : s.nextDelta d.pdie s.md.deltas [] = some d := by rw [hq]; exact State.nextDelta_head hl
  have he : s.md.deltas.erase d = rest := by rw [hq]; exact List.erase_cons_head ..
  simp only [execParityDelta, hn, State.refitDelta, State.takeDelta, State.deltaApplies, State.deltaSeen, State.modMd]
  rw [hm]
  simp only [he, Bool.and_assoc]
  rfl

/-- The fabric of a state that has logged does not matter. -/
theorem State.Logged.withFab {s t : State} (h : s.Logged t) (f : Fabric) : ({ s with fab := f } : State).Logged { t with fab := f } := by
  obtain ⟨hw, hr⟩ := h
  refine ⟨?_, hr⟩
  unfold State.Wrote at *
  rw [hw]

/-- A parity die's block changes its granules and their counters alone, and may be recorded. -/
theorem State.fitParity_spec (s : State) (ctx die block : Nat) : ∃ u : State, u = { s with md := { s.md with
      zblocks := u.md.zblocks, reserve := u.md.reserve, nextGranule := u.md.nextGranule, zcount := u.md.zcount } } ∧
    (s.fitParity ctx die block = u ∨ u.Logged (s.fitParity ctx die block)) := by
  simp only [State.fitParity]
  split
  · next p e =>
    refine ⟨p.1, State.fitBlock_frame s true ctx die block p e, ?_⟩
    split
    · exact .inl rfl
    · exact .inr (State.memRecord_logged ..)
  · exact ⟨s, rfl, .inl rfl⟩

/-- The state before the record, and whether there is one. -/
theorem State.refitDelta_spec (s : State) (d : Delta) (rest : List Delta) :
    ∃ w : State, w = { s.takeDelta d rest with md := { (s.takeDelta d rest).md with
        zblocks := w.md.zblocks, reserve := w.md.reserve, nextGranule := w.md.nextGranule, zcount := w.md.zcount } } ∧
      (s.refitDelta d rest = w ∨ w.Logged (s.refitDelta d rest)) ∧
      ((leafZ d.leaf && s.deltaApplies d) = false → s.refitDelta d rest = w ∧ w = s.takeDelta d rest) := by
  simp only [State.refitDelta]
  split
  · next hz =>
    obtain ⟨w, hw, hl⟩ := (s.takeDelta d rest).fitParity_spec d.req.ctx d.pdie (d.stripe / 8)
    exact ⟨w, hw, hl, fun h => absurd hz (by simp [h])⟩
  · exact ⟨_, rfl, .inl rfl, fun _ => ⟨rfl, rfl⟩⟩

theorem parityDelta_spec (s : State) (d : Delta) (rest : List Delta) (hq : s.md.deltas = d :: rest) (hl : s.landed d.ticket = true) :
    s.Happens (.parityDelta d.pdie) fun t =>
      let again := s.md.tags.any fun x => x.1 == d.tag && x.2.1 == d.pdie
      let applies : Bool := !again && s.keepsParity
      ∃ (u : State) (n : Ticket), u = { s with
          fab := t.fab, mem := u.mem
          md := { s.md with
            deltas := rest, parityAcks := s.md.parityAcks ++ [{ d with ticket := n }]
            tags := (s.md.tags.filter fun x => s.now < x.2.2.1 + 128000) ++ if again then [] else [(d.tag, d.pdie, s.now, d.results)]
            zblocks := u.md.zblocks, reserve := u.md.reserve, nextGranule := u.md.nextGranule, zcount := u.md.zcount } } ∧
        (t = u ∨ u.Logged t) ∧
        ((leafZ d.leaf && applies) = false → t = u ∧ u.md.zblocks = s.md.zblocks ∧ u.md.reserve = s.md.reserve ∧
          u.md.nextGranule = s.md.nextGranule ∧ u.md.zcount = s.md.zcount) ∧
        (applies = false → u.mem = s.mem) ∧
        (applies = true → (∀ x ∈ d.bytes, x.1 < 256) →
          (∀ k < 256, Memory.read u.mem (slotAt d.stripe d.pdie k) =
            (d.bytes.filter fun x => x.1 == k).foldl (fun b x => b ^^^ x.2) (Memory.read s.mem (slotAt d.stripe d.pdie k))) ∧
          ∀ a, a < slotAt d.stripe d.pdie 0 ∨ slotAt d.stripe d.pdie 256 ≤ a → Memory.read u.mem a = Memory.read s.mem a) := by
  have hv := s.takeDelta_eq d rest
  have hmem := s.takeDelta_mem d rest
  obtain ⟨w, hw, hlog, hno⟩ := s.refitDelta_spec d rest
  have hwm : w.mem = (s.takeDelta d rest).mem := by rw [hw]
  have hc := State.consume_fab (s.refitDelta d rest) (portOfMemory d.home) (portOfMemory d.pdie) 2
  refine ⟨_, execParityDelta_head hq hl, ?_⟩
  generalize (s.refitDelta d rest).consume (portOfMemory d.home) (portOfMemory d.pdie) 2 = t at hc ⊢
  unfold State.SameButFab at hc
  refine ⟨{ w with fab := t.fab }, (s.message (portOfMemory d.pdie) (portOfMemory d.home) 2).2, ?_, ?_, fun h => ?_, fun h => ?_,
    fun h hb => ?_⟩
  · conv_lhs => rw [hw, hv]
    simp only [hwm]
    rfl
  · rw [hc]
    rcases hlog with h | h
    · exact .inl (by rw [h])
    · exact .inr (h.withFab t.fab)
  · obtain ⟨h1, h2⟩ := hno h
    refine ⟨by rw [hc, h1, h2], ?_⟩
    simp only [h2]
    rw [hv]
    exact ⟨rfl, rfl, rfl, rfl⟩
  · exact (hwm.trans hmem).trans (if_neg (by simpa [State.deltaApplies, State.deltaSeen] using h))
  · have hm : w.mem = applyParity s.mem d.stripe d.pdie d.bytes := (hwm.trans hmem).trans (if_pos h)
    simp only [hm]
    exact ⟨fun k _ => read_applyParity_slot .., fun a ha => read_applyParity_other _ _ a _ hb ha _⟩

/-! ### Acknowledgements (R45, R208) -/

/-- The oldest acknowledgement, when it is back, is the one that the home answers; a host's writes may then go on. -/
theorem execParityAck_head {s : State} {d : Delta} {rest : List Delta} (hq : s.md.parityAcks = d :: rest) (hl : s.landed d.ticket = true)
    (hw : ∀ id, d.req.who ≠ .host id) :
    execParityAck d.home s = .next (({ s with md := { s.md with parityAcks := rest } } : State).answerWrite d) := by
  have hf : (s.md.parityAcks.find? fun x => x.home == d.home && s.landed x.ticket) = some d := by simp [hq, hl]
  have he : s.md.parityAcks.erase d = rest := by rw [hq]; exact List.erase_cons_head ..
  simp only [execParityAck, hf, State.modMd, he]

theorem parityAck_store_spec (s : State) (d : Delta) (rest : List Delta) (c id : Nat) (hq : s.md.parityAcks = d :: rest)
    (hl : s.landed d.ticket = true) (hw : d.req.who = .store c id) :
    s.Happens (.parityAck d.home) fun t => ∃ n, t = { s with
      fab := t.fab
      md := { s.md with parityAcks := rest }
      cores := SMap.set Core.reset s.cores c { s.core c with acks := (s.core c).acks ++
        [{ id := id, ok := d.req.laneMask &&& ~~~d.poison, poison := d.poison, flags := d.flags, ticket := n }] } } := by
  refine ⟨_, execParityAck_head hq hl (by simp [hw]), (({ s with md := { s.md with parityAcks := rest } } : State).replyTo d.home d.req).2, ?_⟩
  have hf := State.message_fab ({ s with md := { s.md with parityAcks := rest } } : State) (portOfHome d.home) (portOfSource d.req.src) 1
  unfold State.SameButFab at hf
  simp only [hw, State.answerWrite, State.replyTo, State.modCore, State.setCore, State.core]
  rw [hf]

/-- A change of units that changes none is none. -/
theorem State.modRange_id (s : State) (id va : Nat) (f : RangeUnit → RangeUnit) (h : ∀ x, f x = x) : s.modRange id va f = s := by
  simp [State.modRange, State.modMd, h]

theorem parityAck_memop_spec (s : State) (d : Delta) (rest : List Delta) (id va : Nat) (hq : s.md.parityAcks = d :: rest)
    (hl : s.landed d.ticket = true) (hw : d.req.who = .memop id va) (hp : d.poison = 0) :
    s.Happens (.parityAck d.home) fun t => ∃ n, t = { s with
      fab := t.fab
      md := { s.md with
        parityAcks := rest
        memops := s.md.memops.map fun m => if m.id = id then
          { m with open_ := m.open_.map fun u => if u.va = va then { u with left := u.left - 1, replies := u.replies ++ [n] } else u } else m } } := by
  refine ⟨_, execParityAck_head hq hl (by simp [hw]), (({ s with md := { s.md with parityAcks := rest } } : State).replyTo d.home d.req).2, ?_⟩
  have hf := State.message_fab ({ s with md := { s.md with parityAcks := rest } } : State) (portOfHome d.home) (portOfSource d.req.src) 1
  unfold State.SameButFab at hf
  have hid : ∀ t : State, t.modRange id va (fun x => { x with poison := x.poison || (d.poison != 0 && d.req.slot / 16 == 0) }) = t :=
    fun t => t.modRange_id id va _ fun x => by simp [hp]
  simp only [hw, State.answerWrite, hid]
  simp only [hw, State.replied, State.replyTo, State.modRange, State.modMd]
  rw [hf]

/-! ### The store buffer (R45, R190, R208) -/

/-- Flags that come back with lanes join their FSTAT. -/
theorem Group.fst_joinReturned (g : Group) (ls : List Nat) (f : Nat → Flags) (hn : ls.Nodup) (l : Nat) :
    (g.joinReturned ls f).fst l = if l ∈ ls then g.fst l ||| (f l).setWidth 32 else g.fst l :=
  Group.fst_joinFlags g ls f hn l

/-- Beside FSTAT they reach only what a squash puts back of it. -/
theorem Group.joinReturned_frame (g : Group) (ls : List Nat) (f : Nat → Flags) :
    g.joinReturned ls f = { g with fstat := (g.joinReturned ls f).fstat, specs := (g.joinReturned ls f).specs
                                   lineSpec := (g.joinReturned ls f).lineSpec } ∧
    ((g.joinReturned ls f).specs.map fun x => { x with fShadow := [] }) = (g.specs.map fun x => { x with fShadow := [] }) ∧
    ((g.joinReturned ls f).lineSpec.map fun x => { x with fShadow := [] }) = (g.lineSpec.map fun x => { x with fShadow := [] }) := by
  have h := Group.joinFlags_frame g ls f
  simp only [Group.joinReturned]
  rw [h]
  refine ⟨rfl, ?_, ?_⟩
  · simp only [List.map_map]; rfl
  · cases g.lineSpec
    · rfl
    · rfl

theorem storeAck_spec (s : State) (c : Nat) (a : StoreAnswer) (rest : List StoreAnswer) (b : BufStore) (g : Group)
    (hq : (s.core c).acks = a :: rest) (hl : s.landed a.ticket = true) (hp : a.poison = 0)
    (hb : (s.core c).stores.find? (fun x => x.id == a.id) = some b) (hg : s.group? b.gid = some g) :
    s.Happens (.storeAck c) fun t => ∃ h, t = { s.setGroup b.gid h with cores := t.cores } ∧
      h = { g with fstat := h.fstat, specs := h.specs, lineSpec := h.lineSpec } ∧
      (h.specs.map fun x => { x with fShadow := [] }) = (g.specs.map fun x => { x with fShadow := [] }) ∧
      (h.lineSpec.map fun x => { x with fShadow := [] }) = (g.lineSpec.map fun x => { x with fShadow := [] }) ∧
      (∀ l < 32, h.fst l = if lane a.ok l then
        g.fst l ||| ((a.flags.find? fun (x : Nat × BitVec 5) => x.1 == l).elim 0 fun x => x.2.setWidth 32) else g.fst l) ∧
      (∀ k, k ≠ c → t.core k = s.core k) ∧
      t.core c = { s.core c with
        acks := rest
        stores := ((s.core c).stores.map fun x =>
          if x.id = a.id then { x with lanes := x.lanes.filter fun y => !lane a.ok y.1 } else x).filter fun x => !x.lanes.isEmpty } := by
  have hid : b.id = a.id := by simpa using List.find?_some hb
  have hg' : SMap.find? s.groups b.gid = some g := hg
  obtain ⟨hfr, hsp, hls⟩ := g.joinReturned_frame (lanes a.ok) fun l => ((a.flags.find? fun x => x.1 == l).map (·.2)).getD 0
  have hfst := g.fst_joinReturned (lanes a.ok) (fun l => ((a.flags.find? fun x => x.1 == l).map (·.2)).getD 0) (lanes_nodup _)
  generalize hj : g.joinReturned (lanes a.ok) (fun l => ((a.flags.find? fun x => x.1 == l).map (·.2)).getD 0) = h at hfr hsp hls hfst
  refine ⟨((s.setCore c { s.core c with acks := rest }).setGroup b.gid h).dropStore c a.id a.ok, ?_, h, ?_, hfr, hsp, hls, ?_, ?_, ?_⟩
  · show execStoreAck c s = _
    simp only [execStoreAck, hq, List.find?_cons, hl, hb, hp, hid, List.erase_cons_head, if_true]
    simp only [State.modGroup, State.setCore, SMap.modify, hg', hj]
    rfl
  · rfl
  · intro l h32
    rw [hfst l]
    simp only [mem_lanes, h32, true_and]
    cases a.flags.find? fun x => x.1 == l
    · rfl
    · rfl
  · intro k hk
    simp only [State.dropStore]
    rw [State.core_modCore_other _ _ _ _ hk, State.core_setGroup, State.core_setCore_other _ _ _ _ hk]
  · simp only [State.dropStore]
    rw [State.core_modCore_same, State.core_setGroup, State.core_setCore_same]

/-! ### Peer stores (R208) -/

/-- One lane of a peer store. -/
def State.writePeer (n : Nat) (t : State) (x : Nat × Nat × Nat × Nat) : State :=
  t.modBlock (x.2.2.1 / 2 ^ 20) fun k => k.writeN (x.2.2.1 % 2 ^ 20) n x.2.2.2

theorem State.writePeers_pads (n : Nat) (xs : List (Nat × Nat × Nat × Nat)) : ∀ s : State, s.PadsChange (xs.foldl (State.writePeer n) s)
    fun k o => ∃ x ∈ xs, x.2.2.1 / 2 ^ 20 = k ∧ x.2.2.1 % 2 ^ 20 ≤ o ∧ o < x.2.2.1 % 2 ^ 20 + n := by
  induction xs with
  | nil => intro s; exact .refl s _
  | cons x xs ih =>
    intro s
    refine ((s.padsChange_writeN (x.2.2.1 / 2 ^ 20) (x.2.2.1 % 2 ^ 20) n x.2.2.2).trans (ih (State.writePeer n s x))).mono ?_
    rintro k o (⟨hk, ho⟩ | ⟨y, hy, h⟩)
    · exact ⟨x, List.mem_cons_self, hk.symm, ho⟩
    · exact ⟨y, List.mem_cons_of_mem x hy, h⟩

/-- What the last lane writes stands. -/
theorem State.writePeers_last (n : Nat) (xs : List (Nat × Nat × Nat × Nat)) (x : Nat × Nat × Nat × Nat) (s : State) (h : xs.getLast? = some x)
    (k : Block) (hk : (xs.foldl (State.writePeer n) s).block? (x.2.2.1 / 2 ^ 20) = some k) :
    k.readN (x.2.2.1 % 2 ^ 20) n = x.2.2.2 % 2 ^ (8 * n) := by
  obtain ⟨ys, rfl⟩ := List.getLast?_eq_some_iff.1 h
  rw [List.foldl_append] at hk
  change ((_ : State).modBlock _ _).block? _ = _ at hk
  rw [State.block?_modBlock_same] at hk
  obtain ⟨b, _, rfl⟩ := Option.map_eq_some_iff.1 hk
  rw [Block.readN_writeN, Nat.pow_mul]

theorem peerStore_spec (s : State) (c : Nat) (b : BufStore) (ha : ∀ a ∈ (s.core c).acks, s.landed a.ticket = false)
    (hb : (s.core c).stores.find? (fun x => x.sp == 2) = some b) :
    s.Happens (.storeAck c) fun t => t.groups = s.groups ∧ t.mem = s.mem ∧
      (t.core c).stores = ((s.core c).stores.filter fun x => x.id != b.id) ∧
      s.PadsChange t (fun k o => ∃ x ∈ b.lanes, x.2.2.1 / 2 ^ 20 = k ∧ x.2.2.1 % 2 ^ 20 ≤ o ∧ o < x.2.2.1 % 2 ^ 20 + b.width) ∧
      ∀ x, b.lanes.getLast? = some x → ∀ k, t.block? (x.2.2.1 / 2 ^ 20) = some k →
        k.readN (x.2.2.1 % 2 ^ 20) b.width = x.2.2.2 % 2 ^ (8 * b.width) := by
  have hn : ((s.core c).acks.find? fun a => s.landed a.ticket) = none := List.find?_eq_none.2 fun a h => by simp [ha a h]
  have hkeep : ∀ P : State → Prop, P s → (∀ t bid f, P t → P (State.modBlock t bid f)) → P (b.lanes.foldl (State.writePeer b.width) s) :=
    fun P h0 h => foldl_keeps P _ b.lanes s h0 fun t x ht => h t _ _ ht
  have hc : (b.lanes.foldl (State.writePeer b.width) s).core c = s.core c := hkeep (fun t => t.core c = s.core c) rfl fun _ _ _ h => h
  refine ⟨s.performPeer c b, ?_, ?_, ?_, ?_, ?_, ?_⟩
  · show execStoreAck c s = _
    simp only [execStoreAck, hn, hb]
  · exact hkeep (fun t => t.groups = s.groups) rfl fun _ _ _ h => h
  · exact hkeep (fun t => t.mem = s.mem) rfl fun _ _ _ h => h
  · simp only [State.performPeer, State.core_modCore_same]
    exact congrArg (fun k : Core => k.stores.filter fun y => y.id != b.id) hc
  · exact State.writePeers_pads b.width b.lanes s
  · exact fun x hx k hk => State.writePeers_last b.width b.lanes x s hx k hk

theorem writeClassDecay_spec (s : State) (n : Nat) :
    let l := SMap.get Line.reset s.md.lines n
    l.wclass ≠ 0 → l.wclassAt + 4096 ≤ s.now → s.Happens (.writeClassDecay n) fun t => t = { s with md := { s.md with
      lines := SMap.set Line.reset s.md.lines n { l with wclass := l.wclass - 1, wclassAt := l.wclassAt + 4096 } } } := by
  intro l h0 ht
  refine ⟨_, ?_, rfl⟩
  have hc : (decide (l.wclass = 0) || decide (s.now < l.wclassAt + 4096)) = false := by simp [h0, ht]
  show execWriteClassDecay n s = _
  simp only [execWriteClassDecay]
  exact if_neg (by rw [hc]; exact Bool.false_ne_true)

/-- Settles O44: one lemma for each event; the parity unit's bytes by induction on the delta's changes. -/
theorem writeAcknowledgements : Obligations.WriteAcknowledgements := by
  unfold Obligations.WriteAcknowledgements
  intro s
  exact ⟨parityDelta_spec s, parityAck_store_spec s, parityAck_memop_spec s, storeAck_spec s, peerStore_spec s, writeClassDecay_spec s⟩

end Sys2Proof.Machine
end

section
/-! Stores at a home (R42, R45, R62, R76): where the lanes of one unit stand, what a sector's key leaves of its bytes, and what memory holds
once a store's bytes are written. -/

namespace Sys2Proof.Machine

/-! ### Places of one unit (R41, R42) -/

theorem leafFrame_mod (e : BitVec 64) : leafFrame e % 4096 = 0 := Nat.mul_mod_left ..

theorem sizeLog_eq (c : Nat) : ∃ k, sizeLog c = 12 + k := by
  unfold sizeLog
  split
  · exact ⟨0, rfl⟩
  · exact ⟨2, rfl⟩
  · exact ⟨4, rfl⟩
  · exact ⟨6, rfl⟩
  · exact ⟨9, rfl⟩
  · exact ⟨12, rfl⟩
  · exact ⟨15, rfl⟩
  · exact ⟨18, rfl⟩

/-- An address in its page: the low bits stay, and a unit is one unit of the page. -/
theorem leafPA_eq (e : BitVec 64) (ia : Nat) : ∃ m q, 4096 ∣ m ∧ leafPA e ia = m + 256 * (ia / 256 % (16 * q)) + ia % 256 ∧
    ∀ ib, leafPA e ib = m + 256 * (ib / 256 % (16 * q)) + ib % 256 := by
  obtain ⟨k, hk⟩ := sizeLog_eq (leafSize e)
  have h (i : Nat) : leafPA e i = leafFrame e + 256 * (i / 256 % (16 * 2 ^ k)) + i % 256 := by
    have hp : 2 ^ sizeLog (leafSize e) = 256 * (16 * 2 ^ k) := by rw [hk, Nat.pow_add]; omega
    rw [leafPA, hp, Nat.mod_mul]
    omega
  exact ⟨leafFrame e, 2 ^ k, Nat.dvd_of_mod_eq_zero (leafFrame_mod e), h ia, h⟩

theorem leafPA_mod (e : BitVec 64) (ia : Nat) : leafPA e ia % 256 = ia % 256 := by
  obtain ⟨m, q, ⟨j, hm⟩, h, -⟩ := leafPA_eq e ia
  omega
theorem leafPA_div (e : BitVec 64) {ia ib : Nat} (hu : ia / 256 = ib / 256) : leafPA e ia / 256 = leafPA e ib / 256 := by
  obtain ⟨m, q, ⟨j, hm⟩, h, h'⟩ := leafPA_eq e ia
  have hb := h' ib
  rw [← hu] at hb
  omega

/-- A place keeps the offset in the unit. -/
theorem State.place_mod (s : State) (e : BitVec 64) (ia : Nat) : s.place e ia % 256 = ia % 256 := by
  unfold State.place
  split
  · exact leafPA_mod e ia
  · unfold State.unitSpot slotAt; omega

theorem State.servingDie_unit (s : State) {ia ib : Nat} (hu : ia / 256 = ib / 256) : s.servingDie ia = s.servingDie ib := by
  have hp : parityDie ia = parityDie ib := by unfold parityDie; rw [show ia / 4096 = ib / 4096 by omega]
  have hh : homeDie ia = homeDie ib := by unfold homeDie; rw [hp, hu]
  unfold State.servingDie
  rw [hp, hh]

/-- Addresses of one unit have their places in one unit. -/
theorem State.place_div (s : State) (e : BitVec 64) {ia ib : Nat} (hu : ia / 256 = ib / 256) : s.place e ia / 256 = s.place e ib / 256 := by
  unfold State.place
  split
  · exact leafPA_div e hu
  · have hq : leafPA e ia / 4096 = leafPA e ib / 4096 := by have := leafPA_div e hu; omega
    unfold State.unitSpot
    rw [hq, s.servingDie_unit hu]
    unfold slotAt
    omega

/-! ### Keys (R76) -/

/-- What a byte reads as depends on the memories, the keys of its sector and those of the functions alone. -/
theorem State.byteAt_congr {s t : State} (hf : t.far = s.far) (hm : t.mem = s.mem) (hk : t.md.keyed = s.md.keyed)
    (hh : t.host.funcs = s.host.funcs) (leaf : BitVec 64) (a : Nat) : t.byteAt leaf a = s.byteAt leaf a := by
  unfold State.byteAt State.leafKeyNo
  rw [hf, hm, hk, hh]

theorem read_writeAll_other (l : List (Nat × BitVec 8)) (a : Nat) (h : ∀ x ∈ l, x.1 ≠ a) :
    ∀ m : Memory, Memory.read (Memory.writeAll m l) a = Memory.read m a := by
  induction l with
  | nil => intro m; rfl
  | cons x l ih =>
    intro m
    refine (ih (fun y hy => h y (List.mem_cons_of_mem x hy)) _).trans ?_
    exact Memory.read_write_other _ _ _ _ (h x List.mem_cons_self).symm

/-- A byte that is written reads back, when all writes to its address agree. -/
theorem read_writeAll_mem (l : List (Nat × BitVec 8)) (a : Nat) (v : BitVec 8) (hv : ∀ x ∈ l, x.1 = a → x.2 = v) (h : (a, v) ∈ l) :
    ∀ m : Memory, Memory.read (Memory.writeAll m l) a = v := by
  induction l with
  | nil => cases h
  | cons x l ih =>
    intro m
    have hl : ∀ y ∈ l, y.1 = a → y.2 = v := fun y hy => hv y (List.mem_cons_of_mem x hy)
    by_cases hin : (a, v) ∈ l
    · exact ih hl hin _
    · have hx : x = (a, v) := ((List.mem_cons.1 h).resolve_right hin).symm
      subst hx
      refine (read_writeAll_other l a (fun y hy e => hin ?_) _).trans (Memory.read_write_same ..)
      rw [← hl y hy e, ← e]
      exact hy

theorem writeAll_eq_foldl (l : List (Nat × BitVec 8)) : ∀ m : Memory,
    Memory.writeAll m l = l.foldl (fun m x => Memory.write m x.1 x.2) m := by
  induction l with
  | nil => intro m; rfl
  | cons x l ih => intro m; exact ih _

theorem State.rekey_keyed (s : State) (leaf : BitVec 64) (sec x : Nat) :
    SMap.get 0 (s.rekey leaf sec).md.keyed x = if x = sec then s.leafKeyNo leaf + 1 else SMap.get 0 s.md.keyed x := by
  simp only [State.rekey]
  split
  · next h =>
    split
    · next hx => rw [hx, h]
    · rfl
  · exact SMap.get_set ..

theorem State.rekey_funcs (s : State) (leaf : BitVec 64) (sec : Nat) : (s.rekey leaf sec).host.funcs = s.host.funcs := by
  have h := s.rekey_frame leaf sec
  rw [h.host]

theorem State.rekey_far (s : State) (leaf : BitVec 64) (sec : Nat) : (s.rekey leaf sec).far = s.far := by
  simp only [State.rekey]
  split
  · rfl
  · rfl

/-- Another sector's bytes stay. -/
theorem State.rekey_read_other (s : State) (leaf : BitVec 64) (sec a : Nat) (h : a / 32 ≠ sec) :
    Memory.read (s.rekey leaf sec).mem a = Memory.read s.mem a := by
  simp only [State.rekey]
  split
  · rfl
  · show Memory.read (ite _ _ _) a = _
    split
    · rfl
    · refine read_writeAll_other _ a (fun x hx e => h ?_) s.mem
      obtain ⟨i, hi, rfl⟩ := List.mem_map.1 hx
      have := List.mem_range.1 hi
      simp only at e
      omega

/-- A sector that comes under the key of a leaf reads through that leaf as before. -/
theorem State.rekey_byteAt (s : State) (leaf : BitVec 64) (sec a : Nat) (hf : leafF leaf = false) :
    (s.rekey leaf sec).byteAt leaf a = s.byteAt leaf a := by
  have hread : a / 32 = sec → Memory.read (s.rekey leaf sec).mem a = s.byteAt leaf a := by
    intro h
    have hby : SMap.get 0 s.md.keyed sec = 0 ∨ SMap.get 0 s.md.keyed sec = s.leafKeyNo leaf + 1 →
        s.byteAt leaf a = Memory.read s.mem a := fun hk => by simp [State.byteAt, hf, h, hk]
    simp only [State.rekey]
    split
    · next hk => exact (hby (.inr hk)).symm
    · show Memory.read (ite _ _ _) a = _
      split
      · next hk => exact (hby (.inl hk)).symm
      · refine read_writeAll_mem _ a _ (fun x hx e => ?_) (List.mem_map.2 ⟨a % 32, List.mem_range.2 (by omega), ?_⟩) s.mem
        · obtain ⟨i, _, rfl⟩ := List.mem_map.1 hx
          exact congrArg (s.byteAt leaf) e
        · rw [← h, Nat.div_add_mod]
  have hkey : (s.rekey leaf sec).leafKeyNo leaf = s.leafKeyNo leaf := by unfold State.leafKeyNo; rw [State.rekey_funcs]
  by_cases h : a / 32 = sec
  · rw [← hread h]
    simp [State.byteAt, hf, State.rekey_keyed, h, hkey]
  · unfold State.byteAt
    rw [hkey, State.rekey_read_other s leaf sec a h, State.rekey_keyed, if_neg h]
    simp only [hf, Bool.false_eq_true, if_false]

/-- What bringing sectors under a leaf's key keeps, and what it does. -/
structure State.Rekeyed (s : State) (leaf : BitVec 64) (secs : List Nat) (t : State) : Prop where
  bytes : ∀ a, t.byteAt leaf a = s.byteAt leaf a
  keyed : ∀ x, SMap.get 0 t.md.keyed x = if x ∈ secs then s.leafKeyNo leaf + 1 else SMap.get 0 s.md.keyed x
  other : ∀ a, a / 32 ∉ secs → Memory.read t.mem a = Memory.read s.mem a
  far : t.far = s.far
  funcs : t.host.funcs = s.host.funcs

theorem State.rekey_foldl (leaf : BitVec 64) (hf : leafF leaf = false) (secs : List Nat) : ∀ s : State,
    s.Rekeyed leaf secs (secs.foldl (fun (t : State) sec => t.rekey leaf sec) s) := by
  induction secs with
  | nil => intro s; exact ⟨fun _ => rfl, fun _ => rfl, fun _ _ => rfl, rfl, rfl⟩
  | cons sec secs ih =>
    intro s
    have hkey : (s.rekey leaf sec).leafKeyNo leaf = s.leafKeyNo leaf := by unfold State.leafKeyNo; rw [State.rekey_funcs]
    obtain ⟨hb, hk, ho, hfar, hfn⟩ := ih (s.rekey leaf sec)
    refine ⟨fun a => (hb a).trans (s.rekey_byteAt leaf sec a hf), fun x => ?_, fun a ha => ?_, hfar.trans (s.rekey_far leaf sec),
      hfn.trans (s.rekey_funcs leaf sec)⟩
    · refine (hk x).trans ?_
      rw [hkey, State.rekey_keyed]
      by_cases h : x = sec
      · simp [h]
      · simp [h]
    · rw [List.mem_cons, not_or] at ha
      exact (ho a ha.2).trans (s.rekey_read_other leaf sec a ha.1)

/-! ### A write at a home -/

/-- What memory holds after a write of bytes `w` that all stand and agree at every place. -/
structure State.Written (s : State) (leaf : BitVec 64) (w : List (Nat × BitVec 8)) (t : State) : Prop where
  same : ∀ a, (∀ x ∈ w, x.1 ≠ a) → t.byteAt leaf a = s.byteAt leaf a
  wrote : ∀ x ∈ w, t.byteAt leaf x.1 = x.2
  phys : ∀ a, (∀ x ∈ w, x.1 / 32 ≠ a / 32) → t.readPhys (leafF leaf) a = s.readPhys (leafF leaf) a
  other : ∀ a, t.readPhys (!leafF leaf) a = s.readPhys (!leafF leaf) a

theorem State.performWrite_far {s : State} {leaf : BitVec 64} {ia0 pa0 : Nat} {w : List (Nat × BitVec 8)} (hf : leafF leaf = true)
    (hs : s.standing (leafF leaf) ia0 pa0 w = w) :
    (s.performWrite leaf ia0 pa0 w).far = Memory.writeAll s.far w ∧ (s.performWrite leaf ia0 pa0 w).mem = s.mem := by
  rw [hf] at hs
  rw [writeAll_eq_foldl]
  simp only [State.performWrite, hf, hs, if_true]
  exact ⟨rfl, rfl⟩

theorem State.performWrite_near {s : State} {leaf : BitVec 64} {ia0 pa0 : Nat} {w : List (Nat × BitVec 8)} (hf : leafF leaf = false)
    (hs : s.standing (leafF leaf) ia0 pa0 w = w) :
    let k := ((w.map fun x => x.1 / 32).eraseDups).foldl (fun (t : State) sec => t.rekey leaf sec) s
    (s.performWrite leaf ia0 pa0 w).mem = Memory.writeAll k.mem w ∧ (s.performWrite leaf ia0 pa0 w).far = k.far ∧
      (s.performWrite leaf ia0 pa0 w).md.keyed = k.md.keyed ∧ (s.performWrite leaf ia0 pa0 w).host = k.host := by
  rw [hf] at hs
  simp only [State.performWrite, hf, hs, Bool.false_eq_true, if_false]
  exact ⟨rfl, rfl, rfl, rfl⟩

theorem State.performWrite_written (s : State) (leaf : BitVec 64) (ia0 pa0 : Nat) (w : List (Nat × BitVec 8))
    (hs : s.standing (leafF leaf) ia0 pa0 w = w) (hw : ∀ x ∈ w, ∀ y ∈ w, y.1 = x.1 → y.2 = x.2) :
    s.Written leaf w (s.performWrite leaf ia0 pa0 w) := by
  have apart {a : Nat} (h : ∀ x ∈ w, x.1 / 32 ≠ a / 32) : ∀ x ∈ w, x.1 ≠ a := fun x hx e => h x hx (by rw [e])
  by_cases hf : leafF leaf = true
  · obtain ⟨hfar, hmem⟩ := State.performWrite_far hf hs
    generalize s.performWrite leaf ia0 pa0 w = t at hfar hmem ⊢
    have hb (u : State) (a : Nat) : u.byteAt leaf a = Memory.read u.far a := by simp only [State.byteAt, hf, if_true]; rfl
    have hp (u : State) (a : Nat) : u.readPhys (leafF leaf) a = Memory.read u.far a := by simp only [State.readPhys, hf, if_true]; rfl
    refine ⟨fun a h => ?_, fun x hx => ?_, fun a h => ?_, fun a => ?_⟩
    · rw [hb, hb, hfar, read_writeAll_other w a h]
    · rw [hb, hfar, read_writeAll_mem w x.1 x.2 (fun y hy => hw x hx y hy) hx]
    · rw [hp, hp, hfar, read_writeAll_other w a (apart h)]
    · simp only [State.readPhys, hf, Bool.not_true, Bool.false_eq_true, if_false, hmem]
  · replace hf : leafF leaf = false := by simpa using hf
    obtain ⟨hmem, hfar, hkey, hhost⟩ := State.performWrite_near hf hs
    obtain ⟨kb, kk, ko, kf, kn⟩ := State.rekey_foldl leaf hf ((w.map fun x => x.1 / 32).eraseDups) s
    generalize s.performWrite leaf ia0 pa0 w = t at hmem hfar hkey hhost ⊢
    generalize ((w.map fun x => x.1 / 32).eraseDups).foldl (fun (t : State) sec => t.rekey leaf sec) s = k at *
    have hkn (u : State) (h : u.host.funcs = s.host.funcs) : u.leafKeyNo leaf = s.leafKeyNo leaf := by unfold State.leafKeyNo; rw [h]
    have htk : t.leafKeyNo leaf = k.leafKeyNo leaf := (hkn t (by rw [hhost, kn])).trans (hkn k kn).symm
    have hp (u : State) (a : Nat) : u.readPhys (leafF leaf) a = Memory.read u.mem a := by
      simp only [State.readPhys, hf, Bool.false_eq_true, if_false]
    refine ⟨fun a h => ?_, fun x hx => ?_, fun a h => ?_, fun a => ?_⟩
    · rw [← kb a]
      unfold State.byteAt
      rw [htk, hkey, hmem, hfar, read_writeAll_other w a h]
    · have hsec : x.1 / 32 ∈ (w.map fun x => x.1 / 32).eraseDups := List.mem_eraseDups.2 (List.mem_map.2 ⟨x, hx, rfl⟩)
      have hold : SMap.get 0 t.md.keyed (x.1 / 32) = t.leafKeyNo leaf + 1 := by
        rw [hkey, kk, if_pos hsec, htk, hkn k kn]
      simp only [State.byteAt, hf, hold, Bool.false_eq_true, if_false, or_true, if_true]
      rw [hmem, read_writeAll_mem w x.1 x.2 (fun y hy => hw x hx y hy) hx]
    · rw [hp, hp, hmem, read_writeAll_other w a (apart h)]
      refine ko a fun hm => ?_
      obtain ⟨x, hx, e⟩ := List.mem_map.1 (List.mem_eraseDups.1 hm)
      exact h x hx e
    · simp only [State.readPhys, hf, Bool.not_false, if_true, hfar, kf]

/-! ### A store's bytes (R387) -/

/-- A lane writes: no higher one names its address. -/
def Req.writes (r : Req) (a : LaneAcc) : Prop := a ∈ r.lanes ∧ ∀ b ∈ r.lanes, b.ia = a.ia → b.lane ≤ a.lane

theorem State.mem_storeBytes (s : State) (r : Req) (leaf : BitVec 64) (x : Nat × BitVec 8) : x ∈ s.storeBytes r leaf ↔
    ∃ a, r.writes a ∧ ∃ k < r.width, x = (s.place leaf a.ia + k, BitVec.ofNat 8 (a.data / 2 ^ (8 * k))) := by
  simp only [State.storeBytes, List.mem_flatten, List.mem_map, List.mem_filter, Req.writes]
  constructor
  · rintro ⟨_, ⟨a, ⟨ha, hh⟩, rfl⟩, hx⟩
    obtain ⟨k, hk, rfl⟩ := List.mem_map.1 hx
    refine ⟨a, ⟨ha, fun b hb e => ?_⟩, k, List.mem_range.1 hk, rfl⟩
    by_contra hl
    simp only [Bool.not_eq_true', List.any_eq_false] at hh
    exact hh b hb (by simp [e, Nat.lt_of_not_le hl])
  · rintro ⟨a, ⟨ha, hh⟩, k, hk, rfl⟩
    refine ⟨_, ⟨a, ⟨ha, ?_⟩, rfl⟩, List.mem_map.2 ⟨k, List.mem_range.2 hk, rfl⟩⟩
    simp only [Bool.not_eq_true', List.any_eq_false]
    intro b hb h
    simp only [Bool.and_eq_true, beq_iff_eq, decide_eq_true_eq] at h
    exact absurd (hh b hb h.1) (by omega)

section
variable {s : State} {r : Req} {leaf : BitVec 64} (hu : r.oneUnit)
include hu

/-- Lanes of one unit: their places lie as their addresses do. -/
theorem Req.oneUnit.place_sub {a b : LaneAcc} (ha : a ∈ r.lanes) (hb : b ∈ r.lanes) :
    s.place leaf a.ia + b.ia = s.place leaf b.ia + a.ia := by
  obtain ⟨_, _, _, _, hun⟩ := hu
  have h1 := s.place_mod leaf a.ia
  have h2 := s.place_mod leaf b.ia
  have h3 := s.place_div leaf (hun a ha b hb)
  have h4 := hun a ha b hb
  omega

/-- A lane's bytes stay in their sector. -/
theorem Req.oneUnit.sector {a : LaneAcc} (ha : a ∈ r.lanes) {k : Nat} (hk : k < r.width) :
    (s.place leaf a.ia + k) / 32 = s.place leaf a.ia / 32 := by
  obtain ⟨_, _, hw, hal, _⟩ := hu
  have h1 := s.place_mod leaf a.ia
  obtain ⟨_, h2⟩ := hal a ha
  rcases hw with h | h | h | h | h
  · rw [h] at h2 hk; omega
  · rw [h] at h2 hk; omega
  · rw [h] at h2 hk; omega
  · rw [h] at h2 hk; omega
  · rw [h] at h2 hk; omega

/-- Two lanes that write one byte are one lane. -/
theorem Req.oneUnit.writes_inj {a b : LaneAcc} (ha : r.writes a) (hb : r.writes b) {j k : Nat} (hj : j < r.width) (hk : k < r.width)
    (e : s.place leaf a.ia + j = s.place leaf b.ia + k) : a = b ∧ j = k := by
  have hp := hu.place_sub (s := s) (leaf := leaf) ha.1 hb.1
  obtain ⟨hn, _, hw, hal, _⟩ := hu
  obtain ⟨_, h1⟩ := hal a ha.1
  obtain ⟨_, h2⟩ := hal b hb.1
  have hjk : a.ia = b.ia ∧ j = k := by
    have e' : a.ia + j = b.ia + k := by omega
    rcases hw with h | h | h | h | h
    · rw [h] at h1 h2 hj hk; omega
    · rw [h] at h1 h2 hj hk; omega
    · rw [h] at h1 h2 hj hk; omega
    · rw [h] at h1 h2 hj hk; omega
    · rw [h] at h1 h2 hj hk; omega
  refine ⟨?_, hjk.2⟩
  have hl : a.lane = b.lane := Nat.le_antisymm (hb.2 a ha.1 hjk.1) (ha.2 b hb.1 hjk.1.symm)
  exact List.inj_on_of_nodup_map hn ha.1 hb.1 hl

theorem Req.oneUnit.storeBytes_agree (x : Nat × BitVec 8) (hx : x ∈ s.storeBytes r leaf) (y : Nat × BitVec 8) (hy : y ∈ s.storeBytes r leaf)
    (e : y.1 = x.1) : y.2 = x.2 := by
  obtain ⟨a, ha, j, hj, rfl⟩ := (s.mem_storeBytes r leaf x).1 hx
  obtain ⟨b, hb, k, hk, rfl⟩ := (s.mem_storeBytes r leaf y).1 hy
  obtain ⟨rfl, rfl⟩ := hu.writes_inj hb ha hk hj e
  rfl

/-- Where no lane is poisoned, all of a store's bytes stand. -/
theorem Req.oneUnit.standing_storeBytes (hp : s.poisonLanes leaf r = 0) {a0 : LaneAcc} (h0 : a0 ∈ r.lanes) :
    s.standing (leafF leaf) a0.ia (s.place leaf a0.ia) (s.storeBytes r leaf) = s.storeBytes r leaf := by
  refine List.filter_eq_self.2 fun x hx => ?_
  obtain ⟨a, ha, k, hk, rfl⟩ := (s.mem_storeBytes r leaf x).1 hx
  have hpl := hu.place_sub (s := s) (leaf := leaf) ha.1 h0
  obtain ⟨_, _, _, hal, _⟩ := hu
  have hn : s.poisonedAt (leafF leaf) (a.ia + k) (s.place leaf a.ia + k) = false := by
    have hz : lane (s.poisonLanes leaf r) a.lane = false := by rw [hp]; simp [lane]
    rw [State.poisonLanes, lane_maskOf _ a.lane (hal a ha.1).1, List.any_eq_false] at hz
    have ha' := hz a ha.1
    simp only [beq_self_eq_true, Bool.true_and, List.any_eq_true, not_exists, not_and, Bool.not_eq_true] at ha'
    exact ha' k (List.mem_range.2 hk)
  simp only [show a0.ia + (s.place leaf a.ia + k) - s.place leaf a0.ia = a.ia + k by omega, hn, Bool.not_false, Bool.true_or]

end

/-! ### A store is performed -/

/-- At most the memories with their keys and poison, lines and watches, and the deltas on their way differ, and the fabric. -/
def State.Performed (s t : State) : Prop :=
  t = { s with
    mem := t.mem, far := t.far, fab := t.fab
    md := { s.md with
      poison := t.md.poison, cleared := t.md.cleared, keyed := t.md.keyed, lines := t.md.lines, watches := t.md.watches
      fired := t.md.fired, deltas := t.md.deltas, parityAcks := t.md.parityAcks, stripeP := t.md.stripeP } }

theorem State.Performed.trans {s t u : State} (h : s.Performed t) (k : t.Performed u) : s.Performed u := by
  unfold State.Performed at *; rw [k, h]

theorem State.rekey_performed (s : State) (leaf : BitVec 64) (sec : Nat) : s.Performed (s.rekey leaf sec) := by
  unfold State.Performed
  simp only [State.rekey]
  split
  · rfl
  · rfl

theorem State.performWrite_performed (s : State) (leaf : BitVec 64) (ia pa : Nat) (w : List (Nat × BitVec 8)) :
    s.Performed (s.performWrite leaf ia pa w) := by
  simp only [State.performWrite]
  split
  · rfl
  · have k := foldl_keeps (State.Performed s) (fun (t : State) sec => t.rekey leaf sec)
      ((((s.standing (leafF leaf) ia pa w).map fun x => x.1 / 32).eraseDups)) s rfl fun t sec ht => ht.trans (t.rekey_performed leaf sec)
    refine k.trans ?_
    rfl

theorem State.sendDelta_performed (s : State) (d : Delta) : s.Performed (s.sendDelta d) := by
  have h := State.message_fab s (portOfMemory d.home) (portOfMemory d.pdie) 2
  unfold State.SameButFab at h
  simp only [State.sendDelta]
  split
  · rfl
  · unfold State.Performed
    simp only [State.modMd]
    rw [h]

/-- A write's delta is sent after its bytes are in place. -/
theorem State.performStore_eq {r : Req} (hk : r.kind ≠ .spoil) {s : State} {leaf : BitVec 64} {w : List (Nat × BitVec 8)}
    (hw : (s.writeOf r leaf (s.poisonLanes leaf r)).2.1 = w) (home : Nat) :
    ∃ d : Delta, s.performStore home r leaf = State.sendDelta (if w.isEmpty then s else
      s.performWrite leaf ((r.lanes.head?.map (·.ia)).getD 0) (s.place leaf ((r.lanes.head?.map (·.ia)).getD 0)) w) d := by
  subst hw
  simp only [State.performStore, if_neg hk]
  exact ⟨_, rfl⟩

theorem Req.ne_spoil_of_store {r : Req} (hk : r.kind = .store) : r.kind ≠ .spoil := by rw [hk]; exact ReqKind.noConfusion

theorem State.writeOf_store {r : Req} (hk : r.kind = .store) (s : State) (leaf : BitVec 64) (po : BitVec 32) :
    (s.writeOf r leaf po).2.1 = s.storeBytes r leaf := by
  rw [State.writeOf, hk]; rfl

theorem State.performStore_performed {r : Req} (hk : r.kind ≠ .spoil) (s : State) (home : Nat) (leaf : BitVec 64) :
    s.Performed (s.performStore home r leaf) := by
  obtain ⟨d, e⟩ := State.performStore_eq hk (s := s) (leaf := leaf) rfl home
  rw [e]
  refine State.Performed.trans ?_ (State.sendDelta_performed _ d)
  split
  · rfl
  · exact State.performWrite_performed ..

/-- What a store leaves does not depend on the rest of the machine. -/
theorem State.Stores.congr {s t u : State} {r : Req} {leaf : BitVec 64} (h : s.Stores t r leaf) (hf : u.far = t.far) (hm : u.mem = t.mem)
    (hk : u.md.keyed = t.md.keyed) (hh : u.host.funcs = t.host.funcs) : s.Stores u r leaf := by
  have hb := State.byteAt_congr hf hm hk hh leaf
  have hp (far : Bool) (a : Nat) : u.readPhys far a = t.readPhys far a := by unfold State.readPhys; rw [hf, hm]
  obtain ⟨h1, h2, h3, h4⟩ := h
  refine ⟨fun x hx => (hb x).trans (h1 x hx), fun a ha hl k hk => (hb _).trans (h2 a ha hl k hk), fun x hx => (hp _ x).trans (h3 x hx),
    fun x => (hp _ x).trans (h4 x)⟩

theorem State.sendDelta_keeps (s : State) (d : Delta) : (s.sendDelta d).far = s.far ∧ (s.sendDelta d).mem = s.mem ∧
    (s.sendDelta d).md.keyed = s.md.keyed ∧ (s.sendDelta d).host = s.host := by
  have h := State.message_fab s (portOfMemory d.home) (portOfMemory d.pdie) 2
  unfold State.SameButFab at h
  simp only [State.sendDelta]
  split
  · exact ⟨rfl, rfl, rfl, rfl⟩
  · simp only [State.modMd]
    rw [h]
    exact ⟨rfl, rfl, rfl, rfl⟩

/-- Bytes written as a store names them are what the store asks of memory. -/
theorem State.Written.stores {s t : State} {r : Req} {leaf : BitVec 64} (hu : r.oneUnit) (h : s.Written leaf (s.storeBytes r leaf) t) :
    s.Stores t r leaf := by
  obtain ⟨hsame, hwrote, hphys, hother⟩ := h
  refine ⟨fun x hx => hsame x fun y hy e => ?_, fun a ha hl k hk => ?_, fun x hx => hphys x fun y hy e => ?_, hother⟩
  · obtain ⟨a, ha, k, hk, rfl⟩ := (s.mem_storeBytes r leaf y).1 hy
    have hxa := hx a ha.1
    dsimp only at hxa e
    omega
  · exact hwrote (_, _) ((s.mem_storeBytes r leaf _).2 ⟨a, ⟨ha, hl⟩, k, hk, rfl⟩)
  · obtain ⟨a, ha, k, hk, rfl⟩ := (s.mem_storeBytes r leaf y).1 hy
    exact hx a ha.1 (e.symm.trans (hu.sector ha.1 hk))

theorem State.performStore_stores {r : Req} (hk : r.kind = .store) (hu : r.oneUnit) (s : State) (home : Nat) (leaf : BitVec 64)
    (hp : s.poisonLanes leaf r = 0) : s.Stores (s.performStore home r leaf) r leaf := by
  obtain ⟨d, e⟩ := State.performStore_eq (Req.ne_spoil_of_store hk) (s.writeOf_store hk leaf _) home
  obtain ⟨a0, rest, h0⟩ := List.exists_cons_of_ne_nil hu.2.1
  have ha0 : (r.lanes.head?.map (·.ia)).getD 0 = a0.ia := by rw [h0]; rfl
  have hs := hu.standing_storeBytes (s := s) (leaf := leaf) hp (a0 := a0) (by rw [h0]; exact List.mem_cons_self)
  rw [e, ha0]
  obtain ⟨kf, km, kk, kh⟩ := State.sendDelta_keeps (if (s.storeBytes r leaf).isEmpty then s else
    s.performWrite leaf a0.ia (s.place leaf a0.ia) (s.storeBytes r leaf)) d
  refine State.Stores.congr (State.Written.stores hu ?_) kf km kk (by rw [kh])
  split
  · next hw =>
    rw [List.isEmpty_iff.1 hw]
    exact ⟨fun _ _ => rfl, fun _ h => absurd h List.not_mem_nil, fun _ _ => rfl, fun _ => rfl⟩
  · exact s.performWrite_written leaf a0.ia (s.place leaf a0.ia) _ hs hu.storeBytes_agree

/-! ### A request is looked at (R44) -/

/-- The head of the requests that may be looked at is the one that the home takes next. -/
theorem State.nextReq_head {s : State} {home src : Nat} {r : Req} {rest : List Req} {want : Req → Bool} (hs : r.src = src)
    (hh : s.homeOf r = home) (hw : r.waiting = none) (ht : r.retryAt = none) (ha : s.arrived r = true)
    (hc : s.cellBefore home r.tag (s.reqGroup r) = false) (hb : s.hostHeld home r = false) (hk : want r = true) :
    s.nextReq home src want (r :: rest) [] = some r := by
  simp only [State.nextReq, hs, hh, hw, ht, ha, hc, hb, hk]
  cases s.orderOf r with
  | none => simp
  | some x => simp

/-- Beside what translating and serving a request does, looking at it changes the retry delay, the die's heat and the fabric alone. -/
def State.LookedAt (s t : State) : Prop :=
  t = { s with fab := t.fab, md := { s.md with delay := t.md.delay, lfsr := t.md.lfsr, heatQ := t.md.heatQ } }

theorem State.LookedAt.trans {s t u : State} (h : s.LookedAt t) (k : t.LookedAt u) : s.LookedAt u := by
  unfold State.LookedAt at *; rw [k, h]
theorem State.SameButFab.lookedAt {s t : State} (h : s.SameButFab t) : s.LookedAt t := by
  unfold State.SameButFab at h; rw [h]; rfl
theorem State.calmDelay_lookedAt (s : State) (home src : Nat) : s.LookedAt (s.calmDelay home src) := rfl

theorem State.heatStep_lookedAt (s : State) (die ctx ia : Nat) : s.LookedAt (s.heatStep die ctx ia) := by
  have h := State.message_fab (s.modMd fun m => { m with lfsr := m.lfsr.set die (lfsrNext (s.md.lfsr.getD die 0)) })
    (portOfMemory die) controlPort 2
  unfold State.SameButFab at h
  simp only [State.heatStep]
  split
  · rfl
  · split
    · rw [h]; rfl
    · rfl

theorem State.lookAt_admitted {s : State} {home : Nat} {r : Req} (hf : (s.func r.fn).flr = 0) (ha : s.admits home r.src r.fn = true)
    (serve : BitVec 64 → State) : (s.translateReq home r serve).LookedAt (s.lookAt home r serve) := by
  simp only [State.lookAt, hf, ha, Bool.not_true, Bool.false_eq_true, if_false]
  refine State.LookedAt.trans ?_ (State.consume_fab _ _ _ _).lookedAt
  generalize s.translateReq home r serve = t
  rw [if_neg (by simp)]
  split
  · rfl
  · split
    · exact (t.calmDelay_lookedAt home r.src).trans (State.heatStep_lookedAt ..)
    · exact t.calmDelay_lookedAt home r.src

/-- A first miss of a page: the merge entry, the miss record and the pending answer; the request waits for the page. -/
theorem State.pend_gathers {s : State} {home ia : Nat} {r : Req} {w : Waiter} (hsp : r.spec = false) (hw : s.waiterOf r = some w)
    (hm : SMap.find? s.xl.merge (pageKey home ia) = none) (hn : s.mergeCount home < 256) :
    ∃ n f, s.pend home home r ia 0 = { s with
      fab := f
      md := { s.md with reqs := s.md.reqs.map fun x => if x.tag = r.tag then { x with waiting := some (ia / 4096) } else x }
      xl := { s.xl with
        merge := SMap.put s.xl.merge (pageKey home ia)
          { waiters := [w], types := r.kind.access, overflow := false, ctx := r.ctx, reason := 0 }
        missQ := s.xl.missQ ++ [{ die := home, page := ia / 4096, types := r.kind.access, waiters := 1, ctx := r.ctx, reason := 0,
                                  time := s.now, ticket := n }]
        pendings := s.xl.pendings ++ [(home, ia / 4096, w)] } } := by
  obtain ⟨u, hu⟩ : ∃ u, s.gather home ia r.kind.access w r.ctx 0 = some u ∧ u = { s with
      fab := u.fab
      xl := { s.xl with
        merge := SMap.put s.xl.merge (pageKey home ia)
          { waiters := [w], types := r.kind.access, overflow := false, ctx := r.ctx, reason := 0 }
        missQ := s.xl.missQ ++ [{ die := home, page := ia / 4096, types := r.kind.access, waiters := 1, ctx := r.ctx, reason := 0,
                                  time := s.now, ticket := (s.message (portOfHome home) controlPort 2).2 }]
        pendings := s.xl.pendings ++ [(home, ia / 4096, w)] } } := by
    have h := State.message_fab s (portOfHome home) controlPort 2
    unfold State.SameButFab at h
    simp only [State.gather, hm, if_neg (Nat.not_le.2 hn)]
    refine ⟨_, rfl, ?_⟩
    simp only [State.modXl]
    rw [h]
  obtain ⟨hg, hu⟩ := hu
  have h := State.message_fab u (portOfHome home) (portOfSource r.src) 1
  unfold State.SameButFab at h
  refine ⟨(s.message (portOfHome home) controlPort 2).2, (u.message (portOfHome home) (portOfSource r.src) 1).1.fab, ?_⟩
  simp only [State.pend, hsp, hw, hg, State.replyTo, State.modReq, State.modMd, Bool.false_eq_true, if_false]
  rw [h, hu]

section
variable {s : State} {home src : Nat} {r : Req} {rest : List Req} (hq : s.md.reqs = r :: rest) (hs : r.src = src) (hh : s.homeOf r = home)
  (hl : r.kind ≠ .renew ∧ r.waiting = none ∧ r.retryAt = none ∧ s.arrived r = true ∧
    s.cellBefore home r.tag (s.reqGroup r) = false ∧ s.hostHeld home r = false)
include hq hs hh hl

theorem execHomeRequestAccept_head : exec (.homeRequestAccept home src) s = .next (s.acceptReq home r) := by
  obtain ⟨hk, hw, ht, ha, hc, hb⟩ := hl
  show execHomeRequestAccept home src s = _
  have hn : s.nextReq home src (fun r => r.kind != .renew) s.md.reqs [] = some r := by
    rw [hq]; exact State.nextReq_head hs hh hw ht ha hc hb (by simpa using hk)
  simp only [execHomeRequestAccept, hn]

/-- Of a function in reset nothing is performed (R87). -/
theorem homeRequest_reset_spec (h18 : src < 18) (hf : (s.func r.fn).flr ≠ 0) :
    s.Happens (.homeRequestAccept home src) fun t => t = { s with fab := t.fab, md := { s.md with reqs := t.md.reqs } } ∧
      t.md.reqs = s.md.reqs.filter fun x => x.tag != r.tag := by
  refine ⟨_, execHomeRequestAccept_head hq hs hh hl, ?_⟩
  have hc := State.consume_fab (s.dropReq r.tag) (portOfSource r.src) (portOfMemory home) 0
  have ha : s.acceptReq home r = (s.dropReq r.tag).consume (portOfSource r.src) (portOfMemory home) 0 := by
    simp [State.acceptReq, State.lookAt, hf, hs, h18]
  unfold State.SameButFab at hc
  rw [ha, hc]
  exact ⟨rfl, rfl⟩

/-- What retrying changes: the request, its delay and the fabric. -/
theorem homeRequest_retry_spec (hf : (s.func r.fn).flr = 0) (hn : s.admits home src r.fn = false) :
    s.Happens (.homeRequestAccept home src) fun t =>
      let d := s.retryDelay home src
      t = { s with fab := t.fab, md := { s.md with reqs := t.md.reqs, delay := t.md.delay } } ∧
      (∃ n, t.md.reqs = s.md.reqs.map fun x => if x.tag = r.tag then { x with retryAt := some (s.now + d), reply := n } else x) ∧
      SMap.get 0 t.md.delay (17 * src + home) = min 512 (2 * d) := by
  refine ⟨_, execHomeRequestAccept_head hq hs hh hl, ?_⟩
  have ha : s.acceptReq home r = (s.retry home r).consume (portOfSource r.src) (portOfMemory home) 0 := by
    simp [State.acceptReq, State.lookAt, hf, hs, hn]
  have hc := State.consume_fab (s.retry home r) (portOfSource r.src) (portOfMemory home) 0
  have hm := State.message_fab s (portOfHome home) (portOfSource r.src) 1
  unfold State.SameButFab at hc hm
  rw [ha, hc]
  subst hs
  simp only [State.retry, State.replyTo, State.bumpDelay, State.modReq, State.modMd]
  rw [hm]
  exact ⟨rfl, ⟨_, rfl⟩, SMap.get_set_same ..⟩

/-- A page that no cache entry of the home maps is gathered (R109). -/
theorem homeRequest_gather_spec (hf : (s.func r.fn).flr = 0) (ha : s.admits home src r.fn = true) (hsp : r.spec = false) (w : Waiter)
    (hc : s.cached home ((r.lanes.head?.map (·.ia)).getD 0) = none) (hw : s.waiterOf r = some w)
    (hm : SMap.find? s.xl.merge (pageKey home ((r.lanes.head?.map (·.ia)).getD 0)) = none) (hn : s.mergeCount home < 256) :
    s.Happens (.homeRequestAccept home src) fun t =>
      let ia := (r.lanes.head?.map (·.ia)).getD 0
      t.groups = s.groups ∧ t.mem = s.mem ∧ t.blocks = s.blocks ∧ t.cores = s.cores ∧
      t.md.reqs = (s.md.reqs.map fun x => if x.tag = r.tag then { x with waiting := some (ia / 4096) } else x) ∧
      ∃ n, t.xl = { s.xl with
        merge := SMap.put s.xl.merge (pageKey home ia)
          { waiters := [w], types := r.kind.access, overflow := false, ctx := r.ctx, reason := 0 }
        missQ := s.xl.missQ ++ [{ die := home, page := ia / 4096, types := r.kind.access, waiters := 1, ctx := r.ctx, reason := 0,
                                  time := s.now, ticket := n }]
        pendings := s.xl.pendings ++ [(home, ia / 4096, w)] } := by
  refine ⟨_, execHomeRequestAccept_head hq hs hh hl, ?_⟩
  have hla := State.lookAt_admitted hf (by rw [hs]; exact ha) (s.serveReq home r)
  have ht : s.translateReq home r (s.serveReq home r) = s.pend home home r ((r.lanes.head?.map (·.ia)).getD 0) 0 := by
    simp only [State.translateReq, hc]
  obtain ⟨n, f, hp⟩ := s.pend_gathers (ia := (r.lanes.head?.map (·.ia)).getD 0) hsp hw hm hn
  rw [ht, hp] at hla
  rw [State.acceptReq]
  generalize s.lookAt home r (s.serveReq home r) = t at hla
  unfold State.LookedAt at hla
  rw [hla]
  exact ⟨rfl, rfl, rfl, rfl, rfl, n, rfl⟩

/-- A request whose page the home's cache maps, with rights, is served. -/
theorem homeRequest_served (hf : (s.func r.fn).flr = 0) (ha : s.admits home src r.fn = true) {leaf : BitVec 64}
    (hc : s.cached home ((r.lanes.head?.map (·.ia)).getD 0) = some leaf) (hp : leafPermits leaf r.kind.access = true)
    {P : State → Prop} (hP : ∀ t, (s.serveReq home r leaf).LookedAt t → P t) : s.Happens (.homeRequestAccept home src) P := by
  refine ⟨_, execHomeRequestAccept_head hq hs hh hl, hP _ ?_⟩
  have hla := State.lookAt_admitted hf (by rw [hs]; exact ha) (s.serveReq home r)
  have ht : s.translateReq home r (s.serveReq home r) = s.serveReq home r leaf := by
    simp only [State.translateReq, hc, hp, if_true]
  rw [ht] at hla
  exact hla

end

/-! ### A store is accepted (R45, R47) -/

theorem State.checkLanes_unchecked {r : Req} (h : ∀ a ∈ r.lanes, a.chk = false) (s : State) (leaf : BitVec 64) (m : BitVec 32) :
    s.checkLanes leaf r m = (s.md.shadow, 0) := by
  have hn : r.lanes.filter (·.chk) = [] := List.filter_eq_nil_iff.2 fun a ha => by simp [h a ha]
  rw [State.checkLanes, hn]
  rfl

theorem lanesLeft_zero (ls : List LaneAcc) : (ls.filter fun a => !lane 0 a.lane) = ls :=
  List.filter_eq_self.2 fun a _ => by simp [lane]

/-- A store that nothing races is performed at once, where its lines are free and its block has room. -/
theorem State.serveReq_store_now {r : Req} (hk : r.kind = .store) (hsp : r.spec = false) (h : ∀ a ∈ r.lanes, a.chk = false)
    (hn : r.lanes ≠ []) (s : State) (home : Nat) {leaf : BitVec 64} (hf : leafF leaf = false) (hw : s.writable r.ilines = true) {t : State}
    (ht : (s.dropReq r.tag).compressWrite home r leaf = some t) : s.serveReq home r leaf = t := by
  have hc : (if (leafC leaf && r.plain) = true then s.checkLanes leaf r (s.poisonLanes leaf r) else (s.md.shadow, 0)) =
      (s.md.shadow, 0) := by rw [State.checkLanes_unchecked h]; exact ite_self _
  have he : r.lanes.isEmpty = false := by simpa using hn
  have hm : (s.modMd fun m => { m with shadow := s.md.shadow }) = s := rfl
  cases r
  cases hk
  cases hsp
  simp only [State.serveReq, hf, hc, lanesLeft_zero, he, hm, hw, ht, Bool.false_and, Bool.false_eq_true, if_false, if_true]

/-- Where they are not, it is held. -/
theorem State.serveReq_store_held {r : Req} (hk : r.kind = .store) (hsp : r.spec = false) (h : ∀ a ∈ r.lanes, a.chk = false)
    (hn : r.lanes ≠ []) (s : State) (home : Nat) {leaf : BitVec 64} (hf : leafF leaf = false) (hw : s.writable r.ilines = false) :
    s.serveReq home r leaf = (s.dropReq r.tag).modMd fun m => { m with held := m.held ++
        [{ req := r, pa := s.place leaf ((r.lanes.head?.map (·.ia)).getD 0), leaf := leaf }] } := by
  have hc : (if (leafC leaf && r.plain) = true then s.checkLanes leaf r (s.poisonLanes leaf r) else (s.md.shadow, 0)) =
      (s.md.shadow, 0) := by rw [State.checkLanes_unchecked h]; exact ite_self _
  have he : r.lanes.isEmpty = false := by simpa using hn
  have hm : (s.modMd fun m => { m with shadow := s.md.shadow }) = s := rfl
  cases r
  cases hk
  cases hsp
  simp only [State.serveReq, hf, hc, lanesLeft_zero, he, hm, hw, Bool.false_and, Bool.false_eq_true, if_false, if_true]

theorem State.compressWrite_plain {leaf : BitVec 64} (hz : leafZ leaf = false) (s : State) (home : Nat) (r : Req) :
    s.compressWrite home r leaf = some (s.performStore home r leaf) := by
  simp [State.compressWrite, hz]

theorem State.LookedAt.stores {s t u : State} {r : Req} {leaf : BitVec 64} (h : t.LookedAt u) (k : s.Stores t r leaf) : s.Stores u r leaf := by
  unfold State.LookedAt at h
  exact k.congr (by rw [h]) (by rw [h]) (by rw [h]) (by rw [h])

section
variable {s : State} {home src : Nat} {r : Req} {rest : List Req} (hq : s.md.reqs = r :: rest) (hs : r.src = src) (hh : s.homeOf r = home)
  (hl : r.kind ≠ .renew ∧ r.waiting = none ∧ r.retryAt = none ∧ s.arrived r = true ∧
    s.cellBefore home r.tag (s.reqGroup r) = false ∧ s.hostHeld home r = false)
  (hf : (s.func r.fn).flr = 0) (ha : s.admits home src r.fn = true) (hsp : r.spec = false) {leaf : BitVec 64}
  (hc : s.cached home ((r.lanes.head?.map (·.ia)).getD 0) = some leaf) (hp : leafPermits leaf r.kind.access = true)
  (hfar : leafF leaf = false) (hchk : ∀ a ∈ r.lanes, a.chk = false) (hu : r.oneUnit)
include hq hs hh hl hf ha hsp hc hp hfar hchk hu

/-- A store whose lines are free is performed at once (R45). -/
theorem homeRequest_store_spec (hpo : s.poisonLanes leaf r = 0) (hk : r.kind = .store) (hz : leafZ leaf = false)
    (hw : s.writable r.ilines = true) : s.Happens (.homeRequestAccept home src) fun t => s.Stores t r leaf ∧ t.groups = s.groups ∧
      t.cores = s.cores ∧ t.md.reqs = s.md.reqs.filter fun x => x.tag != r.tag := by
  refine homeRequest_served hq hs hh hl hf ha hc hp fun t ht => ?_
  have hv : s.serveReq home r leaf = (s.dropReq r.tag).performStore home r leaf := by
    exact State.serveReq_store_now hk hsp hchk hu.2.1 s home hfar hw (State.compressWrite_plain hz ..)
  have hst : s.Stores ((s.dropReq r.tag).performStore home r leaf) r leaf := State.performStore_stores hk hu (s.dropReq r.tag) home leaf hpo
  have hfr := State.performStore_performed (Req.ne_spoil_of_store hk) (s.dropReq r.tag) home leaf
  rw [hv] at ht
  refine ⟨ht.stores hst, ?_⟩
  unfold State.LookedAt at ht
  unfold State.Performed at hfr
  rw [ht, hfr]
  exact ⟨rfl, rfl, rfl⟩

/-- A store to a leased line is held (R47). -/
theorem homeRequest_held_spec (hk : r.kind = .store) (hw : s.writable r.ilines = false) :
    s.Happens (.homeRequestAccept home src) fun t => t.mem = s.mem ∧ t.groups = s.groups ∧ t.cores = s.cores ∧
      (t.md.reqs = s.md.reqs.filter fun x => x.tag != r.tag) ∧
      t.md.held = s.md.held ++ [{ req := r, pa := s.place leaf ((r.lanes.head?.map (·.ia)).getD 0), leaf := leaf }] := by
  refine homeRequest_served hq hs hh hl hf ha hc hp fun t ht => ?_
  rw [State.serveReq_store_held hk hsp hchk hu.2.1 s home hfar hw] at ht
  unfold State.LookedAt at ht
  rw [ht]
  exact ⟨rfl, rfl, rfl, rfl, rfl⟩

end

/-! ### Sent again, performed late, and far (R44, R47, R73) -/

theorem perUnit_oneUnit {r : Req} (hu : r.oneUnit) : perUnit r.lanes = [r.lanes] := by
  obtain ⟨-, hn, -, -, hun⟩ := hu
  obtain ⟨a, rest, h⟩ := List.exists_cons_of_ne_nil hn
  have hall : ∀ b ∈ r.lanes, b.ia / 256 = a.ia / 256 := fun b hb => hun b hb a (by rw [h]; exact List.mem_cons_self)
  have he : (r.lanes.map fun l => l.ia / 256).eraseDups = [a.ia / 256] := by
    have hr : (r.lanes.map fun l => l.ia / 256) = List.replicate r.lanes.length (a.ia / 256) :=
      List.map_eq_replicate_iff.2 hall
    rw [hr, h, List.length_cons, List.replicate_succ, List.eraseDups_cons]
    simp
  have hf : (r.lanes.filter fun l => l.ia / 256 == a.ia / 256) = r.lanes :=
    List.filter_eq_self.2 fun b hb => by simp [hall b hb]
  rw [perUnit, he, List.map_singleton, hf]

/-- A list with one kind of member replaced. -/
theorem flatten_replaced (p : Req → Prop) [DecidablePred p] (q : Req) (l : List Req) :
    (l.map fun x => if p x then [q] else [x]).flatten = l.map fun x => if p x then q else x := by
  induction l with
  | nil => rfl
  | cons x l ih =>
    rw [List.map_cons, List.flatten_cons, ih, List.map_cons]
    split
    · rfl
    · rfl

theorem retryResend_spec (s : State) (home src : Nat) (r : Req) (rest : List Req) (hq : s.md.reqs = r :: rest) (hs : r.src = src)
    (hh : s.homeOf r = home) (t0 : Nat) (ht : r.retryAt = some t0) (h0 : t0 ≤ s.now) (hl : s.landed r.reply = true) (hu : r.oneUnit)
    (hc : ∀ c ∈ s.md.cellReqs, c.retryAt = none) : s.Happens (.retryResend home src) fun t => ∃ n, t = { s with
      fab := t.fab
      md := { s.md with reqs := s.md.reqs.map fun x =>
        if x.tag = r.tag then { r with waiting := none, retryAt := none, ticket := n } else x } } := by
  have hd : s.dueReq home src = some r := by simp [State.dueReq, hq, hs, hh, hl, ht, h0]
  have hn : s.dueCell home src = none := List.find?_eq_none.2 fun c hm => by simp [hc c hm]
  refine ⟨s.resend r, ?_, (s.message (portOfSource r.src) (portOfHome (s.homeOf r)) 0).2, ?_⟩
  · show execRetryResend home src s = _
    simp only [execRetryResend, hd, hn]
  · have hm := State.message_fab s (portOfSource r.src) (portOfHome (s.homeOf r)) 0
    unfold State.SameButFab at hm
    simp only [State.resend, State.sendAgain, perUnit_oneUnit hu, List.foldl_nil, State.modMd, flatten_replaced]
    have hho : s.homeOf { r with waiting := none, retryAt := none } = s.homeOf r := rfl
    rw [hho, hm]

theorem heldWritePerform_spec (s : State) (home : Nat) (h : HeldWrite) (later : List HeldWrite) (hq : s.md.held = h :: later)
    (hh : s.homeOf h.req = home) (hl : ∀ p ∈ h.req.ilines, s.lineFree p = true) (hz : leafZ h.leaf = false)
    (hk : h.req.kind = .store) (hu : h.req.oneUnit) (hp : s.poisonLanes h.leaf h.req = 0) :
    s.Happens (.heldWritePerform home) fun t => s.Stores t h.req h.leaf ∧ t.md.held = later ∧ t.groups = s.groups ∧
      t.md.reqs = s.md.reqs := by
  have hr : s.heldReady home s.md.held [] = some h := by
    rw [hq, State.heldReady, if_pos]
    simpa [hh] using hl
  have he : s.md.held.erase h = later := by rw [hq]; exact List.erase_cons_head ..
  have hst : s.Stores ((s.modMd fun m => { m with held := later }).performStore home h.req h.leaf) h.req h.leaf :=
    State.performStore_stores hk hu (s.modMd fun m => { m with held := later }) home h.leaf hp
  have hfr := State.performStore_performed (Req.ne_spoil_of_store hk) (s.modMd fun m => { m with held := later }) home h.leaf
  refine ⟨(s.modMd fun m => { m with held := later }).performStore home h.req h.leaf, ?_, hst, ?_⟩
  · show execHeldWritePerform home s = _
    simp only [execHeldWritePerform, hr, State.modMd, he, State.compressWrite_plain hz]
  · unfold State.Performed at hfr
    rw [hfr]
    exact ⟨rfl, rfl, rfl⟩

/-- A far access leaves the bridge's queue. -/
def State.takeUio (s : State) (h : HeldWrite) : State := { s.modMd fun m => { m with uio := m.uio.erase h } with free := s.free + 1 }

theorem State.takeUio_poisonLanes (s : State) (h : HeldWrite) (leaf : BitVec 64) (r : Req) :
    (s.takeUio h).poisonLanes leaf r = s.poisonLanes leaf r := rfl

theorem State.Stores.takeUio {s t : State} {h : HeldWrite} {r : Req} {leaf : BitVec 64} (k : (s.takeUio h).Stores t r leaf) :
    s.Stores t r leaf := k

theorem uioCompletion_spec (s : State) (hn : s.uioReady s.md.uio [] ≠ [])
    (hall : ∀ h ∈ s.uioReady s.md.uio [], leafF h.leaf = true ∧ h.req.kind = .store ∧ h.req.oneUnit ∧ s.poisonLanes h.leaf h.req = 0) :
    s.Happens .uioCompletion fun t => ∃ h ∈ s.uioReady s.md.uio [], s.Stores t h.req h.leaf ∧ t.md.uio = s.md.uio.erase h ∧
      t.groups = s.groups ∧ t.free = s.free + 1 := by
  have hlt : Config.freePick s.free % max 1 (s.uioReady s.md.uio []).length < (s.uioReady s.md.uio []).length := by
    have hpos := List.length_pos_iff.2 hn
    rw [Nat.max_eq_right hpos]
    exact Nat.mod_lt _ hpos
  obtain ⟨h, hg⟩ : ∃ h, (s.uioReady s.md.uio [])[Config.freePick s.free % max 1 (s.uioReady s.md.uio []).length]? = some h :=
    ⟨_, List.getElem?_eq_getElem hlt⟩
  have hin := List.mem_of_getElem? hg
  obtain ⟨_, hk, hu, hp⟩ := hall h hin
  have hst := State.performStore_stores hk hu (s.takeUio h) 17 h.leaf ((s.takeUio_poisonLanes h h.leaf h.req).trans hp)
  have hfr := State.performStore_performed (Req.ne_spoil_of_store hk) (s.takeUio h) 17 h.leaf
  refine ⟨(s.takeUio h).performStore 17 h.req h.leaf, ?_, h, hin, hst.takeUio, ?_⟩
  · show execUioCompletion s = _
    simp only [execUioCompletion, hg, hk]
    rfl
  · unfold State.Performed at hfr
    rw [hfr]
    exact ⟨rfl, rfl, rfl⟩

/-! ### A load is accepted (R391) -/

theorem loadValue_eq (t : MemTy) (x : Nat) : loadValue t x = loadedAs t x := by
  cases t with
  | i8 => simp only [loadValue, loadedAs]; rw [sext_toInt 8 x (by omega), wrap_toNat]; rfl
  | i16 => simp only [loadValue, loadedAs]; rw [sext_toInt 16 x (by omega), wrap_toNat]; rfl
  | b8 => rfl
  | b16 => rfl
  | b32 => rfl
  | b64 => rfl
  | b128 => rfl

theorem Group.putRun_frame (n : Nat) : ∀ (g : Group) (r l x : Nat), g.putRun r l n x = { g with v := (g.putRun r l n x).v } := by
  induction n with
  | zero => intro g r l x; rfl
  | succ n ih =>
    intro g r l x
    simp only [Group.putRun]
    rw [ih]
    rfl

theorem Group.vreg_putRun {l l' : Nat} (h : l < 32) (h' : l' < 32) (n r' : Nat) : ∀ (g : Group) (r x : Nat),
    (g.putRun r l n x).vreg r' l' =
      if l' = l ∧ r ≤ r' ∧ r' < r + n then BitVec.ofNat 32 (x / 2 ^ (32 * (r' - r))) else g.vreg r' l' := by
  induction n with
  | zero => intro g r x; rw [if_neg (by omega)]; rfl
  | succ n ih =>
    intro g r x
    rw [Group.putRun, ih, Group.vreg_setV g r l r' l' _ h h']
    by_cases hl : l' = l
    · rcases Nat.lt_trichotomy r' r with hr | hr | hr
      · rw [if_neg (by omega), if_neg (by omega), if_neg (by omega)]
      · subst hr
        rw [if_neg (by omega), if_pos (by omega), if_pos (by omega)]
        simp
      · by_cases hn : r' < r + 1 + n
        · rw [if_pos (by omega), if_pos (by omega), Nat.div_div_eq_div_mul, ← Nat.pow_add, show 32 + 32 * (r' - (r + 1)) = 32 * (r' - r) by omega]
        · rw [if_neg (by omega), if_neg (by omega), if_neg (by omega)]
    · rw [if_neg (by omega), if_neg (by omega), if_neg (by omega)]

/-- The lanes of a load take their values from a register on. -/
def Group.landRuns (g : Group) (d : Nat) (ty : MemTy) (vals : List (Nat × Nat)) : Group :=
  vals.foldl (fun h x => h.putRun d x.1 (memRegs ty) (loadValue ty x.2)) g

theorem Group.landRuns_frame (d : Nat) (ty : MemTy) (vals : List (Nat × Nat)) : ∀ g : Group,
    g.landRuns d ty vals = { g with v := (g.landRuns d ty vals).v } := by
  induction vals with
  | nil => intro g; rfl
  | cons x vals ih =>
    intro g
    simp only [Group.landRuns, List.foldl_cons] at ih ⊢
    rw [ih, Group.putRun_frame]

theorem Group.vreg_landRuns_other {d : Nat} {ty : MemTy} {r' l' : Nat} (h' : l' < 32) (vals : List (Nat × Nat)) (hl : ∀ x ∈ vals, x.1 < 32)
    (ho : r' < d ∨ d + memRegs ty ≤ r' ∨ ∀ x ∈ vals, x.1 ≠ l') : ∀ g : Group, (g.landRuns d ty vals).vreg r' l' = g.vreg r' l' := by
  induction vals with
  | nil => intro g; rfl
  | cons x vals ih =>
    intro g
    refine (ih (fun y hy => hl y (List.mem_cons_of_mem x hy)) (ho.imp id (Or.imp id fun h y hy => h y (List.mem_cons_of_mem x hy))) _).trans ?_
    rw [Group.vreg_putRun (hl x List.mem_cons_self) h', if_neg]
    rintro ⟨he, h1, h2⟩
    rcases ho with h | h | h
    · omega
    · omega
    · exact h x List.mem_cons_self he.symm

theorem Group.vreg_landRuns_mem {d : Nat} {ty : MemTy} {k : Nat} (hk : k < memRegs ty) (vals : List (Nat × Nat)) (hl : ∀ x ∈ vals, x.1 < 32)
    (hn : (vals.map (·.1)).Nodup) (x : Nat × Nat) (hx : x ∈ vals) : ∀ g : Group,
    (g.landRuns d ty vals).vreg (d + k) x.1 = BitVec.ofNat 32 (loadValue ty x.2 / 2 ^ (32 * k)) := by
  induction vals with
  | nil => cases hx
  | cons y vals ih =>
    intro g
    rw [List.map_cons, List.nodup_cons] at hn
    have hl' : ∀ z ∈ vals, z.1 < 32 := fun z hz => hl z (List.mem_cons_of_mem y hz)
    rcases List.mem_cons.1 hx with rfl | hx
    · have ho : ∀ z ∈ vals, z.1 ≠ x.1 := fun z hz e => hn.1 (e ▸ List.mem_map_of_mem hz)
      refine (Group.vreg_landRuns_other (hl x List.mem_cons_self) vals hl' (.inr (.inr ho)) _).trans ?_
      rw [Group.vreg_putRun (hl x List.mem_cons_self) (hl x List.mem_cons_self), if_pos ⟨rfl, by omega, by omega⟩, Nat.add_sub_cancel_left]
    · exact ih hl' hn.2 hx _

theorem Group.land_load {g : Group} {slot : Nat} {o : OpEntry} {q : Guard} {ty : MemTy} {d : Nat} {sp : Space} {b : Src} {od : Order}
    {c : CacheOp} {off : Int} (ho : SMap.find? g.oplog slot = some o) (hk : o.kind = .load)
    (hw : wordOf o.raw = some (.ld q ty (.v d) sp b od c off)) (vals : List (Nat × Nat)) :
    g.land slot vals = { g with
      v := (g.landRuns d ty vals).v
      oplog := SMap.put g.oplog slot { o with
        pending := o.pending &&& ~~~(maskOf fun l => vals.any (·.1 == l)), notNow := o.notNow &&& ~~~(maskOf fun l => vals.any (·.1 == l)) } } := by
  have hf := Group.landRuns_frame d ty vals g
  simp only [Group.land, ho, hk, hw]
  change ({ g.landRuns d ty vals with oplog := SMap.put (g.landRuns d ty vals).oplog slot _ } : Group) = _
  rw [hf]

/-- What a performed load leaves of memory and the queues: lines may be leased to caches. -/
def State.Leased (s t : State) : Prop := t = { s with l1 := t.l1, md := { s.md with lines := t.md.lines } }

theorem State.fillL1_leased (s : State) (src : Nat) (leaf : BitVec 64) (alloc low : Bool) (iline : Nat) :
    s.Leased (s.fillL1 src leaf alloc low iline) := by
  simp only [State.fillL1]
  split
  · rfl
  · split
    · rfl
    · rfl

theorem State.fillL1s_leased (s : State) (src : Nat) (leaf : BitVec 64) (alloc low : Bool) (ls : List Nat) :
    s.Leased (ls.foldl (fun t l => t.fillL1 src leaf alloc low l) s) :=
  foldl_keeps s.Leased _ ls s rfl fun t l ht => by
    have h := t.fillL1_leased src leaf alloc low l
    unfold State.Leased at *
    rw [h, ht]

/-- The lanes of a load with the values that they read. -/
def State.loadVals (s : State) (r : Req) (leaf : BitVec 64) : List (Nat × Nat) :=
  r.lanes.map fun a => (a.lane, s.bytesAt leaf (s.place leaf a.ia) r.width)

theorem State.loadVals_dropReq (s : State) (tag : Nat) (r : Req) (leaf : BitVec 64) :
    (s.dropReq tag).loadVals r leaf = s.loadVals r leaf := rfl

/-- A load of which no lane races or meets poison lands every lane. -/
theorem State.performLoad_plain {s : State} {home gid slot : Nat} {r : Req} {leaf : BitVec 64} (hsp : r.spec = false)
    (hchk : ∀ a ∈ r.lanes, a.chk = false) (hpo : s.poisonLanes leaf r = 0) (hw : r.who = .op gid slot) :
    ∃ u, s.Leased u ∧ s.performLoad home r leaf = (u.modGroup gid fun g => g.land slot (s.loadVals r leaf)).replied home r := by
  have hc : (if (leafC leaf && r.plain) = true then s.checkLanes leaf r 0 else (s.md.shadow, 0)) = (s.md.shadow, 0) := by
    rw [State.checkLanes_unchecked hchk]; exact ite_self _
  have hm : (s.modMd fun m => { m with shadow := s.md.shadow }) = s := rfl
  have hz : (0 : BitVec 32) &&& ~~~(0 : BitVec 32) = 0 := by decide
  have hz' : (0 : BitVec 32) ||| (0 : BitVec 32) = 0 := by decide
  have hl : ∀ u : State, s.Leased u → (u.landReq r leaf 0).engineBad r leaf = u.modGroup gid fun g =>
      g.land slot (s.loadVals r leaf) := by
    intro u hu
    unfold State.Leased at hu
    have hb : ∀ a, u.byteAt leaf a = s.byteAt leaf a := State.byteAt_congr (by rw [hu]) (by rw [hu]) (by rw [hu]) (by rw [hu]) leaf
    have hp : ∀ a, u.place leaf a = s.place leaf a := fun a => by rw [hu]; rfl
    simp only [State.landReq, hw, lanesLeft_zero, State.loadVals, State.bytesAt, hb, hp, State.engineBad]
  simp only [State.performLoad, hsp, hpo, hc, hm, hz, hz', Bool.false_and, Bool.false_eq_true, if_false, if_true, hw]
  split
  · exact ⟨_, State.fillL1s_leased .., by rw [hl _ (State.fillL1s_leased ..)]⟩
  · exact ⟨s, rfl, by rw [hl s rfl]⟩

theorem State.serveReq_load {r : Req} (hk : r.kind = .load) (hsp : r.spec = false) (s : State) (home : Nat) {leaf : BitVec 64}
    (hf : leafF leaf = false) : s.serveReq home r leaf = (s.dropReq r.tag).performLoad home r leaf := by
  simp only [State.serveReq, hk, hsp, hf, Bool.false_and, Bool.false_eq_true, if_false]

theorem State.replied_op {r : Req} {gid slot : Nat} (hw : r.who = .op gid slot) (s : State) (home : Nat) :
    ∃ n f, s.replied home r = { s with
      fab := f
      groups := SMap.modify s.groups gid fun g =>
        { g with oplog := SMap.modify g.oplog slot fun o => { o with replies := o.replies ++ [n] } } } := by
  have hm := State.message_fab s (portOfHome home) (portOfSource r.src) 1
  unfold State.SameButFab at hm
  refine ⟨(s.replyTo home r).2, (s.replyTo home r).1.fab, ?_⟩
  simp only [State.replied, State.replyTo, hw, State.modGroup]
  rw [hm]

theorem SMap.modify_put_same {α : Type} [DecidableEq α] (m : SMap (Option α)) (k : Nat) (v : α) (f : α → α) :
    SMap.modify (SMap.put m k v) k f = SMap.put m k (f v) := by
  simp only [SMap.modify, SMap.find_put_same, SMap.put_put]

section
variable {s : State} {home src : Nat} {r : Req} {rest : List Req} (hq : s.md.reqs = r :: rest) (hs : r.src = src) (hh : s.homeOf r = home)
  (hl : r.kind ≠ .renew ∧ r.waiting = none ∧ r.retryAt = none ∧ s.arrived r = true ∧
    s.cellBefore home r.tag (s.reqGroup r) = false ∧ s.hostHeld home r = false)
  (hf : (s.func r.fn).flr = 0) (ha : s.admits home src r.fn = true) (hsp : r.spec = false) {leaf : BitVec 64}
  (hc : s.cached home ((r.lanes.head?.map (·.ia)).getD 0) = some leaf) (hp : leafPermits leaf r.kind.access = true)
  (hfar : leafF leaf = false) (hchk : ∀ a ∈ r.lanes, a.chk = false) (hu : r.oneUnit) (hpo : s.poisonLanes leaf r = 0)
include hq hs hh hl hf ha hsp hc hp hfar hchk hu hpo

/-- A load's bytes land in its registers (R47, R391). -/
theorem homeRequest_load_spec {gid slot : Nat} {g : Group} {o : OpEntry} {q : Guard} {ty : MemTy} {d : Nat} {sp : Space} {b : Src}
    {od : Order} {c : CacheOp} {off : Int} (hk : r.kind = .load) (hw : r.who = .op gid slot) (hg : s.group? gid = some g)
    (ho : SMap.find? g.oplog slot = some o) (hok : o.kind = .load) (hwd : wordOf o.raw = some (.ld q ty (.v d) sp b od c off)) :
    s.Happens (.homeRequestAccept home src) fun t =>
      ∃ h n, t.group? gid = some h ∧ (∀ k, k ≠ gid → t.group? k = s.group? k) ∧ t.mem = s.mem ∧
        (t.md.reqs = s.md.reqs.filter fun x => x.tag != r.tag) ∧
        h = { g with v := h.v, oplog := SMap.put g.oplog slot { o with
          pending := o.pending &&& ~~~r.laneMask, notNow := o.notNow &&& ~~~r.laneMask, replies := o.replies ++ [n] } } ∧
        (∀ a ∈ r.lanes, ∀ k < memRegs ty, h.vreg (d + k) a.lane =
          BitVec.ofNat 32 (loadedAs ty (s.bytesAt leaf (s.place leaf a.ia) r.width) / 2 ^ (32 * k))) ∧
        ∀ x l, l < 32 → (x < d ∨ d + memRegs ty ≤ x ∨ ∀ a ∈ r.lanes, a.lane ≠ l) → h.vreg x l = g.vreg x l := by
  refine homeRequest_served hq hs hh hl hf ha hc hp fun t ht => ?_
  obtain ⟨u, hlu, hv⟩ := State.performLoad_plain (s := s.dropReq r.tag) (home := home) hsp hchk hpo hw
  rw [State.serveReq_load hk hsp s home hfar, hv, State.loadVals_dropReq] at ht
  obtain ⟨n, f, hr⟩ := State.replied_op hw (u.modGroup gid fun g => g.land slot (s.loadVals r leaf)) home
  have hland := Group.land_load ho hok hwd (s.loadVals r leaf)
  have hmask : (maskOf fun l => (s.loadVals r leaf).any (·.1 == l)) = r.laneMask := by
    simp only [State.loadVals, List.any_map]
    rfl
  rw [hmask] at hland
  have hg' : SMap.find? s.groups gid = some g := hg
  unfold State.LookedAt at ht
  unfold State.Leased at hlu
  have hgr : t.groups = SMap.modify (SMap.modify s.groups gid fun g => g.land slot (s.loadVals r leaf)) gid fun g =>
      { g with oplog := SMap.modify g.oplog slot fun o => { o with replies := o.replies ++ [n] } } := by
    rw [ht, hr, hlu]; rfl
  obtain ⟨hnd, _, _, hal, _⟩ := hu
  have hlt : ∀ x ∈ s.loadVals r leaf, x.1 < 32 := fun x hx => by
    obtain ⟨a, ha, rfl⟩ := List.mem_map.1 hx
    exact (hal a ha).1
  have hnd' : ((s.loadVals r leaf).map (·.1)).Nodup := by
    rw [State.loadVals, List.map_map]; exact hnd
  refine ⟨{ g with v := (g.landRuns d ty (s.loadVals r leaf)).v, oplog := SMap.put g.oplog slot { o with
    pending := o.pending &&& ~~~r.laneMask, notNow := o.notNow &&& ~~~r.laneMask, replies := o.replies ++ [n] } }, n, ?_, fun k hk => ?_,
    ?_, ?_, rfl, fun a ha k hk => ?_, fun x l hl h => ?_⟩
  · show SMap.find? t.groups gid = _
    rw [hgr, SMap.find_modify_same, SMap.find_modify_same, hg', Option.map_some, Option.map_some, hland]
    simp only [SMap.modify_put_same]
  · show SMap.find? t.groups k = SMap.find? s.groups k
    rw [hgr, SMap.find_modify_other _ _ _ _ hk, SMap.find_modify_other _ _ _ _ hk]
  · rw [ht, hr, hlu]; rfl
  · rw [ht, hr, hlu]; rfl
  · have hm : (a.lane, s.bytesAt leaf (s.place leaf a.ia) r.width) ∈ s.loadVals r leaf := List.mem_map.2 ⟨a, ha, rfl⟩
    refine (Group.vreg_landRuns_mem hk _ hlt hnd' _ hm g).trans ?_
    rw [loadValue_eq]
  · refine Group.vreg_landRuns_other hl _ hlt (h.imp id (Or.imp id fun h x hx => ?_)) g
    obtain ⟨a, ha, rfl⟩ := List.mem_map.1 hx
    exact h a ha

end

/-- Settles O43: each event by the lemma on what looking at the head request does, and every store by what writing its bytes leaves. -/
theorem homeRequests : Obligations.HomeRequests := by
  unfold Obligations.HomeRequests
  intro s home src r rest hq hs hh
  refine ⟨fun hl h18 hf => homeRequest_reset_spec hq hs hh hl h18 hf, fun hl hf ha => homeRequest_retry_spec hq hs hh hl hf ha,
    fun w had hc hw hm hn => ?_, fun leaf gid slot g o q ty d sp b od c off hsv hk hw hg ho hok _ hwd => ?_,
    fun leaf hsv hk hz hw => ?_, fun leaf hsv hk hw => ?_,
    fun t0 ht h0 hl hu hc => retryResend_spec s home src r rest hq hs hh t0 ht h0 hl hu hc,
    fun h later hqh hhh hl _ hz hk hu hp => heldWritePerform_spec s home h later hqh hhh hl hz hk hu hp, uioCompletion_spec s⟩
  · obtain ⟨hl, hf, ha, hsp⟩ := had
    exact homeRequest_gather_spec hq hs hh hl hf ha hsp w hc hw hm hn
  · obtain ⟨⟨hl, hf, ha, hsp⟩, hc, hp, hfar, hchk, hu, hpo⟩ := hsv
    exact homeRequest_load_spec hq hs hh hl hf ha hsp hc hp hfar hchk hu hpo hk hw hg ho hok hwd
  · obtain ⟨⟨hl, hf, ha, hsp⟩, hc, hp, hfar, hchk, hu, hpo⟩ := hsv
    exact homeRequest_store_spec hq hs hh hl hf ha hsp hc hp hfar hchk hu hpo hk hz hw
  · obtain ⟨⟨hl, hf, ha, hsp⟩, hc, hp, hfar, hchk, hu, _⟩ := hsv
    exact homeRequest_held_spec hq hs hh hl hf ha hsp hc hp hfar hchk hu hk hw

end Sys2Proof.Machine
end

section
/-! Renewals, cells, MEMOPs and granules (R44, R46, R48, R50 to R55, R57, R79, R212): what each event of the homes' engines does, stated
through what its answer, its grant or its update changes. -/

namespace Sys2Proof.Machine

/-! ### Renewals (R46, R48, R212) -/

/-- A renewal of a line that may be leased is answered with its lease, its bytes and whether its version is current. -/
theorem State.renew_leased {s : State} {home gid slot : Nat} {r : Req} {leaf : BitVec 64} (hf : leafF leaf = false) (ho : leafO leaf = false)
    (hh : s.lineHeld ((r.lanes.head?.map (·.ia)).getD 0 / 128) = false) (hw : r.who = .op gid slot) :
    let p := (r.lanes.head?.map (·.ia)).getD 0 / 128
    let l := SMap.get Line.reset s.md.lines p
    let e := s.now + 1024 / 2 ^ l.classAt s.now
    ∃ n f, s.renew home r leaf = { s with
        fab := f
        md := { s.md with lines := SMap.set Line.reset s.md.lines p { l with leaseEnd := max l.leaseEnd e }
                          renewals := s.md.renewals ++ [n] } } ∧
      n.gid = gid ∧ n.slot = slot ∧ n.die = r.src ∧ n.line = p ∧ n.ok = decide (l.version = r.version) ∧ n.version = l.version ∧
      n.leaseEnd = e ∧ n.lanes = r.lanes ∧ n.bytes = s.lineBytes leaf p := by
  intro p l e
  have hm := State.message_fab (s.grant p).1 (portOfHome home) (portOfSource r.src) 1
  unfold State.SameButFab at hm
  simp only [State.renew, hf, ho, hh, hw, Bool.or_false, Bool.not_false, Bool.true_and, Bool.false_eq_true, if_false, State.modMd,
    State.replyTo]
  rw [hm]
  exact ⟨_, _, rfl, rfl, rfl, rfl, rfl, beq_eq_decide _ _, rfl, rfl, rfl, rfl⟩

theorem leaseRenewal_spec (s : State) (home : Nat) (r : Req) (leaf : BitVec 64) (gid slot : Nat)
    (hn : (List.range 8).findSome? (fun k => s.nextReq home k (·.kind == .renew) s.md.reqs []) = some r) :
    let ia := (r.lanes.head?.map (·.ia)).getD 0
    let p := ia / 128
    let l := SMap.get Line.reset s.md.lines p
    let e := s.now + 1024 / 2 ^ (l.wclass - (s.now - l.wclassAt) / 4096)
    (s.func r.fn).flr = 0 → s.admits home r.src r.fn = true → s.cached home ia = some leaf →
    leafPermits leaf r.kind.access = true → leafF leaf = false → leafO leaf = false → s.lineHeld p = false → r.who = .op gid slot →
    s.Happens (.leaseRenewal home) fun t => t.groups = s.groups ∧ t.mem = s.mem ∧
      t.md.reqs = (s.md.reqs.filter fun x => x.tag != r.tag) ∧
      SMap.get Line.reset t.md.lines p = { l with leaseEnd := max l.leaseEnd e } ∧
      ∃ n, t.md.renewals = s.md.renewals ++ [n] ∧ n.gid = gid ∧ n.slot = slot ∧ n.die = r.src ∧ n.line = p ∧
        n.ok = decide (l.version = r.version) ∧ n.version = l.version ∧ n.leaseEnd = e ∧ n.lanes = r.lanes ∧
        n.bytes = s.lineBytes leaf p := by
  intro ia p l e hfl ha hc hp hf ho hh hw
  have hla := State.lookAt_admitted hfl ha fun leaf => (s.dropReq r.tag).renew home r leaf
  have ht : (s.translateReq home r fun leaf => (s.dropReq r.tag).renew home r leaf) = (s.dropReq r.tag).renew home r leaf := by
    simp only [State.translateReq]
    rw [hc]
    exact if_pos hp
  obtain ⟨n, f, hr, h⟩ := State.renew_leased (s := s.dropReq r.tag) (home := home) hf ho hh hw
  refine ⟨s.lookAt home r fun leaf => (s.dropReq r.tag).renew home r leaf, ?_, ?_⟩
  · show execLeaseRenewal home s = _
    simp only [execLeaseRenewal, hn]
  · rw [ht, hr] at hla
    unfold State.LookedAt at hla
    rw [hla]
    exact ⟨rfl, rfl, rfl, SMap.get_set_same .., n, rfl, h⟩

theorem State.settleLine_cores (s : State) (gid : Nat) : s.settleLine gid = { s with cores := (s.settleLine gid).cores } :=
  foldl_keeps (fun t : State => t = { s with cores := t.cores }) _ s.cores s rfl fun t c h => by rw [h]; rfl

theorem SMap.modify_of_find {α : Type} [DecidableEq α] {m : SMap (Option α)} {k : Nat} {v : α} (h : SMap.find? m k = some v) (f : α → α) :
    SMap.modify m k f = SMap.put m k (f v) := by
  simp only [SMap.modify, h]

theorem renewalReply_spec (s : State) (n : Renewal) (g : Group) (o : OpEntry)
    (hn : s.md.renewals.find? (fun r => r.gid == n.gid && s.landed r.ticket) = some n) (hg : s.group? n.gid = some g)
    (ho : SMap.find? g.oplog n.slot = some o) (hu : o.unconfirmed = true) (hok : n.ok = true) (hp : n.poison = 0) (hl : n.leaseEnd ≠ 0) :
    s.Happens (.renewalReply n.gid) fun t => t = { s with
      md := { s.md with renewals := s.md.renewals.erase n }
      l1 := SMap.put s.l1 (n.die * 2 ^ 45 + n.line) { bytes := n.bytes, version := n.version, leaseEnd := n.leaseEnd, bad := n.bad }
      groups := SMap.put s.groups n.gid { g with
        lineSpec := none, oplog := SMap.put g.oplog n.slot { o with unconfirmed := false, stale := 0 } }
      cores := t.cores } := by
  have hg' : SMap.find? s.groups n.gid = some g := hg
  refine ⟨State.settleLine { s with
    md := { s.md with renewals := s.md.renewals.erase n }
    l1 := SMap.put s.l1 (n.die * 2 ^ 45 + n.line) { bytes := n.bytes, version := n.version, leaseEnd := n.leaseEnd, bad := n.bad }
    groups := SMap.put s.groups n.gid { g with
      lineSpec := none, oplog := SMap.put g.oplog n.slot { o with unconfirmed := false, stale := 0 } } } n.gid, ?_, State.settleLine_cores ..⟩
  show execRenewalReply n.gid s = _
  simp only [execRenewalReply, hn, if_neg hl, State.group?, State.modMd, hg', Option.bind_some, ho, hu, hok, hp, State.modGroup,
    SMap.modify_of_find hg', SMap.modify_of_find ho]
  rfl

/-! ### Cells (R50 to R53) -/

theorem State.cellAt_setCell (s : State) (c : Nat) (x : Cell) (k : Nat) : (s.setCell c x).cellAt k = if k = c then x else s.cellAt k := by
  by_cases hk : k = c
  · subst hk
    by_cases h : s.dieGone (cellDie k) = true
    · simp only [State.setCell, h, if_true]
      exact (if_pos h).trans (SMap.get_set_same ..)
    · simp only [State.setCell, h]
      exact (if_neg h).trans (SMap.get_set_same ..)
  · rw [if_neg hk]
    simp only [State.setCell]
    split
    · show (if _ then SMap.get Cell.zero (SMap.set Cell.zero s.md.mirrors c x) k else SMap.get Cell.zero s.md.cells k) = _
      rw [SMap.get_set_other _ _ _ _ _ hk]
      rfl
    · show (if _ then SMap.get Cell.zero s.md.mirrors k else SMap.get Cell.zero (SMap.set Cell.zero s.md.cells c x) k) = _
      rw [SMap.get_set_other _ _ _ _ _ hk]
      rfl

/-- Setting a cell changes cells and mirrors alone. -/
theorem State.setCell_frame (s : State) (c : Nat) (x : Cell) : s.setCell c x = { s with
    md := { s.md with cells := (s.setCell c x).md.cells, mirrors := (s.setCell c x).md.mirrors } } := by
  simp only [State.setCell]
  split
  · rfl
  · rfl

/-- A value reaches the operand log of the requester. -/
theorem State.cellAnswer_op {s : State} {r : CellReq} {gid slot : Nat} (hw : r.who = .op gid slot) (x : Nat) :
    ∃ n f, s.cellAnswer r (some x) = { s with
      fab := f
      groups := SMap.modify (SMap.modify s.groups gid fun g =>
        { g with oplog := SMap.modify g.oplog slot fun o => { o with replies := o.replies ++ [n] } }) gid fun g =>
          g.land slot [(r.lane, x)] } := by
  have hm := State.message_fab s (portOfMemory (s.cellHome r.cell)) (portOfSource r.src) 1
  unfold State.SameButFab at hm
  simp only [State.cellAnswer, hw, State.modGroup]
  rw [hm]
  exact ⟨_, _, rfl⟩

/-- A posted request is acknowledged. -/
theorem State.cellAnswer_store {s : State} {r : CellReq} {k id : Nat} (hw : r.who = .store k id) (x : Nat) :
    ∃ n f, s.cellAnswer r (some x) = { s with
      fab := f
      cores := SMap.set Core.reset s.cores k { s.core k with acks := (s.core k).acks ++
        [{ id := id, ok := s.namedBy k id r, poison := 0, flags := [], ticket := n }] } } := by
  have hm := State.message_fab s (portOfMemory (s.cellHome r.cell)) (portOfSource r.src) 1
  unfold State.SameButFab at hm
  simp only [State.cellAnswer, hw, State.modCore, State.setCore, State.core, Option.isSome_some, if_true]
  rw [hm]
  exact ⟨_, _, rfl⟩

/-- A request that waits for no mirror is answered once it is performed. -/
theorem State.performCell_answered {s : State} {r : CellReq} {d : Nat} (hs : s.cellServer r.cell = some d)
    (hu : (r.op.updates && s.cellMirrored r.cell) = false) (hb : (!r.op.updates && s.cellBusy r.cell) = false) (die : Nat) :
    s.performCell die r = (s.setCell r.cell (r.op.apply (s.cellAt r.cell))).cellAnswer r (some (r.value (s.cellAt r.cell))) := by
  simp only [State.performCell, hs, hu, hb, Option.isNone_some, Bool.false_eq_true, if_false]

/-- An update of a mirrored cell goes on to the mirror. -/
theorem State.performCell_mirrored {s : State} {r : CellReq} {d : Nat} (hs : s.cellServer r.cell = some d) (hu : r.op.updates = true)
    (hm : s.cellMirrored r.cell = true) (die : Nat) : ∃ n f, s.performCell die r = { s with
      fab := f
      md := { s.md with cells := SMap.set Cell.zero s.md.cells r.cell (r.op.apply (s.cellAt r.cell))
                        mirrorQ := s.md.mirrorQ ++ [{ req := r, value := r.value (s.cellAt r.cell), applied := false, ticket := n }] } } := by
  have hd : s.dieGone (cellDie r.cell) = false := by
    rw [State.cellMirrored, Bool.and_eq_true, Bool.not_eq_true'] at hm
    exact hm.1
  have hf := State.message_fab { s with md := { s.md with cells := SMap.set Cell.zero s.md.cells r.cell (r.op.apply (s.cellAt r.cell)) } }
    (portOfMemory die) (portOfMemory ((cellDie r.cell + 1) % 17)) 2
  unfold State.SameButFab at hf
  simp only [State.performCell, hs, hu, hm, Option.isNone_some, Bool.false_eq_true, if_false, Bool.and_self, if_true, State.setCell, hd,
    State.modMd]
  rw [hf]
  exact ⟨_, _, rfl⟩

/-- At most the retry delays and the fabric differ. -/
def State.Calmed (s t : State) : Prop := t = { s with fab := t.fab, md := { s.md with delay := t.md.delay } }

theorem State.calmDelay_consume_calmed (s : State) (home src i j tc : Nat) : s.Calmed ((s.calmDelay home src).consume i j tc) := by
  have h := State.consume_fab (s.calmDelay home src) i j tc
  unfold State.SameButFab at h
  rw [h]
  rfl

/-- The queue of cell requests behind the one that is taken. -/
def State.tookCell (s : State) (rest : List CellReq) : State := { s with md := { s.md with cellReqs := rest } }

section
variable {s : State} {r : CellReq} {rest : List CellReq} {die : Nat} (hq : s.md.cellReqs = r :: rest)
  (hs : s.cellServer r.cell = some die) (ht : r.retryAt = none) (hl : s.landed r.ticket = true)
  (hc : s.cellBefore die r.tag r.order = false) (hr : s.reqBefore die r.tag r.order = false) (hf : (s.func r.fn).flr = 0)
include hq hs ht hl hc hr

/-- The head of the cell requests is the one that its server takes next. -/
theorem State.nextCell_head : s.nextCell die = some r := by
  have hh : s.cellHome r.cell = die := by rw [State.cellHome, hs]; rfl
  simp [State.nextCell, hq, hh, ht, hl, hc, hr]

include hf

theorem cellOperation_retry_spec (ha : s.admits die r.src r.fn = false) (hn : ∀ x ∈ rest, x.tag ≠ r.tag) :
    s.Happens (.cellOperation die) fun t => ∃ n, t = { s with
      fab := t.fab
      md := { s.md with
        cellReqs := { r with retryAt := some (s.now + s.retryDelay die r.src), reply := n } :: rest
        delay := t.md.delay } } := by
  have hnx := State.nextCell_head hq hs ht hl hc hr
  have hm := State.message_fab s (portOfMemory die) (portOfSource r.src) 1
  unfold State.SameButFab at hm
  have hmap (n : Ticket) : (s.md.cellReqs.map fun x => if x.tag = r.tag then
      { x with retryAt := some (s.now + s.retryDelay die r.src), reply := n } else x) =
      { r with retryAt := some (s.now + s.retryDelay die r.src), reply := n } :: rest := by
    rw [hq, List.map_cons, if_pos rfl]
    congr 1
    exact (List.map_congr_left fun x hx => if_neg (hn x hx)).trans (List.map_id rest)
  have he : execCellOperation die s = .next ((State.bumpDelay { s with
      fab := (s.message (portOfMemory die) (portOfSource r.src) 1).1.fab
      md := { s.md with cellReqs := { r with retryAt := some (s.now + s.retryDelay die r.src)
                                             reply := (s.message (portOfMemory die) (portOfSource r.src) 1).2 } :: rest } } die r.src).consume
        (portOfSource r.src) (portOfMemory die) 0) := by
    simp only [execCellOperation, hnx, hf, ha, State.modMd]
    rw [hm]
    simp only [hmap]
    rfl
  refine ⟨_, he, (s.message (portOfMemory die) (portOfSource r.src) 1).2, ?_⟩
  have hcs := State.consume_fab (State.bumpDelay { s with
      fab := (s.message (portOfMemory die) (portOfSource r.src) 1).1.fab
      md := { s.md with cellReqs := { r with retryAt := some (s.now + s.retryDelay die r.src)
                                             reply := (s.message (portOfMemory die) (portOfSource r.src) 1).2 } :: rest } } die r.src)
        (portOfSource r.src) (portOfMemory die) 0
  unfold State.SameButFab at hcs
  rw [hcs]
  rfl

/-- An admitted request is performed with the queue behind it. -/
theorem execCellOperation_admitted (ha : s.admits die r.src r.fn = true) :
    ∃ t, exec (.cellOperation die) s = .next t ∧ ((s.tookCell rest).performCell die r).Calmed t := by
  have hnx := State.nextCell_head hq hs ht hl hc hr
  have he : s.md.cellReqs.erase r = rest := by rw [hq]; exact List.erase_cons_head ..
  refine ⟨_, ?_, State.calmDelay_consume_calmed _ die r.src (portOfSource r.src) (portOfMemory die) 0⟩
  show execCellOperation die s = _
  simp only [execCellOperation, hnx, hf, ha, State.modMd, he, State.tookCell]
  rfl

/-- A read that no update precedes is answered with the sum found. -/
theorem cellOperation_read_spec (w : Bool) (gid slot : Nat) (g : Group) (o : OpEntry) (ha : s.admits die r.src r.fn = true)
    (hop : r.op = .read w) (hb : s.cellBusy r.cell = false) (hw : r.who = .op gid slot) (hg : s.group? gid = some g)
    (ho : SMap.find? g.oplog slot = some o) :
    s.Happens (.cellOperation die) fun t => (∀ k, t.cellAt k = s.cellAt k) ∧ t.md.cellReqs = rest ∧ t.mem = s.mem ∧
      ∃ n, t.groups = SMap.put s.groups gid (({ g with oplog := SMap.put g.oplog slot { o with replies := o.replies ++ [n] } } :
        Group).land slot [(r.lane, (s.cellAt r.cell).value w)]) := by
  obtain ⟨t, ht, hla⟩ := execCellOperation_admitted hq hs ht hl hc hr hf ha
  have hg' : SMap.find? s.groups gid = some g := hg
  have hk := (s.tookCell rest).cellAt_setCell r.cell (s.cellAt r.cell)
  have hfr := (s.tookCell rest).setCell_frame r.cell (s.cellAt r.cell)
  have hp : (s.tookCell rest).performCell die r = ((s.tookCell rest).setCell r.cell (s.cellAt r.cell)).cellAnswer r
      (some ((s.cellAt r.cell).value w)) := by
    have h := State.performCell_answered (s := s.tookCell rest) (r := r) hs (by simp [hop, CellOp.updates])
      (by simp only [hop, CellOp.updates, Bool.not_false, Bool.true_and]; exact hb) die
    simp only [hop, CellOp.apply, CellReq.value] at h
    exact h
  generalize (s.tookCell rest).setCell r.cell (s.cellAt r.cell) = u at hk hfr hp
  obtain ⟨n, f, hans⟩ := State.cellAnswer_op (s := u) hw ((s.cellAt r.cell).value w)
  rw [hp, hans] at hla
  unfold State.Calmed at hla
  have hug : u.groups = s.groups := by rw [hfr]; rfl
  refine ⟨t, ht, fun k => ?_, ?_, ?_, n, ?_⟩
  · have hku : u.cellAt k = s.cellAt k := by
      rw [hk k]
      split
      · next h => rw [h]
      · rfl
    rw [← hku, hla]
    rfl
  · rw [hla, hfr]; rfl
  · rw [hla, hfr]; rfl
  · rw [hla]
    show SMap.modify (SMap.modify u.groups gid _) gid _ = _
    rw [hug, SMap.modify_of_find hg', SMap.modify_put_same, SMap.modify_of_find ho]

/-- An update of a mirrored cell. -/
theorem cellOperation_mirrored_spec (ha : s.admits die r.src r.fn = true) (hu : r.op.updates = true) (hm : s.cellMirrored r.cell = true) :
    s.Happens (.cellOperation die) fun t => ∃ n, t = { s with fab := t.fab, md := { s.md with
      cellReqs := rest, cells := SMap.set Cell.zero s.md.cells r.cell (r.op.apply (s.cellAt r.cell))
      mirrorQ := s.md.mirrorQ ++ [{ req := r, value := r.value (s.cellAt r.cell), applied := false, ticket := n }], delay := t.md.delay } } := by
  obtain ⟨t, ht, hla⟩ := execCellOperation_admitted hq hs ht hl hc hr hf ha
  obtain ⟨n, f, hp⟩ := State.performCell_mirrored (s := s.tookCell rest) (r := r) hs hu hm die
  rw [hp] at hla
  unfold State.Calmed at hla
  refine ⟨t, ht, n, ?_⟩
  rw [hla]
  rfl

/-- A posted update of a cell without a mirror is acknowledged at once. -/
theorem cellOperation_posted_spec (k id : Nat) (ha : s.admits die r.src r.fn = true) (hu : r.op.updates = true)
    (hm : s.cellMirrored r.cell = false) (hw : r.who = .store k id) :
    s.Happens (.cellOperation die) fun t =>
      t.cellAt r.cell = r.op.apply (s.cellAt r.cell) ∧ t.md.cellReqs = rest ∧ t.groups = s.groups ∧ t.mem = s.mem ∧
      ∃ n, t.core k = { s.core k with acks := (s.core k).acks ++
        [{ id := id, ok := s.namedBy k id r, poison := 0, flags := [], ticket := n }] } := by
  obtain ⟨t, ht, hla⟩ := execCellOperation_admitted hq hs ht hl hc hr hf ha
  have hk := (s.tookCell rest).cellAt_setCell r.cell (r.op.apply (s.cellAt r.cell)) r.cell
  have hfr := (s.tookCell rest).setCell_frame r.cell (r.op.apply (s.cellAt r.cell))
  have hp : (s.tookCell rest).performCell die r = ((s.tookCell rest).setCell r.cell (r.op.apply (s.cellAt r.cell))).cellAnswer r
      (some (r.value (s.cellAt r.cell))) :=
    State.performCell_answered (s := s.tookCell rest) (r := r) hs ((Bool.and_eq_false_imp).2 fun _ => hm) (by simp [hu]) die
  generalize (s.tookCell rest).setCell r.cell (r.op.apply (s.cellAt r.cell)) = u at hk hfr hp
  obtain ⟨n, f, hans⟩ := State.cellAnswer_store (s := u) hw (r.value (s.cellAt r.cell))
  rw [hp, hans] at hla
  unfold State.Calmed at hla
  have huc : u.cores = s.cores := by rw [hfr]; rfl
  have hcore : u.core k = s.core k := by unfold State.core; rw [huc]
  have hnm : u.namedBy k id r = s.namedBy k id r := by unfold State.namedBy; rw [hcore]
  refine ⟨t, ht, ?_, ?_, ?_, ?_, n, ?_⟩
  · rw [if_pos rfl] at hk
    rw [← hk, hla]
    rfl
  · rw [hla, hfr]; rfl
  · rw [hla, hfr]; rfl
  · rw [hla, hfr]; rfl
  · rw [hla, ← hcore, ← hnm]
    exact SMap.get_set_same ..

end

/-! ### Mirrors (R53) -/

theorem cellMirrorUpdate_applies_spec (s : State) (u : MirrorUp) (rest : List MirrorUp) (hq : s.md.mirrorQ = u :: rest)
    (hu : u.req.op.updates = true) (hn : ∀ x ∈ s.md.mirrorQ, x.applied = false) (hl : s.landed u.ticket = true) :
    let die := (u.req.cell % 17 + 1) % 17
    s.Happens (.cellMirrorUpdate die) fun t => ∃ n, t = { s with
      fab := t.fab
      md := { s.md with
        mirrorQ := s.md.mirrorQ.map fun x => if x = u then { u with applied := true, ticket := n } else x
        mirrors := SMap.set Cell.zero s.md.mirrors u.req.cell (u.req.op.apply (SMap.get Cell.zero s.md.mirrors u.req.cell))
        tags := (s.md.tags.filter fun x => s.now < x.2.2.1 + 128000) ++ [(u.req.tag, die, s.now, [(u.req.lane, u.value)])] } } := by
  intro die
  have h1 : (s.md.mirrorQ.find? fun x => x.applied && cellDie x.req.cell == die && s.landed x.ticket) = none :=
    List.find?_eq_none.2 fun x hx => by simp [hn x hx]
  have hua := hn u (by rw [hq]; exact List.mem_cons_self)
  have h2 : (s.md.mirrorQ.find? fun x => x.req.op.updates && !x.applied && (cellDie x.req.cell + 1) % 17 == die && s.landed x.ticket) =
      some u := by
    rw [hq, List.find?_cons_of_pos]
    simp [hu, hua, hl, die, cellDie]
  have hm := State.message_fab s (portOfMemory die) (portOfMemory (cellDie u.req.cell)) 2
  unfold State.SameButFab at hm
  refine ⟨s.mirrorApplies die u, ?_, (s.message (portOfMemory die) (portOfMemory (cellDie u.req.cell)) 2).2, ?_⟩
  · show execCellMirrorUpdate die s = _
    simp only [execCellMirrorUpdate, h1, h2]
  · simp only [State.mirrorApplies, State.modMd]
    rw [hm]
    rfl

theorem cellMirrorUpdate_acked_spec (s : State) (u : MirrorUp) (rest : List MirrorUp) (k id : Nat) (hq : s.md.mirrorQ = u :: rest)
    (ha : u.applied = true) (hl : s.landed u.ticket = true) (hw : u.req.who = .store k id)
    (hr : ∀ x ∈ rest, x.req.cell = u.req.cell → x.req.op.updates = true) :
    s.Happens (.cellMirrorUpdate (u.req.cell % 17)) fun t => ∃ n, t = { s with
      fab := t.fab
      md := { s.md with mirrorQ := rest }
      cores := SMap.set Core.reset s.cores k { s.core k with acks := (s.core k).acks ++
        [{ id := id, ok := s.namedBy k id u.req, poison := 0, flags := [], ticket := n }] } } := by
  have h1 : (s.md.mirrorQ.find? fun x => x.applied && cellDie x.req.cell == u.req.cell % 17 && s.landed x.ticket) = some u := by
    rw [hq, List.find?_cons_of_pos]
    simp [ha, hl, cellDie]
  have he : s.md.mirrorQ.erase u = rest := by rw [hq]; exact List.erase_cons_head ..
  obtain ⟨n, f, hans⟩ := State.cellAnswer_store (s := { s with md := { s.md with mirrorQ := rest } }) hw u.value
  have hd : ∀ t : State, t.md.mirrorQ = rest → t.drainReads u.req.cell = t := by
    intro t ht
    have hz : ((t.md.mirrorQ.filter fun x => x.req.cell == u.req.cell).takeWhile fun x => !x.req.op.updates) = [] := by
      have hup : ∀ x ∈ t.md.mirrorQ.filter fun x => x.req.cell == u.req.cell, x.req.op.updates = true := fun x hx => by
        rw [ht, List.mem_filter] at hx
        exact hr x hx.1 (by simpa using hx.2)
      cases hF : t.md.mirrorQ.filter fun x => x.req.cell == u.req.cell with
      | nil => rfl
      | cons x xs => exact List.takeWhile_cons_of_neg (by simp [hup x (by rw [hF]; exact List.mem_cons_self)])
    rw [State.drainReads]
    simp only [hz, List.foldl_nil]
  refine ⟨s.mirrorAcked u, ?_, n, ?_⟩
  · show execCellMirrorUpdate (u.req.cell % 17) s = _
    simp only [execCellMirrorUpdate, h1]
  · simp only [State.mirrorAcked, State.modMd, he]
    rw [hans, hd _ rfl]
    rfl

/-! ### MEMOP units (R54, R55) -/

/-- A unit is asked for. -/
def State.askUnit (s : State) (m : Memop) (u : Nat × Nat) : State :=
  s.modMd fun d => { d with memops := d.memops.map fun x =>
    if x.id = m.id then { x with units := x.units.erase u, asked := x.asked ++ [u] } else x }
/-- The request for it. -/
def Memop.askReq (m : Memop) (cx : Context) (u : Nat × Nat) (ia : Nat) : Req :=
  reqBase m.src m.ctx cx.fn (.memop m.id u.1) (if m.kind = 4 then .reduce else .range)
    [{ lane := 0, va := u.1, ia := ia, data := u.2, data2 := 0 }] 1

theorem State.memopAsk_ok {s : State} {m : Memop} {cx : Context} {u : Nat × Nat} {ia : Nat} {chk : Bool}
    (ht : (m.view cx).translate u.1 (if m.kind = 4 then acRead else acWrite) = .ok (ia, chk)) :
    s.memopAsk (s.servingDie ia) m cx u = some ((s.askUnit m u).request (m.askReq cx u ia)) := by
  simp only [State.memopAsk, ht]
  exact if_neg (by simp)

/-- An element of a fill's unit, as a write that its home holds. -/
def State.fillWrite (s : State) (m : Memop) (u : RangeUnit) (i : Nat) : HeldWrite :=
  { req := { s.memopReq u.home m u.va .elem 8 with
      lanes := [{ lane := i, va := u.va + 8 * i, ia := u.ia + 8 * i, data := memopReg m.regs 2 + memopReg m.regs 3 * 2 ^ 32
                  data2 := memopReg m.regs 5 }]
      slot := 16 * m.kind + m.ty, tag := s.md.nextTag + i }
    pa := s.place u.leaf (u.ia + 8 * i), leaf := u.leaf }

theorem State.memopUpdates_fill (s : State) {m : Memop} {u : RangeUnit} (hk : m.kind = 0) (hf : leafF u.leaf = false) :
    s.memopUpdates u.home m u = { s with md := { s.md with
      nextTag := s.md.nextTag + u.bytes / 8, held := s.md.held ++ (List.range (u.bytes / 8)).map (s.fillWrite m u)
      memops := s.md.memops.map fun x => if x.id = m.id then
        { x with open_ := x.open_.map fun y => if y.va = u.va then { y with stage := 2, left := u.bytes / 8, replies := [] } else y } else x } } := by
  have hslot : 16 * 0 + m.ty = 16 * m.kind + m.ty := by rw [hk]
  simp only [State.memopUpdates, hk, hf, memopSize, bne_self_eq_false, Bool.false_and, if_true, Bool.false_eq_true, if_false, State.modRange,
    State.modMd]
  rw [hslot]
  rfl

section
variable {s : State} {m : Memop} {later : List Memop} {cx : Context} (hq : s.md.memops = m :: later) (hc : s.ctx? m.ctx = some cx)
include hq hc

/-- What comes next of the oldest MEMOP is what the home does. -/
theorem execMemopUnit_head {home : Nat} {t : State} (h : s.memopNext home m cx = some t) : exec (.memopUnit home) s = .next t := by
  show execMemopUnit home s = _
  have hf : (s.md.memops.findSome? fun m => (s.ctx? m.ctx).bind fun cx => s.memopNext home m cx) = some t := by
    rw [hq, List.findSome?_cons, hc, Option.bind_some, h]
  simp only [execMemopUnit, hf]

/-- A unit that its home has accepted goes before those still to be asked for. -/
theorem execMemopUnit_open {u : RangeUnit} {us : List RangeUnit} (ho : m.open_ = u :: us) {t : State}
    (h : s.memopStep u.home m cx u = some t) : exec (.memopUnit u.home) s = .next t := by
  refine execMemopUnit_head hq hc ?_
  rw [State.memopNext, ho, List.findSome?_cons, h]
  rfl

theorem memopUnit_ask_spec (u : Nat × Nat) (us : List (Nat × Nat)) (ia : Nat) (chk : Bool) (ho : m.open_ = []) (hu : m.units = u :: us)
    (ht : (m.view cx).translate u.1 (if m.kind = 4 then acRead else acWrite) = .ok (ia, chk)) :
    s.Happens (.memopUnit (s.servingDie ia)) fun t => ∃ n, t = { s with
      fab := t.fab
      md := { s.md with
        nextTag := s.md.nextTag + 1
        memops := s.md.memops.map fun x => if x.id = m.id then { x with units := x.units.erase u, asked := x.asked ++ [u] } else x
        reqs := s.md.reqs ++ [{
          reqBase m.src m.ctx cx.fn (.memop m.id u.1) (if m.kind = 4 then .reduce else .range)
            [{ lane := 0, va := u.1, ia := ia, data := u.2, data2 := 0 }] 1 with tag := s.md.nextTag, ticket := n }] } } := by
  obtain ⟨n, hn⟩ := (s.askUnit m u).request_spec (m.askReq cx u ia)
  refine ⟨_, execMemopUnit_head hq hc ?_, n, hn⟩
  rw [State.memopNext, ho, hu, List.findSome?_nil, List.findSome?_cons, State.memopAsk_ok ht]
  rfl

theorem memopUnit_fill_spec (u : RangeUnit) (us : List RangeUnit) (hk : m.kind = 0) (hty : m.ty < 16) (ho : m.open_ = u :: us)
    (hst : u.stage = 0) (hf : leafF u.leaf = false) :
    let k := u.bytes / 8
    s.Happens (.memopUnit u.home) fun t => ∃ ws : List HeldWrite,
      t = { s with md := { s.md with
        nextTag := s.md.nextTag + k, held := s.md.held ++ ws
        memops := s.md.memops.map fun x => if x.id = m.id then
          { x with open_ := x.open_.map fun y => if y.va = u.va then { y with stage := 2, left := k, replies := [] } else y } else x } } ∧
      ws.length = k ∧ ∀ i < k, ∃ h a, ws[i]? = some h ∧ h.leaf = u.leaf ∧ h.req.lanes = [a] ∧ h.req.kind = .elem ∧ h.req.width = 8 ∧
        h.req.slot / 16 = 0 ∧ h.req.who = .memop m.id u.va ∧ a.ia = u.ia + 8 * i ∧
        a.data = (m.regs.getD 2 0).toNat + (m.regs.getD 3 0).toNat * 2 ^ 32 := by
  intro k
  have hstep : s.memopStep u.home m cx u = some (s.memopUpdates u.home m u) := by
    simp [State.memopStep, hst, hk]
  refine ⟨_, execMemopUnit_open hq hc ho hstep, (List.range k).map (s.fillWrite m u), s.memopUpdates_fill hk hf, by simp, fun i hi => ?_⟩
  refine ⟨s.fillWrite m u i, _, ?_, rfl, rfl, rfl, rfl, ?_, rfl, rfl, rfl⟩
  · rw [List.getElem?_map, List.getElem?_range hi]
    rfl
  · show (16 * m.kind + m.ty) / 16 = 0
    omega

end

/-! ### An element's update is performed (R54) -/

/-- The value that an element's update gives its place. -/
def State.elemValue (s : State) (leaf : BitVec 64) (r : Req) (a : LaneAcc) : Nat :=
  if r.slot / 16 = 0 then a.data
  else memopElem (r.slot / 16) (r.slot % 16) a.data2 a.data (s.bytesAt leaf (s.place leaf a.ia) r.width)

section
variable {s : State} {r : Req} {leaf : BitVec 64} {a : LaneAcc} (hl : r.lanes = [a])
include hl

theorem State.elemBytes_one : s.elemBytes r leaf =
    (List.range r.width).map fun k => (s.place leaf a.ia + k, BitVec.ofNat 8 (s.elemValue leaf r a / 2 ^ (8 * k))) := by
  have hv : memopElem (r.slot / 16) (r.slot % 16) a.data2 a.data (s.bytesAt leaf (s.place leaf a.ia) r.width) = s.elemValue leaf r a := by
    unfold State.elemValue
    split
    · next h0 => rw [h0]; rfl
    · rfl
  rw [State.elemBytes, hl, List.map_singleton, List.flatten_singleton, hv]

theorem State.mem_elemBytes (x : Nat × BitVec 8) : x ∈ s.elemBytes r leaf ↔
    ∃ k < r.width, x = (s.place leaf a.ia + k, BitVec.ofNat 8 (s.elemValue leaf r a / 2 ^ (8 * k))) := by
  rw [State.elemBytes_one hl, List.mem_map]
  simp only [List.mem_range, eq_comm]

/-- Where its lane is not poisoned, all of an element's bytes stand. -/
theorem State.standing_elemBytes (hp : s.poisonLanes leaf r = 0) (ha : a.lane < 32) :
    s.standing (leafF leaf) a.ia (s.place leaf a.ia) (s.elemBytes r leaf) = s.elemBytes r leaf := by
  refine List.filter_eq_self.2 fun x hx => ?_
  obtain ⟨k, hk, rfl⟩ := (State.mem_elemBytes hl x).1 hx
  have hn : s.poisonedAt (leafF leaf) (a.ia + k) (s.place leaf a.ia + k) = false := by
    have hz : lane (s.poisonLanes leaf r) a.lane = false := by rw [hp]; simp [lane]
    rw [State.poisonLanes, lane_maskOf _ a.lane ha, hl] at hz
    simp only [List.any_cons, List.any_nil, Bool.or_false, beq_self_eq_true, Bool.true_and, List.any_eq_false, Bool.not_eq_true] at hz
    exact hz k (List.mem_range.2 hk)
  simp only [show a.ia + (s.place leaf a.ia + k) - s.place leaf a.ia = a.ia + k by omega, hn, Bool.not_false, Bool.true_or]

theorem State.elemBytes_written (hp : s.poisonLanes leaf r = 0) (ha : a.lane < 32) :
    s.Written leaf (s.elemBytes r leaf) (if (s.elemBytes r leaf).isEmpty then s else
      s.performWrite leaf a.ia (s.place leaf a.ia) (s.elemBytes r leaf)) := by
  split
  · next hw =>
    rw [List.isEmpty_iff.1 hw]
    exact ⟨fun _ _ => rfl, fun _ h => absurd h List.not_mem_nil, fun _ _ => rfl, fun _ => rfl⟩
  · refine s.performWrite_written leaf a.ia (s.place leaf a.ia) _ (State.standing_elemBytes hl hp ha) fun x hx y hy e => ?_
    obtain ⟨j, hj, rfl⟩ := (State.mem_elemBytes hl x).1 hx
    obtain ⟨k, hk, rfl⟩ := (State.mem_elemBytes hl y).1 hy
    rw [Nat.add_left_cancel e]

/-- What memory holds at each place once an element's update is performed. -/
theorem State.Written.elem {t : State} (h : s.Written leaf (s.elemBytes r leaf) t) (b : Nat) : t.byteAt leaf b =
    if s.place leaf a.ia ≤ b ∧ b < s.place leaf a.ia + r.width then
      BitVec.ofNat 8 (s.elemValue leaf r a / 2 ^ (8 * (b - s.place leaf a.ia))) else s.byteAt leaf b := by
  obtain ⟨hsame, hwrote, -, -⟩ := h
  split
  · next hb =>
    have hx := hwrote _ ((State.mem_elemBytes hl _).2 ⟨b - s.place leaf a.ia, by omega, rfl⟩)
    rwa [Nat.add_sub_cancel' hb.1] at hx
  · next hb =>
    refine hsame b fun x hx e => hb ?_
    obtain ⟨k, hk, rfl⟩ := (State.mem_elemBytes hl x).1 hx
    dsimp only at e
    omega

theorem State.performStore_elem (hk : r.kind = .elem) (hp : s.poisonLanes leaf r = 0) (ha : a.lane < 32) (home b : Nat) :
    (s.performStore home r leaf).byteAt leaf b = if s.place leaf a.ia ≤ b ∧ b < s.place leaf a.ia + r.width then
      BitVec.ofNat 8 (s.elemValue leaf r a / 2 ^ (8 * (b - s.place leaf a.ia))) else s.byteAt leaf b := by
  have hw : (s.writeOf r leaf (s.poisonLanes leaf r)).2.1 = s.elemBytes r leaf := by
    rw [State.writeOf, hk, hp]
    rfl
  obtain ⟨d, e⟩ := State.performStore_eq (by rw [hk]; exact ReqKind.noConfusion) hw home
  have hia : (r.lanes.head?.map (·.ia)).getD 0 = a.ia := by rw [hl]; rfl
  rw [e, hia]
  obtain ⟨kf, km, kk, kh⟩ := State.sendDelta_keeps (if (s.elemBytes r leaf).isEmpty then s else
    s.performWrite leaf a.ia (s.place leaf a.ia) (s.elemBytes r leaf)) d
  rw [State.byteAt_congr kf km kk (by rw [kh])]
  exact (State.elemBytes_written hl hp ha).elem hl b

end

theorem heldElem_spec (s : State) (h : HeldWrite) (later : List HeldWrite) (a : LaneAcc) (hq : s.md.held = h :: later)
    (hl : h.req.lanes = [a]) (hk : h.req.kind = .elem) (hfree : ∀ p ∈ h.req.ilines, s.lineFree p = true) (hz : leafZ h.leaf = false)
    (hp : s.poisonLanes h.leaf h.req = 0) (ha : a.lane < 32) : s.Happens (.heldWritePerform (s.homeOf h.req)) fun t =>
      let pa := s.place h.leaf a.ia
      let x := if h.req.slot / 16 = 0 then a.data
        else memopElem (h.req.slot / 16) (h.req.slot % 16) a.data2 a.data (s.bytesAt h.leaf pa h.req.width)
      t.groups = s.groups ∧ t.md.held = later ∧ t.md.memops = s.md.memops ∧ ∀ b, t.byteAt h.leaf b =
        if pa ≤ b ∧ b < pa + h.req.width then BitVec.ofNat 8 (x / 2 ^ (8 * (b - pa))) else s.byteAt h.leaf b := by
  have hr : s.heldReady (s.homeOf h.req) s.md.held [] = some h := by
    rw [hq, State.heldReady, if_pos]
    simpa using hfree
  have he : s.md.held.erase h = later := by rw [hq]; exact List.erase_cons_head ..
  have hfr := State.performStore_performed (by rw [hk]; exact ReqKind.noConfusion) (s.modMd fun m => { m with held := later })
    (s.homeOf h.req) h.leaf
  have hb := State.performStore_elem (s := s.modMd fun m => { m with held := later }) hl hk hp ha (s.homeOf h.req)
  refine ⟨(s.modMd fun m => { m with held := later }).performStore (s.homeOf h.req) h.req h.leaf, ?_, ?_⟩
  · show execHeldWritePerform (s.homeOf h.req) s = _
    simp only [execHeldWritePerform, hr, State.modMd, he, State.compressWrite_plain hz]
  · unfold State.Performed at hfr
    refine ⟨by rw [hfr]; rfl, by rw [hfr]; rfl, by rw [hfr]; rfl, hb⟩

/-! ### A unit is done (R54, R404) -/

theorem State.arriveFrom_spec (s : State) (home bid n a y : Nat) (b : Arriver) : ∃ k, s.arriveFrom home bid n a y b = { s with
    fab := (s.arriveFrom home bid n a y b).fab
    arrivals := s.arrivals ++ [{ to_ := .name bid n, a := a, y := y, by_ := b, due := s.now, ticket := k }] } := by
  refine ⟨(s.message (portOfMemory home) (s.portOfBlock bid) 1).2, ?_⟩
  have h := State.message_fab s (portOfMemory home) (s.portOfBlock bid) 1
  unfold State.SameButFab at h
  unfold State.arriveFrom State.arrive
  dsimp only
  rw [h]

/-- A unit's bytes arrive on the slot of its MEMOP, of which no other is left behind than were there. -/
theorem State.memopArrive_spec {s : State} {id : Nat} {m : Memop} (hm : (s.md.memops.find? fun m => m.id == id) = some m) (home bytes : Nat) :
    ∃ k, (s.memopArrive home id bytes).groups = s.groups ∧ (s.memopArrive home id bytes).mem = s.mem ∧
      (∀ x ∈ (s.memopArrive home id bytes).md.memops, x ∈ s.md.memops) ∧ (s.memopArrive home id bytes).arrivals = s.arrivals ++
        [{ to_ := .name m.bid m.slot, a := 0, y := bytes, by_ := .engine m.gid m.lane, due := s.now, ticket := k }] := by
  simp only [State.memopArrive, hm]
  split
  · obtain ⟨k, hk⟩ := (s.modMd fun d => { d with memops := d.memops.filter fun x => x.id != id }).arriveFrom_spec home m.bid m.slot 0 bytes
      (.engine m.gid m.lane)
    rw [hk]
    exact ⟨k, rfl, rfl, fun x hx => List.mem_of_mem_filter hx, rfl⟩
  · obtain ⟨k, hk⟩ := s.arriveFrom_spec home m.bid m.slot 0 bytes (.engine m.gid m.lane)
    rw [hk]
    exact ⟨k, rfl, rfl, fun _ hx => hx, rfl⟩

/-- A MEMOP without one of its units. -/
def Memop.without (m : Memop) (va : Nat) : Memop :=
  { m with units := m.units.filter fun u => u.1 != va, asked := m.asked.filter fun u => u.1 != va
           open_ := m.open_.filter fun u => u.va != va, fails := m.fails.filter fun f => f.1 != va }
/-- No unit of one place is left of a MEMOP. -/
def State.endUnit (s : State) (m : Memop) (va : Nat) : State := s.modMd fun d => { d with
  reqs := d.reqs.filter fun r => !ofMemop m.id va r.who
  held := d.held.filter fun h => !ofMemop m.id va h.req.who
  memops := d.memops.map fun x => if x.id = m.id then x.without va else x }

theorem State.memopDone_eq (s : State) (home : Nat) (m : Memop) (va bytes : Nat) :
    s.memopDone home m va bytes = (s.endUnit m va).memopArrive home m.id bytes := rfl

theorem State.endUnit_left {s : State} {m x : Memop} {va : Nat} (hx : x ∈ (s.endUnit m va).md.memops) (hi : x.id = m.id) (y : RangeUnit)
    (hy : y ∈ x.open_) : y.va ≠ va := by
  obtain ⟨z, -, rfl⟩ := List.mem_map.1 hx
  by_cases hz : z.id = m.id
  · rw [if_pos hz] at hy
    exact bne_iff_ne.1 (List.mem_filter.1 hy).2
  · rw [if_neg hz] at hi
    exact absurd hi hz

/-- A unit all of whose writes are answered sends its bytes' arrival. -/
theorem memopUnit_done_spec {s : State} {m : Memop} {later : List Memop} {cx : Context} (hq : s.md.memops = m :: later)
    (hc : s.ctx? m.ctx = some cx) (u : RangeUnit) (us : List RangeUnit) (ho : m.open_ = u :: us) (hst : u.stage = 2) (hleft : u.left = 0)
    (hr : ∀ n ∈ u.replies, s.landed n = true) (hp : u.poison = false) : s.Happens (.memopUnit u.home) fun t =>
      t.groups = s.groups ∧ t.mem = s.mem ∧ (∀ x ∈ t.md.memops, x.id = m.id → ∀ y ∈ x.open_, y.va ≠ u.va) ∧
      ∃ n, t.arrivals = s.arrivals ++
        [{ to_ := .name m.bid m.slot, a := 0, y := u.bytes, by_ := .engine m.gid m.lane, due := s.now, ticket := n }] := by
  have hall : u.replies.all s.landed = true := List.all_eq_true.2 hr
  have hstep : s.memopStep u.home m cx u = some ((s.endUnit m u.va).memopArrive u.home m.id u.bytes) := by
    simp [State.memopStep, State.memopFinish, State.memopDone_eq, hst, hleft, hall, hp]
  have hfind : ((s.endUnit m u.va).md.memops.find? fun x => x.id == m.id) = some (m.without u.va) := by
    have hmap : (s.endUnit m u.va).md.memops = s.md.memops.map fun x => if x.id = m.id then x.without u.va else x := rfl
    rw [hmap, hq, List.map_cons, if_pos rfl]
    exact List.find?_cons_of_pos (beq_self_eq_true m.id)
  obtain ⟨n, hg, hm, hsub, harr⟩ := State.memopArrive_spec hfind u.home u.bytes
  exact ⟨_, execMemopUnit_open hq hc ho hstep, hg, hm, fun x hx => State.endUnit_left (hsub x hx), n, harr⟩

/-! ### Granules (R57) -/

theorem granuleRelease_spec (s : State) (die block : Nat) (z : ZBlock) (hz : SMap.find? s.md.zblocks (17 * block + die) = some z)
    (hs : z.spare ≠ []) : s.Happens (.granuleRelease die block) fun t =>
      let k := 17 * z.ctx + die
      let taken := SMap.get 0 s.md.reserve k
      let back := min taken z.spare.length
      t = { s with md := { s.md with
        zblocks := if z.granules = [] then SMap.del s.md.zblocks (17 * block + die)
          else SMap.put s.md.zblocks (17 * block + die) { z with spare := [] }
        reserve := SMap.set 0 s.md.reserve k (taken - back)
        stock := SMap.set 0 s.md.stock die (SMap.get 0 s.md.stock die + (z.spare.length - back)) } } := by
  refine ⟨_, ?_, rfl⟩
  show execGranuleRelease die block s = _
  simp only [execGranuleRelease, hz, if_neg hs]
  rfl

/-- Settles O45, engine by engine: renewals, cells at their server and mirror, MEMOP units and granules. -/
theorem homeEngines : Obligations.HomeEngines := by
  unfold Obligations.HomeEngines
  intro s
  refine ⟨leaseRenewal_spec s, renewalReply_spec s, fun r rest die hq hs ht hl hc hr hf => ⟨?_, ?_, ?_, ?_⟩, cellMirrorUpdate_applies_spec s,
    cellMirrorUpdate_acked_spec s, ?_, ?_, ?_, ?_, granuleRelease_spec s⟩
  · exact cellOperation_retry_spec hq hs ht hl hc hr hf
  · exact cellOperation_read_spec hq hs ht hl hc hr hf
  · exact cellOperation_mirrored_spec hq hs ht hl hc hr hf
  · exact cellOperation_posted_spec hq hs ht hl hc hr hf
  · exact fun m later cx u us ia chk hq hc => memopUnit_ask_spec hq hc u us ia chk
  · exact fun m later cx u us hq hk hty hc => memopUnit_fill_spec hq hc u us hk hty
  · exact fun h later a hq hl hk hfree _ hz _ _ hp ha => heldElem_spec s h later a hq hl hk hfree hz hp ha
  · exact fun m later cx u us hq hc => memopUnit_done_spec hq hc u us

end Sys2Proof.Machine
end

section
/-! The completion of a management entry (R81, R83): what stands in the queue's memory, and the vector of the PF. -/

namespace Sys2Proof.Machine

/-! ### Bytes of the queue's memory -/

/-- Bytes written one after another from place `a + n` on. -/
theorem SMap.get_writeBytes (a : Nat) (bytes : List (BitVec 8)) : ∀ (n : Nat) (m : SMap (BitVec 8)) (k : Nat),
    SMap.get 0 ((bytes.zipIdx n).foldl (fun m x => SMap.set 0 m (a + x.2) x.1) m) k =
      if a + n ≤ k ∧ k < a + n + bytes.length then bytes.getD (k - (a + n)) 0 else SMap.get 0 m k := by
  induction bytes with
  | nil => intro n m k; rw [if_neg (by simp only [List.length_nil]; omega)]; rfl
  | cons b bs ih =>
    intro n m k
    rw [List.zipIdx_cons, List.foldl_cons, ih]
    by_cases hk : k = a + n
    · subst hk
      simp
    · rw [SMap.get_set_other _ _ _ _ _ hk]
      by_cases hr : a + n ≤ k ∧ k < a + n + (b :: bs).length
      · have hr' := hr
        rw [List.length_cons] at hr'
        rw [if_pos hr, if_pos (by omega), show k - (a + n) = k - (a + (n + 1)) + 1 by omega, List.getD_cons_succ]
      · have hr' := hr
        rw [List.length_cons] at hr'
        rw [if_neg hr, if_neg (by omega)]

theorem HostSide.ringRead_ringWrite_same (h : HostSide) (a : Nat) (bytes : List (BitVec 8)) :
    (h.ringWrite a bytes).ringRead a bytes.length = bytes := by
  refine List.ext_getElem (by simp [HostSide.ringRead]) fun k _ hk => ?_
  simp only [HostSide.ringRead, List.getElem_map, List.getElem_range, HostSide.ringWrite, SMap.get_writeBytes]
  rw [if_pos (by omega), show a + k - (a + 0) = k by omega, List.getD_eq_getElem _ _ hk]

theorem HostSide.ringRead_ringWrite_other (h : HostSide) (a b n : Nat) (bytes : List (BitVec 8))
    (hd : b + n ≤ a ∨ a + bytes.length ≤ b) : (h.ringWrite a bytes).ringRead b n = h.ringRead b n := by
  refine List.map_congr_left fun k hk => ?_
  rw [List.mem_range] at hk
  simp only [HostSide.ringWrite, SMap.get_writeBytes]
  rw [if_neg (by omega)]

/-! ### The entry, the consumer word and the producer word -/

/-- The host side once firmware has written the status and the result of the entry it has taken, and the consumer word; the producer word
is never behind. -/
def HostSide.completed (h : HostSide) (status : Nat) (result : List (BitVec 8)) : HostSide :=
  let n := h.consumer + 1
  let h1 := ((h.ringWrite (h.slot + 8) result).ringWrite (h.slot + 6) (toBytes 2 status)).ringWrite 0x4008 (toBytes 8 n)
  if h1.produced < n then h1.ringWrite 0x4000 (toBytes 8 n) else h1

/-- `k` is `h` but for the queue's memory. -/
def HostSide.SameButRing (h k : HostSide) : Prop := k = { h with ring := k.ring }

theorem HostSide.SameButRing.trans {h k m : HostSide} (a : h.SameButRing k) (b : k.SameButRing m) : h.SameButRing m := by
  unfold HostSide.SameButRing at *; rw [b, a]

theorem HostSide.ringWrite_frame (h : HostSide) (a : Nat) (bytes : List (BitVec 8)) : h.SameButRing (h.ringWrite a bytes) := rfl

theorem HostSide.completed_frame (h : HostSide) (status : Nat) (result : List (BitVec 8)) : h.SameButRing (h.completed status result) := by
  unfold HostSide.completed
  extract_lets n h1
  have h1_frame : h.SameButRing h1 :=
    (HostSide.ringWrite_frame ..).trans ((HostSide.ringWrite_frame ..).trans (HostSide.ringWrite_frame ..))
  split
  · exact h1_frame.trans (HostSide.ringWrite_frame ..)
  · exact h1_frame

theorem HostSide.slot_lt (h : HostSide) : h.slot + 8 ≤ 0x4000 := by
  unfold HostSide.slot
  omega

/-- The producer word is no part of what is read elsewhere. -/
theorem HostSide.ringRead_completed (h : HostSide) (status : Nat) (result : List (BitVec 8)) (b n : Nat) (hb : b + n ≤ 0x4000 ∨ 0x4008 ≤ b) :
    (h.completed status result).ringRead b n =
      (((h.ringWrite (h.slot + 8) result).ringWrite (h.slot + 6) (toBytes 2 status)).ringWrite 0x4008 (toBytes 8 (h.consumer + 1))).ringRead b n := by
  simp only [HostSide.completed]
  split
  · exact HostSide.ringRead_ringWrite_other _ _ _ _ _ (by rw [toBytes_length]; omega)
  · rfl

theorem HostSide.completed_status (h : HostSide) (status : Nat) (result : List (BitVec 8)) :
    (h.completed status result).ringRead (h.slot + 6) 2 = toBytes 2 status := by
  have hs := h.slot_lt
  rw [HostSide.ringRead_completed _ _ _ _ _ (by omega), HostSide.ringRead_ringWrite_other _ _ _ _ _ (by omega)]
  exact HostSide.ringRead_ringWrite_same _ _ (toBytes 2 status)

theorem HostSide.completed_consumer (h : HostSide) (status : Nat) (result : List (BitVec 8)) :
    (h.completed status result).ringRead 0x4008 8 = toBytes 8 (h.consumer + 1) := by
  rw [HostSide.ringRead_completed _ _ _ _ _ (by omega)]
  exact HostSide.ringRead_ringWrite_same _ _ (toBytes 8 (h.consumer + 1))

/-! ### The vector -/

theorem State.raiseVector_frame (s : State) (f v : Nat) : s.raiseVector f v =
    { s with host := { s.host with msix := (s.raiseVector f v).host.msix, funcs := (s.raiseVector f v).host.funcs } } := by
  simp only [State.raiseVector]
  split
  · rfl
  · split <;> rfl

theorem State.raiseVector_sent (s : State) (f v : Nat) (hf : (s.func f).flr = 0) (hm : SMap.get false (s.func f).masked v = false) :
    s.raiseVector f v = { s with host := { s.host with msix := s.host.msix ++ [(f, v)] } } := by
  simp [State.raiseVector, hf, hm]

/-! ### The answer -/

/-- The state before the vector of an answer is raised. -/
def State.completed (s : State) (h : MgmtHead) (status : Nat) (result : List (BitVec 8)) : State :=
  { s with host := { s.host.completed status result with
    consumer := s.host.consumer + 1
    mgmt := s.host.mgmt ++ [{ tag := h.tag, status := status, result := (result ++ toBytes 56 0).take 56 }] } }

theorem State.answerEntry_eq (s : State) (h : MgmtHead) (status : Nat) (result : List (BitVec 8)) :
    s.answerEntry h status result = (s.completed h status result).raiseVector 0 4 := rfl

theorem State.completed_func (s : State) (h : MgmtHead) (status : Nat) (result : List (BitVec 8)) (f : Nat) :
    (s.completed h status result).func f = s.func f := by
  have hc := s.host.completed_frame status result
  unfold HostSide.SameButRing at hc
  unfold State.func State.completed
  rw [hc]

theorem State.answerEntry_answered (s : State) (h : MgmtHead) (status : Nat) (result : List (BitVec 8)) :
    s.Answered (s.answerEntry h status result) h status result := by
  have hc := s.host.completed_frame status result
  have hstatus := s.host.completed_status status result
  have hconsumer := s.host.completed_consumer status result
  have hfunc := s.completed_func h status result 0
  rw [State.answerEntry_eq]
  have hraise := (s.completed h status result).raiseVector_frame 0 4
  unfold State.completed at *
  generalize s.host.completed status result = k at *
  unfold HostSide.SameButRing at hc
  refine ⟨?_, ?_, ?_, fun hf hm => ?_⟩
  · rw [hraise, hc]
  · rw [hraise]; exact hstatus
  · rw [hraise]; exact hconsumer
  · rw [State.raiseVector_sent _ _ _ (by rw [hfunc]; exact hf) (by rw [hfunc]; exact hm), hc]
    exact ⟨rfl, rfl⟩

/-- An operation that answers its entry in a state does what R83 says of an answer there. -/
theorem State.happens_answer {s u : State} {i : Instr} {h : MgmtHead} {status : Nat} {result : List (BitVec 8)}
    (e : exec i s = .next (u.answerEntry h status result)) : s.Happens i fun t => u.Answered t h status result :=
  ⟨_, e, State.answerEntry_answered u h status result⟩

end Sys2Proof.Machine
end

section
/-! Management of functions and contexts (R82 to R84, R88, R97, R98, R132): when an operation is refused, and what it does. -/

namespace Sys2Proof.Machine

theorem mgmtFunction_iff (h : MgmtHead) : mgmtFunction h = true ↔ h.fn < 64 ∧ h.ctx = 0xFF ∧ h.extra = false := by
  simp [mgmtFunction, and_assoc]

/-! ### WEIGHTS and EXPGRANT (R82, R83, R132) -/

theorem weights_set_spec (s : State) (h : MgmtHead) (iw aw : Nat) (hf : mgmtFunction h = true) (hi : 1 ≤ iw ∧ iw ≤ 255)
    (ha : 1 ≤ aw ∧ aw ≤ 255) :
    s.Happens (.weights h iw aw) fun t =>
      let u := s.setFunc h.fn { s.func h.fn with iw := iw, aw := aw, disabled := false }
      (if (s.func h.fn).flr = 5 then u.reviveFn h.fn else u).Answered t h 0 [] := by
  refine State.happens_answer (?_ : execWeights h iw aw s = _)
  rw [execWeights, if_neg (by simp [hf]; omega)]
  rfl

theorem weights_refused_spec (s : State) (h : MgmtHead) (iw aw : Nat)
    (hn : ¬(mgmtFunction h = true ∧ (1 ≤ iw ∧ iw ≤ 255) ∧ 1 ≤ aw ∧ aw ≤ 255)) :
    s.Happens (.weights h iw aw) fun t => s.Answered t h 2 [] := by
  refine State.happens_answer (?_ : execWeights h iw aw s = _)
  rw [execWeights, if_pos]
  by_cases hf : mgmtFunction h = true
  · simp only [hf, true_and] at hn
    simp [hf]; omega
  · simp [hf]

theorem expgrant_set_spec (s : State) (h : MgmtHead) (allow : Nat) (hf : mgmtFunction h = true) (h0 : h.fn ≠ 0) (ha : allow ≤ 1) :
    s.Happens (.expgrant h allow) fun t => (s.setFunc h.fn { s.func h.fn with expgrant := allow == 1 }).Answered t h 0 [] := by
  refine State.happens_answer (?_ : execExpgrant h allow s = _)
  rw [execExpgrant, if_neg (by simp [hf, h0]; omega)]
  rfl

theorem expgrant_refused_spec (s : State) (h : MgmtHead) (allow : Nat) (hn : ¬(mgmtFunction h = true ∧ h.fn ≠ 0 ∧ allow ≤ 1)) :
    s.Happens (.expgrant h allow) fun t => s.Answered t h 2 [] := by
  refine State.happens_answer (?_ : execExpgrant h allow s = _)
  rw [execExpgrant, if_pos]
  by_cases hf : mgmtFunction h = true
  · simp only [hf, true_and] at hn
    simp [hf]; omega
  · simp [hf]

/-! ### SEGSET (R97, R98) -/

/-- A segment with V = 1 after its fixed bits are set (R97). -/
def Segment.fixed (b l o : BitVec 64) : Segment :=
  { b := b &&& 0x00FFFFFFFFFFF03F, l := l &&& 0x00000FFFFFFFFFFF, o := o &&& 0x000FFFFFFFFFF000 }

theorem segmentOf_removed {b : BitVec 64} (l o : BitVec 64) (hb : b.getLsbD 0 = false) : segmentOf b l o = Segment.reset := by
  rw [segmentOf, hb]; rfl

theorem segmentOf_valid {b : BitVec 64} (l o : BitVec 64) (hb : b.getLsbD 0 = true) : segmentOf b l o = .fixed b l o := by
  rw [segmentOf, hb]; rfl

theorem Segment.fixed_valid {b : BitVec 64} (l o : BitVec 64) (hb : b.getLsbD 0 = true) : (Segment.fixed b l o).valid = true := by
  simp only [Segment.valid, Segment.fixed, BitVec.getLsbD_and, hb]
  decide

section
variable {s : State} {h : MgmtHead} {c : Nat} {cx : Context} (hc : s.named h = some c) (hx : s.ctx? c = some cx)
include hc hx

theorem segset_refused_spec (seg : Nat) (b l o : DWord) (hbad : 8 ≤ seg ∨ s.segBad c cx seg (segmentOf b l o) = true) :
    s.Happens (.segset h seg b l o) fun t => s.Answered t h 2 [] := by
  refine State.happens_answer (?_ : execSegset h seg b l o s = _)
  simp only [execSegset, hc, hx, Option.bind_some, Option.map_some]
  rw [if_pos (by simpa using hbad)]

theorem segset_put_spec (seg : Nat) (b l o : DWord) (h8 : seg < 8) (hok : s.segBad c cx seg (segmentOf b l o) = false) :
    s.Happens (.segset h seg b l o) fun t =>
      (s.setCtx c { cx with segs := SMap.set Segment.reset cx.segs seg (segmentOf b l o) }).Answered t h 0 [] := by
  refine State.happens_answer (?_ : execSegset h seg b l o s = _)
  simp only [execSegset, hc, hx, Option.bind_some, Option.map_some]
  rw [if_neg (by simp [hok]; omega)]
end

/-- A segment that does not stand is never refused. -/
theorem State.segBad_reset (s : State) (c : Nat) (cx : Context) (n : Nat) : s.segBad c cx n Segment.reset = false := by
  simp [State.segBad, Segment.valid, Segment.reset]

/-- The three refusals of R98, of a segment that stands. -/
theorem State.segBad_iff (s : State) (c : Nat) (cx : Context) (n : Nat) (g : Segment) (hv : g.valid = true) : s.segBad c cx n g = true ↔
    2 ^ 52 < g.offset * 4096 + (g.limit + 1) * 4096 ∨
    (∃ k < 8, k ≠ n ∧ (SMap.get Segment.reset cx.segs k).meets g = true) ∨
    (g.h = true ∧ ∃ x ∈ SMap.entries s.host.ctxs, x.1 ≠ c ∧ x.2.fn = cx.fn ∧ ∃ k < 8,
      (SMap.get Segment.reset x.2.segs k).h = true ∧ (SMap.get Segment.reset x.2.segs k).meets g = true) := by
  have hover : 2 ^ 52 ≤ g.offset * 4096 + (g.limit + 1) * 4096 - 1 ↔ 2 ^ 52 < g.offset * 4096 + (g.limit + 1) * 4096 := by omega
  simp only [State.segBad, hv, Bool.true_and, Bool.or_eq_true, Bool.and_eq_true, decide_eq_true_eq, List.any_eq_true, List.mem_range,
    bne_iff_ne, ne_eq, beq_iff_eq, hover, or_assoc, and_assoc]

/-! ### CTXRESET (R88, R133) -/

theorem ctxreset_spec {s : State} {h : MgmtHead} {c : Nat} (hc : s.named h = some c) :
    s.Happens (.ctxreset h) fun t => ∃ u, (s.discardCtx c).Logged u ∧ (u.oweStation c).Answered t h 0 [] := by
  refine ⟨(((s.discardCtx c).funcRecord h.fn 0 0x0403 0 h.fn c 0 0).oweStation c).answerEntry h 0 [], (?_ : execCtxreset h s = _), _,
    State.logRecord_logged .., State.answerEntry_answered ..⟩
  simp only [execCtxreset, hc]

/-! ### LOGSET of a function's log (R83, R84) -/

section
variable {s : State} {h : MgmtHead} (hf : mgmtFunction h = true)
include hf

theorem logset_removed_spec (n : Nat) : s.Happens (.logset h 0 n) fun t =>
    (s.setFunc h.fn { s.func h.fn with logBase := 0, logN := 0, logProd := 0 }).Answered t h 0 [] := by
  obtain ⟨hfn, hctx, hextra⟩ := (mgmtFunction_iff h).1 hf
  refine State.happens_answer (?_ : execLogset h 0 n s = _)
  simp [execLogset, hextra, hctx, Nat.not_le.2 hfn, State.modFunc]

theorem logset_refused_spec (base n : Nat) (hbad : base % 4096 ≠ 0 ∨ (base ≠ 0 ∧ (n < 6 ∨ 16 < n))) :
    s.Happens (.logset h base n) fun t => s.Answered t h 2 [] := by
  obtain ⟨-, -, hextra⟩ := (mgmtFunction_iff h).1 hf
  refine State.happens_answer (?_ : execLogset h base n s = _)
  simp only [execLogset]
  rw [if_pos]
  rcases hbad with hb | hb
  · simp [hb]
  · simp [hb]

theorem logset_placed_spec (base n : Nat) (h0 : base ≠ 0) (hp : base % 4096 = 0) (h6 : 6 ≤ n) (h16 : n ≤ 16)
    (hh : s.holdsArea h.fn none base (32 * 2 ^ n) = true) (ha : (s.areaSeg h.fn none (base - 16)).isSome = true) :
    s.Happens (.logset h base n) fun t => ∃ u,
      (s.setFunc h.fn { s.func h.fn with logBase := base, logN := n, logProd := 0 }).Wrote u ∧ u.Answered t h 0 [] := by
  obtain ⟨hfn, hctx, hextra⟩ := (mgmtFunction_iff h).1 hf
  refine ⟨_, (?_ : execLogset h base n s = .next (((s.setFunc h.fn { s.func h.fn with logBase := base, logN := n, logProd := 0 }).funcWrite
    h.fn none (base - 8) (toBytes 8 0)).answerEntry h 0 [])), _, State.funcWrite_wrote .., State.answerEntry_answered ..⟩
  have hsome : (s.areaSeg h.fn none (base - 16)).isNone = false := by simpa using ha
  simp only [execLogset]
  rw [if_neg (by simp [hextra, hp, h0]; omega), if_pos hctx, if_neg h0, if_neg (by simp [hh, hsome])]
  rfl

/-! ### CTXNEW (R132) -/

theorem ctxnew_spec {r : CtxReq} {l c cell : Nat} {t : State} (hr : ctxReqOk r = true) (hd : (s.func h.fn).disabled = false)
    (h0 : (s.func h.fn).flr = 0) (hx : r.ceil = 0 → h.fn = 0 ∨ (s.func h.fn).expgrant = true)
    (hl : (List.range (if h.fn = 0 then 128 else 32)).find? (fun k =>
      !((SMap.entries s.host.ctxs).filter (·.2.fn == h.fn)).any (·.2.lctx == k)) = some l)
    (hc : SMap.freeKey s.host.ctxs 0 128 = some c) (hcell : s.freeCells r.ncell = some cell) (hs : s.savesFit r.svunits = true)
    (ht : (s.setCtx c (newContext h.fn l cell s.now r)).startStation c = some t) :
    s.Happens (.ctxnew h r) fun u => t.Answered u h 0 (toBytes 2 c ++ toBytes 1 l ++ toBytes 1 0 ++ toBytes 4 cell) := by
  have hgrant : (r.ceil == 0 && h.fn != 0 && !(s.func h.fn).expgrant) = false := by
    by_cases hz : r.ceil = 0
    · rcases hx hz with hz | hz
      · simp [hz]
      · simp [hz]
    · simp [hz]
  refine State.happens_answer (?_ : execCtxnew h r s = _)
  simp only [execCtxnew, hf, hr, hgrant, hd, h0, hl, hc, hcell, hs, ht, Bool.not_true, Bool.or_self, Bool.false_eq_true, if_false, bne_self_eq_false]
end

/-! ### The statement -/

/-- Settles O38, operation by operation. -/
theorem managementOfFunctions : Obligations.ManagementOfFunctions := by
  unfold Obligations.ManagementOfFunctions
  intro s h
  simp only [← mgmtFunction_iff]
  refine ⟨fun iw aw => ⟨?_, ?_⟩, fun allow => ⟨?_, ?_⟩, fun c cx seg b l o hc hx => ?_, fun base n hf => ⟨?_, ?_, ?_⟩,
    fun r l c cell t hf hr hd h0 hx hl hc hcell hs ht => ctxnew_spec hf hr hd h0 hx hl hc hcell hs ht, fun c hc => ctxreset_spec hc⟩
  · exact fun ⟨hf, hi, hi', ha⟩ => weights_set_spec s h iw aw hf ⟨hi, hi'⟩ ha
  · exact fun hn => weights_refused_spec s h iw aw fun ⟨hf, ⟨hi, hi'⟩, ha⟩ => hn ⟨hf, hi, hi', ha⟩
  · exact fun ⟨hf, h0, ha⟩ => expgrant_set_spec s h allow hf h0 ha
  · exact expgrant_refused_spec s h allow
  · have hbad (hb : b.getLsbD 0 = true) := s.segBad_iff c cx seg (segmentOf b l o)
      (by rw [segmentOf_valid l o hb]; exact Segment.fixed_valid l o hb)
    refine ⟨fun h8 => segset_refused_spec hc hx seg b l o (.inl h8), fun h8 hb => ?_, fun h8 hb hover => ?_, fun h8 hb hmeets => ?_,
      fun h8 hb hfit hown hothers => ?_⟩
    · have hput := segset_put_spec hc hx seg b l o h8 (by rw [segmentOf_removed l o hb]; exact s.segBad_reset c cx seg)
      rwa [segmentOf_removed l o hb] at hput
    · refine segset_refused_spec hc hx seg b l o (.inr ((hbad hb).2 (.inl ?_)))
      rwa [segmentOf_valid l o hb]
    · refine segset_refused_spec hc hx seg b l o (.inr ((hbad hb).2 (.inr (.inl ?_))))
      rwa [segmentOf_valid l o hb]
    · have hput := segset_put_spec hc hx seg b l o h8 (Bool.eq_false_iff.2 fun hb' => ?_)
      · rwa [segmentOf_valid l o hb] at hput
      · have hwhy := (hbad hb).1 hb'
        rw [segmentOf_valid l o hb] at hwhy
        rcases hwhy with hover | ⟨k, hk, hne, hm⟩ | ⟨hh, x, hx', hne, hfn, k, hk, hkh, hm⟩
        · exact absurd hover (Nat.not_lt.2 hfit)
        · exact absurd ((hown k hk hne).symm.trans hm) (by decide)
        · exact absurd ((hothers hh x hx' hne hfn k hk hkh).symm.trans hm) (by decide)
  · rintro rfl; exact logset_removed_spec hf n
  · exact logset_refused_spec hf base n
  · exact fun h0 hp h6 h16 hh ha => logset_placed_spec hf base n h0 hp h6 h16 hh ha

end Sys2Proof.Machine
end

section
/-! What a platform's choice leaves of the time and the selected entries (R160, R161): the arrival of a group's entries, the traps they
take on the way and the revocation of freight change neither. -/

namespace Sys2Proof.Machine

/-- The time and the selected entries are as they were. -/
structure State.Steady (s t : State) : Prop where
  now : t.now = s.now
  issueQ : t.issueQ = s.issueQ

theorem State.Steady.refl (s : State) : s.Steady s := ⟨rfl, rfl⟩
theorem State.Steady.trans {s t u : State} (h : s.Steady t) (k : t.Steady u) : s.Steady u :=
  ⟨k.now.trans h.now, k.issueQ.trans h.issueQ⟩

theorem State.Wrote.steady {s t : State} (h : s.Wrote t) : s.Steady t := by
  unfold State.Wrote at h
  exact ⟨by rw [h], by rw [h]⟩
theorem State.SameButFab.steady {s t : State} (h : s.SameButFab t) : s.Steady t := by
  unfold State.SameButFab at h
  exact ⟨by rw [h], by rw [h]⟩

/-! ### Groups, blocks, cores and contexts -/

theorem State.setGroup_steady (s : State) (gid : Nat) (g : Group) : s.Steady (s.setGroup gid g) := ⟨rfl, rfl⟩
theorem State.modGroup_steady (s : State) (gid : Nat) (f : Group → Group) : s.Steady (s.modGroup gid f) := ⟨rfl, rfl⟩
theorem State.setBlock_steady (s : State) (bid : Nat) (b : Block) : s.Steady (s.setBlock bid b) := ⟨rfl, rfl⟩
theorem State.modBlock_steady (s : State) (bid : Nat) (f : Block → Block) : s.Steady (s.modBlock bid f) := ⟨rfl, rfl⟩
theorem State.modCore_steady (s : State) (c : Nat) (f : Core → Core) : s.Steady (s.modCore c f) := ⟨rfl, rfl⟩
theorem State.setCtx_steady (s : State) (c : Nat) (x : Context) : s.Steady (s.setCtx c x) := ⟨rfl, rfl⟩
theorem State.modCtx_steady (s : State) (c : Nat) (k : Context → Context) : s.Steady (s.modCtx c k) := ⟨rfl, rfl⟩
theorem State.modMd_steady (s : State) (f : MemDies → MemDies) : s.Steady (s.modMd f) := ⟨rfl, rfl⟩
theorem State.modXl_steady (s : State) (f : Xlate → Xlate) : s.Steady (s.modXl f) := ⟨rfl, rfl⟩

theorem State.squashGroup_steady (s : State) (gid : Nat) : s.Steady (s.squashGroup gid) := by
  have h := State.squashGroup_frame s gid
  exact ⟨by rw [h], by rw [h]⟩

/-! ### Logbook and trap record -/

theorem State.lbPut_steady (s : State) (c : Nat) (cx : Context) (bytes : List (BitVec 8)) : s.Steady (s.lbPut c cx bytes) := by
  simp only [State.lbPut]
  split
  · exact .refl s
  · split
    · exact (State.funcWrite_wrote ..).steady
    · exact (State.funcWrite_wrote ..).steady.trans ((State.funcWrite_wrote ..).steady.trans (State.modCtx_steady ..))

theorem State.groupLog_steady (s : State) (gid kind aux : Nat) (e : Nat × Nat) (data : List (BitVec 8)) :
    s.Steady (s.groupLog gid kind aux e data) := by
  simp only [State.groupLog, State.logbook]
  split
  · exact .refl s
  · split
    · exact .refl s
    · split
      · exact .refl s
      · split
        · exact .refl s
        · exact State.lbPut_steady ..

theorem State.ctxWrite_wrote (s t : State) (c va : Nat) (bytes : List (BitVec 8)) (e : s.ctxWrite c va bytes = .ok t) : s.Wrote t := by
  simp only [State.ctxWrite] at e
  split at e
  · cases e
  · refine foldl_keeps (fun r : Except Nat State => ∀ u, r = .ok u → s.Wrote u) _ _ _ ?_ ?_ t e
    · rintro u ⟨⟩; exact .refl s
    · intro r p hr u hu
      split at hu
      · cases hu
      · next s1 =>
        split at hu
        · cases hu
        · split at hu
          · cases hu
          · split at hu
            · cases hu
            · split at hu
              · next s2 hs2 => cases hu; exact (hr s1 rfl).trans (State.deviceWrite?_frame _ _ _ _ _ _ _ hs2)
              · cases hu

theorem State.freeRecord_steady (s : State) (ctx va : Nat) : s.Steady (s.freeRecord ctx va) := by
  simp only [State.freeRecord]
  split
  · exact .refl s
  · refine foldl_keeps (State.Steady s) _ _ _ ⟨rfl, rfl⟩ fun t p h => ?_
    split
    · exact h.trans (State.deviceWrite_frame ..).steady
    · exact h

theorem State.writeRecord_steady (s : State) (g : Group) (b : Block) (r : LateFault) : s.Steady (s.writeRecord g b r).1 := by
  simp only [State.writeRecord]
  split
  · next t e => exact (State.ctxWrite_wrote s t _ _ _ e).steady
  · exact State.freeRecord_steady ..

/-! ### Causes and traps -/

theorem State.enterTrap_steady (s : State) (gid i : Nat) (t : TrapReq) : s.Steady (s.enterTrap gid i t) := by
  unfold State.enterTrap
  split
  · exact .refl s
  · split
    · exact .refl s
    · extract_lets _ s0 _ _ w
      have hw : s.Steady w.1 := by
        unfold w
        split
        · exact (State.squashGroup_steady s gid).trans (State.writeRecord_steady ..)
        · exact State.squashGroup_steady s gid
      exact hw.trans ((State.groupLog_steady ..).trans (State.setGroup_steady ..))

theorem State.raise_steady (s : State) (gid i : Nat) (t : TrapReq) : s.Steady (s.raise gid i t) := by
  unfold State.raise
  split
  · exact .refl s
  · split
    · split
      · exact State.setGroup_steady ..
      · exact State.setGroup_steady ..
    · split
      · exact State.setGroup_steady ..
      · exact State.enterTrap_steady ..

theorem State.faultAt_steady (s : State) (gid i cause : Nat) (ls : BitVec 32) (record : Option LateFault) :
    s.Steady (s.faultAt gid i cause ls record).1 := by
  unfold State.faultAt
  split
  · exact .refl s
  · split
    · exact .refl s
    · split
      · exact State.raise_steady ..
      · exact State.setGroup_steady ..

theorem State.badClause_steady (s : State) (gid i : Nat) : s.Steady (s.badClause gid i) := by
  unfold State.badClause
  split
  · exact .refl s
  · exact (State.modGroup_steady ..).trans (State.faultAt_steady ..)

/-! ### A fetch at a home (R109, R116) -/

theorem State.message_steady (s : State) (i j tc : Nat) : s.Steady (s.message i j tc).1 := (State.message_fab s i j tc).steady

theorem State.bumpDelay_steady (s : State) (home src : Nat) : s.Steady (s.bumpDelay home src) := ⟨rfl, rfl⟩
theorem State.calmDelay_steady (s : State) (home src : Nat) : s.Steady (s.calmDelay home src) := ⟨rfl, rfl⟩

theorem State.gather_steady (s u : State) (die ia : Nat) (t : Rights) (w : Waiter) (ctx reason : Nat)
    (e : s.gather die ia t w ctx reason = some u) : s.Steady u := by
  simp only [State.gather] at e
  split at e
  · cases e; exact State.modXl_steady ..
  · split at e
    · cases e
    · cases e; exact (State.message_steady ..).trans (State.modXl_steady ..)

theorem State.engineAt_steady (s : State) (e : Engine) (ctx ia : Nat) (t : Rights) : s.Steady (s.engineAt e ctx ia t).1 := by
  unfold State.engineAt
  extract_lets home s0 answer refuse miss
  have h0 : s.Steady s0 := (State.message_steady ..).trans (State.modMd_steady ..)
  have hanswer (u : State) : u.Steady (answer u) := State.message_steady ..
  have hrefuse : s.Steady refuse.1 := h0.trans ((hanswer s0).trans ((State.modMd_steady ..).trans (State.bumpDelay_steady ..)))
  have hmiss (die reason : Nat) : s.Steady (miss die reason).1 := by
    unfold miss
    split
    · exact hrefuse
    · next u eu => exact h0.trans ((State.gather_steady _ _ _ _ _ _ _ _ eu).trans ((hanswer u).trans (State.calmDelay_steady ..)))
  split
  · exact .refl s
  · split
    · exact hrefuse
    · split
      · exact hmiss ..
      · split
        · exact hmiss ..
        · split
          · exact hmiss ..
          · exact h0.trans ((hanswer s0).trans (State.calmDelay_steady ..))

theorem State.fetchAt_steady (s : State) (gid : Nat) (b : Block) (ia : Nat) : s.Steady (s.fetchAt gid b ia).1 := by
  unfold State.fetchAt
  split
  · exact .refl s
  · split
    · exact .refl s
    · exact State.engineAt_steady ..

theorem State.fetch_steady (s : State) (gid : Nat) (g : Group) (b : Block) (clause : Nat) : s.Steady (s.fetch gid g b clause).1 := by
  unfold State.fetch
  split
  · exact .refl s
  · next ia _ =>
    have h1 := State.fetchAt_steady s gid b ia
    split
    · next e => rw [e] at h1; exact h1
    · next s1 l e =>
      rw [e] at h1
      extract_lets
      split
      · exact h1
      · next ib _ =>
        have h2 := State.fetchAt_steady s1 gid b ib
        split
        · next e2 => rw [e2] at h2; exact h1.trans h2
        · next e2 => rw [e2] at h2; exact h1.trans h2

/-! ### Arrival (R304) -/

theorem State.fetchFault_steady (s : State) (gid i : Nat) (g : Group) (e : Entry) (cause reason page : Nat) :
    s.Steady (s.fetchFault gid i g e cause reason page) := by
  unfold State.fetchFault
  split
  · exact .refl s
  · split
    · exact State.raise_steady ..
    · exact State.setGroup_steady ..

theorem State.takeCode_steady (s : State) (gid i : Nat) (g : Group) (e : Entry) (ws : List (BitVec 64)) :
    s.Steady (s.takeCode gid i g e ws) := by
  unfold State.takeCode
  split
  · split
    · exact .refl s
    · exact State.badClause_steady ..
  · extract_lets
    split
    · split
      · exact .refl s
      · exact State.setGroup_steady ..
    · exact State.setGroup_steady ..

theorem State.slotWait_steady (s : State) (gid i : Nat) (g : Group) (e : Entry) (h hb : Nat) (b : Block) (sl : Slot) :
    s.Steady (s.slotWait gid i g e h hb b sl) := by
  unfold State.slotWait State.waitFault
  split
  · extract_lets
    split
    · exact (State.setGroup_steady ..).trans (State.raise_steady ..)
    · exact State.setGroup_steady ..
  · extract_lets
    split
    · exact State.setGroup_steady ..
    · exact .refl s

theorem State.evalWait_steady (s : State) (gid i : Nat) (g : Group) (b : Block) (e : Entry) : s.Steady (s.evalWait gid i g b e) := by
  unfold State.evalWait
  extract_lets _ off
  have hoff (cause : Nat) : s.Steady (off cause) := by
    unfold off
    split
    · exact .refl s
    · exact State.setGroup_steady ..
  split
  · exact State.setGroup_steady ..
  · split
    · split
      · exact State.setGroup_steady ..
      · exact .refl s
    · split
      · split
        · exact .refl s
        · exact State.badClause_steady ..
      · split
        · exact hoff _
        · split
          · exact hoff _
          · split
            · exact hoff _
            · exact State.slotWait_steady ..

theorem State.settleEntry_steady (s : State) (gid i : Nat) : s.Steady (s.settleEntry gid i) := by
  unfold State.settleEntry
  split
  · exact .refl s
  · next g _ =>
    split
    · next b e _ _ =>
      extract_lets s1
      have h1 : s.Steady s1 := by
        unfold s1
        split
        · exact .refl s
        · have hf := State.fetch_steady s gid g b e.clause
          split
          · next ef => rw [ef] at hf; exact hf.trans (State.takeCode_steady ..)
          · next ef => rw [ef] at hf; exact hf
          · next ef => rw [ef] at hf; exact hf.trans (State.fetchFault_steady ..)
      split
      · split
        · exact h1.trans (State.evalWait_steady ..)
        · exact h1
      · exact h1
    · exact .refl s

theorem State.settleGroup_steady (s : State) (gid : Nat) : s.Steady (s.settleGroup gid) := by
  unfold State.settleGroup
  refine foldl_keeps (State.Steady s) _ _ _ (.refl s) fun t _ h => ?_
  split
  · split
    · exact h.trans (State.settleEntry_steady ..)
    · exact h
  · exact h

/-! ### Freight is revoked (R172, R174) -/

theorem State.reserveFor_steady (s t : State) (bid : Nat) (e : s.reserveFor bid = some t) : s.Steady t := by
  simp only [State.reserveFor] at e
  split at e
  · cases e
  · split at e
    · cases e; exact .refl s
    · obtain ⟨r, hr, rfl⟩ := Option.map_eq_some_iff.1 e
      simp only [State.reserveArea] at hr
      split at hr
      · cases hr
      · obtain ⟨a, -, rfl⟩ := Option.map_eq_some_iff.1 hr
        exact (State.setCtx_steady ..).trans (State.setBlock_steady ..)

theorem State.removeCmd_steady (s : State) (bid key : Nat) : s.Steady (s.removeCmd bid key) := ⟨rfl, rfl⟩

theorem State.haltBlock_steady (s : State) (bid : Nat) (ph : BlockPhase) : s.Steady (s.haltBlock bid ph) := by
  simp only [State.haltBlock]
  split
  · exact .refl s
  · refine foldl_keeps (State.Steady s) _ _ _ (State.Steady.trans ?_ (State.modBlock_steady ..)) fun t c h =>
      h.trans (State.removeCmd_steady t bid c.key)
    exact foldl_keeps (State.Steady s) _ _ _ (.refl s) fun t k h => h.trans ((State.squashGroup_steady t k).trans (State.modGroup_steady ..))

theorem State.preempt_steady (s t : State) (bid : Nat) (e : s.preempt bid = some t) : s.Steady t := by
  simp only [State.preempt] at e
  split at e
  · cases e
  · split at e
    · cases e
    · obtain ⟨u, hu, rfl⟩ := Option.map_eq_some_iff.1 e
      exact foldl_keeps (State.Steady s) _ _ _ ((State.reserveFor_steady s u bid hu).trans (State.haltBlock_steady ..)) fun v k h =>
        h.trans ((State.squashGroup_steady v k).trans (State.modGroup_steady ..))

theorem State.revoke_steady (s : State) (c : Nat) : s.Steady (s.revoke c) := by
  simp only [State.revoke]
  refine foldl_keeps (State.Steady s) _ _ _ ?_ fun t b h => ?_
  · exact foldl_keeps (State.Steady s) _ _ _ (State.modCore_steady ..) fun t b h =>
      foldl_keeps (State.Steady s) _ _ _ h fun u k hu => hu.trans (State.modGroup_steady ..)
  · cases e : t.preempt b.1 with
    | none => exact h
    | some u => exact h.trans (State.preempt_steady t u _ e)

/-! ### A platform that issues nothing -/

theorem State.lcrIdle_steady (s : State) (c p n : Nat) : s.Steady (s.lcrIdle c p n) := by
  unfold State.lcrIdle
  refine foldl_keeps (State.Steady s) _ _ _ (.refl s) fun t _ h => ?_
  split
  · split
    · exact h.trans (State.modCore_steady ..)
    · exact h
  · exact h

theorem State.hitComparator_steady (s : State) (gid : Nat) (g : Group) (e : Entry) (c : Nat) : s.Steady (s.hitComparator gid g e c) :=
  (State.setGroup_steady ..).trans (State.modBlock_steady ..)

end Sys2Proof.Machine
end

section
/-! What a platform selects (R78, R160 to R162): entries of one group, at most two; and the ready entry of its only group. -/

namespace Sys2Proof.Machine

/-! ### The entries of the chosen group (R162) -/

theorem Group.mostOf_nil (g : Group) : g.mostOf [] = none := rfl
theorem Group.mostOf_singleton (g : Group) (i : Nat) : g.mostOf [i] = some i := rfl

/-- At most two entries are chosen, and one where a pair issues. -/
theorem Group.chooseEntries_length (g : Group) (ready : List Nat) :
    (g.chooseEntries ready).1.length ≤ if (g.chooseEntries ready).2 then 1 else 2 := by
  simp only [Group.chooseEntries]
  split
  · simp
  · split
    · simp
    · split
      · simp
      · split
        · simp
        · simp only [Bool.false_eq_true, if_false, apply_ite List.length, List.length_cons, List.length_nil, ite_self, Nat.le_refl]

/-- A lone ready entry whose next word is no pair's first issues that word alone. -/
theorem Group.chooseEntries_singleton {g : Group} {i : Nat} {e : Entry} (he : g.entries[i]? = some e) (hp : e.pairAt e.word = false) :
    g.chooseEntries [i] = ([i], false) := by
  have hat : g.entries.getD i (Entry.at 0 0 0 0) = e := by rw [List.getD_eq_getElem?_getD, he]; rfl
  have hfirst : ([i].find? fun k => decide (1024 ≤ (g.entries.getD k (Entry.at 0 0 0 0)).idle)).or (g.mostOf [i]) = some i := by
    rw [Group.mostOf_singleton, List.find?_singleton]
    split <;> rfl
  simp only [Group.chooseEntries]
  rw [hfirst]
  simp only [hat, hp, Bool.false_eq_true, if_false]
  rw [show [i].filter (· != i) = [] by simp, Group.mostOf_nil]

/-- What is queued for a candidate: its chosen entries, each by its group and lowest lane, and a pair twice. -/
def Cand.queue (x : Cand) : List (Nat × Nat) :=
  let pick := x.g.chooseEntries x.ready
  let q := pick.1.map fun i => (x.gid, (lowest (x.g.entries.getD i (Entry.at 0 0 0 0)).mask).getD 0)
  if pick.2 then q ++ q else q

theorem Cand.queue_length (x : Cand) : x.queue.length ≤ 2 := by
  have h := x.g.chooseEntries_length x.ready
  simp only [Cand.queue]
  split
  · next hp => simp only [hp, if_true] at h; simp only [List.length_append, List.length_map]; omega
  · next hp => simp only [hp] at h; simpa using h

theorem Cand.queue_gid (x : Cand) : ∀ y ∈ x.queue, y.1 = x.gid := by
  intro y hy
  simp only [Cand.queue] at hy
  split at hy
  · simp only [List.mem_append, List.mem_map, or_self] at hy
    obtain ⟨i, -, rfl⟩ := hy; rfl
  · obtain ⟨i, -, rfl⟩ := List.mem_map.1 hy; rfl

theorem State.issue_issueQ (s : State) (c p : Nat) (st : Platform) (x : Cand) : (s.issue c p st x).issueQ = x.queue := by
  simp only [State.issue]
  split
  · split <;> rfl
  · rfl

theorem State.issue_now (s : State) (c p : Nat) (st : Platform) (x : Cand) : (s.issue c p st x).now = s.now := by
  simp only [State.issue]
  split
  · split <;> rfl
  · rfl

/-! ### What a choice leads to -/

/-- A platform issues for a candidate of a state in which nothing has been selected, or selects nothing. -/
theorem State.selectOn_cases (s : State) (c p : Nat) :
    s.Steady (s.selectOn c p) ∨ ∃ u st x, s.Steady u ∧ s.selectOn c p = u.issue c p st x := by
  unfold State.selectOn
  extract_lets s1 cs0 express s2 cs st idle go
  have h1 : s.Steady s1 := foldl_keeps (State.Steady s) _ _ _ (.refl s) fun t _ h => h.trans (State.settleGroup_steady ..)
  have h2 : s.Steady s2 := by
    unfold s2
    split
    · refine State.Steady.trans ?_ (State.modCore_steady ..)
      split
      · exact h1.trans (State.revoke_steady ..)
      · exact h1
    · exact h1
  have hgo (q : Platform) (x : Cand) : s.Steady (go q x) ∨ ∃ u st x', s.Steady u ∧ go q x = u.issue c p st x' := by
    unfold go
    split
    · exact .inl (h2.trans ((State.hitComparator_steady ..).trans (State.lcrIdle_steady ..)))
    · exact .inr ⟨s2, q, x, h2, rfl⟩
  split
  · exact hgo ..
  · split
    · exact hgo ..
    · exact .inl (h2.trans ((State.modCore_steady ..).trans (State.lcrIdle_steady ..)))

theorem execIssueSelect_next {s : State} {c p : Nat} (hq : s.issueQ = []) (hp : s.guard.power = 0) (hs : s.served c p ≠ []) :
    execIssueSelect c p s = .next (s.selectOn c p) := by
  simp [execIssueSelect, hq, hp, hs]

theorem State.selectOn_queue (s : State) (c p : Nat) (hq : s.issueQ = []) : (s.selectOn c p).now = s.now ∧
    (s.selectOn c p).issueQ.length ≤ 2 ∧ ∃ k, ∀ x ∈ (s.selectOn c p).issueQ, x.1 = k := by
  rcases s.selectOn_cases c p with h | ⟨u, st, x, hu, e⟩
  · rw [h.issueQ, hq]
    exact ⟨h.now, by simp, 0, by simp⟩
  · rw [e, State.issue_now, State.issue_issueQ]
    exact ⟨hu.now, x.queue_length, x.gid, x.queue_gid⟩

/-! ### The choice of a platform with one ready group (R78, R161) -/

theorem Platform.keeps_mem {st : Platform} {now : Nat} {cs : List Cand} {x : Cand} (h : st.keeps now cs = some x) : x ∈ cs := by
  simp only [Platform.keeps] at h
  split at h
  · cases h
  · next y hy =>
    split at h
    · cases h
    · cases h
      obtain ⟨k, -, hk⟩ := Option.bind_eq_some_iff.1 hy
      exact List.mem_of_find?_eq_some hk

theorem calendar_singleton (iw : Nat → Nat) (credits : SMap Int) (f : Nat) : (calendar iw credits [f]).1 = some f := rfl

theorem State.choose_singleton (s : State) (st : Platform) (x : Cand) (hc : x.g.cls ≤ 4) : (s.choose st [x]).1 = some x := by
  have hmin : ([x].map (·.g.cls)).foldl min 4 = x.g.cls := by simp [hc]
  have htop : [x].filter (fun y => y.g.cls == x.g.cls) = [x] := by simp
  have hfn : ([x].map (·.fn)).eraseDups = [x.fn] := rfl
  have hmine : [x].filter (fun y => y.fn == x.fn) = [x] := by simp
  simp only [State.choose, hmin, htop, hfn, calendar_singleton, hmine]
  rfl

theorem State.comparatorOf_debugOff {s : State} {ctx : Nat} (h : s.debugOn ctx = false) (g : Group) (e : Entry) :
    s.comparatorOf ctx g e = none := by
  simp [State.comparatorOf, State.comparator, h]

theorem State.stopsAt_debugOff {s : State} {x : Cand} (h : s.debugOn x.ctx = false) : s.stopsAt x = none := by
  simp only [State.stopsAt, List.findSome?_eq_none_iff]
  intro i _
  cases x.g.entries[i]? with
  | none => rfl
  | some e => simp [State.comparatorOf_debugOff h]

/-- The only candidate, of a class other than express and with no comparator in its way, issues. -/
theorem State.selectOn_only {s s1 : State} {c p : Nat} {x : Cand} (h1 : ((s.served c p).map (·.1)).foldl State.settleGroup s = s1)
    (hg : s1.gated c = false) (hx : s1.candidates c p = [x]) (h0 : x.g.cls ≠ 0) (h4 : x.g.cls ≤ 4) (hd : s1.debugOn x.ctx = false) :
    ∃ st, s.selectOn c p = s1.issue c p st x := by
  unfold State.selectOn
  rw [h1]
  have hexpress : ([x].any fun y => y.g.cls == 0) = false := by simp [h0]
  simp only [hg, Bool.false_eq_true, if_false, hx, hexpress]
  split
  · next y hy =>
    obtain rfl : y = x := by simpa using Platform.keeps_mem hy
    simp only [State.stopsAt_debugOff hd]
    exact ⟨_, rfl⟩
  · have hchoice := s1.choose_singleton (SMap.get Platform.reset (s1.core c).platforms p) x h4
    split
    · next y cr e =>
      rw [e] at hchoice
      obtain rfl : y = x := by simpa using hchoice
      simp only [State.stopsAt_debugOff hd]
      exact ⟨_, rfl⟩
    · next e => rw [e] at hchoice; cases hchoice

theorem State.candidates_singleton {s : State} {c p gid : Nat} {g : Group} {b : Block} {cx : Context} {i : Nat}
    (hs : s.served c p = [(gid, g)]) (hb : s.block? g.bid = some b) (hx : s.ctx? b.ctx = some cx) (hr : s.readyEntries c gid = [i]) :
    s.candidates c p = [{ gid := gid, g := g, fn := cx.fn, ctx := b.ctx, ready := [i] }] := by
  simp [State.candidates, hs, hb, hx, hr]

theorem lowest_isSome {m : BitVec 32} (h : m ≠ 0) : ∃ l, lowest m = some l := by
  rw [← Option.isSome_iff_exists, lowest, List.isSome_head?, Ne]
  intro he
  refine h (BitVec.eq_of_getLsbD_eq fun l hl => ?_)
  have hn : l ∉ lanes m := by rw [he]; exact List.not_mem_nil
  rw [mem_lanes] at hn
  simpa [hl, lane] using hn

theorem issueSelect_spec (s : State) (c p gid : Nat) (hq : s.issueQ = []) (hp : s.guard.power = 0) (hs : s.served c p ≠ []) :
    s.Happens (.issueSelect c p) fun t =>
      t.now = s.now ∧ t.issueQ.length ≤ 2 ∧ (∃ k, ∀ x ∈ t.issueQ, x.1 = k) ∧
      ∀ g i e b cx, (s.served c p).map (·.1) = [gid] → let s1 := s.settleGroup gid
        s1.served c p = [(gid, g)] → s1.readyEntries c gid = [i] → g.entries[i]? = some e → e.mask ≠ 0 →
        s1.block? g.bid = some b → s1.ctx? b.ctx = some cx → s1.gated c = false → s1.debugOn b.ctx = false →
        g.cls ≠ 0 → g.cls < 4 → e.pairAt e.word = false → ∃ l, lowest e.mask = some l ∧ t.issueQ = [(gid, l)] := by
  obtain ⟨hnow, hlen, hgid⟩ := s.selectOn_queue c p hq
  refine ⟨_, execIssueSelect_next hq hp hs, hnow, hlen, hgid, ?_⟩
  intro g i e b cx hone s1 hserved hready he hm hb hx hgate hd h0 h4 hpair
  obtain ⟨l, hl⟩ := lowest_isSome hm
  obtain ⟨st, hsel⟩ := State.selectOn_only (s := s) (s1 := s1) (by rw [hone]; rfl) hgate (State.candidates_singleton hserved hb hx hready) h0
    (Nat.le_of_lt h4) hd
  refine ⟨l, hl, ?_⟩
  rw [hsel, State.issue_issueQ]
  simp only [Cand.queue, Group.chooseEntries_singleton he hpair, Bool.false_eq_true, if_false, List.map_cons, List.map_nil,
    List.getD_eq_getElem?_getD, he, Option.getD_some, hl]

end Sys2Proof.Machine
end

section
/-! The lanes that stand in a split table (R153 to R159, R189): giving identifiers back and fusing keep them, a switch-off takes them out. -/

namespace Sys2Proof.Machine

/-! ### Lanes of the table -/

theorem lane_foldl_or {α : Type} (f : α → BitVec 32) (l : Nat) (es : List α) : ∀ m : BitVec 32,
    lane (es.foldl (fun m e => m ||| f e) m) l = (lane m l || es.any fun e => lane (f e) l) := by
  induction es with
  | nil => intro m; simp
  | cons e es ih => intro m; rw [List.foldl_cons, ih, lane_or, List.any_cons, Bool.or_assoc]

theorem lane_zero (l : Nat) : lane 0 l = false := by simp [lane]

theorem eq_of_lanes {a b : BitVec 32} (h : ∀ l, lane a l = lane b l) : a = b := BitVec.eq_of_getLsbD_eq fun l _ => h l

theorem Group.lane_live (g : Group) (l : Nat) : lane g.live l = g.entries.any fun e => lane e.mask l := by
  rw [Group.live, lane_foldl_or, lane_zero, Bool.false_or]

theorem Group.live_of_masks {g h : Group} (e : g.entries.map (·.mask) = h.entries.map (·.mask)) : g.live = h.live := by
  have hlive (k : Group) : k.live = (k.entries.map (·.mask)).foldl (fun m x => m ||| x) 0 := by rw [List.foldl_map]; rfl
  rw [hlive, hlive, e]

theorem Group.entryOf_of_masks {g h : Group} (e : g.entries.map (·.mask) = h.entries.map (·.mask)) (ls : BitVec 32) :
    g.entryOf ls = h.entryOf ls := by
  have hof (k : Group) : k.entryOf ls = (k.entries.map (·.mask)).findIdx? fun m => m &&& ls != 0 := by rw [List.findIdx?_map]; rfl
  rw [hof, hof, e]

/-! ### Identifiers given back (R154, R156) -/

theorem Group.dropIdent_masks (g : Group) (n : Nat) : (g.dropIdent n).entries.map (·.mask) = g.entries.map (·.mask) := by
  simp only [Group.dropIdent, List.map_map]
  refine List.map_congr_left fun e _ => ?_
  simp only [Function.comp_apply]
  split <;> rfl

theorem Group.collapse_masks (g : Group) : g.collapse.entries.map (·.mask) = g.entries.map (·.mask) := by
  refine foldl_keeps (fun h : Group => h.entries.map (·.mask) = g.entries.map (·.mask)) _ _ g rfl fun h _ hh => ?_
  simp only [Group.collapseOnce]
  split
  · exact hh
  · exact (Group.dropIdent_masks ..).trans hh

theorem Group.collapse_live (g : Group) : g.collapse.live = g.live := Group.live_of_masks g.collapse_masks

/-! ### Fusing (R156, R157) -/

/-- Of the entries that pass a test, the one at the first place stands for all. -/
def fusedEntries (es : List Entry) (same : Entry → Bool) (first : Nat) (lead : Entry) : List Entry :=
  (es.zipIdx.filter fun f => !same f.1 || f.2 == first).map fun f => if f.2 == first then lead else f.1

theorem any_fusedEntries {es : List Entry} {same : Entry → Bool} {first : Nat} {lead : Entry} {p : Entry → Bool}
    (hfirst : es.findIdx? same = some first) (hlead : p lead = (es.filter same).any p) :
    (fusedEntries es same first lead).any p = es.any p := by
  obtain ⟨hlt, hsame, -⟩ := List.findIdx?_eq_some_iff_getElem.1 hfirst
  rw [Bool.eq_iff_iff, List.any_eq_true, List.any_eq_true]
  constructor
  · rintro ⟨x, hx, hp⟩
    obtain ⟨⟨e, k⟩, hf, rfl⟩ := List.mem_map.1 hx
    by_cases hk : k = first
    · simp only [hk, beq_self_eq_true, if_true] at hp
      obtain ⟨e', he', hp'⟩ := List.any_eq_true.1 (hlead ▸ hp)
      exact ⟨e', (List.mem_filter.1 he').1, hp'⟩
    · simp only [beq_iff_eq, hk, if_false] at hp
      exact ⟨e, List.fst_mem_of_mem_zipIdx (List.mem_filter.1 hf).1, hp⟩
  · rintro ⟨e, he, hp⟩
    have hplace {k : Nat} (hk : k < es.length) : (es[k], k) ∈ es.zipIdx := List.mem_zipIdx_iff_getElem?.2 (List.getElem?_eq_getElem hk)
    by_cases hs : same e = true
    · refine ⟨lead, List.mem_map.2 ⟨(es[first], first), List.mem_filter.2 ⟨hplace hlt, by simp⟩, by simp⟩, ?_⟩
      rw [hlead]
      exact List.any_eq_true.2 ⟨e, List.mem_filter.2 ⟨he, hs⟩, hp⟩
    · obtain ⟨k, hk, rfl⟩ := List.getElem_of_mem he
      have hne : k ≠ first := by rintro rfl; exact hs hsame
      exact ⟨es[k], List.mem_map.2 ⟨(es[k], k), List.mem_filter.2 ⟨hplace hk, by simp [hs]⟩, by simp [hne]⟩, hp⟩

/-- Entries that fuse become one entry, which holds the lanes of all. -/
theorem Group.fuseAt_cases (g : Group) (i : Nat) (conv : Bool) : g.fuseAt i conv = g ∨ ∃ same first lead,
    g.entries.findIdx? same = some first ∧ lead.mask = (g.entries.filter same).foldl (fun m e => m ||| e.mask) 0 ∧
    g.fuseAt i conv = ({ g with entries := fusedEntries g.entries same first lead } : Group).collapse := by
  unfold Group.fuseAt
  split
  · exact .inl rfl
  · next e _ =>
    split
    · exact .inl rfl
    · extract_lets same members m first lead keep
      split
      · exact .inl rfl
      · next hlen =>
        obtain ⟨x, hx⟩ := List.exists_mem_of_length_pos (l := members) (by omega)
        obtain ⟨hxe, hxs⟩ := List.mem_filter.1 hx
        obtain ⟨k, hk⟩ := Option.isSome_iff_exists.1 (List.findIdx?_isSome.trans (List.any_eq_true.2 ⟨x, hxe, hxs⟩))
        have hfirst : first = k := by unfold first; rw [hk]; rfl
        exact .inr ⟨same, first, { lead with mask := m, waited := members.all (·.waited), code := lead.code.or e.code, idle := 0 },
          hfirst ▸ hk, rfl, rfl⟩

theorem Group.fuseAt_live (g : Group) (i : Nat) (conv : Bool) : (g.fuseAt i conv).live = g.live := by
  rcases g.fuseAt_cases i conv with h | ⟨same, first, lead, hfirst, hmask, h⟩
  · rw [h]
  · rw [h, Group.collapse_live]
    refine eq_of_lanes fun l => ?_
    rw [Group.lane_live, Group.lane_live]
    refine any_fusedEntries (p := fun e => lane e.mask l) hfirst ?_
    rw [hmask, lane_foldl_or, lane_zero, Bool.false_or]

/-! ### Switching lanes off (R189) -/

theorem Group.lane_live_retireIn {g : Group} {ls : BitVec 32} {l : Nat} (hl : l < 32) (h : lane (g.retireIn ls).live l = true) :
    lane g.live l = true ∧ lane ls l = false := by
  simp only [Group.retireIn] at h
  generalize hout : (if g.live &&& ~~~(ls &&& g.live) &&& ~~~g.helper = 0 then g.live else ls &&& g.live) = out at h
  rw [Group.collapse_live, Group.lane_live, List.any_eq_true] at h
  obtain ⟨x, hx, hxl⟩ := h
  obtain ⟨e, he, rfl⟩ := List.mem_map.1 (List.mem_filter.1 hx).1
  simp only [lane_and, lane_not _ _ hl, Bool.and_eq_true, Bool.not_eq_true'] at hxl
  have hlive : lane g.live l = true := by rw [Group.lane_live]; exact List.any_eq_true.2 ⟨e, he, hxl.1⟩
  refine ⟨hlive, Bool.eq_false_iff.2 fun hls => ?_⟩
  have hno := hxl.2
  rw [← hout] at hno
  split at hno
  · rw [hlive] at hno; cases hno
  · rw [lane_and, hls, hlive] at hno; cases hno

theorem Group.live_fmask (g : Group) (f : BitVec 64) : ({ g with fmask := f } : Group).live = g.live := Group.live_of_masks rfl

/-- FMASK after lanes are switched off for a cause (R189). -/
def fmaskAfter (f : BitVec 64) (ls : BitVec 32) (cause : Nat) : BitVec 64 :=
  let old := bits f.toNat 0 32
  let c := bits f.toNat 32 16
  let multi := bitAt f.toNat 48 || (old != 0 && c != cause)
  BitVec.ofNat 64 ((old ||| ls.toNat) + (if old = 0 then cause else c) * 2 ^ 32 + (if multi then 2 ^ 48 else 0))

theorem Group.switchOff_eq (g : Group) {ls : BitVec 32} (cause : Nat) (h : ls ≠ 0) :
    g.switchOff ls cause = ({ g with fmask := fmaskAfter g.fmask ls cause } : Group).retire ls := if_neg h

theorem Group.retire_running {g : Group} (h : g.fw = false) (ls : BitVec 32) : g.retire ls = g.retireIn ls := by
  rw [Group.retire, h]; rfl
theorem Group.retire_fmask (g : Group) (ls : BitVec 32) : (g.retire ls).fmask = g.fmask := by rw [Group.retire_frame]

theorem Group.lane_live_switchOff {g : Group} {ls : BitVec 32} {cause l : Nat} (hfw : g.fw = false) (hl : l < 32)
    (h : lane (g.switchOff ls cause).live l = true) : lane g.live l = true ∧ lane ls l = false := by
  by_cases h0 : ls = 0
  · subst h0
    exact ⟨h, lane_zero l⟩
  · rw [Group.switchOff_eq g cause h0, Group.retire_running (by exact hfw)] at h
    have hretired := Group.lane_live_retireIn hl h
    rwa [Group.live_fmask] at hretired

/-- FMASK after a switch-off follows from FMASK before it alone. -/
theorem Group.switchOff_fmask_congr {g h : Group} (e : g.fmask = h.fmask) (ls : BitVec 32) (cause : Nat) :
    (g.switchOff ls cause).fmask = (h.switchOff ls cause).fmask := by
  by_cases h0 : ls = 0
  · subst h0
    exact e
  · rw [Group.switchOff_eq g cause h0, Group.switchOff_eq h cause h0, Group.retire_fmask, Group.retire_fmask, e]

end Sys2Proof.Machine
end

section
/-! A speculated branch resolves (R169): what of the group it leaves, and that a right prediction leaves its registers. -/

namespace Sys2Proof.Machine

/-! ### Shadow copies -/

/-- `h` is `g` but for v registers, predicates and FSTAT. -/
def Group.SameButShadowed (g h : Group) : Prop := h = { g with v := h.v, p := h.p, fstat := h.fstat }

theorem Group.SameButShadowed.trans {g h k : Group} (a : g.SameButShadowed h) (b : h.SameButShadowed k) : g.SameButShadowed k := by
  unfold Group.SameButShadowed at *; rw [b, a]

theorem Group.unshadow_frame (g : Group) (ls : BitVec 32) (shs : List Shadow) (fs : List (BitVec 32)) :
    g.SameButShadowed (g.unshadow ls shs fs) := by
  simp only [Group.unshadow]
  refine foldl_keeps (Group.SameButShadowed g) _ _ _ ?_ fun h l hh => hh.trans rfl
  refine foldl_keeps (Group.SameButShadowed g) _ _ g rfl fun h sh hh => ?_
  have hv : g.SameButShadowed (sh.vs.foldl (fun h x => (lanes (ls &&& sh.lanes)).foldl (fun k l => k.setV x.1 l (x.2.getD l 0)) h) h) :=
    foldl_keeps (Group.SameButShadowed g) _ _ h hh fun k x hk => foldl_keeps (Group.SameButShadowed g) _ _ k hk fun m l hm => hm.trans rfl
  split
  · exact hv
  · refine foldl_keeps (Group.SameButShadowed g) _ _ _ hv fun k i hk => hk.trans ?_
    unfold Group.SameButShadowed
    rw [Group.setPreds_frame]

/-- `h` has the v registers, FSTAT and predicates of `g`. -/
def Group.SameRegs (g h : Group) : Prop := h.v = g.v ∧ h.fstat = g.fstat ∧ ∀ k l, h.pred k l = g.pred k l

theorem Group.setPreds_none (g : Group) (i k l : Nat) (vs : BitVec 32) : (g.setPreds i 0 vs).pred k l = g.pred k l := by
  have hkept : (g.predMask i &&& ~~~0) ||| (vs &&& 0) = g.predMask i :=
    BitVec.eq_of_getLsbD_eq fun l hl => by simp [-BitVec.not_zero, -BitVec.reduceNot, hl]
  unfold Group.setPreds
  split
  · rw [hkept]
    unfold Group.pred Group.predMask Group.setPredMask
    by_cases e : k = i
    · subst e; rw [SMap.get_set_same]
    · rw [SMap.get_set_other _ _ _ _ _ e]
  · rfl

/-- With no lane to restore every register stays. -/
theorem Group.unshadow_none (g : Group) (shs : List Shadow) (fs : List (BitVec 32)) : g.SameRegs (g.unshadow 0 shs fs) := by
  have hz : lanes 0 = [] := by decide
  have hand (m : BitVec 32) : 0 &&& m = 0 := BitVec.zero_and
  simp only [Group.unshadow, hand, hz, List.foldl_nil]
  refine foldl_keeps (Group.SameRegs g) _ _ g ⟨rfl, rfl, fun _ _ => rfl⟩ fun h sh hh => ?_
  have hv : sh.vs.foldl (fun (h : Group) _ => h) h = h := foldl_keeps (· = h) _ _ h rfl fun _ _ e => e
  rw [hv]
  split
  · exact hh
  · refine foldl_keeps (Group.SameRegs g) _ _ h hh fun k i ⟨hkv, hkf, hkp⟩ => ⟨?_, ?_, fun j l => ?_⟩
    · rw [Group.setPreds_frame]; exact hkv
    · rw [Group.setPreds_frame]; exact hkf
    · rw [Group.setPreds_none]; exact hkp j l

/-! ### The group -/

theorem Group.dropLogLanes_empty {g : Group} (h : SMap.entries g.oplog = []) (ls : BitVec 32) : g.dropLogLanes ls = g := by
  simp only [Group.dropLogLanes, h, List.foldl_nil]

/-- `h` is `g` but for the split table and the prediction table. -/
def Group.SameButTables (g h : Group) : Prop := h = { g with entries := h.entries, up := h.up, preds := h.preds }

theorem Group.SameButTables.refl (g : Group) : g.SameButTables g := rfl
theorem Group.SameButTables.trans {g h k : Group} (a : g.SameButTables h) (b : h.SameButTables k) : g.SameButTables k := by
  unfold Group.SameButTables at *; rw [b, a]
theorem Group.collapse_tables (g : Group) : g.SameButTables g.collapse := by
  unfold Group.SameButTables; rw [Group.collapse_frame]
theorem Group.fuseAt_tables (g : Group) (i : Nat) (conv : Bool) : g.SameButTables (g.fuseAt i conv) := by
  unfold Group.SameButTables; rw [Group.fuseAt_frame]
theorem Group.train_tables (g : Group) (clause : Nat) (m t : BitVec 32) : g.SameButTables (g.train clause m t) := rfl

theorem Group.SameButTables.registers {g h : Group} (k : g.SameButTables h) : h.v = g.v ∧ h.s = g.s ∧ h.p = g.p ∧ h.fstat = g.fstat := by
  unfold Group.SameButTables at k; rw [k]; exact ⟨rfl, rfl, rfl, rfl⟩
theorem Group.SameButTables.rest {g h : Group} (k : g.SameButTables h) : h.exited = g.exited ∧ h.oplog = g.oplog ∧ h.specs = g.specs := by
  unfold Group.SameButTables at k; rw [k]; exact ⟨rfl, rfl, rfl⟩

/-- The group with the lanes that went wrong at a branch restored, and the branch speculated on no more. -/
def Group.undone (g : Group) (sp : Spec) (ls : BitVec 32) : Group :=
  { g.unshadow ls sp.shadows sp.fShadow with specs := g.specs.filter (·.ident != sp.ident) }

theorem Group.undone_rest (g : Group) (sp : Spec) (ls : BitVec 32) : (g.undone sp ls).exited = g.exited ∧ (g.undone sp ls).s = g.s ∧
    (g.undone sp ls).oplog = g.oplog := by
  have hu := g.unshadow_frame ls sp.shadows sp.fShadow
  unfold Group.SameButShadowed at hu
  unfold Group.undone
  rw [hu]
  exact ⟨rfl, rfl, rfl⟩

theorem Group.undone_none (g : Group) (sp : Spec) : g.SameRegs (g.undone sp 0) := g.unshadow_none sp.shadows sp.fShadow

/-- With an empty log a resolution restores the wrong lanes, and beside that changes the tables alone. -/
theorem Group.resolve_frame (g : Group) (sp : Spec) (h : SMap.entries g.oplog = []) :
    (g.undone sp (g.resolve sp).2).SameButTables (g.resolve sp).1 := by
  generalize hr : g.resolve sp = r
  unfold Group.resolve at hr
  extract_lets t mine ls wrongT wrongN wrong g1 kept new g2 conv g3 at hr
  subst hr
  have hu := g.unshadow_frame wrong sp.shadows sp.fShadow
  unfold Group.SameButShadowed at hu
  have hlog : SMap.entries (g.unshadow wrong sp.shadows sp.fShadow).oplog = [] := by rw [hu]; exact h
  have hspecs : (g.unshadow wrong sp.shadows sp.fShadow).specs = g.specs := by rw [hu]
  have h1 : g1 = g.unshadow wrong sp.shadows sp.fShadow := Group.dropLogLanes_empty hlog wrong
  have h2 : (g.undone sp wrong).SameButTables g2 := by
    unfold g2 Group.SameButTables Group.undone
    rw [h1, hlog, hspecs]
    rfl
  have h3 : g2.SameButTables g3 :=
    foldl_keeps (Group.SameButTables g2) _ _ g2 (.refl g2) fun k i hk => hk.trans (Group.fuseAt_tables ..)
  dsimp only
  exact h2.trans (h3.trans ((Group.train_tables ..).trans (Group.collapse_tables _)))

theorem Group.resolve_right (g : Group) (sp : Spec) (h : sp.predicted = g.active sp.guard sp.mask) : (g.resolve sp).2 = 0 := by
  simp only [Group.resolve, ← h]
  simp

/-! ### The state -/

/-- `t` is `s` but for the cores and the requests under way. -/
def State.SameButRequests (s t : State) : Prop := t = { s with cores := t.cores, md := t.md }

theorem State.SameButRequests.trans {s t u : State} (h : s.SameButRequests t) (k : t.SameButRequests u) : s.SameButRequests u := by
  unfold State.SameButRequests at *; rw [k, h]

theorem State.squashLcr_requests (s : State) (gid : Nat) (hit : LcrIssue → BitVec 32) : s.SameButRequests (s.squashLcr gid hit) := by
  unfold State.SameButRequests; rw [State.squashLcr_frame]
theorem State.pruneSpec_requests (s : State) (gid : Nat) : s.SameButRequests (s.pruneSpec gid) := rfl
theorem State.modMd_requests (s : State) (f : MemDies → MemDies) : s.SameButRequests (s.modMd f) := rfl
theorem State.setCore_requests (s : State) (c : Nat) (k : Core) : s.SameButRequests (s.setCore c k) := rfl

theorem execBranchResolve_next {s : State} {gid n : Nat} {g : Group} {sp : Spec} (hg : s.group? gid = some g)
    (hlog : SMap.entries g.oplog = []) (hsp : g.specs.find? (·.ident == n) = some sp) (hr : s.resolvable g sp = true) :
    ∃ t, execBranchResolve gid n s = .next t ∧ (s.setGroup gid (g.resolve sp).1).SameButRequests t := by
  have hlog' : SMap.entries (g.resolve sp).1.oplog = [] := by
    rw [(g.resolve_frame sp hlog).rest.2.1, (g.undone_rest sp _).2.2]; exact hlog
  simp only [execBranchResolve, hg, Option.bind_some, hsp, Option.map_some, hr, Bool.not_true, Bool.false_eq_true, if_false, hlog',
    List.foldl_nil]
  refine ⟨_, rfl, ?_⟩
  generalize s.setGroup gid (g.resolve sp).1 = u
  refine State.SameButRequests.trans ?_ ((State.pruneSpec_requests _ gid).trans (State.modMd_requests ..))
  exact foldl_keeps (State.SameButRequests u) _ _ _ (State.squashLcr_requests ..) fun t c h => h.trans (State.setCore_requests ..)

theorem branchResolve_spec (s : State) (gid n : Nat) (g : Group) (sp : Spec) (hg : s.group? gid = some g)
    (hlog : SMap.entries g.oplog = []) (hsp : g.specs.find? (·.ident == n) = some sp) (hr : s.resolvable g sp = true) :
    s.Happens (.branchResolve gid n) fun t => t.mem = s.mem ∧ t.now = s.now ∧
      ∃ h, t.group? gid = some h ∧ (∀ x ∈ h.specs, x.ident ≠ n) ∧ h.exited = g.exited ∧
        (sp.predicted = g.active sp.guard sp.mask → h.v = g.v ∧ h.fstat = g.fstat ∧ ∀ k l, h.pred k l = g.pred k l) ∧ h.s = g.s := by
  obtain ⟨t, ht, hframe⟩ := execBranchResolve_next hg hlog hsp hr
  have hident : sp.ident = n := by simpa using List.find?_some hsp
  obtain ⟨hv, hs, hp, hf⟩ := (g.resolve_frame sp hlog).registers
  obtain ⟨hexited, -, hspecs⟩ := (g.resolve_frame sp hlog).rest
  obtain ⟨uexited, us, -⟩ := g.undone_rest sp (g.resolve sp).2
  unfold State.SameButRequests at hframe
  refine ⟨t, ht, by rw [hframe]; rfl, by rw [hframe]; rfl, (g.resolve sp).1, ?_, ?_, hexited.trans uexited, fun hright => ?_, hs.trans us⟩
  · rw [hframe]
    exact State.group?_setGroup_same ..
  · rw [hspecs]
    intro x hx
    simpa [hident] using (List.mem_filter.1 hx).2
  · rw [Group.resolve_right g sp hright] at hv hp hf
    obtain ⟨uv, uf, upred⟩ := g.undone_none sp
    refine ⟨hv.trans uv, hf.trans uf, fun k l => ?_⟩
    rw [← upred k l, Group.pred, Group.pred, Group.predMask, Group.predMask, hp]

end Sys2Proof.Machine
end

section
/-! A join that all members have reached (R158), and a held cause that is taken at the group's boundary (R431, R432). -/

namespace Sys2Proof.Machine

/-! ### Joins -/

/-- The group once its entries at the join have fused (R157). -/
def Group.joinFused (g : Group) : Group :=
  (List.range g.entries.length).reverse.foldl (fun h i => if (h.entries[i]?).any Entry.atJoin then h.fuseAt i true else h) g

theorem Group.joinFused_frame (g : Group) : g.joinFused = { g with entries := g.joinFused.entries, up := g.joinFused.up } := by
  refine foldl_keeps (fun h : Group => h = { g with entries := h.entries, up := h.up }) _ _ g rfl fun h i hh => ?_
  split
  · rw [Group.fuseAt_frame]
    show { h with entries := _, up := _ } = _
    rw [hh]
  · exact hh

theorem Group.joinFused_live (g : Group) : g.joinFused.live = g.live := by
  refine foldl_keeps (fun h : Group => h.live = g.live) _ _ g rfl fun h i hh => ?_
  split
  · exact (h.fuseAt_live i true).trans hh
  · exact hh

/-- An entry that waits at the join waits no longer, unless it is speculative (R168). -/
def Entry.passJoin (e : Entry) : Entry := if e.atJoin && !e.spec then { e with waited := true } else e

theorem Entry.passJoin_mask (e : Entry) : e.passJoin.mask = e.mask := by unfold Entry.passJoin; split <;> rfl

theorem Entry.passJoin_waited {e : Entry} (hj : e.passJoin.atJoin = true) (hs : e.passJoin.spec = false) : e.passJoin.waited = true := by
  unfold Entry.passJoin at *
  split
  · rfl
  · next hn =>
    rw [if_neg hn] at hj hs
    exact absurd (by rw [hj, hs]; rfl) hn

theorem Group.joinPass_eq (g : Group) : g.joinPass =
    { g.joinFused with entries := g.joinFused.entries.map Entry.passJoin, joinMember := 0, joinArrived := 0 } := rfl

theorem joinWaitSatisfied_spec (s : State) (gid : Nat) (g : Group) (hg : s.group? gid = some g) (hr : g.runs = true) (hf : g.fw = false)
    (hd : g.joinDue = true) : s.Happens (.joinWaitSatisfied gid) fun t => ∃ h, t = s.setGroup gid h ∧
      h = { g with entries := h.entries, up := h.up, joinMember := 0, joinArrived := 0 } ∧
      (∀ e ∈ h.entries, e.atJoin = true → e.spec = false → e.waited = true) ∧ h.live = g.live := by
  refine ⟨s.setGroup gid g.joinPass, (?_ : execJoinWaitSatisfied gid s = _), g.joinPass, rfl, ?_, ?_, ?_⟩
  · simp [execJoinWaitSatisfied, hg, hr, hf, hd]
  · rw [Group.joinPass_eq, Group.joinFused_frame]
  · intro e he hj hs
    obtain ⟨f, -, rfl⟩ := List.mem_map.1 he
    exact Entry.passJoin_waited hj hs
  · rw [← Group.joinFused_live g]
    refine Group.live_of_masks ?_
    rw [Group.joinPass_eq, List.map_map]
    exact List.map_congr_left fun e _ => e.passJoin_mask

/-! ### The group once nothing is speculative -/

theorem Group.squashAll_calm {g : Group} (hs : g.specs = []) (hl : g.lineSpec = none) : g.squashAll = g.collapse := by
  have hline : g.squashLine = g := by rw [Group.squashLine, hl]
  rw [Group.squashAll, hs, List.foldl_nil, hline]

theorem State.group?_squashGroup {s : State} {gid : Nat} {g : Group} (h : s.group? gid = some g) :
    (s.squashGroup gid).group? gid = some g.squashAll := by
  rw [State.squashGroup_frame]
  show (s.modGroup gid Group.squashAll).group? gid = _
  rw [State.group?_modGroup_same, h]; rfl

theorem State.block?_squashGroup (s : State) (gid bid : Nat) : (s.squashGroup gid).block? bid = s.block? bid := by
  rw [State.squashGroup_frame]; rfl

/-! ### The handler's entry (R431) -/

theorem Group.entry_of_masks {g h : Group} (e : g.entries.map (·.mask) = h.entries.map (·.mask)) {i : Nat} {x : Entry}
    (hx : h.entries[i]? = some x) : ∃ y, g.entries[i]? = some y ∧ y.mask = x.mask := by
  have hi := congrArg (·[i]?) e
  simp only [List.getElem?_map, hx, Option.map_some] at hi
  obtain ⟨y, hy, hm⟩ := Option.map_eq_some_iff.1 hi
  exact ⟨y, hy, hm⟩

theorem Group.toHandler_frame (g : Group) (i : Nat) : g.toHandler i = { g with entries := (g.toHandler i).entries } := by
  unfold Group.toHandler
  split <;> rfl

theorem Group.standsAt_toHandler {g : Group} {i l : Nat} {e : Entry} (he : g.entries[i]? = some e) (hl : lane e.mask l = true) :
    (g.toHandler i).StandsAt l g.handler 0 := by
  refine ⟨{ e with clause := g.handler, word := 0, code := none, waited := false, idle := 0 }, ?_, hl, rfl, rfl⟩
  simp [Group.toHandler, he]

/-- The group at its handler, with what TPC, TCAUSE and TRAP say of the cause (R196, R431). -/
def Group.inHandler (g : Group) (i : Nat) (t : TrapReq) : Group :=
  { g.toHandler i with tpc := tpcOf t.tclause t.tword, tcause := tcauseOf t.late false t.kind t.cause, trap := true }

theorem Group.inHandler_frame (g : Group) (i : Nat) (t : TrapReq) : g.inHandler i t =
    { g with tpc := tpcOf t.tclause t.tword, tcause := tcauseOf t.late false t.kind t.cause, trap := true
             entries := (g.inHandler i t).entries } := by
  unfold Group.inHandler; rw [Group.toHandler_frame]

/-- A cause without a record is taken by a group that speculates on nothing: its entry goes to the handler (R431). -/
theorem State.group?_enterTrap {s : State} {gid i : Nat} {g : Group} {b : Block} {e : Entry} {t : TrapReq} (hg : s.group? gid = some g)
    (hb : s.block? g.bid = some b) (hs : g.specs = []) (hl : g.lineSpec = none) (hr : t.record = none) (he : g.entries[i]? = some e)
    (hi : g.entryOf e.mask = some i) : (s.enterTrap gid i t).group? gid = some (g.collapse.inHandler i t) := by
  have hsquash : (s.squashGroup gid).group? gid = some g.collapse := by rw [State.group?_squashGroup hg, Group.squashAll_calm hs hl]
  have hplace : (g.collapse.entryOf e.mask).getD i = i := by rw [Group.entryOf_of_masks g.collapse_masks, hi]; rfl
  simp only [State.enterTrap, hg, hb, hr, he, hsquash, Option.map_some, Option.getD_some, hplace]
  generalize g.collapse = c
  exact State.group?_setGroup_same ..

/-! ### The event -/

/-- The group without its oldest held cause. -/
def Group.causeTaken (g : Group) : Group := { g with pendingTraps := g.pendingTraps.drop 1 }

theorem Group.causeTaken_masks (g : Group) : g.causeTaken.entries.map (·.mask) = g.entries.map (·.mask) := rfl
theorem Group.causeTaken_frame (g : Group) : g.causeTaken = { g with pendingTraps := g.pendingTraps.drop 1 } := rfl

/-- The group as it takes its oldest cause: it speculates on nothing more. -/
def Group.atTrap (g : Group) : Group := g.collapse.causeTaken

theorem Group.atTrap_frame (g : Group) : g.atTrap =
    { g with pendingTraps := g.pendingTraps.drop 1, entries := g.atTrap.entries, up := g.atTrap.up } := by
  unfold Group.atTrap; rw [Group.collapse_frame, Group.causeTaken_frame]
theorem Group.atTrap_masks (g : Group) : g.atTrap.entries.map (·.mask) = g.entries.map (·.mask) :=
  g.collapse.causeTaken_masks.trans g.collapse_masks
theorem Group.atTrap_handler (g : Group) : g.atTrap.hasHandler = g.hasHandler ∧ g.atTrap.handler = g.handler := by
  rw [Group.atTrap_frame]
  generalize g.atTrap = c
  exact ⟨rfl, rfl⟩

/-- `h` is `g` without its oldest cause, but for the split table, the lanes switched off and what says that a trap is taken. -/
def Group.GivesCause (g h : Group) : Prop := h = { g with
  pendingTraps := g.pendingTraps.drop 1, entries := h.entries, up := h.up, exited := h.exited, resume := h.resume, fmask := h.fmask
  tpc := h.tpc, tcause := h.tcause, trap := h.trap }

theorem Group.GivesCause.registers {g h : Group} (k : g.GivesCause h) : h.pendingTraps = g.pendingTraps.drop 1 ∧
    h.v = g.v ∧ h.s = g.s ∧ h.p = g.p ∧ h.x = g.x ∧ h.fstat = g.fstat := by
  unfold Group.GivesCause at k; rw [k]; exact ⟨rfl, rfl, rfl, rfl, rfl, rfl⟩

/-- The group in its handler, taken at the place its entry had. -/
theorem Group.inHandler_givesCause (g : Group) (i : Nat) (t : TrapReq) : g.GivesCause (g.atTrap.collapse.inHandler i t) := by
  unfold Group.GivesCause
  rw [Group.inHandler_frame, Group.collapse_frame, Group.atTrap_frame]

theorem Group.switchOff_givesCause (g : Group) (ls : BitVec 32) (cause : Nat) : g.GivesCause (g.atTrap.switchOff ls cause) := by
  unfold Group.GivesCause
  rw [Group.switchOff_frame, Group.atTrap_frame]

theorem Group.inHandler_fmask (g : Group) (i : Nat) (t : TrapReq) : (g.atTrap.collapse.inHandler i t).fmask = g.fmask := by
  rw [Group.inHandler_frame, Group.collapse_frame, Group.atTrap_frame]

theorem Group.inHandler_tcause (g : Group) (i : Nat) (t : TrapReq) : (g.inHandler i t).tcause =
    BitVec.ofNat 32 ((if t.late then 2 ^ 31 else 0) + t.kind % 256 * 2 ^ 16 + t.cause % 2 ^ 16) := by
  show tcauseOf t.late false t.kind t.cause = _
  rw [tcauseOf, if_neg Bool.false_ne_true, Nat.add_zero]

theorem Group.inHandler_entries (g : Group) (i : Nat) (t : TrapReq) : (g.inHandler i t).entries = (g.toHandler i).entries := by
  rw [Group.inHandler]

theorem Group.standsAt_inHandler {g : Group} {i l : Nat} {e : Entry} {t : TrapReq} (he : g.entries[i]? = some e)
    (hl : lane e.mask l = true) : (g.inHandler i t).StandsAt l g.handler 0 := by
  obtain ⟨f, hf, hstands⟩ := Group.standsAt_toHandler he hl
  exact ⟨f, by rw [Group.inHandler_entries]; exact hf, hstands⟩

theorem Group.collapse_handler (g : Group) : g.collapse.handler = g.handler := by
  rw [Group.collapse_frame]
  generalize g.collapse = c
  rfl

/-- Every lane that stands where an entry stood goes to the handler with it. -/
theorem Group.standsAt_handler {g : Group} {i l : Nat} {e : Entry} {t : TrapReq} (he : g.entries[i]? = some e)
    (hl : lane e.mask l = true) : (g.atTrap.collapse.inHandler i t).StandsAt l g.handler 0 := by
  obtain ⟨y, hy, hym⟩ := Group.entry_of_masks (g.atTrap.collapse_masks.trans g.atTrap_masks) he
  have hstands := Group.standsAt_inHandler (t := t) hy (l := l) (by rw [hym]; exact hl)
  rwa [Group.collapse_handler, g.atTrap_handler.2] at hstands

theorem Group.switchOff_trap (g : Group) (ls : BitVec 32) (cause : Nat) : (g.atTrap.switchOff ls cause).trap = g.trap := by
  rw [Group.switchOff_frame, Group.atTrap_frame]

/-- The lanes of a cause stand no longer once they are switched off. -/
theorem Group.switchOff_clears {g : Group} (hf : g.fw = false) (ls : BitVec 32) (cause l : Nat) (hl : l < 32) (hls : lane ls l = true) :
    lane (g.switchOff (ls &&& g.live) cause).live l = false := by
  refine Bool.eq_false_iff.2 fun h => ?_
  obtain ⟨hlive, hno⟩ := Group.lane_live_switchOff hf hl h
  rw [lane_and, hls, hlive] at hno
  cases hno

section
variable {s : State} {gid i : Nat} {g : Group} {b : Block} {x : TrapReq} {e : Entry}

/-- What the event leads to: the group without the cause enters its handler, or has the cause's lanes switched off. -/
theorem execTrapEntry_next (hg : s.group? gid = some g) (hx : g.pendingTraps.head? = some x) (hr : x.record = none) (ht : g.trap = false)
    (hf : g.fw = false) (hh : g.halted = false) (hm : g.mma = none) (hmres : bitAt g.mres.toNat 63 = false) (hmig : g.migrating = none)
    (hs : g.specs = []) (hl : g.lineSpec = none) (hi : g.entryOf x.lanes = some i) :
    ∃ u : State, u.group? gid = some g.atTrap ∧ (∀ k, u.block? k = s.block? k) ∧ execTrapEntry gid s = .next
      (if g.hasHandler then u.enterTrap gid i x else u.setGroup gid (g.atTrap.switchOff (x.lanes &&& g.live) x.cause)) := by
  have hsquash : (s.squashGroup gid).group? gid = some g.collapse := by rw [State.group?_squashGroup hg, Group.squashAll_calm hs hl]
  have hdue : g.trapDue = some x := by simp [Group.trapDue, ht, hf, hh, hm, hmres, hmig, hx]
  have hgroup : ((s.squashGroup gid).modGroup gid Group.causeTaken).group? gid = some g.atTrap := by
    rw [State.group?_modGroup_same, hsquash, Option.map_some, Group.atTrap]
  have hentry : g.atTrap.entryOf x.lanes = some i := by rw [Group.entryOf_of_masks g.atTrap_masks, hi]
  have hnow : g.atTrap.trapNow i x = x := by
    unfold Group.trapNow
    rw [hr]
    split
    · next e => cases e
    · rfl
  refine ⟨_, hgroup, fun k => (State.block?_modGroup ..).trans (State.block?_squashGroup ..), ?_⟩
  have htaken : (fun h : Group => { h with pendingTraps := h.pendingTraps.drop 1 }) = Group.causeTaken := rfl
  simp only [execTrapEntry, hg, Option.bind_some, hdue, Option.map_some, State.recordWaits, hr, Option.isSome_none, Bool.false_and,
    Bool.false_eq_true, if_false, htaken, hgroup, hentry, g.atTrap_handler.1, hnow, Group.live_of_masks g.atTrap_masks]

theorem trapEntry_spec (hg : s.group? gid = some g) (hb : s.block? g.bid = some b) (hx : g.pendingTraps.head? = some x)
    (hr : x.record = none) (ht : g.trap = false) (hf : g.fw = false) (hh : g.halted = false) (hm : g.mma = none)
    (hmres : bitAt g.mres.toNat 63 = false) (hmig : g.migrating = none) (hs : g.specs = []) (hl : g.lineSpec = none)
    (he : g.entries[i]? = some e) (hi : g.entryOf e.mask = some i) (hxi : g.entryOf x.lanes = some i) :
    s.Happens (.trapEntry gid) fun t => ∃ h, t.group? gid = some h ∧ h.pendingTraps = g.pendingTraps.drop 1 ∧
      h.v = g.v ∧ h.s = g.s ∧ h.p = g.p ∧ h.x = g.x ∧ h.fstat = g.fstat ∧
      (g.hasHandler = true → h.trap = true ∧ h.fmask = g.fmask ∧
        h.tcause = BitVec.ofNat 32 ((if x.late then 2 ^ 31 else 0) + x.kind % 256 * 2 ^ 16 + x.cause % 2 ^ 16) ∧
        h.tpc = BitVec.ofNat 64 (x.tword % 16 * 2 ^ 60 + x.tclause / 8 % 2 ^ 53 * 8) ∧
        ∀ l < 32, lane e.mask l → h.StandsAt l (bits g.tvec.toNat 3 53 * 8) 0) ∧
      (g.hasHandler = false → h.trap = false ∧ h.fmask = (g.switchOff (x.lanes &&& g.live) x.cause).fmask ∧
        ∀ l < 32, lane x.lanes l → lane h.live l = false) := by
  obtain ⟨u, hu, hblocks, hnext⟩ := execTrapEntry_next hg hx hr ht hf hh hm hmres hmig hs hl hxi
  refine ⟨_, hnext, ?_⟩
  by_cases hhandler : g.hasHandler = true
  · obtain ⟨y, hy, hym⟩ := Group.entry_of_masks g.atTrap_masks he
    have hgroup : (u.enterTrap gid i x).group? gid = some (g.atTrap.collapse.inHandler i x) := by
      refine State.group?_enterTrap hu (b := b) ?_ ?_ ?_ hr hy ?_
      · rw [hblocks, Group.atTrap_frame]; exact hb
      · rw [Group.atTrap_frame]; exact hs
      · rw [Group.atTrap_frame]; exact hl
      · rw [Group.entryOf_of_masks g.atTrap_masks, hym, hi]
    obtain ⟨hpend, hv, hsr, hp, hxr, hfst⟩ := g.inHandler_givesCause i x |>.registers
    rw [if_pos hhandler]
    exact ⟨_, hgroup, hpend, hv, hsr, hp, hxr, hfst, fun _ => ⟨rfl, g.inHandler_fmask i x, Group.inHandler_tcause .., rfl,
      fun l _ hlane => Group.standsAt_handler he hlane⟩, fun hno => absurd (hhandler.symm.trans hno) (by decide)⟩
  · obtain ⟨hpend, hv, hsr, hp, hxr, hfst⟩ := g.switchOff_givesCause (x.lanes &&& g.live) x.cause |>.registers
    have hfw : g.atTrap.fw = false := by rw [Group.atTrap_frame]; exact hf
    have hfmask : g.atTrap.fmask = g.fmask := by rw [Group.atTrap_frame]
    have hlive : g.atTrap.live = g.live := Group.live_of_masks g.atTrap_masks
    rw [if_neg hhandler]
    refine ⟨_, State.group?_setGroup_same .., hpend, hv, hsr, hp, hxr, hfst, fun hyes => absurd hyes hhandler,
      fun _ => ⟨(g.switchOff_trap _ _).trans ht, Group.switchOff_fmask_congr hfmask _ _, fun l hl hlane => ?_⟩⟩
    rw [← hlive]
    exact Group.switchOff_clears hfw _ _ l hl hlane
end

/-- Settles O53, event by event. -/
theorem whatIssues : Obligations.WhatIssues := by
  unfold Obligations.WhatIssues
  intro s core p gid
  refine ⟨issueSelect_spec s core p gid, fun g n sp => branchResolve_spec s gid n g sp, joinWaitSatisfied_spec s gid, ?_⟩
  exact fun g x b i e hg hb hx hr ht hf hh hm hmres hmig hs hl he hi hxi => trapEntry_spec hg hb hx hr ht hf hh hm hmres hmig hs hl he hi hxi

end Sys2Proof.Machine
end

section
/-! The machine right after device reset (R86, R95). -/

namespace Sys2Proof.Machine

/-- Settles O60: reset lists nothing, and what is not listed reads as zero or as nothing. -/
theorem afterReset : Obligations.AfterReset := by
  unfold Obligations.AfterReset
  have hmem (far : Bool) (a : Nat) : State.reset.readPhys far a = 0 := by
    cases far
    · rfl
    · rfl
  exact ⟨State.reset_memOk.1, hmem, rfl, rfl, rfl, rfl, rfl, rfl, fun _ => rfl, fun _ => rfl, fun _ => rfl, fun _ => rfl, fun _ => rfl,
    rfl, rfl, rfl, rfl, rfl, rfl⟩

end Sys2Proof.Machine
end

section
/-! What the control die's messages leave of the machine, and the collapse stage (R107, R109 to R112): a step of translation changes the
translation state and the fabric alone, and what it sends is found among what is under way. -/

namespace Sys2Proof.Machine

/-! ### Translation and the fabric alone -/

/-- Translation comes to `x`; beside it at most the fabric has changed. -/
def State.Becomes (s : State) (x : Xlate) (t : State) : Prop := t = { s with xl := x, fab := t.fab }

theorem State.Becomes.xl {s t : State} {x : Xlate} (h : s.Becomes x t) : t.xl = x := by unfold State.Becomes at h; rw [h]
theorem State.Becomes.refl (s : State) : s.Becomes s.xl s := rfl
theorem State.Becomes.trans {s t u : State} {x y : Xlate} (h : s.Becomes x t) (k : t.Becomes y u) : s.Becomes y u := by
  unfold State.Becomes at *; rw [k, h]
theorem State.Becomes.modXl {s t : State} {x : Xlate} (h : s.Becomes x t) (f : Xlate → Xlate) : s.Becomes (f x) (t.modXl f) := by
  refine h.trans ?_
  rw [← h.xl]
  rfl
theorem State.SameButFab.becomes {s t : State} (h : s.SameButFab t) : s.Becomes s.xl t := h
theorem State.Becomes.message {s t : State} {x : Xlate} (h : s.Becomes x t) (i j tc : Nat) : s.Becomes x (t.message i j tc).1 := by
  refine h.trans ?_
  rw [← h.xl]
  exact (t.message_fab i j tc).becomes
/-- Only translation and the fabric have changed. -/
theorem State.Becomes.only {s t : State} {x : Xlate} (h : s.Becomes x t) : t = { s with xl := t.xl, fab := t.fab } := by
  rw [h.xl]; exact h

/-- A run of sends, each of which adds one thing to a list of translation: beside the fabric only that list grows, and everything that was to
be sent is in it. -/
theorem State.foldl_sends {β γ : Type} (add : Xlate → List γ → Xlate) (mk : β → Ticket → γ) (hnil : ∀ x, add x [] = x)
    (hcons : ∀ x a l, add (add x [a]) l = add x (a :: l)) (send : State → β → State)
    (hsend : ∀ (t : State) (b : β), ∃ n, t.Becomes (add t.xl [mk b n]) (send t b)) (bs : List β) : ∀ s : State, ∃ new,
      s.Becomes (add s.xl new) (bs.foldl send s) ∧ ∀ b ∈ bs, ∃ n, mk b n ∈ new := by
  induction bs with
  | nil =>
    intro s
    refine ⟨[], ?_, fun _ h => absurd h List.not_mem_nil⟩
    rw [hnil]
    exact .refl s
  | cons b bs ih =>
    intro s
    obtain ⟨n, hn⟩ := hsend s b
    obtain ⟨new, hnew, hmem⟩ := ih (send s b)
    rw [hn.xl, hcons] at hnew
    refine ⟨mk b n :: new, hn.trans hnew, fun c hc => ?_⟩
    rcases List.mem_cons.1 hc with rfl | hc
    · exact ⟨n, List.mem_cons_self⟩
    · obtain ⟨k, hk⟩ := hmem c hc
      exact ⟨k, List.mem_cons_of_mem _ hk⟩

/-! ### The collapse stage (R110) -/

theorem State.walkReads_fab (s : State) (pas : List Nat) : s.SameButFab (s.walkReads pas).1 :=
  foldl_keeps (fun a : State × List Ticket => s.SameButFab a.1) _ pas (s, []) (.refl s) fun a _ h =>
    h.trans ((State.message_fab a.1 _ _ _).trans (State.message_fab _ _ _ _))

/-- A collapse entry once a record has joined it. -/
def Collapse.joinedBy (c : Collapse) (m : MissRec) : Collapse :=
  { c with
    dies := c.dies ||| BitVec.ofNat 18 (2 ^ m.die), types := c.types ||| m.types, waiters := c.waiters + m.waiters
    time := min c.time m.time, ctx := if m.time < c.time then m.ctx else c.ctx
    reason := if c.reason = 0 then m.reason else c.reason }

/-- The collapse entry that a record opens, with the reads of its walk. -/
def MissRec.opens (m : MissRec) (ns : List Ticket) : Collapse :=
  { dies := BitVec.ofNat 18 (2 ^ m.die), waiters := m.waiters, overflow := false, types := m.types, ctx := m.ctx
    time := m.time, reason := m.reason, walking := true, reads := ns }

/-- The collapse entry of a page is `c`. -/
def Xlate.withEntry (page : Nat) (c : Collapse) (x : Xlate) : Xlate := { x with collapse := SMap.put x.collapse page c }

/-- A record is refused, and goes out again after a delay. -/
def Xlate.withRefusal (m : MissRec) (d now : Nat) (x : Xlate) : Xlate :=
  { x with refusals := x.refusals + 1, refused := x.refused ++ [(m, d, now + d)] }

theorem State.collapse_joins {s : State} {m : MissRec} {c : Collapse} (h : SMap.find? s.xl.collapse m.page = some c) :
    s.collapse m = some (s.modXl (Xlate.withEntry m.page (c.joinedBy m))) := by
  simp only [State.collapse, h]
  rfl

theorem State.collapse_opens {s : State} {m : MissRec} (h : SMap.find? s.xl.collapse m.page = none)
    (hl : (SMap.entries s.xl.collapse).length < 1024) : ∃ t ns, s.collapse m = some t ∧
      s.Becomes (s.xl.withEntry m.page (m.opens ns)) t := by
  simp only [State.collapse, h, Nat.not_le.2 hl, if_false]
  exact ⟨_, _, rfl, (s.walkReads_fab _).becomes.modXl _⟩

theorem State.collapse_full {s : State} {m : MissRec} (h : SMap.find? s.xl.collapse m.page = none)
    (hl : 1024 ≤ (SMap.entries s.xl.collapse).length) : s.collapse m = none := by
  simp only [State.collapse, h, hl, if_true]

/-- What an event does with a record that it brings to the collapse stage, where `x` is what translation is without the record and `d` is
the delay after which a refused one is sent again. -/
def State.TakesRecord (s : State) (i : Instr) (x : Xlate) (m : MissRec) (d : Nat) : Prop :=
  (∀ c, SMap.find? s.xl.collapse m.page = some c → s.Happens i (s.Becomes (x.withEntry m.page (c.joinedBy m)))) ∧
  (SMap.find? s.xl.collapse m.page = none → (SMap.entries s.xl.collapse).length < 1024 → s.Happens i fun t => ∃ ns,
    s.Becomes (x.withEntry m.page (m.opens ns)) t) ∧
  (SMap.find? s.xl.collapse m.page = none → 1024 ≤ (SMap.entries s.xl.collapse).length → s.Happens i fun t => ∃ n,
    s.Becomes (x.withRefusal { m with ticket := n } d s.now) t)

/-- An event that takes the record out of its queue and answers as the collapse stage does. -/
theorem State.TakesRecord.of_collapse {s u : State} {i : Instr} {x : Xlate} {m : MissRec} {d : Nat} (n : Ticket) (hu : s.Becomes x u)
    (hx : x.collapse = s.xl.collapse) (htakes : ∀ t, u.collapse { m with ticket := n } = some t → exec i s = .next t)
    (hrefuses : u.collapse { m with ticket := n } = none →
      s.Happens i fun t => ∃ n, s.Becomes (x.withRefusal { m with ticket := n } d s.now) t) : s.TakesRecord i x m d := by
  obtain rfl := hu.xl
  refine ⟨fun c h => ?_, fun h hl => ?_, fun h hl => hrefuses (State.collapse_full (by rwa [hx]) (by rwa [hx]))⟩
  · exact ⟨_, htakes _ (State.collapse_joins (by rwa [hx])), hu.modXl _⟩
  · obtain ⟨t, ns, ht, k⟩ := State.collapse_opens (s := u) (m := { m with ticket := n }) (by rwa [hx]) (by rwa [hx])
    exact ⟨t, htakes t ht, ns, hu.trans k⟩

theorem missRecord_spec {s : State} {m : MissRec} {rest : List MissRec} (hq : s.xl.missQ = m :: rest) (hl : s.landed m.ticket = true) :
    s.TakesRecord .missRecord { s.xl with missQ := rest } m 2000 := by
  have hfind : (s.xl.missQ.find? fun m => s.landed m.ticket) = some m := by rw [hq]; exact List.find?_cons_of_pos hl
  have hu : s.Becomes { s.xl with missQ := rest } (s.modXl fun x => { x with missQ := x.missQ.erase m }) := by
    have k := (State.Becomes.refl s).modXl fun x => { x with missQ := x.missQ.erase m }
    rwa [hq, List.erase_cons_head] at k
  have hexec : exec .missRecord s = execMissRecord s := rfl
  refine .of_collapse m.ticket hu rfl (fun t ht => ?_) fun hn => ?_
  · simp only [hexec, execMissRecord, hfind, ht]
  · have hrefused := (hu.message controlPort (portOfHome m.die) 2).modXl (Xlate.withRefusal { m with
      ticket := ((s.modXl fun x => { x with missQ := x.missQ.erase m }).message controlPort (portOfHome m.die) 2).2 } 2000 s.now)
    refine ⟨_, ?_, _, hrefused⟩
    simp only [hexec, execMissRecord, hfind, hn]
    rfl

theorem missRecordResend_spec {s : State} {m : MissRec} {d t0 : Nat} {rest : List (MissRec × Nat × Nat)}
    (hq : s.xl.refused = (m, d, t0) :: rest) (ht : t0 ≤ s.now) (hl : s.landed m.ticket = true) :
    s.TakesRecord (.missRecordResend m.die m.page) { s.xl with refused := rest } m (min 128000 (2 * d)) := by
  have hfind : (s.xl.refused.find? fun r => r.1.die == m.die && r.1.page == m.page && decide (r.2.2 ≤ s.now) && s.landed r.1.ticket) =
      some (m, d, t0) := by
    rw [hq]; exact List.find?_cons_of_pos (by simp [ht, hl])
  have hu : s.Becomes { s.xl with refused := rest }
      ((s.message (portOfHome m.die) controlPort 2).1.modXl fun x => { x with refused := x.refused.erase (m, d, t0) }) := by
    have k := ((State.Becomes.refl s).message (portOfHome m.die) controlPort 2).modXl fun x => { x with refused := x.refused.erase (m, d, t0) }
    rwa [hq, List.erase_cons_head] at k
  have hexec : exec (.missRecordResend m.die m.page) s = execMissRecordResend m.die m.page s := rfl
  refine .of_collapse (s.message (portOfHome m.die) controlPort 2).2 hu rfl (fun t ht => ?_) fun hn => ⟨_, ?_, m.ticket,
    hu.modXl (Xlate.withRefusal m (min 128000 (2 * d)) s.now)⟩
  · simp only [hexec, execMissRecordResend, hfind, ht]
  · simp only [hexec, execMissRecordResend, hfind, hn]
    rfl

/-! ### Fills (R107, R109) -/

theorem covers_self (leaf : BitVec 64) (page : Nat) : covers leaf page page = true := beq_self_eq_true _

theorem mem_diesOf (m : BitVec 18) (d : Nat) : d ∈ diesOf m ↔ d < 18 ∧ m.getLsbD d = true := by simp [diesOf]

theorem getLsbD_foldl_or {α : Type} {w : Nat} (f : α → BitVec w) (d : Nat) (es : List α) : ∀ m : BitVec w,
    (es.foldl (fun m e => m ||| f e) m).getLsbD d = (m.getLsbD d || es.any fun e => (f e).getLsbD d) := by
  induction es with
  | nil => intro m; simp
  | cons e es ih => intro m; rw [List.foldl_cons, ih, BitVec.getLsbD_or, List.any_cons, Bool.or_assoc]

/-- A page whose gathering has ended with a leaf: its entry and its fault records are gone, and every die concerned is sent the leaf. -/
structure Xlate.Filled (page : Nat) (leaf : BitVec 64) (dies : BitVec 18) (x : Xlate) : Prop where
  closed : SMap.find? x.collapse page = none
  faults : ∀ f ∈ x.faultQ, f.ia / 4096 ≠ page
  fills : ∀ d < 18, dies.getLsbD d = true → ∃ n, { die := d, page := page, leaf := leaf, ticket := n } ∈ x.fills

theorem State.fillPage_fills {s : State} {page : Nat} {c : Collapse} (hc : SMap.find? s.xl.collapse page = some c) (leaf : BitVec 64) :
    ∃ x, s.Becomes x (s.fillPage page leaf) ∧ x.Filled page leaf c.dies := by
  have hmine : (page, c) ∈ (SMap.entries s.xl.collapse).filter fun c => covers leaf page c.1 :=
    List.mem_filter.2 ⟨SMap.mem_entries_of_find hc, covers_self leaf page⟩
  simp only [State.fillPage]
  generalize (SMap.entries s.xl.collapse).filter (fun c => covers leaf page c.1) = mine at hmine
  have hclose := (State.Becomes.refl s).modXl fun x => { x with
    collapse := mine.foldl (fun m c => SMap.del m c.1) x.collapse
    faultQ := x.faultQ.filter fun f => !covers leaf page (f.ia / 4096) }
  obtain ⟨new, hsent, hmem⟩ := State.foldl_sends (fun x l => { x with fills := x.fills ++ l })
    (fun d n => ({ die := d, page := page, leaf := leaf, ticket := n } : Fill)) (fun x => by simp only [List.append_nil])
    (fun x a l => by simp only [List.append_assoc, List.singleton_append])
    (fun t d => (t.message controlPort (portOfHome d) 2).1.modXl fun x =>
      { x with fills := x.fills ++ [{ die := d, page := page, leaf := leaf, ticket := (t.message controlPort (portOfHome d) 2).2 }] })
    (fun t d => ⟨_, ((State.Becomes.refl t).message controlPort (portOfHome d) 2).modXl _⟩)
    (diesOf (mine.foldl (fun m c => m ||| c.2.dies) 0)) _
  refine ⟨_, hclose.trans hsent, ⟨?_, fun f hf e => ?_, fun d hd hdie => ?_⟩⟩
  · show SMap.find? (mine.foldl (fun m c => SMap.del m c.1) s.xl.collapse) page = none
    rw [← List.foldl_map (f := Prod.fst) (g := SMap.del), SMap.find_del_all, if_pos (List.mem_map.2 ⟨_, hmine, rfl⟩)]
  · have hno := (List.mem_filter.1 hf).2
    rw [e, covers_self] at hno
    cases hno
  · have hds : d ∈ diesOf (mine.foldl (fun m c => m ||| c.2.dies) 0) := by
      refine (mem_diesOf _ d).2 ⟨hd, ?_⟩
      rw [getLsbD_foldl_or, List.any_eq_true.2 ⟨_, hmine, hdie⟩, Bool.or_true]
    obtain ⟨n, hn⟩ := hmem d hds
    exact ⟨n, List.mem_append_right _ hn⟩

/-! ### Walks (R107, R110, R112) -/

section
variable {s : State} {page : Nat} {c : Collapse}

/-- What a walk that ended without a fill leaves: the page's entry waits for firmware, which finds a record of it. -/
def State.RecordsFault (s t : State) (page : Nat) (c : Collapse) (reason level : Nat) (e : BitVec 64) : Prop :=
  t = { s with xl := t.xl } ∧ (SMap.find? t.xl.collapse page).map (·.walking) = some false ∧
    t.xl.faultSeq = (s.xl.faultSeq + 1) % 2 ^ 32 ∧ ∃ f : FaultRec, t.xl.faultQ = s.xl.faultQ ++ [f] ∧ f.ia = page * 4096 ∧ f.entry = e ∧
      f.reason = reason ∧ f.level = level ∧ f.dies = c.dies ∧ f.access = c.types.shown ∧ f.ctx = c.ctx ∧ f.seq = s.xl.faultSeq ∧ f.time = c.time

/-- The record of a walk that ends without a fill: it counts the waiters of every die concerned. -/
def State.recordFault (s : State) (page : Nat) (c : Collapse) (reason level : Nat) (e : BitVec 64) : State :=
  let ms := (diesOf c.dies).filterMap fun d => SMap.find? s.xl.merge (pageKey d (page * 4096))
  let crowded := ms.any (·.overflow)
  let n := (ms.map fun m => if m.overflow then 64 else m.waiters.length).sum
  s.modXl fun x => { x with
    collapse := SMap.put x.collapse page { c with walking := false, waiters := n, overflow := crowded, reads := [] }
    faultQ := x.faultQ ++ [{
      ia := page * 4096, entry := e, dies := c.dies, waiters := n, overflow := crowded, access := c.types.shown,
      reason := reason, level := level, ctx := c.ctx, seq := s.xl.faultSeq, time := c.time }]
    faultSeq := (x.faultSeq + 1) % 2 ^ 32 }

theorem State.recordFault_records (s : State) (page : Nat) (c : Collapse) (reason level : Nat) (e : BitVec 64) :
    s.RecordsFault (s.recordFault page c reason level e) page c reason level e := by
  refine ⟨rfl, ?_, rfl, _, rfl, rfl, rfl, rfl, rfl, rfl, rfl, rfl, rfl, rfl⟩
  show (SMap.find? (SMap.put s.xl.collapse page _) page).map (·.walking) = some false
  rw [SMap.find_put_same, Option.map_some]

section
variable (hw : c.walking = true) (hreads : ∀ n ∈ c.reads, s.landed n = true)
  (holder : ((SMap.entries s.xl.collapse).filter fun x => x.2.walking && decide (x.2.time < c.time)).length < 32)
include hw hreads holder

theorem pageWalkDone_guard : (!c.walking || decide (32 ≤ ((SMap.entries s.xl.collapse).filter fun x =>
    x.2.walking && decide (x.2.time < c.time)).length) || !c.reads.all s.landed) = false := by
  rw [hw, decide_eq_false (Nat.not_le.2 holder), List.all_eq_true.2 hreads]
  rfl

variable (hc : SMap.find? s.xl.collapse page = some c)
include hc

theorem pageWalkDone_fills {e : BitVec 64} (hleaf : s.walk (page * 4096) = .leaf e) (hr : c.reason = 0) (hp : leafPermits e c.types = true) :
    exec (.pageWalkDone page) s = .next (s.fillPage page e) := by
  have hexec : exec (.pageWalkDone page) s = execPageWalkDone page s := rfl
  simp only [hexec, execPageWalkDone, hc, pageWalkDone_guard hw hreads holder, Bool.false_eq_true, if_false, hleaf, hr, hp, if_true,
    bne_self_eq_false]

theorem pageWalkDone_stops {r l : Nat} {e : BitVec 64} (hstop : s.walk (page * 4096) = .stop r l e) :
    exec (.pageWalkDone page) s = .next (s.recordFault page c r l e) := by
  have hexec : exec (.pageWalkDone page) s = execPageWalkDone page s := rfl
  simp only [hexec, execPageWalkDone, hc, pageWalkDone_guard hw hreads holder, Bool.false_eq_true, if_false, hstop]
  rfl

theorem pageWalkDone_denied {e : BitVec 64} (hleaf : s.walk (page * 4096) = .leaf e) (hr : c.reason = 0)
    (hp : leafPermits e c.types = false) : exec (.pageWalkDone page) s = .next (s.recordFault page c 1 (sizeLevel (leafSize e)) e) := by
  have hexec : exec (.pageWalkDone page) s = execPageWalkDone page s := rfl
  have hnone : (c.reason != 0) = false := by rw [hr]; rfl
  simp only [hexec, execPageWalkDone, hc, pageWalkDone_guard hw hreads holder, Bool.false_eq_true, if_false, hleaf, hnone, hp]
  rfl

theorem pageWalkDone_reason {e : BitVec 64} (hleaf : s.walk (page * 4096) = .leaf e) (hr : c.reason ≠ 0) :
    exec (.pageWalkDone page) s = .next (s.recordFault page c c.reason (sizeLevel (leafSize e)) e) := by
  have hexec : exec (.pageWalkDone page) s = execPageWalkDone page s := rfl
  simp only [hexec, execPageWalkDone, hc, pageWalkDone_guard hw hreads holder, Bool.false_eq_true, if_false, hleaf, bne_iff_ne.2 hr, if_true]
  rfl
end
end

theorem State.cacheLeaf_room {s : State} {die : Nat} (h : (s.xl.tlb.filter fun e => e.1 / 2 ^ 40 == die).length < 16384) (page : Nat)
    (leaf : BitVec 64) : s.cacheLeaf die page leaf = s.modXl fun x => { x with tlb := SMap.set 0 x.tlb (die * 2 ^ 40 + page) leaf } := by
  have hfilter : (s.xl.tlb.filter fun e => some e.1 != none) = s.xl.tlb := List.filter_eq_self.2 fun _ _ => rfl
  simp only [State.cacheLeaf, List.length_map, h, if_true, Option.isSome_none, Bool.false_eq_true, if_false, hfilter, pageKey,
    Nat.mul_div_cancel _ (show 0 < 4096 by decide)]
  rfl

/-! ### Wakes and finals (R111) -/

/-- From `s` to `t` the merge entries at the keys `ks` have closed and their waiters are answered. -/
structure State.Answers (final : Option (Rights × Nat)) (s t : State) (ks : List Nat) : Prop where
  merge : ∀ k, SMap.find? t.xl.merge k = if k ∈ ks then none else SMap.find? s.xl.merge k
  keeps : ∀ a ∈ s.xl.answers, a ∈ t.xl.answers
  sent : ∀ k ∈ ks, ∀ m, SMap.find? s.xl.merge k = some m → ∀ w ∈ m.waiters,
    ∃ n, { die := k / 2 ^ 40, page := k % 2 ^ 40, waiter := w, final := final, ticket := n } ∈ t.xl.answers

theorem State.Answers.of_eq {final : Option (Rights × Nat)} {s t : State} (hm : t.xl.merge = s.xl.merge) (ha : t.xl.answers = s.xl.answers) :
    State.Answers final s t [] :=
  ⟨fun k => by rw [hm, if_neg List.not_mem_nil], fun a h => by rwa [ha], fun _ h => absurd h List.not_mem_nil⟩

theorem State.Answers.trans {final : Option (Rights × Nat)} {s t u : State} {ks ls : List Nat} (h : State.Answers final s t ks)
    (k : State.Answers final t u ls) : State.Answers final s u (ks ++ ls) := by
  refine ⟨fun j => ?_, fun a ha => k.keeps a (h.keeps a ha), fun j hj m hm w hw => ?_⟩
  · rw [k.merge, h.merge]
    by_cases hl : j ∈ ls
    · simp [hl]
    · simp [hl]
  · by_cases hk : j ∈ ks
    · obtain ⟨n, hn⟩ := h.sent j hk m hm w hw
      exact ⟨n, k.keeps _ hn⟩
    · refine k.sent j ((List.mem_append.1 hj).resolve_left hk) m ?_ w hw
      rw [h.merge, if_neg hk, hm]

/-- Only merge entries and answers, and the fabric. -/
def State.AnswersOnly (s t : State) : Prop := s.Becomes { s.xl with merge := t.xl.merge, answers := t.xl.answers } t

theorem State.AnswersOnly.refl (s : State) : s.AnswersOnly s := State.Becomes.refl s
theorem State.AnswersOnly.trans {s t u : State} (h : s.AnswersOnly t) (k : t.AnswersOnly u) : s.AnswersOnly u := by
  unfold State.AnswersOnly State.Becomes at *; rw [k, h]

theorem State.mem_waitersOf {s : State} {m : Merge} {w : Waiter} (h : w ∈ m.waiters) : w ∈ s.waitersOf m := by
  unfold State.waitersOf
  split
  · exact h
  · exact List.mem_eraseDups.2 (List.mem_append_left _ h)

theorem pageKey_page (die page : Nat) : pageKey die (page * 4096) = die * 2 ^ 40 + page := by
  rw [pageKey, Nat.mul_div_cancel _ (by decide)]

theorem State.answerPage_answers (s : State) (die : Nat) {page : Nat} (hp : page < 2 ^ 40) (final : Option (Rights × Nat)) :
    State.Answers final s (s.answerPage die page final) [die * 2 ^ 40 + page] ∧ s.AnswersOnly (s.answerPage die page final) := by
  have hdie : (die * 2 ^ 40 + page) / 2 ^ 40 = die := by omega
  have hpage : (die * 2 ^ 40 + page) % 2 ^ 40 = page := by omega
  simp only [State.answerPage, pageKey_page]
  split
  · next hnone =>
    refine ⟨⟨fun k => ?_, fun _ h => h, fun k hk m hm => ?_⟩, .refl s⟩
    · split
      · next hk => rw [List.mem_singleton.1 hk, hnone]
      · rfl
    · rw [List.mem_singleton.1 hk, hnone] at hm
      cases hm
  · next m hsome =>
    have hclose := (State.Becomes.refl s).modXl fun x => { x with merge := SMap.del x.merge (die * 2 ^ 40 + page) }
    obtain ⟨new, hsent, hmem⟩ := State.foldl_sends (fun x l => { x with answers := x.answers ++ l })
      (fun w n => ({ die := die, page := page, waiter := w, final := final, ticket := n } : Answer))
      (fun x => by simp only [List.append_nil]) (fun x a l => by simp only [List.append_assoc, List.singleton_append])
      (fun t w => (t.message (portOfHome die) (t.waiterPort w) 1).1.modXl fun x => { x with
        answers := x.answers ++ [{ die := die, page := page, waiter := w, final := final
                                   ticket := (t.message (portOfHome die) (t.waiterPort w) 1).2 }] })
      (fun t w => ⟨_, ((State.Becomes.refl t).message (portOfHome die) (t.waiterPort w) 1).modXl _⟩) (s.waitersOf m)
      (s.modXl fun x => { x with merge := SMap.del x.merge (die * 2 ^ 40 + page) })
    have ht := hclose.trans hsent
    refine ⟨⟨fun k => ?_, fun a ha => ?_, fun k hk m' hm w hw => ?_⟩, ?_⟩
    · rw [ht.xl]
      show SMap.find? (SMap.del s.xl.merge _) k = _
      split
      · next hk => rw [List.mem_singleton.1 hk, SMap.find_del_same]
      · next hk => exact SMap.find_del_other _ _ _ fun e => hk (List.mem_singleton.2 e)
    · rw [ht.xl]
      exact List.mem_append_left _ ha
    · obtain rfl := List.mem_singleton.1 hk
      obtain rfl : m = m' := Option.some.inj (hsome.symm.trans hm)
      obtain ⟨n, hn⟩ := hmem w (State.mem_waitersOf hw)
      rw [ht.xl, hdie, hpage]
      exact ⟨n, List.mem_append_right _ hn⟩
    · unfold State.AnswersOnly
      rw [ht.xl]
      exact ht

/-- Answers at several dies and pages, one after another. -/
theorem State.answerPages_answers {β : Type} (die page : β → Nat) (final : Option (Rights × Nat)) (bs : List β)
    (hp : ∀ b ∈ bs, page b < 2 ^ 40) : ∀ s : State,
    State.Answers final s (bs.foldl (fun t b => t.answerPage (die b) (page b) final) s) (bs.map fun b => die b * 2 ^ 40 + page b) ∧
      s.AnswersOnly (bs.foldl (fun t b => t.answerPage (die b) (page b) final) s) := by
  induction bs with
  | nil => exact fun s => ⟨.of_eq rfl rfl, .refl s⟩
  | cons b bs ih =>
    intro s
    obtain ⟨h, hof⟩ := s.answerPage_answers (die b) (hp b List.mem_cons_self) final
    obtain ⟨k, kof⟩ := ih (fun c hc => hp c (List.mem_cons_of_mem b hc)) (s.answerPage (die b) (page b) final)
    exact ⟨h.trans k, hof.trans kof⟩

/-! ### A fill is installed (R106, R110, R111) -/

section
variable {s : State} {f : Fill} {rest : List Fill}

/-- The state once a die has taken a fill and put its leaf into its cache. -/
def State.installed (s : State) (f : Fill) : State :=
  let s0 := s.modXl fun x => { x with fills := x.fills.erase f }
  if f.leaf.getLsbD 0 then s0.cacheLeaf f.die f.page f.leaf else s0

theorem State.installed_becomes (hq : s.xl.fills = f :: rest)
    (hroom : (s.xl.tlb.filter fun e => e.1 / 2 ^ 40 == f.die).length < 16384) : s.Becomes { s.xl with
      fills := rest
      tlb := if f.leaf.getLsbD 0 then SMap.set 0 s.xl.tlb (f.die * 2 ^ 40 + f.page) f.leaf else s.xl.tlb } (s.installed f) := by
  have htaken := (State.Becomes.refl s).modXl fun x => { x with fills := x.fills.erase f }
  simp only [hq, List.erase_cons_head] at htaken
  unfold State.installed
  split
  · rw [State.cacheLeaf_room (s := s.modXl fun x => { x with fills := x.fills.erase f }) hroom]
    exact htaken.modXl _
  · exact htaken

/-- The pages of a die's merge entries that a fill settles. -/
def State.fillPages (s : State) (f : Fill) : List Nat :=
  ((SMap.entries s.xl.merge).filter fun m => m.1 / 2 ^ 40 == f.die && covers f.leaf f.page (m.1 % 2 ^ 40)).map fun m => m.1 % 2 ^ 40

theorem State.mem_fillPages (hpage : f.page < 2 ^ 40) {m : Merge} (hm : SMap.find? s.xl.merge (f.die * 2 ^ 40 + f.page) = some m) :
    f.page ∈ s.fillPages f := by
  refine List.mem_map.2 ⟨_, List.mem_filter.2 ⟨SMap.mem_entries_of_find hm, ?_⟩, show (f.die * 2 ^ 40 + f.page) % 2 ^ 40 = f.page by omega⟩
  rw [show (f.die * 2 ^ 40 + f.page) % 2 ^ 40 = f.page by omega, covers_self, Bool.and_true]
  exact beq_iff_eq.2 (by omega)

theorem fillInstall_exec (hq : s.xl.fills = f :: rest) (hl : s.landed f.ticket = true) : exec (.fillInstall f.die) s =
    .next (((s.installed f).fillPages f).foldl (fun t p => t.answerPage f.die p none) (s.installed f)) := by
  have hfind : (s.xl.fills.find? fun g => g.die == f.die && s.landed g.ticket) = some f := by
    rw [hq]; exact List.find?_cons_of_pos (by simp [hl])
  have hexec : exec (.fillInstall f.die) s = execFillInstall f.die s := rfl
  simp only [hexec, execFillInstall, hfind]
  rfl

theorem fillInstall_spec (hq : s.xl.fills = f :: rest) (hl : s.landed f.ticket = true) (hpage : f.page < 2 ^ 40)
    (hroom : (s.xl.tlb.filter fun e => e.1 / 2 ^ 40 == f.die).length < 16384) :
    s.Happens (.fillInstall f.die) fun t => t = { s with xl := t.xl, fab := t.fab } ∧ t.xl.fills = rest ∧
      t.xl.tlb = (if f.leaf.getLsbD 0 then SMap.set 0 s.xl.tlb (f.die * 2 ^ 40 + f.page) f.leaf else s.xl.tlb) ∧
      SMap.find? t.xl.merge (f.die * 2 ^ 40 + f.page) = none ∧
      ∀ m, SMap.find? s.xl.merge (f.die * 2 ^ 40 + f.page) = some m → ∀ w ∈ m.waiters,
        ∃ n, { die := f.die, page := f.page, waiter := w, final := none, ticket := n } ∈ t.xl.answers := by
  have hin := State.installed_becomes hq hroom
  refine ⟨_, fillInstall_exec hq hl, ?_⟩
  have hmerge : (s.installed f).xl.merge = s.xl.merge := by rw [hin.xl]
  generalize s.installed f = u at *
  obtain ⟨hanswers, honly⟩ := State.answerPages_answers (fun _ => f.die) id none (u.fillPages f) (fun p hp => by
    obtain ⟨m, -, rfl⟩ := List.mem_map.1 hp
    exact Nat.mod_lt _ (by decide)) u
  simp only [id] at hanswers honly
  generalize (u.fillPages f).foldl (fun t p => t.answerPage f.die p none) u = t at *
  have hkey {m : Merge} (hm : SMap.find? s.xl.merge (f.die * 2 ^ 40 + f.page) = some m) :
      f.die * 2 ^ 40 + f.page ∈ (u.fillPages f).map fun p => f.die * 2 ^ 40 + p :=
    List.mem_map.2 ⟨_, State.mem_fillPages hpage (hmerge ▸ hm), rfl⟩
  have hxl := honly.xl
  rw [hin.xl] at hxl
  refine ⟨(hin.trans honly).only, by rw [hxl], by rw [hxl], ?_, fun m hm w hw => ?_⟩
  · rw [hanswers.merge, hmerge]
    cases hm : SMap.find? s.xl.merge (f.die * 2 ^ 40 + f.page) with
    | none => rw [ite_self]
    | some m => rw [if_pos (hkey hm)]
  · obtain ⟨n, hn⟩ := hanswers.sent _ (hkey hm) m (hmerge ▸ hm) w hw
    rw [show (f.die * 2 ^ 40 + f.page) / 2 ^ 40 = f.die by omega, show (f.die * 2 ^ 40 + f.page) % 2 ^ 40 = f.page by omega] at hn
    exact ⟨n, hn⟩
end

/-- Settles O47, event by event. -/
theorem faultGathering : Obligations.FaultGathering := by
  unfold Obligations.FaultGathering
  intro s
  refine ⟨fun m rest => missRecord_spec, fun m d t0 rest => missRecordResend_spec, fun page c hc hw hreads holder =>
    ⟨fun e hleaf hr hp => ?_, fun e hleaf hr hp => ?_, fun e hleaf hr => ?_, fun r l e hstop => ?_⟩, fun f rest => fillInstall_spec,
    fun x rest hq => ?_⟩
  · obtain ⟨x, ht, hx⟩ := State.fillPage_fills hc e
    refine ⟨_, pageWalkDone_fills hw hreads holder hc hleaf hr hp, ht.only, ?_⟩
    rw [ht.xl]
    exact ⟨hx.closed, hx.fills⟩
  · exact ⟨_, pageWalkDone_denied hw hreads holder hc hleaf hr hp, s.recordFault_records page c _ _ e⟩
  · exact ⟨_, pageWalkDone_reason hw hreads holder hc hleaf hr, s.recordFault_records page c _ _ e⟩
  · exact ⟨_, pageWalkDone_stops hw hreads holder hc hstop, s.recordFault_records page c _ _ e⟩
  · have hexec : exec .pendingReply s = execPendingReply s := rfl
    refine ⟨s.modXl fun y => { y with pendings := rest }, ?_, rfl⟩
    rw [hexec, execPendingReply, hq]

end Sys2Proof.Machine
end

section
/-! Firmware's answers to a page fault (R108, R109, R111): ready fills the page, final reaches the waiters of every page that the answer
covers. -/

namespace Sys2Proof.Machine

/-! ### Ready (R108, R111) -/

/-- Firmware that has no entry to write changes nothing. -/
theorem State.fwApply_nil {s : State} (h : s.xl.fwWrites = []) : s.fwApply = s := by
  unfold State.fwApply State.modXl
  rw [h, List.foldl_nil, ← h]

theorem faultReady_spec {s : State} {page : Nat} {c : Collapse} {e : BitVec 64} (hc : SMap.find? s.xl.collapse page = some c)
    (hw : c.walking = false) (hf : s.xl.fwWrites = []) (hleaf : s.walk (page * 4096) = .leaf e) :
    s.Happens (.faultReady page) fun t => t = { s with xl := t.xl, fab := t.fab } ∧ SMap.find? t.xl.collapse page = none ∧
      (∀ f ∈ t.xl.faultQ, f.ia / 4096 ≠ page) ∧
      ∀ d < 18, c.dies.getLsbD d = true → ∃ n, { die := d, page := page, leaf := e, ticket := n } ∈ t.xl.fills := by
  obtain ⟨x, ht, hx⟩ := State.fillPage_fills hc e
  have hexec : exec (.faultReady page) s = execFaultReady page s := rfl
  refine ⟨s.fillPage page e, ?_, ht.only, ?_⟩
  · simp only [hexec, execFaultReady, hc, hw, Bool.false_eq_true, if_false, State.fwApply_nil hf, State.ready, hleaf]
  · rw [ht.xl]
    exact ⟨hx.closed, hx.faults, hx.fills⟩

/-! ### Final (R109, R111) -/

section
variable {final : Option (Rights × Nat)}

/-- The page's entry and its fault records go. -/
def State.closePage (s : State) (p : Nat) : State :=
  s.modXl fun x => { x with collapse := SMap.del x.collapse p, faultQ := x.faultQ.filter fun f => f.ia != p * 4096 }

theorem State.settle_singleton_none {s : State} {p : Nat} (h : SMap.find? s.xl.collapse p = none) : s.settle [p] final = s := by
  simp only [State.settle, List.foldl_cons, List.foldl_nil, h]

theorem State.settle_singleton_some {s : State} {p : Nat} {c : Collapse} (h : SMap.find? s.xl.collapse p = some c) :
    s.settle [p] final = (diesOf c.dies).foldl (fun u d => u.answerPage d p final) (s.closePage p) := by
  simp only [State.settle, List.foldl_cons, List.foldl_nil, h]
  rfl

/-- What an answer for some pages leaves: their entries and fault records are gone, no other entry has changed, and the merge entries of every
die concerned have been answered. -/
structure State.Settles (final : Option (Rights × Nat)) (s t : State) (ps : List Nat) : Prop where
  only : s.Becomes t.xl t
  entry : ∀ p, SMap.find? t.xl.collapse p = if p ∈ ps then none else SMap.find? s.xl.collapse p
  faults : ∀ f ∈ t.xl.faultQ, f ∈ s.xl.faultQ ∧ ∀ p ∈ ps, SMap.find? s.xl.collapse p ≠ none → f.ia ≠ p * 4096
  answers : ∃ ks, State.Answers final s t ks ∧ ∀ p ∈ ps, ∀ c, SMap.find? s.xl.collapse p = some c →
    ∀ d < 18, c.dies.getLsbD d = true → d * 2 ^ 40 + p ∈ ks

theorem State.settle_singleton {s : State} {p : Nat} (hp : SMap.find? s.xl.collapse p ≠ none → p < 2 ^ 40) :
    State.Settles final s (s.settle [p] final) [p] := by
  cases hc : SMap.find? s.xl.collapse p with
  | none =>
    rw [State.settle_singleton_none hc]
    refine ⟨.refl s, fun q => ?_, fun f hf => ⟨hf, fun q hq h => ?_⟩, [], .of_eq rfl rfl, fun q hq c h => ?_⟩
    · split
      · next hq => rw [List.mem_singleton.1 hq, hc]
      · rfl
    · exact absurd (List.mem_singleton.1 hq ▸ hc) h
    · rw [List.mem_singleton.1 hq, hc] at h
      cases h
  | some c =>
    rw [State.settle_singleton_some hc]
    have hlt : p < 2 ^ 40 := hp (by rw [hc]; exact Option.some_ne_none c)
    obtain ⟨hanswers, honly⟩ := State.answerPages_answers id (fun _ => p) final (diesOf c.dies) (fun _ _ => hlt) (s.closePage p)
    simp only [id] at hanswers honly
    generalize (diesOf c.dies).foldl (fun u d => u.answerPage d p final) (s.closePage p) = t at *
    have hxl := honly.xl
    have hclosed : State.Answers final s (s.closePage p) [] := .of_eq rfl rfl
    refine ⟨?_, fun q => ?_, fun f hf => ?_, _, hclosed.trans hanswers, fun q hq k hk d hd hdie => ?_⟩
    · rw [hxl]
      exact ((State.Becomes.refl s).modXl _).trans honly
    · rw [hxl]
      show SMap.find? (SMap.del s.xl.collapse p) q = _
      split
      · next hq => rw [List.mem_singleton.1 hq, SMap.find_del_same]
      · next hq => exact SMap.find_del_other _ _ _ fun e => hq (List.mem_singleton.2 e)
    · rw [hxl] at hf
      obtain ⟨hin, hia⟩ := List.mem_filter.1 hf
      exact ⟨hin, fun q hq _ => List.mem_singleton.1 hq ▸ bne_iff_ne.1 hia⟩
    · obtain rfl := List.mem_singleton.1 hq
      obtain rfl : c = k := Option.some.inj (hc.symm.trans hk)
      exact List.mem_map.2 ⟨d, (mem_diesOf _ d).2 ⟨hd, hdie⟩, rfl⟩

theorem State.Settles.trans {s t u : State} {ps qs : List Nat} (h : State.Settles final s t ps) (k : State.Settles final t u qs) :
    State.Settles final s u (ps ++ qs) := by
  obtain ⟨ks, hks, hin⟩ := h.answers
  obtain ⟨ls, hls, lin⟩ := k.answers
  refine ⟨h.only.trans k.only, fun p => ?_, fun f hf => ?_, ks ++ ls, hks.trans hls, fun p hp c hc d hd hdie => ?_⟩
  · rw [k.entry, h.entry]
    by_cases hq : p ∈ qs
    · simp [hq]
    · simp [hq]
  · obtain ⟨ht, hq⟩ := k.faults f hf
    obtain ⟨hs, hp⟩ := h.faults f ht
    refine ⟨hs, fun p hpq hne => ?_⟩
    by_cases hps : p ∈ ps
    · exact hp p hps hne
    · exact hq p ((List.mem_append.1 hpq).resolve_left hps) (by rwa [h.entry, if_neg hps])
  · by_cases hps : p ∈ ps
    · exact List.mem_append_left _ (hin p hps c hc d hd hdie)
    · exact List.mem_append_right _ (lin p ((List.mem_append.1 hp).resolve_left hps) c (by rwa [h.entry, if_neg hps]) d hd hdie)

theorem State.settle_settles (ps : List Nat) : ∀ s : State, (∀ p, SMap.find? s.xl.collapse p ≠ none → p < 2 ^ 40) →
    State.Settles final s (s.settle ps final) ps := by
  induction ps with
  | nil =>
    exact fun s _ => ⟨.refl s, fun p => by rw [if_neg List.not_mem_nil]; rfl, fun f hf => ⟨hf, fun _ h => absurd h List.not_mem_nil⟩, [],
      .of_eq rfl rfl, fun _ h => absurd h List.not_mem_nil⟩
  | cons p ps ih =>
    intro s hs
    have hone := State.settle_singleton (final := final) (hs p)
    have hrest := ih (s.settle [p] final) fun q hq => hs q fun hn => hq (by rw [hone.entry, hn, ite_self])
    exact hone.trans hrest
end

theorem State.mem_settledPages {s : State} {page : Nat} (h : SMap.find? s.xl.collapse page ≠ none) : page ∈ s.settledPages page := by
  obtain ⟨c, hc⟩ := Option.ne_none_iff_exists'.1 h
  unfold State.settledPages
  split
  · exact List.mem_filter.2 ⟨List.mem_map.2 ⟨_, SMap.mem_entries_of_find hc, rfl⟩, covers_self ..⟩
  · exact List.mem_singleton_self page

theorem faultFinal_spec {s : State} {page : Nat} {c : Collapse} (types : BitVec 5) (hc : SMap.find? s.xl.collapse page = some c)
    (hw : c.walking = false) (hpage : page < 2 ^ 40) (hpages : ∀ p, SMap.find? s.xl.collapse p ≠ none → p < 2 ^ 40) :
    let reason := ((s.xl.faultQ.find? fun f => f.ia == page * 4096).map (·.reason)).getD 0
    s.Happens (.faultFinal page types) fun t => t = { s with xl := t.xl, fab := t.fab } ∧ SMap.find? t.xl.collapse page = none ∧
      (∀ f ∈ t.xl.faultQ, f.ia ≠ page * 4096) ∧
      ∀ d < 18, c.dies.getLsbD d = true → ∀ m, SMap.find? s.xl.merge (d * 2 ^ 40 + page) = some m → ∀ w ∈ m.waiters,
        ∃ n, { die := d, page := page, waiter := w, final := some (types.setWidth 7, reason), ticket := n } ∈ t.xl.answers := by
  intro reason
  have hexec : exec (.faultFinal page types) s = execFaultFinal page types s := rfl
  have hsome : SMap.find? s.xl.collapse page ≠ none := by rw [hc]; exact Option.some_ne_none c
  have hin := State.mem_settledPages hsome
  have hsettles := State.settle_settles (final := some (types.setWidth 7, reason)) (s.settledPages page) s hpages
  obtain ⟨ks, hks, hkin⟩ := hsettles.answers
  refine ⟨_, ?_, hsettles.only, ?_, fun f hf => (hsettles.faults f hf).2 page hin hsome, fun d hd hdie m hm w hwait => ?_⟩
  · simp only [hexec, execFaultFinal, hc, hw, Bool.false_eq_true, if_false]
    rfl
  · rw [hsettles.entry, if_pos hin]
  · obtain ⟨n, hn⟩ := hks.sent _ (hkin page hin c hc d hd hdie) m hm w hwait
    rw [show (d * 2 ^ 40 + page) / 2 ^ 40 = d by omega, show (d * 2 ^ 40 + page) % 2 ^ 40 = page by omega] at hn
    exact ⟨n, hn⟩

end Sys2Proof.Machine
end

section
/-! Wakes and finals at a group (R111, R113, R114, R225): a woken request goes out again, and a final one leaves its lanes faulted. -/

namespace Sys2Proof.Machine

/-- A request whose lanes all form anew as they were goes out again as it is. -/
theorem State.reissue_unchanged {s : State} {r : Req} (hre : ∀ l ∈ r.lanes, s.reform r l = .ok l) : s.reissue r = s.sendAgain r r.lanes := by
  have hls : (r.lanes.map fun l => (l, s.reform r l)) = r.lanes.map fun l => (l, .ok l) :=
    List.map_congr_left fun l hl => by rw [hre l hl]
  simp only [State.reissue, hls, List.filterMap_map, Function.comp_def, List.filterMap_some, List.filterMap_none, List.foldl_nil]

/-- A request of one unit goes out again in its old place. -/
theorem State.sendAgain_oneUnit (s : State) {r : Req} (hu : r.oneUnit) : ∃ n f, s.sendAgain r r.lanes = { s with
    fab := f
    md := { s.md with reqs := s.md.reqs.map fun x =>
      if x.tag = r.tag then { r with waiting := none, retryAt := none, ticket := n } else x } } := by
  have hm := State.message_fab s (portOfSource r.src) (portOfHome (s.homeOf r)) 0
  unfold State.SameButFab at hm
  have hho : s.homeOf { r with waiting := none, retryAt := none } = s.homeOf r := rfl
  refine ⟨(s.message (portOfSource r.src) (portOfHome (s.homeOf r)) 0).2, (s.message (portOfSource r.src) (portOfHome (s.homeOf r)) 0).1.fab, ?_⟩
  simp only [State.sendAgain, perUnit_oneUnit hu, List.foldl_nil, State.modMd, flatten_replaced]
  rw [hho, hm]

section
variable {s : State} {a : Answer} {rest : List Answer} {gid : Nat} {r : Req}

/-- The answer is no longer under way. -/
def State.answerTaken (s : State) (a : Answer) : State := s.modXl fun x => { x with answers := x.answers.erase a }

theorem State.answerTaken_eq (hq : s.xl.answers = a :: rest) : s.answerTaken a = { s with xl := { s.xl with answers := rest } } := by
  simp only [State.answerTaken, State.modXl, hq, List.erase_cons_head]

variable (hq : s.xl.answers = a :: rest) (hl : s.landed a.ticket = true) (hgroup : a.waiter = .group gid)
  (hsaved : s.groupSaved gid = false) (hwaits : s.waitingOf a.die a.page (.group gid) = [r])
include hq hl hgroup hsaved hwaits

theorem wakeReplay_exec (hf : a.final = none) : exec .wakeReplay s = .next ((s.answerTaken a).reissue r) := by
  have hfind : (s.xl.answers.find? fun a => a.final.isNone && s.landed a.ticket) = some a := by
    rw [hq]; exact List.find?_cons_of_pos (by rw [hf, hl]; rfl)
  have hexec : exec .wakeReplay s = execWakeReplay s := rfl
  have hsaved' : (s.answerTaken a).groupSaved gid = false := hsaved
  have hwaits' : (s.answerTaken a).waitingOf a.die a.page (.group gid) = [r] := hwaits
  simp only [hexec, execWakeReplay, hfind]
  show Host.Outcome.next ((s.answerTaken a).wake a) = _
  simp only [State.wake, hgroup, hsaved', Bool.false_eq_true, if_false, hwaits', List.foldl_cons, List.foldl_nil]

theorem wakeReplay_spec (hf : a.final = none) (hu : r.oneUnit) (hre : ∀ l ∈ r.lanes, s.reform r l = .ok l) :
    s.Happens .wakeReplay fun t => ∃ n, t = { s with
      xl := { s.xl with answers := rest }, fab := t.fab
      md := { s.md with reqs := s.md.reqs.map fun x =>
        if x.tag = r.tag then { r with waiting := none, retryAt := none, ticket := n } else x } } := by
  have hre' : ∀ l ∈ r.lanes, (s.answerTaken a).reform r l = .ok l := hre
  obtain ⟨n, f, hsent⟩ := (s.answerTaken a).sendAgain_oneUnit hu
  refine ⟨_, wakeReplay_exec hq hl hgroup hsaved hwaits hf, n, ?_⟩
  rw [State.reissue_unchanged hre', hsent, State.answerTaken_eq hq]

theorem finalReply_exec {types : Rights} {reason : Nat} (hf : a.final = some (types, reason)) (hexe : types &&& acExec = 0)
    (hkind : r.kind.access &&& types ≠ 0) : exec .finalReply s = .next ((s.answerTaken a).finalReq reason r) := by
  have hfind : (s.xl.answers.findSome? fun a => if s.landed a.ticket then a.final.map fun f => (a, f) else none) =
      some (a, (types, reason)) := by
    rw [hq, List.findSome?_cons, hl, hf]; rfl
  have hexec : exec .finalReply s = execFinalReply s := rfl
  have hsaved' : (s.answerTaken a).groupSaved gid = false := hsaved
  have hwaits' : (s.answerTaken a).waitingOf a.die a.page (.group gid) = [r] := hwaits
  simp only [hexec, execFinalReply, hfind]
  show Host.Outcome.next ((s.answerTaken a).final a types reason) = _
  simp only [State.final, hgroup, hsaved', Bool.false_eq_true, if_false, hexe, if_true, hwaits', List.foldl_cons, List.foldl_nil, hkind]
end

/-! ### A final reaches a load (R114, R115) -/

theorem SMap.get_set_all {α : Type} [DecidableEq α] (d v : α) (ks : List Nat) (k : Nat) : ∀ m : SMap α,
    SMap.get d (ks.foldl (fun m j => SMap.set d m j v) m) k = if k ∈ ks then v else SMap.get d m k := by
  induction ks with
  | nil => intro m; simp
  | cons j ks ih =>
    intro m
    rw [List.foldl_cons, ih, SMap.get_set]
    by_cases hj : k = j
    · simp [hj]
    · simp [hj]

section
variable {g : Group} {slot : Nat} {o : OpEntry}

/-- Lanes of a load, none of them a helper, take a final fault: they are no longer waited for, and their causes are noted. -/
theorem Group.failOp_load (ho : SMap.find? g.oplog slot = some o) (hk : o.kind = .load) {ls : BitVec 32} (hh : ls &&& g.helper = 0)
    (cause reason page : Nat) : g.failOp slot ls cause reason page = { g with oplog := SMap.put g.oplog slot { o with
      pending := o.pending &&& ~~~ls, notNow := o.notNow &&& ~~~ls, faulted := o.faulted ||| ls
      causes := (lanes ls).foldl (fun m l => SMap.set (0, 0, 0) m l (cause, reason, page)) o.causes } } := by
  simp only [Group.failOp, hh, ite_self, if_true, Group.failLanes, ho, hk]

theorem State.dropParts_load {s : State} {gid : Nat} (hg : s.group? gid = some g) (ho : SMap.find? g.oplog slot = some o)
    (hk : o.kind = .load) : s.dropParts gid slot = s := by
  have hbind : ((s.group? gid).bind fun g => SMap.find? g.oplog slot) = some o := by rw [hg]; exact ho
  simp only [State.dropParts, hbind, hk]
  rfl

theorem State.finalReq_load {s : State} {gid : Nat} {r : Req} (hw : r.who = .op gid slot) (hk : r.kind ≠ .watch)
    (hg : s.group? gid = some g) (ho : SMap.find? g.oplog slot = some o) (hload : o.kind = .load) (hh : r.laneMask &&& g.helper = 0)
    (reason : Nat) : ∃ page, s.finalReq reason r = (s.dropReq r.tag).setGroup gid { g with oplog := SMap.put g.oplog slot { o with
      pending := o.pending &&& ~~~r.laneMask, notNow := o.notNow &&& ~~~r.laneMask, faulted := o.faulted ||| r.laneMask
      causes := (lanes r.laneMask).foldl (fun m l => SMap.set (0, 0, 0) m l (causeOf reason, reason, page)) o.causes } } := by
  have hg' : (s.dropReq r.tag).group? gid = some g := hg
  simp only [State.finalReq, hw, State.failReq, if_neg hk, State.modGroup_some _ gid g _ hg', Group.failOp_load ho hload hh]
  exact ⟨_, State.dropParts_load (State.group?_setGroup_same ..) (SMap.find_put_same ..) hload⟩
end

theorem finalReply_spec {s : State} {a : Answer} {rest : List Answer} {gid : Nat} {r : Req} (hq : s.xl.answers = a :: rest)
    (hl : s.landed a.ticket = true) (hgroup : a.waiter = .group gid) (hsaved : s.groupSaved gid = false)
    (hwaits : s.waitingOf a.die a.page (.group gid) = [r]) {types : Rights} {reason slot : Nat} {g : Group} {o : OpEntry}
    (hf : a.final = some (types, reason)) (hexe : types &&& acExec = 0) (hkind : r.kind.access &&& types ≠ 0) (hw : r.who = .op gid slot)
    (hk : r.kind ≠ .watch) (hg : s.group? gid = some g) (ho : SMap.find? g.oplog slot = some o) (hload : o.kind = .load)
    (hh : r.laneMask &&& g.helper = 0) :
    s.Happens .finalReply fun t => ∃ k, t = { s.setGroup gid { g with oplog := SMap.put g.oplog slot { o with
        pending := o.pending &&& ~~~r.laneMask, notNow := o.notNow &&& ~~~r.laneMask
        faulted := o.faulted ||| r.laneMask, causes := k } } with
      xl := { s.xl with answers := rest }, md := { s.md with reqs := s.md.reqs.filter fun x => x.tag != r.tag } } ∧
      ∀ l < 32, lane r.laneMask l → (SMap.get (0, 0, 0) k l).1 = (if reason = 3 then 0x14 else if reason = 4 then 0x15 else 0x12) := by
  have hg' : (s.answerTaken a).group? gid = some g := hg
  obtain ⟨page, hfinal⟩ := State.finalReq_load hw hk hg' ho hload hh reason
  refine ⟨_, finalReply_exec hq hl hgroup hsaved hwaits hf hexe hkind,
    (lanes r.laneMask).foldl (fun m l => SMap.set (0, 0, 0) m l (causeOf reason, reason, page)) o.causes, ?_, fun l hlt hlane => ?_⟩
  · rw [hfinal, State.answerTaken_eq hq]
    rfl
  · rw [SMap.get_set_all, if_pos ((mem_lanes _ _).2 ⟨hlt, hlane⟩)]
    rfl

end Sys2Proof.Machine
end

section
/-! Firmware's writes of page table entries (R100, R103, R108): an entry that is written stands, and every byte beside it reads as before. -/

namespace Sys2Proof.Machine

/-! ### What such a write leaves unchanged -/

/-- At most device memory, the bookkeeping of a write at its home, and the fabric have changed. -/
def State.TableWritten (s t : State) : Prop :=
  t = { s with
    mem := t.mem, far := t.far, fab := t.fab
    md := { s.md with
      poison := t.md.poison, cleared := t.md.cleared, keyed := t.md.keyed, lines := t.md.lines, watches := t.md.watches
      fired := t.md.fired, deltas := t.md.deltas, parityAcks := t.md.parityAcks, stripeP := t.md.stripeP, nextTag := t.md.nextTag
      shadow := t.md.shadow } }

section
variable {s t : State}

theorem State.TableWritten.refl (s : State) : s.TableWritten s := rfl
theorem State.TableWritten.trans {u : State} (h : s.TableWritten t) (k : t.TableWritten u) : s.TableWritten u := by
  unfold State.TableWritten at *; rw [k, h]
theorem State.Performed.tableWritten (h : s.Performed t) : s.TableWritten t := by unfold State.Performed at h; rw [h]; rfl
theorem State.TableWritten.xl (h : s.TableWritten t) : t.xl = s.xl := by unfold State.TableWritten at h; rw [h]
theorem State.TableWritten.l1 (h : s.TableWritten t) : t.l1 = s.l1 := by unfold State.TableWritten at h; rw [h]
theorem State.TableWritten.groups (h : s.TableWritten t) : t.groups = s.groups := by unfold State.TableWritten at h; rw [h]
theorem State.TableWritten.blocks (h : s.TableWritten t) : t.blocks = s.blocks := by unfold State.TableWritten at h; rw [h]
theorem State.TableWritten.host (h : s.TableWritten t) : t.host = s.host := by unfold State.TableWritten at h; rw [h]
theorem State.TableWritten.dies (h : s.TableWritten t) : t.md.failed = s.md.failed ∧ t.md.retired = s.md.retired := by
  unfold State.TableWritten at h; rw [h]; exact ⟨rfl, rfl⟩
theorem State.TableWritten.lost (h : s.TableWritten t) : t.md.lost = s.md.lost ∧ t.md.unbuilt = s.md.unbuilt := by
  unfold State.TableWritten at h; rw [h]; exact ⟨rfl, rfl⟩

theorem State.TableWritten.leafKeyNo (h : s.TableWritten t) (leaf : BitVec 64) : t.leafKeyNo leaf = s.leafKeyNo leaf := by
  unfold State.leafKeyNo; rw [h.host]

/-- Which die serves a unit depends on the dies that are gone alone. -/
theorem State.unitSpot_congr (hf : t.md.failed = s.md.failed) (hr : t.md.retired = s.md.retired) (p ia : Nat) :
    t.unitSpot p ia = s.unitSpot p ia := by
  unfold State.unitSpot State.servingDie; rw [hf, hr]
theorem State.TableWritten.unitSpot (h : s.TableWritten t) (p ia : Nat) : t.unitSpot p ia = s.unitSpot p ia :=
  State.unitSpot_congr h.dies.1 h.dies.2 p ia
end

/-! ### Poison (R61, R62) -/

theorem homeDie_unit {ia ib : Nat} (hu : ia / 256 = ib / 256) : homeDie ia = homeDie ib := by
  unfold homeDie parityDie; rw [hu, show ia / 4096 = ib / 4096 by omega]

/-- Poison is kept by sectors. -/
theorem State.poisonedAt_sector (s : State) (far : Bool) {ia ib a b : Nat} (hu : ia / 256 = ib / 256) (hs : a / 32 = b / 32) :
    s.poisonedAt far ia a = s.poisonedAt far ib b := by
  have hkey : poisonKey far a = poisonKey far b := by
    unfold poisonKey
    split
    · omega
    · omega
  unfold State.poisonedAt State.lostAt
  rw [hkey, homeDie_unit hu, hs, show a / 4352 = b / 4352 by omega]

/-- No sector is poisoned, lost, or missing since a die failed. -/
structure State.Unharmed (s : State) : Prop where
  poison : s.md.poison = []
  lost : s.md.lost = 0
  unbuilt : s.md.unbuilt = []

theorem State.Unharmed.poisonedAt {s : State} (h : s.Unharmed) (far : Bool) (ia a : Nat) : s.poisonedAt far ia a = false := by
  unfold State.poisonedAt State.lostAt
  rw [h.poison, h.lost, h.unbuilt]
  simp [SMap.get]

theorem clear_nil {β : Type} (f : β → Nat) (xs : List β) : xs.foldl (fun m x => SMap.set false m (f x) false) ([] : SMap Bool) = [] :=
  foldl_keeps (· = []) _ xs _ rfl fun m x h => by rw [h]; rfl

theorem State.performWrite_poison {s : State} (h : s.md.poison = []) (leaf : BitVec 64) (ia pa : Nat) (w : List (Nat × BitVec 8)) :
    (s.performWrite leaf ia pa w).md.poison = [] := by
  simp only [State.performWrite]
  split
  · show List.foldl _ s.md.poison _ = []
    rw [h]; exact clear_nil _ _
  · show List.foldl _ s.md.poison _ = []
    rw [h]; exact clear_nil _ _

/-! ### One write of firmware -/

/-- Through a leaf of device memory that is not compressed, firmware performs its write and sends the parity delta. -/
theorem State.firmwareWrite_eq {leaf : BitVec 64} (hf : leafF leaf = false) (hz : leafZ leaf = false) (s : State) (ctx ia pa : Nat)
    (bytes : List (BitVec 8)) : ∃ tag ds p, s.firmwareWrite ctx ia pa leaf bytes =
      (s.performWrite leaf ia pa ((List.range bytes.length).map fun i => (pa + i, bytes.getD i 0))).modMd fun m =>
        { m with nextTag := tag, deltas := ds, stripeP := p } := by
  simp only [State.firmwareWrite, State.writeNow, hf, hz, Bool.false_eq_true, if_false, Option.getD_some]
  split
  · exact ⟨_, _, _, rfl⟩
  · exact ⟨_, _, _, rfl⟩

/-- The 8 bytes of an entry at a place. -/
def entryBytes (spot : Nat) (e : BitVec 64) : List (Nat × BitVec 8) := (List.range 8).map fun i => (spot + i, (toBytes 8 e.toNat).getD i 0)

theorem mem_entryBytes {spot : Nat} {e : BitVec 64} {x : Nat × BitVec 8} :
    x ∈ entryBytes spot e ↔ ∃ i < 8, x = (spot + i, (toBytes 8 e.toNat).getD i 0) := by
  simp only [entryBytes, List.mem_map, List.mem_range, eq_comm]

/-- An entry stands at a place, under the key that firmware writes with. -/
structure State.HoldsEntry (s : State) (spot : Nat) (e : BitVec 64) : Prop where
  key : SMap.get 0 s.md.keyed (spot / 32) = s.leafKeyNo deviceLeaf + 1
  bytes : ∀ i < 8, s.byteAt deviceLeaf (spot + i) = (toBytes 8 e.toNat).getD i 0

theorem State.HoldsEntry.entryAt {s : State} {pa : Nat} {e : BitVec 64} (hpa : pa % 8 = 0)
    (h : s.HoldsEntry (s.unitSpot (pa / 4096) pa) e) : s.entryAt pa = e := by
  have hspot : s.unitSpot (pa / 4096) pa % 8 = 0 := by unfold State.unitSpot slotAt; omega
  have hread : (List.range 8).map (fun i => Memory.read s.mem (s.unitSpot (pa / 4096) pa + i)) = toBytes 8 e.toNat := by
    refine List.ext_getElem (by simp) fun i hi _ => ?_
    have hi : i < 8 := by simpa using hi
    have hb := h.bytes i hi
    have hkey : SMap.get 0 s.md.keyed ((s.unitSpot (pa / 4096) pa + i) / 32) = s.leafKeyNo deviceLeaf + 1 := by
      rw [show (s.unitSpot (pa / 4096) pa + i) / 32 = s.unitSpot (pa / 4096) pa / 32 by omega]
      exact h.key
    simp only [State.byteAt, show leafF deviceLeaf = false from rfl, hkey, Bool.false_eq_true, if_false, or_true, if_true] at hb
    rw [List.getElem_map, List.getElem_range, hb, List.getD_eq_getElem]
  rw [State.entryAt, Memory.readN, hread, ofBytes_toBytes, Nat.mod_eq_of_lt (by simpa using e.isLt), BitVec.ofNat_toNat, BitVec.setWidth_eq]

/-- What firmware's write of an entry does to device memory. -/
structure State.EntryWritten (s : State) (spot : Nat) (e : BitVec 64) (t : State) : Prop where
  written : s.TableWritten t
  same : ∀ a, (a < spot ∨ spot + 8 ≤ a) → t.byteAt deviceLeaf a = s.byteAt deviceLeaf a
  keyed : ∀ sec, SMap.get 0 t.md.keyed sec = if sec = spot / 32 then s.leafKeyNo deviceLeaf + 1 else SMap.get 0 s.md.keyed sec
  bytes : ∀ i < 8, t.byteAt deviceLeaf (spot + i) = (toBytes 8 e.toNat).getD i 0
  poison : s.md.poison = [] → t.md.poison = []

theorem State.EntryWritten.holds {s t : State} {spot : Nat} {e : BitVec 64} (h : s.EntryWritten spot e t) : t.HoldsEntry spot e :=
  ⟨by rw [h.keyed, if_pos rfl, h.written.leafKeyNo], h.bytes⟩

/-- An entry stays when the same entry is written at another place. -/
theorem State.HoldsEntry.keeps {s t : State} {spot other : Nat} {e : BitVec 64} (h : s.HoldsEntry spot e) (hspot : spot % 8 = 0)
    (hother : other % 8 = 0) (k : s.EntryWritten other e t) : t.HoldsEntry spot e := by
  by_cases heq : spot = other
  · exact heq ▸ k.holds
  · refine ⟨?_, fun i hi => ?_⟩
    · rw [k.keyed, k.written.leafKeyNo, h.key, ite_self]
    · rw [k.same _ (by omega)]
      exact h.bytes i hi

/-- The home of an entry and the sector of its place are those of its first byte. -/
theorem State.standing_entry {s : State} {pa spot : Nat} (hpa : pa % 8 = 0) (hspot : spot % 256 = pa % 256)
    (hp : s.poisonedAt false pa spot = false) (e : BitVec 64) : s.standing false pa spot (entryBytes spot e) = entryBytes spot e := by
  refine List.filter_eq_self.2 fun x hx => ?_
  obtain ⟨i, hi, rfl⟩ := mem_entryBytes.1 hx
  have hsector : s.poisonedAt false (pa + (spot + i) - spot) (spot + i) = false :=
    (s.poisonedAt_sector false (by omega) (by omega)).trans hp
  simp only [hsector, Bool.not_false, Bool.true_or]

theorem State.firmwareWrite_entry {s : State} {pa spot : Nat} (hpa : pa % 8 = 0) (hspot : spot % 256 = pa % 256)
    (hp : s.poisonedAt false pa spot = false) (e : BitVec 64) :
    s.EntryWritten spot e (s.firmwareWrite 0 pa spot deviceLeaf (toBytes 8 e.toNat)) := by
  have hf : leafF deviceLeaf = false := rfl
  obtain ⟨tag, ds, p, heq⟩ := State.firmwareWrite_eq hf rfl s 0 pa spot (toBytes 8 e.toNat)
  rw [toBytes_length] at heq
  change _ = (s.performWrite deviceLeaf pa spot (entryBytes spot e)).modMd _ at heq
  have hs : s.standing (leafF deviceLeaf) pa spot (entryBytes spot e) = entryBytes spot e := State.standing_entry hpa hspot hp e
  have hfn : ∀ x ∈ entryBytes spot e, ∀ y ∈ entryBytes spot e, y.1 = x.1 → y.2 = x.2 := fun x hx y hy hxy => by
    obtain ⟨i, hi, rfl⟩ := mem_entryBytes.1 hx
    obtain ⟨j, hj, rfl⟩ := mem_entryBytes.1 hy
    rw [Nat.add_left_cancel hxy]
  have hw := s.performWrite_written deviceLeaf pa spot (entryBytes spot e) hs hfn
  have hframe := s.performWrite_performed deviceLeaf pa spot (entryBytes spot e)
  have hpoison := fun h => s.performWrite_poison h deviceLeaf pa spot (entryBytes spot e)
  obtain ⟨-, -, hkey, -⟩ := State.performWrite_near hf hs
  have hsecs : ((entryBytes spot e).map fun x => x.1 / 32).eraseDups = [spot / 32] := by
    have hall : (entryBytes spot e).map (fun x => x.1 / 32) = List.replicate 8 (spot / 32) := by
      refine List.map_eq_replicate_iff.2 fun x hx => ?_
      obtain ⟨i, hi, rfl⟩ := mem_entryBytes.1 hx
      show (spot + i) / 32 = spot / 32
      omega
    rw [hall]; simp [List.replicate, List.eraseDups_cons]
  rw [heq]
  generalize s.performWrite deviceLeaf pa spot (entryBytes spot e) = u at *
  refine ⟨hframe.tableWritten.trans rfl, fun a ha => ?_, fun sec => ?_, fun i hi => ?_, hpoison⟩
  · refine hw.same a fun x hx => ?_
    obtain ⟨i, hi, rfl⟩ := mem_entryBytes.1 hx
    show spot + i ≠ a
    omega
  · rw [hsecs] at hkey
    exact (congrArg (SMap.get 0 · sec) hkey).trans (State.rekey_keyed ..)
  · exact hw.wrote _ (mem_entryBytes.2 ⟨i, hi, rfl⟩)

/-! ### Firmware's writes of entries, one after another -/

/-- One of firmware's writes of an entry: the shadows of a page that it maps anew are zeroed first. -/
def State.fwWrite (t : State) (w : Nat × BitVec 64) : State :=
  (t.freshShadow (t.entryAt w.1) w.2).firmwareWrite 0 w.1 (t.unitSpot (w.1 / 4096) w.1) deviceLeaf (toBytes 8 w.2.toNat)

theorem State.fwApply_eq (s : State) : s.fwApply = (s.xl.fwWrites.foldl State.fwWrite s).modXl fun x => { x with fwWrites := [] } := rfl

theorem State.unitSpot_mod (s : State) (p ia : Nat) : s.unitSpot p ia % 256 = ia % 256 := by unfold State.unitSpot slotAt; omega

/-- The shadows are not what an entry is read from. -/
theorem State.freshShadow_eq (s : State) (old new : BitVec 64) : ∃ sh, s.freshShadow old new = s.modMd fun m => { m with shadow := sh } := by
  simp only [State.freshShadow]
  split
  · exact ⟨s.md.shadow, rfl⟩
  · exact ⟨_, rfl⟩

theorem State.fwWrite_written {s : State} {pa : Nat} (hpa : pa % 8 = 0) (hp : s.poisonedAt false pa (s.unitSpot (pa / 4096) pa) = false)
    (e : BitVec 64) : s.EntryWritten (s.unitSpot (pa / 4096) pa) e (s.fwWrite (pa, e)) := by
  obtain ⟨sh, hsh⟩ := s.freshShadow_eq (s.entryAt pa) e
  have h := State.firmwareWrite_entry (s := s.modMd fun m => { m with shadow := sh }) hpa (s.unitSpot_mod (pa / 4096) pa) hp e
  unfold State.fwWrite
  rw [hsh]
  exact ⟨(show s.TableWritten (s.modMd fun m => { m with shadow := sh }) from rfl).trans h.written, h.same, h.keyed, h.bytes, h.poison⟩

theorem State.Unharmed.fwWrite {s t : State} {spot : Nat} {e : BitVec 64} (h : s.Unharmed) (k : s.EntryWritten spot e t) : t.Unharmed :=
  ⟨k.poison h.poison, k.written.lost.1.trans h.lost, k.written.lost.2.trans h.unbuilt⟩

/-- The same entry at several addresses: it stands at each. -/
theorem State.fwWrites_hold (e : BitVec 64) (as : List Nat) (has : ∀ a ∈ as, a % 8 = 0) : ∀ s : State, s.Unharmed →
    let t := (as.map fun a => (a, e)).foldl State.fwWrite s
    s.TableWritten t ∧ t.Unharmed ∧ (∀ spot, spot % 8 = 0 → s.HoldsEntry spot e → t.HoldsEntry spot e) ∧
      ∀ a ∈ as, t.HoldsEntry (s.unitSpot (a / 4096) a) e := by
  induction as with
  | nil => exact fun s h => ⟨.refl s, h, fun _ _ k => k, fun _ ha => absurd ha List.not_mem_nil⟩
  | cons a as ih =>
    intro s h
    have hw := State.fwWrite_written (has a List.mem_cons_self) (h.poisonedAt ..) e
    obtain ⟨hwritten, hunharmed, hkeep, hholds⟩ := ih (fun b hb => has b (List.mem_cons_of_mem a hb)) (s.fwWrite (a, e)) (h.fwWrite hw)
    have hspot : ∀ b ∈ a :: as, s.unitSpot (b / 4096) b % 8 = 0 := fun b hb => by
      have := s.unitSpot_mod (b / 4096) b
      have := has b hb
      omega
    refine ⟨hw.written.trans hwritten, hunharmed, fun spot hs k => hkeep spot hs (k.keeps hs (hspot a List.mem_cons_self) hw), fun b hb => ?_⟩
    rcases List.mem_cons.1 hb with rfl | hb'
    · exact hkeep _ (hspot b hb) hw.holds
    · rw [← hw.written.unitSpot]
      exact hholds b hb'

/-- The places of an entry, its copies in a larger page included, are aligned and hold the entry's own address. -/
theorem mem_entryCopies {a n : Nat} (ha : a % 8 = 0) (hn : 0 < n) :
    a ∈ (List.range n).map fun k => a / (8 * n) * (8 * n) + 8 * k := by
  refine List.mem_map.2 ⟨a % (8 * n) / 8, List.mem_range.2 ?_, ?_⟩
  · exact (Nat.div_lt_iff_lt_mul (by decide)).2 (by rw [Nat.mul_comm n 8]; exact Nat.mod_lt _ (by omega))
  · have h8 : a % (8 * n) % 8 = 0 := by rw [Nat.mod_mul_right_mod]; exact ha
    show a / (8 * n) * (8 * n) + 8 * (a % (8 * n) / 8) = a
    rw [Nat.mul_div_cancel' (Nat.dvd_of_mod_eq_zero h8), Nat.div_add_mod']

/-- Firmware applies one entry at several addresses, beside which it has nothing to write. -/
theorem State.fwApply_holds {s : State} (h : s.Unharmed) (hfw : s.xl.fwWrites = []) {as : List Nat} (has : ∀ a ∈ as, a % 8 = 0)
    (e : BitVec 64) {a : Nat} (hin : a ∈ as) :
    let t := (s.modXl fun x => { x with fwWrites := x.fwWrites ++ as.map fun a => (a, e) }).fwApply
    s.TableWritten t ∧ t.entryAt a = e := by
  obtain ⟨hwritten, -, -, hholds⟩ := State.fwWrites_hold e as has (s.modXl fun x => { x with fwWrites := x.fwWrites ++ as.map fun a => (a, e) })
    ⟨h.poison, h.lost, h.unbuilt⟩
  have hentry := State.HoldsEntry.entryAt (has a hin) (by rw [hwritten.unitSpot]; exact hholds a hin)
  have hlist : (s.modXl fun x => { x with fwWrites := x.fwWrites ++ as.map fun a => (a, e) }).xl.fwWrites = as.map fun a => (a, e) := by
    simp only [State.modXl, hfw, List.nil_append]
  intro t
  have ht : t = _ := State.fwApply_eq _
  rw [hlist] at ht
  generalize (as.map fun a => (a, e)).foldl State.fwWrite _ = u at *
  rw [ht]
  refine ⟨?_, hentry⟩
  unfold State.TableWritten at hwritten ⊢
  rw [hwritten]
  simp only [State.modXl, ← hfw]

theorem State.writeEntry_holds {s : State} {a : Nat} (h : s.Unharmed) (hfw : s.xl.fwWrites = []) (ha : a % 8 = 0) (e : BitVec 64) :
    s.TableWritten (s.writeEntry a e) ∧ (s.writeEntry a e).entryAt a = e := by
  simp only [State.writeEntry]
  have hn : 0 < 2 ^ (sizeLog (leafSize e) - levelShift (sizeLevel (leafSize e))) := Nat.two_pow_pos _
  generalize 2 ^ (sizeLog (leafSize e) - levelShift (sizeLevel (leafSize e))) = n at hn
  have hlist : ((List.range n).map fun k => (a / (8 * n) * (8 * n) + 8 * k, e)) =
      ((List.range n).map fun k => a / (8 * n) * (8 * n) + 8 * k).map fun a => (a, e) := by rw [List.map_map]; rfl
  rw [hlist]
  refine State.fwApply_holds h hfw (fun b hb => ?_) e (mem_entryCopies ha hn)
  obtain ⟨k, -, rfl⟩ := List.mem_map.1 hb
  rw [show a / (8 * n) * (8 * n) + 8 * k = 8 * (a / (8 * n) * n + k) by ring]
  exact Nat.mul_mod_right ..

end Sys2Proof.Machine
end

section
/-! Invalidations (R108): what sending one to every die leaves, and what each of its steps does. -/

namespace Sys2Proof.Machine

/-! ### The range goes to every die -/

/-- The dies to which an invalidation goes: the memory dies that serve, and the host bridge. -/
def State.invalDies (s : State) : List Nat := ((List.range 17).filter fun d => !s.dieGone d) ++ [17]

theorem invalFlits_go (ds : List Nat) : ∀ a : State × List (Nat × Ticket),
    let r := ds.foldl (fun (a : State × List (Nat × Ticket)) d =>
      let f := a.1.message controlPort (portOfHome d) 2
      (f.1, a.2 ++ [(d, f.2)])) a
    a.1.SameButFab r.1 ∧ r.2.map (·.1) = a.2.map (·.1) ++ ds := by
  induction ds with
  | nil => exact fun a => ⟨.refl a.1, (List.append_nil _).symm⟩
  | cons d ds ih =>
    intro a
    obtain ⟨hfab, hdies⟩ := ih ((a.1.message controlPort (portOfHome d) 2).1, a.2 ++ [(d, (a.1.message controlPort (portOfHome d) 2).2)])
    refine ⟨(State.message_fab a.1 _ _ _).trans hfab, hdies.trans ?_⟩
    rw [List.map_append, List.append_assoc]
    rfl

/-- The flits of an invalidation. -/
def State.invalFlits (s : State) : State × List (Nat × Ticket) :=
  s.invalDies.foldl (fun (a : State × List (Nat × Ticket)) d =>
    let f := a.1.message controlPort (portOfHome d) 2
    (f.1, a.2 ++ [(d, f.2)])) (s, [])

theorem State.invalidate_sends (s : State) (lo hi : Nat) : ∃ v : Inval,
    s.Becomes { s.xl with invals := s.xl.invals ++ [v] } (s.invalidate lo hi) ∧ v.lo = lo ∧ v.hi = hi ∧ v.fin = [] ∧ v.acks = [] ∧
      v.todo.map (·.1) = s.invalDies := by
  obtain ⟨hfab, hdies⟩ := invalFlits_go s.invalDies (s, [])
  have heq : s.invalidate lo hi = s.invalFlits.1.modXl fun x => { x with
    invals := x.invals ++ [{ lo := lo, hi := hi, todo := s.invalFlits.2, fin := [], acks := [] }] } := rfl
  rw [heq]
  exact ⟨_, State.Becomes.modXl (x := s.xl) hfab _, rfl, rfl, rfl, rfl, hdies⟩

/-! ### Firmware asks for it -/

section
variable {s : State} {lo hi : Nat}

theorem tlbInvalidation_new {pa : Nat} {x : BitVec 64} (hnew : ∀ v ∈ s.xl.invals, v.lo ≠ lo ∨ v.hi ≠ hi)
    (hfw : s.xl.fwWrites = [(pa, x)]) (hpa : pa % 8 = 0) (hp : s.poisonedAt false pa (s.unitSpot (pa / 4096) pa) = false) :
    s.Happens (.tlbInvalidation lo hi) fun t => t.groups = s.groups ∧ t.blocks = s.blocks ∧ t.xl.fwWrites = [] ∧
      t.xl.tlb = s.xl.tlb ∧ t.entryAt pa = x ∧
      (∀ a, (a < s.unitSpot (pa / 4096) pa ∨ s.unitSpot (pa / 4096) pa + 8 ≤ a) → t.byteAt deviceLeaf a = s.byteAt deviceLeaf a) ∧
      ∃ v : Inval, t.xl.invals = s.xl.invals ++ [v] ∧ v.lo = lo ∧ v.hi = hi ∧ v.fin = [] ∧ v.acks = [] ∧
        v.todo.map (·.1) = ((List.range 17).filter fun d => !s.dieGone d) ++ [17] := by
  have hfind : (s.xl.invals.find? fun v => v.lo == lo && v.hi == hi) = none := List.find?_eq_none.2 fun v hv => by
    rcases hnew v hv with h | h
    · simp [h]
    · simp [h]
  have hexec : exec (.tlbInvalidation lo hi) s = execTlbInvalidation lo hi s := rfl
  have hw := State.fwWrite_written hpa hp x
  have hentry : (s.fwWrite (pa, x)).entryAt pa = x := State.HoldsEntry.entryAt hpa (by rw [hw.written.unitSpot]; exact hw.holds)
  have happly : s.fwApply = (s.fwWrite (pa, x)).modXl fun x => { x with fwWrites := [] } := by
    rw [State.fwApply_eq, hfw, List.foldl_cons, List.foldl_nil]
  obtain ⟨v, hsent, hlo, hhi, hfin, hacks, htodo⟩ := s.fwApply.invalidate_sends lo hi
  have hdies : ((s.fwWrite (pa, x)).modXl fun x => { x with fwWrites := [] }).invalDies = s.invalDies := by
    unfold State.invalDies State.dieGone State.modXl
    rw [hw.written.dies.1, hw.written.dies.2]
  refine ⟨s.fwApply.invalidate lo hi, by simp only [hexec, execTlbInvalidation, hfind], ?_⟩
  generalize s.fwApply.invalidate lo hi = t at hsent
  rw [happly] at hsent htodo
  obtain ⟨f, rfl⟩ : ∃ f, t = { s.fwWrite (pa, x) with xl := { s.xl with fwWrites := [], invals := s.xl.invals ++ [v] }, fab := f } := by
    refine ⟨t.fab, (show t = _ from hsent).trans ?_⟩
    simp only [State.modXl, hw.written.xl]
  exact ⟨hw.written.groups, hw.written.blocks, rfl, rfl, hentry, hw.same, v, rfl, hlo, hhi, hfin, hacks, htodo.trans hdies⟩

/-! ### Its steps -/

variable {v : Inval} (hv : s.xl.invals.find? (fun x => x.lo == lo && x.hi == hi) = some v)
include hv

theorem Inval.range_of_find : v.lo = lo ∧ v.hi = hi := by
  have h := List.find?_some hv
  simpa using h

theorem tlbInvalidation_exec {t : State} (ht : s.invalStep v = some t) : exec (.tlbInvalidation lo hi) s = .next t := by
  have hexec : exec (.tlbInvalidation lo hi) s = execTlbInvalidation lo hi s := rfl
  simp only [hexec, execTlbInvalidation, hv, ht]

theorem tlbInvalidation_acknowledges {d : Nat} {more : List Nat} (htodo : v.todo = []) (hfin : v.fin = d :: more)
    (hdone : s.rangeDone d lo hi = true) : s.Happens (.tlbInvalidation lo hi) fun t => ∃ n, t = { s with
      fab := t.fab
      xl := { s.xl with invals := s.xl.invals.map fun y => if y = v then { v with fin := more, acks := v.acks ++ [n] } else y } } := by
  obtain ⟨rfl, rfl⟩ := Inval.range_of_find hv
  have hfind : ((d :: more).find? fun d => s.rangeDone d v.lo v.hi) = some d := List.find?_cons_of_pos hdone
  have hstep : s.invalStep v = some ((s.message (portOfHome d) controlPort 2).1.modXl fun x => { x with invals := x.invals.map fun y =>
      if y = v then { v with fin := more, acks := v.acks ++ [(s.message (portOfHome d) controlPort 2).2] } else y }) := by
    simp only [State.invalStep, htodo, List.find?_nil, hfind, hfin, List.erase_cons_head]
  exact ⟨_, tlbInvalidation_exec hv hstep, _, ((State.Becomes.refl s).message _ _ _).modXl _⟩

theorem tlbInvalidation_ends (htodo : v.todo = []) (hfin : v.fin = []) (hacks : ∀ a ∈ v.acks, s.landed a = true) :
    s.Happens (.tlbInvalidation lo hi) fun t => t = { s with xl := { s.xl with invals := s.xl.invals.erase v } } := by
  refine ⟨s.modXl fun x => { x with invals := x.invals.erase v }, tlbInvalidation_exec hv ?_, rfl⟩
  simp only [State.invalStep, htodo, hfin, List.find?_nil, List.isEmpty_nil, List.all_eq_true.2 hacks, Bool.and_self, if_true]

/-- The page that a leaf maps around a page lies outside a range. -/
def leafOutside (lo hi page : Nat) (e : BitVec 64) : Prop :=
  let sz := 2 ^ sizeLog (leafSize e)
  let a := page * 4096 / sz * sz
  hi < a ∨ a + sz ≤ lo

theorem tlbInvalidation_drops {d : Nat × Ticket} {more : List (Nat × Ticket)} (htodo : v.todo = d :: more) (hl : s.landed d.2 = true) :
    s.Happens (.tlbInvalidation lo hi) fun t =>
      t = { s with xl := { s.xl with
        tlb := t.xl.tlb, fills := t.xl.fills
        invals := s.xl.invals.map fun y => if y = v then { v with todo := more, fin := v.fin ++ [d.1] } else y } } ∧
      (∀ e, e ∈ t.xl.tlb ↔ e ∈ s.xl.tlb ∧ (e.1 / 2 ^ 40 ≠ d.1 ∨ leafOutside lo hi (e.1 % 2 ^ 40) e.2)) ∧
      t.xl.fills.length = s.xl.fills.length ∧
      ∀ f ∈ t.xl.fills, (f.die ≠ d.1 ∨ leafOutside lo hi f.page f.leaf ∨ f.leaf.getLsbD 0 = false) ∧
        ∃ k ∈ s.xl.fills, f = { k with leaf := f.leaf } ∧ (f.leaf = k.leaf ∨ f.leaf = k.leaf &&& ~~~1) := by
  obtain ⟨rfl, rfl⟩ := Inval.range_of_find hv
  have hfind : ((d :: more).find? fun d => s.landed d.2) = some d := List.find?_cons_of_pos hl
  have hstep : s.invalStep v = some ((s.dropRange d.1 v.lo v.hi).modXl fun x => { x with invals := x.invals.map fun y =>
      if y = v then { v with todo := more, fin := v.fin ++ [d.1] } else y }) := by
    simp only [State.invalStep, hfind, htodo, List.erase_cons_head]
  have hout (page : Nat) (e : BitVec 64) : leafOutside v.lo v.hi page e ↔
      (decide (page * 4096 / 2 ^ sizeLog (leafSize e) * 2 ^ sizeLog (leafSize e) ≤ v.hi) &&
        decide (v.lo < page * 4096 / 2 ^ sizeLog (leafSize e) * 2 ^ sizeLog (leafSize e) + 2 ^ sizeLog (leafSize e))) = false := by
    simp only [leafOutside, Bool.and_eq_false_iff, decide_eq_false_iff_not, Nat.not_le, Nat.not_lt]
  refine ⟨_, tlbInvalidation_exec hv hstep, rfl, fun e => ?_, List.length_map .., fun f hf => ?_⟩
  · refine List.mem_filter.trans (and_congr_right fun _ => ?_)
    rw [hout, Bool.not_eq_true', Bool.and_eq_false_iff, beq_eq_false_iff_ne]
  · obtain ⟨k, hk, rfl⟩ := List.mem_map.1 hf
    split
    · exact ⟨.inr (.inr (by simp)), k, hk, rfl, .inr rfl⟩
    · next hno =>
      refine ⟨?_, k, hk, rfl, .inl rfl⟩
      by_cases hd : k.die = d.1
      · exact .inr (.inl ((hout ..).2 (Bool.eq_false_iff.2 fun h => hno ⟨hd, h⟩)))
      · exact .inl hd
end

end Sys2Proof.Machine
end

section
/-! Migrations (R120 to R122): the entries that firmware writes, the bytes and the poison of a unit that is copied, and each stage's step. -/

namespace Sys2Proof.Machine

/-! ### Entries with fields changed (R101, R102) -/

/-- The bits of a power of two. -/
theorem getLsbD_ofNat_two_pow {i j : Nat} (hj : j < 64) : (BitVec.ofNat 64 (2 ^ i)).getLsbD j = decide (j = i) := by
  rw [BitVec.getLsbD_ofNat, decide_eq_true hj, Bool.true_and, Nat.testBit_two_pow]
  exact decide_eq_decide.2 eq_comm

/-- One bit of an entry set to a value. -/
theorem getLsbD_putBit (x : BitVec 64) {i j : Nat} (hj : j < 64) (b : Bool) :
    (if b then x ||| BitVec.ofNat 64 (2 ^ i) else x &&& ~~~(BitVec.ofNat 64 (2 ^ i))).getLsbD j = if j = i then b else x.getLsbD j := by
  cases b with
  | true =>
    rw [if_pos rfl, BitVec.getLsbD_or, getLsbD_ofNat_two_pow hj]
    by_cases h : j = i
    · simp [h]
    · simp [h]
  | false =>
    rw [if_neg Bool.false_ne_true, BitVec.getLsbD_and, BitVec.getLsbD_not, getLsbD_ofNat_two_pow hj, decide_eq_true hj]
    by_cases h : j = i
    · simp [h]
    · simp [h]

/-- The bits of an entry with V, W, F and FRAME changed. -/
theorem getLsbD_entryWith (e : BitVec 64) (v w f : Bool) (frame : Nat) {j : Nat} (hj : j < 64) : (entryWith e v w f frame).getLsbD j =
    if 12 ≤ j ∧ j < 52 then frame.testBit (j - 12) else if j = 8 then f else if j = 3 then w else if j = 0 then v else e.getLsbD j := by
  have hframe : (BitVec.ofNat 64 (frame % 2 ^ 40 * 2 ^ 12)).getLsbD j = (decide (12 ≤ j ∧ j < 52) && frame.testBit (j - 12)) := by
    rw [BitVec.getLsbD_ofNat, decide_eq_true hj, Bool.true_and, Nat.testBit_mul_two_pow, Nat.testBit_mod_two_pow]
    by_cases h : 12 ≤ j
    · simp [h, show j - 12 < 40 ↔ j < 52 by omega]
    · simp [h]
  have hclear : (e &&& ~~~(BitVec.ofNat 64 ((2 ^ 40 - 1) * 2 ^ 12))).getLsbD j = (e.getLsbD j && !decide (12 ≤ j ∧ j < 52)) := by
    rw [BitVec.getLsbD_and, BitVec.getLsbD_not, BitVec.getLsbD_ofNat, decide_eq_true hj, Bool.true_and, Bool.true_and,
      Nat.testBit_mul_two_pow, Nat.testBit_two_pow_sub_one]
    by_cases h : 12 ≤ j
    · simp [h, show j - 12 < 40 ↔ j < 52 by omega]
    · simp [h]
  simp only [entryWith]
  rw [BitVec.getLsbD_or, hframe, getLsbD_putBit _ hj, getLsbD_putBit _ hj, getLsbD_putBit _ hj, hclear]
  by_cases h : 12 ≤ j ∧ j < 52
  · simp [h, show j ≠ 8 by omega, show j ≠ 3 by omega, show j ≠ 0 by omega]
  · simp [h]

theorem leafZ_entryWith (e : BitVec 64) (v w f : Bool) (frame : Nat) : leafZ (entryWith e v w f frame) = leafZ e := by
  rw [leafZ, getLsbD_entryWith _ _ _ _ _ (by decide)]; rfl

/-- Withdrawing W from a valid entry clears that bit. -/
theorem entryWith_withdrawn {e : BitVec 64} (hv : e.getLsbD 0 = true) :
    entryWith e true false (leafF e) (bits e.toNat 12 40) = e &&& ~~~8 := by
  refine BitVec.eq_of_getLsbD_eq fun j hj => ?_
  have hw : (8 : BitVec 64).getLsbD j = decide (j = 3) := getLsbD_ofNat_two_pow (i := 3) hj
  rw [getLsbD_entryWith _ _ _ _ _ hj, BitVec.getLsbD_and, BitVec.getLsbD_not, decide_eq_true hj, hw]
  split_ifs with hframe h8 h3 h0
  · rw [bits, Nat.testBit_mod_two_pow, Nat.testBit_div_two_pow, show j - 12 + 12 = j by omega, decide_eq_true (show j - 12 < 40 by omega)]
    simp [show j ≠ 3 by omega, BitVec.getLsbD]
  · simp [h8, leafF]
  · simp [h3]
  · simp [h0, hv]
  · simp [h3]

/-! ### The entry of a page (R100, R107) -/

theorem entriesFrom_aligned (s : State) (ia : Nat) (l : Nat) : ∀ t, t % 8 = 0 → ∀ a ∈ entriesFrom s ia l t, a % 8 = 0 := by
  induction l with
  | zero =>
    intro t ht a ha
    rw [List.mem_singleton.1 ha]
    omega
  | succ l ih =>
    intro t ht a ha
    rcases List.mem_cons.1 ha with rfl | ha
    · omega
    · split at ha
      · exact ih _ (by omega) a ha
      · cases ha

theorem State.entryPA_aligned {s : State} (hroot : s.xl.xroot % 4096 = 0) (ia : Nat) : s.entryPA ia % 8 = 0 := by
  unfold State.entryPA
  cases h : (s.walkPath ia).getLast? with
  | none => rfl
  | some a => exact entriesFrom_aligned s _ 4 _ (by omega) a (List.mem_of_getLast? h)

/-! ### An entry is put in place -/

/-- Firmware has put an entry in place; groups, blocks and L1 are as they were. -/
structure State.EntryPlaced (s : State) (a : Nat) (e : BitVec 64) (t : State) : Prop where
  groups : t.groups = s.groups
  blocks : t.blocks = s.blocks
  l1 : t.l1 = s.l1
  entry : t.entryAt a = e

theorem State.EntryPlaced.refl {s : State} {a : Nat} {e : BitVec 64} (h : s.entryAt a = e) : s.EntryPlaced a e s := ⟨rfl, rfl, rfl, h⟩

theorem State.writeEntry_placed {s : State} {a : Nat} (h : s.Unharmed) (hfw : s.xl.fwWrites = []) (ha : a % 8 = 0) (e : BitVec 64) :
    s.EntryPlaced a e (s.writeEntry a e) := by
  obtain ⟨hwritten, hentry⟩ := State.writeEntry_holds h hfw ha e
  exact ⟨hwritten.groups, hwritten.blocks, hwritten.l1, hentry⟩

theorem State.EntryPlaced.invalidate {s t : State} {a : Nat} {e : BitVec 64} (h : s.EntryPlaced a e t) (lo hi : Nat) :
    s.EntryPlaced a e (t.invalidate lo hi) := by
  obtain ⟨v, hsent, -⟩ := t.invalidate_sends lo hi
  unfold State.Becomes at hsent
  generalize t.invalidate lo hi = u at hsent
  rw [hsent]
  exact ⟨h.groups, h.blocks, h.l1, h.entry⟩

theorem State.EntryPlaced.page {s t : State} {a : Nat} {e : BitVec 64} (h : s.EntryPlaced a e t) (live : Bool) (m : Machine.Migration) :
    s.EntryPlaced a e (if live then t.invalidatePage m else t) := by
  split
  · exact h.invalidate ..
  · exact h

/-! ### A unit is copied (R120, R121) -/

theorem SMap.get_set_each {α : Type} [DecidableEq α] (d : α) (key : Nat → Nat) (val : Nat → α) (k : Nat) (js : List Nat)
    (hinj : ∀ j ∈ js, key j = key k → j = k) : ∀ m : SMap α,
    SMap.get d (js.foldl (fun m j => SMap.set d m (key j) (val j)) m) (key k) = if k ∈ js then val k else SMap.get d m (key k) := by
  induction js with
  | nil => intro m; simp
  | cons j js ih =>
    intro m
    rw [List.foldl_cons, ih (fun i hi => hinj i (List.mem_cons_of_mem j hi)), SMap.get_set]
    by_cases hj : j = k
    · simp [hj]
    · have hne : key k ≠ key j := fun h => hj (hinj j List.mem_cons_self h.symm)
      simp [hne, Ne.symm hj]

section
variable (s : State) (old new : BitVec 64) (ia : Nat)

/-- The bytes of a unit as the old entry reads them, at their places under the new one. -/
def State.unitBytes : List (Nat × BitVec 8) := (List.range 256).map fun k => (s.place new ia + k, s.byteAt old (s.place old ia + k))

/-- The poisoned sectors of a unit under the old entry. -/
def State.unitBad : List Nat := (List.range 8).filter fun i => s.poisonedAt (leafF old) (ia + 32 * i) (s.place old ia + 32 * i)

/-- Memory once the bytes of a unit are copied. -/
def State.unitCopied : State :=
  if leafF new then { s with far := (s.unitBytes old new ia).foldl (fun m x => SMap.set 0 m x.1 x.2) s.far }
  else
    let k := (List.range 8).foldl (fun t i => t.rekey new (s.place new ia / 32 + i)) s
    { k with mem := Memory.writeAll k.mem (s.unitBytes old new ia) }

/-- Poison once a unit's sectors have moved. -/
def State.unitPoison (q : SMap Bool) : SMap Bool :=
  (List.range 8).foldl (fun q i => SMap.set false q (poisonKey (leafF new) (s.place new ia + 32 * i)) ((s.unitBad old ia).contains i)) q

/-- A unit of a page that is not compressed moves: its bytes, then its poison, then the parity delta of the write. -/
theorem State.moveUnit_eq (hz : leafZ new = false) : ∃ d c, s.moveUnit old new ia =
    some (((s.unitCopied old new ia).modMd fun m => { m with
      nextTag := m.nextTag + 1, poison := s.unitPoison old new ia m.poison, cleared := c }).sendDelta d,
      ((s.unitBad old ia).map fun i => 2 ^ i).sum) := by
  by_cases hf : leafF new = true
  · simp only [State.moveUnit, State.unitCopied, State.unitBytes, State.unitPoison, State.unitBad, State.modMd,
      hz, hf, Bool.false_and, Bool.false_eq_true, if_false, if_true, Option.map_some, Bool.true_or]
    exact ⟨_, _, rfl⟩
  · simp only [State.moveUnit, State.unitCopied, State.unitBytes, State.unitPoison, State.unitBad, State.modMd,
      hz, hf, Bool.false_and, Bool.false_eq_true, if_false, Option.map_some, Bool.false_or]
    exact ⟨_, _, rfl⟩

theorem State.mem_unitBytes {x : Nat × BitVec 8} :
    x ∈ s.unitBytes old new ia ↔ ∃ k < 256, x = (s.place new ia + k, s.byteAt old (s.place old ia + k)) := by
  simp only [State.unitBytes, List.mem_map, List.mem_range, eq_comm]

/-- What a copied unit's bytes leave unchanged. -/
theorem State.unitCopied_performed : s.Performed (s.unitCopied old new ia) := by
  unfold State.unitCopied
  generalize s.unitBytes old new ia = w
  split
  · rfl
  · have k := foldl_keeps (State.Performed s) (fun (t : State) i => t.rekey new (s.place new ia / 32 + i)) (List.range 8) s rfl
      fun t i ht => ht.trans (t.rekey_performed new _)
    generalize (List.range 8).foldl (fun t i => t.rekey new (s.place new ia / 32 + i)) s = u at k ⊢
    exact k.trans rfl

/-- The copied bytes read through the new entry as the old ones read through the old entry (R76, R120). -/
theorem State.unitCopied_byteAt (hia : ia % 256 = 0) {k : Nat} (hk : k < 256) :
    (s.unitCopied old new ia).byteAt new (s.place new ia + k) = s.byteAt old (s.place old ia + k) := by
  have hin : (s.place new ia + k, s.byteAt old (s.place old ia + k)) ∈ s.unitBytes old new ia := (s.mem_unitBytes old new ia).2 ⟨k, hk, rfl⟩
  have hone : ∀ x ∈ s.unitBytes old new ia, x.1 = s.place new ia + k → x.2 = s.byteAt old (s.place old ia + k) := fun x hx e => by
    obtain ⟨j, -, rfl⟩ := (s.mem_unitBytes old new ia).1 hx
    rw [Nat.add_left_cancel e]
  by_cases hf : leafF new = true
  · simp only [State.byteAt, State.unitCopied, hf, if_true]
    rw [← State.byteAt.eq_def s old]
    refine Eq.trans ?_ (read_writeAll_mem _ _ _ hone hin s.far)
    rw [writeAll_eq_foldl]
    rfl
  · replace hf : leafF new = false := by simpa using hf
    have hrekey := State.rekey_foldl new hf ((List.range 8).map fun i => s.place new ia / 32 + i) s
    rw [List.foldl_map] at hrekey
    have hmod : s.place new ia % 256 = 0 := (s.place_mod new ia).trans hia
    have hsec : (s.place new ia + k) / 32 ∈ (List.range 8).map fun i => s.place new ia / 32 + i :=
      List.mem_map.2 ⟨k / 32, List.mem_range.2 (by omega), by omega⟩
    have hkeyed := hrekey.keyed ((s.place new ia + k) / 32)
    rw [if_pos hsec] at hkeyed
    have hfuncs := hrekey.funcs
    simp only [State.unitCopied, hf, Bool.false_eq_true, if_false]
    generalize (List.range 8).foldl (fun t i => t.rekey new (s.place new ia / 32 + i)) s = u at *
    have hkey : State.leafKeyNo { u with mem := Memory.writeAll u.mem (s.unitBytes old new ia) } new = s.leafKeyNo new := by
      unfold State.leafKeyNo; rw [hfuncs]
    rw [State.byteAt, hf, if_neg Bool.false_ne_true, hkey]
    simp only [hkeyed, or_true, if_true]
    exact read_writeAll_mem _ _ _ hone hin u.mem

theorem State.sendDelta_poison (d : Delta) : (s.sendDelta d).md.poison = s.md.poison := by
  have h := State.message_fab s (portOfMemory d.home) (portOfMemory d.pdie) 2
  unfold State.SameButFab at h
  simp only [State.sendDelta]
  split
  · rfl
  · simp only [State.modMd]
    rw [h]

/-- The poison of a unit's sectors is that of the old ones (R121). -/
theorem State.unitPoison_get (q : SMap Bool) {k : Nat} (hk : k < 8) :
    SMap.get false (s.unitPoison old new ia q) (poisonKey (leafF new) (s.place new ia + 32 * k)) =
      s.poisonedAt (leafF old) (ia + 32 * k) (s.place old ia + 32 * k) := by
  have hinj : ∀ j ∈ List.range 8,
      poisonKey (leafF new) (s.place new ia + 32 * j) = poisonKey (leafF new) (s.place new ia + 32 * k) → j = k := by
    intro j _ h
    unfold poisonKey at h
    split at h
    · omega
    · omega
  refine (SMap.get_set_each false (fun i => poisonKey (leafF new) (s.place new ia + 32 * i)) (fun i => (s.unitBad old ia).contains i) k
    (List.range 8) hinj q).trans ?_
  rw [if_pos (List.mem_range.2 hk), List.contains_eq_mem]
  simp only [State.unitBad, List.mem_filter, List.mem_range, hk, true_and, Bool.decide_eq_true]

/-- What the copy of one unit leaves. -/
theorem State.moveUnit_moves (hz : leafZ new = false) (hia : ia % 256 = 0) : ∃ t n, s.moveUnit old new ia = some (t, n) ∧
    t.xl = s.xl ∧ t.groups = s.groups ∧ t.blocks = s.blocks ∧
    ((∀ k < 8, s.poisonedAt (leafF old) (ia + 32 * k) (s.place old ia + 32 * k) = false) → n = 0) ∧
    (∀ k < 256, t.byteAt new (s.place new ia + k) = s.byteAt old (s.place old ia + k)) ∧
    ∀ k < 8, SMap.get false t.md.poison (poisonKey (leafF new) (s.place new ia + 32 * k)) =
      s.poisonedAt (leafF old) (ia + 32 * k) (s.place old ia + 32 * k) := by
  obtain ⟨d, c, hmove⟩ := s.moveUnit_eq old new ia hz
  have hcopied := s.unitCopied_performed old new ia
  have hbytes := fun k => s.unitCopied_byteAt old new ia hia (k := k)
  refine ⟨_, _, hmove, ?_⟩
  generalize s.unitCopied old new ia = u at *
  have hsent := (u.modMd fun m => { m with
    nextTag := m.nextTag + 1, poison := s.unitPoison old new ia m.poison, cleared := c }).sendDelta_performed d
  obtain ⟨hfar, hmem, hkeyed, hhost⟩ := (u.modMd fun m => { m with
    nextTag := m.nextTag + 1, poison := s.unitPoison old new ia m.poison, cleared := c }).sendDelta_keeps d
  have hpoison := (u.modMd fun m => { m with
    nextTag := m.nextTag + 1, poison := s.unitPoison old new ia m.poison, cleared := c }).sendDelta_poison d
  generalize State.sendDelta _ d = t at *
  unfold State.Performed at hcopied hsent
  refine ⟨?_, ?_, ?_, fun hnone => ?_, fun k hk => ?_, fun k hk => ?_⟩
  · rw [hsent]
    show u.xl = s.xl
    rw [hcopied]
  · rw [hsent]
    show u.groups = s.groups
    rw [hcopied]
  · rw [hsent]
    show u.blocks = s.blocks
    rw [hcopied]
  · have hbad : s.unitBad old ia = [] := List.filter_eq_nil_iff.2 fun k hk => by rw [hnone k (List.mem_range.1 hk)]; exact Bool.false_ne_true
    rw [hbad]
    rfl
  · exact (State.byteAt_congr hfar hmem hkeyed (by rw [hhost]) new _).trans (hbytes k hk)
  · rw [hpoison]
    exact s.unitPoison_get old new ia _ hk
end

/-! ### A migration begins (R120 step 1) -/

theorem State.Logged.xl {s t : State} (h : s.Logged t) : t.xl = s.xl := by
  have hwrote := h.1
  unfold State.Wrote at hwrote
  rw [hwrote]

/-- A migrating page begins at a unit. -/
theorem Migration.base_mod (m : Migration) : m.base % 256 = 0 := by
  obtain ⟨k, hk⟩ := sizeLog_eq (leafSize m.old)
  have hsize : m.size = 256 * (16 * 2 ^ k) := by rw [Migration.size, hk, Nat.pow_add]; omega
  rw [Migration.base, hsize, show m.page * 4096 / (256 * (16 * 2 ^ k)) * (256 * (16 * 2 ^ k)) =
    256 * (m.page * 4096 / (256 * (16 * 2 ^ k)) * (16 * 2 ^ k)) by ring]
  exact Nat.mul_mod_right ..

/-- With no gathering open, the end of a migration wakes nobody. -/
theorem State.endMigration_quiet {s : State} (h : s.xl.collapse = []) (m : Migration) :
    s.endMigration m = s.modXl fun x => { x with migration := none } := by
  simp only [State.endMigration, h, SMap.entries, List.map_nil, List.filter_nil, List.foldl_nil]

section
variable {s : State} {page frame : Nat} {far : Bool} {at? : Option Nat}

/-- The migration of a live page, as it begins. -/
def begunMigration (page frame : Nat) (far : Bool) (at? : Option Nat) (a : Nat) (e : BitVec 64) : Migration :=
  { page := page, newFrame := frame, far := far, abortAt := at?, entryAt := a, old := e, live := true, stage := 1, unit := 0, bad := []
    flit := none }

theorem migration_begins {a : Nat} {e : BitVec 64} (ha : s.entryPA (page * 4096) = a) (he : s.entryAt a = e) (hnone : s.xl.migration = none)
    (hv : e.getLsbD 0 = true) (ht : e.getLsbD 1 = false) (hframe : frame * 4096 % 2 ^ sizeLog (leafSize e) = 0)
    (htop : far = true ∨ frame * 4096 + 2 ^ sizeLog (leafSize e) ≤ deviceTop) :
    exec (.migration page frame far at?) s = .next (((s.modXl fun x => { x with
      migration := some (begunMigration page frame far at? a e) }).writeEntry a (e &&& ~~~8)).invalidatePage
        (begunMigration page frame far at? a e)) := by
  have hexec : exec (.migration page frame far at?) s = execMigration page frame far at? s := rfl
  have htop' : (!far && decide (deviceTop < frame * 4096 + 2 ^ sizeLog (leafSize e))) = false := by
    rcases htop with h | h
    · rw [h]; rfl
    · rw [decide_eq_false (Nat.not_lt.2 h), Bool.and_false]
  simp only [hexec, execMigration, hnone, ha, he, ht, hframe, htop', hv, bne_self_eq_false, Bool.false_or, Bool.true_eq_false, decide_false,
    Bool.false_and, Bool.false_eq_true, if_false, if_true, entryWith_withdrawn hv]
  rfl

theorem migration_begun (h : s.Unharmed) (hfw : s.xl.fwWrites = []) (hroot : s.xl.xroot % 4096 = 0) {a : Nat} {e : BitVec 64}
    (ha : s.entryPA (page * 4096) = a) (he : s.entryAt a = e) (hnone : s.xl.migration = none) (hv : e.getLsbD 0 = true)
    (ht : e.getLsbD 1 = false) (hframe : frame * 4096 % 2 ^ sizeLog (leafSize e) = 0)
    (htop : far = true ∨ frame * 4096 + 2 ^ sizeLog (leafSize e) ≤ deviceTop) : s.Happens (.migration page frame far at?) fun t =>
      t.groups = s.groups ∧ t.blocks = s.blocks ∧ t.xl.tlb = s.xl.tlb ∧ t.entryAt a = e &&& ~~~8 ∧
      (∃ v : Inval, t.xl.invals = s.xl.invals ++ [v] ∧ v.lo = page * 4096 / 2 ^ sizeLog (leafSize e) * 2 ^ sizeLog (leafSize e) ∧
        v.hi = page * 4096 / 2 ^ sizeLog (leafSize e) * 2 ^ sizeLog (leafSize e) + 2 ^ sizeLog (leafSize e) - 1) ∧
      t.xl.migration = some (begunMigration page frame far at? a e) := by
  refine ⟨_, migration_begins ha he hnone hv ht hframe htop, ?_⟩
  obtain ⟨hwritten, hentry⟩ := State.writeEntry_holds (s := s.modXl fun x => { x with
    migration := some (begunMigration page frame far at? a e) }) ⟨h.poison, h.lost, h.unbuilt⟩ hfw
    (ha ▸ State.entryPA_aligned hroot _) (e &&& ~~~8)
  generalize State.writeEntry _ a (e &&& ~~~8) = u at *
  obtain ⟨v, hsent, hlo, hhi, -⟩ := u.invalidate_sends (begunMigration page frame far at? a e).base
    ((begunMigration page frame far at? a e).base + (begunMigration page frame far at? a e).size - 1)
  unfold State.invalidatePage
  generalize u.invalidate _ _ = t at *
  unfold State.Becomes at hsent
  rw [hwritten.xl] at hsent
  rw [hsent]
  exact ⟨hwritten.groups, hwritten.blocks, rfl, hentry, ⟨v, rfl, hlo, hhi⟩, rfl⟩

/-! ### A migration goes on (R120, R121) -/

variable {m : Migration} (hm : s.xl.migration = some m) (hpage : m.page = page) (hi : s.invalidating m = false)

/-- The migration stands at `k`; groups and blocks are as they were. -/
def State.MigratesTo (s : State) (k : Migration) (t : State) : Prop := t.xl.migration = some k ∧ t.groups = s.groups ∧ t.blocks = s.blocks

section
include hm hpage

theorem migration_exec {t : State} (ht : s.migrate m = some t) : exec (.migration page frame far at?) s = .next t := by
  have hexec : exec (.migration page frame far at?) s = execMigration page frame far at? s := rfl
  simp only [hexec, execMigration, hm, hpage, if_true, ht]

include hi

theorem migration_withdrawn (hs : m.stage = 1) : s.Happens (.migration page frame far at?) fun t =>
    t = { s with xl := { s.xl with migration := some { m with stage := 2 } } } := by
  refine ⟨_, migration_exec hm hpage (?_ : s.migrate m = some (s.modXl fun x => { x with migration := some { m with stage := 2 } })), rfl⟩
  simp only [State.migrate, hi, Bool.false_eq_true, if_false, hs, if_true]

/-! #### Units are copied -/

theorem migration_sends (hs : m.stage = 2) (ha : m.abortAt ≠ some m.unit) (hu : m.unit < m.size / 256) (hf : m.flit = none) :
    s.Happens (.migration page frame far at?) fun t => ∃ n,
      t = { s with fab := t.fab, xl := { s.xl with migration := some { m with flit := some n } } } := by
  have hstep : s.migrate m = some ((s.message (s.movePorts m.old m.new (m.base + 256 * m.unit)).1
      (s.movePorts m.old m.new (m.base + 256 * m.unit)).2 2).1.modXl fun x => { x with migration := some { m with
        flit := some (s.message (s.movePorts m.old m.new (m.base + 256 * m.unit)).1
          (s.movePorts m.old m.new (m.base + 256 * m.unit)).2 2).2 } }) := by
    simp only [State.migrate, hi, Bool.false_eq_true, if_false, hs, OfNat.ofNat_ne_one, if_true, ha, hu, hf]
  exact ⟨_, migration_exec hm hpage hstep, _, ((State.Becomes.refl s).message _ _ _).modXl _⟩

theorem migration_copies {n : Ticket} (hs : m.stage = 2) (ha : m.abortAt ≠ some m.unit) (hu : m.unit < m.size / 256) (hf : m.flit = some n)
    (hl : s.landed n = true) (hz : leafZ m.old = false) : s.Happens (.migration page frame far at?) fun t =>
      let ia := m.base + 256 * m.unit
      let bad (k : Nat) : Bool := s.poisonedAt (leafF m.old) (ia + 32 * k) (s.place m.old ia + 32 * k)
      (∃ b, s.MigratesTo { m with unit := m.unit + 1, bad := b, flit := none } t ∧ ((∀ k < 8, bad k = false) → b = m.bad)) ∧
      (∀ k < 256, t.byteAt m.new (s.place m.new ia + k) = s.byteAt m.old (s.place m.old ia + k)) ∧
      ∀ k < 8, SMap.get false t.md.poison (poisonKey (leafF m.new) (s.place m.new ia + 32 * k)) = bad k := by
  have hia : (m.base + 256 * m.unit) % 256 = 0 := by have := m.base_mod; omega
  obtain ⟨t, r, hmove, hxl, hgroups, hblocks, hbad, hbytes, hpoison⟩ := s.moveUnit_moves m.old m.new (m.base + 256 * m.unit)
    ((leafZ_entryWith ..).trans hz) hia
  have hstep : s.migrate m = some (t.modXl fun x => { x with migration := some { m with
      unit := m.unit + 1, flit := none, bad := if r = 0 then m.bad else m.bad ++ [(m.unit, r)] } }) := by
    simp only [State.migrate, hi, Bool.false_eq_true, if_false, hs, OfNat.ofNat_ne_one, if_true, ha, hu, hf, hl, Bool.not_true, hmove]
  exact ⟨_, migration_exec hm hpage hstep, ⟨_, ⟨rfl, hgroups, hblocks⟩, fun h => if_pos (hbad h)⟩, hbytes, hpoison⟩

/-! #### The end -/

section
variable (h : s.Unharmed) (hfw : s.xl.fwWrites = []) (ha8 : m.entryAt % 8 = 0)
include h hfw ha8

theorem migration_aborts (hs : m.stage = 2) (ha : m.abortAt = some m.unit) : s.Happens (.migration page frame far at?) fun t =>
    s.MigratesTo { m with stage := 4 } t ∧ t.entryAt m.entryAt = m.old := by
  have hplaced := (State.writeEntry_placed h hfw ha8 m.old).page m.live m
  have hstep : s.migrate m = some ((if m.live then (s.writeEntry m.entryAt m.old).invalidatePage m else s.writeEntry m.entryAt m.old).modXl
      fun x => { x with migration := some { m with stage := 4 } }) := by
    simp only [State.migrate, hi, Bool.false_eq_true, if_false, hs, OfNat.ofNat_ne_one, if_true, ha]
  exact ⟨_, migration_exec hm hpage hstep, ⟨rfl, hplaced.groups, hplaced.blocks⟩, hplaced.entry⟩

/-- The new entry stands, and the page's lines have left L1. -/
def State.newPlaced (s : State) (m : Migration) : State :=
  { s.writeEntry m.entryAt m.new with
    l1 := (s.writeEntry m.entryAt m.new).l1.filter fun x => x.1 % 2 ^ 45 * 128 / m.size != m.base / m.size }

theorem migration_places (hs : m.stage = 2) (ha : m.abortAt ≠ some m.unit) (hu : m.size / 256 ≤ m.unit) (hb : m.bad = []) :
    s.Happens (.migration page frame far at?) fun t => s.MigratesTo { m with stage := 3 } t ∧ t.entryAt m.entryAt = m.new ∧
      ∀ x ∈ t.l1, x ∈ s.l1 ∧ x.1 % 2 ^ 45 * 128 / m.size ≠ m.base / m.size := by
  have hwrite := State.writeEntry_placed h hfw ha8 m.new
  have hplaced := (State.EntryPlaced.refl (s := s.newPlaced m) hwrite.entry).page m.live m
  have hstep : s.migrate m = some ((if m.live then (s.newPlaced m).invalidatePage m else s.newPlaced m).modXl
      fun x => { x with migration := some { m with stage := 3 } }) := by
    simp only [State.migrate, hi, Bool.false_eq_true, if_false, hs, OfNat.ofNat_ne_one, if_true, ha, Nat.not_lt.2 hu, hb, List.foldl_nil]
    rfl
  refine ⟨_, migration_exec hm hpage hstep, ⟨rfl, hplaced.groups.trans hwrite.groups, hplaced.blocks.trans hwrite.blocks⟩, hplaced.entry,
    fun x hx => ?_⟩
  have hl1 := hplaced.l1.subst (motive := fun l => x ∈ l) hx
  obtain ⟨hin, hne⟩ := List.mem_filter.1 hl1
  exact ⟨hwrite.l1 ▸ hin, bne_iff_ne.1 hne⟩
end

theorem migration_ends (hs : m.stage = 3) (hc : s.xl.collapse = []) : s.Happens (.migration page frame far at?) fun t =>
    t = { s with xl := { s.xl with migration := none } } := by
  refine ⟨_, migration_exec hm hpage (?_ : s.migrate m = some (s.modXl fun x => { x with migration := none })), rfl⟩
  simp only [State.migrate, hi, Bool.false_eq_true, if_false, hs, OfNat.ofNat_ne_one, Nat.reduceEqDiff, if_true,
    State.endMigration_quiet hc]

theorem migration_ends_aborted (hs : m.stage = 4) (hc : s.xl.collapse = []) : s.Happens (.migration page frame far at?) fun t =>
    ∃ u, s.Logged u ∧ t = { u with xl := { u.xl with migration := none } } := by
  have hlogged : s.Logged (s.migRecord m 0x0501 m.unit 0 m.base) := State.logRecord_logged ..
  have hstep : s.migrate m = some ((s.migRecord m 0x0501 m.unit 0 m.base).endMigration m) := by
    simp only [State.migrate, hi, Bool.false_eq_true, if_false, hs, OfNat.ofNat_ne_one, Nat.reduceEqDiff]
  refine ⟨_, migration_exec hm hpage hstep, _, hlogged, State.endMigration_quiet (?_ : (s.migRecord m 0x0501 m.unit 0 m.base).xl.collapse = []) m⟩
  rw [hlogged.xl, hc]
end
end

/-- Settles O48: the answers, the steps of an invalidation and those of a migration. -/
theorem faultAnswers : Obligations.FaultAnswers := by
  unfold Obligations.FaultAnswers
  refine ⟨fun s => ⟨fun page c e => faultReady_spec, fun page c types hc hw hp hps => faultFinal_spec types hc hw hp hps,
    fun a rest gid r hq hl hg hsaved hwaits => ⟨wakeReplay_spec hq hl hg hsaved hwaits, ?_⟩⟩, fun s lo hi => ⟨?_, ?_, ?_, ?_⟩,
    fun s page frame far at? => ⟨?_, ?_⟩⟩
  · exact fun types reason slot g o hf hexe hkind hw hk hgr ho hload hh =>
      finalReply_spec hq hl hg hsaved hwaits hf hexe hkind hw hk hgr ho hload hh
  · exact fun pa x hnew hfw hpa hp => tlbInvalidation_new hnew hfw hpa hp
  · exact fun v d more hv htodo hl => tlbInvalidation_drops hv htodo hl
  · exact fun v d more hv htodo hfin hdone => tlbInvalidation_acknowledges hv htodo hfin hdone
  · exact fun v hv htodo hfin hacks => tlbInvalidation_ends hv htodo hfin hacks
  · intro a e size
    rintro ⟨hpoison, hlost, hunbuilt, hfw⟩ hroot hnone hv ht hframe htop
    obtain ⟨t, hexec, hgroups, hblocks, htlb, hentry, hinval, hmig⟩ :=
      migration_begun ⟨hpoison, hlost, hunbuilt⟩ hfw hroot rfl rfl hnone hv ht hframe htop
    exact ⟨t, hexec, hgroups, hblocks, htlb, hentry, hinval, _, hmig, rfl, rfl, rfl, rfl, rfl, rfl, rfl, rfl, rfl, rfl, rfl⟩
  · intro m hm hpage hi
    refine ⟨migration_withdrawn hm hpage hi, migration_sends hm hpage hi, fun n => migration_copies hm hpage hi, ?_, ?_,
      migration_ends hm hpage hi, migration_ends_aborted hm hpage hi⟩
    · rintro hs ha ha8 ⟨hpoison, hlost, hunbuilt, hfw⟩
      exact migration_aborts hm hpage hi ⟨hpoison, hlost, hunbuilt⟩ hfw ha8 hs ha
    · rintro hs ha hu hb ha8 ⟨hpoison, hlost, hunbuilt, hfw⟩
      exact migration_places hm hpage hi ⟨hpoison, hlost, hunbuilt⟩ hfw ha8 hs ha hu hb

end Sys2Proof.Machine
end

section
/-! LAUNCH (R128, R130, R359): what its word sends, what a complete load leaves of the log, and what a refusal writes. -/

namespace Sys2Proof.Machine

/-! ### Going on looks at the split table alone -/

/-- `h` with the split table of `g`. -/
def Group.onTable (g h : Group) : Group := { h with entries := g.entries, up := g.up }

theorem Group.collapseOnce_onTable (g h : Group) : (g.onTable h).collapseOnce = g.collapseOnce.onTable h := by
  simp only [Group.collapseOnce, show (g.onTable h).bareIdent = g.bareIdent from rfl]
  cases g.bareIdent <;> rfl

theorem Group.collapse_onTable (g h : Group) : (g.onTable h).collapse = g.collapse.onTable h := by
  simp only [Group.collapse]
  generalize List.range 32 = l
  induction l generalizing g with
  | nil => rfl
  | cons a l ih => simp only [List.foldl_cons, Group.collapseOnce_onTable, ih]

theorem Group.fuseAt_onTable (g h : Group) (i : Nat) (c : Bool) : (g.onTable h).fuseAt i c = (g.fuseAt i c).onTable h := by
  simp only [Group.fuseAt, show (g.onTable h).entries = g.entries from rfl]
  cases g.entries[i]? with
  | none => rfl
  | some e =>
    simp only
    split
    · rfl
    · split
      · rfl
      · exact Group.collapse_onTable { g with entries := _ } h

theorem Group.moveTo_onTable (g h : Group) (i t : Nat) : (g.onTable h).moveTo i t = (g.moveTo i t).onTable h := by
  simp only [Group.moveTo, show (g.onTable h).entries = g.entries from rfl]
  cases g.entries[i]? with
  | none => rfl
  | some e => exact Group.fuseAt_onTable (g.setEntry i _) h i false

theorem Group.advance_onTable (g h : Group) (i : Nat) : (g.onTable h).advance i = (g.advance i).onTable h := by
  simp only [Group.advance, show (g.onTable h).entries = g.entries from rfl]
  cases g.entries[i]? with
  | none => rfl
  | some e =>
    simp only
    split
    · rfl
    · exact Group.moveTo_onTable g h i _

/-! ### The word (R128, R359) -/

/-- The log entry of a LAUNCH whose record is read from a VA. -/
def Issue.launchEntry (is : Issue) (i : Instr) (a : LaneAddr) : OpEntry :=
  { is.logEntry i .launch is.act (spNum .global) with vas := SMap.set 0 [] 0 a.a, dregs := SMap.set 0 [] 0 is.act.toNat }

/-- The issuing group once a LAUNCH stands in its log. -/
def State.launchGroup (s : State) (is : Issue) (i : Instr) (a : LaneAddr) : Group :=
  { is.g.advance is.i with
    oplog := SMap.put is.g.oplog is.g.freeLog ((s.issueOf is i).launchEntry i a), fences := s.fencesLeft is i }

theorem State.launchGroup_eq (s : State) (is : Issue) (i : Instr) (a : LaneAddr) :
    ({ (s.issueOf is i).g with
      oplog := SMap.put is.g.oplog is.g.freeLog ((s.issueOf is i).launchEntry i a) } : Group).advance is.i = s.launchGroup is i a := by
  refine (Group.advance_onTable is.g { is.g with
    oplog := SMap.put is.g.oplog is.g.freeLog ((s.issueOf is i).launchEntry i a), fences := s.fencesLeft is i } is.i).trans ?_
  rw [State.launchGroup, Group.advance_frame]; rfl

theorem State.address_entered (s : State) (is : Issue) (i : Instr) (sp : Space) (base : Src) (off : Int) (n m l : Nat) :
    (s.setGroup is.gid (s.issueOf is i).g).address (s.issueOf is i) sp base off n m l = s.address is sp base off n m l := by
  have hop (w : Bool) : (s.setGroup is.gid (s.issueOf is i).g).opnd (s.issueOf is i) w base l = s.opnd is w base l := rfl
  simp only [State.address, hop]
  rfl

theorem State.reach_entered (s : State) (is : Issue) (i : Instr) (sp : Space) (base : Src) (off : Int) (n m : Nat) (t : Rights) (l : Nat) :
    (s.setGroup is.gid (s.issueOf is i).g).reach (s.issueOf is i) sp base off n m t l = s.reach is sp base off n m t l := by
  simp only [State.reach, State.address_entered]
  rfl

theorem State.lateGate_nil {is : Issue} (s : State) (run : Issue → State → State) (h : is.g.late = []) :
    State.lateGate is s run = run is s := by
  rw [State.lateGate, h]

theorem State.putLog_goOn_entered (s : State) (is : Issue) (i : Instr) (slot : Nat) (o : OpEntry) :
    ((s.setGroup is.gid (s.issueOf is i).g).putLog is.gid slot o).goOn (s.issueOf is i) = s.setGroup is.gid
      (({ (s.issueOf is i).g with oplog := SMap.put is.g.oplog slot o } : Group).advance is.i) := by
  show ((s.setGroup is.gid _).modGroup is.gid _).modGroup is.gid _ = _
  rw [State.modGroup_setGroup, State.modGroup_setGroup]
  rfl

/-- A LAUNCH that reaches its record enters the log and asks for the record's parts. -/
theorem exec_launch {s : State} {i : Instr} {q : Guard} {sd sa pd : Nat} {is : Issue} {a : LaneAddr} (hi : i = .launch q sd sa pd)
    (hrun : s.canRun i q = some is) (hlate : is.g.late = []) (hown : is.own ≠ 0)
    (ha : s.reach is .global (.s sa) 0 128 128 acRead 0 = .ok a) :
    exec i s = .next ((s.setGroup is.gid (s.launchGroup is i a)).requestAll
      (s.groupReq (s.issueOf is i) i (.op is.gid is.g.freeLog) .load 4) (recordParts a.a a.ia)) := by
  have hown' : (s.issueOf is i).own ≠ 0 := hown
  have hlate' : (s.issueOf is i).g.late = [] := hlate
  rw [← State.launchGroup_eq, ← State.putLog_goOn_entered]
  subst hi
  refine (State.word_canRun s _ q is _ hrun).trans ?_
  rw [if_neg hown', State.lateGate_nil _ _ hlate', State.reach_entered, ha]
  rfl

/-- The requests of a word whose group has been put back. -/
theorem State.requestAll_sends (s : State) (gid : Nat) (h : Group) (r : Req) (ls : List LaneAcc) :
    let u := (s.setGroup gid h).requestAll r ls
    ∃ new, s.Sends u gid h new ∧ u.cores = s.cores ∧ u.l1 = s.l1 ∧ new.map (·.lanes) = perUnit ls ∧
      ∀ q ∈ new, q = { r with lanes := q.lanes, tag := q.tag, ticket := q.ticket } := by
  intro u
  obtain ⟨new, hu, hlanes, htags, hreq⟩ := State.requests_spec r (perUnit ls) (s.setGroup gid h)
  change u = _ at hu
  have hcores : u.cores = s.cores := by rw [hu]; rfl
  have hl1 : u.l1 = s.l1 := by rw [hu]; rfl
  refine ⟨new, ⟨?_, htags⟩, hcores, hl1, hlanes, hreq⟩
  rw [hcores, hl1]
  exact hu

/-- A LAUNCH (R128, R359): its entry stands in the log, and the record is asked for in parts of four bytes. -/
theorem launch_completes (s : State) (q : Guard) (sd sa pd : Nat) :
    s.Completes (.launch q sd sa pd) q fun is u => is.g.late = [] → is.own ≠ 0 →
      ∀ a, s.reach is .global (.s sa) 0 128 128 acRead 0 = .ok a → ∃ h new o, s.Sends u is.gid h new ∧ u.cores = s.cores ∧
        u.l1 = s.l1 ∧ h = { is.g.advance is.i with oplog := SMap.put is.g.oplog is.g.freeLog o, fences := h.fences } ∧
        o.kind = .launch ∧ o.pending = is.act ∧ new.map (·.lanes) = perUnit (recordParts a.a a.ia) ∧
        ∀ r ∈ new, r.who = .op is.gid is.g.freeLog ∧ r.kind = .load ∧ r.ctx = is.b.ctx := by
  intro is hrun
  obtain ⟨t, hword⟩ : ∃ t, exec (.launch q sd sa pd) s = .next t := ⟨_, State.word_canRun s _ q is _ hrun⟩
  refine ⟨t, hword, fun hlate hown a ha => ?_⟩
  rw [Host.Outcome.next.inj (hword.symm.trans (exec_launch rfl hrun hlate hown ha))]
  obtain ⟨new, hsends, hcores, hl1, hlanes, hreq⟩ := s.requestAll_sends is.gid (s.launchGroup is (.launch q sd sa pd) a)
    (s.groupReq (s.issueOf is (.launch q sd sa pd)) (.launch q sd sa pd) (.op is.gid is.g.freeLog) .load 4) (recordParts a.a a.ia)
  refine ⟨_, new, (s.issueOf is (.launch q sd sa pd)).launchEntry (.launch q sd sa pd) a, hsends, hcores, hl1, rfl, rfl, rfl, hlanes,
    fun r hr => ?_⟩
  rw [hreq r hr]
  exact ⟨rfl, rfl, rfl⟩

/-! ### A load is complete (R128, R164) -/

/-- The last lane of an entry is done and its replies have come, with no fault and no deferred word. -/
structure State.Complete (s : State) (o : OpEntry) : Prop where
  pending : o.pending = 0
  notNow : o.notNow = 0
  confirmed : o.unconfirmed = false
  landed : ∀ k ∈ o.replies, s.landed k = true
  faulted : o.faulted = 0
  deferred : o.deferred = []

/-- What a LAUNCH tells the signal box once its record has come. -/
def State.launchMsg (s : State) (gid op sd pd : Nat) (g : Group) (o : OpEntry) : LaunchMsg :=
  { gid := gid, bid := g.bid, ctx := ((s.block? g.bid).map (·.ctx)).getD 0, op := launchSlot op, sd := sd, pd := pd
    lanes := BitVec.ofNat 32 (SMap.get 0 o.dregs 0), bytes := o.launchBytes }

section
variable {s : State} {gid op : Nat} {g : Group} {o : OpEntry}

/-- Nothing holds LOAD_COMPLETE of a complete entry back. -/
theorem State.Complete.due (h : s.Complete o) (hop : op < 16) :
    (decide (16 ≤ op) || o.pending != 0 || o.notNow != 0 || o.unconfirmed || !o.replies.all s.landed) = false := by
  have hlanded : o.replies.all s.landed = true := List.all_eq_true.2 h.landed
  simp [h.pending, h.notNow, h.confirmed, hlanded, hop]

theorem exec_loadComplete_load (h : s.Complete o) (hg : s.group? gid = some g) (ho : SMap.find? g.oplog op = some o) (hop : op < 16)
    (hk : o.kind ≠ .launch) :
    exec (.loadComplete gid op) s = .next (s.setGroup gid { g with oplog := SMap.del g.oplog op }) := by
  show execLoadComplete gid op s = _
  simp only [execLoadComplete, hg, Option.bind_some, ho, h.due hop, Bool.false_eq_true, if_false, hk, decide_false, Bool.false_and,
    h.deferred, h.faulted, List.foldl_nil, if_true, State.modGroup_some s gid g _ hg]

theorem exec_loadComplete_launch {q : Guard} {sd sa pd : Nat} (h : s.Complete o) (hg : s.group? gid = some g)
    (ho : SMap.find? g.oplog op = some o) (hop : op < 16) (hk : o.kind = .launch) (hw : wordOf o.raw = some (.launch q sd sa pd)) :
    exec (.loadComplete gid op) s = .next { s.setGroup gid { g with oplog := SMap.put (SMap.del g.oplog op) (launchSlot op) o } with
      box := { s.box with launches := s.box.launches ++ [s.launchMsg gid op sd pd g o] } } := by
  have hlaunch : (decide (o.kind = .launch) && decide (o.faulted = 0)) = true := by rw [hk, h.faulted]; rfl
  have ho' : { o with deferred := [] } = o := by rw [← h.deferred]
  show execLoadComplete gid op s = _
  simp only [execLoadComplete, hg, Option.bind_some, ho, h.due hop, Bool.false_eq_true, if_false, hlaunch, if_true, hw, h.deferred,
    List.foldl_nil, ho']
  rfl
end

/-! ### A refusal (R130) -/

/-- Every refusal has bit 31 set. -/
theorem State.refusal_bit {s : State} {ctx : Nat} {cx : Context} {t : TaskRec} {r : Nat} (h : s.refusal ctx cx t = some r) :
    bitAt r 31 = true := by
  simp only [State.refusal] at h
  split at h
  · cases h; decide
  · split at h
    · cases h; decide
    · split at h
      · cases h; decide
      · split at h
        · cases h; decide
        · split at h
          · cases h; decide
          · cases h

/-- A group whose oldest LAUNCH has been refused. -/
def LaunchMsg.refuse (m : LaunchMsg) (r : Nat) (g : Group) : Group :=
  let g1 := (g.setS m.sd (BitVec.ofNat 32 r)).setPreds m.pd m.lanes 0
  { g1 with oplog := SMap.del g1.oplog m.op }

theorem LaunchMsg.refuse_frame (m : LaunchMsg) (r : Nat) (g : Group) :
    m.refuse r g = { g with s := (m.refuse r g).s, p := (m.refuse r g).p, oplog := SMap.del g.oplog m.op } := by
  unfold LaunchMsg.refuse
  rw [Group.setPreds_frame]
  rfl

theorem LaunchMsg.sreg_refuse (m : LaunchMsg) (r : Nat) (g : Group) (k : Nat) :
    (m.refuse r g).sreg k = if k = m.sd then BitVec.ofNat 32 r else g.sreg k := by
  rw [← Group.sreg_setS]
  unfold LaunchMsg.refuse
  rw [Group.setPreds_frame]
  rfl

theorem LaunchMsg.pred_refuse (m : LaunchMsg) (r : Nat) (g : Group) {l : Nat} (hpd : m.pd < 12) (hl : l < 32) (hm : lane m.lanes l = true) :
    (m.refuse r g).pred m.pd l = false := by
  refine (Group.pred_setPreds (g.setS m.sd (BitVec.ofNat 32 r)) m.pd m.pd l m.lanes 0 hpd hl).trans ?_
  rw [if_pos ⟨rfl, hm⟩]
  simp [lane]

/-- The state with other LAUNCHes before the signal box. -/
def State.withLaunches (s : State) (rest : List LaunchMsg) : State := { s with box := { s.box with launches := rest } }

theorem exec_launchReply_refused {s : State} {m : LaunchMsg} {rest : List LaunchMsg} {g : Group} {cx : Context} {r : Nat}
    (hp : s.guard.power ≠ 2) (hm : s.box.launches = m :: rest) (hg : s.group? m.gid = some g) (hcx : s.ctx? m.ctx = some cx)
    (hr : s.refusal m.ctx cx (taskOfBytes m.bytes) = some r) :
    exec .launchReply s = .next ((s.withLaunches rest).setGroup m.gid (m.refuse r g)) := by
  have hbit := State.refusal_bit hr
  have hjudge : (s.withLaunches rest).judge m.ctx m.bytes = (s.withLaunches rest, r) := by
    have hcx' : (s.withLaunches rest).ctx? m.ctx = some cx := hcx
    have hr' : (s.withLaunches rest).refusal m.ctx cx (taskOfBytes m.bytes) = some r := hr
    simp only [State.judge, hcx', hr']
  rw [← State.modGroup_some (s.withLaunches rest) m.gid g (m.refuse r) hg]
  show execLaunchReply s = _
  unfold State.withLaunches at hjudge ⊢
  simp only [execLaunchReply, hm, if_neg hp, hjudge, hbit, Bool.true_or, if_true]
  rfl

/-- Settles O34, from the word's requests, the two ends of its log entry, and the refusal. -/
theorem launchPath : Obligations.LaunchPath := by
  unfold Obligations.LaunchPath
  intro s
  refine ⟨launch_completes s, fun gid op g o hg ho hop hpend hnow hconf hland hfault hdef => ?_, fun m rest g cx r hp hm hg hcx hr => ?_⟩
  · have h : s.Complete o := ⟨hpend, hnow, hconf, hland, hfault, hdef⟩
    exact ⟨exec_loadComplete_load h hg ho hop, fun q sd sa pd hk hw =>
      ⟨s.launchMsg gid op sd pd g o, exec_loadComplete_launch h hg ho hop hk hw, rfl, rfl, rfl, rfl, rfl⟩⟩
  · exact ⟨_, m.refuse r g, exec_launchReply_refused hp hm hg hcx hr, State.group?_setGroup_same .., rfl, rfl, m.refuse_frame r g,
      State.refusal_bit hr, m.sreg_refuse r g, fun hpd l hl => m.pred_refuse r g hpd hl⟩

end Sys2Proof.Machine
end

section
/-! A revocation of freight abandons small-matrix words (R422), of which the statement about freight (R172, R173) does not speak. -/

namespace Sys2Proof.Machine

/-- A KADD that executes for all lanes. -/
def kaddRunning : EngineExec :=
  { clause := 4096, word := 0, raw := (encode (.kadd { pg := 12, pn := false } 0 1 2 12)).getD 0, lanes := 0xFFFFFFFF, map := [], base := [] }

/-- A freight block on core 0, of another context than the express block there. -/
def freightBlock : Block := { placedBlock with ctx := 1, cls := 2, cluster := [1] }

/-- Its group, in a small-matrix word. -/
def freightGroup : Group := { Group.start 1 0 0 freightBlock with kwords := [kaddRunning] }

/-- An express group on core 0 that is ready: its one entry stands at a NOP. -/
def expressGroup : Group :=
  let nop : BitVec 64 := 0x0060000000000000
  { Group.start 0 0 0 { placedBlock with cls := 0 } with
    entries := [{ Entry.at 4096 0 0xFFFFFFFF 0 with code := some [headerFor nop, nop], waited := true }] }

/-- Core 0 is OPEN: an express group is ready there, and a freight group executes a small-matrix word. -/
def freightInKword : State :=
  { State.reset.placeWord 0 with
    blocks := SMap.put (SMap.put [] 0 { placedBlock with cls := 0 }) 1 freightBlock
    groups := SMap.put (SMap.put [] 0 expressGroup) 32 freightGroup }

theorem freightInKword_express_ready : ∃ p < 4, ∃ x ∈ freightInKword.candidates 0 p, x.g.cls = 0 := by decide +kernel

theorem freightInKword_borrows_nothing : ∀ b ∈ freightInKword.resident 0, b.2.cls = 2 → b.2.borrowed = false := by decide +kernel

theorem freightInKword_freight_resident : (1, freightBlock) ∈ freightInKword.resident 0 := by decide +kernel

theorem freightInKword_group : freightInKword.group? 32 = some freightGroup := by decide +kernel

/-- The revocation takes the small-matrix word away (R422). -/
theorem freightInKword_revoke_abandons :
    (match exec (.freightRevoke 0) freightInKword with | .next t => (t.group? 32).map (·.kwords) | _ => none) = some [] := by decide +kernel

/-- Refutes O51: a revocation of freight also abandons the small-matrix words that execute, to run again from their start (R422). The
statement lets a freight group change only in its MMA's halt, and asks for no group without such a word. -/
theorem not_blocksAndFreight : ¬ Obligations.BlocksAndFreight := by
  unfold Obligations.BlocksAndFreight
  rintro ⟨-, hfreight⟩
  obtain ⟨hrevoke, -⟩ := hfreight freightInKword 0
  obtain ⟨t, ht, -, hgroups⟩ := hrevoke (by decide +kernel) freightInKword_express_ready freightInKword_borrows_nothing
  have hkept := hgroups _ freightInKword_freight_resident rfl 32 (by decide) _ freightInKword_group
  have hgone := freightInKword_revoke_abandons
  rw [ht] at hgone
  simp [hkept, freightGroup] at hgone

end Sys2Proof.Machine
end

section
/-! A block halts (R144): its groups stop, its copy words that have not started a command are withdrawn, and guests of its slots go home. -/

namespace Sys2Proof.Machine

/-! ### Groups halt -/

theorem Group.dropLogLanes_halted (g : Group) (ls : BitVec 32) : (g.dropLogLanes ls).halted = g.halted := by
  refine foldl_keeps (fun h : Group => h.halted = g.halted) _ _ g rfl fun h x hh => ?_
  split
  · exact hh
  · exact hh

theorem Group.SameButShadowed.halted {g h : Group} (k : g.SameButShadowed h) : h.halted = g.halted := by
  unfold Group.SameButShadowed at k; rw [k]

theorem Group.squashSpec_halted (g : Group) (sp : Spec) : (g.squashSpec sp).halted = g.halted :=
  (Group.dropLogLanes_halted ..).trans (Group.unshadow_frame ..).halted

theorem Group.squashLine_halted (g : Group) : g.squashLine.halted = g.halted := by
  unfold Group.squashLine
  split
  · rfl
  · exact (Group.unshadow_frame ..).halted

theorem Group.collapse_halted (g : Group) : g.collapse.halted = g.halted := by rw [Group.collapse_frame]

theorem Group.squashAll_halted (g : Group) : g.squashAll.halted = g.halted :=
  (Group.collapse_halted _).trans
    (foldl_keeps (fun h : Group => h.halted = g.halted) _ _ _ g.squashLine_halted fun h sp hh => (h.squashSpec_halted sp).trans hh)

/-- The group with a key, if there is one, has halted. -/
def State.Halted (s : State) (k : Nat) : Prop := ∀ g, s.group? k = some g → g.halted = true

theorem State.modGroup_halted {s : State} {k : Nat} (h : s.Halted k) (j : Nat) {f : Group → Group}
    (hf : ∀ g, g.halted = true → (f g).halted = true) : (s.modGroup j f).Halted k := by
  intro g hg
  by_cases e : k = j
  · subst e
    rw [State.group?_modGroup_same] at hg
    obtain ⟨g0, h0, rfl⟩ := Option.map_eq_some_iff.1 hg
    exact hf g0 (h g0 h0)
  · rw [State.group?_modGroup_other _ _ _ _ e] at hg
    exact h g hg

theorem State.group?_squashGroup_eq (s : State) (j k : Nat) : (s.squashGroup j).group? k = (s.modGroup j Group.squashAll).group? k := by
  rw [State.squashGroup_frame]; rfl

theorem State.squashGroup_halted {s : State} {k : Nat} (h : s.Halted k) (j : Nat) : (s.squashGroup j).Halted k := fun g hg =>
  State.modGroup_halted h j (fun g hg => g.squashAll_halted.trans hg) g ((s.group?_squashGroup_eq j k).symm.trans hg)

theorem State.haltGroup_halted {s : State} {k : Nat} (h : s.Halted k) (j : Nat) : (s.haltGroup j).Halted k :=
  State.modGroup_halted (State.squashGroup_halted h j) j fun _ _ => rfl

theorem State.haltGroup_halts (s : State) (k : Nat) : (s.haltGroup k).Halted k := by
  intro g hg
  rw [State.haltGroup, State.group?_modGroup_same] at hg
  obtain ⟨g0, -, rfl⟩ := Option.map_eq_some_iff.1 hg
  rfl

theorem State.sendHome_halted {s : State} {k : Nat} (h : s.Halted k) (j : Nat) : (s.sendHome j).Halted k := by
  refine State.modGroup_halted (State.squashGroup_halted h j) j fun g hg => ?_
  split
  · exact hg
  · exact hg

theorem State.haltGroups_halt (ks : List Nat) : ∀ s : State, ∀ k ∈ ks, (ks.foldl State.haltGroup s).Halted k := by
  induction ks with
  | nil => intro s k hk; cases hk
  | cons j ks ih =>
    intro s k hk
    rcases List.mem_cons.1 hk with rfl | hk
    · exact foldl_keeps (State.Halted · k) _ ks _ (s.haltGroup_halts k) fun t j h => State.haltGroup_halted h j
    · exact ih (s.haltGroup j) k hk

theorem State.haltGroup_blocks (s : State) (j : Nat) : (s.haltGroup j).blocks = s.blocks := by
  rw [State.haltGroup, State.modGroup_blocks, State.squashGroup_frame]

theorem State.sendHome_blocks (s : State) (j : Nat) : (s.sendHome j).blocks = s.blocks := by
  rw [State.sendHome, State.modGroup_blocks, State.squashGroup_frame]

theorem State.haltGroups_blocks (s : State) (ks : List Nat) : (ks.foldl State.haltGroup s).blocks = s.blocks :=
  foldl_keeps (fun t : State => t.blocks = s.blocks) _ ks s rfl fun t j h => (t.haltGroup_blocks j).trans h

theorem State.sendHomes_blocks (s : State) (ks : List Nat) : (ks.foldl State.sendHome s).blocks = s.blocks :=
  foldl_keeps (fun t : State => t.blocks = s.blocks) _ ks s rfl fun t j h => (t.sendHome_blocks j).trans h

/-! ### Commands that have not started leave -/

theorem State.block?_removeCmd {s : State} {bid : Nat} {b : Block} (h : s.block? bid = some b) (key : Nat) :
    (s.removeCmd bid key).block? bid = some { b with cmds := b.cmds.filter fun c => c.key != key } := by
  have hcmds : (b.cmds.filterMap fun c => if c.key = key then none else some c) = b.cmds.filter fun c => c.key != key := by
    rw [← List.filterMap_eq_filter]
    refine List.filterMap_congr fun c _ => ?_
    by_cases e : c.key = key <;> simp [Option.guard, e]
  show (s.modBlock bid _).block? bid = _
  rw [State.block?_modBlock_same, h, ← hcmds]
  rfl

theorem State.block?_removeCmds {bid : Nat} (cs : List CopyCmd) : ∀ {s : State} {b : Block}, s.block? bid = some b →
    (cs.foldl (fun t c => t.removeCmd bid c.key) s).block? bid =
      some { b with cmds := b.cmds.filter fun c => cs.all fun d => c.key != d.key } := by
  induction cs with
  | nil => intro s b h; simpa using h
  | cons d cs ih =>
    intro s b h
    rw [List.foldl_cons, ih (State.block?_removeCmd h d.key)]
    simp [List.filter_filter, Bool.and_comm]

theorem State.removeCmds_groups (s : State) (bid : Nat) (cs : List CopyCmd) :
    (cs.foldl (fun t c => t.removeCmd bid c.key) s).groups = s.groups :=
  foldl_keeps (fun t : State => t.groups = s.groups) _ cs s rfl fun _ _ h => h

theorem Block.started_filter (b : Block) (ph : BlockPhase) :
    b.Started { b with phase := ph, cmds := b.cmds.filter fun c => (b.cmds.filter fun c => c.stage < 2).all fun d => c.key != d.key } := by
  refine ⟨fun c hc => ?_, fun c hc hs hother => ?_⟩
  · obtain ⟨hmem, hall⟩ := List.mem_filter.1 hc
    refine ⟨hmem, Nat.le_of_not_lt fun hlt => ?_⟩
    simpa using List.all_eq_true.1 hall c (List.mem_filter.2 ⟨hmem, decide_eq_true hlt⟩)
  · refine List.mem_filter.2 ⟨hc, List.all_eq_true.2 fun d hd => ?_⟩
    obtain ⟨hmem, hlt⟩ := List.mem_filter.1 hd
    exact bne_iff_ne.2 fun e => hother d hmem (of_decide_eq_true hlt) e.symm

theorem State.haltBlock_spec {s : State} {bid : Nat} {b : Block} (h : s.block? bid = some b) (ph : BlockPhase) :
    (∃ b', (s.haltBlock bid ph).block? bid = some b' ∧ b' = { b with phase := ph, cmds := b'.cmds } ∧ b.Started b') ∧
      ∀ k ∈ Block.gids bid b, (s.haltBlock bid ph).Halted k := by
  simp only [State.haltBlock, h]
  refine ⟨⟨_, State.block?_removeCmds (b := { b with phase := ph }) _ ?_, rfl, b.started_filter ph⟩, fun k hk g hg => ?_⟩
  · rw [State.block?_modBlock_same]
    unfold State.block?
    rw [State.haltGroups_blocks]
    exact congrArg (Option.map _) h
  · unfold State.group? at hg
    rw [State.removeCmds_groups] at hg
    exact State.haltGroups_halt _ s k hk g hg

end Sys2Proof.Machine
end

section
/-! Pre-emption of one block (R143, R144): its area is reserved and it halts. -/

namespace Sys2Proof.Machine

theorem State.reserveFor_block {s t : State} {bid : Nat} {b : Block} (hb : s.block? bid = some b) (h : s.reserveFor bid = some t) :
    ∃ a, a.isSome = true ∧ t.block? bid = some { b with area := a } := by
  simp only [State.reserveFor, hb] at h
  split at h
  · next ha =>
    cases h
    exact ⟨b.area, ha, hb⟩
  · obtain ⟨r, -, rfl⟩ := Option.map_eq_some_iff.1 h
    exact ⟨some r.2, rfl, State.block?_setBlock_same ..⟩

/-- A block is on its way out: it halts with an area, commands that had not started are gone, and its groups stand still. -/
def State.HaltsBlock (t : State) (bid : Nat) (b : Block) : Prop :=
  (∃ b', t.block? bid = some b' ∧ b'.area.isSome = true ∧ b' = { b with phase := .halting, area := b'.area, cmds := b'.cmds } ∧
    b.Started b') ∧ ∀ k ∈ Block.gids bid b, ∀ g, t.group? k = some g → g.halted = true

theorem Block.isStation_eq_false {b : Block} (h : b.tt ≠ none) : b.isStation = false :=
  Option.isNone_eq_false_iff.2 (Option.isSome_iff_ne_none.2 h)

theorem State.preempt_halts {s : State} {bid : Nat} {b : Block} (hb : s.block? bid = some b) (htt : b.tt ≠ none) (hlive : b.phase = .live)
    (hr : (s.reserveFor bid).isSome = true) : ∃ t, s.preempt bid = some t ∧ t.HaltsBlock bid b := by
  obtain ⟨u, hu⟩ := Option.isSome_iff_exists.1 hr
  obtain ⟨a, ha, hbu⟩ := State.reserveFor_block hb hu
  obtain ⟨⟨b', hb', hframe, hstarted⟩, hhalted⟩ := State.haltBlock_spec hbu .halting
  refine ⟨(u.guests bid).foldl State.sendHome (u.haltBlock bid .halting), ?_, ⟨b', ?_, ?_, ?_, hstarted⟩, fun k hk => ?_⟩
  · simp only [State.preempt, hb, Block.isStation_eq_false htt, hlive, hu]
    rfl
  · unfold State.block?
    rw [State.sendHomes_blocks]
    exact hb'
  · rw [hframe]; exact ha
  · rw [hframe]
  · exact foldl_keeps (State.Halted · k) _ _ _ (hhalted k hk) fun t j h => State.sendHome_halted h j

/-- A block that no other is pre-empted with: it has no cluster, and its task is not co-resident (R141, R208). -/
def State.Alone (s : State) (b : Block) : Prop :=
  b.csize ≤ 1 ∧ b.tt ≠ none ∧ ∀ j k, b.tt = some j → SMap.find? s.box.table j = some k → k.task.coRes = false

theorem State.Alone.together {s : State} {bid : Nat} {b : Block} (hb : s.block? bid = some b) (h : s.Alone b) : s.together bid = [bid] := by
  obtain ⟨hsize, htt, htask⟩ := h
  obtain ⟨j, hj⟩ := Option.ne_none_iff_exists'.1 htt
  simp only [State.together, hb, hj, Option.bind_some]
  cases hk : SMap.find? s.box.table j with
  | none => rfl
  | some k => simp [htask j k hj hk, Nat.not_lt.2 hsize]

theorem State.Alone.preemptAll {s : State} {bid : Nat} {b : Block} (hb : s.block? bid = some b) (h : s.Alone b) :
    s.preemptAll [bid] = s.preempt bid := by
  have hone : [bid].eraseDups = [bid] := rfl
  simp only [State.preemptAll, List.map_cons, List.map_nil, h.together hb, List.flatten_cons, List.flatten_nil, List.append_nil, hone,
    List.foldl_cons, List.foldl_nil, Option.bind_some]

theorem State.Alone.halts {s : State} {bid : Nat} {b : Block} (hb : s.block? bid = some b) (h : s.Alone b) (hlive : b.phase = .live)
    (hr : (s.reserveFor bid).isSome = true) : ∃ t, s.preemptAll [bid] = some t ∧ t.HaltsBlock bid b := by
  rw [h.preemptAll hb]
  exact State.preempt_halts hb h.2.1 hlive hr

theorem preemptRequest_halts {s : State} {bid : Nat} {b : Block} (hb : s.block? bid = some b) (h : s.Alone b) (hlive : b.phase = .live)
    (hr : (s.reserveFor bid).isSome = true) : s.Happens (.preemptRequest bid) (·.HaltsBlock bid b) := by
  obtain ⟨t, ht, hhalts⟩ := h.halts hb hlive hr
  have hphase : ¬ b.phase = .halting := by rw [hlive]; decide
  refine ⟨t, (?_ : execPreemptRequest bid s = _), hhalts⟩
  simp only [execPreemptRequest, hb, if_neg hphase, ht]

theorem Task.wants_of_st {k : Task} (h : k.st = .eligible ∨ k.st = .running) : k.wants = true := by
  unfold Task.wants
  rcases h with e | e
  · rw [e]; rfl
  · rw [e]; rfl

/-- The only block of a core has been there for longer than its slice, and another context's task has waited for its own (R143). -/
theorem sliceExpiry_halts {s : State} {tt core bid t0 : Nat} {b : Block} {k : Task} {own other : Context} (hb : s.block? bid = some b)
    (h : s.Alone b) (hlive : b.phase = .live) (hr : (s.reserveFor bid).isSome = true) (hk : SMap.find? s.box.table tt = some k)
    (hst : k.st = .eligible ∨ k.st = .running) (hcls : k.clsNow = 1) (hown : s.ctx? k.ctx = some own) (hwait : s.waitStart k = some t0)
    (hdue : t0 + 2000 * own.req.slice ≤ s.now) (hbcls : b.cls = 1) (hctx : b.ctx ≠ k.ctx) (hother : s.ctx? b.ctx = some other)
    (hslice : 0 < other.req.slice) (hstay : b.placedAt + 2000 * other.req.slice < s.now) (honly : s.resident core = [(bid, b)]) :
    s.Happens (.sliceExpiry tt core) (·.HaltsBlock bid b) := by
  obtain ⟨t, ht, hhalts⟩ := h.halts hb hlive hr
  refine ⟨t, (?_ : execSliceExpiry tt core s = _), hhalts⟩
  simp [execSliceExpiry, hk, Task.wants_of_st hst, hcls, hown, hwait, oneMicro, hdue, honly,
    Block.isStation_eq_false h.2.1, hbcls, hlive, hctx, hother, hslice, hstay, ht]

end Sys2Proof.Machine
end

section
/-! The groups of a block enter firmware (R436), and a saved block is restored (R144, R202, R208). -/

namespace Sys2Proof.Machine

/-! ### Groups changed one after another -/

section
variable {ι : Type} (key : ι → Nat) (f : ι → Group → Group)

theorem State.modGroups_frame (js : List ι) (s : State) :
    js.foldl (fun t j => t.modGroup (key j) (f j)) s = { s with groups := (js.foldl (fun t j => t.modGroup (key j) (f j)) s).groups } :=
  foldl_keeps (fun t : State => t = { s with groups := t.groups }) _ js s rfl fun t j h => by rw [h]; rfl

theorem State.modGroups_other (js : List ι) (k : Nat) (hk : k ∉ js.map key) (s : State) :
    (js.foldl (fun t j => t.modGroup (key j) (f j)) s).group? k = s.group? k := by
  induction js generalizing s with
  | nil => rfl
  | cons j js ih =>
    rw [List.map_cons, List.mem_cons, not_or] at hk
    rw [List.foldl_cons, ih hk.2, State.group?_modGroup_other _ _ _ _ hk.1]

theorem State.modGroups_each (js : List ι) (hn : (js.map key).Nodup) (s : State) : ∀ j ∈ js,
    (js.foldl (fun t j => t.modGroup (key j) (f j)) s).group? (key j) = (s.group? (key j)).map (f j) := by
  induction js generalizing s with
  | nil => intro j hj; cases hj
  | cons i js ih =>
    rw [List.map_cons, List.nodup_cons] at hn
    intro j hj
    rw [List.foldl_cons]
    rcases List.mem_cons.1 hj with rfl | hj
    · rw [State.modGroups_other key f js _ hn.1, State.group?_modGroup_same]
    · rw [ih hn.2 _ j hj, State.group?_modGroup_other]
      exact fun e => hn.1 (e ▸ List.mem_map_of_mem hj)
end

theorem groupKeys_nodup (bid n : Nat) : ((List.range n).map (32 * bid + ·)).Nodup :=
  List.nodup_range.map fun _ _ h => Nat.add_left_cancel h

/-- Once a halted block is quiet, all its groups enter firmware together (R178, R436). -/
theorem preemptRequest_entersFirmware {s : State} {bid : Nat} {b : Block} (hb : s.block? bid = some b) (hhalt : b.phase = .halting)
    (hquiet : s.quiet bid = true) (hready : ∀ k ∈ Block.gids bid b, ∃ g, s.group? k = some g ∧ g.fw = false ∧ g.migrating = none)
    (hlive : ∃ k ∈ Block.gids bid b, ∃ g, s.group? k = some g ∧ g.live ≠ 0) :
    s.Happens (.preemptRequest bid) fun t => t = { s with groups := t.groups } ∧
      (∀ k ∈ Block.gids bid b, ∀ g, s.group? k = some g → t.group? k = some { g with
        fw := true, resume := g.entries, entries := [Entry.at (8 * Config.firmware false) 0 0xFFFFFFFF 0] }) ∧
      ∀ k, k ∉ Block.gids bid b → t.group? k = s.group? k := by
  have hsome : (Block.gids bid b).all (fun k => (s.group? k).any fun g => !g.fw && g.live == 0) = false := by
    obtain ⟨k, hk, g, hg, hne⟩ := hlive
    refine List.all_eq_false.2 ⟨k, hk, ?_⟩
    rw [hg, Option.any_some, beq_eq_false_iff_ne.2 hne, Bool.and_false]
    exact Bool.false_ne_true
  have hall : (Block.gids bid b).all (fun k => (s.group? k).any fun g => !g.fw && g.migrating.isNone) = true := by
    refine List.all_eq_true.2 fun k hk => ?_
    obtain ⟨g, hg, hfw, hmig⟩ := hready k hk
    simp [hg, hfw, hmig]
  have hids : ((Block.gids bid b).map id).Nodup := by rw [List.map_id]; exact groupKeys_nodup bid b.groups
  refine ⟨(Block.gids bid b).foldl (fun t k => t.modGroup k fun g => g.enterFw false) s, (?_ : execPreemptRequest bid s = _),
    State.modGroups_frame id (fun _ g => g.enterFw false) _ s, fun k hk g hg => ?_, fun k hk => ?_⟩
  · simp only [execPreemptRequest, hb, hhalt, hsome, hquiet, hall, if_true, Bool.false_eq_true, if_false, Bool.and_self]
  · refine (State.modGroups_each id (fun _ g => g.enterFw false) _ hids s k hk).trans ?_
    rw [id, hg]
    rfl
  · exact State.modGroups_other id (fun _ g => g.enterFw false) _ k (by rwa [List.map_id]) s

/-! ### Express blocks that come to a core (R172) -/

theorem SMap.mem_set {α : Type} [DecidableEq α] {d : α} {m : SMap α} {k : Nat} {v : α} (hv : v ≠ d) {e : Nat × α}
    (h : e ∈ SMap.set d m k v) : e = (k, v) ∨ e ∈ m := by
  induction m with
  | nil => simpa [SMap.set, hv] using h
  | cons x m ih =>
    obtain ⟨j, w⟩ := x
    simp only [SMap.set, if_neg hv] at h
    split at h
    · exact List.mem_cons.1 h
    · split at h
      · exact (List.mem_cons.1 h).imp_right (List.mem_cons_of_mem _)
      · rcases List.mem_cons.1 h with rfl | h
        · exact .inr List.mem_cons_self
        · exact (ih h).imp_right (List.mem_cons_of_mem _)

theorem SMap.entries_mem {α : Type} {m : SMap (Option α)} {k : Nat} {v : α} (h : (k, v) ∈ SMap.entries m) : (k, some v) ∈ m := by
  induction m with
  | nil => cases h
  | cons e m ih =>
    obtain ⟨j, x⟩ := e
    cases x with
    | none => exact List.mem_cons_of_mem _ (ih h)
    | some y =>
      rcases List.mem_cons.1 h with e | h
      · cases e; exact List.mem_cons_self
      · exact List.mem_cons_of_mem _ (ih h)

theorem SMap.mem_entries_put {α : Type} [DecidableEq α] {m : SMap (Option α)} {k : Nat} {v : α} {e : Nat × α}
    (h : e ∈ SMap.entries (SMap.put m k v)) : e = (k, v) ∨ e ∈ SMap.entries m := by
  rcases SMap.mem_set (by simp) (SMap.entries_mem h) with h | h
  · simp only [Prod.mk.injEq, Option.some.injEq] at h
    exact .inl (Prod.ext h.1 h.2)
  · exact .inr (SMap.mem_entries m _ _ h)

/-- One block more, not express, does not take a core out of OPEN. -/
theorem State.afterPlace_of_put {before s : State} {bid : Nat} {b : Block} (hs : s.blocks = SMap.put before.blocks bid b) (hb : b.cls ≠ 0)
    (c : Nat) : State.afterPlace before s c = s := by
  have hnone : ((s.resident c).any fun x => x.2.cls == 0 && !(before.resident c).any fun y => y.1 == x.1) = false := by
    refine List.any_eq_false.2 fun x hx => ?_
    rw [State.resident, hs] at hx
    obtain ⟨hmem, hhere⟩ := List.mem_filter.1 hx
    rcases SMap.mem_entries_put hmem with rfl | hold
    · simp [hb]
    · have hbefore : ((before.resident c).any fun y => y.1 == x.1) = true :=
        List.any_eq_true.2 ⟨x, List.mem_filter.2 ⟨hold, hhere⟩, beq_self_eq_true _⟩
      simp [hbefore]
  simp only [State.afterPlace, hnone, Bool.not_false, if_true]

theorem State.afterPlaces_of_put {before s : State} {bid : Nat} {b : Block} (hs : s.blocks = SMap.put before.blocks bid b) (hb : b.cls ≠ 0)
    (cs : List Nat) : cs.foldl (State.afterPlace before) s = s :=
  foldl_keeps (· = s) _ cs s rfl fun t c h => by rw [h]; exact State.afterPlace_of_put hs hb c

/-! ### What the logbook and the sampler leave (R284, R287, R291) -/

/-- Blocks, groups and the signal box are as they were. -/
structure State.SameTasks (s t : State) : Prop where
  blocks : t.blocks = s.blocks
  groups : t.groups = s.groups
  box : t.box = s.box

theorem State.SameTasks.refl (s : State) : s.SameTasks s := ⟨rfl, rfl, rfl⟩
theorem State.SameTasks.trans {s t u : State} (h : s.SameTasks t) (k : t.SameTasks u) : s.SameTasks u :=
  ⟨k.blocks.trans h.blocks, k.groups.trans h.groups, k.box.trans h.box⟩

theorem State.Wrote.sameTasks {s t : State} (h : s.Wrote t) : s.SameTasks t :=
  ⟨h.blocks, h.groups, by unfold State.Wrote at h; rw [h]⟩

theorem State.modCtx_sameTasks (s : State) (c : Nat) (k : Context → Context) : s.SameTasks (s.modCtx c k) := ⟨rfl, rfl, rfl⟩

theorem State.lbPut_sameTasks (s : State) (c : Nat) (cx : Context) (bytes : List (BitVec 8)) : s.SameTasks (s.lbPut c cx bytes) := by
  simp only [State.lbPut]
  split
  · exact .refl s
  · split
    · exact (State.funcWrite_wrote ..).sameTasks
    · exact (State.funcWrite_wrote ..).sameTasks.trans ((State.funcWrite_wrote ..).sameTasks.trans (State.modCtx_sameTasks ..))

theorem State.blockLog_sameTasks (s : State) (b : Block) (kind aux : Nat) (data : List (BitVec 8)) : s.SameTasks (s.blockLog b kind aux data) := by
  simp only [State.blockLog, State.logbook]
  split
  · exact .refl s
  · split
    · exact .refl s
    · exact State.lbPut_sameTasks ..

theorem State.lbRead_sameTasks (s : State) (c : Nat) : s.SameTasks (s.lbRead c) := by
  simp only [State.lbRead]
  split
  · exact .refl s
  · split
    · exact ⟨rfl, rfl, rfl⟩
    · exact ⟨rfl, rfl, rfl⟩

theorem State.seedSampler_sameTasks (s : State) (c ctx : Nat) : s.SameTasks (s.seedSampler c ctx) := by
  simp only [State.seedSampler]
  split
  · exact .refl s
  · exact ⟨rfl, rfl, rfl⟩

/-! ### A saved block returns -/

/-- A block as it stands in a place while it is restored (R202). -/
def Block.seatedAt (b : Block) (core cls now : Nat) (f : Fit) : Block :=
  { b with core := core, place := f.place, places := f.places, carve := f.carve, borrowed := f.borrow, cls := cls, phase := .restoring
           parts := 0, placedAt := now }

theorem State.seated_eq {s : State} {b : Block} {c cls : Nat} {f : Fit} (h : (s.seated b c cls f).isSome = true) :
    s.seated b c cls f = some (b.seatedAt c cls s.now f) := by
  simp only [State.seated] at h ⊢
  split at h
  · next hnames => rw [if_pos hnames]; rfl
  · cases h

/-- A group of a restored block in its slot: it halts, and runs the restore's firmware entry (R436). -/
def Group.reenter (cls : Nat) (slots : List Nat) (j : Nat) (g : Group) : Group :=
  ({ g with slot := slots.getD j 0, cls := cls, halted := true } : Group).enterFw true

/-- A block that fits on a core and needs no other takes that core alone. -/
theorem State.clusterCores_one {s : State} {c ctx cls : Nat} {p : Split} {f : Fit} (h : s.fit c ctx cls p = some f) :
    s.clusterCores c ctx cls p 1 = some [c] := by
  have hhead : c / 8 * 8 + (c + 0) % 8 = c := by omega
  have hcs : (List.range 8).map (fun k => c / 8 * 8 + (c + k) % 8) = c :: (List.range 7).map (fun k => c / 8 * 8 + (c + (k + 1)) % 8) := by
    rw [List.range_succ_eq_map, List.map_cons, List.map_map, hhead]; rfl
  simp only [State.clusterCores, hcs, List.filter_cons, h, Option.isSome_some, if_true, List.head?_cons, List.length_cons, decide_true,
    Bool.and_self, Nat.le_add_left, List.take_succ_cons, List.take_zero]

section
variable {s : State} {bid tt core : Nat} {b : Block} {k : Task} {f : Fit}

/-- What a restore leaves of the blocks, the groups and the task (R202, R208, R436). -/
structure State.Restored (s t : State) (bid tt core : Nat) (b : Block) (k : Task) (f : Fit) : Prop where
  blocks : t.blocks = SMap.put s.blocks bid (b.seatedAt core k.clsNow s.now f)
  groups : ∀ j < b.groups, ∀ g, s.group? (32 * bid + j) = some g → ∃ sl, t.group? (32 * bid + j) = some { g with
    slot := sl, cls := k.clsNow, halted := true, fw := true, resume := g.entries
    entries := [Entry.at (8 * Config.firmware true) 0 0xFFFFFFFF 0] }
  task : SMap.find? t.box.table tt = some { k with saved := k.saved.filter (· != bid) }

theorem State.restore_restores (hb : s.block? bid = some b) (hsaved : b.phase = .saved) (htt : b.tt = some tt)
    (hk : SMap.find? s.box.table tt = some k) (hstores : s.blockStores bid = false) (hfit : s.fit core b.ctx k.clsNow b.split = some f)
    (hseat : (s.seated b core k.clsNow f).isSome = true) : ∃ t, s.restore bid core = some t ∧ s.Restored t bid tt core b k f := by
  have hphase : (b.phase != .saved || s.blockStores bid) = false := by rw [hsaved, hstores]; rfl
  have hplace : (s.fit core b.ctx k.clsNow b.split).bind (s.seated b core k.clsNow) = some (b.seatedAt core k.clsNow s.now f) := by
    rw [hfit, Option.bind_some, State.seated_eq hseat]
  generalize hslots : s.freeSlots core (k.clsNow == 2) b.groups = slots
  generalize hs1 : (s.setBlock bid (b.seatedAt core k.clsNow s.now f)).modTask tt (fun q => { q with saved := q.saved.filter (· != bid) }) = s1
  generalize hs2 : (List.range b.groups).foldl (fun t j => t.modGroup (32 * bid + j) (Group.reenter k.clsNow slots j)) s1 = s2
  have hframe : s2 = { s1 with groups := s2.groups } := hs2 ▸ State.modGroups_frame (32 * bid + ·) (Group.reenter k.clsNow slots) _ s1
  have hsame := (s2.lbRead_sameTasks b.ctx).trans ((State.seedSampler_sameTasks _ core b.ctx).trans
    (State.blockLog_sameTasks _ (b.seatedAt core k.clsNow s.now f) 0x16 0 (toBytes 8 (s.areaVA b))))
  refine ⟨((s2.lbRead b.ctx).seedSampler core b.ctx).blockLog (b.seatedAt core k.clsNow s.now f) 0x16 0 (toBytes 8 (s.areaVA b)), ?_,
    ⟨?_, fun j hj g hg => ⟨slots.getD j 0, ?_⟩, ?_⟩⟩
  · simp only [State.restore, hb, htt, Option.bind_some, hk, hphase, Bool.false_eq_true, if_false, hplace, Option.map_some, hslots,
      Option.getD_some, hs1]
    exact congrArg (fun u : State => some (((u.lbRead b.ctx).seedSampler core b.ctx).blockLog _ 0x16 0 _)) hs2
  · rw [hsame.blocks, hframe, ← hs1]
    rfl
  · have heach := State.modGroups_each (32 * bid + ·) (Group.reenter k.clsNow slots) _ (groupKeys_nodup bid b.groups) s1 j
      (List.mem_range.2 hj)
    rw [hs2, ← hs1] at heach
    unfold State.group?
    rw [hsame.groups]
    exact heach.trans (congrArg (Option.map _) hg)
  · rw [hsame.box, hframe, ← hs1]
    exact (SMap.find_modify_same ..).trans (congrArg (Option.map _) hk)

theorem blockRestore_restores (hb : s.block? bid = some b) (hsaved : b.phase = .saved) (htt : b.tt = some tt)
    (hk : SMap.find? s.box.table tt = some k) (hturn : s.turnOf = some tt) (hco : k.task.coRes = false) (hcluster : ∀ x ∈ b.cluster, x = bid)
    (hstores : s.blockStores bid = false) (hcls : k.clsNow ≠ 0) (hfit : s.fit core b.ctx k.clsNow b.split = some f)
    (hseat : (s.seated b core k.clsNow f).isSome = true) : s.Happens (.blockRestore bid core) (s.Restored · bid tt core b k f) := by
  obtain ⟨t, ht, hrest⟩ := State.restore_restores hb hsaved htt hk hstores hfit hseat
  have hunit : s.unitOf bid b = [bid] := by
    unfold State.unitOf
    rw [List.filter_eq_nil_iff.2 fun x hx => by simp [hcluster x hx]]
  have honly : s.restoreUnit bid core = some t := by
    simp only [State.restoreUnit, hb, htt, Option.bind_some, hk, Option.map_some, Option.getD_some, hunit, List.length_singleton,
      State.clusterCores_one hfit, State.restoreOn, List.zip_cons_cons, List.zip_nil_left, List.foldl_cons, List.foldl_nil, ht]
  have hblock : t.block? bid = some (b.seatedAt core k.clsNow s.now f) := by
    unfold State.block?
    rw [hrest.blocks]
    exact SMap.find_put_same ..
  refine ⟨t, (?_ : execBlockRestore bid core s = _), hrest⟩
  simp only [execBlockRestore, hb, htt, Option.bind_some, hk, Option.map_some, hturn, hco, honly, hblock, Option.any_some, bne_self_eq_false,
    Bool.false_eq_true, if_false]
  rw [State.afterPlaces_of_put hrest.blocks hcls]
  simp [Block.seatedAt]
end

end Sys2Proof.Machine
end

section
/-! Re-splits (R142): a core is drained for a task that has waited too long, and given up when it is empty. -/

namespace Sys2Proof.Machine

theorem resplitTimeout_drains {s : State} {tt core t0 : Nat} {k : Task} {cx : Context} (hk : SMap.find? s.box.table tt = some k)
    (hst : k.st = .eligible ∨ k.st = .running) (hcls : k.clsNow ≠ 2) (hcx : s.ctx? k.ctx = some cx) (hwait : s.waitStart k = some t0)
    (hdue : t0 + 2000 * cx.req.resplit < s.now) (hlive : s.coreLive core = true)
    (hsplit : ∀ c < 64, ∀ x ∈ s.splitBlocks c, x.2.borrowed = true ∨ ¬(x.2.vcount = k.task.split.v ∧ x.2.spad = k.task.split.spad ∧
      x.2.scount = k.task.split.u ∧ x.2.acc = k.task.split.acc))
    (hexpress : s.hasExpress core = false) (hhere : ∃ x ∈ s.resident core, x.2.isStation = false)
    (hfree : SMap.find? s.box.draining core = none) (hother : ∀ x ∈ SMap.entries s.box.draining, x.2.1 ≠ tt) :
    s.Happens (.resplitTimeout tt core) fun t =>
      t = { s with box := { s.box with draining := SMap.put s.box.draining core (tt, s.now) } } := by
  have hcore : core < 64 := by
    unfold State.coreLive at hlive
    simp only [Bool.and_eq_true, decide_eq_true_eq] at hlive
    exact hlive.1
  have hnone : (List.range 64).all (fun c => (s.splitBlocks c).all fun b => b.2.borrowed || !(b.2.vcount == k.task.split.v &&
      b.2.spad == k.task.split.spad && b.2.scount == k.task.split.u && b.2.acc == k.task.split.acc)) = true := by
    refine List.all_eq_true.2 fun c hc => List.all_eq_true.2 fun x hx => ?_
    rcases hsplit c (List.mem_range.1 hc) x hx with h | h
    · simp [h]
    · simp only [Bool.or_eq_true, Bool.not_eq_true', Bool.and_eq_false_iff, beq_eq_false_iff_ne]
      tauto
  have hothers : (SMap.entries s.box.draining).all (fun x => x.2.1 != tt) = true :=
    List.all_eq_true.2 fun x hx => bne_iff_ne.2 (hother x hx)
  have hany : (s.resident core).any (fun b => !b.2.isStation) = true := by
    obtain ⟨x, hx, hs⟩ := hhere
    exact List.any_eq_true.2 ⟨x, hx, by rw [hs]; rfl⟩
  refine ⟨_, (?_ : execResplitTimeout tt core s = _), rfl⟩
  simp only [execResplitTimeout, hk, Task.wants_of_st hst, bne_iff_ne.2 hcls, hcx, hwait, Option.map_some, Option.getD_some, Option.any_some,
    oneMicro, decide_eq_true hdue, decide_eq_true hcore, hlive, hnone, hexpress, hany, hfree, Option.isNone_none, hothers, Bool.not_false,
    Bool.and_self, if_true]

theorem drainTimeout_ends {s : State} {core : Nat} {w : Nat × Nat} (hw : SMap.find? s.box.draining core = some w)
    (hempty : ∀ x ∈ s.resident core, x.2.isStation = true) : s.Happens (.drainTimeout core) fun t =>
      t = { s with box := { s.box with draining := SMap.del s.box.draining core } } := by
  have hrest : (s.resident core).filter (fun b => !b.2.isStation) = [] := List.filter_eq_nil_iff.2 fun x hx => by simp [hempty x hx]
  refine ⟨_, (?_ : execDrainTimeout core s = _), rfl⟩
  simp only [execDrainTimeout, hw, hrest, List.isEmpty_nil, if_true]

/-- Settles O52: each clause is what one event does to a block, a core or the groups. -/
theorem preemption : Obligations.Preemption := by
  unfold Obligations.Preemption
  intro s tt core bid b
  extract_lets alone halts
  intro hb
  refine ⟨fun h hlive hr => preemptRequest_halts hb h hlive hr, fun hhalt hquiet hready hlive =>
    preemptRequest_entersFirmware hb hhalt hquiet hready hlive, ?_, ?_, ?_, fun w hw hempty => drainTimeout_ends hw hempty⟩
  · intro k own other t0 hk hst hcls hown hwait hdue h hlive hbcls hcore hctx hother hslice hstay honly hr
    exact sliceExpiry_halts hb h hlive hr hk hst hcls hown hwait hdue hbcls hctx hother hslice hstay honly
  · intro k f hsaved htt hk hturn hco hcluster hstores hcore hcls hfit hseat
    obtain ⟨t, ht, hblocks, hgroups, htask⟩ := blockRestore_restores hb hsaved htt hk hturn hco hcluster hstores hcls hfit hseat
    refine ⟨t, ht, ?_, hgroups, htask⟩
    unfold State.block?
    rw [hblocks]
    exact SMap.find_put_same ..
  · intro k cx t0 hk hst hcls hcx hwait hdue hlive hsplit hexpress hhere hfree hother
    exact resplitTimeout_drains hk hst hcls hcx hwait hdue hlive hsplit hexpress hhere hfree hother

end Sys2Proof.Machine
end

section
/-! MIGRATE (R176, R360): what the word answers, how a group sets out and what a landing leaves. -/

namespace Sys2Proof.Machine

/-! ### A landing slot is free whatever else a group holds -/

/-- A record that takes the place of another one passes the same tests of its value. -/
theorem SMap.any_entries_put {α : Type} [DecidableEq α] {m : SMap (Option α)} {k : Nat} {u v : α} {p : α → Bool}
    (h : SMap.find? m k = some u) (hp : p v = p u) :
    ((SMap.entries (SMap.put m k v)).any fun e => p e.2) = (SMap.entries m).any fun e => p e.2 := by
  induction m with
  | nil => cases h
  | cons e m ih =>
    obtain ⟨j, w⟩ := e
    simp only [SMap.find?, SMap.get] at h ih
    simp only [SMap.put, SMap.set, reduceCtorEq, if_false] at ih ⊢
    by_cases hkj : k = j
    · subst hkj
      rw [if_pos rfl] at h
      subst h
      simp [SMap.entries, hp]
    · rw [if_neg hkj] at h
      by_cases hlt : k < j
      · rw [if_pos hlt] at h; cases h
      · rw [if_neg hlt] at h
        rw [if_neg hlt, if_neg hkj]
        cases w with
        | none => exact ih h
        | some x => simp only [SMap.entries, List.any_cons, ih h]

theorem State.freeLanding_setGroup {s : State} {gid : Nat} {g h : Group} (hg : s.group? gid = some g) (hl : h.landed = g.landed)
    (hm : h.migrating = g.migrating) (core : Nat) : (s.setGroup gid h).freeLanding core = s.freeLanding core := by
  have hany (i : Nat) : ((SMap.entries (s.setGroup gid h).groups).any fun x => x.2.landed == some (core, i) || x.2.migrating == some (core, i)) =
      (SMap.entries s.groups).any fun x => x.2.landed == some (core, i) || x.2.migrating == some (core, i) :=
    SMap.any_entries_put (p := fun x : Group => x.landed == some (core, i) || x.migrating == some (core, i)) hg (by rw [hl, hm])
  simp only [State.freeLanding, hany]

/-! ### What a logbook record of a group changes (R285 to R287) -/

/-- `t` is `s` but for memory and the host's side. -/
def State.SameButBook (s t : State) : Prop := t = { s with host := t.host, mem := t.mem, far := t.far, md := t.md, l1 := t.l1 }

theorem State.SameButBook.refl (s : State) : s.SameButBook s := rfl
theorem State.SameButBook.trans {s t u : State} (h : s.SameButBook t) (k : t.SameButBook u) : s.SameButBook u := by
  unfold State.SameButBook at *; rw [k, h]
theorem State.Wrote.sameButBook {s t : State} (h : s.Wrote t) : s.SameButBook t := by
  unfold State.Wrote at h; unfold State.SameButBook; rw [h]
theorem State.modCtx_sameButBook (s : State) (c : Nat) (f : Context → Context) : s.SameButBook (s.modCtx c f) := rfl

theorem State.lbPut_sameButBook (s : State) (c : Nat) (cx : Context) (bytes : List (BitVec 8)) : s.SameButBook (s.lbPut c cx bytes) := by
  simp only [State.lbPut]
  split
  · exact .refl s
  · split
    · exact (State.funcWrite_wrote ..).sameButBook
    · exact (State.funcWrite_wrote ..).sameButBook.trans ((State.funcWrite_wrote ..).sameButBook.trans (State.modCtx_sameButBook ..))

theorem State.groupLog_sameButBook (s : State) (gid kind aux : Nat) (e : Nat × Nat) (data : List (BitVec 8)) :
    s.SameButBook (s.groupLog gid kind aux e data) := by
  simp only [State.groupLog, State.logbook]
  split
  · exact .refl s
  · split
    · exact .refl s
    · split
      · exact .refl s
      · split
        · exact .refl s
        · exact State.lbPut_sameButBook ..

theorem State.SameButBook.setGroup {s t : State} {gid : Nat} {g : Group} (k : (s.setGroup gid g).SameButBook t) (h : Group) :
    t.setGroup gid h = { s.setGroup gid h with host := t.host, mem := t.mem, far := t.far, md := t.md, l1 := t.l1 } := by
  unfold State.SameButBook at k
  rw [k]
  simp only [State.setGroup, SMap.put_put]

/-- A context without a logbook takes no record. -/
theorem State.groupLog_noBook {s : State} {gid : Nat} {g : Group} {b : Block} (hg : s.group? gid = some g) (hb : s.block? g.bid = some b)
    (hbook : ∀ cx, s.ctx? b.ctx = some cx → cx.lbBase = 0) (kind aux : Nat) (e : Nat × Nat) (data : List (BitVec 8)) :
    s.groupLog gid kind aux e data = s := by
  simp only [State.groupLog, hg, hb, State.logbook]
  split
  · rfl
  · next cx hcx => simp [State.lbPut, hbook cx hcx]

/-! ### The word's answer at once -/

/-- The group once its predicate is written in all its lanes and its entry has gone on. -/
def Issue.told (is : Issue) (pd : Nat) (v : Bool) : Group := (is.g.setPreds pd is.g.live (if v then is.g.live else 0)).advance is.i

/-- The group goes on with the predicate written for all its lanes, and nothing else changes. -/
def State.Tells (s u : State) (is : Issue) (pd : Nat) (v : Bool) : Prop :=
  ∃ h, u = s.setGroup is.gid h ∧ h = { is.g.advance is.i with p := h.p, fences := h.fences } ∧
    (pd < 12 → ∀ l < 32, lane is.g.live l → h.pred pd l = v) ∧
    ∀ k < 12, ∀ l < 32, (k ≠ pd ∨ lane is.g.live l = false) → h.pred k l = is.g.pred k l

theorem Issue.pred_told (is : Issue) (pd : Nat) (v : Bool) {k l : Nat} (hk : k < 12) (hl : l < 32) :
    (is.told pd v).pred k l = if k = pd ∧ lane is.g.live l = true then v else is.g.pred k l := by
  have hgone : (is.told pd v).pred k l = (is.g.setPreds pd is.g.live (if v then is.g.live else 0)).pred k l := by
    rw [Issue.told, Group.advance_frame]; rfl
  rw [hgone, Group.pred_setPreds _ _ _ _ _ _ hk hl]
  split
  · next h =>
    cases v
    · exact lane_zero l
    · exact h.2
  · rfl

theorem State.told_tells (s : State) (is : Issue) (i : Instr) (pd : Nat) (v : Bool) :
    s.Tells (s.setGroup is.gid ((s.issueOf is i).told pd v)) is pd v := by
  have hpred {k l : Nat} (hk : k < 12) (hl : l < 32) := (s.issueOf is i).pred_told pd v hk hl
  refine ⟨_, rfl, ?_, fun hpd l hl hlive => (hpred hpd hl).trans (if_pos ⟨rfl, hlive⟩), fun k hk l hl hne => (hpred hk hl).trans (if_neg ?_)⟩
  · have hset := Group.setPreds_frame (s.issueOf is i).g pd is.g.live (if v then is.g.live else 0)
    have hdress : (s.issueOf is i).g.setPreds pd is.g.live (if v then is.g.live else 0) =
        is.g.dress ((s.issueOf is i).g.setPreds pd is.g.live (if v then is.g.live else 0)) := by rw [hset]; rfl
    have htold : (s.issueOf is i).told pd v =
        (is.g.advance is.i).dress ((s.issueOf is i).g.setPreds pd is.g.live (if v then is.g.live else 0)) :=
      (congrArg (Group.advance · is.i) hdress).trans (Group.advance_dress ..)
    rw [htold, hset, Group.advance_frame]; rfl
  · rintro ⟨rfl, hlive⟩
    rcases hne with h | h
    · exact h rfl
    · exact absurd (hlive.symm.trans h) (by decide)

/-! ### A group sets out -/

/-- The group is on its way to a landing slot, with a record of that in the logbook where its context has one. -/
def State.SetsOut (s u : State) (is : Issue) (dest : Nat × Nat) : Prop :=
  ∃ h, h = { is.g with migrating := some dest, fences := h.fences } ∧
    u = { s.setGroup is.gid h with host := u.host, mem := u.mem, far := u.far, md := u.md, l1 := u.l1 } ∧
    ((∀ cx, s.ctx? is.b.ctx = some cx → cx.lbBase = 0) → u = s.setGroup is.gid h)

/-- The group on its way. -/
def Issue.leaving (is : Issue) (dest : Nat × Nat) : Group := { is.g with migrating := some dest }

/-- The state once the group has written its record and set out. -/
def State.sentOff (s : State) (is : Issue) (rank : Nat) (dest : Nat × Nat) : State :=
  (s.groupLog is.gid 0x17 rank (is.e.clause, is.e.word) []).setGroup is.gid (is.leaving dest)

theorem State.sentOff_setsOut {s : State} {is : Issue} (i : Instr) (hb : s.block? is.g.bid = some is.b) (rank : Nat) (dest : Nat × Nat) :
    s.SetsOut ((s.entered is i).sentOff (s.issueOf is i) rank dest) is dest := by
  refine ⟨(s.issueOf is i).leaving dest, rfl, ?_, fun hbook => ?_⟩
  · exact ((s.entered is i).groupLog_sameButBook is.gid 0x17 rank (is.e.clause, is.e.word) []).setGroup ((s.issueOf is i).leaving dest)
  · have hnone : (s.entered is i).groupLog is.gid 0x17 rank (is.e.clause, is.e.word) [] = s.entered is i :=
      State.groupLog_noBook (g := (s.issueOf is i).g) (State.group?_setGroup_same ..) hb hbook ..
    exact (congrArg (State.setGroup · is.gid ((s.issueOf is i).leaving dest)) hnone).trans (State.setGroup_setGroup ..)

/-! ### The word -/

/-- The state once the group has the predicate and goes on. -/
def State.answered (s : State) (is : Issue) (pd : Nat) (v : Bool) : State :=
  (s.setGroup is.gid (is.g.setPreds pd is.g.live (if v then is.g.live else 0))).goOn is

/-- What MIGRATE of a group with nothing outstanding does. -/
theorem State.migrateTo_eq (s : State) (is : Issue) (pd rank : Nat) : s.migrateTo is pd rank =
    if is.b.cls = 2 then s.answered is pd false
    else if rank = is.b.clrank then (if is.g.landed.isNone then s.answered is pd true else s.sentOff is rank (is.b.core, 2))
    else match (is.b.cluster[rank]?).bind s.block? with
      | none => s.answered is pd false
      | some d => match s.freeLanding d.core with
        | none => s.answered is pd false
        | some i => s.sentOff is rank (d.core, i) := rfl

theorem State.answered_tells (s : State) (is : Issue) (i : Instr) (pd : Nat) (v : Bool) :
    s.Tells ((s.entered is i).answered (s.issueOf is i) pd v) is pd v := by
  have hgone : (s.entered is i).answered (s.issueOf is i) pd v = s.setGroup is.gid ((s.issueOf is i).told pd v) :=
    State.goOn_setGroup s is (s.issueOf is i) _ _ rfl rfl
  rw [hgone]
  exact s.told_tells is i pd v

section
variable {s : State} {is : Issue} {i : Instr} {pd rank : Nat}

theorem State.migrateTo_freight (hcls : is.b.cls = 2) : s.Tells ((s.entered is i).migrateTo (s.issueOf is i) pd rank) is pd false := by
  have hcls' : (s.issueOf is i).b.cls = 2 := hcls
  rw [State.migrateTo_eq, if_pos hcls']
  exact s.answered_tells is i pd false

theorem State.migrateTo_own (hcls : is.b.cls ≠ 2) (hrank : rank = is.b.clrank) (hland : is.g.landed = none) :
    s.Tells ((s.entered is i).migrateTo (s.issueOf is i) pd rank) is pd true := by
  have hcls' : (s.issueOf is i).b.cls ≠ 2 := hcls
  have hrank' : rank = (s.issueOf is i).b.clrank := hrank
  have hland' : (s.issueOf is i).g.landed.isNone = true := Option.isNone_iff_eq_none.2 hland
  rw [State.migrateTo_eq, if_neg hcls', if_pos hrank', if_pos hland']
  exact s.answered_tells is i pd true

theorem State.migrateTo_home (hb : s.block? is.g.bid = some is.b) (hcls : is.b.cls ≠ 2) (hrank : rank = is.b.clrank)
    (hland : is.g.landed ≠ none) : s.SetsOut ((s.entered is i).migrateTo (s.issueOf is i) pd rank) is (is.b.core, 2) := by
  have hcls' : (s.issueOf is i).b.cls ≠ 2 := hcls
  have hrank' : rank = (s.issueOf is i).b.clrank := hrank
  have hland' : ¬ (s.issueOf is i).g.landed.isNone = true := fun h => hland (Option.isNone_iff_eq_none.1 h)
  rw [State.migrateTo_eq, if_neg hcls', if_pos hrank', if_neg hland']
  exact State.sentOff_setsOut i hb rank _

theorem State.migrateTo_away {k : Nat} {d : Block} (hg : s.group? is.gid = some is.g) (hb : s.block? is.g.bid = some is.b)
    (hcls : is.b.cls ≠ 2) (hrank : rank ≠ is.b.clrank) (hk : is.b.cluster[rank]? = some k) (hd : s.block? k = some d) :
    match s.freeLanding d.core with
    | some j => s.SetsOut ((s.entered is i).migrateTo (s.issueOf is i) pd rank) is (d.core, j)
    | none => s.Tells ((s.entered is i).migrateTo (s.issueOf is i) pd rank) is pd false := by
  have hcls' : (s.issueOf is i).b.cls ≠ 2 := hcls
  have hrank' : rank ≠ (s.issueOf is i).b.clrank := hrank
  have hdest : ((s.issueOf is i).b.cluster[rank]?).bind (s.entered is i).block? = some d := by
    rw [show (s.issueOf is i).b.cluster[rank]? = some k from hk]; exact hd
  have hfree : (s.entered is i).freeLanding d.core = s.freeLanding d.core :=
    State.freeLanding_setGroup (h := (s.issueOf is i).g) hg rfl rfl d.core
  rw [State.migrateTo_eq, if_neg hcls', if_neg hrank', hdest]
  dsimp only
  rw [hfree]
  cases s.freeLanding d.core with
  | none => exact s.answered_tells is i pd false
  | some j => exact State.sentOff_setsOut i hb rank _

end

/-- A word that can run ends in a next state; with the group reconverged and nothing outstanding it goes for the rank of its operand. -/
theorem exec_migrate {s : State} {q : Guard} {pd : Nat} {a : Src} {is : Issue} (hrun : s.canRun (.migrate q pd a) q = some is) :
    ∃ u, exec (.migrate q pd a) s = .next u ∧
      (is.g.entries.length = 1 → SMap.entries is.g.oplog = [] → s.storesPending is 0xFFFFFFFF = false →
        s.opnd is false a is.low / 2 ^ 24 % 256 = 0 → s.opnd is false a is.low / 2 ^ 20 % 16 < is.b.csize →
        u = (s.entered is (.migrate q pd a)).migrateTo (s.issueOf is (.migrate q pd a)) pd (s.opnd is false a is.low / 2 ^ 20 % 16)) := by
  obtain ⟨⟨is0, hissuer, rfl⟩, -, -, -, hheld, -⟩ := State.canRun_spec s _ q is hrun
  show ∃ u, execMigrate q pd a s = .next u ∧ _
  by_cases hsplit : is0.g.entries.length > 1
  · refine ⟨s.badClause is0.gid is0.i, ?_, fun hone => absurd hone (Nat.ne_of_gt hsplit)⟩
    simp only [execMigrate, hissuer, hheld, hsplit, Bool.not_false, decide_true, Bool.and_self, if_true]
  · simp only [execMigrate, hissuer, hsplit, decide_false, Bool.and_false, Bool.false_eq_true, if_false]
    refine ⟨_, State.word_canRun s _ q _ _ hrun, fun _ hlog hstores hzero hrank => ?_⟩
    have hlog' : (SMap.entries (s.issueOf (is0.with q) (.migrate q pd a)).g.oplog).isEmpty = true := List.isEmpty_iff.2 hlog
    have hstores' : s.storesPending (s.issueOf (is0.with q) (.migrate q pd a)) 0xFFFFFFFF = false := hstores
    have hzero' : (s.opnd (s.issueOf (is0.with q) (.migrate q pd a)) false a (is0.with q).low / 2 ^ 24 % 256 != 0) = false :=
      bne_eq_false_iff_eq.2 hzero
    have hrank' : decide ((is0.with q).b.csize ≤ bits (s.opnd (s.issueOf (is0.with q) (.migrate q pd a)) false a (is0.with q).low) 20 4)
        = false := decide_eq_false (Nat.not_le.2 hrank)
    exact (if_neg (ne_true_of_eq_false (Bool.or_eq_false_iff.2 ⟨hzero', hrank'⟩))).trans
      (if_neg (ne_true_of_eq_false (Bool.or_eq_false_iff.2 ⟨by rw [hlog']; rfl, hstores'⟩)))

/-! ### Arrival (R156, R176) -/

theorem Group.collapse_standsAt {g : Group} {l c w : Nat} (h : g.StandsAt l c w) : g.collapse.StandsAt l c w := by
  refine foldl_keeps (fun h : Group => h.StandsAt l c w) _ _ g h fun h _ hh => ?_
  unfold Group.collapseOnce
  split
  · exact hh
  · next n _ =>
    obtain ⟨e, he, hl, hc, hw⟩ := hh
    refine ⟨_, List.mem_map_of_mem he, ?_⟩
    split
    · exact ⟨hl, hc, hw⟩
    · exact ⟨hl, hc, hw⟩

/-- An entry at word 0 that fuses takes its lanes along to the same place. -/
theorem Group.fuseAt_standsAt {g : Group} {i l : Nat} {e : Entry} (he : g.entries[i]? = some e) (hl : lane e.mask l = true)
    (hw : e.word = 0) (conv : Bool) : (g.fuseAt i conv).StandsAt l e.clause 0 := by
  have hmem : e ∈ g.entries := List.mem_of_getElem? he
  have hstands : g.StandsAt l e.clause 0 := ⟨e, hmem, hl, rfl, hw⟩
  unfold Group.fuseAt
  split
  · exact hstands
  · next x hx =>
    obtain rfl : e = x := Option.some.inj (he.symm.trans hx)
    split
    · exact hstands
    · next hspec =>
      extract_lets same members m first lead keep
      split
      · exact hstands
      · have hsame : same e = true := by simpa [same, hw] using hspec
        obtain ⟨k, hk⟩ := Option.isSome_iff_exists.1 (List.findIdx?_isSome.trans (List.any_eq_true.2 ⟨e, hmem, hsame⟩))
        obtain ⟨hlt, hfirst, -⟩ := List.findIdx?_eq_some_iff_getElem.1 hk
        have hplace : lead.clause = e.clause ∧ lead.word = 0 := by
          have hlead : lead = g.entries[k] := by unfold lead first; rw [hk]; exact (List.getElem_eq_getD _).symm
          simp only [same, Bool.and_eq_true, beq_iff_eq] at hfirst
          rw [hlead]
          exact ⟨hfirst.1.2, hfirst.1.1.2⟩
        have hm : lane m l = true := by
          unfold m
          rw [lane_foldl_or, lane_zero, Bool.false_or]
          exact List.any_eq_true.2 ⟨e, List.mem_filter.2 ⟨hmem, hsame⟩, hl⟩
        refine Group.collapse_standsAt ⟨{ lead with mask := m, waited := members.all (·.waited), code := lead.code.or e.code, idle := 0 },
          List.mem_map.2 ⟨(g.entries[k], k), List.mem_filter.2 ⟨?_, ?_⟩, if_pos ?_⟩, hm, hplace⟩
        · exact List.mem_zipIdx_iff_getElem?.2 (List.getElem?_eq_getElem hlt)
        · simp [first, hk]
        · simp [first, hk]

/-- The lanes of an entry that moves stand at its new place. -/
theorem Group.moveTo_standsAt {g : Group} {i l : Nat} {e : Entry} (he : g.entries[i]? = some e) (hl : lane e.mask l = true) (target : Nat) :
    (g.moveTo i target).StandsAt l target 0 := by
  have hlt : i < g.entries.length := (List.getElem?_eq_some_iff.1 he).1
  unfold Group.moveTo
  rw [he]
  refine Group.fuseAt_standsAt (e := { e with clause := target, word := 0, code := none, waited := false }) ?_ hl rfl false
  exact List.getElem?_set_self hlt

/-- The predicate of the MIGRATE at which an entry stands. -/
def Entry.migratePred (e : Entry) : Nat :=
  match ((e.code.getD [])[e.word + 1]?).bind wordOf with
  | some (.migrate _ pd _) => pd
  | _ => 12

/-- The group that has landed. -/
def Group.arrived (g : Group) (e : Entry) (core i : Nat) : Group :=
  let g1 := g.setPreds e.migratePred g.live g.live
  ({ g1 with migrating := none, landed := if i < 2 then some (core, i) else none } : Group).moveTo 0 e.next

theorem exec_migrateShippingDone {s : State} {gid core i : Nat} {g : Group} {e : Entry} (hg : s.group? gid = some g)
    (hm : g.migrating = some (core, i)) (hi : i ≠ 3) (he : g.entries[0]? = some e) :
    exec (.migrateShippingDone gid) s = .next (s.setGroup gid (g.arrived e core i)) := by
  show execMigrateShippingDone gid s = _
  simp only [execMigrateShippingDone, hg, hm, he]
  rfl

theorem Group.arrived_frame (g : Group) (e : Entry) (core i : Nat) : g.arrived e core i =
    { g with migrating := none, landed := if i < 2 then some (core, i) else none, p := (g.arrived e core i).p
             entries := (g.arrived e core i).entries, up := (g.arrived e core i).up } := by
  unfold Group.arrived
  rw [Group.moveTo_frame, Group.setPreds_frame]

theorem Group.arrived_standsAt {g : Group} {e : Entry} (he : g.entries[0]? = some e) (core i : Nat) {l : Nat} (hl : lane e.mask l = true) :
    (g.arrived e core i).StandsAt l e.next 0 := by
  refine Group.moveTo_standsAt (e := e) ?_ hl e.next
  show (g.setPreds e.migratePred g.live g.live).entries[0]? = some e
  rw [Group.setPreds_frame]; exact he

theorem Group.arrived_pred {g : Group} {e : Entry} (core i : Nat) {l : Nat} (hpd : e.migratePred < 12) (hl : l < 32)
    (hlive : lane g.live l = true) : (g.arrived e core i).pred e.migratePred l = true := by
  have hmoved : (g.arrived e core i).pred e.migratePred l = (g.setPreds e.migratePred g.live g.live).pred e.migratePred l := by
    rw [Group.arrived, Group.moveTo_frame]; rfl
  rw [hmoved, Group.pred_setPreds _ _ _ _ _ _ hpd hl, if_pos ⟨rfl, hlive⟩]
  exact hlive

/-- Settles O33: the word by the branches of where it may go, the arrival by what the moved entry and the written predicate are. -/
theorem migration : Obligations.Migration := by
  unfold Obligations.Migration
  intro s q pd a
  refine ⟨fun is hrun => ?_, fun gid g core i e hg hm hi he => ?_⟩
  · obtain ⟨⟨is0, hissuer, rfl⟩, hg, -⟩ := State.canRun_spec s _ q is hrun
    obtain ⟨-, -, hb⟩ := State.issuer_group s is0 hissuer
    obtain ⟨u, hexec, hgoes⟩ := exec_migrate hrun
    refine ⟨u, hexec, fun hone hlog hstores hzero hrank => ?_⟩
    rw [hgoes hone hlog hstores hzero hrank]
    exact ⟨State.migrateTo_freight, State.migrateTo_own, State.migrateTo_home hb,
      fun hcls hne k d hk hd => State.migrateTo_away hg hb hcls hne hk hd⟩
  · refine ⟨g.arrived e core i, exec_migrateShippingDone hg hm hi he, g.arrived_frame e core i,
      fun l _ hl => Group.arrived_standsAt he core i hl, fun q' p' a' hw hp l hl hlive => ?_⟩
    have hpd : e.migratePred = p' := by unfold Entry.migratePred; rw [hw]
    subst hpd
    exact Group.arrived_pred core i hp hl hlive

end Sys2Proof.Machine
end

section
/-! A fetched clause stands in the slots of its units' dies (R41, R42), not at the frame of its page. -/

namespace Sys2Proof.Machine

/-- A NOP placed in a clause of its own at IA 4,096, whose page is held and lies in stripe 1. -/
def nopPlaced : State := State.reset.placeWord 0x0060000000000000

/-- The context that the NOP was placed in. -/
def placedContext : Context := { newContext 0 0 0 0 placedReq with segs := SMap.set Segment.reset [] 0 placedSegment }

theorem nopPlaced_ctx : nopPlaced.ctx? placedBlock.ctx = some placedContext := by decide +kernel

/-- The words of the longest clause at VA 4,096 translate, each to the IA of the same number. -/
theorem placedContext_translate : ∀ k ≤ 16, placedContext.translate (4096 + 8 * k) acExec = .ok (4096 + 8 * k, false) := by decide +kernel

theorem nopPlaced_atHand : ∀ k ≤ 16, nopPlaced.AtHand (4096 + 8 * k) acExec placedLeaf := by
  unfold State.AtHand
  decide +kernel

theorem nopPlaced_notPoisoned : ∀ k ≤ 16,
    nopPlaced.poisonedAt (leafF placedLeaf) (4096 + 8 * k) (leafPA placedLeaf (4096 + 8 * k)) = false := by decide +kernel

/-- The fetch gives the header and the NOP, as they stand in the slot of the home die. -/
theorem nopPlaced_fetches : (nopPlaced.fetch 0 (Group.start 0 0 0 placedBlock) placedBlock 4096).2 =
    .code [headerFor 0x0060000000000000, 0x0060000000000000] := by decide +kernel

/-- The frame of the leaf is where no code was loaded. -/
theorem nopPlaced_frame_empty :
    (List.range 8).map (fun n => nopPlaced.byteAt placedLeaf (leafPA placedLeaf 4096 + n)) = List.replicate 8 0 := by
  decide +kernel

/-- Refutes O58: a unit of device memory stands in the slot of its home die (R41, R42), and a fetch reads it there. The statement reads
the clause's bytes at the frame that the leaf names, counted from byte 0 of device memory: of a NOP that State.placeWord loads at IA 4,096
the header stands at 4,864, and the 8 bytes at 4,096 are 0. -/
theorem not_stepRunsDecoded : ¬ Obligations.StepRunsDecoded := by
  unfold Obligations.StepRunsDecoded
  rintro ⟨-, hfetched⟩
  obtain ⟨ws, hfetch, -, hword⟩ := hfetched nopPlaced 0 4096 4096 (Group.start 0 0 0 placedBlock) placedBlock placedContext placedLeaf rfl
    nopPlaced_ctx (by decide) (fun k hk => ⟨false, placedContext_translate k hk⟩)
    (fun k hk => ⟨nopPlaced_atHand k hk, nopPlaced_notPoisoned k hk⟩)
  obtain rfl : ws = [headerFor 0x0060000000000000, 0x0060000000000000] :=
    Fetched.code.inj ((congrArg Prod.snd hfetch).symm.trans nopPlaced_fetches)
  have hheader : headerFor 0x0060000000000000 =
      BitVec.ofNat 64 (ofBytes ((List.range 8).map fun n => nopPlaced.byteAt placedLeaf (leafPA placedLeaf 4096 + n))) := hword 0 (by decide)
  rw [nopPlaced_frame_empty] at hheader
  exact absurd hheader (by decide)

end Sys2Proof.Machine
end

section
/-! System registers (R187 to R197, R434, R435): what SRD reads, the bits that SWR leaves in each register, and the frame of both words. -/

namespace Sys2Proof.Machine

/-! ### Going on leaves what stands apart from the split table -/

/-- A change of a group that neither reads nor writes its split table and its fences. -/
def Group.Apart (f : Group → Group) : Prop := ∀ g E U F,
  f { g with entries := E, up := U, fences := F } = { f g with entries := E, up := U, fences := F }

theorem Group.Apart.fences {f : Group → Group} (hf : Group.Apart f) (g : Group) (F : List FenceHold) :
    f { g with fences := F } = { f g with fences := F } :=
  (hf g g.entries g.up F).trans (congrArg (fun h : Group => { h with fences := F }) (hf g g.entries g.up g.fences)).symm

theorem Group.Apart.advance {f : Group → Group} (hf : Group.Apart f) (g : Group) (F : List FenceHold) (i : Nat) :
    ({ f g with fences := F } : Group).advance i = { f (g.advance i) with fences := F } := by
  have htable : ({ f g with fences := F } : Group) = g.onTable { f g with fences := F } :=
    congrArg (fun h : Group => { h with fences := F }) (hf g g.entries g.up g.fences)
  rw [htable, Group.advance_onTable, Group.advance_frame]
  exact (congrArg (fun h : Group => { h with fences := F }) (hf g _ _ g.fences)).symm

/-! ### Bits of a number -/

theorem testBit_bits (x lo n j : Nat) : (bits x lo n).testBit j = (decide (j < n) && x.testBit (lo + j)) := by
  rw [bits, Nat.testBit_mod_two_pow, Nat.testBit_div_two_pow, Nat.add_comm]

theorem bits_lt (x lo n : Nat) : bits x lo n < 2 ^ n := Nat.mod_lt _ (Nat.two_pow_pos n)

theorem bitAt_eq_testBit (x i : Nat) : bitAt x i = x.testBit i := by
  rw [bitAt, Nat.testBit_eq_decide_div_mod_eq]; rfl

/-- Two fields side by side. -/
theorem testBit_join {a k : Nat} (ha : a < 2 ^ k) (b j : Nat) :
    (a + b * 2 ^ k).testBit j = if j < k then a.testBit j else b.testBit (j - k) := by
  rw [Nat.add_comm, Nat.mul_comm, Nat.testBit_two_pow_mul_add _ ha]

/-! ### The values that SWR writes (R189 to R196) -/

theorem fmaskWrite_eq (old : BitVec 64) (x : Nat) : fmaskWrite old.toNat x =
    (old &&& 0x0001FFFFFFFFFFFF &&& ~~~(BitVec.ofNat 64 x) &&& 0x00010000FFFFFFFF) ||| (BitVec.ofNat 64 x &&& 0x0000FFFF00000000) := by
  have hall : ∀ j < 64, (0x0001FFFFFFFFFFFF : BitVec 64).getLsbD j = decide (j < 49) := by decide
  have hlanes : ∀ j < 64, (0x00010000FFFFFFFF : BitVec 64).getLsbD j = decide (j < 32 ∨ j = 48) := by decide
  have hcause : ∀ j < 64, (0x0000FFFF00000000 : BitVec 64).getLsbD j = decide (32 ≤ j ∧ j < 48) := by decide
  have hmulti (c : Bool) (j : Nat) : (if c then 1 else 0 : Nat).testBit j = (c && decide (j = 0)) := by
    cases c
    · simp
    · simpa [eq_comm] using Nat.testBit_two_pow (n := 0) (m := j)
  have hsum (a b : Nat) (c : Bool) : a + b * 2 ^ 32 + (if c then 2 ^ 48 else 0) = a + (b + (if c then 1 else 0) * 2 ^ 16) * 2 ^ 32 := by
    cases c
    · simp
    · simp only [if_true]; omega
  refine BitVec.eq_of_getLsbD_eq fun j hj => ?_
  simp only [fmaskWrite]
  rw [hsum, BitVec.getLsbD_ofNat, testBit_join (BitVec.isLt _), testBit_join (bits_lt x 32 16), hmulti, testBit_bits, BitVec.testBit_toNat,
    BitVec.getLsbD_or, BitVec.getLsbD_and, BitVec.getLsbD_and, BitVec.getLsbD_and, BitVec.getLsbD_and, BitVec.getLsbD_and,
    hall j hj, hlanes j hj, hcause j hj, BitVec.getLsbD_not, BitVec.getLsbD_not, BitVec.getLsbD_ofNat, BitVec.getLsbD_ofNat,
    BitVec.getLsbD_ofNat, bitAt_eq_testBit, bitAt_eq_testBit, BitVec.testBit_toNat]
  rcases Nat.lt_or_ge j 32 with h32 | h32
  · simp [h32, hj, show j < 49 by omega, show ¬32 ≤ j by omega]
  · rcases Nat.lt_or_ge j 48 with h48 | h48
    · simp [h32, h48, hj, Nat.not_lt.2 h32, show j - 32 < 16 by omega, show j ≠ 48 by omega]
    · simp [h32, hj, Nat.not_lt.2 h32, Nat.not_lt.2 h48, show ¬ j - 32 < 16 by omega, show j - 32 - 16 = 0 ↔ j = 48 by omega]
      by_cases h : j = 48
      · simp [h, BitVec.testBit_toNat]
      · simp [h]

theorem tvecWrite_eq (x : Nat) : tvecWrite x = BitVec.ofNat 64 x &&& 0x00FFFFFFFFFFFFF8 := by
  have hmask : ∀ j < 64, (0x00FFFFFFFFFFFFF8 : BitVec 64).getLsbD j = decide (3 ≤ j ∧ j < 56) := by decide
  have hsum : bits x 3 53 * 8 = 0 + bits x 3 53 * 2 ^ 3 := (Nat.zero_add _).symm
  refine BitVec.eq_of_getLsbD_eq fun j hj => ?_
  rw [tvecWrite, hsum, BitVec.getLsbD_ofNat, testBit_join (Nat.two_pow_pos 3), testBit_bits, BitVec.getLsbD_and, hmask j hj,
    BitVec.getLsbD_ofNat]
  rcases Nat.lt_or_ge j 3 with h | h
  · simp [h, Nat.not_le.2 h]
  · simp [h, Nat.not_lt.2 h, hj, show j - 3 < 53 ↔ j < 56 by omega, Bool.and_comm]

theorem tpcWrite_eq (x : Nat) : tpcWrite x = BitVec.ofNat 64 x &&& 0xF0FFFFFFFFFFFFF8 := by
  have hmask : ∀ j < 64, (0xF0FFFFFFFFFFFFF8 : BitVec 64).getLsbD j = decide (3 ≤ j ∧ j < 56 ∨ 60 ≤ j) := by decide
  have hsum : bits x 60 4 * 2 ^ 60 + bits x 3 53 * 8 = 0 + (bits x 3 53 + bits x 60 4 * 2 ^ 57) * 2 ^ 3 := by omega
  have hfield : bits x 3 53 < 2 ^ 57 := Nat.lt_trans (bits_lt x 3 53) (by decide)
  refine BitVec.eq_of_getLsbD_eq fun j hj => ?_
  rw [tpcWrite, hsum, BitVec.getLsbD_ofNat, testBit_join (Nat.two_pow_pos 3), testBit_join hfield, testBit_bits, testBit_bits,
    BitVec.getLsbD_and, hmask j hj, BitVec.getLsbD_ofNat]
  rcases Nat.lt_or_ge j 3 with h | h
  · simp [h, Nat.not_le.2 h, show ¬ 60 ≤ j by omega]
  · rcases Nat.lt_or_ge j 60 with h60 | h60
    · simp [h, Nat.not_lt.2 h, hj, Nat.not_le.2 h60, show j - 3 < 57 by omega, show j - 3 < 53 ↔ j < 56 by omega, Bool.and_comm]
    · simp [Nat.not_lt.2 h, hj, h60, show ¬ j - 3 < 57 by omega, show j - 3 - 57 < 4 by omega, show 60 + (j - 3 - 57) = j by omega]

theorem kstatWrite_eq (x : Nat) : kstatWrite x = (BitVec.ofNat 64 x).setWidth 32 &&& 0x707 := by
  have hmask : ∀ j < 32, (0x707 : BitVec 32).getLsbD j = decide (j < 3 ∨ 8 ≤ j ∧ j < 11) := by decide
  have hfield : bits x 0 3 < 2 ^ 8 := Nat.lt_trans (bits_lt x 0 3) (by decide)
  refine BitVec.eq_of_getLsbD_eq fun j hj => ?_
  rw [kstatWrite, Nat.add_comm, BitVec.getLsbD_ofNat, testBit_join hfield, testBit_bits, testBit_bits, BitVec.getLsbD_and, hmask j hj,
    BitVec.getLsbD_setWidth, BitVec.getLsbD_ofNat]
  rcases Nat.lt_or_ge j 8 with h | h
  · simp [h, hj, show j < 64 by omega, show ¬ 8 ≤ j by omega, Bool.and_comm]
  · simp [h, hj, Nat.not_lt.2 h, show j < 64 by omega, show ¬ j < 3 by omega, show j - 8 < 3 ↔ j < 11 by omega, Bool.and_comm]

theorem fstatWrite_eq (x : Nat) : fstatWrite x = (BitVec.ofNat 64 x).setWidth 32 &&& 0x1F := by
  have hmask : ∀ j < 32, (0x1F : BitVec 32).getLsbD j = decide (j < 5) := by decide
  refine BitVec.eq_of_getLsbD_eq fun j hj => ?_
  have hlow : fstatWrite x = BitVec.ofNat 32 (x % 2 ^ 5) := rfl
  rw [hlow, BitVec.getLsbD_ofNat, Nat.testBit_mod_two_pow, BitVec.getLsbD_and, hmask j hj, BitVec.getLsbD_setWidth, BitVec.getLsbD_ofNat]
  simp [hj, show j < 64 by omega, Bool.and_comm]

theorem xwinWrite_eq (x : Nat) : xwinWrite x = (BitVec.ofNat 64 x).setWidth 32 &&& 0xFFFF := by
  have hmask : ∀ j < 32, (0xFFFF : BitVec 32).getLsbD j = decide (j < 16) := by decide
  refine BitVec.eq_of_getLsbD_eq fun j hj => ?_
  have hlow : xwinWrite x = BitVec.ofNat 32 (x % 2 ^ 16) := rfl
  rw [hlow, BitVec.getLsbD_ofNat, Nat.testBit_mod_two_pow, BitVec.getLsbD_and, hmask j hj, BitVec.getLsbD_setWidth, BitVec.getLsbD_ofNat]
  simp [hj, show j < 64 by omega, Bool.and_comm]

theorem kshpBad_ofNat (x : Nat) : kshpBad (BitVec.ofNat 64 x).toNat = kshpBad x := by
  have hbits : ∀ j < 4, bits (BitVec.ofNat 64 x).toNat (16 * j) 16 = bits x (16 * j) 16 := by
    intro j hj
    refine Nat.eq_of_testBit_eq fun i => ?_
    rw [testBit_bits, testBit_bits, BitVec.testBit_toNat, BitVec.getLsbD_ofNat]
    by_cases hi : i < 16
    · simp [show 16 * j + i < 64 by omega]
    · simp [hi]
  refine Bool.eq_iff_iff.2 ?_
  simp only [kshpBad, List.any_eq_true, List.mem_range]
  exact exists_congr fun j => and_congr_right fun hj => by rw [hbits j hj]

/-! ### SRD (R434) -/

/-- The registers of a context's segments (R192). -/
theorem State.sysRead_segments {s : State} {c : Nat} {cx : Context} (hcx : s.ctx? c = some cx) (g : Group) (k l : Nat) :
    let sg := SMap.get Segment.reset cx.segs k
    s.sysRead g c (0x100 + 3 * k) l = sg.b.toNat ∧ s.sysRead g c (0x101 + 3 * k) l = sg.l.toNat ∧
      s.sysRead g c (0x102 + 3 * k) l = sg.o.toNat := by
  have hbeyond (n : Nat) (hn : 0x100 ≤ n) : s.sysRead g c n l =
      let sg := SMap.get Segment.reset cx.segs ((n - 0x100) / 3)
      if (n - 0x100) % 3 = 0 then sg.b.toNat else if (n - 0x100) % 3 = 1 then sg.l.toNat else sg.o.toNat := by
    unfold State.sysRead
    split
    case h_18 => rw [hcx]; rfl
    all_goals omega
  refine ⟨?_, ?_, ?_⟩
  · rw [hbeyond _ (by omega), show 0x100 + 3 * k - 0x100 = 3 * k by omega, show 3 * k / 3 = k by omega, if_pos (by omega)]
  · rw [hbeyond _ (by omega), show 0x101 + 3 * k - 0x100 = 3 * k + 1 by omega, show (3 * k + 1) / 3 = k by omega, if_neg (by omega),
      if_pos (by omega)]
  · rw [hbeyond _ (by omega), show 0x102 + 3 * k - 0x100 = 3 * k + 2 by omega, show (3 * k + 2) / 3 = k by omega, if_neg (by omega),
      if_neg (by omega)]

/-- A system register that a word accepts is one that it may access (R187). -/
theorem sysIllegal_of_canRun {s : State} {i : Instr} {q : Guard} {is : Issue} (hrun : s.canRun i q = some is) :
    sysIllegal is.g.fw i = false := by
  obtain ⟨-, -, -, -, -, -, hacc, -⟩ := State.canRun_spec s i q is hrun
  simp only [Group.accepts, Bool.and_eq_true, Bool.not_eq_true'] at hacc
  exact hacc.1.2

/-- SRD computes the register's value for each working lane. -/
theorem exec_srd {s : State} {q : Guard} {d : Dst} {n : Nat} {is : Issue} (hrun : s.canRun (.srd q d n) q = some is) :
    ∃ u, exec (.srd q d n) s = .next u ∧ s.Computes u is (sysWide n) d (s.sysRead is.g is.b.ctx n) := by
  obtain ⟨u, hword, hcomp⟩ := State.word_alu s (.srd q d n) q is (sysWide n) d (fun is' => s.sysRead is'.g is'.b.ctx n) hrun
  have hread : s.sysRead (s.issueOf is (.srd q d n)).g is.b.ctx n = s.sysRead is.g is.b.ctx n := rfl
  have hlegal : ¬ sysAccess is.g.fw n = .none_ := by simpa [sysIllegal] using sysIllegal_of_canRun hrun
  refine ⟨u, ?_, hread ▸ hcomp⟩
  show execSrd q d n s = _
  rw [execSrd, State.word_canRun s _ q is _ hrun, ← hword, State.word_canRun s _ q is _ hrun]
  exact congrArg Host.Outcome.next (if_neg hlegal)

/-- A register that stands in a list of registers with what they hold. -/
theorem State.Computes.listed {s u : State} {is : Issue} {d : Dst} {n : Nat} (h : s.Computes u is (sysWide n) d (s.sysRead is.g is.b.ctx n))
    (regs : List (Nat × (Nat → Nat))) (hregs : ∀ x ∈ regs, s.sysRead is.g is.b.ctx x.1 = x.2) :
    ∀ x ∈ regs, n = x.1 → s.Computes u is (sysWide n) d x.2 := by
  intro x hx hn
  rw [← hregs x hx, ← hn]
  exact h

theorem sysWide_segment {n : Nat} (hn : 0x100 ≤ n) (hn' : n < 0x118) : sysWide n = true := by
  simp [sysWide, hn, hn']

/-! ### SWR (R435) -/

/-- The group once SWR has written a register: x gives the operand by lane. -/
def Issue.swr (is : Issue) (n : Nat) (x : Nat → Nat) : Group :=
  if n = 0x002 then (lanes is.act).foldl (fun h l => h.setFst l (fstatWrite (x l))) is.g
  else if n = 0x003 then (lanes is.act).foldl (fun h l => h.setKst l (kstatWrite (x l))) is.g
  else is.g.sysWrite n (x is.low)

/-- SWR writes its register, unless it gives a view register a malformed view. -/
theorem exec_swr {s : State} {q : Guard} {a : Src} {n : Nat} {is : Issue} (hrun : s.canRun (.swr q a n) q = some is) :
    ∃ u, exec (.swr q a n) s = .next u ∧ (((n == 0x00C || n == 0x00D) && kshpBad (s.opnd is (sysWide n) a is.low)) = false →
      u = s.setGroup is.gid (((s.issueOf is (.swr q a n)).swr n (s.opnd is (sysWide n) a)).advance is.i)) := by
  have hlegal : (sysAccess is.g.fw n != .rw) = false := sysIllegal_of_canRun hrun
  refine ⟨_, State.word_canRun s _ q is _ hrun, fun hview => ?_⟩
  refine (if_neg (ne_true_of_eq_false (Bool.or_eq_false_iff.2 ⟨hlegal, hview⟩))).trans ?_
  exact State.goOn_setGroup s is (s.issueOf is (.swr q a n)) _ _ rfl rfl

theorem Group.setFsts_eq (g : Group) (f : Nat → BitVec 32) (ls : List Nat) :
    ls.foldl (fun h l => h.setFst l (f l)) g = { g with fstat := ls.foldl (fun m l => SMap.set 0 m l (f l)) g.fstat } := by
  induction ls generalizing g with
  | nil => rfl
  | cons l ls ih => exact ih (g.setFst l (f l))

theorem Group.setKsts_eq (g : Group) (f : Nat → BitVec 32) (ls : List Nat) :
    ls.foldl (fun h l => h.setKst l (f l)) g = { g with kstat := ls.foldl (fun m l => SMap.set 0 m l (f l)) g.kstat } := by
  induction ls generalizing g with
  | nil => rfl
  | cons l ls ih => exact ih (g.setKst l (f l))

/-- A register of each lane after it was written for the active ones. -/
theorem SMap.get_set_lanes (m : SMap (BitVec 32)) (act : BitVec 32) (f : Nat → BitVec 32) {l : Nat} (hl : l < 32) :
    SMap.get 0 ((lanes act).foldl (fun m l => SMap.set 0 m l (f l)) m) l = if lane act l then f l else SMap.get 0 m l := by
  refine (SMap.get_set_each 0 id f l (lanes act) (fun _ _ h => h) m).trans (if_congr ?_ rfl rfl)
  rw [mem_lanes]
  exact and_iff_right hl

/-- The group goes on with a change that stands apart from its split table, and nothing else changes. -/
def State.Leaves (s u : State) (is : Issue) (P : Group → Prop) (f : Group → Group) : Prop :=
  ∃ h, u = s.setGroup is.gid h ∧ h = { f (is.g.advance is.i) with fences := h.fences } ∧ P h

theorem State.leaves_of_apart {s : State} {is : Issue} {f : Group → Group} (hf : Group.Apart f) {P : Group → Prop} (i : Instr)
    (hP : P { f (is.g.advance is.i) with fences := s.fencesLeft is i }) :
    s.Leaves (s.setGroup is.gid ((f (s.issueOf is i).g).advance is.i)) is P f := by
  have hgone : (f (s.issueOf is i).g).advance is.i = { f (is.g.advance is.i) with fences := s.fencesLeft is i } :=
    (congrArg (Group.advance · is.i) (hf.fences is.g _)).trans (hf.advance is.g _ is.i)
  rw [hgone]
  exact ⟨_, rfl, rfl, hP⟩

/-- The X registers of the windows (R193). -/
theorem Group.sysWrite_window (g : Group) {k : Nat} (hk : k < 4) (x : Nat) :
    g.sysWrite (0x008 + k) x = { g with xwin := g.xwin.set k ((BitVec.ofNat 64 x).setWidth 32 &&& 0xFFFF) } := by
  rw [← xwinWrite_eq]
  interval_cases k <;> rfl

/-- SWR of a register, by how it changes the group (R435). -/
theorem swr_leaves {s : State} {q : Guard} {a : Src} {n : Nat} {is : Issue} (hrun : s.canRun (.swr q a n) q = some is) :
    ∃ u, exec (.swr q a n) s = .next u ∧ ∀ (P : Group → Prop) (f : Group → Group),
      ((n == 0x00C || n == 0x00D) && kshpBad (s.opnd is (sysWide n) a is.low)) = false → Group.Apart f →
      (s.issueOf is (.swr q a n)).swr n (s.opnd is (sysWide n) a) = f (s.issueOf is (.swr q a n)).g →
      (∀ E U F, P { f is.g with entries := E, up := U, fences := F }) → s.Leaves u is P f := by
  obtain ⟨u, hexec, hgone⟩ := exec_swr hrun
  refine ⟨u, hexec, fun P f hview hf hwrite hP => ?_⟩
  rw [hgone hview, hwrite]
  refine State.leaves_of_apart hf _ ?_
  have hfrom := hP (is.g.advance is.i).entries (is.g.advance is.i).up (s.fencesLeft is (.swr q a n))
  rw [← hf.fences]
  rw [← hf] at hfrom
  rwa [Group.advance_frame]

/-- Settles O35: SRD by the value that it reads in each lane, SWR by the value that it writes into its register. -/
theorem systemRegisters : Obligations.SystemRegisters := by
  unfold Obligations.SystemRegisters
  intro s q d a n
  refine ⟨fun is hrun => ?_, fun is hrun => ?_⟩
  · obtain ⟨u, hexec, hcomp⟩ := exec_srd hrun
    refine ⟨u, hexec, ?_, fun hfw k hk cx hcx => ?_⟩
    · refine hcomp.listed _ ?_
      simp only [List.forall_mem_cons]
      exact ⟨rfl, rfl, rfl, rfl, rfl, rfl, rfl, rfl, rfl, rfl, rfl, rfl, rfl, rfl, rfl, rfl, rfl, fun _ h => absurd h List.not_mem_nil⟩
    · have hread := s.sysRead_segments hcx is.g k
      have hwide (r : Nat) (hr : r < 3) : sysWide (0x100 + r + 3 * k) = true := sysWide_segment (by omega) (by omega)
      refine ⟨fun hn => ?_, fun hn => ?_, fun hn => ?_⟩
      · subst hn; rw [hwide 0 (by decide)] at hcomp; exact funext (fun l => (hread l).1) ▸ hcomp
      · subst hn; rw [hwide 1 (by decide)] at hcomp; exact funext (fun l => (hread l).2.1) ▸ hcomp
      · subst hn; rw [hwide 2 (by decide)] at hcomp; exact funext (fun l => (hread l).2.2) ▸ hcomp
  · obtain ⟨u, hexec, hleaves⟩ := swr_leaves hrun
    refine ⟨u, hexec, fun hn => ?_, fun hn => ?_, fun hn => ?_, fun k hk hn => ?_, fun hn hbad => ?_, fun hn hbad => ?_, fun hn => ?_,
      fun hn => ?_⟩
    · subst hn
      show s.Leaves u is (fun _ => True) fun g : Group => { g with fmask := (g.fmask &&& _ &&& ~~~_ &&& _) ||| _ }
      refine hleaves _ _ rfl (fun _ _ _ _ => rfl) ?_ fun _ _ _ => trivial
      exact congrArg (fun m => ({ (s.issueOf is (.swr q a 0x001)).g with fmask := m } : Group)) (fmaskWrite_eq is.g.fmask _)
    · subst hn
      refine ⟨(lanes is.act).foldl (fun m l => SMap.set 0 m l (fstatWrite (s.opnd is false a l))) is.g.fstat, ?_⟩
      show s.Leaves u is (fun h => ∀ l < 32, h.fst l = if lane is.act l then _ else is.g.fst l) fun g : Group => { g with fstat := _ }
      refine hleaves _ _ rfl (fun _ _ _ _ => rfl) (Group.setFsts_eq _ (fun l => fstatWrite (s.opnd is false a l)) _) fun _ _ _ l hl => ?_
      rw [← fstatWrite_eq]
      exact SMap.get_set_lanes _ _ _ hl
    · subst hn
      refine ⟨(lanes is.act).foldl (fun m l => SMap.set 0 m l (kstatWrite (s.opnd is false a l))) is.g.kstat, ?_⟩
      show s.Leaves u is (fun h => ∀ l < 32, h.kst l = if lane is.act l then _ else is.g.kst l) fun g : Group => { g with kstat := _ }
      refine hleaves _ _ rfl (fun _ _ _ _ => rfl) (Group.setKsts_eq _ (fun l => kstatWrite (s.opnd is false a l)) _) fun _ _ _ l hl => ?_
      rw [← kstatWrite_eq]
      exact SMap.get_set_lanes _ _ _ hl
    · have hview : (n == 0x00C || n == 0x00D) = false := by
        rw [hn, Bool.or_eq_false_iff, beq_eq_false_iff_ne, beq_eq_false_iff_ne]; omega
      show s.Leaves u is (fun _ => True) fun g : Group => { g with xwin := g.xwin.set k _ }
      refine hleaves _ _ (by rw [hview]; rfl) (fun _ _ _ _ => rfl) ?_ fun _ _ _ => trivial
      rw [Issue.swr, if_neg (by omega), if_neg (by omega), hn]
      exact Group.sysWrite_window _ hk _
    · subst hn
      rw [kshpBad_ofNat] at hbad
      show s.Leaves u is (fun _ => True) fun g : Group => { g with kshpa := _ }
      exact hleaves _ _ (Bool.and_eq_false_iff.2 (.inr hbad)) (fun _ _ _ _ => rfl) rfl fun _ _ _ => trivial
    · subst hn
      rw [kshpBad_ofNat] at hbad
      show s.Leaves u is (fun _ => True) fun g : Group => { g with kshpb := _ }
      exact hleaves _ _ (Bool.and_eq_false_iff.2 (.inr hbad)) (fun _ _ _ _ => rfl) rfl fun _ _ _ => trivial
    · subst hn
      rw [← tvecWrite_eq]
      show s.Leaves u is (fun _ => True) fun g : Group => { g with tvec := _ }
      exact hleaves _ _ rfl (fun _ _ _ _ => rfl) rfl fun _ _ _ => trivial
    · subst hn
      rw [← tpcWrite_eq]
      show s.Leaves u is (fun _ => True) fun g : Group => { g with tpc := _ }
      exact hleaves _ _ rfl (fun _ _ _ _ => rfl) rfl fun _ _ _ => trivial

end Sys2Proof.Machine
end

section
/-! CTXREST (R202, R437): a part of a restore changes the block, the issuing group and the fabric that carries its reads. -/

namespace Sys2Proof.Machine

/-! ### A record put back where it stands -/

theorem SMap.put_self {α : Type} [DecidableEq α] {m : SMap (Option α)} {k : Nat} {v : α} (h : SMap.find? m k = some v) : SMap.put m k v = m := by
  induction m with
  | nil => cases h
  | cons e m ih =>
    obtain ⟨j, w⟩ := e
    simp only [SMap.find?, SMap.get] at h ih
    simp only [SMap.put, SMap.set, reduceCtorEq, if_false] at ih ⊢
    by_cases hkj : k = j
    · rw [if_pos hkj] at h
      rw [if_neg (Nat.not_lt.2 (Nat.le_of_eq hkj.symm)), if_pos hkj, ← h, hkj]
    · rw [if_neg hkj] at h
      by_cases hlt : k < j
      · rw [if_pos hlt] at h; cases h
      · rw [if_neg hlt] at h
        rw [if_neg hlt, if_neg hkj, ih h]

theorem State.setBlock_self {s : State} {bid : Nat} {b : Block} (h : s.block? bid = some b) : s.setBlock bid b = s :=
  congrArg (fun m => { s with blocks := m }) (SMap.put_self h)

/-! ### What a part leaves: one block and the fabric -/

/-- `t` is `s` with another record of a block, but for the fabric. -/
def State.Took (s t : State) (bid : Nat) (b : Block) : Prop := t = { s.setBlock bid b with fab := t.fab }

/-- A block with other flits noted, and with one part more marked as performed (R14, R437). -/
def Block.noting (b : Block) (tr : List Ticket) : Block := { b with traffic := tr }
def Block.marked (b : Block) (p : Nat) : Block := { b with parts := b.parts ||| BitVec.ofNat 8 (2 ^ p) }

section
variable {s t : State} {bid : Nat} {b : Block}

theorem State.Took.refl (h : s.block? bid = some b) : s.Took s bid b := by
  unfold State.Took
  rw [State.setBlock_self h]

theorem State.Took.block (h : s.Took t bid b) : t.block? bid = some b := by
  unfold State.Took at h
  rw [h]
  exact State.block?_setBlock_same ..

theorem State.Took.groups (h : s.Took t bid b) : t.groups = s.groups := by
  unfold State.Took at h
  rw [h]
  rfl

theorem State.Took.setBlock (h : s.Took t bid b) (c : Block) : s.Took (t.setBlock bid c) bid c := by
  unfold State.Took at h ⊢
  rw [h]
  simp only [State.setBlock, SMap.put_put]

theorem State.Took.modBlock (h : s.Took t bid b) (f : Block → Block) : s.Took (t.modBlock bid f) bid (f b) := by
  rw [State.modBlock_some _ _ _ _ h.block]
  exact h.setBlock (f b)

theorem State.Took.fab (h : s.Took t bid b) {u : State} (hu : t.SameButFab u) : s.Took u bid b := by
  unfold State.Took State.SameButFab at *
  rw [hu, h]

theorem State.Took.saveFlit (h : s.Took t bid b) (c : Block) (back : Bool) (va : Nat) :
    ∃ tr, s.Took (t.saveFlit bid c back va) bid (b.noting tr) := by
  unfold State.saveFlit
  split
  · exact ⟨b.traffic, h⟩
  · refine ⟨_, (h.fab ?_).modBlock _⟩
    split
    · exact (State.message_fab ..).trans (State.message_fab ..)
    · exact State.message_fab ..

theorem State.Took.restFlits (h : s.Took t bid b) (c : Block) (off n : Nat) : ∃ tr, s.Took (t.restFlits bid c off n) bid (b.noting tr) :=
  foldl_keeps (fun u => ∃ tr, s.Took u bid (b.noting tr)) _ _ t ⟨b.traffic, h⟩ fun _ p ⟨_, hu⟩ => hu.saveFlit c true p.1

theorem State.Took.markPart (h : s.Took t bid b) (p : Nat) : s.Took (t.markPart bid p) bid (b.marked p) := h.modBlock _

end

/-! ### Firmware words (R437) -/

/-- The issuing group once the word's fences are met and its entry has gone on. -/
def State.gone (s : State) (is : Issue) (i : Instr) : Group := (s.issueOf is i).g.advance is.i

theorem State.gone_eq (s : State) (is : Issue) (i : Instr) : s.gone is i = { is.g.advance is.i with fences := s.fencesLeft is i } := by
  unfold State.gone
  exact Group.advance_onTable is.g { is.g with fences := s.fencesLeft is i } is.i |>.trans (by rw [Group.advance_frame]; rfl)

theorem State.gone_spec (s : State) (is : Issue) (i : Instr) : s.gone is i = { is.g.advance is.i with fences := (s.gone is i).fences } := by
  rw [State.gone_eq]

/-- A part that leaves the groups alone: the firmware entry goes on in the issuing group. -/
theorem State.goOn_of_groups {s u : State} {is : Issue} {i : Instr} (h : u.groups = (s.entered is i).groups) :
    u.goOn (s.issueOf is i) = u.setGroup is.gid (s.gone is i) := by
  have hg : u.group? is.gid = some (s.issueOf is i).g := by
    unfold State.group?
    rw [h]
    exact SMap.find_put_same ..
  exact State.modGroup_some _ _ _ _ hg

theorem State.Took.setGroup {s u : State} {gid bid : Nat} {g : Group} {b : Block} (hu : (s.setGroup gid g).Took u bid b) (h : Group) :
    (s.setGroup gid h).Took (u.setGroup gid h) bid b := by
  unfold State.Took at hu ⊢
  rw [hu]
  simp only [State.setBlock, State.setGroup, SMap.put_put]

theorem State.Took.goOn {s u : State} {is : Issue} {i : Instr} {bid : Nat} {b : Block} (h : (s.entered is i).Took u bid b) :
    (s.setGroup is.gid (s.gone is i)).Took (u.goOn (s.issueOf is i)) bid b := by
  rw [State.goOn_of_groups h.groups]
  exact State.Took.setGroup h _

/-- A firmware word that can run performs its part. -/
theorem State.fwWord_canRun {s u : State} {i : Instr} {q : Guard} {is : Issue} {part : State → Nat → Option State} {finish : Bool}
    (hrun : s.canRun i q = some is) (hfw : is.g.fw = true) (hpart : part (s.entered is i) is.gid = some u) :
    s.fwWord i q part finish = .next (if finish then u else u.goOn (s.issueOf is i)) := by
  have hfw' : ¬ (!(s.issueOf is i).g.fw) = true := by rw [show (s.issueOf is i).g.fw = true from hfw]; exact Bool.false_ne_true
  have hpart' : part (s.setGroup is.gid (s.issueOf is i).g) (s.issueOf is i).gid = some u := hpart
  refine (State.word_canRun s i q is _ hrun).trans (congrArg Host.Outcome.next ?_)
  simp only [if_neg hfw', hpart']

end Sys2Proof.Machine
end

section
/-! CTXREST.blk, CTXREST.grp and CTXREST.acc (R200 to R202, R437): what each part takes from the save area. -/

namespace Sys2Proof.Machine

/-! ### Parts that are done -/

section
variable {s : State} {gid : Nat} {g : Group} {b : Block}

theorem State.restBlk_done {bid : Nat} (hb : s.block? bid = some b) (h7 : b.parts.getLsbD 7 = true) : s.restBlk bid = some s := by
  simp only [State.restBlk, hb, h7, if_true]

theorem State.restGrp_done (hb : s.block? (gid / 32) = some b) (hg : s.group? gid = some g) (h7 : b.parts.getLsbD 7 = true)
    (hl : g.grpLoaded = true) : s.restGrp gid = some s := by
  simp only [State.restGrp, State.restBlk_done hb h7, hg, hb, hl, if_true]

theorem State.restAcc_done (hb : s.block? (gid / 32) = some b) (hg : s.group? gid = some g) (h7 : b.parts.getLsbD 7 = true)
    (hl : g.grpLoaded = true) (h5 : b.parts.getLsbD 5 = true) : s.restAcc gid = some s := by
  simp only [State.restAcc, State.restGrp_done hb hg h7 hl, hb, h5, if_true]

end

/-! ### CTXREST.blk -/

/-- The scratchpad as the image gives it. -/
theorem SMap.get_setRun_image (l : List (BitVec 8)) (o : Nat) : SMap.get 0 (SMap.setRun 0 [] 0 l) o = l.getD o 0 := by
  rcases Nat.lt_or_ge o l.length with h | h
  · have hat := SMap.get_setRun_at (0 : BitVec 8) [] 0 o l h
    rw [Nat.zero_add] at hat
    rw [hat, List.getD_eq_getElem _ _ h]
  · rw [SMap.get_setRun_other _ _ _ _ _ (.inr (by rwa [Nat.zero_add])), List.getD_eq_default _ _ h]
    rfl

/-- A slot of the slot table (R202) is bound again, its counts loaded from its object's image. -/
def Block.takeSlot (tab : List (BitVec 8)) (x : Block) (k : Nat) : Block :=
  let w := fieldOf tab (4 * k) 4
  if bitAt w 31 then { x with slots := SMap.put x.slots k (slotOfHead (bits w 0 20) (x.head (bits w 0 20))) } else x

/-- The block once its scratchpad and its slots are restored. -/
def Block.imaged (b : Block) (pad tab : List (BitVec 8)) : Block :=
  (List.range 128).foldl (Block.takeSlot tab) { b with scratch := SMap.setRun 0 [] 0 pad }

theorem Block.takeSlot_frame (tab : List (BitVec 8)) (x : Block) (k : Nat) : x.takeSlot tab k = { x with slots := (x.takeSlot tab k).slots } := by
  simp only [Block.takeSlot]
  split
  · rfl
  · rfl

theorem Block.takeSlot_isSome (tab : List (BitVec 8)) (x : Block) (j k : Nat) : (SMap.find? (x.takeSlot tab j).slots k).isSome =
    ((SMap.find? x.slots k).isSome || (decide (k = j) && bitAt (fieldOf tab (4 * k) 4) 31)) := by
  simp only [Block.takeSlot]
  by_cases hj : k = j
  · subst hj
    split
    · next h => simp [h]
    · next h => simp [h]
  · split
    · simp [hj, SMap.find_put_other _ _ _ _ hj]
    · simp [hj]

theorem Block.takeSlots_frame (tab : List (BitVec 8)) (ks : List Nat) (b : Block) :
    ks.foldl (Block.takeSlot tab) b = { b with slots := (ks.foldl (Block.takeSlot tab) b).slots } :=
  foldl_keeps (fun x : Block => x = { b with slots := x.slots }) _ ks b rfl fun x k h => by
    rw [Block.takeSlot_frame]
    exact congrArg (fun y : Block => { y with slots := (x.takeSlot tab k).slots }) h

theorem Block.takeSlots_isSome (tab : List (BitVec 8)) (k : Nat) (ks : List Nat) : ∀ b : Block,
    (SMap.find? (ks.foldl (Block.takeSlot tab) b).slots k).isSome =
      ((SMap.find? b.slots k).isSome || (decide (k ∈ ks) && bitAt (fieldOf tab (4 * k) 4) 31)) := by
  induction ks with
  | nil => intro b; simp
  | cons j ks ih =>
    intro b
    rw [List.foldl_cons, ih, Block.takeSlot_isSome, Bool.or_assoc, ← Bool.and_or_distrib_right]
    simp

theorem Block.imaged_frame (b : Block) (pad tab : List (BitVec 8)) :
    b.imaged pad tab = { b with scratch := SMap.setRun 0 [] 0 pad, slots := (b.imaged pad tab).slots } := by
  unfold Block.imaged
  rw [Block.takeSlots_frame]

/-- The first firmware word of a restore takes the image and the slot table. -/
theorem State.restBlk_takes {s : State} {bid : Nat} {b : Block} (hb : s.block? bid = some b) (h7 : b.parts.getLsbD 7 = false) :
    ∃ u tr, s.restBlk bid = some u ∧
      s.Took u bid (((b.imaged (s.saveBytes b b.padOff b.spad) (s.saveBytes b 512 512)).noting tr).marked 7) := by
  have hset := (State.Took.refl hb).setBlock (b.imaged (s.saveBytes b b.padOff b.spad) (s.saveBytes b 512 512))
  obtain ⟨tr, hpad⟩ := hset.restFlits b b.padOff b.spad
  obtain ⟨tr', hall⟩ := hpad.restFlits b 0 1024
  refine ⟨_, tr', ?_, hall.markPart 7⟩
  simp only [State.restBlk, hb, h7, Bool.false_eq_true, if_false]
  rfl

theorem Block.byte_imaged (b : Block) (pad tab : List (BitVec 8)) (o : Nat) : (b.imaged pad tab).byte o = pad.getD o 0 := by
  rw [Block.imaged_frame]
  exact SMap.get_setRun_image pad o

theorem Block.imaged_slots {b : Block} (h : b.slots = []) (pad tab : List (BitVec 8)) {k : Nat} (hk : k < 128) :
    (SMap.find? (b.imaged pad tab).slots k).isSome = bitAt (fieldOf tab (4 * k) 4) 31 := by
  rw [Block.imaged, Block.takeSlots_isSome, decide_eq_true (List.mem_range.2 hk), Bool.true_and]
  show ((SMap.find? b.slots k).isSome || _) = _
  rw [h]
  rfl

/-! ### CTXREST.grp -/

/-- A group with its s registers, loaded. -/
def Group.filled (g : Group) (S : SMap (BitVec 32)) : Group := { g with s := S, grpLoaded := true }

/-- The s registers that a run of the area gives. -/
def sregsOf (n : Nat) (sr : List (BitVec 8)) : SMap (BitVec 32) := (List.range n).foldl (fun m i => SMap.set 0 m i (word4 sr i)) []

/-- The group as its record and its s registers give it (R201). -/
def Group.restored (g : Group) (scount : Nat) (rec sr : List (BitVec 8)) : Group := (g.loaded rec).filled (sregsOf scount sr)

theorem State.restGrp_takes {s : State} {gid : Nat} {g : Group} {b : Block} (hb : s.block? (gid / 32) = some b) (hg : s.group? gid = some g)
    (h7 : b.parts.getLsbD 7 = true) (hl : g.grpLoaded = false) :
    ∃ u tr, s.restGrp gid = some (u.setGroup gid (g.restored b.scount (s.saveBytes b (b.grpOff + g.idx * b.recSize) b.recSize)
      (s.saveBytes b (b.sOff + 4 * b.scount * g.idx) (4 * b.scount)))) ∧ s.Took u (gid / 32) (b.noting tr) := by
  obtain ⟨tr, hrec⟩ := (State.Took.refl hb).restFlits b (b.grpOff + g.idx * b.recSize) b.recSize
  obtain ⟨tr', hall⟩ := hrec.restFlits b (b.sOff + 4 * b.scount * g.idx) (4 * b.scount)
  refine ⟨_, tr', ?_, hall⟩
  simp only [State.restGrp, State.restBlk_done hb h7, hg, hb, hl, Bool.false_eq_true, if_false]
  rfl

/-! ### CTXREST.acc -/

/-- A table that is filled where a test passes. -/
theorem SMap.find_fillWhere {α : Type} [DecidableEq α] (c : Nat → Bool) (v : Nat → α) (k : Nat) (ks : List Nat) : ∀ m : SMap (Option α),
    SMap.find? (ks.foldl (fun m k => if c k then SMap.put m k (v k) else m) m) k = if k ∈ ks ∧ c k then some (v k) else SMap.find? m k := by
  induction ks with
  | nil => intro m; simp
  | cons j ks ih =>
    intro m
    rw [List.foldl_cons, ih]
    by_cases hj : k = j
    · subst hj
      by_cases hc : c k = true
      · simp [hc]
      · simp [hc]
    · by_cases hc : c j = true
      · simp [hj, hc, SMap.find_put_other _ _ _ _ hj]
      · simp [hj, hc]

/-- The tile that the header's fields give (R200). -/
def tileOfFields (t : List (BitVec 8)) (k : Nat) : Tile :=
  { n := fieldOf t k 1 % 8, first := fieldOf t (64 + k) 1, ver := fieldOf t (128 + k) 1 }

/-- The block once its accumulators and its tiles are restored. -/
def Block.accumulated (b : Block) (a t : List (BitVec 8)) : Block :=
  { b with
    accs := (List.range (3072 * b.acc)).foldl (fun m k => SMap.set 0 m k (word4 a k)) []
    tiles := (List.range 64).foldl (fun m k => if bitAt (fieldOf t k 1) 7 then SMap.put m k (tileOfFields t k) else m) [] }

theorem Block.accumulated_accs (b : Block) (a t : List (BitVec 8)) {k : Nat} (hk : k < 3072 * b.acc) :
    SMap.get 0 (b.accumulated a t).accs k = word4 a k :=
  (SMap.get_fill ..).trans (if_pos hk)

theorem Block.accumulated_tiles (b : Block) (a t : List (BitVec 8)) {k : Nat} (hk : k < 64) :
    SMap.find? (b.accumulated a t).tiles k = if bitAt (fieldOf t k 1) 7 then some (tileOfFields t k) else none := by
  refine (SMap.find_fillWhere (fun k => bitAt (fieldOf t k 1) 7) (tileOfFields t) k (List.range 64) []).trans ?_
  simp [List.mem_range.2 hk]
  rfl

theorem State.restAcc_takes {s : State} {gid : Nat} {g : Group} {b : Block} (hb : s.block? (gid / 32) = some b) (hg : s.group? gid = some g)
    (h7 : b.parts.getLsbD 7 = true) (hl : g.grpLoaded = true) (h5 : b.parts.getLsbD 5 = false) :
    ∃ u tr, s.restAcc gid = some u ∧
      s.Took u (gid / 32) (((b.accumulated (s.saveBytes b 1024 (12288 * b.acc)) (s.saveBytes b 32 192)).noting tr).marked 5) := by
  have hset := (State.Took.refl hb).setBlock (b.accumulated (s.saveBytes b 1024 (12288 * b.acc)) (s.saveBytes b 32 192))
  obtain ⟨tr, hall⟩ := hset.restFlits b Block.accOff (12288 * b.acc)
  refine ⟨_, tr, ?_, hall.markPart 5⟩
  simp only [State.restAcc, State.restGrp_done hb hg h7 hl, hb, h5, Bool.false_eq_true, if_false]
  rfl

end Sys2Proof.Machine
end

section
/-! CTXREST.copy (R248, R437): the commands resume from their records, and their map records are asked for again. -/

namespace Sys2Proof.Machine

/-! ### Requests beside a block -/

/-- `t` is `s` with another record of a block and new requests at the homes, but for the fabric. -/
def State.Asked (s t : State) (bid : Nat) (b : Block) (new : List Req) : Prop :=
  t = { s.setBlock bid b with
    fab := t.fab, md := { s.md with reqs := s.md.reqs ++ new, nextTag := s.md.nextTag + new.length } }

section
variable {s t : State} {bid : Nat} {b : Block} {new : List Req}

theorem State.Took.asked (h : s.Took t bid b) : s.Asked t bid b [] := by
  unfold State.Took at h
  unfold State.Asked
  rw [h]
  simp [State.setBlock]

theorem State.Asked.block (h : s.Asked t bid b new) : t.block? bid = some b := by
  unfold State.Asked at h
  rw [h]
  exact State.block?_setBlock_same ..

theorem State.Asked.groups (h : s.Asked t bid b new) : t.groups = s.groups := by
  unfold State.Asked at h
  rw [h]
  rfl

theorem State.Asked.ctx (h : s.Asked t bid b new) (c : Nat) : t.ctx? c = s.ctx? c := by
  unfold State.Asked at h
  rw [h]
  rfl

theorem State.Asked.modBlock (h : s.Asked t bid b new) (f : Block → Block) : s.Asked (t.modBlock bid f) bid (f b) new := by
  rw [State.modBlock_some _ _ _ _ h.block]
  unfold State.Asked at h ⊢
  rw [h]
  simp only [State.setBlock, SMap.put_put]

theorem perUnit_one (l : LaneAcc) : perUnit [l] = [[l]] := by
  simp [perUnit, List.eraseDups_cons]

/-- A request of one lane for one unit. -/
theorem State.Asked.requestOne (h : s.Asked t bid b new) (r : Req) (l : LaneAcc) :
    ∃ k, s.Asked (t.requestAll r [l]) bid b (new ++ [k]) ∧ k = { r with lanes := [l], tag := k.tag, ticket := k.ticket } := by
  obtain ⟨ks, hks, hlanes, -, hreq⟩ := State.requests_spec r [[l]] t
  obtain ⟨k, rfl⟩ : ∃ k, ks = [k] := List.length_eq_one_iff.1 (by rw [← List.length_map (f := Req.lanes), hlanes]; rfl)
  have hkl : k.lanes = [l] := (List.cons.inj hlanes).1
  have hk := hreq k (List.mem_singleton.2 rfl)
  rw [hkl] at hk
  refine ⟨k, ?_, hk⟩
  unfold State.requestAll
  rw [perUnit_one]
  unfold State.Asked at h ⊢
  rw [hks, h]
  simp [State.setBlock, Nat.add_assoc]

end

/-! ### The read of a map record -/

/-- The commands of a block once the one with a key waits for its map record. -/
def CopyCmd.ask (c : CopyCmd) : CopyCmd := { c with flight := c.flight ++ [(mapUnit, 1)] }
def askKey (key : Nat) (x : CopyCmd) : CopyCmd := if x.key = key then x.ask else x
def Block.asking (b : Block) (key : Nat) : Block := { b with cmds := b.cmds.map (askKey key) }

theorem Context.engineLanes_one {cx : Context} {t : Rights} {va ia : Nat} {chk : Bool} (h : cx.translate va t = .ok (ia, chk)) (x : Nat) :
    cx.engineLanes t [(va, x)] = .ok [{ lane := 0, va := va, ia := ia, data := x, data2 := 0 }] := by
  simp [Context.engineLanes, h]

/-- A map record that the segments permit is read by one load. -/
theorem State.readMap_ok {s : State} {bid : Nat} {b : Block} (hb : s.block? bid = some b) {cx : Context} (hcx : s.ctx? b.ctx = some cx)
    {c : CopyCmd} (hva : c.mapVA % 64 = 0) {ls : List LaneAcc} (hl : cx.engineLanes acRead [(c.mapVA, 0)] = .ok ls) :
    s.readMap bid c = s.copySend bid b c mapUnit .load 64 ls := by
  have haligned : (c.mapVA % 64 != 0) = false := by rw [hva]; rfl
  unfold State.readMap
  -- the translation stays a variable, or the kernel evaluates it
  obtain ⟨lanes, hlanes⟩ : ∃ f, f = Context.engineLanes := ⟨_, rfl⟩
  rw [← hlanes] at hl ⊢
  simp only [hb, hcx, hl, haligned, Bool.false_eq_true, if_false]

theorem Block.asking_eq {b : Block} (h : b.ghosts = []) (key : Nat) :
    ({ b with cmds := b.cmds.map (askKey key), ghosts := b.ghosts.map (askKey key) } : Block) = b.asking key := by
  rw [h, Block.asking, h]
  rfl

theorem State.Asked.readMap {s t : State} {bid : Nat} {b : Block} {new : List Req} (h : s.Asked t bid b new) (hghosts : b.ghosts = [])
    {cx : Context} (hcx : s.ctx? b.ctx = some cx) {c : CopyCmd} (hva : c.mapVA % 64 = 0) {ia : Nat} {chk : Bool}
    (hia : cx.translate c.mapVA acRead = .ok (ia, chk)) :
    ∃ k, s.Asked (t.readMap bid c) bid (b.asking c.key) (new ++ [k]) ∧
      (k.who, k.kind, k.width, k.lanes.map (·.ia)) = (Requester.copy bid c.key mapUnit, ReqKind.load, 64, [ia]) := by
  obtain ⟨k, hk, hreq⟩ := h.requestOne (reqBase (dieOf b.core) b.ctx (((t.ctx? b.ctx).map (·.fn)).getD 0) (.copy bid c.key mapUnit) .load
    [] 64) { lane := 0, va := c.mapVA, ia := ia, data := 0, data2 := 0 }
  refine ⟨k, ?_, by rw [hreq]; rfl⟩
  rw [State.readMap_ok h.block ((h.ctx _).trans hcx) hva (Context.engineLanes_one hia 0), State.copySend, perUnit_one,
    ← Block.asking_eq hghosts]
  exact hk.modBlock _

theorem askKeys_absent (ds : List CopyCmd) (x : CopyCmd) (h : x.key ∉ ds.map (·.key)) : ds.foldl (fun y c => askKey c.key y) x = x := by
  induction ds with
  | nil => rfl
  | cons d ds ih =>
    rw [List.map_cons, List.mem_cons, not_or] at h
    rw [List.foldl_cons, askKey, if_neg h.1, ih h.2]

/-- Among commands of different keys, each asks for its own map record once. -/
theorem askKeys_present (ds : List CopyCmd) (hn : (ds.map (·.key)).Nodup) : ∀ x ∈ ds, ds.foldl (fun y c => askKey c.key y) x = x.ask := by
  induction ds with
  | nil => intro x hx; cases hx
  | cons d ds ih =>
    rw [List.map_cons, List.nodup_cons] at hn
    intro x hx
    rw [List.foldl_cons]
    rcases List.mem_cons.1 hx with rfl | hx
    · rw [askKey, if_pos rfl]
      exact askKeys_absent ds x.ask hn.1
    · have hne : x.key ≠ d.key := fun e => hn.1 (e ▸ List.mem_map_of_mem hx)
      rw [askKey, if_neg hne]
      exact ih hn.2 x hx

/-- The reads of several map records. -/
theorem State.Asked.readMaps {s : State} {bid : Nat} {cx : Context} {ia : CopyCmd → Nat} (cs : List CopyCmd)
    (hcs : ∀ c ∈ cs, c.mapVA % 64 = 0 ∧ ∃ chk, cx.translate c.mapVA acRead = .ok (ia c, chk)) :
    ∀ {t : State} {b : Block} {new : List Req}, s.Asked t bid b new → b.ghosts = [] → s.ctx? b.ctx = some cx →
    ∃ more, s.Asked (cs.foldl (fun u c => u.readMap bid c) t) bid
        { b with cmds := b.cmds.map fun x => cs.foldl (fun y c => askKey c.key y) x } (new ++ more) ∧
      more.map (fun k => (k.who, k.kind, k.width, k.lanes.map (·.ia))) =
        cs.map fun c => (Requester.copy bid c.key mapUnit, ReqKind.load, 64, [ia c]) := by
  induction cs with
  | nil => exact fun h _ _ => ⟨[], by simpa using h, rfl⟩
  | cons c cs ih =>
    intro t b new h hghosts hcx
    obtain ⟨hva, chk, hia⟩ := hcs c List.mem_cons_self
    obtain ⟨k, hk, hshape⟩ := h.readMap hghosts hcx hva hia
    obtain ⟨more, hmore, hshapes⟩ := ih (fun d hd => hcs d (List.mem_cons_of_mem c hd)) hk hghosts hcx
    refine ⟨k :: more, ?_, by rw [List.map_cons, List.map_cons, hshape, hshapes]⟩
    rw [List.append_assoc] at hmore
    simpa [Block.asking, Function.comp_def] using hmore

/-! ### The word -/

/-- The commands that a restore's records resume (R248): as many as the header says, each from its record. -/
def State.resumes (s : State) (b : Block) : List CopyCmd :=
  (b.cmds.take (fieldOf (s.saveBytes b 224 1) 0 1)).zipIdx.map fun c => c.1.resumed (((s.saveBytes b b.copyOff 2048).drop (64 * c.2)).take 64)

theorem State.resumes_ask {s : State} {b : Block} {c : CopyCmd} (h : c ∈ s.resumes b) : c.ask = { c with flight := [(mapUnit, 1)] } := by
  obtain ⟨x, -, rfl⟩ := List.mem_map.1 h
  rfl

/-- The block with its commands as they resume. -/
def Block.resuming (b : Block) (cs : List CopyCmd) : Block := { b with cmds := cs }

theorem State.restCopy_resumes {s : State} {gid : Nat} {g : Group} {b : Block} (hb : s.block? (gid / 32) = some b) (hg : s.group? gid = some g)
    (h7 : b.parts.getLsbD 7 = true) (hl : g.grpLoaded = true) (h5 : b.parts.getLsbD 5 = true) (h4 : b.parts.getLsbD 4 = false) :
    ∃ t tr, s.restCopy gid = some (((s.resumes b).foldl (fun u c => u.readMap (gid / 32) c) t).markPart (gid / 32) 4) ∧
      s.Took t (gid / 32) ((b.resuming (s.resumes b)).noting tr) := by
  obtain ⟨tr, hall⟩ := ((State.Took.refl hb).setBlock (b.resuming (s.resumes b))).restFlits b b.copyOff 2048
  refine ⟨_, tr, ?_, hall⟩
  simp only [State.restCopy, State.restAcc_done hb hg h7 hl h5, hb, h4, Bool.false_eq_true, if_false]
  rfl

theorem State.Asked.goOn {s u : State} {is : Issue} {i : Instr} {bid : Nat} {b : Block} {new : List Req}
    (h : (s.entered is i).Asked u bid b new) : (s.setGroup is.gid (s.gone is i)).Asked (u.goOn (s.issueOf is i)) bid b new := by
  rw [State.goOn_of_groups h.groups]
  unfold State.Asked at h ⊢
  rw [h]
  simp only [State.entered, State.setBlock, State.setGroup, SMap.put_put]

end Sys2Proof.Machine
end

section
/-! CTXREST as words of a firmware entry (R437): each completes with its part. -/

namespace Sys2Proof.Machine

/-- The issuer is a firmware entry of a group of its block, and parts of the save or restore are done. -/
def State.Firm (s : State) (is : Issue) (ps : List Nat) : Prop :=
  is.g.fw = true ∧ is.gid / 32 = is.g.bid ∧ s.block? is.g.bid = some is.b ∧ ∀ p ∈ ps, is.b.parts.getLsbD p = true

section
variable {s u : State} {is : Issue} {ps : List Nat}

theorem State.Firm.block (h : s.Firm is ps) (i : Instr) : (s.entered is i).block? (is.gid / 32) = some is.b := by
  obtain ⟨-, hbid, hb, -⟩ := h
  rw [hbid]
  exact hb

theorem State.Firm.done (h : s.Firm is ps) {p : Nat} (hp : p ∈ ps) : is.b.parts.getLsbD p = true := h.2.2.2 p hp

theorem State.entered_group (s : State) (is : Issue) (i : Instr) : (s.entered is i).group? is.gid = some (s.issueOf is i).g :=
  State.group?_setGroup_same ..

theorem State.entered_saveBytes (s : State) (is : Issue) (i : Instr) (b : Block) (o n : Nat) :
    (s.entered is i).saveBytes b o n = s.saveBytes b o n := rfl

/-- A part that changes a block and the fabric: the word completes, and the firmware entry goes on. -/
theorem State.fwWord_took {i : Instr} {q : Guard} {part : State → Nat → Option State} {b' : Block} (hrun : s.canRun i q = some is)
    (hf : s.Firm is ps) (hpart : part (s.entered is i) is.gid = some u) (hu : (s.entered is i).Took u (is.gid / 32) b') :
    ∃ t, s.fwWord i q part false = .next t ∧ (s.setGroup is.gid (s.gone is i)).Took t is.g.bid b' := by
  obtain ⟨hfw, hbid, -, -⟩ := hf
  exact ⟨_, State.fwWord_canRun hrun hfw hpart, (hbid ▸ hu).goOn⟩

end

/-! ### CTXREST.blk -/

/-- What CTXREST.blk takes into a block: the scratchpad image and the slot table. -/
def Block.Imaged (b b' : Block) (pad tab : List (BitVec 8)) : Prop :=
  b' = { b with scratch := b'.scratch, slots := b'.slots, parts := b.parts ||| 128, traffic := b'.traffic } ∧
  (∀ o < b.spad, b'.byte o = pad.getD o 0) ∧
  (b.slots = [] → ∀ k < 128, (SMap.find? b'.slots k).isSome = bitAt (fieldOf tab (4 * k) 4) 31)

/-- A part that is marked and the flits of its reads leave the rest of the block. -/
theorem Block.imaged_marked {b c : Block} {pad tab : List (BitVec 8)} (tr : List Ticket)
    (hframe : c = { b with scratch := c.scratch, slots := c.slots }) (hpad : ∀ o, c.byte o = pad.getD o 0)
    (htab : b.slots = [] → ∀ k < 128, (SMap.find? c.slots k).isSome = bitAt (fieldOf tab (4 * k) 4) 31) :
    b.Imaged ((c.noting tr).marked 7) pad tab :=
  ⟨congrArg (fun x : Block => (x.noting tr).marked 7) hframe, fun o _ => hpad o, htab⟩

theorem Block.imaged_holds (b : Block) (pad tab : List (BitVec 8)) (tr : List Ticket) :
    b.Imaged (((b.imaged pad tab).noting tr).marked 7) pad tab := by
  have hframe := b.imaged_frame pad tab
  have hslots (h : b.slots = []) (k : Nat) (hk : k < 128) := Block.imaged_slots h pad tab hk
  have hbyte := b.byte_imaged pad tab
  generalize b.imaged pad tab = c at *
  exact Block.imaged_marked tr (by rw [hframe]) hbyte hslots

theorem ctxrestBlk_completes (s : State) (q : Guard) :
    s.CompletesIf (.ctxrestBlk q) q (fun is => s.Firm is [] ∧ is.b.parts.getLsbD 7 = false) fun is u =>
      ∃ b', (s.setGroup is.gid (s.gone is (.ctxrestBlk q))).Took u is.g.bid b' ∧
        is.b.Imaged b' (s.saveBytes is.b is.b.padOff is.b.spad) (s.saveBytes is.b 512 512) := by
  rintro is hrun ⟨hf, h7⟩
  obtain ⟨u, tr, hpart, hu⟩ := State.restBlk_takes (hf.block (.ctxrestBlk q)) h7
  rw [s.entered_saveBytes, s.entered_saveBytes] at hu
  obtain ⟨t, hexec, ht⟩ := State.fwWord_took (part := fun t k => t.restBlk (k / 32)) hrun hf hpart hu
  exact ⟨t, hexec, _, ht, is.b.imaged_holds _ _ tr⟩

/-! ### CTXREST.grp -/

/-- What CTXREST.grp takes into a group that goes on: its record and its s registers. -/
def Issue.Loaded (is : Issue) (h : Group) (rec sr : List (BitVec 8)) : Prop :=
  h = { (is.g.loaded rec).advance is.i with s := h.s, grpLoaded := true, fences := h.fences } ∧
  ∀ i < is.b.scount, h.sreg i = word4 sr i

theorem State.goOn_setGroup_self (u : State) (is : Issue) (g : Group) : (u.setGroup is.gid g).goOn is = u.setGroup is.gid (g.advance is.i) := by
  refine (State.modGroup_some _ _ _ _ (State.group?_setGroup_same ..)).trans ?_
  simp only [State.setGroup, SMap.put_put]

theorem Group.loaded_fences (g : Group) (F : List FenceHold) (rec : List (BitVec 8)) :
    ({ g with fences := F } : Group).loaded rec = { g.loaded rec with fences := F } := by
  simp only [Group.loaded]

theorem Group.filled_advance (g : Group) (S : SMap (BitVec 32)) (F : List FenceHold) (i : Nat) :
    (({ g with fences := F } : Group).filled S).advance i = { (g.advance i).filled S with fences := F } :=
  Group.Apart.advance (f := fun g => g.filled S) (fun _ _ _ _ => rfl) g F i

/-- The group that goes on once its record is restored. -/
def State.goneRestored (s : State) (is : Issue) (i : Instr) (rec sr : List (BitVec 8)) : Group :=
  ((s.issueOf is i).g.restored is.b.scount rec sr).advance is.i

theorem State.goneRestored_eq (s : State) (is : Issue) (i : Instr) (rec sr : List (BitVec 8)) : s.goneRestored is i rec sr =
    { ((is.g.loaded rec).advance is.i).filled (sregsOf is.b.scount sr) with fences := s.fencesLeft is i } := by
  rw [State.goneRestored, Group.restored, State.issueOf, Group.loaded_fences, Group.filled_advance]

theorem State.goneRestored_loaded (s : State) (is : Issue) (i : Instr) (rec sr : List (BitVec 8)) :
    is.Loaded (s.goneRestored is i rec sr) rec sr := by
  rw [State.goneRestored_eq]
  exact ⟨rfl, fun _ hi => (SMap.get_fill ..).trans (if_pos hi)⟩

theorem ctxrestGrp_completes (s : State) (q : Guard) :
    s.CompletesIf (.ctxrestGrp q) q (fun is => s.Firm is [7] ∧ is.g.grpLoaded = false) fun is u => ∃ h tr,
      (s.setGroup is.gid h).Took u is.g.bid (is.b.noting tr) ∧
      is.Loaded h (s.saveBytes is.b (is.b.grpOff + is.g.idx * is.b.recSize) is.b.recSize)
        (s.saveBytes is.b (is.b.sOff + 4 * is.b.scount * is.g.idx) (4 * is.b.scount)) := by
  rintro is hrun ⟨hf, hl⟩
  obtain ⟨u, tr, hpart, hu⟩ := State.restGrp_takes (hf.block (.ctxrestGrp q)) (s.entered_group is (.ctxrestGrp q))
    (hf.done List.mem_cons_self) hl
  obtain ⟨hfw, hbid, -, -⟩ := hf
  refine ⟨_, State.fwWord_canRun hrun hfw hpart, _, tr, ?_, s.goneRestored_loaded is (.ctxrestGrp q) _ _⟩
  rw [hbid] at hu
  exact (State.goOn_setGroup_self u (s.issueOf is (.ctxrestGrp q)) _).symm ▸ hu.setGroup _

/-! ### CTXREST.acc -/

/-- What CTXREST.acc takes into a block: its accumulators and its tiles. -/
def Block.Accumulated (b b' : Block) (a t : List (BitVec 8)) : Prop :=
  b' = { b with accs := b'.accs, tiles := b'.tiles, parts := b.parts ||| 32, traffic := b'.traffic } ∧
  (∀ k < 3072 * b.acc, SMap.get 0 b'.accs k = word4 a k) ∧
  ∀ k < 64, SMap.find? b'.tiles k = if bitAt (fieldOf t k 1) 7 then some (tileOfFields t k) else none

theorem Block.accumulated_holds (b : Block) (a t : List (BitVec 8)) (tr : List Ticket) :
    b.Accumulated (((b.accumulated a t).noting tr).marked 5) a t :=
  ⟨rfl, fun _ hk => b.accumulated_accs a t hk, fun _ hk => b.accumulated_tiles a t hk⟩

theorem ctxrestAcc_completes (s : State) (q : Guard) :
    s.CompletesIf (.ctxrestAcc q) q (fun is => s.Firm is [7] ∧ is.g.grpLoaded = true ∧ is.b.parts.getLsbD 5 = false) fun is u =>
      ∃ b', (s.setGroup is.gid (s.gone is (.ctxrestAcc q))).Took u is.g.bid b' ∧
        is.b.Accumulated b' (s.saveBytes is.b 1024 (12288 * is.b.acc)) (s.saveBytes is.b 32 192) := by
  rintro is hrun ⟨hf, hl, h5⟩
  obtain ⟨u, tr, hpart, hu⟩ := State.restAcc_takes (hf.block (.ctxrestAcc q)) (s.entered_group is (.ctxrestAcc q))
    (hf.done List.mem_cons_self) hl h5
  rw [s.entered_saveBytes, s.entered_saveBytes] at hu
  obtain ⟨t, hexec, ht⟩ := State.fwWord_took (part := State.restAcc) hrun hf hpart hu
  exact ⟨t, hexec, _, ht, is.b.accumulated_holds _ _ tr⟩

end Sys2Proof.Machine
end

section
/-! CTXREST.copy as a word of a firmware entry (R248, R437). -/

namespace Sys2Proof.Machine

theorem State.entered_resumes (s : State) (is : Issue) (i : Instr) (b : Block) : (s.entered is i).resumes b = s.resumes b := rfl

/-- A command that waits for its map record alone. -/
def CopyCmd.mapAsked (c : CopyCmd) : CopyCmd := { c with flight := [(mapUnit, 1)] }

/-- The commands of a restored block, each after its own map record was asked for. -/
theorem State.resumes_asked {s : State} {b : Block} (hn : ((s.resumes b).map (·.key)).Nodup) :
    ((s.resumes b).map fun x => (s.resumes b).foldl (fun y c => askKey c.key y) x) = (s.resumes b).map CopyCmd.mapAsked :=
  List.map_congr_left fun x hx => (askKeys_present _ hn x hx).trans (State.resumes_ask hx)

/-- The block of a restore whose commands have resumed. -/
def Block.resumed (b : Block) (cs : List CopyCmd) (tr : List Ticket) : Block := ((b.resuming cs).noting tr).marked 4

theorem State.Asked.markPart {s t : State} {bid : Nat} {b : Block} {new : List Req} (h : s.Asked t bid b new) (p : Nat) :
    s.Asked (t.markPart bid p) bid (b.marked p) new := h.modBlock _

/-- The map records of the commands that resume are asked for. -/
theorem State.resumes_readMaps {s t : State} {bid : Nat} {b : Block} {tr : List Ticket} {cx : Context} {ia : CopyCmd → Nat}
    (ht : s.Took t bid ((b.resuming (s.resumes b)).noting tr)) (hghosts : b.ghosts = []) (hn : ((s.resumes b).map (·.key)).Nodup)
    (hcx : s.ctx? b.ctx = some cx)
    (hcs : ∀ c ∈ s.resumes b, c.mapVA % 64 = 0 ∧ ∃ chk, cx.translate c.mapVA acRead = .ok (ia c, chk)) :
    ∃ new, s.Asked (((s.resumes b).foldl (fun u c => u.readMap bid c) t).markPart bid 4) bid
        (b.resumed ((s.resumes b).map CopyCmd.mapAsked) tr) new ∧
      new.map (fun k => (k.who, k.kind, k.width, k.lanes.map (·.ia))) =
        (s.resumes b).map fun c => (Requester.copy bid c.key mapUnit, ReqKind.load, 64, [ia c]) := by
  obtain ⟨new, hnew, hshape⟩ := State.Asked.readMaps (s.resumes b) hcs ht.asked hghosts hcx
  refine ⟨new, ?_, hshape⟩
  rw [← State.resumes_asked hn]
  exact hnew.markPart 4

/-- What CTXREST.copy does: the commands resume, and each that has a map record within its segments asks for it. -/
def State.Resumed (s u : State) (is : Issue) (h : Group) : Prop :=
  (s.resumes is.b = [] → ∃ tr, (s.setGroup is.gid h).Took u is.g.bid (is.b.resumed [] tr)) ∧
  ∀ cx, is.b.ghosts = [] → ((s.resumes is.b).map (·.key)).Nodup → s.ctx? is.b.ctx = some cx →
    ∀ ia : CopyCmd → Nat, (∀ c ∈ s.resumes is.b, c.mapVA % 64 = 0 ∧ ∃ chk, cx.translate c.mapVA acRead = .ok (ia c, chk)) →
    ∃ tr new, (s.setGroup is.gid h).Asked u is.g.bid (is.b.resumed ((s.resumes is.b).map CopyCmd.mapAsked) tr) new ∧
      new.map (fun k => (k.who, k.kind, k.width, k.lanes.map (·.ia))) =
        (s.resumes is.b).map fun c => (Requester.copy is.g.bid c.key mapUnit, ReqKind.load, 64, [ia c])

theorem ctxrestCopy_completes (s : State) (q : Guard) :
    s.CompletesIf (.ctxrestCopy q) q (fun is => s.Firm is [7, 5] ∧ is.g.grpLoaded = true ∧ is.b.parts.getLsbD 4 = false) fun is u =>
      s.Resumed u is (s.gone is (.ctxrestCopy q)) := by
  rintro is hrun ⟨hf, hl, h4⟩
  obtain ⟨t, tr, hpart, ht⟩ := State.restCopy_resumes (hf.block (.ctxrestCopy q)) (s.entered_group is (.ctxrestCopy q))
    (hf.done List.mem_cons_self) hl (hf.done (List.mem_cons_of_mem _ List.mem_cons_self)) h4
  rw [s.entered_resumes] at hpart ht
  obtain ⟨hfw, hbid, -, -⟩ := hf
  rw [hbid] at hpart ht
  refine ⟨_, State.fwWord_canRun hrun hfw hpart, fun hnone => ?_, fun cx hghosts hn hcx ia hcs => ?_⟩
  · rw [hnone] at ht ⊢
    exact ⟨tr, (ht.markPart 4).goOn⟩
  · obtain ⟨new, hnew, hshape⟩ := State.resumes_readMaps (s := s.entered is (.ctxrestCopy q)) ht hghosts hn hcx hcs
    exact ⟨tr, new, hnew.goOn, hshape⟩

end Sys2Proof.Machine
end

section
/-! CTXSAVE.copy and CTXSAVE.acc (R199 to R201, R248, R249, R437): runs of bytes go into the save area, and the firmware entry goes on. -/

namespace Sys2Proof.Machine

/-! ### Writes of the save area leave the groups -/

theorem State.saveFlit_groups (s : State) (bid : Nat) (b : Block) (back : Bool) (va : Nat) : (s.saveFlit bid b back va).groups = s.groups := by
  have hfab {t u : State} (h : t.SameButFab u) : u.groups = t.groups := by rw [h]
  unfold State.saveFlit
  split
  · rfl
  · refine (State.modBlock_groups ..).trans (hfab ?_)
    split
    · exact (State.message_fab ..).trans (State.message_fab ..)
    · exact State.message_fab ..

theorem State.saveWrite_groups (s : State) (bid : Nat) (b : Block) (off : Nat) (bytes : List (BitVec 8)) :
    (s.saveWrite bid b off bytes).groups = s.groups := by
  refine foldl_keeps (fun t : State => t.groups = s.groups) _ _ s rfl fun t p h => ?_
  split
  · next u hu => exact ((State.saveFlit_groups ..).trans (State.ctxWrite_wrote t u _ _ _ hu).groups).trans h
  · exact h

theorem State.markPart_groups (s : State) (bid p : Nat) : (s.markPart bid p).groups = s.groups := s.modBlock_groups bid _

/-! ### CTXSAVE.copy -/

/-- What a state asks for that no requester of a kind waits for any more. -/
def State.withdrawn (s : State) (mine : Requester → Bool) : State :=
  { s with md := { s.md with reqs := s.md.reqs.filter fun r => !mine r.who, held := s.md.held.filter fun h => !mine h.req.who } }

theorem State.dropCopies (bid : Nat) (ds : List CopyCmd) : ∀ s : State,
    ds.foldl (fun t c => t.dropCopy bid c.key fun _ => true) s = s.withdrawn fun w => ds.any fun c => ofCopy bid c.key w := by
  induction ds with
  | nil => intro s; simp [State.withdrawn]
  | cons d ds ih =>
    intro s
    rw [List.foldl_cons, ih]
    simp [State.withdrawn, State.dropCopy, State.modMd, List.filter_filter, Bool.and_comm]

/-- Runs of bytes go into the save area of a block, and the part that they make up is marked. -/
def State.savesPart (s : State) (bid : Nat) (b : Block) (runs : List (Nat × List (BitVec 8))) (p : Nat) : State :=
  (runs.foldl (fun t r => t.saveWrite bid b r.1 r.2) s).markPart bid p

theorem State.savesPart_groups (s : State) (bid : Nat) (b : Block) (runs : List (Nat × List (BitVec 8))) (p : Nat) :
    (s.savesPart bid b runs p).groups = s.groups := by
  rw [State.savesPart, State.markPart_groups]
  exact foldl_keeps (fun t : State => t.groups = s.groups) _ runs s rfl fun t r h => (t.saveWrite_groups bid b r.1 r.2).trans h

/-- A command with no unit under way (R249), and a block whose commands have stopped so: those that are admitted remain. -/
def CopyCmd.stopped (c : CopyCmd) : CopyCmd := { c with flight := [], replies := [], got := [], fails := [] }
def Block.admitted (b : Block) : List CopyCmd := (b.cmds.filter fun c => c.stage == 2).take 32
def Block.stopped (b : Block) : Block := { b with cmds := b.admitted.map CopyCmd.stopped, ghosts := [] }

/-- The progress records of the block's save area (R248). -/
def Block.progress (b : Block) : List (BitVec 8) :=
  ((b.admitted.map fun c => c.stopped.progress).flatten ++ toBytes 2048 0).take 2048

/-- Whether a requester is one of a block's commands. -/
def Block.asks (b : Block) (bid : Nat) (w : Requester) : Bool := (b.cmds ++ b.ghosts).any fun c => ofCopy bid c.key w

theorem State.saveCopy_saves {s : State} {bid : Nat} {b : Block} (hb : s.block? bid = some b) (h0 : b.parts.getLsbD 0 = false)
    (hbusy : s.copyBusy bid b = false) :
    s.saveCopy bid = some (((s.setBlock bid b.stopped).withdrawn (b.asks bid)).savesPart bid b [(b.copyOff, b.progress)] 0) := by
  have hcmds : ((b.admitted.map CopyCmd.stopped).map CopyCmd.progress) = b.admitted.map fun c => c.stopped.progress := List.map_map
  unfold State.saveCopy
  simp only [hb, h0, hbusy, Bool.false_eq_true, if_false]
  rw [State.dropCopies, State.modBlock_some _ _ _ _ hb]
  exact congrArg (fun ps => some (((s.setBlock bid b.stopped).withdrawn (b.asks bid)).savesPart bid b
    [(b.copyOff, (ps.flatten ++ toBytes 2048 0).take 2048)] 0)) hcmds

/-- A part that leaves the groups: the word completes, and the firmware entry goes on. -/
theorem State.fwWord_saves {s u : State} {i : Instr} {q : Guard} {is : Issue} {part : State → Nat → Option State} {ps : List Nat}
    (hrun : s.canRun i q = some is) (hf : s.Firm is ps) (hpart : part (s.entered is i) is.gid = some u)
    (hgroups : u.groups = (s.entered is i).groups) : s.fwWord i q part false = .next (u.setGroup is.gid (s.gone is i)) := by
  obtain ⟨hfw, -⟩ := hf
  rw [State.fwWord_canRun hrun hfw hpart, ← State.goOn_of_groups hgroups]
  rfl

theorem State.entered_copyBusy (s : State) (is : Issue) (i : Instr) (bid : Nat) (b : Block) :
    (s.entered is i).copyBusy bid b = s.copyBusy bid b := rfl

theorem ctxsaveCopy_completes (s : State) (q : Guard) :
    s.CompletesIf (.ctxsaveCopy q) q (fun is => s.Firm is [] ∧ is.b.parts.getLsbD 0 = false ∧ s.copyBusy is.g.bid is.b = false) fun is u =>
      u = ((((s.entered is (.ctxsaveCopy q)).setBlock is.g.bid is.b.stopped).withdrawn (is.b.asks is.g.bid)).savesPart is.g.bid is.b
        [(is.b.copyOff, is.b.progress)] 0).setGroup is.gid (s.gone is (.ctxsaveCopy q)) := by
  rintro is hrun ⟨hf, h0, hbusy⟩
  have hb := hf.block (.ctxsaveCopy q)
  have hbid : is.gid / 32 = is.g.bid := hf.2.1
  have hpart := State.saveCopy_saves hb h0 (by rw [hbid, State.entered_copyBusy]; exact hbusy)
  refine ⟨_, State.fwWord_saves (part := fun t k => t.saveCopy (k / 32)) hrun hf hpart ?_, by rw [hbid]⟩
  rw [State.savesPart_groups]
  rfl

/-! ### CTXSAVE.acc -/

theorem State.saveCopy_done {s : State} {bid : Nat} {b : Block} (hb : s.block? bid = some b) (h0 : b.parts.getLsbD 0 = true) :
    s.saveCopy bid = some s := by
  simp only [State.saveCopy, hb, h0, if_true]

/-- The accumulator units and the tile fields, with their offsets (R199, R200). -/
def Block.accRuns (b : Block) : List (Nat × List (BitVec 8)) :=
  [(1024, ((List.range (3072 * b.acc)).map fun k => toBytes 4 (SMap.get 0 b.accs k).toNat).flatten), (32, b.tileFields)]

theorem words4_map {α : Type} (l : List α) (f : α → Nat) : words4 (l.map f) = (l.map fun x => toBytes 4 (f x)).flatten := by
  rw [words4, List.map_map]
  rfl

theorem State.saveAcc_saves {s : State} {bid : Nat} {b : Block} (hb : s.block? bid = some b) (h0 : b.parts.getLsbD 0 = true)
    (h1 : b.parts.getLsbD 1 = false) (hbusy : s.engineBusy bid = false) : s.saveAcc bid = some (s.savesPart bid b b.accRuns 1) := by
  simp only [State.saveAcc, State.saveCopy_done hb h0, hb, h1, hbusy, Bool.false_eq_true, if_false, words4_map]
  rfl

/-- The fences that a word has met are nothing to the engines. -/
theorem State.entered_engineBusy {s : State} {is : Issue} (hg : s.group? is.gid = some is.g) (i : Instr) (bid : Nat) :
    (s.entered is i).engineBusy bid = s.engineBusy bid :=
  SMap.any_entries_put (p := fun g : Group => g.bid == bid && (g.mma.isSome || !g.tileWords.isEmpty || !g.kwords.isEmpty)) hg rfl

theorem ctxsaveAcc_completes (s : State) (q : Guard) :
    s.CompletesIf (.ctxsaveAcc q) q (fun is => s.Firm is [0] ∧ is.b.parts.getLsbD 1 = false ∧ s.engineBusy is.g.bid = false) fun is u =>
      u = ((s.entered is (.ctxsaveAcc q)).savesPart is.g.bid is.b is.b.accRuns 1).setGroup is.gid (s.gone is (.ctxsaveAcc q)) := by
  rintro is hrun ⟨hf, h1, hbusy⟩
  obtain ⟨-, hg, -⟩ := State.canRun_spec _ _ _ _ hrun
  have hb := hf.block (.ctxsaveAcc q)
  have hbid : is.gid / 32 = is.g.bid := hf.2.1
  have hpart := State.saveAcc_saves hb (hf.done List.mem_cons_self) h1 (by rw [hbid, State.entered_engineBusy hg]; exact hbusy)
  refine ⟨_, State.fwWord_saves (part := fun t k => t.saveAcc (k / 32)) hrun hf hpart ?_, by rw [hbid]⟩
  rw [State.savesPart_groups]

end Sys2Proof.Machine
end

section
/-! CTXSAVE.grp (R201, R437): the record and the s registers of a group go into the save area. -/

namespace Sys2Proof.Machine

theorem State.saveAcc_done {s : State} {bid : Nat} {b : Block} (hb : s.block? bid = some b) (h0 : b.parts.getLsbD 0 = true)
    (h1 : b.parts.getLsbD 1 = true) : s.saveAcc bid = some s := by
  simp only [State.saveAcc, State.saveCopy_done hb h0, hb, h1, if_true]

theorem State.saveGrp_done {s : State} {gid : Nat} {g : Group} {b : Block} (hb : s.block? (gid / 32) = some b) (hg : s.group? gid = some g)
    (h0 : b.parts.getLsbD 0 = true) (h1 : b.parts.getLsbD 1 = true) (hs : g.grpSaved = true) : s.saveGrp gid = some s := by
  simp only [State.saveGrp, State.saveAcc_done hb h0 h1, hg, hb, hs, if_true]

/-- A group whose record stands in the save area. -/
def Group.written (g : Group) : Group := { g.unsure with grpSaved := true }

/-- The record and the s registers of a group go into its block's save area (R199, R201). -/
def State.saveGroup (s : State) (bid : Nat) (b : Block) (g : Group) : State :=
  (s.saveWrite bid b (b.grpOff + g.idx * b.recSize) g.unsure.saved).saveWrite bid b (b.sOff + 4 * b.scount * g.idx)
    ((List.range b.scount).map fun i => toBytes 4 (g.sreg i).toNat).flatten

theorem State.saveGroup_groups (s : State) (bid : Nat) (b : Block) (g : Group) : (s.saveGroup bid b g).groups = s.groups :=
  (State.saveWrite_groups ..).trans (State.saveWrite_groups ..)

theorem State.saveGrp_saves {s : State} {gid : Nat} {g : Group} {b : Block} (hb : s.block? (gid / 32) = some b) (hg : s.group? gid = some g)
    (h0 : b.parts.getLsbD 0 = true) (h1 : b.parts.getLsbD 1 = true) (hs : g.grpSaved = false) (hsettled : s.groupSettled gid = true) :
    s.saveGrp gid = some (((s.saveGroup (gid / 32) b g).detach gid).setGroup gid g.written) := by
  have hkept : ((s.saveGroup (gid / 32) b g).detach gid).group? gid = some g := by
    rw [← hg]
    exact congrArg (fun m => SMap.find? m gid) (s.saveGroup_groups (gid / 32) b g)
  rw [← State.modGroup_some _ _ _ Group.written hkept]
  simp only [State.saveGrp, State.saveAcc_done hb h0 h1, hg, hb, hs, hsettled, Bool.false_eq_true, Bool.not_true, if_false, words4_map]
  rfl

/-! ### A group without the fences that its word has met -/

theorem Group.saved_fences (g : Group) (F : List FenceHold) : ({ g with fences := F } : Group).saved = g.saved := rfl

theorem Group.unsure_fences (g : Group) (F : List FenceHold) :
    ({ g with fences := F } : Group).unsure = { g.unsure with fences := F } := rfl

theorem State.saveGroup_fences (s : State) (bid : Nat) (b : Block) (g : Group) (F : List FenceHold) :
    s.saveGroup bid b { g with fences := F } = s.saveGroup bid b g := by
  simp only [State.saveGroup]
  rw [Group.unsure_fences, Group.saved_fences]
  rfl

theorem State.entered_groupSettled {s : State} {is : Issue} (hg : s.group? is.gid = some is.g) (i : Instr) :
    (s.entered is i).groupSettled is.gid = s.groupSettled is.gid := by
  unfold State.groupSettled
  rw [State.entered_group, hg]
  rfl

/-- The group that goes on once its record is written. -/
def State.goneSaved (s : State) (is : Issue) (i : Instr) : Group := (s.issueOf is i).g.written.advance is.i

theorem State.goneSaved_eq (s : State) (is : Issue) (i : Instr) :
    s.goneSaved is i = { is.g.unsure.advance is.i with grpSaved := true, fences := s.fencesLeft is i } :=
  Group.Apart.advance (f := fun g => { g with grpSaved := true }) (fun _ _ _ _ => rfl) is.g.unsure (s.fencesLeft is i) is.i

theorem State.goneSaved_spec (s : State) (is : Issue) (i : Instr) :
    s.goneSaved is i = { is.g.unsure.advance is.i with grpSaved := true, fences := (s.goneSaved is i).fences } := by
  rw [State.goneSaved_eq]

theorem ctxsaveGrp_completes (s : State) (q : Guard) :
    s.CompletesIf (.ctxsaveGrp q) q (fun is => s.Firm is [0, 1] ∧ is.g.grpSaved = false ∧ s.groupSettled is.gid = true) fun is u =>
      u = (((s.entered is (.ctxsaveGrp q)).saveGroup is.g.bid is.b is.g).detach is.gid).setGroup is.gid (s.goneSaved is (.ctxsaveGrp q)) := by
  rintro is hrun ⟨hf, hs, hsettled⟩
  obtain ⟨-, hg, -⟩ := State.canRun_spec _ _ _ _ hrun
  rw [← State.entered_groupSettled hg (.ctxsaveGrp q)] at hsettled
  have hpart := State.saveGrp_saves (hf.block (.ctxsaveGrp q)) (s.entered_group is (.ctxsaveGrp q)) (hf.done List.mem_cons_self)
    (hf.done (List.mem_cons_of_mem _ List.mem_cons_self)) hs hsettled
  obtain ⟨hfw, hbid, -, -⟩ := hf
  refine ⟨_, State.fwWord_canRun hrun hfw hpart, ?_⟩
  rw [hbid, State.issueOf, State.saveGroup_fences]
  exact State.goOn_setGroup_self _ (s.issueOf is (.ctxsaveGrp q)) _

end Sys2Proof.Machine
end

section
/-! CTXSAVE.blk before its writes are acknowledged (R200, R437): the header and the scratchpad image go into the save area. -/

namespace Sys2Proof.Machine

/-- The block once the counts of its slots stand in their objects. -/
def Block.counted (b : Block) : Block := (SMap.entries b.slots).foldl (fun x sl => x.writeBack sl.2 true) b

theorem Block.writeBack_spad (b : Block) (sl : Slot) (bound : Bool) : (b.writeBack sl bound).spad = b.spad := by
  simp only [Block.writeBack, Block.writeN]

theorem Block.counted_spad (b : Block) : b.counted.spad = b.spad :=
  foldl_keeps (fun x : Block => x.spad = b.spad) _ _ b rfl fun x sl h => (x.writeBack_spad sl.2 true).trans h

/-- The record of every group of a block stands in the save area. -/
def State.groupsSaved (s : State) (bid : Nat) (b : Block) : Prop := ∀ k ∈ Block.gids bid b, ∃ g, s.group? k = some g ∧ g.grpSaved = true

theorem State.groupsSaved_all {s : State} {bid : Nat} {b : Block} (h : s.groupsSaved bid b) :
    ((Block.gids bid b).all fun k => (s.group? k).any (·.grpSaved)) = true := by
  refine List.all_eq_true.2 fun k hk => ?_
  obtain ⟨g, hg, hsaved⟩ := h k hk
  rw [hg]
  exact hsaved

theorem State.entered_groupsSaved {s : State} {is : Issue} (hs : is.g.grpSaved = true) {bid : Nat} {b : Block} (h : s.groupsSaved bid b)
    (i : Instr) : (s.entered is i).groupsSaved bid b := by
  intro k hk
  by_cases hkg : k = is.gid
  · subst hkg
    exact ⟨_, s.entered_group is i, hs⟩
  · obtain ⟨g, hg, hsaved⟩ := h k hk
    exact ⟨g, (SMap.find_put_other _ _ _ _ hkg).trans hg, hsaved⟩

/-- The header and the scratchpad image, with their offsets (R199, R200). -/
def State.blkRuns (s : State) (b : Block) : List (Nat × List (BitVec 8)) :=
  [(0, (s.header b.counted).1), (224, (s.header b.counted).2), (b.padOff, (List.range b.spad).map b.counted.byte)]

theorem State.saveBlk_saves {s : State} {gid : Nat} {g : Group} {b : Block} (hb : s.block? (gid / 32) = some b) (hg : s.group? gid = some g)
    (h0 : b.parts.getLsbD 0 = true) (h1 : b.parts.getLsbD 1 = true) (hs : g.grpSaved = true) (hall : s.groupsSaved (gid / 32) b)
    (h3 : b.parts.getLsbD 3 = false) (hquiet : ((s.blockStores (gid / 32) || s.padBusy (gid / 32) b) && !b.borrowed) = false) :
    s.saveBlk gid = some ((s.setBlock (gid / 32) b.counted).savesPart (gid / 32) b (s.blkRuns b) 3) := by
  have hpad : (List.range b.counted.spad).map b.counted.byte = (List.range b.spad).map b.counted.byte := by rw [Block.counted_spad]
  unfold State.blkRuns
  rw [← hpad]
  simp only [State.saveBlk, State.saveGrp_done hb hg h0 h1 hs, hb, State.groupsSaved_all hall, h3, hquiet, Bool.not_true, Bool.false_eq_true,
    if_false]
  rfl

/-- No store or copy to the scratchpad holds the image back (R174, R208, R243). -/
def State.padQuiet (s : State) (bid : Nat) (b : Block) : Prop :=
  (s.blockStores bid = false ∧ s.padBusy bid b = false) ∨ b.borrowed = true

theorem State.padQuiet_eq {s : State} {bid : Nat} {b : Block} (h : s.padQuiet bid b) :
    ((s.blockStores bid || s.padBusy bid b) && !b.borrowed) = false := by
  rcases h with ⟨hstores, hpad⟩ | hborrowed
  · rw [hstores, hpad]; rfl
  · rw [hborrowed]; exact Bool.and_false _

theorem State.entered_padQuiet {s : State} {is : Issue} {bid : Nat} {b : Block} (h : s.padQuiet bid b) (i : Instr) :
    (s.entered is i).padQuiet bid b := h

theorem State.entered_blkRuns (s : State) (is : Issue) (i : Instr) (b : Block) : (s.entered is i).blkRuns b = s.blkRuns b := rfl

theorem ctxsaveBlk_completes (s : State) (q : Guard) :
    s.CompletesIf (.ctxsaveBlk q) q (fun is => (s.Firm is [0, 1] ∧ is.g.grpSaved = true ∧ s.groupsSaved is.g.bid is.b) ∧
        is.b.parts.getLsbD 3 = false ∧ s.padQuiet is.g.bid is.b) fun is u =>
      u = ((s.entered is (.ctxsaveBlk q)).setBlock is.g.bid is.b.counted).savesPart is.g.bid is.b (s.blkRuns is.b) 3 := by
  rintro is hrun ⟨⟨hf, hs, hall⟩, h3, hquiet⟩
  have hb := hf.block (.ctxsaveBlk q)
  obtain ⟨hfw, hbid, -, hparts⟩ := hf
  rw [← hbid] at hall hquiet
  refine ⟨_, State.fwWord_canRun hrun hfw (State.saveBlk_saves hb (s.entered_group is (.ctxsaveBlk q)) (hparts 0 List.mem_cons_self)
    (hparts 1 (List.mem_cons_of_mem _ List.mem_cons_self)) hs (State.entered_groupsSaved hs hall _) h3
    (State.padQuiet_eq (State.entered_padQuiet hquiet _))), ?_⟩
  rw [hbid, State.entered_blkRuns]
  rfl

end Sys2Proof.Machine
end

section
/-! CTXSAVE.blk once its writes are acknowledged (R144, R202, R437): the block is saved and its groups are put away. -/

namespace Sys2Proof.Machine

theorem State.flushCore_sameTasks (s : State) (c ctx : Nat) : s.SameTasks (s.flushCore c ctx) := by
  have hcore (t : State) (f : Core → Core) : t.SameTasks (t.modCore c f) := ⟨rfl, rfl, rfl⟩
  unfold State.flushCore
  split
  · exact .refl s
  · refine State.SameTasks.trans ?_ (hcore _ _)
    split
    · exact .refl s
    · exact foldl_keeps (State.SameTasks s) _ _ s (.refl s) fun t e h => h.trans (State.funcWrite_wrote ..).sameTasks

/-- A block that has been saved (R144). -/
def Block.saved (b : Block) (now : Nat) : Block :=
  { b with phase := .saved, parts := 0, traffic := [], scratch := [], accs := [], tiles := [], copies := [], slots := [], placedAt := now }

/-- The state of a save that ends, before the core's counts are flushed and the timetable hears of it. -/
def State.putAway (s : State) (bid : Nat) (b : Block) : State :=
  ((Block.gids bid b).foldl (fun t k => t.modGroup k Group.putAway)
    (s.blockLog b 0x15 (if b.borrowed then 1 else 0) (toBytes 8 (s.areaVA b)))).setBlock bid (b.saved s.now)

theorem State.putAway_block (s : State) (bid : Nat) (b : Block) : (s.putAway bid b).block? bid = some (b.saved s.now) :=
  State.block?_setBlock_same ..

theorem State.putAway_group {s : State} {bid : Nat} {b : Block} {k : Nat} (hk : k ∈ Block.gids bid b) {g : Group} (hg : s.group? k = some g) :
    (s.putAway bid b).group? k = some g.putAway := by
  have hlog : (s.blockLog b 0x15 (if b.borrowed then 1 else 0) (toBytes 8 (s.areaVA b))).group? k = some g := by
    rw [← hg]
    exact congrArg (SMap.find? · k) (s.blockLog_sameTasks b _ _ _).groups
  have heach := State.modGroups_each id (fun _ => Group.putAway) (Block.gids bid b) (by rw [List.map_id]; exact groupKeys_nodup ..)
    (s.blockLog b 0x15 (if b.borrowed then 1 else 0) (toBytes 8 (s.areaVA b))) k hk
  exact heach.trans (by rw [id, hlog]; rfl)

theorem State.endSave_putAway {s : State} {bid : Nat} {b : Block} (hb : s.block? bid = some b) :
    (s.endSave bid).blocks = (s.putAway bid b).blocks ∧ (s.endSave bid).groups = (s.putAway bid b).groups := by
  have hflush (last : Bool) : (s.putAway bid b).SameTasks (if last then (s.putAway bid b).flushCore b.core b.ctx else s.putAway bid b) := by
    cases last
    · exact .refl _
    · exact State.flushCore_sameTasks ..
  simp only [State.endSave, hb]
  split
  · exact ⟨(hflush _).blocks, (hflush _).groups⟩
  · exact ⟨(hflush _).blocks, (hflush _).groups⟩

/-- What a save leaves of its block and its groups. -/
def State.SavedBlock (s u : State) (bid : Nat) (b : Block) : Prop :=
  u.block? bid = some (b.saved s.now) ∧
    ∀ k ∈ Block.gids bid b, ∃ h, u.group? k = some h ∧ h.fw = false ∧ h.halted = true ∧ h.entries = []

theorem State.endSave_savedBlock {s : State} {bid : Nat} {b : Block} (hb : s.block? bid = some b) (hall : s.groupsSaved bid b) :
    s.SavedBlock (s.endSave bid) bid b := by
  obtain ⟨hblocks, hgroups⟩ := State.endSave_putAway hb
  refine ⟨(congrArg (SMap.find? · bid) hblocks).trans (State.putAway_block ..), fun k hk => ?_⟩
  obtain ⟨g, hg, -⟩ := hall k hk
  exact ⟨g.putAway, (congrArg (SMap.find? · k) hgroups).trans (State.putAway_group hk hg), rfl, rfl, rfl⟩

theorem State.saveBlk_ends {s : State} {gid : Nat} {g : Group} {b : Block} (hb : s.block? (gid / 32) = some b) (hg : s.group? gid = some g)
    (h0 : b.parts.getLsbD 0 = true) (h1 : b.parts.getLsbD 1 = true) (hs : g.grpSaved = true) (hall : s.groupsSaved (gid / 32) b)
    (h3 : b.parts.getLsbD 3 = true) (hacked : s.saveAcked b = true) : s.saveBlk gid = some (s.endSave (gid / 32)) := by
  simp only [State.saveBlk, State.saveGrp_done hb hg h0 h1 hs, hb, State.groupsSaved_all hall, h3, hacked, Bool.not_true, Bool.false_eq_true,
    if_false, if_true]

theorem State.entered_saveAcked (s : State) (is : Issue) (i : Instr) (b : Block) : (s.entered is i).saveAcked b = s.saveAcked b := rfl

theorem ctxsaveBlk_ends (s : State) (q : Guard) :
    s.CompletesIf (.ctxsaveBlk q) q (fun is => (s.Firm is [0, 1] ∧ is.g.grpSaved = true ∧ s.groupsSaved is.g.bid is.b) ∧
        is.b.parts.getLsbD 3 = true ∧ s.saveAcked is.b = true) fun is u => s.SavedBlock u is.g.bid is.b := by
  rintro is hrun ⟨⟨hf, hs, hall⟩, h3, hacked⟩
  have hb := hf.block (.ctxsaveBlk q)
  obtain ⟨hfw, hbid, -, hparts⟩ := hf
  rw [← hbid] at hall
  have hall' := State.entered_groupsSaved hs hall (.ctxsaveBlk q)
  rw [← s.entered_saveAcked is (.ctxsaveBlk q)] at hacked
  refine ⟨_, State.fwWord_canRun hrun hfw (State.saveBlk_ends hb (s.entered_group is (.ctxsaveBlk q)) (hparts 0 List.mem_cons_self)
    (hparts 1 (List.mem_cons_of_mem _ List.mem_cons_self)) hs hall' h3 hacked), ?_⟩
  show s.SavedBlock _ is.g.bid is.b
  rw [if_pos rfl, ← hbid]
  exact State.endSave_savedBlock hb hall'

end Sys2Proof.Machine
end

section
/-! Saving and restoring a block (R199 to R202, R437), assembled from its words. -/

namespace Sys2Proof.Machine

/-- Settles O37: each word of a save or a restore completes with its part. -/
theorem saveAndRestore : Obligations.SaveAndRestore := by
  unfold Obligations.SaveAndRestore
  intro s q
  refine ⟨?_, ?_, ?_, ⟨?_, ?_⟩, ?_, ?_, ?_, ?_⟩
  · rintro is hrun ⟨hf, h0, hbusy⟩
    obtain ⟨u, hexec, hu⟩ := ctxsaveCopy_completes s q is hrun ⟨hf, h0, hbusy⟩
    exact ⟨u, hexec, _, _, _, s.gone_spec is _, rfl, rfl, hu⟩
  · rintro is hrun ⟨hf, h1, hbusy⟩
    obtain ⟨u, hexec, hu⟩ := ctxsaveAcc_completes s q is hrun ⟨hf, h1, hbusy⟩
    exact ⟨u, hexec, _, s.gone_spec is _, hu⟩
  · rintro is hrun ⟨hf, hs, hsettled⟩
    obtain ⟨u, hexec, hu⟩ := ctxsaveGrp_completes s q is hrun ⟨hf, hs, hsettled⟩
    exact ⟨u, hexec, _, _, s.goneSaved_spec is _, rfl, hu⟩
  · exact ctxsaveBlk_completes s q
  · exact ctxsaveBlk_ends s q
  · rintro is hrun ⟨hf, h7⟩
    obtain ⟨u, hexec, b', hu, hb'⟩ := ctxrestBlk_completes s q is hrun ⟨hf, h7⟩
    exact ⟨u, hexec, _, b', s.gone_spec is _, hu, hb'⟩
  · rintro is hrun ⟨hf, hl⟩
    obtain ⟨u, hexec, h, tr, hu, hh⟩ := ctxrestGrp_completes s q is hrun ⟨hf, hl⟩
    exact ⟨u, hexec, h, _, hu, rfl, hh⟩
  · rintro is hrun ⟨hf, hl, h5⟩
    obtain ⟨u, hexec, b', hu, hb'⟩ := ctxrestAcc_completes s q is hrun ⟨hf, hl, h5⟩
    exact ⟨u, hexec, _, b', s.gone_spec is _, hu, hb'⟩
  · rintro is hrun ⟨hf, hl, h4⟩
    obtain ⟨u, hexec, hnone, hsome⟩ := ctxrestCopy_completes s q is hrun ⟨hf, hl, h4⟩
    refine ⟨u, hexec, fun hcs => ?_, fun cx hghosts hn hcx ia hcs => ?_⟩
    · obtain ⟨tr, hu⟩ := hnone hcs
      exact ⟨_, _, s.gone_spec is _, hu, rfl⟩
    · obtain ⟨tr, new, hu, hshape⟩ := hsome cx hghosts hn hcx ia hcs
      exact ⟨_, _, new, s.gone_spec is _, hu, rfl, hshape⟩

end Sys2Proof.Machine
end
